-- ==== Sys2Proof/Word.lean ====
section
/-! DEFINITION. The word types of the VG512: addresses, lines, codewords. -/

namespace Sys2Proof

/-- A 32-bit register value (12_registers_events, opening). -/
abbrev Word := BitVec 32
abbrev Byte := BitVec 8
/-- System address SA[51:0] (R29). -/
abbrev SysAddr := BitVec 52
/-- Port address PA[47:0] (R36). -/
abbrev PortAddr := BitVec 48
/-- Line address SA[51:7]. -/
abbrev LineAddr := BitVec 45
/-- Node ID, SA[51:43] (R24). -/
abbrev NodeId := BitVec 9
/-- 128 line bytes, byte b in bits 8b+7..8b (R9). -/
abbrev LineBytes := BitVec 1024
/-- Byte mask of a store, bit b for byte b (Table 11.6). -/
abbrev ByteMask := BitVec 128
/-- Poison mask, bit n for bytes 8n..8n+7 (R342). -/
abbrev PoisonMask := BitVec 16
/-- Outer codeword W[79:0] (R309). -/
abbrev Codeword := BitVec 80
/-- 16 outer codewords, word n in bits 80n+79..80n (PL-C of Table 11.6). -/
abbrev CodeLine := BitVec 1280
/-- Agent port An. -/
abbrev Port := Fin 6
/-- Stile link Ld. -/
abbrev LinkNo := Fin 6
/-- Slice Sn. -/
abbrev SliceNo := Fin 32
/-- CMI channel Cn. -/
abbrev ChanNo := Fin 8
/-- Memory port Mn. -/
abbrev MemNo := Fin 2
/-- Transaction tag of an agent port (R345). -/
abbrev Tag := BitVec 12

end Sys2Proof
end

