-- ==== Sys2Proof/Syntax.lean ====
section
/-! DEFINITION. The commands of the VG512: one constructor of Instr for each row of spec/opcode_table.json,
with the operands that the row's event, request or register write carries. -/

namespace Sys2Proof

/-- A unit with the shared physical layer of R335: an agent port or a Stile link. -/
inductive LinkUnit where
  | port (p : Port)
  | stile (l : LinkNo)
  deriving DecidableEq, Repr

/-- Kind of an agent port (R15). -/
inductive PortKind where
  | caching | nonCaching | off
  deriving DecidableEq, Repr

/-- Read modes of the flash (R403). -/
inductive FlashMode where
  | m111 | m114 | m144
  deriving DecidableEq, Repr

/-- What the SFDP table of the attached flash says (R403). -/
structure FlashInfo where
  mode : FlashMode
  clockMHz : Nat
  size : Nat
  erase4K : Bool
  page256 : Bool
  deriving DecidableEq, Repr

/-- Header fields common to agent requests (Table 11.2). -/
structure ReqHdr where
  port : Port
  cls : BitVec 2
  tag : Tag
  ch : BitVec 3
  addr : BitVec 52
  deriving DecidableEq, Repr

/-- Data of a store: PL-M of Table 11.6. -/
structure StoreData where
  bytes : LineBytes
  mask : ByteMask
  poison : PoisonMask
  deriving DecidableEq, Repr

/-- Data of a full line: PL-L of Table 11.6. -/
structure FullData where
  bytes : LineBytes
  poison : PoisonMask
  deriving DecidableEq, Repr

/-- State an agent reports in a snoop answer (NEWST of Table 11.3). -/
inductive AgSt where
  | i | s | e | o | m
  deriving DecidableEq, Repr

/-- Header fields of a fabric message (Table 11.10) that the receiving node uses. -/
structure FabHdr where
  src : NodeId
  rqn : NodeId
  rtrk : BitVec 11
  htrk : BitVec 11
  bounded : Bool
  line : LineAddr
  deriving DecidableEq, Repr

/-- The payload of a fabric packet (Table 11.11). -/
inductive FabPayload where
  | none
  | line (c : CodeLine)
  | lineMask (c : CodeLine) (mask : ByteMask)
  | atomic (operand compare : BitVec 128)
  | value (v : BitVec 128) (marks : BitVec 2)
  | store (d : StoreData)
  deriving DecidableEq, Repr

/-- A whole Stile packet: header slot of Table 11.10 as its 160 bits, and the payload. -/
structure StilePkt where
  hdr : BitVec 160
  payload : FabPayload
  deriving DecidableEq, Repr

/-- Which pool a credit test is for: the agent's, the Drill's (R172), or resowing (R445). -/
inductive CreditKind where
  | agent | drill | resow
  deriving DecidableEq, Repr

/-- A breach of Table 2.7 that a monitor reports. -/
inductive Breach where
  /-- on-die VDDC of a die, in mV -/
  | floor (die : Fin 2) (mv : Nat)
  /-- NOW of a domain of R48: 0 to 33, 64 or 65 -/
  | margin (dom : Fin 66)
  deriving DecidableEq, Repr

/-- Who holds a promise: an agent request, or a P1 item of the device (R66). -/
inductive PromiseId where
  | agent (p : Port) (tag : Tag)
  | device (hub : Fin 2) (id : Nat)
  deriving DecidableEq, Repr


/-- One spill queue of Table 8.4. -/
inductive SpillQ where
  | pwq (p : Port)
  | event
  deriving DecidableEq, Repr

/-- Session transports (Table 13.5 text): I3C is code 0, in-band is code 1. -/
inductive Transport where
  | i3c | inband
  deriving DecidableEq, Repr

/-- Frame fields of a session command (R416): SEQ and MAC. -/
structure Frame where
  tr : Transport
  seq : BitVec 32
  mac : BitVec 128
  deriving DecidableEq, Repr

/-- The 34 Darner walkers (R324). -/
inductive Walker where
  | cache (s : SliceNo)
  | mem (m : MemNo)
  deriving DecidableEq, Repr

/-- A channel or a memory port: the interfaces that decode (R316). -/
inductive MemIf where
  | chan (c : ChanNo)
  | mem (m : MemNo)
  deriving DecidableEq, Repr

/-- Causes that end REST (R436), main-rail failure apart. -/
inductive RestCause where
  | lane | wakeN | alarm | i3c
  deriving DecidableEq, Repr

/-- Sources of a FALLOW request (R438). -/
inductive FallowSrc where
  | slpN | csr | session
  deriving DecidableEq, Repr

/-- Rails of Table 14.8. -/
inductive Rail where
  | vddio | vdda | vddcW | vddcE | vddqc | vddsh | vdds | vddqd
  deriving DecidableEq, Repr

/-- Levels VIN can fall through (R447). -/
inductive VinLevel where
  /-- below 5.5 V -/
  | below55
  /-- below 5.0 V -/
  | below50
  deriving DecidableEq, Repr

/-- Which walk of a port (R293): a demand walk by its number, the prefetch walk, the speculative walk. -/
inductive WalkId where
  | demand (i : Fin 4)
  | prefetch
  | speculative
  deriving DecidableEq, Repr

/-- What a ceiling ends: an agent request (R60), a prefetch (R171, R175), or a descriptor read of a walk (R292). -/
inductive CeilingOf where
  | agent (p : Port) (tag : Tag)
  | prefetch (p : Port) (line : LineAddr)
  | walk (p : Port) (w : WalkId)
  deriving DecidableEq, Repr

/-- What a regulator answered in the last millisecond (R452, R453). -/
structure PmbPoll where
  /-- transactions of this update that were NACKed or failed PEC three times in a row -/
  failed : Bool
  statusW : BitVec 16
  statusE : BitVec 16
  deriving DecidableEq, Repr

/-- One pace reading of every monitor (R51, R53) and the P0 load of R174, in whole percent. -/
structure PaceSample where
  /-- NOW of islands 0..33 -/
  islands : Vector (BitVec 10) 34
  /-- token periods of sub-links 0..7 (W to E) and 8..15 (E to W), 4 ps units -/
  sublinks : Vector (BitVec 10) 16
  /-- admitted P0 load of each channel's read bus -/
  chanLoad : Vector Nat 8
  /-- the same share at each memory port -/
  memLoad : Vector Nat 2
  deriving DecidableEq, Repr

/-- The commands. -/
inductive Instr where
  -- start-up
  | powerOnReset (flash : Option FlashInfo)
  | pinReset (flash : Option FlashInfo)
  | slotValidated (kinds : Vector PortKind 6)
  | ddr5TrainingDone (m : MemNo) (ok : Bool)
  | meminitDone
  | runEntered
  | cmiTrainingDone (c : ChanNo) (ok : Bool)
  -- links
  | linkTrainingStepDone (u : LinkUnit) (ok : Bool) (reversed : Bool) (polinv : BitVec 8)
  | linkDetectRetry (u : LinkUnit)
  | paramSlot (u : LinkUnit) (body : BitVec 128)
  | flitReceived (u : LinkUnit) (slots : BitVec 480) (crc : Word)
  | ackTimer (u : LinkUnit)
  | ack (u : LinkUnit) (seq : BitVec 10)
  | nak (u : LinkUnit) (seq : BitVec 10)
  | blockLockLost (u : LinkUnit)
  | linkRetrainTimeout (p : Port)
  | vcc (u : LinkUnit) (body : BitVec 128)
  -- time
  | timeExchangeTimer
  | timeRequest (l : LinkNo) (body : BitVec 128) (res : Word)
  | timeAnswer (l : LinkNo) (body : BitVec 128)
  | ppsInEdge
  | ppsLost
  | ppsOutBoundary
  | calendarTick
  | calendarTrimUpdate (quarterC : Int)
  | crystalFault
  -- promises
  | paceReading (r : PaceSample)
  | creditRelease (k : CreditKind) (p : Port) (cls : BitVec 2) (ch : ChanNo)
  | breachDetected (b : Breach)
  | promiseDeadline (id : PromiseId)
  | fallbackAutoReturn
  | ceilingExpiry (w : CeilingOf)
  | prmModeWrite (v : Word)
  | modeSwitchComplete
  -- agent requests
  | rds (h : ReqHdr)
  | rdu (h : ReqHdr)
  | upg (h : ReqHdr)
  | rd (h : ReqHdr)
  | rdc (h : ReqHdr) (sz : BitVec 3)
  | wrp (h : ReqHdr) (d : StoreData) (ord : Bool) (strm : BitVec 4)
  | wrn (h : ReqHdr) (d : StoreData)
  | wrb (h : ReqHdr) (d : FullData)
  | evc (h : ReqHdr)
  | wrh (h : ReqHdr) (d : FullData) (tgt : BitVec 3)
  | atm (h : ReqHdr) (sz : BitVec 3) (aop : BitVec 4) (operand compare : BitVec 128) (nr : Bool)
  | mclean (h : ReqHdr)
  | mflush (h : ReqHdr)
  | fencew (p : Port) (cls : BitVec 2) (tag : Tag)
  | fencel (p : Port) (cls : BitVec 2) (tag : Tag)
  | fenceg (p : Port) (cls : BitVec 2) (tag : Tag)
  | fenceComplete (p : Port) (tag : Tag)
  -- agent answers
  | ackc (p : Port) (tag : Tag)
  | snoopAnswer (p : Port) (snpTag : Tag) (newst : AgSt) (acc : Bool) (dirty : Bool) (data : Option FullData)
      (line : LineAddr)
  | snoopDataWriteback (line : LineAddr)
  | dcmp (p : Port) (tag : Tag) (stat : BitVec 4)
  | ddata (p : Port) (tag : Tag) (stat : BitVec 4) (d : FullData)
  | mmioDelivery (p : Port)
  -- fabric requests at the home
  | frds (h : FabHdr)
  | frdu (h : FabHdr)
  | fupg (h : FabHdr)
  | frdc (h : FabHdr)
  | frdpf (h : FabHdr)
  | fwr (h : FabHdr) (c : CodeLine) (mask : ByteMask)
  | fwb (h : FabHdr) (c : CodeLine) (keep : Bool)
  | fev (h : FabHdr)
  | fatm (h : FabHdr) (off : BitVec 7) (sz : BitVec 3) (aop : BitVec 4) (operand compare : BitVec 128) (nr : Bool)
      (noAlloc : Bool)
  | fclean (h : FabHdr)
  | fflush (h : FabHdr)
  | fdevrd (h : FabHdr) (off : BitVec 7) (sz : BitVec 3)
  | fdevwr (h : FabHdr) (off : BitVec 7) (d : StoreData) (pst : Bool)
  -- forwards, invalidations and recalls at a node
  | ffwds (h : FabHdr) (ackF inv : Bool)
  | ffwdu (h : FabHdr) (ackF inv : Bool)
  | ffwdc (h : FabHdr) (ackF inv : Bool)
  | finv (h : FabHdr)
  | frecall (h : FabHdr)
  | frecallset (src : NodeId) (htrk : BitVec 11) (slice : SliceNo) (set : BitVec 11)
  -- fabric answers
  | fdata (h : FabHdr) (c : CodeLine) (grant : BitVec 2) (uo ackF inv : Bool) (stat : BitVec 4)
  | frecalldata (h : FabHdr) (c : CodeLine)
  | fcmp (h : FabHdr) (grant : BitVec 2) (stat : BitVec 4) (value : BitVec 128) (marks : BitVec 2)
  | finvack (h : FabHdr)
  | frecallack (h : FabHdr) (count : BitVec 12)
  | ffwdmiss (h : FabHdr)
  | fwback (h : FabHdr) (fwd : Bool)
  | fdecl (h : FabHdr)
  | fcmpack (h : FabHdr)
  -- the fabric itself
  | stileForward (inLink : LinkNo) (pkt : StilePkt)
  | hopCreditEscape (l : LinkNo)
  | headlandBeat (toE : Bool) (tokens : BitVec 512)
  | sublinkStall (i : Fin 16)
  -- reads and fills
  | memoryReadDone (m : MemNo) (errs : CodeLine)
  | cmiReadDone (c : ChanNo) (errs : CodeLine)
  | verifyReadDone (u : MemIf) (errs : CodeLine)
  | fillDataArrival (line : LineAddr)
  | fillWriteAccepted (line : LineAddr)
  -- Press, Swath, Hamper
  | pressDrainStart (s : SliceNo)
  | pressAgeExpiry (line : LineAddr)
  | pressDrainDone (line : LineAddr)
  | pressPermissionGranted (line : LineAddr)
  | swathTrackerIdle (p : Port) (i : Fin 8)
  | hamperWritebackStart (s : SliceNo)
  | hamperWritebackDone (line : LineAddr)
  -- maintenance
  | mntCleanAddr
  | mntFlushAddr
  | mntInvalAddr (key : Byte)
  | mntCleanSw
  | mntFlushSw
  | mntInvalSw
  | mntRangeLineIssue
  | mntComplete
  | slcWayEnWrite (s : SliceNo) (v : Word)
  | wayDrainVisit (s : SliceNo) (way : Fin 16)
  | wayDrainDone (s : SliceNo) (way : Fin 16)
  | cmiCtlWrite (c : ChanNo) (v : Word)
  | channelDisableDone (c : ChanNo)
  -- Drill
  | drillIssue (p : Port)
  | prefetchPass (p : Port)
  | drillTrackerIdle (p : Port) (i : Fin 64)
  | drillAccuracyInterval
  | drlCfgWrite (p : Port) (v : Word)
  | drlAccWrite (v : Word)
  | contentionDecay
  -- dead agents and nodes
  | snoopTimeout (p : Port) (snpTag : Tag)
  | agpDeadCtlDeclare (p : Port) (v : Word)
  | deadAgentWalkDone (p : Port)
  | nodeTimeout (n : NodeId) (noRoute : Bool)
  | glbDeadCtlDeclare (v : Word)
  | deadNodeWalkDone (n : NodeId)
  -- ordered streams and spill queues
  | pwqIssue (p : Port)
  | orderedWriteVisible (p : Port) (strm : BitVec 4)
  | spillBatchWrite (q : SpillQ)
  | spillBatchRead (q : SpillQ)
  | agpPwqFlush (p : Port)
  | pwqFlushDone (p : Port)
  -- translation
  | walkDescriptorRead (p : Port) (w : WalkId)
  | ptuRootLoWrite (p : Port) (v : Word)
  | ptuRootHiWrite (p : Port) (v : Word)
  | ptuSeedWrite (p : Port) (seed : BitVec 16)
  | tlbInvByAddress (p : Port)
  | tlbInvByContext (p : Port)
  | tlbInvAll (p : Port)
  | tlbInvComplete (p : Port)
  -- Darner
  | darnerCacheVisit (s : SliceNo)
  | darnerMemVisit (m : MemNo)
  | darnerDueTick (w : Walker)
  | scrubUeReport (s : SliceNo)
  | memUeReport (m : MemNo)
  | darCtlWrite (v : Word)
  | darnerRestartCache
  | darnerRestartMem
  | retirementListClear (m0 m1 : Bool)
  | unretire (key : Byte)
  | thresholdWindowEnd (u : MemIf) (ecs : List Nat)
  | darThrWinWrite (v : Word)
  -- DDR5 and link control
  | ddr5Refresh (m : MemNo)
  | ddr5TempPoll (m : MemNo) (hot : Bool)
  | hpprDone (m : MemNo)
  | agpLinkCtlRetrain (p : Port)
  -- mailbox and events
  | mbxRead (m : Fin 4)
  | mbxWrite (m : Fin 4)
  | mbxPop (m : Fin 4)
  | mbxCaptureDone (m : Fin 4)
  | mbxTimeout (m : Fin 4)
  | inbandEventSend
  | evtRteWrite (v : Word)
  | evtSwWrite (v : Word)
  | evtQFlush
  | logRseqWrite (v : Word)
  | logMark
  | logRewind
  | csrWrite (offset : BitVec 26) (v : Word)
  -- sessions
  | sesGo
  | sesOpen (tr : Transport) (level : Byte) (nh : BitVec 128)
  | sesAuth (tr : Transport) (mac : BitVec 256)
  | lockoutExpiry (tr : Transport)
  | sessionIdleTimeout (tr : Transport)
  | sesClose (f : Frame)
  | csrRd (f : Frame) (offset : Word) (count : Byte)
  | csrWr (f : Frame) (offset value : Word)
  | mbx (f : Frame) (sel : Word) (op : Byte) (data0 data1 : Word)
  | logRd (f : Frame) (count : Byte)
  | calGet (f : Frame)
  | calSet (f : Frame) (time : BitVec 64)
  | mode (f : Frame) (req : Byte)
  | ppr (f : Frame) (port : Byte) (lineIdx : Word)
  | imgErase (f : Frame) (slot : Byte)
  | imgWrite (f : Frame) (slot : Byte) (offset : Word) (bytes : List Byte)
  | imgRead (f : Frame) (slot : Byte) (offset : Word) (len : Byte)
  | imgCheck (f : Frame) (slot : Byte)
  | resetCmd (f : Frame)
  | fuse (f : Frame) (sel : Byte) (value : BitVec 256)
  | flashOperationDone
  -- calendar and power
  | rtcLoad
  | pwrRestWrite
  | restEntered
  | restExitCause (c : RestCause)
  | restExitDone
  | fallowRequest (src : FallowSrc)
  | fallowEntryStep
  | fallowEntered
  | wakeNFall
  | slpNEdge (falling : Bool)
  | wakeStep
  | wakeComplete
  | resowReadIssue
  | resowingDone
  | pwrSeedCfgWrite (v : Word)
  | vinFall (lv : VinLevel)
  | vinRise (flash : Option FlashInfo)
  | vbakLow
  | mainRailsGood
  | mainRailLost (r : Rail)
  | adaptiveVddcUpdate (failW testsW failE testsE : Nat) (vmonW vmonE : Nat) (poll : PmbPoll)
  | pmbStatWrite (v : Word)
  | thermalReading (tempW tempE : Int)
  | throttleRelease
  | thermalTrip
  | tripRecovery (flash : Option FlashInfo)
  | vbakPresent
  | vbakLost
  -- I3C
  | entdaa (addr : BitVec 7)
  | enec
  deriving DecidableEq, Repr

end Sys2Proof
end

