-- ==== Sys2Proof/Decode.lean ====
section
/-! DEFINITION. Commands that a word spells. The table of commands gives no row any bits: commands are events, not words. -/

namespace Sys2Proof

/-- The command that `nbits` table bits `w` spell: no row of the table has bits, so no word spells one. -/
def decodeTableWord (_nbits _w : Nat) : Option Instr := none

end Sys2Proof
end

