-- ==== Sys2Proof/Config.lean ====
section
/-! DEFINITION. What an implementation or the spec leaves open: free values. None has a body, so nothing can be proved of
a value of one. Each is applied to the counter of the state that numbers the draws, or to the operands it depends on. -/

namespace Sys2Proof

/-- Crossings beyond 2n in the longest chain of messages of a remote request (R65): the chain depends on what the home
and other nodes find, which this node does not see. -/
opaque Config.chainExtra : Nat → Nat

/-- The device nonce Nd of a session (R417). -/
opaque Config.nonce : Nat → BitVec 128

/-- MAC of a reply to a command that no open session covers: no session key makes it (R416). -/
opaque Config.orphanMac : Nat → BitVec 128

/-- CAUSE of a training failure for which AGP_LINK_STAT lists no value: PARAM timed out (R348). -/
opaque Config.trainCause : Nat → BitVec 3

/-- VOUT_COMMAND word for 0.80 V before the image has given the exponent EXP (Table 13.1, step 3; Table 14.6, step 4). -/
opaque Config.startVout : Nat → BitVec 16

/-- The 8-byte words after the last record in the last line of a seed list (R443: the list is written in full lines). -/
opaque Config.seedPad : Nat → BitVec 64

/-- The no-allocate mark of an FAtm that a flit brings: Table 11.10 gives it no bit (R219). -/
opaque Config.noAllocMark : Nat → Bool

/-- Whether an FCmp in transit carries a value slot: its header does not say (Table 11.11). -/
opaque Config.transitValue : Nat → Bool

/-- DETAIL of a trouble log entry for which the chapters list no item, by event number and sequence number: R395 gives
such an entry no form. -/
opaque Config.bareDetail : Nat → BitVec 32 → BitVec 128

/-- The CODE byte that names a lost rail in its entry, by the rail's place in Table 14.8: R449 gives the rails no codes. -/
opaque Config.railCode : Nat → BitVec 8

/-- RES of the answer to a TIME request that a flit brings, in 1/32 ns: the time the request stays here (R427). -/
opaque Config.residence : Nat → BitVec 32

/-- The header slot of a device item that crosses the Headland: no table gives a hub's own items (prefetch, descriptor read, spill and
seed list traffic) a message (R21, R358). -/
opaque Config.itemHeader : Nat → BitVec 160

/-- The CODE byte that carries the state in the entry of a protocol error, by the state (R234): no table codes the
transient states, nor the state at a port, which is 63 here. -/
opaque Config.stateCode : Nat → BitVec 8

end Sys2Proof
end

