-- ==== Sys2Proof/Machine/Bits.lean ====
section
/-! DEFINITION. Bit fields of registers, indexed updates, and sparse arrays in one canonical form. -/

namespace Sys2Proof.Machine
open Sys2Proof

/-- Field of `width` bits at bit `lo` of a register. -/
def fld (w : Word) (lo width : Nat) : Nat := (w.toNat >>> lo) % 2 ^ width

/-- Bits `lo` to `lo + width - 1` as a mask. -/
def fldMask (lo width : Nat) : Word := BitVec.ofNat 32 ((2 ^ width - 1) <<< lo)

/-- A register with the field replaced by `v`. -/
def setFld (w : Word) (lo width v : Nat) : Word :=
  (w &&& ~~~ fldMask lo width) ||| (BitVec.ofNat 32 (v <<< lo) &&& fldMask lo width)

/-- One bit of a register. -/
def bit (w : Word) (i : Nat) : Bool := w.getLsbD i

/-- A one-bit value. -/
def bitVal (b : Bool) (i : Nat) : Word := if b then BitVec.ofNat 32 (2 ^ i) else 0

/-- Indexed update of a fixed number of like things. -/
def vset {α : Type} {n : Nat} (v : Vector α n) (i : Fin n) (x : α) : Vector α n := v.set i.1 x i.2

def vmod {α : Type} {n : Nat} (v : Vector α n) (i : Fin n) (f : α → α) : Vector α n := vset v i (f (v.get i))

/-- Sparse array: the value at `k`, or the default. -/
def Sparse.get {α : Type} (d : Nat → α) : List (Nat × α) → Nat → α
  | [], k => d k
  | (j, x) :: t, k => if j = k then x else Sparse.get d t k

/-- Insertion that keeps keys rising. -/
def Sparse.insert {α : Type} : List (Nat × α) → Nat → α → List (Nat × α)
  | [], k, v => [(k, v)]
  | (j, x) :: t, k, v =>
    if k < j then (k, v) :: (j, x) :: t
    else if k = j then (k, v) :: t
    else (j, x) :: Sparse.insert t k v

def Sparse.erase {α : Type} : List (Nat × α) → Nat → List (Nat × α)
  | [], _ => []
  | (j, x) :: t, k => if j = k then t else (j, x) :: Sparse.erase t k

/-- Sparse array with `v` at `k`; a default value is not listed. -/
def Sparse.set {α : Type} [DecidableEq α] (d : Nat → α) (m : List (Nat × α)) (k : Nat) (v : α) : List (Nat × α) :=
  if v = d k then Sparse.erase m k else Sparse.insert m k v

/-- Keys rise strictly from above `lo`. -/
def Sparse.sortedFrom {α : Type} : Nat → List (Nat × α) → Bool
  | _, [] => true
  | lo, (j, _) :: t => decide (lo ≤ j) && Sparse.sortedFrom (j + 1) t

/-- The canonical form: keys strictly rising, no entry equal to the default. -/
def Sparse.wf {α : Type} [DecidableEq α] (d : Nat → α) (m : List (Nat × α)) : Bool :=
  Sparse.sortedFrom 0 m && m.all (fun e => decide (e.2 ≠ d e.1))

/-- Canonical form of a codeword store (DDR5 or SRAM): unlisted words are the codeword of zero data. -/
def Memory.wf (m : List (Nat × Codeword)) : Bool := Sparse.wf (fun _ => 0) m

/-- The least of a list, if it has one. -/
def leastSome (l : List Nat) : Option Nat := l.foldl (fun a x => some (match a with | some y => min x y | none => x)) none

/-- First element that satisfies `p`, and the list without it. -/
def takeFirst {α : Type} (p : α → Bool) : List α → Option (α × List α)
  | [] => none
  | x :: t => if p x then some (x, t) else (takeFirst p t).map (fun r => (r.1, x :: r.2))

/-- The list with its first element satisfying `p` mapped by `f`. -/
def modFirst {α : Type} (p : α → Bool) (f : α → α) : List α → List α
  | [] => []
  | x :: t => if p x then f x :: t else x :: modFirst p f t

/-- Set of numbers as a list without repeats. -/
def addSet (l : List Nat) (n : Nat) : List Nat := if l.contains n then l else l ++ [n]

/-- XOR of the bits of a value. -/
def parity {w : Nat} (v : BitVec w) : Bool := (List.range w).foldl (fun a i => a != v.getLsbD i) false

/-- Indices 0 to n-1 as Fin values. -/
def fins (n : Nat) : List (Fin n) := List.finRange n

/-- Ceiling division. -/
def cdiv (a b : Nat) : Nat := (a + b - 1) / b

/-- Nearest multiple of `g` to an integer, halves up (R54). -/
def nearest (v : Int) (g : Int) : Int := (2 * v + g) / (2 * g) * g

end Sys2Proof.Machine
end

