-- ==== Sys2Proof/Machine/Crypto.lean ====
section
/-! DEFINITION. The algorithms that the image, the sessions and the flits use: CRC-32C (R337, R406), SHA-256 (FIPS 180-4),
HMAC-SHA-256 (FIPS 198-1), ECDSA over P-256 (FIPS 186-5). -/

namespace Sys2Proof.Machine
open Sys2Proof

/-! ### CRC-32C -/

def crcBit (r : BitVec 32) : BitVec 32 := if r.getLsbD 0 then (r >>> 1) ^^^ 0x82F63B78#32 else r >>> 1
def crcByte (r : BitVec 32) (b : Byte) : BitVec 32 :=
  (List.range 8).foldl (fun r _ => crcBit r) (r ^^^ b.setWidth 32)

/-- CRC-32C: reflected, initial value and final XOR all ones. -/
def crc32c (l : List Byte) : BitVec 32 := ~~~ (l.foldl crcByte 0xFFFFFFFF#32)

/-! ### Bytes and numbers -/

/-- Little-endian number of bytes. -/
def leNat (l : List Byte) : Nat := l.foldr (fun b a => b.toNat + 256 * a) 0
/-- Big-endian number of bytes. -/
def beNat (l : List Byte) : Nat := l.foldl (fun a b => 256 * a + b.toNat) 0
/-- `n` bytes of a number, lowest first. -/
def leBytes (n x : Nat) : List Byte := (List.range n).map (fun i => BitVec.ofNat 8 (x >>> (8 * i)))
/-- `n` bytes of a number, highest first. -/
def beBytes (n x : Nat) : List Byte := (leBytes n x).reverse

/-! ### SHA-256 -/

def shaK0 : List (BitVec 32) :=
  [0x428A2F98, 0x71374491, 0xB5C0FBCF, 0xE9B5DBA5, 0x3956C25B, 0x59F111F1, 0x923F82A4, 0xAB1C5ED5,
   0xD807AA98, 0x12835B01, 0x243185BE, 0x550C7DC3, 0x72BE5D74, 0x80DEB1FE, 0x9BDC06A7, 0xC19BF174]

def shaK1 : List (BitVec 32) :=
  [0xE49B69C1, 0xEFBE4786, 0x0FC19DC6, 0x240CA1CC, 0x2DE92C6F, 0x4A7484AA, 0x5CB0A9DC, 0x76F988DA,
   0x983E5152, 0xA831C66D, 0xB00327C8, 0xBF597FC7, 0xC6E00BF3, 0xD5A79147, 0x06CA6351, 0x14292967]

def shaK2 : List (BitVec 32) :=
  [0x27B70A85, 0x2E1B2138, 0x4D2C6DFC, 0x53380D13, 0x650A7354, 0x766A0ABB, 0x81C2C92E, 0x92722C85,
   0xA2BFE8A1, 0xA81A664B, 0xC24B8B70, 0xC76C51A3, 0xD192E819, 0xD6990624, 0xF40E3585, 0x106AA070]

def shaK3 : List (BitVec 32) :=
  [0x19A4C116, 0x1E376C08, 0x2748774C, 0x34B0BCB5, 0x391C0CB3, 0x4ED8AA4A, 0x5B9CCA4F, 0x682E6FF3,
   0x748F82EE, 0x78A5636F, 0x84C87814, 0x8CC70208, 0x90BEFFFA, 0xA4506CEB, 0xBEF9A3F7, 0xC67178F2]

/-- Constants K of FIPS 180-4. -/
def shaK : List (BitVec 32) := shaK0 ++ shaK1 ++ shaK2 ++ shaK3

/-- Initial hash value. -/
def shaInit : List (BitVec 32) :=
  [0x6A09E667, 0xBB67AE85, 0x3C6EF372, 0xA54FF53A, 0x510E527F, 0x9B05688C, 0x1F83D9AB, 0x5BE0CD19]

def shaCh (x y z : BitVec 32) : BitVec 32 := (x &&& y) ^^^ (~~~ x &&& z)
def shaMaj (x y z : BitVec 32) : BitVec 32 := (x &&& y) ^^^ (x &&& z) ^^^ (y &&& z)
def shaS0 (x : BitVec 32) : BitVec 32 := x.rotateRight 2 ^^^ x.rotateRight 13 ^^^ x.rotateRight 22
def shaS1 (x : BitVec 32) : BitVec 32 := x.rotateRight 6 ^^^ x.rotateRight 11 ^^^ x.rotateRight 25
def shaG0 (x : BitVec 32) : BitVec 32 := x.rotateRight 7 ^^^ x.rotateRight 18 ^^^ (x >>> 3)
def shaG1 (x : BitVec 32) : BitVec 32 := x.rotateRight 17 ^^^ x.rotateRight 19 ^^^ (x >>> 10)

/-- The schedule, newest word first, extended by `n` words. -/
def shaExpand : Nat → List (BitVec 32) → List (BitVec 32)
  | 0, w => w
  | n + 1, w => shaExpand n ((shaG1 (w.getD 1 0) + w.getD 6 0 + shaG0 (w.getD 14 0) + w.getD 15 0) :: w)

/-- The working variables a to h. -/
structure ShaVars where
  a : BitVec 32
  b : BitVec 32
  c : BitVec 32
  d : BitVec 32
  e : BitVec 32
  f : BitVec 32
  g : BitVec 32
  h : BitVec 32
  deriving DecidableEq, Repr

def ShaVars.ofList (l : List (BitVec 32)) : ShaVars :=
  { a := l.getD 0 0, b := l.getD 1 0, c := l.getD 2 0, d := l.getD 3 0, e := l.getD 4 0, f := l.getD 5 0, g := l.getD 6 0,
    h := l.getD 7 0 }
def ShaVars.toList (v : ShaVars) : List (BitVec 32) := [v.a, v.b, v.c, v.d, v.e, v.f, v.g, v.h]

def ShaVars.round (v : ShaVars) (kw : BitVec 32 × BitVec 32) : ShaVars :=
  let t1 := v.h + shaS1 v.e + shaCh v.e v.f v.g + kw.1 + kw.2
  let t2 := shaS0 v.a + shaMaj v.a v.b v.c
  { a := t1 + t2, b := v.a, c := v.b, d := v.c, e := v.d + t1, f := v.e, g := v.f, h := v.g }

/-- One block of 16 words. -/
def shaBlock (h : List (BitVec 32)) (w : List (BitVec 32)) : List (BitVec 32) :=
  let ws := (shaExpand 48 w.reverse).reverse
  (List.zip h ((shaK.zip ws).foldl ShaVars.round (ShaVars.ofList h)).toList).map (fun x => x.1 + x.2)

/-- Message with its padding. -/
def shaPad (m : List Byte) : List Byte :=
  m ++ [0x80#8] ++ List.replicate ((119 - m.length % 64) % 64) 0#8 ++ beBytes 8 (8 * m.length)

/-- Words of a block. -/
def shaWords (b : List Byte) : List (BitVec 32) :=
  (List.range 16).map (fun i => BitVec.ofNat 32 (beNat ((b.drop (4 * i)).take 4)))

/-- Hash of `n` blocks. -/
def shaBlocks : Nat → List Byte → List (BitVec 32) → List (BitVec 32)
  | 0, _, h => h
  | n + 1, m, h => shaBlocks n (m.drop 64) (shaBlock h (shaWords (m.take 64)))

/-- The 32 bytes of the hash. -/
def sha256 (m : List Byte) : List Byte :=
  let p := shaPad m
  (shaBlocks (p.length / 64) p shaInit).flatMap (fun w => beBytes 4 w.toNat)

/-! ### HMAC-SHA-256 -/

/-- Under a 32-byte key. -/
def hmac (key msg : List Byte) : List Byte :=
  let k := key ++ List.replicate (64 - key.length) 0#8
  sha256 (k.map (fun b => b ^^^ 0x5C#8) ++ sha256 (k.map (fun b => b ^^^ 0x36#8) ++ msg))

/-- A 256-bit key or hash held as a little-endian number of its bytes. -/
def keyBytes (k : BitVec 256) : List Byte := leBytes 32 k.toNat
def keyOf (l : List Byte) : BitVec 256 := BitVec.ofNat 256 (leNat l)

/-! ### ECDSA over P-256 -/

def p256P : Nat := 2 ^ 256 - 2 ^ 224 + 2 ^ 192 + 2 ^ 96 - 1
def p256N : Nat := 0xFFFFFFFF00000000FFFFFFFFFFFFFFFFBCE6FAADA7179E84F3B9CAC2FC632551
def p256B : Nat := 0x5AC635D8AA3A93E7B3EBBD55769886BC651D06B0CC53B0F63BCE3C3E27D2604B
def p256G : Nat × Nat :=
  (0x6B17D1F2E12C4247F8BCE6E563A440F277037D812DEB33A0F4A13945D898C296,
   0x4FE342E2FE1A7F9B8EE7EB4A7C0F9E162BCE33576B315ECECBB6406837BF51F5)

/-- Power modulo m over the lowest `n` bits of the exponent. -/
def powMod (m : Nat) : Nat → Nat → Nat → Nat → Nat
  | 0, _, _, acc => acc
  | n + 1, b, e, acc => powMod m n (b * b % m) (e / 2) (if e % 2 = 1 then acc * b % m else acc)

/-- Inverse modulo a prime. -/
def invMod (m a : Nat) : Nat := powMod m 256 (a % m) (m - 2) 1

/-- Difference modulo m. -/
def subMod (m a b : Nat) : Nat := (a + m - b % m) % m

/-- A point of the curve; none is the point at infinity. -/
def ecAdd (x y : Option (Nat × Nat)) : Option (Nat × Nat) :=
  match x, y with
  | none, q => q
  | p, none => p
  | some a, some b =>
    let m := p256P
    let line := fun (l : Nat) =>
      let u := subMod m (subMod m (l * l) a.1) b.1
      some (u, subMod m (l * subMod m a.1 u) a.2)
    if a.1 = b.1 then
      if a.2 = b.2 ∧ a.2 ≠ 0 then line ((3 * a.1 * a.1 + m - 3) * invMod m (2 * a.2) % m) else none
    else line (subMod m b.2 a.2 * invMod m (subMod m b.1 a.1) % m)

/-- Multiple of a point over the lowest `n` bits of the factor. -/
def ecMul : Nat → Nat → Option (Nat × Nat) → Option (Nat × Nat) → Option (Nat × Nat)
  | 0, _, _, acc => acc
  | n + 1, k, p, acc => ecMul n (k / 2) (ecAdd p p) (if k % 2 = 1 then ecAdd acc p else acc)

/-- The point is on the curve. -/
def onCurve (q : Nat × Nat) : Bool :=
  decide (q.1 < p256P) && decide (q.2 < p256P) &&
    (q.2 * q.2 % p256P == (q.1 * q.1 * q.1 + (p256P - 3) * q.1 + p256B) % p256P)

/-- Signature verification of a hash taken as a number. -/
def ecdsaOk (q : Nat × Nat) (e r s : Nat) : Bool :=
  if r = 0 ∨ p256N ≤ r ∨ s = 0 ∨ p256N ≤ s ∨ !onCurve q then false
  else
    let w := invMod p256N s
    match ecAdd (ecMul 256 (e * w % p256N) (some p256G) none) (ecMul 256 (r * w % p256N) (some q) none) with
    | none => false
    | some x => x.1 % p256N == r

end Sys2Proof.Machine
end

