-- ==== Sys2Proof/Machine/Codes.lean ====
section
/-! DEFINITION. The outer code of R309 to R313, lines of 16 codewords, and the merge of Table 10.4. -/

namespace Sys2Proof.Machine
open Sys2Proof

/-- One step of the encoder of R311. -/
def bchStep (r : BitVec 14) (b : Bool) : BitVec 14 :=
  if b != r.msb then (r <<< 1) ^^^ 0x0377#14 else r <<< 1

/-- Check bits C of R311: information bits are taken from position 78 downward. -/
def bchCheck (d : BitVec 64) (k : Bool) : BitVec 14 :=
  (List.range 64).foldl (fun r i => bchStep r (d.getLsbD (63 - i))) (bchStep 0 k)

/-- The outer codeword of data and mark (R309, R311). -/
def encodeWord (d : BitVec 64) (k : Bool) : Codeword :=
  let c := bchCheck d k
  let p := (parity d != k) != parity c
  BitVec.ofBool p ++ c ++ BitVec.ofBool k ++ d

def wordData (w : Codeword) : BitVec 64 := w.extractLsb' 0 64
def wordMark (w : Codeword) : Bool := w.getLsbD 64

/-- Bit of the codeword at code position p of Table 10.1. -/
def posBit (p : Nat) : Nat := if p < 14 then 65 + p else if p < 78 then p - 14 else 64

/-- Multiplication by the primitive element in GF(2^7) with x^7 = x^3 + 1 (R310). -/
def gfX (a : BitVec 7) : BitVec 7 := if a.msb then (a <<< 1) ^^^ 0x09#7 else a <<< 1

/-- Powers of the primitive element from `a`, `n` of them. -/
def gfPowers : Nat → BitVec 7 → List (BitVec 7)
  | 0, _ => []
  | n + 1, a => a :: gfPowers n (gfX a)

def gfTable : List (BitVec 7) := gfPowers 127 1

def gfExp (n : Nat) : BitVec 7 := gfTable.getD (n % 127) 0
def gfLog (a : BitVec 7) : Nat := gfTable.findIdx (· == a)
def gfMul (a b : BitVec 7) : BitVec 7 := if a = 0 ∨ b = 0 then 0 else gfExp (gfLog a + gfLog b)
def gfDiv (a b : BitVec 7) : BitVec 7 := if a = 0 then 0 else gfExp (gfLog a + 127 - gfLog b)

/-- Syndrome: sum of the (e·p)-th power over set positions p from 0 to 78 (R312). -/
def syndrome (e : Nat) (w : Codeword) : BitVec 7 :=
  (List.range 79).foldl (fun a p => if w.getLsbD (posBit p) then a ^^^ gfExp (e * p) else a) 0

def flipPos (w : Codeword) (p : Nat) : Codeword := w ^^^ BitVec.ofNat 80 (2 ^ posBit p)
def flipParity (w : Codeword) : Codeword := w ^^^ BitVec.ofNat 80 (2 ^ 79)

/-- What the decoder finds (R312, R316): the corrected word, or none where it is uncorrectable. -/
inductive WordDec where
  | clean
  | corrected (w : Codeword)
  | bad
  deriving DecidableEq, Repr

/-- The positions in range that are roots of the locator of R312. -/
def locatorRoots (s1 s2 : BitVec 7) : List Nat :=
  (List.range 79).filter (fun i =>
    (1#7 ^^^ gfMul s1 (gfExp (127 - i)) ^^^ gfMul s2 (gfExp (2 * (127 - i)))) = 0)

/-- The decoder of R312. -/
def decodeWord (w : Codeword) : WordDec :=
  let s1 := syndrome 1 w
  let s3 := syndrome 3 w
  let q := parity w
  if s1 = 0 ∧ s3 = 0 then
    if q then .corrected (flipParity w) else .clean
  else
    let cube := gfMul s1 (gfMul s1 s1)
    if q then
      if s1 ≠ 0 ∧ s3 = cube ∧ gfLog s1 ≤ 78 then .corrected (flipPos w (gfLog s1)) else .bad
    else if s1 = 0 then .bad
    else if s3 = cube then
      if gfLog s1 ≤ 78 then .corrected (flipParity (flipPos w (gfLog s1))) else .bad
    else
      match locatorRoots s1 (gfDiv (s3 ^^^ cube) s1) with
      | [i, j] => .corrected (flipPos (flipPos w i) j)
      | _ => .bad

/-- Codeword n of a line (R309). -/
def lineWord (c : CodeLine) (n : Nat) : Codeword := c.extractLsb' (80 * n) 80

/-- A line from its 16 codewords. -/
def mkLine (f : Nat → Codeword) : CodeLine :=
  (List.range 16).foldl (fun a n => a ||| ((f n).setWidth 1280 <<< (80 * n))) 0

/-- A line after the decodes of R316: as served, how many words were corrected, which are new marks, which were marked. -/
structure LineDec where
  line : CodeLine
  corrected : Nat
  newMarks : BitVec 16
  marked : BitVec 16
  deriving DecidableEq, Repr

def maskOf (f : Nat → Bool) (n : Nat) : Nat := (List.range n).foldl (fun a i => if f i then a + 2 ^ i else a) 0

/-- Decoding of a whole line. A line of clean words is answered as it stands. -/
def decodeLine (c : CodeLine) : LineDec :=
  let ds := (List.range 16).map (fun n => (decodeWord (lineWord c n), lineWord c n))
  let served := ds.map (fun e => match e.1 with
    | .clean => e.2
    | .corrected w => w
    | .bad => encodeWord (wordData e.2) true)
  { line := mkLine (fun n => served.getD n 0)
    corrected := (ds.filter (fun e => match e.1 with | .corrected _ => true | _ => false)).length
    newMarks := BitVec.ofNat 16 (maskOf (fun n => ((ds.getD n (.clean, 0)).1 = .bad)) 16)
    marked := BitVec.ofNat 16 (maskOf (fun n =>
      (ds.getD n (.clean, 0)).1 ≠ .bad && wordMark (served.getD n 0)) 16) }

/-- The check of fabric data at a slice (R315): a corrected word goes on corrected, an uncorrectable one goes on with
K = 1 and its data bits as received. The count is of uncorrectable words. -/
def checkFabric (c : CodeLine) : CodeLine × Nat :=
  let d := decodeLine c
  (d.line, (List.range 16).foldl (fun a n => if d.newMarks.getLsbD n then a + 1 else a) 0)

/-- Encoding of agent data, K from the poison mask (Table 10.3, agent port ingress). -/
def encodeLine (b : LineBytes) (k : PoisonMask) : CodeLine :=
  mkLine (fun n => encodeWord (b.extractLsb' (64 * n) 64) (k.getLsbD n))

/-- The data bytes and the poison mask of a line (Table 10.3, agent port egress). -/
def lineBytes (c : CodeLine) : LineBytes :=
  (List.range 16).foldl (fun a n => a ||| ((wordData (lineWord c n)).setWidth 1024 <<< (64 * n))) 0

def linePoison (c : CodeLine) : PoisonMask := BitVec.ofNat 16 (maskOf (fun n => wordMark (lineWord c n)) 16)

/-- Byte mask spread to bits. -/
def spread8 (m : Byte) : BitVec 64 :=
  (List.range 8).foldl (fun a i => if m.getLsbD i then a ||| (0xFF#64 <<< (8 * i)) else a) 0

/-- Merge of one word (Table 10.4): `old` already served by its interface, `new` and its byte mask from a packet. -/
def mergeWord (old new : Codeword) (m : Byte) : Codeword :=
  if m = 0 then old
  else if m = 0xFF then encodeWord (wordData new) (wordMark new)
  else
    let s := spread8 m
    encodeWord ((wordData old &&& ~~~ s) ||| (wordData new &&& s)) (wordMark old || wordMark new)

def wordMask (m : ByteMask) (n : Nat) : Byte := m.extractLsb' (8 * n) 8

/-- Merge of a line under a byte mask (R320). -/
def mergeLine (old new : CodeLine) (m : ByteMask) : CodeLine :=
  mkLine (fun n => mergeWord (lineWord old n) (lineWord new n) (wordMask m n))

/-- The same merge for Press bytes (R320): words whose bytes no store wrote stay as they are, and a store's mark bit is
ignored where its word has no byte. Bytes not written hold 0 until the drain. -/
def mergePress (old new : CodeLine) (m : ByteMask) : CodeLine := mergeLine old new m

/-- Every mark of a line set (R228, R231): check bits recomputed. -/
def poisonLine (c : CodeLine) : CodeLine := mkLine (fun n => encodeWord (wordData (lineWord c n)) true)

def anyMark (c : CodeLine) : Bool := linePoison c ≠ 0

def fullMask : ByteMask := BitVec.allOnes 128

/-- Bytes `off` to `off + len - 1` of a line as a mask. -/
def byteRange (off len : Nat) : ByteMask := BitVec.ofNat 128 ((2 ^ len - 1) <<< off)

end Sys2Proof.Machine
end

