-- ==== Sys2Proof/Machine/RegTable.lean ====
section
/-! DEFINITION. The register map: offsets, fields and access masks as the register descriptions of the chapters give
them (R12, R372, Table 12.1). -/

namespace Sys2Proof.Machine
open Sys2Proof

/-- A field of a register: CSR offset, lowest bit, width. -/
structure RField where
  off : Nat
  lo : Nat
  width : Nat
  deriving DecidableEq, Repr

/-- What a register description says: reset value, bits that read their value (RO, RW, W1C), RW bits, W1C bits. -/
structure RegRow where
  reset : Word
  rd : Word
  rw : Word
  w1c : Word
  deriving DecidableEq, Repr

/-- GLB_ID (R2). -/
def Reg.GLB_ID : Nat := 0x00000000
/-- GLB_NODE (R45). -/
def Reg.GLB_NODE : Nat := 0x00000004
/-- GLB_MEMMAP (R45). -/
def Reg.GLB_MEMMAP : Nat := 0x00000008
/-- GLB_MMIO_OWN0 (R45). -/
def Reg.GLB_MMIO_OWN0 : Nat := 0x0000000C
/-- GLB_MMIO_OWN1 (R45). -/
def Reg.GLB_MMIO_OWN1 : Nat := 0x00000010
/-- SLC_PACE (R54). -/
def Reg.SLC_PACE (i : Nat) : Nat := 0x01000040 + 0x10000 * i
/-- GLB_PACE_HUB (R54). -/
def Reg.GLB_PACE_HUB : Nat := 0x00000110
/-- HDL_PACE (R54). -/
def Reg.HDL_PACE : Nat := 0x00100040
/-- GLB_ALT_IDX (R76). -/
def Reg.GLB_ALT_IDX : Nat := 0x00000120
/-- GLB_ALT_DATA (R76). -/
def Reg.GLB_ALT_DATA : Nat := 0x00000124
/-- GLB_PRM_MODE (R86). -/
def Reg.GLB_PRM_MODE : Nat := 0x00000100
/-- GLB_PRM_CFG (R488). -/
def Reg.GLB_PRM_CFG : Nat := 0x00000104
/-- GLB_PRM_FLOOR (R488). -/
def Reg.GLB_PRM_FLOOR : Nat := 0x00000108
/-- GLB_PRM_STAT (R488). -/
def Reg.GLB_PRM_STAT : Nat := 0x0000010C
/-- AGP_CRD_CFG (R488). -/
def Reg.AGP_CRD_CFG (i : Nat) : Nat := 0x01400080 + 0x20000 * i
/-- AGP_CRD_STAT (R87). -/
def Reg.AGP_CRD_STAT (i : Nat) : Nat := 0x01400084 + 0x20000 * i
/-- GLB_CACHE_CFG (R90). -/
def Reg.GLB_CACHE_CFG : Nat := 0x00000140
/-- SLC_TAG_ERR (R101). -/
def Reg.SLC_TAG_ERR (i : Nat) : Nat := 0x01000044 + 0x10000 * i
/-- GLB_INS_AGE (R113). -/
def Reg.GLB_INS_AGE : Nat := 0x00000144
/-- AGP_WAY01 (R116). -/
def Reg.AGP_WAY01 (i : Nat) : Nat := 0x014000A0 + 0x20000 * i
/-- AGP_WAY2 (R116). -/
def Reg.AGP_WAY2 (i : Nat) : Nat := 0x014000A4 + 0x20000 * i
/-- GLB_BG_WAY (R116). -/
def Reg.GLB_BG_WAY : Nat := 0x00000148
/-- GLB_RGN_IDX (R121). -/
def Reg.GLB_RGN_IDX : Nat := 0x00000150
/-- GLB_RGN_BASE (R121). -/
def Reg.GLB_RGN_BASE : Nat := 0x00000154
/-- GLB_RGN_ATTR (R121). -/
def Reg.GLB_RGN_ATTR : Nat := 0x00000158
/-- GLB_PRESS_CFG (R133). -/
def Reg.GLB_PRESS_CFG : Nat := 0x00000160
/-- GLB_SWATH_CFG (R139). -/
def Reg.GLB_SWATH_CFG : Nat := 0x00000164
/-- GLB_MNT_ADDR_LO (R152). -/
def Reg.GLB_MNT_ADDR_LO : Nat := 0x00000170
/-- GLB_MNT_ADDR_HI (R152). -/
def Reg.GLB_MNT_ADDR_HI : Nat := 0x00000174
/-- GLB_MNT_LEN (R152). -/
def Reg.GLB_MNT_LEN : Nat := 0x00000178
/-- GLB_MNT_SW (R152). -/
def Reg.GLB_MNT_SW : Nat := 0x0000017C
/-- GLB_MNT_CTL (R152). -/
def Reg.GLB_MNT_CTL : Nat := 0x00000180
/-- GLB_MNT_STAT (R152). -/
def Reg.GLB_MNT_STAT : Nat := 0x00000184
/-- GLB_SPILL_CFG (R156). -/
def Reg.GLB_SPILL_CFG : Nat := 0x00000168
/-- SLC_WAY_EN (R161). -/
def Reg.SLC_WAY_EN (i : Nat) : Nat := 0x01000048 + 0x10000 * i
/-- SLC_WAY_STAT (R161). -/
def Reg.SLC_WAY_STAT (i : Nat) : Nat := 0x0100004C + 0x10000 * i
/-- CMI_CTL (R161). -/
def Reg.CMI_CTL (i : Nat) : Nat := 0x01200040 + 0x10000 * i
/-- DRL_CFG (R188). -/
def Reg.DRL_CFG (i : Nat) : Nat := 0x014000C0 + 0x20000 * i
/-- DRL_CFG2 (R188). -/
def Reg.DRL_CFG2 (i : Nat) : Nat := 0x014000C4 + 0x20000 * i
/-- DRL_STAT (R188). -/
def Reg.DRL_STAT (i : Nat) : Nat := 0x014000C8 + 0x20000 * i
/-- DRL_ACC (R188). -/
def Reg.DRL_ACC : Nat := 0x00000190
/-- GLB_ATOM_CFG (R232). -/
def Reg.GLB_ATOM_CFG : Nat := 0x000001A0
/-- GLB_DEAD_IDX (R232). -/
def Reg.GLB_DEAD_IDX : Nat := 0x000001A4
/-- GLB_DEAD_MAP (R232). -/
def Reg.GLB_DEAD_MAP : Nat := 0x000001A8
/-- GLB_DEAD_CTL (R232). -/
def Reg.GLB_DEAD_CTL : Nat := 0x000001AC
/-- GLB_COH_TMO (R232). -/
def Reg.GLB_COH_TMO : Nat := 0x000001B0
/-- AGP_DEAD_CFG (R232). -/
def Reg.AGP_DEAD_CFG (i : Nat) : Nat := 0x014000E0 + 0x20000 * i
/-- AGP_DEAD_CTL (R232). -/
def Reg.AGP_DEAD_CTL (i : Nat) : Nat := 0x014000E4 + 0x20000 * i
/-- SNF_ERR (R232). -/
def Reg.SNF_ERR (i : Nat) : Nat := 0x01000050 + 0x10000 * i
/-- DIR_ERR (R232). -/
def Reg.DIR_ERR (i : Nat) : Nat := 0x01000054 + 0x10000 * i
/-- AGP_PWQ_CTL (R283). -/
def Reg.AGP_PWQ_CTL (i : Nat) : Nat := 0x01400100 + 0x20000 * i
/-- AGP_PWQ_STAT (R283). -/
def Reg.AGP_PWQ_STAT (i : Nat) : Nat := 0x01400104 + 0x20000 * i
/-- PTU_CTL (R308). -/
def Reg.PTU_CTL (i : Nat) : Nat := 0x01400200 + 0x20000 * i
/-- PTU_ROOT_LO (R308). -/
def Reg.PTU_ROOT_LO (i : Nat) : Nat := 0x01400204 + 0x20000 * i
/-- PTU_ROOT_HI (R308). -/
def Reg.PTU_ROOT_HI (i : Nat) : Nat := 0x01400208 + 0x20000 * i
/-- PTU_KEYR (R308). -/
def Reg.PTU_KEYR (i : Nat) : Nat := 0x0140020C + 0x20000 * i
/-- PTU_INV_ADDR_LO (R308). -/
def Reg.PTU_INV_ADDR_LO (i : Nat) : Nat := 0x01400210 + 0x20000 * i
/-- PTU_INV_ADDR_HI (R308). -/
def Reg.PTU_INV_ADDR_HI (i : Nat) : Nat := 0x01400214 + 0x20000 * i
/-- PTU_INV_CTL (R308). -/
def Reg.PTU_INV_CTL (i : Nat) : Nat := 0x01400218 + 0x20000 * i
/-- PTU_INV_STAT (R308). -/
def Reg.PTU_INV_STAT (i : Nat) : Nat := 0x0140021C + 0x20000 * i
/-- PTU_FLT_STAT (R308). -/
def Reg.PTU_FLT_STAT (i : Nat) : Nat := 0x01400220 + 0x20000 * i
/-- PTU_FLT_PA_LO (R308). -/
def Reg.PTU_FLT_PA_LO (i : Nat) : Nat := 0x01400224 + 0x20000 * i
/-- PTU_FLT_PA_HI (R308). -/
def Reg.PTU_FLT_PA_HI (i : Nat) : Nat := 0x01400228 + 0x20000 * i
/-- PTU_TLB_STAT (R308). -/
def Reg.PTU_TLB_STAT (i : Nat) : Nat := 0x0140022C + 0x20000 * i
/-- DAR_CTL (R334). -/
def Reg.DAR_CTL : Nat := 0x000001C0
/-- DAR_CACHE_RATE (R334). -/
def Reg.DAR_CACHE_RATE : Nat := 0x000001C4
/-- DAR_MEM_RATE (R334). -/
def Reg.DAR_MEM_RATE : Nat := 0x000001C8
/-- DAR_STAT (R334). -/
def Reg.DAR_STAT : Nat := 0x000001CC
/-- DAR_THR (R334). -/
def Reg.DAR_THR : Nat := 0x000001D0
/-- DAR_RET_STAT (R334). -/
def Reg.DAR_RET_STAT : Nat := 0x000001D4
/-- DAR_RET_CTL (R334). -/
def Reg.DAR_RET_CTL : Nat := 0x000001D8
/-- CMI_ERR (R334). -/
def Reg.CMI_ERR (i : Nat) : Nat := 0x01200044 + 0x10000 * i
/-- MEM_ERR (R334). -/
def Reg.MEM_ERR (i : Nat) : Nat := 0x01300040 + 0x40000 * i
/-- AGP_LINK_STAT (R371). -/
def Reg.AGP_LINK_STAT (i : Nat) : Nat := 0x01400040 + 0x20000 * i
/-- AGP_LINK_CTL (R371). -/
def Reg.AGP_LINK_CTL (i : Nat) : Nat := 0x01400044 + 0x20000 * i
/-- STL_LINK_STAT (R371). -/
def Reg.STL_LINK_STAT (i : Nat) : Nat := 0x01500040 + 0x10000 * i
/-- HDL_STAT (R371). -/
def Reg.HDL_STAT : Nat := 0x00100044
/-- CMI_CFG (R371). -/
def Reg.CMI_CFG (i : Nat) : Nat := 0x01200048 + 0x10000 * i
/-- CMI_STAT (R371). -/
def Reg.CMI_STAT (i : Nat) : Nat := 0x0120004C + 0x10000 * i
/-- MEM_CFG (R371). -/
def Reg.MEM_CFG (i : Nat) : Nat := 0x01300044 + 0x40000 * i
/-- MEM_STAT (R371). -/
def Reg.MEM_STAT (i : Nat) : Nat := 0x01300048 + 0x40000 * i
/-- EVT_RTE_IDX (R393). -/
def Reg.EVT_RTE_IDX : Nat := 0x00001040
/-- EVT_RTE (R393). -/
def Reg.EVT_RTE : Nat := 0x00001044
/-- EVT_INB (R393). -/
def Reg.EVT_INB : Nat := 0x00001048
/-- EVT_SW (R393). -/
def Reg.EVT_SW : Nat := 0x0000104C
/-- EVT_Q_CTL (R393). -/
def Reg.EVT_Q_CTL : Nat := 0x00001050
/-- EVT_Q_STAT (R393). -/
def Reg.EVT_Q_STAT : Nat := 0x00001054
/-- EVT_Q_BASE (R393). -/
def Reg.EVT_Q_BASE : Nat := 0x00001058
/-- LOG_WSEQ (R400). -/
def Reg.LOG_WSEQ : Nat := 0x00002000
/-- LOG_RSEQ (R400). -/
def Reg.LOG_RSEQ : Nat := 0x00002004
/-- LOG_MARK (R400). -/
def Reg.LOG_MARK : Nat := 0x00002008
/-- LOG_CTL (R400). -/
def Reg.LOG_CTL : Nat := 0x0000200C
/-- LOG_STAT (R400). -/
def Reg.LOG_STAT : Nat := 0x00002010
/-- IMG_STAT (R431). -/
def Reg.IMG_STAT : Nat := 0x00008000
/-- IMG_BUILD (R431). -/
def Reg.IMG_BUILD : Nat := 0x00008004
/-- KEY_FUSE_STAT (R431). -/
def Reg.KEY_FUSE_STAT : Nat := 0x00009000
/-- SES_CTL (R431). -/
def Reg.SES_CTL : Nat := 0x00007000
/-- SES_STAT (R431). -/
def Reg.SES_STAT : Nat := 0x00007004
/-- RTC_CTL (R431). -/
def Reg.RTC_CTL : Nat := 0x00005000
/-- RTC_SET_LO (R431). -/
def Reg.RTC_SET_LO : Nat := 0x00005004
/-- RTC_SET_HI (R431). -/
def Reg.RTC_SET_HI : Nat := 0x00005008
/-- TIM_CFG (R431). -/
def Reg.TIM_CFG : Nat := 0x00006000
/-- TIM_STAT (R431). -/
def Reg.TIM_STAT : Nat := 0x00006004
/-- PWR_CTL (R456). -/
def Reg.PWR_CTL : Nat := 0x00004000
/-- PWR_STAT (R456). -/
def Reg.PWR_STAT : Nat := 0x00004004
/-- PWR_ALARM (R456). -/
def Reg.PWR_ALARM : Nat := 0x00004008
/-- PWR_SEED_BASE (R456). -/
def Reg.PWR_SEED_BASE : Nat := 0x0000400C
/-- PWR_SEED_CFG (R456). -/
def Reg.PWR_SEED_CFG : Nat := 0x00004010
/-- PWR_SEED_STAT (R456). -/
def Reg.PWR_SEED_STAT : Nat := 0x00004014
/-- PWR_VDDC_CFG (R456). -/
def Reg.PWR_VDDC_CFG : Nat := 0x00004018
/-- PWR_VDDC_STAT (R456). -/
def Reg.PWR_VDDC_STAT : Nat := 0x0000401C
/-- PWR_PMB_CFG (R456). -/
def Reg.PWR_PMB_CFG : Nat := 0x00004020
/-- PWR_PMB_STAT (R456). -/
def Reg.PWR_PMB_STAT : Nat := 0x00004024
/-- PWR_THERM_CFG (R456). -/
def Reg.PWR_THERM_CFG : Nat := 0x00004028
/-- PWR_THERM_STAT (R456). -/
def Reg.PWR_THERM_STAT : Nat := 0x0000402C

def F.GLB_ID.PART : RField := ⟨Reg.GLB_ID, 20, 12⟩
def F.GLB_ID.VARIANT : RField := ⟨Reg.GLB_ID, 16, 4⟩
def F.GLB_ID.STEP_MAJOR : RField := ⟨Reg.GLB_ID, 12, 4⟩
def F.GLB_ID.STEP_MINOR : RField := ⟨Reg.GLB_ID, 8, 4⟩
def F.GLB_ID.LINKS : RField := ⟨Reg.GLB_ID, 4, 4⟩
def F.GLB_ID.NODE_LOG2 : RField := ⟨Reg.GLB_ID, 0, 4⟩
def F.GLB_NODE.NODE : RField := ⟨Reg.GLB_NODE, 0, 9⟩
def F.GLB_NODE.DX_M1 : RField := ⟨Reg.GLB_NODE, 9, 3⟩
def F.GLB_NODE.DY_M1 : RField := ⟨Reg.GLB_NODE, 12, 3⟩
def F.GLB_NODE.DZ_M1 : RField := ⟨Reg.GLB_NODE, 15, 3⟩
def F.GLB_NODE.TORUS_X : RField := ⟨Reg.GLB_NODE, 18, 1⟩
def F.GLB_NODE.TORUS_Y : RField := ⟨Reg.GLB_NODE, 19, 1⟩
def F.GLB_NODE.TORUS_Z : RField := ⟨Reg.GLB_NODE, 20, 1⟩
def F.GLB_NODE.REMOTE_CSR_WR : RField := ⟨Reg.GLB_NODE, 21, 1⟩
def F.GLB_MEMMAP.PORT_CAP : RField := ⟨Reg.GLB_MEMMAP, 0, 6⟩
def F.GLB_MEMMAP.CH4 : RField := ⟨Reg.GLB_MEMMAP, 8, 1⟩
def F.GLB_MMIO_OWN0.W0_PORT : RField := ⟨Reg.GLB_MMIO_OWN0, 0, 4⟩
def F.GLB_MMIO_OWN0.W1_PORT : RField := ⟨Reg.GLB_MMIO_OWN0, 4, 4⟩
def F.GLB_MMIO_OWN0.W2_PORT : RField := ⟨Reg.GLB_MMIO_OWN0, 8, 4⟩
def F.GLB_MMIO_OWN0.W3_PORT : RField := ⟨Reg.GLB_MMIO_OWN0, 12, 4⟩
def F.GLB_MMIO_OWN0.W4_PORT : RField := ⟨Reg.GLB_MMIO_OWN0, 16, 4⟩
def F.GLB_MMIO_OWN0.W5_PORT : RField := ⟨Reg.GLB_MMIO_OWN0, 20, 4⟩
def F.GLB_MMIO_OWN0.W6_PORT : RField := ⟨Reg.GLB_MMIO_OWN0, 24, 4⟩
def F.GLB_MMIO_OWN0.W7_PORT : RField := ⟨Reg.GLB_MMIO_OWN0, 28, 4⟩
def F.GLB_MMIO_OWN1.W8_PORT : RField := ⟨Reg.GLB_MMIO_OWN1, 0, 4⟩
def F.GLB_MMIO_OWN1.W9_PORT : RField := ⟨Reg.GLB_MMIO_OWN1, 4, 4⟩
def F.GLB_MMIO_OWN1.W10_PORT : RField := ⟨Reg.GLB_MMIO_OWN1, 8, 4⟩
def F.GLB_MMIO_OWN1.W11_PORT : RField := ⟨Reg.GLB_MMIO_OWN1, 12, 4⟩
def F.GLB_MMIO_OWN1.W12_PORT : RField := ⟨Reg.GLB_MMIO_OWN1, 16, 4⟩
def F.GLB_MMIO_OWN1.W13_PORT : RField := ⟨Reg.GLB_MMIO_OWN1, 20, 4⟩
def F.GLB_MMIO_OWN1.W14_PORT : RField := ⟨Reg.GLB_MMIO_OWN1, 24, 4⟩
def F.GLB_MMIO_OWN1.W15_PORT : RField := ⟨Reg.GLB_MMIO_OWN1, 28, 4⟩
def F.SLC_PACE.NOW (i : Nat) : RField := ⟨Reg.SLC_PACE i, 0, 10⟩
def F.SLC_PACE.ADMIT (i : Nat) : RField := ⟨Reg.SLC_PACE i, 16, 10⟩
def F.GLB_PACE_HUB.ADMIT_W : RField := ⟨Reg.GLB_PACE_HUB, 0, 10⟩
def F.GLB_PACE_HUB.ADMIT_E : RField := ⟨Reg.GLB_PACE_HUB, 16, 10⟩
def F.HDL_PACE.ADMIT_WE : RField := ⟨Reg.HDL_PACE, 0, 10⟩
def F.HDL_PACE.ADMIT_EW : RField := ⟨Reg.HDL_PACE, 16, 10⟩
def F.GLB_ALT_IDX.NODE : RField := ⟨Reg.GLB_ALT_IDX, 0, 9⟩
def F.GLB_ALT_DATA.OUT_P0 : RField := ⟨Reg.GLB_ALT_DATA, 0, 2⟩
def F.GLB_ALT_DATA.OUT_USED : RField := ⟨Reg.GLB_ALT_DATA, 4, 2⟩
def F.GLB_ALT_DATA.IN_P0 : RField := ⟨Reg.GLB_ALT_DATA, 8, 2⟩
def F.GLB_ALT_DATA.IN_USED : RField := ⟨Reg.GLB_ALT_DATA, 12, 2⟩
def F.GLB_PRM_MODE.CUR_MODE : RField := ⟨Reg.GLB_PRM_MODE, 0, 2⟩
def F.GLB_PRM_MODE.REQ_MODE : RField := ⟨Reg.GLB_PRM_MODE, 2, 2⟩
def F.GLB_PRM_MODE.SWITCHING : RField := ⟨Reg.GLB_PRM_MODE, 4, 1⟩
def F.GLB_PRM_MODE.FALLBACK : RField := ⟨Reg.GLB_PRM_MODE, 5, 1⟩
def F.GLB_PRM_MODE.AUTO_RETURN : RField := ⟨Reg.GLB_PRM_MODE, 6, 1⟩
def F.GLB_PRM_CFG.MARGIN_B : RField := ⟨Reg.GLB_PRM_CFG, 0, 8⟩
def F.GLB_PRM_CFG.MARGIN_F : RField := ⟨Reg.GLB_PRM_CFG, 8, 8⟩
def F.GLB_PRM_CFG.HOLD : RField := ⟨Reg.GLB_PRM_CFG, 16, 8⟩
def F.GLB_PRM_CFG.DRILL_GATE : RField := ⟨Reg.GLB_PRM_CFG, 24, 8⟩
def F.GLB_PRM_FLOOR.FLOOR_B : RField := ⟨Reg.GLB_PRM_FLOOR, 0, 8⟩
def F.GLB_PRM_FLOOR.FLOOR_F : RField := ⟨Reg.GLB_PRM_FLOOR, 8, 8⟩
def F.GLB_PRM_STAT.FLOOR_W : RField := ⟨Reg.GLB_PRM_STAT, 0, 1⟩
def F.GLB_PRM_STAT.FLOOR_E : RField := ⟨Reg.GLB_PRM_STAT, 1, 1⟩
def F.GLB_PRM_STAT.MARGIN : RField := ⟨Reg.GLB_PRM_STAT, 2, 1⟩
def F.GLB_PRM_STAT.OVERRUN : RField := ⟨Reg.GLB_PRM_STAT, 3, 1⟩
def F.GLB_PRM_STAT.REMOTE_OVERRUN : RField := ⟨Reg.GLB_PRM_STAT, 4, 1⟩
def F.GLB_PRM_STAT.DEMOTED : RField := ⟨Reg.GLB_PRM_STAT, 5, 1⟩
def F.GLB_PRM_STAT.CEILING : RField := ⟨Reg.GLB_PRM_STAT, 6, 1⟩
def F.AGP_CRD_CFG.P0_PER_CH (i : Nat) : RField := ⟨Reg.AGP_CRD_CFG i, 0, 5⟩
def F.AGP_CRD_CFG.P1_PER_CH (i : Nat) : RField := ⟨Reg.AGP_CRD_CFG i, 8, 5⟩
def F.AGP_CRD_CFG.P2_MAX (i : Nat) : RField := ⟨Reg.AGP_CRD_CFG i, 16, 12⟩
def F.AGP_CRD_STAT.P0_HELD (i : Nat) : RField := ⟨Reg.AGP_CRD_STAT i, 0, 8⟩
def F.AGP_CRD_STAT.P1_HELD (i : Nat) : RField := ⟨Reg.AGP_CRD_STAT i, 8, 8⟩
def F.AGP_CRD_STAT.P2_HELD (i : Nat) : RField := ⟨Reg.AGP_CRD_STAT i, 16, 12⟩
def F.GLB_CACHE_CFG.CAP : RField := ⟨Reg.GLB_CACHE_CFG, 0, 2⟩
def F.GLB_CACHE_CFG.RANKS2 : RField := ⟨Reg.GLB_CACHE_CFG, 2, 1⟩
def F.GLB_CACHE_CFG.DEV8M : RField := ⟨Reg.GLB_CACHE_CFG, 3, 1⟩
def F.SLC_TAG_ERR.CORR (i : Nat) : RField := ⟨Reg.SLC_TAG_ERR i, 0, 1⟩
def F.SLC_TAG_ERR.LOST (i : Nat) : RField := ⟨Reg.SLC_TAG_ERR i, 1, 1⟩
def F.SLC_TAG_ERR.WAY (i : Nat) : RField := ⟨Reg.SLC_TAG_ERR i, 4, 4⟩
def F.SLC_TAG_ERR.SET (i : Nat) : RField := ⟨Reg.SLC_TAG_ERR i, 16, 13⟩
def F.GLB_INS_AGE.INS_DEMAND : RField := ⟨Reg.GLB_INS_AGE, 0, 2⟩
def F.GLB_INS_AGE.INS_WRITE : RField := ⟨Reg.GLB_INS_AGE, 2, 2⟩
def F.GLB_INS_AGE.INS_PREFETCH : RField := ⟨Reg.GLB_INS_AGE, 4, 2⟩
def F.GLB_INS_AGE.INS_RESOW : RField := ⟨Reg.GLB_INS_AGE, 6, 2⟩
def F.GLB_INS_AGE.INS_HINT : RField := ⟨Reg.GLB_INS_AGE, 8, 2⟩
def F.GLB_INS_AGE.AGE_HIT : RField := ⟨Reg.GLB_INS_AGE, 10, 2⟩
def F.AGP_WAY01.P0_MASK (i : Nat) : RField := ⟨Reg.AGP_WAY01 i, 0, 16⟩
def F.AGP_WAY01.P1_MASK (i : Nat) : RField := ⟨Reg.AGP_WAY01 i, 16, 16⟩
def F.AGP_WAY2.P2_MASK (i : Nat) : RField := ⟨Reg.AGP_WAY2 i, 0, 16⟩
def F.GLB_BG_WAY.RESOW_MASK : RField := ⟨Reg.GLB_BG_WAY, 0, 16⟩
def F.GLB_BG_WAY.HINT_MASK : RField := ⟨Reg.GLB_BG_WAY, 16, 16⟩
def F.GLB_RGN_IDX.INDEX : RField := ⟨Reg.GLB_RGN_IDX, 0, 6⟩
def F.GLB_RGN_BASE.BASE_LO : RField := ⟨Reg.GLB_RGN_BASE, 0, 32⟩
def F.GLB_RGN_ATTR.BASE_HI : RField := ⟨Reg.GLB_RGN_ATTR, 0, 4⟩
def F.GLB_RGN_ATTR.SIZE : RField := ⟨Reg.GLB_RGN_ATTR, 4, 6⟩
def F.GLB_RGN_ATTR.POLICY : RField := ⟨Reg.GLB_RGN_ATTR, 10, 3⟩
def F.GLB_RGN_ATTR.VALID : RField := ⟨Reg.GLB_RGN_ATTR, 16, 1⟩
def F.GLB_PRESS_CFG.AGE : RField := ⟨Reg.GLB_PRESS_CFG, 0, 8⟩
def F.GLB_PRESS_CFG.HIGH_WATER : RField := ⟨Reg.GLB_PRESS_CFG, 8, 5⟩
def F.GLB_SWATH_CFG.EN : RField := ⟨Reg.GLB_SWATH_CFG, 0, 1⟩
def F.GLB_SWATH_CFG.ON : RField := ⟨Reg.GLB_SWATH_CFG, 4, 8⟩
def F.GLB_SWATH_CFG.GAP : RField := ⟨Reg.GLB_SWATH_CFG, 12, 4⟩
def F.GLB_SWATH_CFG.IDLE : RField := ⟨Reg.GLB_SWATH_CFG, 16, 8⟩
def F.GLB_MNT_ADDR_LO.SA_LO : RField := ⟨Reg.GLB_MNT_ADDR_LO, 7, 25⟩
def F.GLB_MNT_ADDR_HI.SA_HI : RField := ⟨Reg.GLB_MNT_ADDR_HI, 0, 20⟩
def F.GLB_MNT_LEN.LINES : RField := ⟨Reg.GLB_MNT_LEN, 0, 32⟩
def F.GLB_MNT_SW.SET : RField := ⟨Reg.GLB_MNT_SW, 0, 13⟩
def F.GLB_MNT_SW.WAY : RField := ⟨Reg.GLB_MNT_SW, 16, 4⟩
def F.GLB_MNT_SW.SLICE : RField := ⟨Reg.GLB_MNT_SW, 24, 5⟩
def F.GLB_MNT_SW.ALL_SETS : RField := ⟨Reg.GLB_MNT_SW, 31, 1⟩
def F.GLB_MNT_CTL.OP : RField := ⟨Reg.GLB_MNT_CTL, 0, 2⟩
def F.GLB_MNT_CTL.SW : RField := ⟨Reg.GLB_MNT_CTL, 2, 1⟩
def F.GLB_MNT_CTL.START : RField := ⟨Reg.GLB_MNT_CTL, 3, 1⟩
def F.GLB_MNT_CTL.KEY : RField := ⟨Reg.GLB_MNT_CTL, 8, 8⟩
def F.GLB_MNT_STAT.BUSY : RField := ⟨Reg.GLB_MNT_STAT, 0, 1⟩
def F.GLB_MNT_STAT.DONE : RField := ⟨Reg.GLB_MNT_STAT, 1, 1⟩
def F.GLB_MNT_STAT.ERR : RField := ⟨Reg.GLB_MNT_STAT, 2, 1⟩
def F.GLB_MNT_STAT.REFUSED : RField := ⟨Reg.GLB_MNT_STAT, 3, 1⟩
def F.GLB_MNT_STAT.ERR_CODE : RField := ⟨Reg.GLB_MNT_STAT, 4, 4⟩
def F.GLB_SPILL_CFG.SIZE_MIB : RField := ⟨Reg.GLB_SPILL_CFG, 0, 4⟩
def F.GLB_SPILL_CFG.A0_MIB : RField := ⟨Reg.GLB_SPILL_CFG, 4, 3⟩
def F.GLB_SPILL_CFG.A1_MIB : RField := ⟨Reg.GLB_SPILL_CFG, 7, 3⟩
def F.GLB_SPILL_CFG.A2_MIB : RField := ⟨Reg.GLB_SPILL_CFG, 10, 3⟩
def F.GLB_SPILL_CFG.A3_MIB : RField := ⟨Reg.GLB_SPILL_CFG, 13, 3⟩
def F.GLB_SPILL_CFG.A4_MIB : RField := ⟨Reg.GLB_SPILL_CFG, 16, 3⟩
def F.GLB_SPILL_CFG.A5_MIB : RField := ⟨Reg.GLB_SPILL_CFG, 19, 3⟩
def F.SLC_WAY_EN.EN (i : Nat) : RField := ⟨Reg.SLC_WAY_EN i, 0, 16⟩
def F.SLC_WAY_STAT.DRAINING (i : Nat) : RField := ⟨Reg.SLC_WAY_STAT i, 0, 16⟩
def F.SLC_WAY_STAT.DONE (i : Nat) : RField := ⟨Reg.SLC_WAY_STAT i, 16, 1⟩
def F.CMI_CTL.EN (i : Nat) : RField := ⟨Reg.CMI_CTL i, 0, 1⟩
def F.CMI_CTL.DRAINING (i : Nat) : RField := ⟨Reg.CMI_CTL i, 1, 1⟩
def F.CMI_CTL.REFUSED (i : Nat) : RField := ⟨Reg.CMI_CTL i, 2, 1⟩
def F.DRL_CFG.EN (i : Nat) : RField := ⟨Reg.DRL_CFG i, 0, 1⟩
def F.DRL_CFG.WALK (i : Nat) : RField := ⟨Reg.DRL_CFG i, 1, 1⟩
def F.DRL_CFG.REMOTE (i : Nat) : RField := ⟨Reg.DRL_CFG i, 2, 1⟩
def F.DRL_CFG.BOUND (i : Nat) : RField := ⟨Reg.DRL_CFG i, 4, 2⟩
def F.DRL_CFG.CONF_ON (i : Nat) : RField := ⟨Reg.DRL_CFG i, 8, 3⟩
def F.DRL_CFG.START (i : Nat) : RField := ⟨Reg.DRL_CFG i, 12, 5⟩
def F.DRL_CFG.RAMP (i : Nat) : RField := ⟨Reg.DRL_CFG i, 17, 4⟩
def F.DRL_CFG.MAX_DIST (i : Nat) : RField := ⟨Reg.DRL_CFG i, 21, 5⟩
def F.DRL_CFG2.WINDOW (i : Nat) : RField := ⟨Reg.DRL_CFG2 i, 0, 6⟩
def F.DRL_CFG2.CRD (i : Nat) : RField := ⟨Reg.DRL_CFG2 i, 8, 4⟩
def F.DRL_CFG2.REMOTE_MAX (i : Nat) : RField := ⟨Reg.DRL_CFG2 i, 12, 4⟩
def F.DRL_CFG2.IDLE (i : Nat) : RField := ⟨Reg.DRL_CFG2 i, 16, 8⟩
def F.DRL_STAT.ACTIVE (i : Nat) : RField := ⟨Reg.DRL_STAT i, 0, 7⟩
def F.DRL_STAT.EFF_MAX (i : Nat) : RField := ⟨Reg.DRL_STAT i, 8, 5⟩
def F.DRL_STAT.GATED (i : Nat) : RField := ⟨Reg.DRL_STAT i, 16, 1⟩
def F.DRL_ACC.INTERVAL : RField := ⟨Reg.DRL_ACC, 0, 8⟩
def F.DRL_ACC.MIN : RField := ⟨Reg.DRL_ACC, 8, 8⟩
def F.DRL_ACC.CAP : RField := ⟨Reg.DRL_ACC, 16, 5⟩
def F.DRL_ACC.ACC_EN : RField := ⟨Reg.DRL_ACC, 21, 1⟩
def F.GLB_ATOM_CFG.HOT : RField := ⟨Reg.GLB_ATOM_CFG, 0, 2⟩
def F.GLB_ATOM_CFG.DECAY : RField := ⟨Reg.GLB_ATOM_CFG, 4, 8⟩
def F.GLB_ATOM_CFG.PLACE : RField := ⟨Reg.GLB_ATOM_CFG, 12, 2⟩
def F.GLB_ATOM_CFG.MASK : RField := ⟨Reg.GLB_ATOM_CFG, 16, 16⟩
def F.GLB_DEAD_IDX.GROUP : RField := ⟨Reg.GLB_DEAD_IDX, 0, 4⟩
def F.GLB_DEAD_MAP.DEAD : RField := ⟨Reg.GLB_DEAD_MAP, 0, 32⟩
def F.GLB_DEAD_CTL.NODE : RField := ⟨Reg.GLB_DEAD_CTL, 0, 9⟩
def F.GLB_DEAD_CTL.KEY : RField := ⟨Reg.GLB_DEAD_CTL, 16, 8⟩
def F.GLB_DEAD_CTL.DECLARE : RField := ⟨Reg.GLB_DEAD_CTL, 24, 1⟩
def F.GLB_COH_TMO.NODE_T : RField := ⟨Reg.GLB_COH_TMO, 0, 8⟩
def F.AGP_DEAD_CFG.SNP_T (i : Nat) : RField := ⟨Reg.AGP_DEAD_CFG i, 0, 8⟩
def F.AGP_DEAD_CFG.LINK_T (i : Nat) : RField := ⟨Reg.AGP_DEAD_CFG i, 8, 8⟩
def F.AGP_DEAD_CTL.DEAD (i : Nat) : RField := ⟨Reg.AGP_DEAD_CTL i, 0, 1⟩
def F.AGP_DEAD_CTL.CAUSE (i : Nat) : RField := ⟨Reg.AGP_DEAD_CTL i, 1, 2⟩
def F.AGP_DEAD_CTL.RECLAIMED (i : Nat) : RField := ⟨Reg.AGP_DEAD_CTL i, 3, 1⟩
def F.AGP_DEAD_CTL.DECLARE (i : Nat) : RField := ⟨Reg.AGP_DEAD_CTL i, 8, 1⟩
def F.AGP_DEAD_CTL.KEY (i : Nat) : RField := ⟨Reg.AGP_DEAD_CTL i, 16, 8⟩
def F.SNF_ERR.PURGE (i : Nat) : RField := ⟨Reg.SNF_ERR i, 0, 1⟩
def F.SNF_ERR.SET (i : Nat) : RField := ⟨Reg.SNF_ERR i, 16, 9⟩
def F.DIR_ERR.RECALL (i : Nat) : RField := ⟨Reg.DIR_ERR i, 0, 1⟩
def F.DIR_ERR.SET (i : Nat) : RField := ⟨Reg.DIR_ERR i, 16, 11⟩
def F.AGP_PWQ_CTL.FLUSH (i : Nat) : RField := ⟨Reg.AGP_PWQ_CTL i, 0, 1⟩
def F.AGP_PWQ_STAT.DEPTH (i : Nat) : RField := ⟨Reg.AGP_PWQ_STAT i, 0, 15⟩
def F.AGP_PWQ_STAT.SPILLED (i : Nat) : RField := ⟨Reg.AGP_PWQ_STAT i, 16, 1⟩
def F.AGP_PWQ_STAT.FLUSHING (i : Nat) : RField := ⟨Reg.AGP_PWQ_STAT i, 17, 1⟩
def F.AGP_PWQ_STAT.DONE (i : Nat) : RField := ⟨Reg.AGP_PWQ_STAT i, 18, 1⟩
def F.AGP_PWQ_STAT.ORD_CACHING (i : Nat) : RField := ⟨Reg.AGP_PWQ_STAT i, 19, 1⟩
def F.PTU_CTL.EN (i : Nat) : RField := ⟨Reg.PTU_CTL i, 0, 1⟩
def F.PTU_CTL.SPEC (i : Nat) : RField := ⟨Reg.PTU_CTL i, 1, 1⟩
def F.PTU_CTL.WALKS (i : Nat) : RField := ⟨Reg.PTU_CTL i, 4, 3⟩
def F.PTU_CTL.SEED (i : Nat) : RField := ⟨Reg.PTU_CTL i, 16, 16⟩
def F.PTU_ROOT_LO.ROOT_LO (i : Nat) : RField := ⟨Reg.PTU_ROOT_LO i, 12, 20⟩
def F.PTU_ROOT_HI.ROOT_HI (i : Nat) : RField := ⟨Reg.PTU_ROOT_HI i, 0, 20⟩
def F.PTU_ROOT_HI.CTX (i : Nat) : RField := ⟨Reg.PTU_ROOT_HI i, 20, 12⟩
def F.PTU_KEYR.ALL (i : Nat) : RField := ⟨Reg.PTU_KEYR i, 0, 32⟩
def F.PTU_INV_ADDR_LO.PA_LO (i : Nat) : RField := ⟨Reg.PTU_INV_ADDR_LO i, 12, 20⟩
def F.PTU_INV_ADDR_HI.PA_HI (i : Nat) : RField := ⟨Reg.PTU_INV_ADDR_HI i, 0, 16⟩
def F.PTU_INV_ADDR_HI.CTX (i : Nat) : RField := ⟨Reg.PTU_INV_ADDR_HI i, 16, 12⟩
def F.PTU_INV_CTL.OP (i : Nat) : RField := ⟨Reg.PTU_INV_CTL i, 0, 2⟩
def F.PTU_INV_CTL.START (i : Nat) : RField := ⟨Reg.PTU_INV_CTL i, 2, 1⟩
def F.PTU_INV_STAT.BUSY (i : Nat) : RField := ⟨Reg.PTU_INV_STAT i, 0, 1⟩
def F.PTU_INV_STAT.DONE (i : Nat) : RField := ⟨Reg.PTU_INV_STAT i, 1, 1⟩
def F.PTU_INV_STAT.REFUSED (i : Nat) : RField := ⟨Reg.PTU_INV_STAT i, 2, 1⟩
def F.PTU_INV_STAT.ERR (i : Nat) : RField := ⟨Reg.PTU_INV_STAT i, 3, 1⟩
def F.PTU_FLT_STAT.VALID (i : Nat) : RField := ⟨Reg.PTU_FLT_STAT i, 0, 1⟩
def F.PTU_FLT_STAT.OVF (i : Nat) : RField := ⟨Reg.PTU_FLT_STAT i, 1, 1⟩
def F.PTU_FLT_STAT.CODE (i : Nat) : RField := ⟨Reg.PTU_FLT_STAT i, 2, 3⟩
def F.PTU_FLT_STAT.KIND (i : Nat) : RField := ⟨Reg.PTU_FLT_STAT i, 5, 2⟩
def F.PTU_FLT_STAT.POSTED (i : Nat) : RField := ⟨Reg.PTU_FLT_STAT i, 7, 1⟩
def F.PTU_FLT_STAT.TAG (i : Nat) : RField := ⟨Reg.PTU_FLT_STAT i, 8, 12⟩
def F.PTU_FLT_PA_LO.PA_LO (i : Nat) : RField := ⟨Reg.PTU_FLT_PA_LO i, 0, 32⟩
def F.PTU_FLT_PA_HI.PA_HI (i : Nat) : RField := ⟨Reg.PTU_FLT_PA_HI i, 0, 16⟩
def F.PTU_FLT_PA_HI.LEVEL (i : Nat) : RField := ⟨Reg.PTU_FLT_PA_HI i, 16, 2⟩
def F.PTU_TLB_STAT.VALID_CNT (i : Nat) : RField := ⟨Reg.PTU_TLB_STAT i, 0, 8⟩
def F.PTU_TLB_STAT.LFSR (i : Nat) : RField := ⟨Reg.PTU_TLB_STAT i, 16, 16⟩
def F.DAR_CTL.CACHE_EN : RField := ⟨Reg.DAR_CTL, 0, 1⟩
def F.DAR_CTL.MEM_EN : RField := ⟨Reg.DAR_CTL, 1, 1⟩
def F.DAR_CTL.RETIRE_EN : RField := ⟨Reg.DAR_CTL, 2, 1⟩
def F.DAR_CTL.REPAIR_EN : RField := ⟨Reg.DAR_CTL, 3, 1⟩
def F.DAR_CTL.RESTART_CACHE : RField := ⟨Reg.DAR_CTL, 8, 1⟩
def F.DAR_CTL.RESTART_MEM : RField := ⟨Reg.DAR_CTL, 9, 1⟩
def F.DAR_CACHE_RATE.INTERVAL : RField := ⟨Reg.DAR_CACHE_RATE, 0, 24⟩
def F.DAR_MEM_RATE.INTERVAL : RField := ⟨Reg.DAR_MEM_RATE, 0, 24⟩
def F.DAR_STAT.CACHE_PASS : RField := ⟨Reg.DAR_STAT, 0, 1⟩
def F.DAR_STAT.MEM_PASS : RField := ⟨Reg.DAR_STAT, 1, 1⟩
def F.DAR_STAT.LAG : RField := ⟨Reg.DAR_STAT, 2, 1⟩
def F.DAR_STAT.CACHE_BUSY : RField := ⟨Reg.DAR_STAT, 3, 1⟩
def F.DAR_STAT.MEM_BUSY : RField := ⟨Reg.DAR_STAT, 4, 1⟩
def F.DAR_THR.CE_THR : RField := ⟨Reg.DAR_THR, 0, 8⟩
def F.DAR_THR.WIN : RField := ⟨Reg.DAR_THR, 8, 4⟩
def F.DAR_THR.ECS_THR : RField := ⟨Reg.DAR_THR, 16, 8⟩
def F.DAR_RET_STAT.SLOT_RET : RField := ⟨Reg.DAR_RET_STAT, 0, 1⟩
def F.DAR_RET_STAT.REFUSED : RField := ⟨Reg.DAR_RET_STAT, 1, 1⟩
def F.DAR_RET_STAT.LIST_FULL : RField := ⟨Reg.DAR_RET_STAT, 2, 1⟩
def F.DAR_RET_STAT.M0_COUNT : RField := ⟨Reg.DAR_RET_STAT, 4, 7⟩
def F.DAR_RET_STAT.M1_COUNT : RField := ⟨Reg.DAR_RET_STAT, 12, 7⟩
def F.DAR_RET_CTL.CLEAR_M0 : RField := ⟨Reg.DAR_RET_CTL, 0, 1⟩
def F.DAR_RET_CTL.CLEAR_M1 : RField := ⟨Reg.DAR_RET_CTL, 1, 1⟩
def F.DAR_RET_CTL.UNRETIRE : RField := ⟨Reg.DAR_RET_CTL, 2, 1⟩
def F.DAR_RET_CTL.KEY : RField := ⟨Reg.DAR_RET_CTL, 8, 8⟩
def F.DAR_RET_CTL.RET_LIMIT : RField := ⟨Reg.DAR_RET_CTL, 16, 3⟩
def F.CMI_ERR.CE (i : Nat) : RField := ⟨Reg.CMI_ERR i, 0, 1⟩
def F.CMI_ERR.UE (i : Nat) : RField := ⟨Reg.CMI_ERR i, 1, 1⟩
def F.CMI_ERR.THR (i : Nat) : RField := ⟨Reg.CMI_ERR i, 2, 1⟩
def F.CMI_ERR.VERIFY (i : Nat) : RField := ⟨Reg.CMI_ERR i, 3, 1⟩
def F.CMI_ERR.CE_WIN (i : Nat) : RField := ⟨Reg.CMI_ERR i, 16, 16⟩
def F.MEM_ERR.CE (i : Nat) : RField := ⟨Reg.MEM_ERR i, 0, 1⟩
def F.MEM_ERR.UE (i : Nat) : RField := ⟨Reg.MEM_ERR i, 1, 1⟩
def F.MEM_ERR.THR (i : Nat) : RField := ⟨Reg.MEM_ERR i, 2, 1⟩
def F.MEM_ERR.VERIFY (i : Nat) : RField := ⟨Reg.MEM_ERR i, 3, 1⟩
def F.MEM_ERR.ECS (i : Nat) : RField := ⟨Reg.MEM_ERR i, 4, 1⟩
def F.MEM_ERR.CE_WIN (i : Nat) : RField := ⟨Reg.MEM_ERR i, 16, 16⟩
def F.AGP_LINK_STAT.STATE (i : Nat) : RField := ⟨Reg.AGP_LINK_STAT i, 0, 4⟩
def F.AGP_LINK_STAT.REVERSED (i : Nat) : RField := ⟨Reg.AGP_LINK_STAT i, 4, 1⟩
def F.AGP_LINK_STAT.POLINV (i : Nat) : RField := ⟨Reg.AGP_LINK_STAT i, 5, 8⟩
def F.AGP_LINK_STAT.CAUSE (i : Nat) : RField := ⟨Reg.AGP_LINK_STAT i, 13, 3⟩
def F.AGP_LINK_STAT.DOWN (i : Nat) : RField := ⟨Reg.AGP_LINK_STAT i, 16, 1⟩
def F.AGP_LINK_CTL.RETRAIN (i : Nat) : RField := ⟨Reg.AGP_LINK_CTL i, 0, 1⟩
def F.AGP_LINK_CTL.PRESET (i : Nat) : RField := ⟨Reg.AGP_LINK_CTL i, 4, 4⟩
def F.STL_LINK_STAT.STATE (i : Nat) : RField := ⟨Reg.STL_LINK_STAT i, 0, 4⟩
def F.STL_LINK_STAT.REVERSED (i : Nat) : RField := ⟨Reg.STL_LINK_STAT i, 4, 1⟩
def F.STL_LINK_STAT.POLINV (i : Nat) : RField := ⟨Reg.STL_LINK_STAT i, 5, 4⟩
def F.STL_LINK_STAT.CAUSE (i : Nat) : RField := ⟨Reg.STL_LINK_STAT i, 9, 3⟩
def F.STL_LINK_STAT.DOWN (i : Nat) : RField := ⟨Reg.STL_LINK_STAT i, 12, 1⟩
def F.STL_LINK_STAT.PEER (i : Nat) : RField := ⟨Reg.STL_LINK_STAT i, 16, 9⟩
def F.HDL_STAT.STALL : RField := ⟨Reg.HDL_STAT, 0, 1⟩
def F.HDL_STAT.SUBLINK : RField := ⟨Reg.HDL_STAT, 1, 4⟩
def F.CMI_CFG.FREQ (i : Nat) : RField := ⟨Reg.CMI_CFG i, 0, 2⟩
def F.CMI_CFG.RL (i : Nat) : RField := ⟨Reg.CMI_CFG i, 4, 4⟩
def F.CMI_CFG.WL (i : Nat) : RField := ⟨Reg.CMI_CFG i, 8, 2⟩
def F.CMI_STAT.TRAINED (i : Nat) : RField := ⟨Reg.CMI_STAT i, 0, 1⟩
def F.CMI_STAT.TFAIL (i : Nat) : RField := ⟨Reg.CMI_STAT i, 1, 1⟩
def F.MEM_CFG.SPEED (i : Nat) : RField := ⟨Reg.MEM_CFG i, 0, 2⟩
def F.MEM_CFG.DPC2 (i : Nat) : RField := ⟨Reg.MEM_CFG i, 2, 1⟩
def F.MEM_CFG.RANKS (i : Nat) : RField := ⟨Reg.MEM_CFG i, 3, 2⟩
def F.MEM_CFG.X8 (i : Nat) : RField := ⟨Reg.MEM_CFG i, 5, 1⟩
def F.MEM_CFG.D32 (i : Nat) : RField := ⟨Reg.MEM_CFG i, 6, 1⟩
def F.MEM_CFG.MODULE (i : Nat) : RField := ⟨Reg.MEM_CFG i, 7, 2⟩
def F.MEM_STAT.TRAINED (i : Nat) : RField := ⟨Reg.MEM_STAT i, 0, 1⟩
def F.MEM_STAT.TFAIL (i : Nat) : RField := ⟨Reg.MEM_STAT i, 1, 1⟩
def F.MEM_STAT.REF2X (i : Nat) : RField := ⟨Reg.MEM_STAT i, 2, 1⟩
def F.MEM_STAT.PPR_BUSY (i : Nat) : RField := ⟨Reg.MEM_STAT i, 3, 1⟩
def F.MEM_STAT.PPR_DONE (i : Nat) : RField := ⟨Reg.MEM_STAT i, 4, 1⟩
def F.EVT_RTE_IDX.INDEX : RField := ⟨Reg.EVT_RTE_IDX, 0, 9⟩
def F.EVT_RTE.PIN : RField := ⟨Reg.EVT_RTE, 0, 2⟩
def F.EVT_RTE.PIN_EN : RField := ⟨Reg.EVT_RTE, 2, 1⟩
def F.EVT_RTE.QUEUE : RField := ⟨Reg.EVT_RTE, 3, 1⟩
def F.EVT_RTE.INBAND : RField := ⟨Reg.EVT_RTE, 4, 1⟩
def F.EVT_INB.PORT : RField := ⟨Reg.EVT_INB, 0, 3⟩
def F.EVT_INB.EN : RField := ⟨Reg.EVT_INB, 3, 1⟩
def F.EVT_SW.RAISE : RField := ⟨Reg.EVT_SW, 0, 32⟩
def F.EVT_Q_CTL.FLUSH : RField := ⟨Reg.EVT_Q_CTL, 0, 1⟩
def F.EVT_Q_STAT.DEPTH : RField := ⟨Reg.EVT_Q_STAT, 0, 17⟩
def F.EVT_Q_STAT.NONEMPTY : RField := ⟨Reg.EVT_Q_STAT, 17, 1⟩
def F.EVT_Q_STAT.SPILLED : RField := ⟨Reg.EVT_Q_STAT, 18, 1⟩
def F.EVT_Q_STAT.DROPPED : RField := ⟨Reg.EVT_Q_STAT, 19, 1⟩
def F.EVT_Q_STAT.FLUSHING : RField := ⟨Reg.EVT_Q_STAT, 20, 1⟩
def F.EVT_Q_STAT.DONE : RField := ⟨Reg.EVT_Q_STAT, 21, 1⟩
def F.EVT_Q_BASE.BASE : RField := ⟨Reg.EVT_Q_BASE, 20, 12⟩
def F.LOG_WSEQ.WSEQ : RField := ⟨Reg.LOG_WSEQ, 0, 32⟩
def F.LOG_RSEQ.RSEQ : RField := ⟨Reg.LOG_RSEQ, 0, 32⟩
def F.LOG_MARK.MARK : RField := ⟨Reg.LOG_MARK, 0, 32⟩
def F.LOG_CTL.MARK : RField := ⟨Reg.LOG_CTL, 0, 1⟩
def F.LOG_CTL.REWIND : RField := ⟨Reg.LOG_CTL, 1, 1⟩
def F.LOG_STAT.COUNT : RField := ⟨Reg.LOG_STAT, 0, 12⟩
def F.LOG_STAT.MARK_VALID : RField := ⟨Reg.LOG_STAT, 16, 1⟩
def F.LOG_STAT.MARK_LOST : RField := ⟨Reg.LOG_STAT, 17, 1⟩
def F.LOG_STAT.REWIND_ERR : RField := ⟨Reg.LOG_STAT, 18, 1⟩
def F.LOG_STAT.OVERTAKEN : RField := ⟨Reg.LOG_STAT, 19, 1⟩
def F.LOG_STAT.CLEARED : RField := ⟨Reg.LOG_STAT, 20, 1⟩
def F.IMG_STAT.STAGE : RField := ⟨Reg.IMG_STAT, 0, 4⟩
def F.IMG_STAT.SLOT : RField := ⟨Reg.IMG_STAT, 4, 1⟩
def F.IMG_STAT.SAFE : RField := ⟨Reg.IMG_STAT, 5, 1⟩
def F.IMG_STAT.SIGNED : RField := ⟨Reg.IMG_STAT, 6, 1⟩
def F.IMG_STAT.MEMINIT : RField := ⟨Reg.IMG_STAT, 7, 1⟩
def F.IMG_STAT.CAUSE_A : RField := ⟨Reg.IMG_STAT, 8, 4⟩
def F.IMG_STAT.CAUSE_B : RField := ⟨Reg.IMG_STAT, 12, 4⟩
def F.IMG_STAT.REPROV : RField := ⟨Reg.IMG_STAT, 16, 1⟩
def F.IMG_BUILD.BUILD : RField := ⟨Reg.IMG_BUILD, 0, 32⟩
def F.KEY_FUSE_STAT.PKH_SET : RField := ⟨Reg.KEY_FUSE_STAT, 0, 1⟩
def F.KEY_FUSE_STAT.RKEY_SET : RField := ⟨Reg.KEY_FUSE_STAT, 1, 1⟩
def F.SES_CTL.GO : RField := ⟨Reg.SES_CTL, 0, 1⟩
def F.SES_STAT.BUSY : RField := ⟨Reg.SES_STAT, 0, 1⟩
def F.SES_STAT.READY : RField := ⟨Reg.SES_STAT, 1, 1⟩
def F.SES_STAT.REFUSED : RField := ⟨Reg.SES_STAT, 2, 1⟩
def F.SES_STAT.OPEN_I3C : RField := ⟨Reg.SES_STAT, 3, 1⟩
def F.SES_STAT.OPEN_INB : RField := ⟨Reg.SES_STAT, 4, 1⟩
def F.SES_STAT.LEVEL_I3C : RField := ⟨Reg.SES_STAT, 5, 2⟩
def F.SES_STAT.LEVEL_INB : RField := ⟨Reg.SES_STAT, 7, 2⟩
def F.SES_STAT.LOCK_I3C : RField := ⟨Reg.SES_STAT, 9, 1⟩
def F.SES_STAT.LOCK_INB : RField := ⟨Reg.SES_STAT, 10, 1⟩
def F.RTC_CTL.LOAD : RField := ⟨Reg.RTC_CTL, 0, 1⟩
def F.RTC_CTL.FAULT : RField := ⟨Reg.RTC_CTL, 1, 1⟩
def F.RTC_CTL.AGING : RField := ⟨Reg.RTC_CTL, 16, 16⟩
def F.RTC_SET_LO.NS : RField := ⟨Reg.RTC_SET_LO, 0, 30⟩
def F.RTC_SET_LO.SEC_LO : RField := ⟨Reg.RTC_SET_LO, 30, 2⟩
def F.RTC_SET_HI.SEC_HI : RField := ⟨Reg.RTC_SET_HI, 0, 32⟩
def F.TIM_CFG.ROOT : RField := ⟨Reg.TIM_CFG, 0, 1⟩
def F.TIM_CFG.PPS_EN : RField := ⟨Reg.TIM_CFG, 1, 1⟩
def F.TIM_CFG.ROOT_NODE : RField := ⟨Reg.TIM_CFG, 2, 9⟩
def F.TIM_CFG.PPS_WIDTH : RField := ⟨Reg.TIM_CFG, 12, 8⟩
def F.TIM_STAT.RUNNING : RField := ⟨Reg.TIM_STAT, 0, 1⟩
def F.TIM_STAT.SYNC : RField := ⟨Reg.TIM_STAT, 1, 1⟩
def F.TIM_STAT.STRATUM : RField := ⟨Reg.TIM_STAT, 2, 4⟩
def F.TIM_STAT.PPS_LOST : RField := ⟨Reg.TIM_STAT, 6, 1⟩
def F.TIM_STAT.STEPPED : RField := ⟨Reg.TIM_STAT, 7, 1⟩
def F.PWR_CTL.REST : RField := ⟨Reg.PWR_CTL, 0, 1⟩
def F.PWR_CTL.FALLOW : RField := ⟨Reg.PWR_CTL, 1, 1⟩
def F.PWR_CTL.ALARM_EN : RField := ⟨Reg.PWR_CTL, 2, 1⟩
def F.PWR_CTL.SLP_EN : RField := ⟨Reg.PWR_CTL, 3, 1⟩
def F.PWR_CTL.WAKE_EN : RField := ⟨Reg.PWR_CTL, 4, 1⟩
def F.PWR_STAT.STATE : RField := ⟨Reg.PWR_STAT, 0, 3⟩
def F.PWR_STAT.REFUSED : RField := ⟨Reg.PWR_STAT, 3, 1⟩
def F.PWR_STAT.CAUSE : RField := ⟨Reg.PWR_STAT, 4, 4⟩
def F.PWR_STAT.VIN_LOW : RField := ⟨Reg.PWR_STAT, 8, 1⟩
def F.PWR_STAT.ON_VBAK : RField := ⟨Reg.PWR_STAT, 9, 1⟩
def F.PWR_STAT.VBAK_LOW : RField := ⟨Reg.PWR_STAT, 10, 1⟩
def F.PWR_STAT.WAKE_SRC : RField := ⟨Reg.PWR_STAT, 11, 3⟩
def F.PWR_STAT.TRIP : RField := ⟨Reg.PWR_STAT, 14, 1⟩
def F.PWR_ALARM.SEC : RField := ⟨Reg.PWR_ALARM, 0, 32⟩
def F.PWR_SEED_BASE.BASE : RField := ⟨Reg.PWR_SEED_BASE, 19, 13⟩
def F.PWR_SEED_CFG.SEED_MAX : RField := ⟨Reg.PWR_SEED_CFG, 0, 7⟩
def F.PWR_SEED_CFG.CRD : RField := ⟨Reg.PWR_SEED_CFG, 8, 4⟩
def F.PWR_SEED_CFG.RESOW_EN : RField := ⟨Reg.PWR_SEED_CFG, 12, 1⟩
def F.PWR_SEED_STAT.SEED_COUNT : RField := ⟨Reg.PWR_SEED_STAT, 0, 17⟩
def F.PWR_SEED_STAT.SEED_VALID : RField := ⟨Reg.PWR_SEED_STAT, 17, 1⟩
def F.PWR_SEED_STAT.RESOWING : RField := ⟨Reg.PWR_SEED_STAT, 18, 1⟩
def F.PWR_SEED_STAT.DONE : RField := ⟨Reg.PWR_SEED_STAT, 19, 1⟩
def F.PWR_VDDC_CFG.GUARD : RField := ⟨Reg.PWR_VDDC_CFG, 0, 8⟩
def F.PWR_VDDC_CFG.UP_PCT : RField := ⟨Reg.PWR_VDDC_CFG, 8, 8⟩
def F.PWR_VDDC_CFG.DN_PCT : RField := ⟨Reg.PWR_VDDC_CFG, 16, 8⟩
def F.PWR_VDDC_STAT.VMON_W : RField := ⟨Reg.PWR_VDDC_STAT, 0, 8⟩
def F.PWR_VDDC_STAT.VMON_E : RField := ⟨Reg.PWR_VDDC_STAT, 8, 8⟩
def F.PWR_VDDC_STAT.CMD_W : RField := ⟨Reg.PWR_VDDC_STAT, 16, 8⟩
def F.PWR_VDDC_STAT.CMD_E : RField := ⟨Reg.PWR_VDDC_STAT, 24, 8⟩
def F.PWR_PMB_CFG.ADDR_W : RField := ⟨Reg.PWR_PMB_CFG, 0, 7⟩
def F.PWR_PMB_CFG.ADDR_E : RField := ⟨Reg.PWR_PMB_CFG, 8, 7⟩
def F.PWR_PMB_CFG.EXP : RField := ⟨Reg.PWR_PMB_CFG, 16, 5⟩
def F.PWR_PMB_STAT.FAIL : RField := ⟨Reg.PWR_PMB_STAT, 0, 1⟩
def F.PWR_PMB_STAT.FAULT : RField := ⟨Reg.PWR_PMB_STAT, 1, 1⟩
def F.PWR_PMB_STAT.SIDE : RField := ⟨Reg.PWR_PMB_STAT, 2, 1⟩
def F.PWR_PMB_STAT.STATUS : RField := ⟨Reg.PWR_PMB_STAT, 16, 16⟩
def F.PWR_THERM_CFG.WARN : RField := ⟨Reg.PWR_THERM_CFG, 0, 8⟩
def F.PWR_THERM_CFG.THROT : RField := ⟨Reg.PWR_THERM_CFG, 8, 8⟩
def F.PWR_THERM_CFG.CRIT : RField := ⟨Reg.PWR_THERM_CFG, 16, 8⟩
def F.PWR_THERM_STAT.TEMP_W : RField := ⟨Reg.PWR_THERM_STAT, 0, 11⟩
def F.PWR_THERM_STAT.TEMP_E : RField := ⟨Reg.PWR_THERM_STAT, 11, 11⟩
def F.PWR_THERM_STAT.THROTTLING : RField := ⟨Reg.PWR_THERM_STAT, 22, 1⟩
def F.PWR_THERM_STAT.CRITICAL : RField := ⟨Reg.PWR_THERM_STAT, 23, 1⟩
def F.PWR_THERM_STAT.WARN_W : RField := ⟨Reg.PWR_THERM_STAT, 24, 1⟩
def F.PWR_THERM_STAT.WARN_E : RField := ⟨Reg.PWR_THERM_STAT, 25, 1⟩

def regsGlobal0 : List (Nat × RegRow) :=
  [(0x0, ⟨0x51211169, 0xFFFFFFFF, 0x00000000, 0x00000000⟩),
   (0x4, ⟨0x00000000, 0x003FFFFF, 0x00000000, 0x00000000⟩),
   (0x8, ⟨0x00000000, 0x0000013F, 0x00000000, 0x00000000⟩),
   (0xC, ⟨0xFFFFFFFF, 0xFFFFFFFF, 0x00000000, 0x00000000⟩),
   (0x10, ⟨0xFFFFFFFF, 0xFFFFFFFF, 0x00000000, 0x00000000⟩),
   (0x110, ⟨0x00000000, 0x03FF03FF, 0x00000000, 0x00000000⟩),
   (0x120, ⟨0x00000000, 0x000001FF, 0x000001FF, 0x00000000⟩),
   (0x124, ⟨0x00000000, 0x00003333, 0x00000000, 0x00000000⟩),
   (0x100, ⟨0x00000005, 0x0000007F, 0x0000004C, 0x00000020⟩),
   (0x104, ⟨0x55102020, 0xFFFFFFFF, 0xFFFFFFFF, 0x00000000⟩),
   (0x108, ⟨0x00007490, 0x0000FFFF, 0x0000FFFF, 0x00000000⟩),
   (0x10C, ⟨0x00000000, 0x0000007F, 0x00000000, 0x0000007F⟩),
   (0x140, ⟨0x00000000, 0x0000000F, 0x00000000, 0x00000000⟩),
   (0x144, ⟨0x000001B6, 0x00000FFF, 0x00000FFF, 0x00000000⟩),
   (0x148, ⟨0xFFFFFFFF, 0xFFFFFFFF, 0xFFFFFFFF, 0x00000000⟩),
   (0x150, ⟨0x00000000, 0x0000003F, 0x0000003F, 0x00000000⟩)]

def regsGlobal1 : List (Nat × RegRow) :=
  [(0x154, ⟨0x00000000, 0xFFFFFFFF, 0x00000000, 0x00000000⟩),
   (0x158, ⟨0x00000000, 0x00011FFF, 0x00000000, 0x00000000⟩),
   (0x160, ⟨0x00001810, 0x00001FFF, 0x00001FFF, 0x00000000⟩),
   (0x164, ⟨0x00102201, 0x00FFFFF1, 0x00FFFFF1, 0x00000000⟩),
   (0x170, ⟨0x00000000, 0xFFFFFF80, 0xFFFFFF80, 0x00000000⟩),
   (0x174, ⟨0x00000000, 0x000FFFFF, 0x000FFFFF, 0x00000000⟩),
   (0x178, ⟨0x00000000, 0xFFFFFFFF, 0xFFFFFFFF, 0x00000000⟩),
   (0x17C, ⟨0x00000000, 0x9F0F1FFF, 0x9F0F1FFF, 0x00000000⟩),
   (0x180, ⟨0x00000000, 0x00000007, 0x00000007, 0x00000000⟩),
   (0x184, ⟨0x00000000, 0x000000FF, 0x00000000, 0x0000000E⟩),
   (0x168, ⟨0x00000000, 0x003FFFFF, 0x00000000, 0x00000000⟩),
   (0x190, ⟨0x00304010, 0x003FFFFF, 0x0020FFFF, 0x00000000⟩),
   (0x1A0, ⟨0xFFFF0102, 0xFFFF3FF3, 0xFFFF3FF3, 0x00000000⟩),
   (0x1A4, ⟨0x00000000, 0x0000000F, 0x0000000F, 0x00000000⟩),
   (0x1A8, ⟨0x00000000, 0xFFFFFFFF, 0x00000000, 0x00000000⟩),
   (0x1AC, ⟨0x00000000, 0x00000000, 0x00000000, 0x00000000⟩)]

def regsGlobal2 : List (Nat × RegRow) :=
  [(0x1B0, ⟨0x00000014, 0x000000FF, 0x000000FF, 0x00000000⟩),
   (0x1C0, ⟨0x00000000, 0x0000000F, 0x0000000F, 0x00000000⟩),
   (0x1C4, ⟨0x00000000, 0x00FFFFFF, 0x00FFFFFF, 0x00000000⟩),
   (0x1C8, ⟨0x00000000, 0x00FFFFFF, 0x00FFFFFF, 0x00000000⟩),
   (0x1CC, ⟨0x00000000, 0x0000001F, 0x00000000, 0x00000007⟩),
   (0x1D0, ⟨0x00100A10, 0x00FF0FFF, 0x00FF0FFF, 0x00000000⟩),
   (0x1D4, ⟨0x00000000, 0x0007F7F7, 0x00000000, 0x00000007⟩),
   (0x1D8, ⟨0x00040000, 0x00070000, 0x00070000, 0x00000000⟩),
   (0x1040, ⟨0x00000000, 0x000001FF, 0x000001FF, 0x00000000⟩),
   (0x1044, ⟨0x00000000, 0x0000001F, 0x0000001F, 0x00000000⟩),
   (0x1048, ⟨0x00000000, 0x0000000F, 0x0000000F, 0x00000000⟩),
   (0x104C, ⟨0x00000000, 0x00000000, 0x00000000, 0x00000000⟩),
   (0x1050, ⟨0x00000000, 0x00000000, 0x00000000, 0x00000000⟩),
   (0x1054, ⟨0x00000000, 0x003FFFFF, 0x00000000, 0x00280000⟩),
   (0x1058, ⟨0x00000000, 0xFFF00000, 0x00000000, 0x00000000⟩),
   (0x2000, ⟨0x00000000, 0xFFFFFFFF, 0x00000000, 0x00000000⟩)]

def regsGlobal3 : List (Nat × RegRow) :=
  [(0x2004, ⟨0x00000000, 0xFFFFFFFF, 0xFFFFFFFF, 0x00000000⟩),
   (0x2008, ⟨0x00000000, 0xFFFFFFFF, 0x00000000, 0x00000000⟩),
   (0x200C, ⟨0x00000000, 0x00000000, 0x00000000, 0x00000000⟩),
   (0x2010, ⟨0x00100000, 0x001F0FFF, 0x00000000, 0x001E0000⟩),
   (0x8000, ⟨0x0000FF01, 0x0001FFFF, 0x00000000, 0x00010000⟩),
   (0x8004, ⟨0x00000000, 0xFFFFFFFF, 0x00000000, 0x00000000⟩),
   (0x9000, ⟨0x00000000, 0x00000003, 0x00000000, 0x00000000⟩),
   (0x7000, ⟨0x00000000, 0x00000000, 0x00000000, 0x00000000⟩),
   (0x7004, ⟨0x00000000, 0x000007FF, 0x00000000, 0x00000004⟩),
   (0x5000, ⟨0x00000000, 0xFFFF0002, 0xFFFF0000, 0x00000002⟩),
   (0x5004, ⟨0x00000000, 0xFFFFFFFF, 0xFFFFFFFF, 0x00000000⟩),
   (0x5008, ⟨0x00000000, 0xFFFFFFFF, 0xFFFFFFFF, 0x00000000⟩),
   (0x6000, ⟨0x00000000, 0x000FF7FF, 0x00000000, 0x00000000⟩),
   (0x6004, ⟨0x0000003C, 0x000000FF, 0x00000000, 0x000000C0⟩),
   (0x4000, ⟨0x00000000, 0x0000001D, 0x0000001D, 0x00000000⟩),
   (0x4004, ⟨0x00000000, 0x00007FFF, 0x00000000, 0x00004008⟩)]

def regsGlobal4 : List (Nat × RegRow) :=
  [(0x4008, ⟨0x00000000, 0xFFFFFFFF, 0xFFFFFFFF, 0x00000000⟩),
   (0x400C, ⟨0x00000000, 0xFFF80000, 0x00000000, 0x00000000⟩),
   (0x4010, ⟨0x00001440, 0x00001F7F, 0x00001F7F, 0x00000000⟩),
   (0x4014, ⟨0x00000000, 0x000FFFFF, 0x00000000, 0x00080000⟩),
   (0x4018, ⟨0x00041004, 0x00FFFFFF, 0x00FFFFFF, 0x00000000⟩),
   (0x401C, ⟨0x00000000, 0xFFFFFFFF, 0x00000000, 0x00000000⟩),
   (0x4020, ⟨0x00000000, 0x001F7F7F, 0x00000000, 0x00000000⟩),
   (0x4024, ⟨0x00000000, 0xFFFF0007, 0x00000000, 0x00000003⟩),
   (0x4028, ⟨0x007F766E, 0x00FFFFFF, 0x00FFFFFF, 0x00000000⟩),
   (0x402C, ⟨0x00000000, 0x03FFFFFF, 0x00000000, 0x03000000⟩)]

def regsGlobal : List (Nat × RegRow) := regsGlobal0 ++ regsGlobal1 ++ regsGlobal2 ++ regsGlobal3 ++ regsGlobal4

def regsSlice : List (Nat × RegRow) :=
  [(0x40, ⟨0x00000000, 0x03FF03FF, 0x00000000, 0x00000000⟩),
   (0x44, ⟨0x00000000, 0x1FFF00F3, 0x00000000, 0x00000003⟩),
   (0x48, ⟨0x0000FFFF, 0x0000FFFF, 0x0000FFFF, 0x00000000⟩),
   (0x4C, ⟨0x00000000, 0x0001FFFF, 0x00000000, 0x00010000⟩),
   (0x50, ⟨0x00000000, 0x01FF0001, 0x00000000, 0x00000001⟩),
   (0x54, ⟨0x00000000, 0x07FF0001, 0x00000000, 0x00000001⟩)]

def regsHeadland : List (Nat × RegRow) :=
  [(0x40, ⟨0x00000000, 0x03FF03FF, 0x00000000, 0x00000000⟩),
   (0x44, ⟨0x00000000, 0x0000001F, 0x00000000, 0x00000001⟩)]

def regsChannel : List (Nat × RegRow) :=
  [(0x40, ⟨0x00000000, 0x00000007, 0x00000001, 0x00000004⟩),
   (0x44, ⟨0x00000000, 0xFFFF000F, 0x00000000, 0x0000000F⟩),
   (0x48, ⟨0x00000000, 0x000003F3, 0x00000000, 0x00000000⟩),
   (0x4C, ⟨0x00000000, 0x00000003, 0x00000000, 0x00000002⟩)]

def regsMemory : List (Nat × RegRow) :=
  [(0x40, ⟨0x00000000, 0xFFFF001F, 0x00000000, 0x0000001F⟩),
   (0x44, ⟨0x00000000, 0x000001FF, 0x00000000, 0x00000000⟩),
   (0x48, ⟨0x00000000, 0x0000001F, 0x00000000, 0x00000012⟩)]

def regsPort0 : List (Nat × RegRow) :=
  [(0x80, ⟨0x00000000, 0x0FFF1F1F, 0x00000000, 0x00000000⟩),
   (0x84, ⟨0x00000000, 0x0FFFFFFF, 0x00000000, 0x00000000⟩),
   (0xA0, ⟨0xFFFFFFFF, 0xFFFFFFFF, 0xFFFFFFFF, 0x00000000⟩),
   (0xA4, ⟨0x0000FFFF, 0x0000FFFF, 0x0000FFFF, 0x00000000⟩),
   (0xC0, ⟨0x02022201, 0x03FFF737, 0x03FFF737, 0x00000000⟩),
   (0xC4, ⟨0x00104410, 0x00FFFF3F, 0x00FFFF3F, 0x00000000⟩),
   (0xC8, ⟨0x00001000, 0x00011F7F, 0x00000000, 0x00000000⟩),
   (0xE0, ⟨0x00001010, 0x0000FFFF, 0x0000FFFF, 0x00000000⟩),
   (0xE4, ⟨0x00000000, 0x0000000F, 0x00000000, 0x00000000⟩),
   (0x100, ⟨0x00000000, 0x00000000, 0x00000000, 0x00000000⟩),
   (0x104, ⟨0x00000000, 0x000F7FFF, 0x00000000, 0x000C0000⟩),
   (0x200, ⟨0xACE10040, 0xFFFF0073, 0xFFFF0072, 0x00000000⟩),
   (0x204, ⟨0x00000000, 0xFFFFF000, 0xFFFFF000, 0x00000000⟩),
   (0x208, ⟨0x00000000, 0xFFFFFFFF, 0xFFFFFFFF, 0x00000000⟩),
   (0x20C, ⟨0x00000000, 0xFFFFFFFF, 0xFFFFFFFF, 0x00000000⟩),
   (0x210, ⟨0x00000000, 0xFFFFF000, 0xFFFFF000, 0x00000000⟩)]

def regsPort1 : List (Nat × RegRow) :=
  [(0x214, ⟨0x00000000, 0x0FFFFFFF, 0x0FFFFFFF, 0x00000000⟩),
   (0x218, ⟨0x00000000, 0x00000003, 0x00000003, 0x00000000⟩),
   (0x21C, ⟨0x00000000, 0x0000000F, 0x00000000, 0x0000000E⟩),
   (0x220, ⟨0x00000000, 0x000FFFFF, 0x00000000, 0x00000003⟩),
   (0x224, ⟨0x00000000, 0xFFFFFFFF, 0x00000000, 0x00000000⟩),
   (0x228, ⟨0x00000000, 0x0003FFFF, 0x00000000, 0x00000000⟩),
   (0x22C, ⟨0x00000000, 0xFFFF00FF, 0x00000000, 0x00000000⟩),
   (0x40, ⟨0x00000000, 0x0001FFFF, 0x00000000, 0x00010000⟩),
   (0x44, ⟨0x00000000, 0x000000F0, 0x00000000, 0x00000000⟩)]

def regsPort : List (Nat × RegRow) := regsPort0 ++ regsPort1

def regsStile : List (Nat × RegRow) :=
  [(0x40, ⟨0x00000000, 0x01FF1FFF, 0x00000000, 0x00001000⟩)]

/-- The blocks of Table 12.1. -/
inductive Block where
  | global | slice | headland | channel | memory | port | stile
  deriving DecidableEq, Repr

/-- Block, instance and offset inside the instance (Table 12.1); none outside every span. -/
def csrBlock (off : Nat) : Option (Block × Nat × Nat) :=
  if off < 0x00100000 then some (.global, 0, off)
  else if off < 0x00110000 then some (.headland, 0, off - 0x00100000)
  else if 0x01000000 ≤ off ∧ off < 0x01200000 then
    some (.slice, (off - 0x01000000) / 0x10000, (off - 0x01000000) % 0x10000)
  else if 0x01200000 ≤ off ∧ off < 0x01280000 then
    some (.channel, (off - 0x01200000) / 0x10000, (off - 0x01200000) % 0x10000)
  else if 0x01300000 ≤ off ∧ off < 0x01380000 then
    some (.memory, (off - 0x01300000) / 0x40000, (off - 0x01300000) % 0x40000)
  else if 0x01400000 ≤ off ∧ off < 0x014C0000 then
    some (.port, (off - 0x01400000) / 0x20000, (off - 0x01400000) % 0x20000)
  else if 0x01500000 ≤ off ∧ off < 0x01560000 then
    some (.stile, (off - 0x01500000) / 0x10000, (off - 0x01500000) % 0x10000)
  else none

def blockRows : Block → List (Nat × RegRow)
  | .global => regsGlobal
  | .slice => regsSlice
  | .headland => regsHeadland
  | .channel => regsChannel
  | .memory => regsMemory
  | .port => regsPort
  | .stile => regsStile

/-- The description of the register at a CSR offset, where there is one. Registers with storage of their own (mailbox,
pending bits, session buffer) are not listed here. -/
def regRow (off : Nat) : Option RegRow :=
  match csrBlock off with
  | none => none
  | some (b, _, rel) => (blockRows b).lookup rel

/-- The value a register holds after reset; 0 where no register stands. -/
def regReset (off : Nat) : Word := match regRow off with | some r => r.reset | none => 0

end Sys2Proof.Machine
end

