-- ==== Sys2Proof/Machine/State.lean ====
section
/-! DEFINITION. The state of one VG512 as plain data, the reasons a step can stop, and the state after reset. -/

namespace Sys2Proof.Machine
open Sys2Proof

/-- Why a command stops with a fault. -/
inductive Fault where
  /-- No meaning raises this fault: the device has no fatal condition (R329). It stands here so that the type is
  inhabited. Safe: nothing stops. -/
  | fatal
  deriving DecidableEq, Repr

/-- Why a command is refused. -/
inductive Refusal where
  /-- Raised by an arm of exec whose meaning is not written yet. Safe: the machine stops. -/
  | notModelled (mnemonic : String)
  deriving DecidableEq, Repr

/-- Ordering code and key fuses (R1, R410, R418). -/
structure Fuses where
  variantS : Bool := false
  pkhSet : Bool := false
  pkh : BitVec 256 := 0
  rkeySet : Bool := false
  rkey : BitVec 256 := 0
  deriving DecidableEq, Repr

/-- A region descriptor (R117): SA[51:16] of the base, SIZE, POLICY, VALID. -/
structure Region where
  base : BitVec 36
  size : BitVec 6
  policy : BitVec 3
  valid : Bool
  deriving DecidableEq, Repr

/-- What the image sets outside the register window (R15, R72, Table 13.4). -/
structure ImageSetup where
  kinds : Vector PortKind 6
  regions : List Region := []
  allotOut : List (Nat × Nat) := []
  allotIn : List (Nat × Nat) := []
  trim : List Int := []
  keys : Vector (BitVec 256) 3
  ddrTiming : List (BitVec 16) := []
  deriving DecidableEq, Repr

/-- The two image slots of the flash. -/
inductive Slot where
  | a | b
  deriving DecidableEq, Repr

/-- A flash operation of a session command that has not ended (R421). -/
inductive FlashOp where
  | erase (tr : Transport) (seq : BitVec 32) (s : Slot)
  | write (tr : Transport) (seq : BitVec 32) (s : Slot) (off : Nat) (bytes : List Byte)
  | check (tr : Transport) (seq : BitVec 32) (s : Slot)
  deriving DecidableEq, Repr

/-- The SPI flash and its use: bytes that differ from erased 0xFF, by flash address. -/
structure Flash where
  bytes : List (Nat × Byte) := []
  info : Option FlashInfo := none
  lockBy : Option Transport := none
  op : Option FlashOp := none
  deriving DecidableEq, Repr

/-- Start-up (Table 13.1). IMG_STAT holds the stage. -/
structure Boot where
  tries : Vector Nat 2
  meminit : Bool := false
  /-- event delivery, admission and the Darner run (step 10) -/
  running : Bool := false
  deriving DecidableEq, Repr

/-- An entry of the management event queue (Table 12.9). -/
structure EvEntry where
  time : BitVec 64
  event : BitVec 9
  unit : Byte
  flags : Byte
  logSeq : Word
  deriving DecidableEq, Repr

/-- Events: pending bits, stored routes that differ from the group default, the queue, waiting in-band messages. -/
structure Events where
  pend : BitVec 288 := 0
  routes : List (Nat × BitVec 5) := []
  head : List EvEntry := []
  tail : List EvEntry := []
  /-- the spilled middle in memory: ring position of its oldest entry, and its entries -/
  midAt : Nat := 0
  midCount : Nat := 0
  dropped : Bool := false
  done : Bool := false
  inb : List (Nat × BitVec 64) := []
  delivering : Bool := false
  deriving DecidableEq, Repr

/-- A trouble log entry (Table 12.10). -/
structure LogEntry where
  time : BitVec 64
  seq : Word
  event : BitVec 9
  unit : Byte
  flags : Byte
  detail : BitVec 128
  deriving DecidableEq, Repr

/-- The trouble log, its cursor and its mark (R394-R400); entries oldest first, at most 2,048. -/
structure TroubleLog where
  entries : List LogEntry := []
  wseq : Word := 0
  rseq : Word := 0
  mark : Word := 0
  markValid : Bool := false
  markLost : Bool := false
  rewindErr : Bool := false
  overtaken : Bool := false
  cleared : Bool := true
  deriving DecidableEq, Repr

/-- What every unit reports to: events, trouble log, the counters of the mailbox (48 bits and OVF, by selector), and the
counters that have raised their first-since-read event (R323, R390). -/
structure Monitor where
  ev : Events := {}
  log : TroubleLog := {}
  ctr : List (Nat × BitVec 49) := []
  seen : List Nat := []
  deriving DecidableEq, Repr

/-- One mailbox instance (R380-R382). -/
structure Mailbox where
  sel : Word := 0
  op : BitVec 2 := 0
  valid : Bool := false
  busy : Bool := false
  empty : Bool := false
  err : Bool := false
  code : BitVec 4 := 0
  data : Vector Word 8
  lsel : Word := 0
  lop : BitVec 2 := 0
  selWritten : Bool := false
  started : Nat := 0
  /-- the session command that waits for instance 3 (R422) -/
  waiter : Option (Transport × BitVec 32) := none
  deriving DecidableEq, Repr

/-- A pace monitor (R51-R53): NOW, the last 16 readings and the last 32 ADMIT values, newest first. -/
structure PaceMon where
  now : BitVec 10 := 0
  hist : List (BitVec 10) := []
  admits : List (BitVec 10) := []
  deriving DecidableEq, Repr

/-- A promise in flight (R78). -/
structure Promise where
  id : PromiseId
  p1 : Bool
  /-- none until the pass has put the request in a row of Table 2.4 -/
  deadline : Option (BitVec 16)
  issued : Nat
  floor : Nat
  /-- mode whose bounds it promises -/
  mode : Nat := 0
  remote : Bool
  overrun : Bool
  deriving DecidableEq, Repr

/-- A released and unspent credit (R56, R70): its kind, class, channel, the floor (5 mV units) it was admitted under, and
whether it still is a promise (R79 step 3). -/
structure Credit where
  kind : CreditKind
  cls : BitVec 2
  ch : BitVec 3
  mode : BitVec 2
  floor : Nat
  promise : Bool
  deriving DecidableEq, Repr

/-- R84: the old mode's floor, kept until the VDDC of both dies has first reached the new target, in mV, from below (up) or
above. -/
structure OldFloor where
  floor : Nat
  target : Nat
  up : Bool
  reachedW : Bool := false
  reachedE : Bool := false
  deriving DecidableEq, Repr

/-- Promises, paces and the mode switch. CUR_MODE, SWITCHING and FALLBACK are in GLB_PRM_MODE. -/
structure PromiseUnit where
  /-- 0-31 slices, 32 hub W, 33 hub E, 34 Headland W to E, 35 Headland E to W -/
  mons : Vector PaceMon 36
  /-- the smallest margin in force since the latest reading, and in the intervals before it, newest first; none where no
  margin was in force -/
  margins : List (Option Nat) := []
  /-- domains judged in breach of the margin at the latest reading, and those whose breach is not handled yet, with the
  threshold -/
  marginIn : List Nat := []
  judged : List (Nat × Nat) := []
  chanLoad : Vector Nat 8
  memLoad : Vector Nat 2
  /-- on-die VDDC, mV -/
  vmon : Vector Nat 2
  /-- breaches by kind (Table 2.8, step 4) -/
  breachCtr : Vector (BitVec 48) 4
  /-- start time of the latest step 1 of a switch, and the promises that step 3 awaits -/
  swStart : Nat := 0
  swAwait : List PromiseId := []
  oldFloor : Option OldFloor := none
  inFlight : List Promise := []
  breachFree : Nat := 0
  resow : List Credit := []
  deriving DecidableEq, Repr

/-- A packet from the device to an agent (Table 11.3 fields; line and mask where the opcode has a payload). -/
structure AgentMsg where
  opc : BitVec 6
  tag : Tag := 0
  grant : BitVec 2 := 0
  uo : Bool := false
  nb : Bool := false
  stat : BitVec 4 := 0
  fcode : BitVec 3 := 0
  addr : BitVec 52 := 0
  sz : BitVec 3 := 0
  time : BitVec 64 := 0
  bytes : LineBytes := 0
  poison : PoisonMask := 0
  mask : ByteMask := 0
  value : BitVec 128 := 0
  marks : BitVec 2 := 0
  deriving DecidableEq, Repr

/-- Link-control slots the device sends (Table 11.7). -/
inductive CtlSlot where
  | ack (seq : BitVec 10)
  | nak (seq : BitVec 10)
  | crd (cls : BitVec 2) (ch : BitVec 3)
  | vcc (cls : BitVec 3) (dl : Bool) (count : Nat)
  | param (body : BitVec 128)
  | time (body : BitVec 128)
  deriving DecidableEq, Repr

/-- Where the DDR5 devices of a port hold a line (R369). -/
structure DdrPlace where
  rank : Nat
  group : Nat
  bank : Nat
  row : Nat
  col : Nat
  deriving DecidableEq, Repr

/-- What the device has put on its boundaries, in order. -/
inductive Sent where
  | agent (p : Port) (m : AgentMsg)
  | stile (l : LinkNo) (pkt : StilePkt)
  | ctl (u : LinkUnit) (c : CtlSlot)
  | replay (u : LinkUnit) (from_ : BitVec 10)
  | pmbus (sideE : Bool) (cmd : Byte) (value : BitVec 16)
  | reply (tr : Transport) (frame : List Byte)
  | ibi (b : Byte)
  | headland (toE : Bool) (beat : BitVec 512)
  | refresh (m : MemNo)
  | selfRefresh (m : MemNo) (enter : Bool)
  | hppr (m : MemNo) (place : DdrPlace)
  deriving DecidableEq, Repr

/-- A slot to be sent; with the last slot of a packet, the packet. -/
structure TxSlot where
  slot : BitVec 160
  last : Option Sent := none
  deriving DecidableEq, Repr

/-- Where the packet that a link receives goes: it stays at this node, it is forwarded to a link while it arrives (R355), or it has no
route (R353). -/
inductive Transit where
  | here
  | to (l : LinkNo)
  | dropped
  deriving DecidableEq, Repr

/-- Retry state of an agent port or Stile link (R337-R339, R347, R348). STATE, REVERSED, POLINV, CAUSE and DOWN are in
its status register. -/
structure LinkSt where
  txSeq : BitVec 10 := 0
  rxSeq : BitVec 10 := 0
  /-- unacknowledged flits as they were sent, oldest first, with their sequence numbers -/
  replay : List (BitVec 10 × BitVec 512) := []
  /-- slots waiting for room in the replay buffer -/
  txSlots : List TxSlot := []
  /-- the last of them is not the last slot of its packet; packets and control slots that wait for that packet's end (R340) -/
  txOpen : Bool := false
  txLater : List TxSlot := []
  unacked : Nat := 0
  unackedAt : Nat := 0
  nakSent : Bool := false
  nakSeq : BitVec 10 := 0
  nakCount : Nat := 0
  /-- step of a retrain that is under way: 2, 3 or 5 of Table 11.9 -/
  step : Nat := 0
  /-- the peer's PARAM slot of this training has come and agrees -/
  paramOk : Bool := false
  since : Nat := 0
  /-- when the port or link left ACTIVE (R226) -/
  leftAt : Option Nat := none
  /-- slots of the packet being received, and how many are still to come (R340) -/
  rxBuf : List (BitVec 160) := []
  rxLeft : Nat := 0
  /-- where the packet being received goes -/
  rxTo : Transit := .here
  deriving DecidableEq, Repr

/-- A device request (MMIO) at its owning port (R32, R270): who asked, and what. -/
inductive DevFrom where
  | agent (p : Port) (tag : Tag) (point : Nat)
  | node (n : NodeId) (rtrk : BitVec 11)
  deriving DecidableEq, Repr

/-- Kinds of device requests (Table 11.4). -/
inductive DevKind where
  | dRd | dWrP | dWrN
  deriving DecidableEq, Repr

structure DevReq where
  src : DevFrom
  kind : DevKind
  window : BitVec 4
  addr : BitVec 36
  sz : BitVec 3
  data : StoreData
  tag : Tag := 0
  deriving DecidableEq, Repr

/-- What a request asks of its slice. -/
inductive ReqOp where
  | rdS | rdU | upg | rd | rdC | store | wrB | evC | wrH | atm | clean | flush | inval | prefetch
  /-- FWb and FEv of another node, which wait behind a holder that is no fabric flow (R235, R236) -/
  | fwb | fev
  deriving DecidableEq, Repr

/-- A unit that sends or receives Headland packets (Table 11.13); the hub registers of a die. -/
inductive HdlUnit where
  | slice (k : Fin 32)
  | port (p : Port)
  | link (l : LinkNo)
  | regs (d : Fin 2)
  deriving DecidableEq, Repr

/-- An outstanding answered request of a port (R345). -/
structure TagUse where
  tag : Tag
  at_ : Nat
  /-- served under a ceiling (R60) -/
  ceiling : Bool
  /-- the ceiling error has been sent: no second response -/
  ended : Bool
  /-- the response has been handed over; the tag is held until its last slot leaves (R345) -/
  answered : Bool := false
  /-- the credit the request was sent with -/
  credit : Option Credit := none
  /-- the unit that serves it, from which its response comes (R21) -/
  unit : Option HdlUnit := none
  /-- its point of Table 8.1 -/
  point : Nat
  deriving DecidableEq, Repr

/-- The three fences (Table 8.2). -/
inductive FenceKind where
  | w | l | g
  deriving DecidableEq, Repr

/-- The TLB page that translated a request: context, VPN and size (Table 9.3). -/
structure PageId where
  ctx : BitVec 12
  vpn : BitVec 36
  sz : BitVec 5
  deriving DecidableEq, Repr

/-- A request of a port whose point of Table 8.1 is not reached. Numbers rise in program order. -/
structure OpenPoint where
  id : Nat
  isWrite : Bool
  dev : Bool := false
  /-- its pass has happened, and found that it needs a fabric message -/
  passed : Bool := false
  fabric : Bool := false
  page : Option PageId := none
  deriving DecidableEq, Repr

/-- An agent request as its port takes it in. Fields an operation does not use are 0. -/
structure AgReq where
  op : ReqOp
  cls : BitVec 2
  tag : Tag
  ch : BitVec 3
  addr : BitVec 52
  posted : Bool := false
  sz : BitVec 3 := 7
  data : StoreData := { bytes := 0, mask := 0, poison := 0 }
  ord : Bool := false
  strm : BitVec 4 := 0
  aop : BitVec 4 := 0
  operand : BitVec 128 := 0
  compare : BitVec 128 := 0
  nr : Bool := false
  tgt : BitVec 3 := 7
  deriving DecidableEq, Repr

/-- Translation of a request at the front end. -/
inductive Trans where
  /-- not looked up yet -/
  | todo
  /-- a walk, or a free walker, is awaited since a lookup in this context -/
  | wait (ctx : BitVec 12)
  | ready (sa : SysAddr) (page : Option PageId)
  /-- fault code of Table 9.5, and level -/
  | fault (code : BitVec 3) (level : Nat)
  deriving DecidableEq, Repr

/-- A request at its port's front end that has not gone on to its destination. -/
structure FrontReq where
  req : AgReq
  id : Nat
  at_ : Nat
  tr : Trans
  /-- the credit it spends, unless the credit has gone back to its pool (R59, R274) -/
  credit : Option Credit
  /-- held behind a fence at some time -/
  fenced : Bool := false
  deriving DecidableEq, Repr

/-- A fence that has not completed, and the points it waits for. -/
structure FenceSt where
  id : Nat
  kind : FenceKind
  tag : Tag
  nb : Bool
  waits : List Nat
  deriving DecidableEq, Repr

/-- An entry of a posted-write queue. -/
structure PwqEntry where
  strm : BitVec 4
  addr : SysAddr
  cl : CodeLine
  mask : ByteMask
  id : Nat
  divert : Bool
  deriving DecidableEq, Repr

/-- A posted-write queue (Table 8.4): head, middle (ring position of its oldest entry in the spill region, and the numbers
of its requests in order), tail. -/
structure Pwq where
  head : List PwqEntry := []
  tail : List PwqEntry := []
  midAt : Nat := 0
  midIds : List Nat := []
  /-- of the oldest of those, the data and header slots that are being read back (R277) -/
  back : List (Option CodeLine × Option CodeLine) := []
  /-- streams with an issued write that is not visible yet, and that write's point -/
  busy : List (BitVec 4 × Nat) := []
  /-- while FLUSHING, the points of the entries before the flush point that are not visible yet -/
  flush : Option (List Nat) := none
  deriving DecidableEq, Repr

/-- A Swath tracker (R135): dir is +1 or -1 line, exp the expected line. -/
structure SwathTracker where
  last : Nat
  dir : Option Int
  exp : Option Int
  count : Nat
  matched : Nat
  order : Nat
  deriving DecidableEq, Repr

/-- A line a Drill tracker has made pending: the address trained on, and when. -/
structure PendLine where
  addr : Int
  made : Nat
  /-- waits for the walk of its page in this context -/
  walk : Option (BitVec 12) := none
  /-- its walk has translated it -/
  sa : Option SysAddr := none
  deriving DecidableEq, Repr

/-- A stream tracker (R163). -/
structure StreamTracker where
  last : Nat
  stride : Option Int
  conf : Nat
  dist : Nat
  ahead : Nat
  matched : Nat
  order : Nat
  pend : List PendLine
  deriving DecidableEq, Repr

/-- An issued prefetch: when, whether its line is homed elsewhere, and whether a ceiling applies (R171, R175). -/
structure PfOut where
  line : LineAddr
  since : Nat
  remote : Bool
  ceiling : Bool
  deriving DecidableEq, Repr

/-- A training access (R162): its request, its line, and whether it trains, once that is known. -/
structure TrainAcc where
  id : Nat
  line : Nat
  ok : Option Bool
  deriving DecidableEq, Repr

/-- The Drill of a port. -/
structure DrillSt where
  trackers : Vector (Option StreamTracker) 64
  /-- order stamp of matches and of pending lines -/
  clock : Nat := 0
  /-- training accesses in order of arrival, the first of them not known to be one yet -/
  training : List TrainAcc := []
  /-- issued prefetches on their way to their slice (system line addresses) -/
  issued : List LineAddr := []
  /-- issued prefetches that have not completed -/
  out : List PfOut := []
  deriving DecidableEq, Repr

/-- A TLB entry (Table 9.3). -/
structure TlbEntry where
  v : Bool
  ctx : BitVec 12
  vpn : BitVec 36
  sz : BitVec 5
  oa : BitVec 40
  r : Bool
  w : Bool
  key : BitVec 4
  src : BitVec 2
  par : Bool
  deriving DecidableEq, Repr

/-- An entry that has never been filled. -/
def TlbEntry.empty : TlbEntry :=
  { v := false, ctx := 0, vpn := 0, sz := 0, oa := 0, r := false, w := false, key := 0, src := 0, par := false }

/-- A walk in flight (R291): its page address, level, table, the context it started under, and whether its fill is
suppressed (R305). -/
structure Walk where
  pa : PortAddr
  level : Nat
  table : SysAddr
  ctx : BitVec 12
  marked : Bool
  /-- order of start among the port's walks (R293) -/
  order : Nat := 0
  /-- the level's descriptor read has not been issued yet; since when it has -/
  due : Bool := true
  since : Nat := 0
  /-- the descriptor read has returned: status, descriptor, marked -/
  got : Option (BitVec 4 × BitVec 64 × Bool) := none
  deriving DecidableEq, Repr

/-- The port translation unit of a port. -/
structure PtuSt where
  tlb : Vector TlbEntry 128
  lfsr : BitVec 16 := 0
  root : SysAddr := 0
  ctx : BitVec 12 := 0
  demand : Vector (Option Walk) 4
  prefetch : Option Walk := none
  spec : Option Walk := none
  /-- walks started -/
  started : Nat := 0
  /-- points (R305 step 4) the running invalidation waits for -/
  invWaits : List Nat := []
  deriving DecidableEq, Repr

/-- An agent port. -/
structure PortSt where
  link : LinkSt
  credits : List Credit := []
  tags : List TagUse := []
  snpCred : Nat := 0
  dreqCred : Nat := 0
  evtCred : Nat := 0
  snpWait : List AgentMsg := []
  dreqQ : List DevReq := []
  dreqOut : List DevReq := []
  /-- tags of device writes whose last bit has left (Table 8.1) -/
  devLeft : List Tag := []
  points : List OpenPoint := []
  nextPoint : Nat := 0
  fences : List FenceSt := []
  /-- the front end, in program order -/
  front : List FrontReq := []
  pwq : Pwq
  swath : Vector (Option SwathTracker) 8
  drill : DrillSt
  ptu : PtuSt
  snpTag : Tag := 0
  devTag : Tag := 0
  /-- a line was poisoned since DEAD was set (EV100) -/
  poisoned : Bool := false
  deriving DecidableEq, Repr

/-- A packet at a link's arbiter: since when, and the receive buffer that it still holds (R354): link, VCC class, dateline
channel, count. -/
structure StileWait where
  pkt : StilePkt
  since : Nat
  /-- slots of the whole packet -/
  size : Nat
  /-- the link that it is still arriving on, and its slots that are here -/
  open_ : Option LinkNo := none
  got : List (BitVec 160) := []
  buf : Option (LinkNo × BitVec 3 × Bool × Nat) := none
  deriving DecidableEq, Repr

/-- A Stile link: retry state, hop credits (index 2*class + dateline channel), bounded hop credits, packets waiting. -/
structure StileSt where
  link : LinkSt
  cred : Vector Nat 10
  bcred : Nat := 3
  wait : List StileWait := []
  /-- the packet whose first slots have been sent while the rest arrives -/
  cur : Option StileWait := none
  /-- channel served last (R355) -/
  rr : Nat := 9
  deriving DecidableEq, Repr

/-- A Headland packet that waits to be sent (R358): its class of Table 11.13, its promise class, its beats. -/
structure HdlPacket where
  vcl : Fin 5
  cls : BitVec 2
  beats : List (BitVec 512)
  deriving DecidableEq, Repr

/-- The Headland: per direction, packets that wait to be sent, beats of the packet being assembled, the sender's buffer credits per
class. -/
structure HeadlandSt where
  tx : Vector (List HdlPacket) 2
  rx : Vector (List (BitVec 512)) 2
  cred : Vector (Vector Nat 5) 2
  delivered : List (Bool × List (BitVec 512)) := []
  stalled : BitVec 16 := 0
  deriving DecidableEq, Repr

/-- A tag entry (Table 3.4) with its check bits as stored. -/
structure TagEntry where
  tag : BitVec 27
  st : BitVec 3
  age : BitVec 2
  poison : Bool
  pf : Bool
  chk : BitVec 6
  deriving DecidableEq, Repr

/-- A snoop filter entry (Table 6.7) with its parity as stored. -/
structure SnfEntry where
  tag : BitVec 26
  pres : BitVec 6
  ast : BitVec 2
  ownp : BitVec 3
  nst : BitVec 3
  ref : Bool
  par : BitVec 2
  deriving DecidableEq, Repr

/-- A home directory entry (Table 6.8) with its parity as stored. -/
structure DirEntry where
  tag : BitVec 15
  st : BitVec 2
  fmt : Bool
  ref : Bool
  owner : BitVec 9
  sharers : BitVec 64
  par : BitVec 4
  deriving DecidableEq, Repr

/-- Where a request comes from. -/
inductive ReqSrc where
  | agent (p : Port)
  | node (n : NodeId) (rtrk : BitVec 11) (bounded : Bool)
  | drill (p : Port)
  | resow
  | walk (p : Port) (w : WalkId)
  | pwq (p : Port) (strm : BitVec 4)
  | mnt
  | press
  deriving DecidableEq, Repr

/-- A request at a slice. Fields an operation does not use are 0. -/
structure Req where
  src : ReqSrc
  op : ReqOp
  line : LineAddr
  off : BitVec 7 := 0
  sz : BitVec 3 := 7
  cls : BitVec 2 := 2
  tag : Tag := 0
  posted : Bool := false
  cl : CodeLine := 0
  mask : ByteMask := 0
  aop : BitVec 4 := 0
  operand : BitVec 128 := 0
  compare : BitVec 128 := 0
  nr : Bool := false
  tgt : BitVec 3 := 7
  noAlloc : Bool := false
  divert : Bool := false
  /-- holds a fill tracker reservation in its home slice (R70) -/
  resv : Bool := false
  /-- sent with a P0 or P1 promise and still bounded -/
  bounded : Bool := false
  /-- its point of Table 8.1; for a descriptor read, its walk's order of start -/
  point : Nat := 0
  /-- order of arrival at the serialisation point (R105) -/
  order : Nat := 0
  /-- an IN unit of its source is held (R73) -/
  allot : Bool := false
  /-- waited behind a lock, and behind one whose holder used the fabric (R106) -/
  waited : Bool := false
  waitedFab : Bool := false
  deriving DecidableEq, Repr

/-- Press entry states (Table 4.2). -/
inductive PressState where
  | pending | owned | draining
  deriving DecidableEq, Repr

/-- Where a drain goes (R124, R126, R491, R225). -/
inductive DrainTo where
  | none
  | cache (slot : Nat)
  | mem
  | cacheAndMem (slot : Nat)
  | remote
  | cacheAndRemote (slot : Nat)
  | remoteWb (keep : Bool)
  | offer
  /-- the line below a partial entry of another home is fetched first (R125) -/
  | fetch
  deriving DecidableEq, Repr

/-- A store that completes with its home's acknowledgement (R123): its port, tag and point, and what its promise is. -/
structure StoreWait where
  port : Port
  tag : Tag
  point : Nat
  posted : Bool
  cls : BitVec 2
  bounded : Bool
  deriving DecidableEq, Repr

/-- A Press entry (R127). -/
structure PressEntry where
  line : LineAddr
  cl : CodeLine
  mask : ByteMask
  policy : BitVec 3
  port : ReqSrc
  cls : BitVec 2
  born : Nat
  st : PressState
  diverted : Bool := false
  hint : Option (BitVec 3) := none
  /-- the entry holds an agent write-back, the node's own modified copy (R128) -/
  wb : Bool := false
  /-- every message of the permission flow is in -/
  permReady : Bool := false
  /-- something requires the drain, or its age is reached -/
  wanted : Bool := false
  drain : DrainTo := .none
  acked : Bool := false
  /-- node state of R191 for an entry that cannot allocate -/
  nst : BitVec 3 := 0
  /-- the permission flow's line, laid under the entry's bytes (R491) -/
  under : Option CodeLine := none
  /-- stores that complete with the home's acknowledgement (R123) -/
  waiters : List StoreWait := []
  /-- points that become visible with the entry -/
  visible : List (Port × Nat) := []
  /-- the drain holds an unreserved fill tracker, with which it reads the line (R126) -/
  fill : Bool := false
  deriving DecidableEq, Repr

/-- A Hamper entry (R141). -/
structure HamperEntry where
  line : LineAddr
  cl : CodeLine
  st : BitVec 3
  writing : Bool := false
  /-- forwards served while WRITING (R240) -/
  served : Bool := false
  /-- the node state kept by an FWb with KEEP -/
  keepSt : BitVec 3 := 0
  /-- CLEAN by set and way keeps the slot (R151) -/
  copy : Bool := false
  /-- created by a way or channel drain of this slice -/
  walk : Bool := false
  /-- a register-driven INVAL waits for the FWbAck -/
  mnt : Bool := false
  deriving DecidableEq, Repr

/-- Phases of a request in service at this node. -/
inductive Phase where
  /-- the next stage is due -/
  | ready
  /-- a fabric answer is awaited -/
  | fabric
  /-- the home's own flow for the line is awaited -/
  | home
  /-- a memory read is in flight -/
  | mem
  /-- the memory read has returned; FILL_DATA_ARRIVAL is next -/
  | arrived
  /-- snoop answers are awaited -/
  | snoop
  /-- a slot read is in flight -/
  | cmi
  /-- use-once data has gone to the agent, whose WrB is awaited (R199) -/
  | useOnce
  /-- answered: FILL_WRITE_ACCEPTED and AckC are awaited as the flags say -/
  | done
  deriving DecidableEq, Repr

/-- A request in service: a fill tracker, a snoop lock, or both (Table 7.1). -/
structure Txn where
  req : Req
  phase : Phase
  tracker : Bool := false
  /-- the pass has taken what steps 2 and 3 of Table 3.7 give a miss -/
  opened : Bool := false
  /-- the fill tracker came from the request's reservation (R70) -/
  resv : Bool := false
  slot : Option Nat := none
  joined : List Req := []
  data : Option CodeLine := none
  /-- bytes and mask of the Press entry that the pass met (Table 4.2) -/
  snap : CodeLine × ByteMask := (0, 0)
  /-- the data came in an agent's snoop answer (R203) -/
  agentData : Bool := false
  /-- the data is modified with respect to the node's copy -/
  dirty : Bool := false
  /-- the node permission of Table 6.5 is held -/
  permitted : Bool := false
  /-- every snoop of Table 7.7 has been answered -/
  snooped : Bool := false
  /-- at least one snoop was sent -/
  sentSnoops : Bool := false
  /-- the requester was named, or was the OW owner, or another agent was the OW owner, when the snoops were sent -/
  named : Bool := false
  wasOwner : Bool := false
  owOther : Bool := false
  /-- grant of the fabric's answer: 0 none, 1 S, 2 E, 3 M -/
  grant : BitVec 2 := 0
  uo : Bool := false
  demoted : Bool := false
  /-- the permission of Table 6.5 took a message across the fabric (R64, R106) -/
  fabric : Bool := false
  /-- state to install at FILL_WRITE_ACCEPTED -/
  install : BitVec 3 := 0
  writePending : Bool := false
  ackPending : Bool := false
  deriving DecidableEq, Repr

/-- Node transient states (Table 7.2). -/
inductive NodeTs where
  | is_ | ic | ip | im | ima | sm | om | wb | wf | ev | ef | uw
  deriving DecidableEq, Repr

structure NodeTx where
  line : LineAddr
  ts : NodeTs
  /-- FData held in IMA, and its grant -/
  held : Option CodeLine := none
  grant : BitVec 2 := 0
  /-- IMA was entered by an FCmp -/
  cmpIn : Bool := false
  /-- a forward was served or answered in WB or EV -/
  answered : Bool := false
  /-- node state after an FWb with KEEP -/
  keepSt : BitVec 3 := 0
  /-- home's tracker, for the FCmpAck -/
  htrk : BitVec 11 := 0
  /-- a register-driven INVAL waits for the FWbAck -/
  mnt : Bool := false
  /-- when an answer began to be awaited (R230) -/
  since : Option Nat := none
  deriving DecidableEq, Repr

/-- Home transient states (Table 7.5). -/
inductive HomeTs where
  | ha | hf | hc | hr | hu
  deriving DecidableEq, Repr

/-- A line locked at the home by a fabric flow or a recall slot. -/
structure HomeTx where
  line : LineAddr
  ts : HomeTs
  req : Req
  htrk : BitVec 11 := 0
  /-- an IN unit of the source is held (R73) -/
  allot : Bool := false
  /-- nodes whose FInvAck or FRecallAck is awaited -/
  invs : List NodeId := []
  recalls : List NodeId := []
  /-- nodes whose FRecallAck counted a FRecallData that is not in yet, and nodes whose data came before their ack -/
  due : List NodeId := []
  early : List NodeId := []
  /-- owner named by the directory entry in this recall slot (R231) -/
  recOwner : Option NodeId := none
  /-- nodes whose dirty data has been taken (R247) -/
  taken : List NodeId := []
  data : Option CodeLine := none
  dirty : Bool := false
  /-- the owner a forward was sent to -/
  fwdTo : Option NodeId := none
  /-- the forward was answered by FFwdMiss -/
  missed : Bool := false
  /-- FCmp to the requester when every FInvAck is in (INV of R238) -/
  cmpAtAcks : Bool := false
  /-- FInv went out in the pass of an FFwdU: INV of every FData of the flow (R238) -/
  invFlag : Bool := false
  ackF : Bool := true
  /-- bytes and mask of the Press entry that the pass met (R490) -/
  snap : CodeLine × ByteMask := (0, 0)
  /-- grant to give, and whether an entry is to be created for the requester -/
  grant : BitVec 2 := 0
  cmpOnly : Bool := false
  uo : Bool := false
  /-- agents of the home are being snooped -/
  snooping : Bool := false
  /-- the home's own copy is being read -/
  reading : Bool := false
  since : Option Nat := none
  deriving DecidableEq, Repr

/-- A directory set recall under way (R218). -/
structure SetRecall where
  slice : SliceNo
  set : Nat
  await : List NodeId
  /-- per node, FRecallData that its FRecallAck counted less those that are in -/
  dataLeft : List (NodeId × Int) := []
  htrk : BitVec 11
  since : Option Nat := none
  deriving DecidableEq, Repr

/-- Why agents are being snooped (R249). -/
inductive FlowKind where
  /-- for the request in service for the line -/
  | serve
  /-- for the home flow of the line -/
  | home
  /-- a node answering a forward, invalidation or recall: 0 FFwdS, 1 FFwdU, 2 FFwdC, 3 FInv, 4 FRecall -/
  | answer (msg : Fin 5) (h : FabHdr) (ackF inv : Bool) (ns : BitVec 3)
  /-- a back-invalidation slot (R211): the node state the entry recorded -/
  | backInv (nst : BitVec 3)
  /-- the drain of a hint: SnpU answers, then the SnpH offer -/
  | hint (tgt : Port) (offered took : Bool)
  /-- a snoop filter set purge (R213) -/
  | purge (s : SliceNo) (set : Nat)
  /-- FRecallSet at this node -/
  | recallSet (src : NodeId) (htrk : BitVec 11) (s : SliceNo) (set : Nat) (count : Nat)
  /-- eviction of a line from this node before an FEv or FWb (R206, R493) -/
  | evict
  /-- removal of a line homed at a dead node -/
  | deadNode
  /-- the snoop walk of FALLOW entry (Table 14.5, step 4) -/
  | fallow
  deriving DecidableEq, Repr

/-- Snoops under way for one purpose. -/
structure Flow where
  id : Nat
  line : LineAddr
  kind : FlowKind
  await : Nat
  data : Option CodeLine := none
  dirty : Bool := false
  /-- the Hamper's line, as the pass of a forward or recall met it (Table 7.3, row WB) -/
  held : Option CodeLine := none
  deriving DecidableEq, Repr

/-- A snoop of a flow: sent and not answered, or waiting for AckC (R198). -/
structure Snoop where
  port : Port
  tag : Tag
  opc : BitVec 6
  line : LineAddr
  flow : Nat
  since : Nat
  deferred : Bool := false
  /-- the entry named the port as EX or OW owner when the flow began (R227) -/
  owner : Bool := false
  deriving DecidableEq, Repr

/-- What the data of a read in flight is for. -/
inductive Cont where
  /-- the request in service for the line -/
  | serve
  /-- FData to a node: requester, trackers, grant, flags; overlay of Press bytes -/
  | toNode (rqn : NodeId) (rtrk htrk : BitVec 11) (b : Bool) (grant : BitVec 2) (uo ackF inv : Bool) (ovl : CodeLine)
      (mask : ByteMask)
  /-- FRecallData and FRecallAck to the home -/
  | recall (h : FabHdr) (ovl : CodeLine) (mask : ByteMask)
  /-- the home's copy for a home flow -/
  | home
  /-- the line under the partial drain of a Press entry (R126) -/
  | press
  /-- a spilled posted write's data or header slot (R277) -/
  | spill (p : Port) (id : Nat) (header : Bool)
  /-- a Darner scrub of a slot or line -/
  | scrub
  deriving DecidableEq, Repr

/-- A read in the queue of a channel (slot key) or memory port (line index): data captured when a later write to the
same place was accepted (R316, R366). -/
structure PendRead where
  key : Nat
  line : LineAddr
  cont : Cont
  cls : BitVec 2
  captured : Option CodeLine := none
  /-- for an allotted request: above every local class (R73) -/
  top : Bool := false
  deriving DecidableEq, Repr

/-- A verify read owed after a repair write, with the line as repaired: the group is indivisible (R316). -/
structure Verify where
  key : Nat
  line : LineAddr
  cl : CodeLine
  /-- of a Darner visit -/
  scrub : Bool := false
  deriving DecidableEq, Repr

/-- What a request at an outgoing fabric tracker is for (R350). -/
inductive TrkUse where
  /-- the request in service, or the Press permission flow, of the line -/
  | line
  /-- the drain of the line's Press entry by FWr -/
  | drain
  /-- an atomic or a maintenance operation of an agent or of the registers -/
  | remoteOp
  /-- a CSR or MMIO access of an agent -/
  | dev
  deriving DecidableEq, Repr

/-- An outgoing fabric tracker in use (R350). -/
structure OutTrk where
  rtrk : BitVec 11
  dst : NodeId
  since : Nat
  req : Req
  use : TrkUse
  /-- an OUT unit is held (R75) -/
  unit : Bool
  deriving DecidableEq, Repr

/-- A write-back taken from a snoop answer (R251) that has not merged yet. -/
structure AgentWb where
  line : LineAddr
  cl : CodeLine
  port : Port
  /-- node state that the write-back records for a line of another home that nothing else records -/
  nst : BitVec 3 := 0
  deriving DecidableEq, Repr

/-- Effects of the coherence engine on the other units, applied in order when a step's passes are over. -/
inductive Fx where
  | raise (ev unit : Nat)
  /-- trouble log entry, with the raising of its event where `raised` -/
  | log (ev unit : Nat) (raised : Bool) (detail : BitVec 128)
  | count (sel n : Nat)
  /-- sets a status bit; where it was 0, raises the event, with an entry where one is given; with `always` the entry is
  written at every occurrence -/
  | first (off bit ev unit : Nat) (log : Option (BitVec 128)) (always : Bool)
  /-- the same where the flag is a counter not read since (R323) -/
  | firstCtr (sel ev unit : Nat)
  /-- sets a status bit -/
  | regBit (off bit : Nat)
  | regFld (off lo width v : Nat)
  /-- response that ends the tag's use -/
  | respond (p : Port) (m : AgentMsg)
  | snoop (p : Port) (m : AgentMsg)
  | node (pkt : StilePkt)
  | point (p : Port) (id : Nat)
  | passed (p : Port) (id : Nat) (fabric : Bool)
  /-- the pass has put the request in a row of Table 2.4 (R64): 0 hit, 1 local read, 2 write, 3 atomic in the slice,
  4 atomic in the ALU, 5 remote read, 6 remote atomic or write -/
  | row (id : PromiseId) (r home : Nat) (crossings : Option Nat)
  /-- the answer has shown how many link crossings the request's chain has (R65) -/
  | chain (id : PromiseId) (crossings : Nat)
  /-- a remote P0 request found no OUT unit (R75) -/
  | demoted (p : Port) (tag : Tag)
  /-- the first request has joined the remote fill of the second, and keeps its deadline (R106) -/
  | follow (p : Port) (tag : Tag) (q : Port) (holder : Tag)
  /-- the request is served without a promise (R76) -/
  | unpromise (p : Port) (tag : Tag)
  /-- a posted store has completed, or goes on without its promise, demoted or not (R123, R75, R76) -/
  | postedEnd (p : Port) (point : Nat) (demoted : Bool)
  /-- the descriptor read of the walk with this order of start has returned -/
  | walkData (p : Port) (w : WalkId) (order : Nat) (stat : BitVec 4) (desc : BitVec 64) (marked : Bool)
  /-- a slot of a spilled posted write has been read back -/
  | spillData (p : Port) (id : Nat) (header : Bool) (cl : CodeLine)
  /-- a prefetch ended: with a fill, declined, with an error status -/
  | prefetchEnd (p : Port) (line : LineAddr) (filled declined error : Bool)
  | resowEnd (line : LineAddr) (filled : Bool)
  | mntLine (line : LineAddr)
  | retire (m : MemNo) (key : Nat) (line : LineAddr) (cause : BitVec 2)
  /-- a useful or unused prefetch (R177) -/
  | prefetchUse (useful : Bool)
  /-- corrected codewords at an interface (R334): 0-7 channels, 8-9 memory ports -/
  | corrected (u : Nat) (n : Nat)
  /-- a memory walker's report, a slot walker's report, that finds its unit busy flag -/
  | poisonedBy (p : Port)
  deriving DecidableEq, Repr

/-- The coherence engine: arrays, Press, Hamper, trackers, conflict lists, and the storage behind the channels and
memory ports. -/
structure Coh where
  tags : List (Nat × TagEntry) := []
  pp : List (Nat × BitVec 16) := []
  snf : List (Nat × SnfEntry) := []
  dir : List (Nat × DirEntry) := []
  ddr : Vector (List (Nat × Codeword)) 2
  sram : Vector (List (Nat × Codeword)) 8
  press : List PressEntry := []
  hamper : List HamperEntry := []
  txns : List Txn := []
  nodeTx : List NodeTx := []
  homeTx : List HomeTx := []
  setRecalls : List SetRecall := []
  flows : List Flow := []
  snoops : List Snoop := []
  nextFlow : Nat := 0
  /-- the conflict lists, in order of arrival; a lock or a resource has been freed since the last passes -/
  wait : List Req := []
  wake : Bool := false
  agentWbs : List AgentWb := []
  /-- modified lines of snoop answers that wait for a Hamper entry, oldest first; the lines are locked -/
  hamperWait : List HamperEntry := []
  /-- forwards, invalidations and recalls that meet a snoop filter set under purge (R213) -/
  snpWait : List (Fin 5 × FabHdr × Bool × Bool) := []
  nextOrder : Nat := 0
  memQ : Vector (List PendRead) 2
  cmiQ : Vector (List PendRead) 8
  memVerify : Vector (List Verify) 2
  cmiVerify : Vector (List Verify) 8
  /-- rank of the latest read burst of a channel (R365) -/
  cmiRank : Vector Nat 8
  outTrks : List OutTrk := []
  /-- contention predictor: slice, line, count; oldest first -/
  hot : List (Nat × LineAddr × Nat) := []
  /-- snoop filter sets locked by a purge (slice*512+set), directory sets locked by a recall (slice*2048+set) -/
  lockedSnf : List Nat := []
  lockedDir : List Nat := []
  /-- uncorrectable words found by scrubs, for the report passes; of a memory line also whether the port's UE was 0 -/
  slotReports : List (Nat × LineAddr) := []
  memReports : List (Nat × LineAddr × Bool) := []
  /-- slots accepted for retirement (R331), with the mask of the failed words -/
  retiring : List (Nat × Nat) := []
  fx : List Fx := []
  deriving DecidableEq, Repr

/-- The register-driven maintenance operation (R150-R152). -/
structure Maint where
  op : BitVec 2 := 0
  sw : Bool := false
  next : Nat := 0
  left : Nat := 0
  inFlight : List LineAddr := []
  /-- the slice and way of a set-and-way operation, and sets still to visit -/
  slice : Nat := 0
  way : Nat := 0
  sets : List Nat := []
  deriving DecidableEq, Repr

/-- A drain walk of one way (Table 4.6). -/
structure WayDrain where
  slice : SliceNo
  way : Fin 16
  next : Nat
  /-- lines whose Hamper entries the walk created -/
  lines : List LineAddr
  /-- part of a channel disable (Table 4.7) -/
  chan : Bool
  deriving DecidableEq, Repr

/-- A retirement list entry (R332). -/
structure RetEntry where
  key : Nat
  cause : BitVec 2
  time : BitVec 64
  deriving DecidableEq, Repr

/-- The Darner (R324-R334). -/
structure DarnerSt where
  pos : Vector Nat 32
  memPos : Vector Nat 2
  due : Vector Nat 34
  /-- when each due count rises next -/
  dueAt : Vector Nat 34
  /-- walkers that have completed a pass since their flag was last 0 -/
  passed : BitVec 34 := 0
  retired : Vector (List RetEntry) 2
  /-- window starts of C0-C7, M0, M1 -/
  winAt : Vector Nat 10
  /-- THR already raised in the window -/
  winThr : BitVec 10 := 0
  ecs : Vector (List Nat) 2
  deriving DecidableEq, Repr

/-- One session transport (R417-R421). -/
structure Session where
  isOpen : Bool := false
  level : BitVec 2 := 0
  /-- OPEN answered, AUTH awaited: level, Nh, Nd -/
  chal : Option (BitVec 2 × BitVec 128 × BitVec 128) := none
  ks : BitVec 256 := 0
  lastSeq : Word := 0
  lastReply : List Byte := []
  lastAt : Nat := 0
  fails : Nat := 0
  lockEnd : Option Nat := none
  lockPeriod : Nat := 64
  deriving DecidableEq, Repr

/-- A command frame (R416). -/
structure SesFrame where
  tr : Transport
  opc : Byte
  stat : Byte
  len : Nat
  seq : Word
  payload : List Byte
  mac : BitVec 128
  deriving DecidableEq, Repr

structure Sessions where
  i3c : Session
  inband : Session
  /-- the PPR command under way (R371) -/
  ppr : Option (Transport × Word × MemNo) := none
  /-- commands that wait for the one under way, in order of arrival (R421) -/
  waiting : List SesFrame := []
  busy : Bool := false
  ready : Bool := false
  refused : Bool := false
  i3cAddr : Option (BitVec 7) := none
  ibiEnabled : Bool := false
  deriving DecidableEq, Repr

/-- The calendar clock (R423-R425): seconds mod 2^34, nanoseconds, 24-bit fraction, INC in 2^-24 ns. -/
structure Calendar where
  sec : Nat := 0
  ns : Nat := 0
  frac : Nat := 0
  inc : Nat := 512000000000
  load : Option (BitVec 64) := none
  lastTick : Nat := 0
  /-- stands still after a crystal fault until ticks resume -/
  stopped : Bool := false
  /-- the alarm has fired in the seconds that PWR_ALARM names -/
  alarmed : Bool := false
  deriving DecidableEq, Repr

/-- Fabric time (R426-R431) in 1/32 ns, with its rate trim in 0.001 ppm and the trim's remainder. -/
structure Fabric where
  running : Bool := false
  t : Nat := 0
  trim : Int := 0
  acc : Int := 0
  xseq : BitVec 7 := 0
  t1 : Option Nat := none
  lastExch : Nat := 0
  good : Nat := 0
  theta : Int := 0
  stepped : Bool := false
  holdover : Bool := false
  ppsAt : Nat := 0
  ppsOut : Bool := false
  ppsUntil : Nat := 0
  deriving DecidableEq, Repr

/-- Power states (Table 14.1, with the readable steps of PWR_STAT.STATE). -/
inductive PState where
  | run | restEntry | rest | restExit | fallowEntry | fallow | wake | keep | trip | off
  deriving DecidableEq, Repr

/-- The wake store (Table 14.5 step 7). -/
structure WakeStore where
  digest : BitVec 256
  pos : Vector Nat 32
  memPos : Vector Nat 2
  seedCount : Nat
  seedValid : Bool
  slotB : Bool
  kinds : Vector PortKind 6
  deriving DecidableEq, Repr

/-- Power, supplies, thermal control and resowing. -/
structure Power where
  st : PState := .run
  /-- step of Table 14.5 or 14.6 that is next -/
  step : Nat := 0
  /-- a wake source held during entry -/
  heldWake : Option (BitVec 3) := none
  /-- a cause that ends REST, met during entry -/
  heldRest : Option (BitVec 3) := none
  vin : Bool := true
  vbak : Bool := true
  railsGood : Bool := true
  /-- the device waits for its rails after a loss -/
  waitRails : Bool := false
  wakeStore : Option WakeStore := none
  /-- digest of the slot in use, validated at the last start -/
  digest : BitVec 256 := 0
  uplift : Vector Nat 2
  command : Vector Nat 2
  throttleSince : Option Nat := none
  resowNext : Nat := 0
  resowOut : Nat := 0
  seedMarks : List Nat := []
  deriving DecidableEq, Repr

/-- The whole block. -/
structure State where
  pending : List Instr
  fuses : Fuses
  regs : List (Nat × Word)
  img : ImageSetup
  boot : Boot
  flash : Flash
  mon : Monitor
  mbx : Vector Mailbox 4
  /-- fine time, ns -/
  fine : Nat
  prm : PromiseUnit
  ports : Vector PortSt 6
  links : Vector StileSt 6
  hdl : HeadlandSt
  coh : Coh
  mnt : Maint
  drains : List WayDrain
  dar : DarnerSt
  /-- useful and unused prefetches of the accuracy interval, and its start (R177) -/
  accU : Nat
  accV : Nat
  accAt : Nat
  /-- time of the last contention decay -/
  decayAt : Nat
  deadNodes : List Nat
  /-- nodes whose lines are being removed (R232) -/
  deadWalks : List Nat
  ses : Sessions
  cal : Calendar
  fab : Fabric
  pwr : Power
  sent : List Sent
  /-- counter the free values are drawn with -/
  freeCtr : Nat
  deriving DecidableEq, Repr

def PortSt.reset : PortSt :=
  { link := {}, pwq := {}, swath := Vector.replicate 8 none,
    drill := { trackers := Vector.replicate 64 none },
    ptu := { tlb := Vector.replicate 128 TlbEntry.empty, demand := Vector.replicate 4 none } }

/-- A Stile link after reset: every receive buffer of the far end free (R354). -/
def StileSt.reset : StileSt := { link := {}, cred := Vector.replicate 10 20 }

/-- The Headland after reset: every buffer free (R359). -/
def HeadlandSt.reset : HeadlandSt :=
  { tx := Vector.replicate 2 [], rx := Vector.replicate 2 [], cred := Vector.replicate 2 #v[64, 32, 32, 128, 8] }

def Coh.reset : Coh :=
  { ddr := Vector.replicate 2 [], sram := Vector.replicate 8 [], memQ := Vector.replicate 2 [],
    cmiQ := Vector.replicate 8 [], memVerify := Vector.replicate 2 [], cmiVerify := Vector.replicate 8 [],
    cmiRank := Vector.replicate 8 0 }

def DarnerSt.reset : DarnerSt :=
  { pos := Vector.replicate 32 0, memPos := Vector.replicate 2 0, due := Vector.replicate 34 0,
    dueAt := Vector.replicate 34 0, retired := Vector.replicate 2 [], winAt := Vector.replicate 10 0,
    ecs := Vector.replicate 2 [] }

def PromiseUnit.reset : PromiseUnit :=
  { mons := Vector.replicate 36 {}, chanLoad := Vector.replicate 8 0, memLoad := Vector.replicate 2 0,
    vmon := Vector.replicate 2 0, breachCtr := Vector.replicate 4 0 }

def ImageSetup.reset : ImageSetup :=
  { kinds := Vector.replicate 6 .off, keys := Vector.replicate 3 0 }

def Power.reset : Power := { uplift := Vector.replicate 2 0, command := Vector.replicate 2 800 }

def Mailbox.reset : Mailbox := { data := Vector.replicate 8 0 }

/-- The machine right after reset. Every register reads its reset value (no entry in `regs`), every array is free,
the queue is empty. -/
def State.reset : State :=
  { pending := []
    fuses := {}
    regs := []
    img := ImageSetup.reset
    boot := { tries := Vector.replicate 2 0 }
    flash := {}
    mon := {}
    mbx := Vector.replicate 4 Mailbox.reset
    fine := 0
    prm := PromiseUnit.reset
    ports := Vector.replicate 6 PortSt.reset
    links := Vector.replicate 6 StileSt.reset
    hdl := HeadlandSt.reset
    coh := Coh.reset
    mnt := {}
    drains := []
    dar := DarnerSt.reset
    accU := 0
    accV := 0
    accAt := 0
    decayAt := 0
    deadNodes := []
    deadWalks := []
    ses := { i3c := {}, inband := {} }
    cal := {}
    fab := {}
    pwr := Power.reset
    sent := []
    freeCtr := 0 }

end Sys2Proof.Machine
end

