-- ==== Sys2Proof/Machine/Operands.lean ====
section
/-! DEFINITION. The operands of requests: system addresses, slices and slots, CSR accesses, store masks, the bit layouts
of packets. -/

namespace Sys2Proof.Machine
open Sys2Proof

/-! ### Addresses -/

def lineOf (sa : SysAddr) : LineAddr := sa.extractLsb' 7 45
def saOf (l : LineAddr) : SysAddr := l ++ 0#7
/-- Home node ID of a line, SA[51:43] (R29). -/
def lineHome (l : LineAddr) : Nat := l.toNat / 2 ^ 36
/-- SA[i] of a line address, for i at least 7. -/
def sab (l : LineAddr) (i : Nat) : Bool := l.getLsbD (i - 7)
def xorBits (l : LineAddr) (is : List Nat) : Bool := is.foldl (fun a i => a != sab l i) false

/-- The home die bit d (R39), also bit 4 of the slice number. -/
def dieBit (l : LineAddr) : Bool := xorBits l [7, 13, 19, 25, 31, 37]

/-- The slice hash of R91. -/
def sliceOf (l : LineAddr) : Fin 32 :=
  Fin.ofNat 32 (16 * (dieBit l).toNat
    + 8 * (xorBits l [11, 17, 23, 29, 35, 46, 50]).toNat
    + 4 * (xorBits l [10, 16, 22, 28, 34, 45, 49]).toNat
    + 2 * (xorBits l [9, 15, 21, 27, 33, 44, 48]).toNat
    + (xorBits l [8, 14, 20, 26, 32, 43, 47, 51]).toNat)

def memOf (l : LineAddr) : Fin 2 := if dieBit l then 1 else 0
/-- Port-local line index SA[42:8] (R42). -/
def memIndex (l : LineAddr) : Nat := (l.toNat / 2) % 2 ^ 35
/-- The line at a port-local line index of a node's memory port (R333). -/
def lineOfMem (node : Nat) (m : Fin 2) (i : Nat) : LineAddr :=
  let base := BitVec.ofNat 45 (2 ^ 36 * node + 2 * i)
  base ||| (BitVec.ofBool ((m == 1) != xorBits base [13, 19, 25, 31, 37])).setWidth 45

def dieOfSlice (s : Nat) : Fin 2 := if s < 16 then 0 else 1
def dieOfPort (p : Port) : Fin 2 := if p.val < 3 then 0 else 1
def dieOfChan (c : Nat) : Fin 2 := if c < 4 then 0 else 1
def dieOfLink (l : LinkNo) : Fin 2 := if l.val < 3 then 0 else 1

/-- What an offset addresses (Table 1.6). -/
inductive Space where
  | memory
  | mmio (w : BitVec 4)
  | csr (off : BitVec 26)
  | reserved
  deriving DecidableEq, Repr

def spaceOf (sa : SysAddr) : Space :=
  if !sa.getLsbD 42 then .memory
  else if sa.extractLsb' 40 3 = 0b110#3 then .mmio (sa.extractLsb' 36 4)
  else if sa.extractLsb' 26 17 = 0b11111111111111100#17 then .csr (sa.extractLsb' 0 26)
  else .reserved

def nodeOf (sa : SysAddr) : Nat := (sa.extractLsb' 43 9).toNat
/-- SA of a CSR offset of a node. -/
def csrAddr (node : Nat) (off : Nat) : SysAddr := BitVec.ofNat 52 (node * 2 ^ 43 + 0x7FFF0000000 + off)

/-! ### Slots of the external cache -/

/-- Sets per slice of a build (Table 3.1, CAP). -/
def setsOf (cap : Nat) : Nat := if cap = 0 then 2048 else if cap = 1 then 4096 else 8192

/-- Set index of a line (Table 3.2). -/
def setIdx (sets : Nat) (l : LineAddr) : Nat := (l.toNat / 32) % sets

/-- TAG of a line (Table 3.2). -/
def tagOf (sets : Nat) (l : LineAddr) : BitVec 27 :=
  BitVec.ofNat 27 ((l.toNat / 2 ^ 36) * 2 ^ 18 + (l.toNat / 32 / sets) % (2 ^ 31 / sets) % 2 ^ 18)

/-- A line address whose SA[11:7] read 0, with those bits recovered from the slice number (R92). -/
def anchorLine (s : Nat) (b : LineAddr) : LineAddr :=
  let x := fun (i : Nat) (is : List Nat) => if (s.testBit i) != xorBits b is then 1 else 0
  b ||| BitVec.ofNat 45 (x 4 [13, 19, 25, 31, 37] + 2 * x 0 [14, 20, 26, 32, 43, 47, 51]
    + 4 * x 1 [15, 21, 27, 33, 44, 48] + 8 * x 2 [16, 22, 28, 34, 45, 49] + 16 * x 3 [17, 23, 29, 35, 46, 50])

/-- Line address of a tag entry (Table 3.2, R92). -/
def lineOfTag (sets : Nat) (s : Nat) (set : Nat) (tag : BitVec 27) : LineAddr :=
  anchorLine s (BitVec.ofNat 45 (tag.toNat / 2 ^ 18 * 2 ^ 36 + (tag.toNat % 2 ^ 18 * sets + set) * 32 % 2 ^ 36))

/-- Index of a slot in the tag store: slice, set, way. -/
def slotKey (s set way : Nat) : Nat := (s * 8192 + set) * 16 + way
def slotSlice (k : Nat) : Nat := k / 16 / 8192
def slotSet (k : Nat) : Nat := k / 16 % 8192
def slotWay (k : Nat) : Nat := k % 16

/-- Channel of a slice (Table 1.7). -/
def chanOf (ch4 : Bool) (s : Nat) : Fin 8 :=
  Fin.ofNat 8 (if ch4 then 4 * (s / 16) + s % 16 / 8 else s / 4)

/-- Slot index li in the channel (R95). -/
def slotIndex (ch4 : Bool) (sets k : Nat) : Nat :=
  let s := slotSlice k
  ((if ch4 then s % 8 else s % 4) * sets + slotSet k) * 16 + slotWay k

/-- Where the SRAM devices hold codeword n of the line at a slot index: rank, A[18:0] of its burst, device word (R95, R364). -/
structure CmiPlace where
  rank : Nat
  a : Nat
  word : Nat
  deriving DecidableEq, Repr

def cmiPlace (ranks2 dev8m : Bool) (li n : Nat) : CmiPlace :=
  { rank := if ranks2 then li / 2 ^ 18 % 2 else 0
    a := li % (if !ranks2 && dev8m then 2 ^ 19 else 2 ^ 18)
    word := if ranks2 then (16 * li + n) % 2 ^ 22 else 16 * li + n }

/-- Place of a port-local line index in devices of a width and density (R369): 1 Ki or 2 Ki columns of 64 bytes' bursts, and the rows that
the capacity of a rank leaves. -/
def ddrPlace (x8 d32 : Bool) (ranks i : Nat) : DdrPlace :=
  let c := if x8 then 6 else 7
  let j := i / 2 ^ (5 + c)
  let rows := if d32 then 2 ^ 17 else 2 ^ 16
  let rank := if ranks = 3 then j / rows else j % ranks
  let row := if ranks = 3 then j % rows else j / ranks
  { rank := rank, group := (i % 8) ^^^ (row % 8), bank := (i / 8 % 4) ^^^ (row / 8 % 4), row := row, col := i / 32 % 2 ^ c }

/-! ### CSR accesses (Table 12.2) -/

/-- What the size, alignment and byte mask of a CSR write ask. -/
inductive CsrWr where
  /-- registers written, in order: byte offset in the line, value -/
  | words (l : List (Nat × Word))
  /-- narrow: dropped with success -/
  | narrow
  | none
  | bad
  deriving DecidableEq, Repr

def lineByte (b : LineBytes) (i : Nat) : Byte := b.extractLsb' (8 * i) 8
def lineWord32 (b : LineBytes) (i : Nat) : Word := b.extractLsb' (8 * i) 32

/-- Offsets of the bytes of a mask. -/
def maskBytes (m : ByteMask) : List Nat := (List.range 128).filter (fun i => m.getLsbD i)

/-- The byte mask of a CSR write (Table 12.2). -/
def csrWrOf (d : StoreData) : CsrWr :=
  match maskBytes d.mask with
  | [] => .none
  | lo :: t =>
    let n := t.length + 1
    if d.mask ≠ byteRange lo n then .bad
    else if n = 4 ∧ lo % 4 = 0 then .words [(lo, lineWord32 d.bytes lo)]
    else if n = 8 ∧ lo % 8 = 0 then .words [(lo, lineWord32 d.bytes lo), (lo + 4, lineWord32 d.bytes (lo + 4))]
    else if n = 1 ∨ (n = 2 ∧ lo % 2 = 0) then .narrow
    else .bad

/-- A read or atomic of 2^SZ bytes is aligned (R343). -/
def aligned (a : Nat) (sz : Nat) : Bool := a % 2 ^ sz == 0

/-- The bytes `off .. off+len-1` of a line, every other byte 0 (R343). -/
def bytesAt (b : LineBytes) (off len : Nat) : LineBytes :=
  b &&& BitVec.ofNat 1024 ((2 ^ (8 * len) - 1) <<< (8 * off))

/-- The words that the bytes `off .. off+len-1` touch keep their marks. -/
def poisonAt (k : PoisonMask) (off len : Nat) : PoisonMask :=
  BitVec.ofNat 16 (maskOf (fun n => k.getLsbD n && decide (8 * n < off + len) && decide (off < 8 * n + 8)) 16)

/-! ### Packet layouts -/

/-- Field of a slot. -/
def sl (x : BitVec 160) (lo w : Nat) : Nat := (x.toNat >>> lo) % 2 ^ w

/-- Slots of a payload of `n` slots. -/
def slotsOf (n : Nat) (x : Nat) : List (BitVec 160) := (List.range n).map (fun i => BitVec.ofNat 160 (x >>> (160 * i)))

/-- The payload as one number, first slot lowest. -/
def slotsVal (l : List (BitVec 160)) : Nat := l.foldr (fun x a => x.toNat + a * 2 ^ 160) 0

/-- Header slot of a packet to an agent (Table 11.3). -/
def agentHdr (m : AgentMsg) : BitVec 160 :=
  let addr := if 0x30 ≤ m.opc.toNat then m.addr.toNat else 0
  BitVec.ofNat 160 (m.opc.toNat + 2 ^ 8 * m.tag.toNat + 2 ^ 20 * m.grant.toNat + 2 ^ 22 * m.uo.toNat
    + 2 ^ 23 * m.nb.toNat + 2 ^ 24 * m.stat.toNat + 2 ^ 28 * m.fcode.toNat + 2 ^ 40 * addr
    + 2 ^ 92 * m.sz.toNat + 2 ^ 96 * m.time.toNat)

/-- All slots of a packet to an agent (Tables 11.4 and 11.6). -/
def agentSlots (m : AgentMsg) : List (BitVec 160) :=
  let o := m.opc.toNat
  agentHdr m ::
    (if o = 0x28 ∨ o = 0x33 then slotsOf 7 (m.bytes.toNat + 2 ^ 1024 * m.poison.toNat)
     else if o = 0x39 ∨ o = 0x3A then
       slotsOf 8 (m.bytes.toNat + 2 ^ 1024 * m.mask.toNat + 2 ^ 1152 * m.poison.toNat)
     else if o = 0x29 then slotsOf 1 (m.value.toNat + 2 ^ 128 * m.marks.toNat)
     else [])

/-- Fields of a Stile header slot (Table 11.10) that the device sets. -/
structure StileHdr where
  opc : Nat
  dst : Nat := 0
  src : Nat := 0
  rqn : Nat := 0
  rtrk : Nat := 0
  htrk : Nat := 0
  bounded : Bool := false
  line : LineAddr := 0
  grant : Nat := 0
  uo : Bool := false
  ack : Bool := false
  inv : Bool := false
  fwd : Bool := false
  keep : Bool := false
  stat : Nat := 0
  count : Nat := 0
  aop : Nat := 0
  sz : Nat := 0
  nr : Bool := false
  off : Nat := 0
  pst : Bool := false
  deriving DecidableEq, Repr

def stileHdr (h : StileHdr) : BitVec 160 :=
  BitVec.ofNat 160 (h.opc + 2 ^ 6 * h.dst + 2 ^ 15 * h.src + 2 ^ 24 * h.rqn + 2 ^ 33 * h.rtrk + 2 ^ 44 * h.htrk
    + 2 ^ 55 * h.bounded.toNat + 2 ^ 63 * h.line.toNat + 2 ^ 108 * h.grant + 2 ^ 110 * h.uo.toNat
    + 2 ^ 111 * h.ack.toNat + 2 ^ 112 * h.inv.toNat + 2 ^ 113 * h.fwd.toNat + 2 ^ 114 * h.keep.toNat
    + 2 ^ 115 * h.stat + 2 ^ 119 * h.count + 2 ^ 131 * h.aop + 2 ^ 135 * h.sz + 2 ^ 138 * h.nr.toNat
    + 2 ^ 139 * h.off + 2 ^ 146 * h.pst.toNat)

def hdrOpc (x : BitVec 160) : Nat := sl x 0 6
def hdrDst (x : BitVec 160) : Nat := sl x 6 9
def hdrB (x : BitVec 160) : Bool := x.getLsbD 55
def hdrDt (x : BitVec 160) (dim : Nat) : Nat := sl x (56 + 2 * dim) 2
def hdrDl (x : BitVec 160) : Bool := x.getLsbD 62
def setHdr (x : BitVec 160) (lo w v : Nat) : BitVec 160 :=
  let m := BitVec.ofNat 160 ((2 ^ w - 1) <<< lo)
  (x &&& ~~~ m) ||| (BitVec.ofNat 160 (v <<< lo) &&& m)

/-- Payload slots of a Stile packet. -/
def payloadSlots : FabPayload → List (BitVec 160)
  | .none => []
  | .line c => slotsOf 8 c.toNat
  | .lineMask c m => slotsOf 9 (c.toNat + 2 ^ 1280 * m.toNat)
  | .atomic o c => slotsOf 2 (o.toNat + 2 ^ 128 * c.toNat)
  | .value v k => slotsOf 1 (v.toNat + 2 ^ 128 * k.toNat)
  | .store d => slotsOf 8 (d.bytes.toNat + 2 ^ 1024 * d.mask.toNat + 2 ^ 1152 * d.poison.toNat)

def stileSlots (p : StilePkt) : List (BitVec 160) := p.hdr :: payloadSlots p.payload

/-- Class of a Stile opcode (Table 11.11): 0 REQ, 1 SNP, 2 RSP, 3 DAT. -/
def stileClass (opc : Nat) : Nat := if opc < 0x10 then 0 else if opc < 0x20 then 1 else if opc < 0x28 then 3 else 2

/-- A link-control slot (Table 11.7). -/
def ctlSlot : CtlSlot → BitVec 160
  | .ack q => BitVec.ofNat 160 (0x3F + 2 ^ 10 * q.toNat + 2 ^ 20)
  | .nak q => BitVec.ofNat 160 (0x3F + 2 ^ 6 * 3 + 2 ^ 21 * q.toNat)
  | .crd c ch => BitVec.ofNat 160 (0x3F + 2 ^ 6 * 1 + 2 ^ 32 * (c.toNat + 4 * ch.toNat + 32))
  | .vcc c dl n => BitVec.ofNat 160 (0x3F + 2 ^ 6 * 2 + 2 ^ 32 * (c.toNat + 8 * dl.toNat + 16 * n))
  | .param b => BitVec.ofNat 160 (0x3F + 2 ^ 6 * 4 + 2 ^ 32 * b.toNat)
  | .time b => BitVec.ofNat 160 (0x3F + 2 ^ 6 * 5 + 2 ^ 32 * b.toNat)

end Sys2Proof.Machine
end

