-- ==== Sys2Proof/Machine/Flags.lean ====
section
/-! DEFINITION. Status that every unit reports: event sources, routes and pins, the trouble log, event counters. -/

namespace Sys2Proof.Machine
open Sys2Proof

/-- Reserved sources of Table 12.8. -/
def evReserved (n : Nat) : Bool :=
  (12 ≤ n && n ≤ 31) || (43 ≤ n && n ≤ 63) || (73 ≤ n && n ≤ 95) || (107 ≤ n && n ≤ 111) || (120 ≤ n && n ≤ 127) ||
  (153 ≤ n && n ≤ 159) || (179 ≤ n && n ≤ 191) || (207 ≤ n && n ≤ 223) || (238 ≤ n && n ≤ 255) || 288 ≤ n

/-- Group default of a source's route (Table 12.7); reserved sources have 0x00. -/
def routeDefault (n : Nat) : BitVec 5 :=
  if evReserved n then 0x00
  else if n < 32 then 0x0C else if n < 64 then 0x0D else if n < 96 then 0x08 else if n < 128 then 0x0D
  else if n < 192 then 0x0E else if n < 256 then 0x0F else 0x08

/-- The stored route of a source (R388). -/
def Events.route (e : Events) (n : Nat) : BitVec 5 := Sparse.get routeDefault e.routes n

def routePinEn (r : BitVec 5) : Bool := r.getLsbD 2
def routePin (r : BitVec 5) : Nat := r.toNat % 4
def routeQueue (r : BitVec 5) : Bool := r.getLsbD 3
def routeInband (r : BitVec 5) : Bool := r.getLsbD 4

/-- INTk_N is driven low (R389): a pending source names the pin. -/
def Events.intLow (e : Events) (k : Nat) : Bool :=
  (List.range 288).any (fun n => e.pend.getLsbD n && routePinEn (e.route n) && routePin (e.route n) == k)

/-- Entries of the management event queue (R391, Table 8.4). -/
def evHeadCap : Nat := 16
def evFull : Nat := 16 + 16 + 65536
def Events.depth (e : Events) : Nat := e.head.length + e.midCount + e.tail.length

/-- Items pass from the tail to the head while the middle is empty and the head has a free slot (R277). -/
def Events.settle (e : Events) : Events :=
  if e.midCount = 0 then
    let n := evHeadCap - e.head.length
    { e with head := e.head ++ e.tail.take n, tail := e.tail.drop n }
  else e

/-- Moments and links that the monitor needs from the rest of the block. -/
structure MonEnv where
  /-- TIME of Table 12.10 -/
  time : BitVec 64
  /-- TIME is calendar time -/
  cal : Bool
  sync : Bool
  /-- in-band messages can be sent (R390) -/
  inbOk : Bool
  deriving DecidableEq, Repr

/-- FLAGS of Table 12.10. -/
def MonEnv.flags (m : MonEnv) (raised : Bool) : Byte :=
  BitVec.ofNat 8 (m.cal.toNat + 2 * m.sync.toNat + 4 * raised.toNat)

/-- An occurrence to report: a raising (R387) with the SEQ of its log entry, a log entry (R394), a count (R384). -/
inductive Occ where
  | raise (ev unit : Nat) (seq : Word)
  | log (ev unit : Nat) (raised : Bool) (detail : BitVec 128)
  | count (sel n : Nat)
  deriving DecidableEq, Repr

/-- Counter selector: the MBX_SEL value of KIND, INST and INDEX (R383). -/
def ctrSel (kind inst index : Nat) : Nat := kind + 256 * inst + 16384 * index

/-- DETAIL form D: a counter selector (Table 12.12). -/
def formD (sel : Nat) : BitVec 128 := BitVec.ofNat 128 (sel % 2 ^ 32)

def noSeq : Word := 0xFFFFFFFF

/-- R387: pending bit, queue entry, in-band message; the further occurrences that follow (R390, R392). -/
def Monitor.raise (m : Monitor) (e : MonEnv) (ev unit : Nat) (seq : Word) : Monitor × List Occ :=
  if evReserved ev then (m, [])
  else
    let ev1 := { m.ev with pend := m.ev.pend ||| BitVec.ofNat 288 (2 ^ ev) }
    if !ev1.delivering then ({ m with ev := ev1 }, [])
    else
      let r := ev1.route ev
      let full := ev1.depth ≥ evFull
      let entry : EvEntry := { time := e.time, event := BitVec.ofNat 9 ev, unit := BitVec.ofNat 8 unit,
                               flags := e.flags true, logSeq := seq }
      let ev2 :=
        if routeQueue r && ev != 8 then
          if full then { ev1 with dropped := true }
          else Events.settle { ev1 with tail := ev1.tail ++ [entry] }
        else ev1
      let o2 :=
        if routeQueue r && ev != 8 && full then
          Occ.count (ctrSel 7 0 0x20) 1 :: (if ev1.dropped then [] else [Occ.log 8 57 true (Config.bareDetail 8 m.log.wseq)])
        else []
      let want := routeInband r && ev != 10
      let waits := ev2.inb.any (fun x => x.1 == ev)
      let ev3 := if want && e.inbOk && !waits then { ev2 with inb := ev2.inb ++ [(ev, e.time)] } else ev2
      let disc := want && !e.inbOk
      let first := disc && !m.seen.contains (ctrSel 7 0 0x21)
      let o3 :=
        if want && e.inbOk && waits then [Occ.count (ctrSel 7 0 0x22) 1]
        else if disc then Occ.count (ctrSel 7 0 0x21) 1 :: (if first then [Occ.raise 10 57 noSeq] else [])
        else []
      ({ m with ev := ev3, seen := if first then addSet m.seen (ctrSel 7 0 0x21) else m.seen }, o2 ++ o3)

/-- Oldest retained sequence number (R396). -/
def TroubleLog.oldest (l : TroubleLog) : Word := l.wseq - BitVec.ofNat 32 l.entries.length

/-- R394, R396, R398, R399: the entry takes the next sequence number; a full log loses its oldest entry, which may
overtake the cursor or the mark. -/
def Monitor.write (m : Monitor) (e : MonEnv) (ev unit : Nat) (raised : Bool) (detail : BitVec 128) :
    Monitor × List Occ :=
  let l := m.log
  let entry : LogEntry := { time := e.time, seq := l.wseq, event := BitVec.ofNat 9 ev, unit := BitVec.ofNat 8 unit,
                            flags := e.flags raised, detail := detail }
  let lost := l.entries.length ≥ 2048
  let gone := l.oldest
  let es := (if lost then l.entries.drop 1 else l.entries) ++ [entry]
  let l1 := { l with entries := es, wseq := l.wseq + 1 }
  let ovt := lost && l.rseq == gone
  let markGone := lost && l.markValid && l.mark == gone
  let l2 := if ovt then { l1 with rseq := l1.oldest, overtaken := true } else l1
  let l3 := if markGone then { l2 with markValid := false, markLost := true } else l2
  ({ m with log := l3 },
    (if raised then [Occ.raise ev unit l.wseq] else [])
      ++ (if ovt && !l.overtaken then [Occ.raise 7 57 noSeq] else [])
      ++ (if markGone && !l.markLost then [Occ.raise 5 57 noSeq] else [])
      ++ [Occ.count (ctrSel 7 0 0x23) 1])

def ctrMax : Nat := 2 ^ 48 - 1
def ctrGet (m : Monitor) (sel : Nat) : BitVec 49 := Sparse.get (fun _ => 0) m.ctr sel
def ctrVal (c : BitVec 49) : Nat := c.toNat % 2 ^ 48
def ctrOvf (c : BitVec 49) : Bool := c.getLsbD 48
def mkCtr (v : Nat) (ovf : Bool) : BitVec 49 := BitVec.ofNat 49 (v % 2 ^ 48 + 2 ^ 48 * ovf.toNat)
def Monitor.setCtr (m : Monitor) (sel : Nat) (c : BitVec 49) : Monitor :=
  { m with ctr := Sparse.set (fun _ => 0) m.ctr sel c }

/-- R384: saturation at 48 bits; the first saturating increment sets OVF, raises EV003 and writes an entry. -/
def Monitor.count (m : Monitor) (sel n : Nat) : Monitor × List Occ :=
  let c := ctrGet m sel
  if ctrVal c + n ≤ ctrMax then (m.setCtr sel (mkCtr (ctrVal c + n) (ctrOvf c)), [])
  else if ctrOvf c then (m.setCtr sel (mkCtr ctrMax true), [])
  else (m.setCtr sel (mkCtr ctrMax true), [Occ.log 3 57 true (formD sel)])

def Monitor.occ (m : Monitor) (e : MonEnv) : Occ → Monitor × List Occ
  | .raise ev unit seq => m.raise e ev unit seq
  | .log ev unit raised detail => m.write e ev unit raised detail
  | .count sel n => m.count sel n

/-- Occurrences in order, each with what follows from it. The bound is never met: an occurrence brings at most a few
others, and the once-only flags end every chain. -/
def Monitor.run (e : MonEnv) : Nat → List Occ → Monitor → Monitor
  | 0, _, m => m
  | _, [], m => m
  | k + 1, o :: t, m =>
    let r := m.occ e o
    Monitor.run e k (r.2 ++ t) r.1

/-- A counter described as a greatest value since it was last written (R385). -/
def Monitor.greatest (m : Monitor) (sel v : Nat) : Monitor :=
  let c := ctrGet m sel
  if ctrVal c < v then m.setCtr sel (mkCtr v (ctrOvf c)) else m

/-- Pending bits cleared by writing 1 (EVT_PEND). -/
def Events.clearPend (e : Events) (g : Nat) (v : Word) : Events :=
  { e with pend := e.pend &&& ~~~ (v.setWidth 288 <<< (32 * g)) }

/-- Requester byte of form A (Table 12.12). -/
def reqAgent (p : Port) : Nat := p.val
def reqDevice : Nat := 0x10
def reqNode : Nat := 0x20
def reqSession : Nat := 0xF0
def reqNone : Nat := 0xFF

/-- DETAIL form A of an entry with a system address. CODE holds up to four bytes. -/
def formA (sa : SysAddr) (requester mask node : Nat) (code : List Nat) : BitVec 128 :=
  BitVec.ofNat 128 (sa.toNat + 2 ^ 56 * (requester % 256) + 2 ^ 64 * (mask % 65536) + 2 ^ 80 * (node % 512)
    + 2 ^ 96 * (code.getD 0 0 % 256) + 2 ^ 104 * (code.getD 1 0 % 256) + 2 ^ 112 * (code.getD 2 0 % 256)
    + 2 ^ 120 * (code.getD 3 0 % 256))

/-- Form A for a cache slot: slice, set and way in CODE; a slot without a line address sets bit 55. -/
def formASlot (sa : Option SysAddr) (requester mask node slice set way : Nat) : BitVec 128 :=
  let d := formA (sa.getD 0) requester mask node [slice, set % 256, set / 256, way]
  match sa with
  | some _ => d
  | none => d ||| BitVec.ofNat 128 (2 ^ 55)

/-- DETAIL form B: a measurement against a limit. -/
def formB (dom reading limit kind : Nat) : BitVec 128 :=
  BitVec.ofNat 128 (dom % 65536 + 2 ^ 16 * (reading % 2 ^ 32) + 2 ^ 48 * (limit % 2 ^ 32) + 2 ^ 80 * (kind % 256))

/-- DETAIL form C: the raw bits of a tag entry. -/
def formC (slice set way : Nat) (raw : BitVec 40) : BitVec 128 :=
  BitVec.ofNat 128 (slice % 256 + 2 ^ 8 * (set % 65536) + 2 ^ 24 * (way % 256) + 2 ^ 32 * raw.toNat)

/-- DETAIL form E: the log's registers (R395). -/
def formE (l : TroubleLog) : BitVec 128 :=
  BitVec.ofNat 128 (l.wseq.toNat + 2 ^ 32 * l.rseq.toNat + 2 ^ 64 * l.mark.toNat)

end Sys2Proof.Machine
end

