-- ==== Sys2Proof/Machine/Pins.lean ====
section
/-! DEFINITION. Levels of the output pins that follow the state (R389, R485, Table 14.1). -/

namespace Sys2Proof.Machine
open Sys2Proof

/-- MAIN_EN is high: RUN, REST, the way in and out of REST, FALLOW entry, and a wake from its step 2 on. -/
def State.mainEn (s : State) : Bool :=
  match s.pwr.st with
  | .run => true
  | .restEntry => true
  | .rest => true
  | .restExit => true
  | .fallowEntry => true
  | .wake => true
  | .fallow => false
  | .keep => false
  | .trip => false
  | .off => false

/-- MEM_EN is high: as MAIN_EN, and in FALLOW. -/
def State.memEn (s : State) : Bool := s.mainEn || s.pwr.st == .fallow

/-- INTk_N is driven low (R389): a pending bit is set whose route has PIN_EN = 1 and PIN = k. A device whose main rails are
off drives no pin (R485). -/
def State.intLow (s : State) (k : Fin 4) : Bool :=
  s.mainEn && (List.range 288).any (fun n =>
    let r := s.mon.ev.route n
    s.mon.ev.pend.getLsbD n && routePinEn r && routePin r == k.val)

end Sys2Proof.Machine
end

