-- ==== Sys2Proof/Machine/Ops.lean ====
section
/-! DEFINITION. Named operations on the state: registers, units, time, reporting, the transmit side of ports and links. -/

namespace Sys2Proof.Machine
open Sys2Proof

/-! ### Registers -/

/-- Stored value of the register at a CSR offset. -/
def State.rg (s : State) (off : Nat) : Word := Sparse.get regReset s.regs off
def State.wr (s : State) (off : Nat) (v : Word) : State := { s with regs := Sparse.set regReset s.regs off v }
/-- A write that reaches the RW bits of the register only. -/
def State.wrRw (s : State) (off : Nat) (v : Word) : State :=
  match regRow off with
  | some r => s.wr off ((s.rg off &&& ~~~ r.rw) ||| (v &&& r.rw))
  | none => s
def State.rf (s : State) (f : RField) : Nat := fld (s.rg f.off) f.lo f.width
def State.rb (s : State) (f : RField) : Bool := s.rf f != 0
def State.wf (s : State) (f : RField) (v : Nat) : State := s.wr f.off (setFld (s.rg f.off) f.lo f.width v)
def State.wb (s : State) (f : RField) (b : Bool) : State := s.wf f b.toNat

/-! ### Units -/

def State.node (s : State) : Nat := s.rf F.GLB_NODE.NODE
def State.sizeOf (s : State) (dim : Nat) : Nat := 1 + fld (s.rg Reg.GLB_NODE) (9 + 3 * dim) 3
def State.torusOf (s : State) (dim : Nat) : Bool := bit (s.rg Reg.GLB_NODE) (18 + dim)
def coordOf (node dim : Nat) : Nat := node / 8 ^ dim % 8
/-- Fabric membership (R25, R31). -/
def State.inFabric (s : State) (node : Nat) : Bool :=
  (List.range 3).all (fun d => decide (coordOf node d < s.sizeOf d))
/-- Number of addressable bytes in a memory port; the populated top is twice this (R35). -/
def State.portCap (s : State) : Nat := s.rf F.GLB_MEMMAP.PORT_CAP * 2 ^ 32
def State.ch4 (s : State) : Bool := s.rb F.GLB_MEMMAP.CH4
def State.sets (s : State) : Nat := setsOf (s.rf F.GLB_CACHE_CFG.CAP)
def State.channels (s : State) : List (Fin 8) := if s.ch4 then [0, 1, 4, 5] else fins 8
def State.chan (s : State) (sl : Nat) : Fin 8 := chanOf s.ch4 sl
/-- Slices of a channel (Table 1.7). -/
def State.slicesOf (s : State) (ch : Fin 8) : List (Fin 32) := (fins 32).filter (fun k => s.chan k == ch)
def State.chanOfLine (s : State) (l : LineAddr) : Fin 8 := s.chan (sliceOf l)

def State.port (s : State) (p : Port) : PortSt := s.ports.get p
def State.setPort (s : State) (p : Port) (f : PortSt → PortSt) : State := { s with ports := vmod s.ports p f }
def State.kind (s : State) (p : Port) : PortKind := s.img.kinds.get p
def State.caching (s : State) (p : Port) : Bool := s.kind p == .caching
def State.dead (s : State) (p : Port) : Bool := s.rb (F.AGP_DEAD_CTL.DEAD p)
/-- Link states of AGP_LINK_STAT.STATE. -/
def stOff : Nat := 0
def stDetect : Nat := 1
def stLock : Nat := 2
def stOrder : Nat := 3
def stEqual : Nat := 4
def stParam : Nat := 5
def stActive : Nat := 6
def stRetrain : Nat := 7
def stFail : Nat := 8
def State.portActive (s : State) (p : Port) : Bool := s.rf (F.AGP_LINK_STAT.STATE p) == stActive
def State.linkActive (s : State) (l : LinkNo) : Bool := s.rf (F.STL_LINK_STAT.STATE l) == stActive
/-- The port takes requests: not off, its agent not dead. -/
def State.accepts (s : State) (p : Port) : Bool := s.kind p != .off && !s.dead p

/-- Links that a VG512S has (R3). -/
def State.linkCount (s : State) : Nat := if s.fuses.variantS then 4 else 6

/-- The die bit, slice and channel that serve a slot are enabled: SLC_WAY_EN and CMI_CTL (R157, R160). -/
def State.wayEnabled (s : State) (sl way : Nat) : Bool := bit (s.rg (Reg.SLC_WAY_EN sl)) way
def State.chanServes (s : State) (c : Nat) : Bool := s.rb (F.CMI_STAT.TRAINED c) && s.rb (F.CMI_CTL.EN c)

/-- The core has its supply. -/
def State.coreOn (s : State) : Bool :=
  match s.pwr.st with
  | .fallow => false
  | .keep => false
  | .trip => false
  | .off => false
  | _ => true

/-- A register write takes effect while the core has its supply. -/
def State.onCore (s : State) (f : State → State) : State := if s.coreOn then f s else s
/-- In safe configuration a write leaves RW fields and ignores WO fields outside the management areas (R412). -/
def State.onReg (s : State) (f : State → State) : State := if s.coreOn && !s.rb F.IMG_STAT.SAFE then f s else s

/-! ### Time -/

/-- TIME layout of Table 12.10 from seconds and nanoseconds. -/
def timeWord (sec ns : Nat) : BitVec 64 := BitVec.ofNat 64 (ns + 2 ^ 30 * (sec % 2 ^ 34))
/-- Fabric time (1/32 ns) in the TIME layout. -/
def fabWord (t : Nat) : BitVec 64 := timeWord (t / 32 / 1000000000) (t / 32 % 1000000000)
def State.timeStamp (s : State) : BitVec 64 := if s.fab.running then fabWord s.fab.t else timeWord s.cal.sec s.cal.ns

/-! ### Reporting -/

/-- The port that takes in-band messages can take one now (R390). -/
def State.inbOk (s : State) : Bool :=
  s.rb F.EVT_INB.EN && decide (s.rf F.EVT_INB.PORT < 6) &&
    (let p : Port := Fin.ofNat 6 (s.rf F.EVT_INB.PORT)
     s.kind p != .off && s.portActive p && !s.dead p)

def State.monEnv (s : State) : MonEnv :=
  { time := s.timeStamp, cal := !s.fab.running, sync := s.rb F.TIM_STAT.SYNC, inbOk := s.inbOk }

/-- Reports occurrences. -/
def State.report (s : State) (o : List Occ) : State :=
  { s with mon := Monitor.run s.monEnv (64 * o.length + 64) o s.mon }

/-- Raises a source that writes no trouble log entry. -/
def State.raise (s : State) (ev unit : Nat) : State := s.report [.raise ev unit noSeq]
/-- Raises a source with a trouble log entry. -/
def State.raiseLog (s : State) (ev unit : Nat) (d : BitVec 128) : State := s.report [.log ev unit true d]
/-- DETAIL of an entry for which no chapter lists an item: R395 gives it no form. -/
def State.bareDetail (s : State) (ev : Nat) : BitVec 128 := Config.bareDetail ev s.mon.log.wseq
/-- Raises a source with a trouble log entry whose DETAIL no chapter states. -/
def State.raiseBare (s : State) (ev unit : Nat) : State := s.raiseLog ev unit (s.bareDetail ev)
/-- Trouble log entry of an occurrence that raises nothing. -/
def State.note (s : State) (ev unit : Nat) (d : BitVec 128) : State := s.report [.log ev unit false d]
def State.count (s : State) (sel : Nat) (n : Nat := 1) : State := if n = 0 then s else s.report [.count sel n]
def noEvent : Nat := 0x1FF

/-- Sets a W1C status bit and raises its event with an entry only when the bit was 0. -/
def State.raiseFirst (s : State) (f : RField) (ev unit : Nat) (log : Option (BitVec 128)) : State :=
  let s1 := s.wf f 1
  if s.rb f then s1
  else match log with
    | some d => s1.raiseLog ev unit d
    | none => s1.raise ev unit

def unitPort (p : Port) : Nat := 32 + p.val
def unitLink (l : LinkNo) : Nat := 38 + l.val
def unitMem (m : Nat) : Nat := 47 + m
def unitChan (c : Nat) : Nat := 49 + c
def unitRegs : Nat := 57
def unitPower : Nat := 58
def unitBoot : Nat := 59
def unitTime : Nat := 60
def unitHub (d : Nat) : Nat := 44 + d
def unitOf : LinkUnit → Nat
  | .port p => unitPort p
  | .stile l => unitLink l

/-- Address error (R31): event, and an entry with requester and address. -/
def State.addrError (s : State) (unit requester node : Nat) (sa : SysAddr) : State :=
  s.raiseLog 2 unit (formA sa requester 0 node [])

/-- A marked word consumed inside the device (R321): row of Table 10.5. -/
def State.consumed (s : State) (row unit requester : Nat) (sa : SysAddr) (mask : Nat) : State :=
  (s.count (ctrSel 7 0 (4 + row))).raiseLog 144 unit (formA sa requester mask s.node [row])

/-- Place of a port-local line index in the devices of a memory port (R369). -/
def State.ddrPlace (s : State) (m : MemNo) (i : Nat) : DdrPlace :=
  Machine.ddrPlace (s.rb (F.MEM_CFG.X8 m)) (s.rb (F.MEM_CFG.D32 m)) (s.rf (F.MEM_CFG.RANKS m) + 1) i

/-! ### The Headland (R21, R358, R359) -/

/-- Direction index of the sub-links: 0 W to E, 1 E to W. -/
def hdlDir (toE : Bool) : Fin 2 := if toE then 0 else 1

/-- Unit code of Table 11.13. -/
def HdlUnit.code : HdlUnit → Nat
  | .slice k => k.val
  | .port p => 32 + p.val
  | .link l => 38 + l.val
  | .regs _ => 44

/-- The die that a unit is on (Table 1.3). -/
def HdlUnit.die : HdlUnit → Fin 2
  | .slice k => dieOfSlice k
  | .port p => dieOfPort p
  | .link l => dieOfLink l
  | .regs d => d

/-- A message from one unit to another crosses the Headland (R21). -/
def crosses (src dst : HdlUnit) : Bool := src.die != dst.die

/-- The unit that holds a register (Table 12.1). -/
def csrUnit (off : Nat) : HdlUnit :=
  match csrBlock off with
  | some (.slice, i, _) => .slice (Fin.ofNat 32 i)
  | some (.port, i, _) => .port (Fin.ofNat 6 i)
  | some (.stile, i, _) => .link (Fin.ofNat 6 i)
  | some (.channel, i, _) => .regs (dieOfChan i)
  | some (.memory, i, _) => .regs (Fin.ofNat 2 i)
  | _ => .regs 0

/-- Beats of a packet (R358): the header slot, the routing word, a line from token 3, a byte mask at tokens 23 and 24; zeros up to whole
beats. -/
def hdlBeats (hdr : BitVec 160) (route : BitVec 32) (line : Option CodeLine) (mask : Option ByteMask) : List (BitVec 512) :=
  let x := hdr.toNat + 2 ^ 160 * route.toNat + 2 ^ 192 * (line.getD 0).toNat + 2 ^ 1472 * (mask.getD 0).toNat
  let n := if mask.isSome then 4 else if line.isSome then 3 else 1
  (List.range n).map (fun i => BitVec.ofNat 512 (x >>> (512 * i)))

/-- Routing word (Table 11.13). -/
def hdlRoute (stile : Bool) (vcl : Fin 5) (cls : BitVec 2) (src dst : HdlUnit) : BitVec 32 :=
  BitVec.ofNat 32 (stile.toNat + 2 * vcl.val + 16 * cls.toNat + 64 * src.code + 4096 * dst.code)

def State.setHdl (s : State) (f : HeadlandSt → HeadlandSt) : State := { s with hdl := f s.hdl }

/-- The next packet: P0 before P1 before P2, in order of arrival, of a class whose credits cover it (R359). -/
def pickHdl (cred : Vector Nat 5) : List HdlPacket → List (Fin 5) → Option (HdlPacket × List HdlPacket)
  | [], _ => none
  | x :: l, blocked =>
    if !blocked.contains x.vcl && decide (x.beats.length ≤ cred.get x.vcl) then some (x, l)
    else (pickHdl cred l (x.vcl :: blocked)).map (fun r => (r.1, x :: r.2))

/-- Sends waiting packets of a direction while no sub-link of it is stalled and the receiving hub has room. -/
def State.pumpHdl (toE : Bool) : Nat → State → State
  | 0, s => s
  | n + 1, s =>
    let d := hdlDir toE
    if s.hdl.stalled.extractLsb' (8 * d.val) 8 ≠ 0 then s
    else match pickHdl (s.hdl.cred.get d) (s.hdl.tx.get d) [] with
      | none => s
      | some (x, rest) =>
        let s1 := s.setHdl (fun h => { h with tx := vset h.tx d rest, cred := vmod h.cred d (fun v => vmod v x.vcl (fun k => k - x.beats.length)) })
        State.pumpHdl toE n { s1 with sent := s1.sent ++ x.beats.map (fun b => .headland toE b) }

/-- A packet joins the packets of its direction: behind those of its promise class and higher ones. -/
def insertHdl (x : HdlPacket) (l : List HdlPacket) : List HdlPacket :=
  l.takeWhile (fun y => y.cls.toNat ≤ x.cls.toNat) ++ x :: l.dropWhile (fun y => y.cls.toNat ≤ x.cls.toNat)

/-- A message between two units is put on the Headland where it crosses it (R21). -/
def State.cross (s : State) (src dst : HdlUnit) (stile : Bool) (vcl : Fin 5) (cls : BitVec 2) (hdr : BitVec 160) (line : Option CodeLine)
    (mask : Option ByteMask) : State :=
  if crosses src dst then
    let toE := dst.die == 1
    let x : HdlPacket := { vcl := vcl, cls := cls, beats := hdlBeats hdr (hdlRoute stile vcl cls src dst) line mask }
    let s1 := s.setHdl (fun h => { h with tx := vmod h.tx (hdlDir toE) (insertHdl x) })
    State.pumpHdl toE (s1.hdl.tx.get (hdlDir toE)).length s1
  else s

/-- A device item that a hub issues for a slice: no table gives its header slot. -/
def State.crossItem (s : State) (src dst : HdlUnit) (vcl : Fin 5) (cls : BitVec 2) (line : Option CodeLine) : State :=
  if crosses src dst then
    ({ s with freeCtr := s.freeCtr + 1 } : State).cross src dst false vcl cls (Config.itemHeader s.freeCtr) line none
  else s

/-- Line and byte mask of a fabric message. -/
def hdlLine : FabPayload → Option CodeLine
  | .line d => some d
  | .lineMask d _ => some d
  | .store d => some (encodeLine d.bytes d.poison)
  | _ => none
def hdlMask : FabPayload → Option ByteMask
  | .lineMask _ m => some m
  | .store d => some d.mask
  | _ => none

/-- A Stile packet between a link and a unit of this device. -/
def State.crossStile (s : State) (src dst : HdlUnit) (p : StilePkt) : State :=
  s.cross src dst true (Fin.ofNat 5 (stileClass (hdrOpc p.hdr))) (if hdrB p.hdr then 0 else 2) p.hdr (hdlLine p.payload) (hdlMask p.payload)

/-- A packet of the device to an agent, or from an agent. -/
def State.crossAgent (s : State) (src dst : HdlUnit) (vcl : Fin 5) (cls : BitVec 2) (m : AgentMsg) : State :=
  s.cross src dst false vcl cls (agentHdr m)
    (if m.opc = 0x28 ∨ m.opc = 0x33 ∨ m.opc = 0x39 ∨ m.opc = 0x3A then some (encodeLine m.bytes m.poison) else none)
    (if m.opc = 0x39 ∨ m.opc = 0x3A then some m.mask else none)

/-! ### Transmit side of ports and links (R336-R340) -/

def State.stile (s : State) (l : LinkNo) : StileSt := s.links.get l
def State.setStile (s : State) (l : LinkNo) (f : StileSt → StileSt) : State := { s with links := vmod s.links l f }

def State.linkSt (s : State) : LinkUnit → LinkSt
  | .port p => (s.port p).link
  | .stile l => (s.stile l).link

def State.setLink (s : State) (u : LinkUnit) (f : LinkSt → LinkSt) : State :=
  match u with
  | .port p => s.setPort p (fun x => { x with link := f x.link })
  | .stile l => s.setStile l (fun x => { x with link := f x.link })

def State.linkField (s : State) (u : LinkUnit) (port : Nat → RField) (stile : Nat → RField) : Nat :=
  match u with
  | .port p => s.rf (port p)
  | .stile l => s.rf (stile l)

def State.linkState (s : State) (u : LinkUnit) : Nat := s.linkField u F.AGP_LINK_STAT.STATE F.STL_LINK_STAT.STATE
def State.setLinkState (s : State) (u : LinkUnit) (v : Nat) : State :=
  match u with
  | .port p => s.wf (F.AGP_LINK_STAT.STATE p) v
  | .stile l => s.wf (F.STL_LINK_STAT.STATE l) v
def State.setLinkCause (s : State) (u : LinkUnit) (v : Nat) : State :=
  match u with
  | .port p => s.wf (F.AGP_LINK_STAT.CAUSE p) v
  | .stile l => s.wf (F.STL_LINK_STAT.CAUSE l) v

/-- Selector of a counter of the list per agent port and per Stile link (chapter 11). -/
def linkCtr (u : LinkUnit) (i : Nat) : Nat :=
  match u with
  | .port p => ctrSel 2 p (0x60 + i)
  | .stile l => ctrSel 5 l i

/-- CRC of a flit: its 60 slot bytes, then its sequence number in two bytes (R337). -/
def flitCrc (slots : BitVec 480) (seq : BitVec 10) : Word := crc32c (leBytes 60 slots.toNat ++ leBytes 2 seq.toNat)

/-- A flit: three slots and the CRC (R336). -/
def flitOf (slots : List (BitVec 160)) (seq : BitVec 10) : BitVec 512 :=
  let x := BitVec.ofNat 480 (slotsVal slots)
  flitCrc x seq ++ x

/-- Lanes of a port and of a link, and the bytes of a flit on a logical lane, first byte first (R336). -/
def lanesOf : LinkUnit → Nat
  | .port _ => 8
  | .stile _ => 4
def laneBytes (u : LinkUnit) (flit : BitVec 512) (lane : Nat) : List Byte :=
  ((leBytes 64 flit.toNat).zipIdx.filter (fun x => x.2 % lanesOf u == lane)).map (fun x => x.1)

/-- Forms flits of waiting slots while the replay buffer has room (R338): three slots each, empty slots last, and none inside a packet
(R340). -/
def LinkSt.pump : Nat → LinkSt → LinkSt
  | 0, l => l
  | k + 1, l =>
    if l.txSlots.isEmpty || 256 ≤ l.replay.length || (l.txOpen && decide (l.txSlots.length < 3)) then l
    else LinkSt.pump k
      { l with replay := l.replay ++ [(l.txSeq, flitOf ((l.txSlots.take 3).map TxSlot.slot) l.txSeq)],
               txSlots := l.txSlots.drop 3, txSeq := l.txSeq + 1 }

def State.emit (s : State) (x : Sent) : State := { s with sent := s.sent ++ [x] }

/-- Opcodes of packets to an agent (Table 11.4). -/
def opCmp : BitVec 6 := 0x20
def opWbCmp : BitVec 6 := 0x22
def opData : BitVec 6 := 0x28
def opDataV : BitVec 6 := 0x29
def opSnpS : BitVec 6 := 0x30
def opSnpU : BitVec 6 := 0x31
def opSnpC : BitVec 6 := 0x32
def opSnpH : BitVec 6 := 0x33
def opSnpP : BitVec 6 := 0x34
def opDRd : BitVec 6 := 0x38
def opDWrP : BitVec 6 := 0x39
def opDWrN : BitVec 6 := 0x3A
def opEvMsg : BitVec 6 := 0x3C

/-- A response to an answered request (Table 11.4). -/
def AgentMsg.isResponse (m : AgentMsg) : Bool := m.opc == opCmp || m.opc == opWbCmp || m.opc == opData || m.opc == opDataV

/-- The last slot of a response has left: its tag is free and its promise kept (R66, R345). -/
def State.freeTag (s : State) (p : Port) (tag : Tag) : State :=
  match takeFirst (fun (t : TagUse) => t.tag == tag && t.answered) (s.port p).tags with
  | none => s
  | some (_, rest) =>
    let s1 := s.setPort p (fun x => { x with tags := rest })
    { s1 with prm := { s1.prm with
        inFlight := s1.prm.inFlight.filter (fun q => q.id != .agent p tag),
        swAwait := s1.prm.swAwait.filter (fun q => q != .agent p tag) } }

/-- The last slot of a packet has left the device. -/
def State.left (s : State) (x : Sent) : State :=
  let s1 := s.emit x
  match x with
  | .agent p m =>
    if m.isResponse then s1.freeTag p m.tag
    else if m.opc = opDWrP ∨ m.opc = opDWrN then s1.setPort p (fun y => { y with devLeft := y.devLeft ++ [m.tag] })
    else s1
  | _ => s1

/-- Sends what waits, on a port or link in ACTIVE, and counts the flits sent. -/
def State.pumpLink (s : State) (u : LinkUnit) : State :=
  if s.linkState u = stActive then
    let l := s.linkSt u
    let l' := LinkSt.pump l.txSlots.length l
    let gone := (l.txSlots.take (l.txSlots.length - l'.txSlots.length)).filterMap TxSlot.last
    gone.foldl State.left ((s.setLink u (fun _ => l')).count (linkCtr u 0) (l'.replay.length - l.replay.length))
  else s

/-- Hands whole packets and control slots to the transmitter of a port or link; they wait while a packet is in the middle. -/
def State.transmitSlots (s : State) (u : LinkUnit) (slots : List TxSlot) : State :=
  (s.setLink u (fun l =>
    if l.txOpen then { l with txLater := l.txLater ++ slots } else { l with txSlots := l.txSlots ++ slots })).pumpLink u

/-- Hands slots of a packet over that is still arriving, or its last one. -/
def State.transmitPart (s : State) (u : LinkUnit) (slots : List TxSlot) (last : Bool) : State :=
  (s.setLink u (fun l =>
    if last then { l with txSlots := l.txSlots ++ slots ++ l.txLater, txOpen := false, txLater := [] }
    else { l with txSlots := l.txSlots ++ slots, txOpen := true })).pumpLink u

/-- The slots of a packet; the packet has left with the last of them. -/
def txOf (x : Sent) : List (BitVec 160) → List TxSlot
  | [] => []
  | [a] => [{ slot := a, last := some x }]
  | a :: l => { slot := a } :: txOf x l

/-- Hands a packet to the transmitter of a port or link. -/
def State.transmit (s : State) (u : LinkUnit) (slots : List (BitVec 160)) (x : Sent) : State := s.transmitSlots u (txOf x slots)

/-- Sends a link-control slot. -/
def State.sendCtl (s : State) (u : LinkUnit) (c : CtlSlot) : State := s.transmit u [ctlSlot c] (.ctl u c)

/-- Marked-delivery counter of a port (R323). -/
def ctrMarked (p : Port) : Nat := ctrSel 2 p 0x50

/-- R323: a data packet with a mark, in its poison mask or at a DataV's value words, is counted; the first since the counter was last read raises EV143 with an entry. -/
def State.markedDelivery (s : State) (p : Port) (m : AgentMsg) : State :=
  if m.poison = 0 ∧ m.marks = 0 then s
  else
    let s1 := s.count (ctrMarked p)
    if s1.mon.seen.contains (ctrMarked p) then s1
    else
      let s2 := { s1 with mon := { s1.mon with seen := addSet s1.mon.seen (ctrMarked p) } }
      s2.raiseLog 143 (unitPort p) (formA m.addr (reqAgent p) (m.poison.toNat + m.marks.toNat) s.node [])

/-- Puts a packet on an agent port. A dead agent's port carries nothing (R227). -/
def State.toAgent (s : State) (p : Port) (m : AgentMsg) : State :=
  if s.accepts p then
    (s.markedDelivery p m).transmit (.port p) (agentSlots m) (.agent p m)
  else s

/-- The oldest use of a tag. -/
def State.tagUse (s : State) (p : Port) (tag : Tag) : Option TagUse := (s.port p).tags.find? (fun t => t.tag == tag)

/-- The request has been ended by the ceiling error (R60). -/
def State.tagEnded (s : State) (p : Port) (tag : Tag) : Bool := (s.tagUse p tag).any TagUse.ended

/-- A response to an answered request goes out under its tag; where a ceiling error has been sent there is no second response, and the
tag is free (R60, R345). A dead agent's port carries nothing. -/
def State.respond (s : State) (p : Port) (m : AgentMsg) : State :=
  let mark := modFirst (fun (t : TagUse) => t.tag == m.tag && !t.answered) (fun (t : TagUse) => { t with answered := true })
  let s1 := s.setPort p (fun x => { x with tags := mark x.tags })
  if s.tagEnded p m.tag || !s.accepts p then s1.freeTag p m.tag else s1.toAgent p m

/-- Sends a snoop when the agent has a buffer for it (R346), otherwise it waits. -/
def State.sendSnoop (s : State) (p : Port) (m : AgentMsg) : State :=
  if 0 < (s.port p).snpCred ∧ (s.port p).snpWait = [] then
    (s.setPort p (fun x => { x with snpCred := x.snpCred - 1 })).toAgent p m
  else s.setPort p (fun x => { x with snpWait := x.snpWait ++ [m] })

/-! ### The Stile fabric (R350-R356) -/

/-- Link of a dimension in the plus (0) or minus (1) direction. -/
def linkOf (dim minus : Nat) : LinkNo := Fin.ofNat 6 (2 * dim + minus)

/-- Next link by R351: dimension and direction (0 plus, 1 minus); none where the packet has arrived. -/
def State.nextHop (s : State) (h : BitVec 160) : Option (Nat × Nat) :=
  let hop := fun (dim : Nat) =>
    let a := coordOf s.node dim
    let b := coordOf (hdrDst h) dim
    if a = b then none
    else if hdrDt h dim = 1 then some (dim, 0)
    else if hdrDt h dim = 2 then some (dim, 1)
    else if s.torusOf dim then
      let n := s.sizeOf dim
      if (b + n - a % n) % n ≤ n / 2 then some (dim, 0) else some (dim, 1)
    else if a < b then some (dim, 0) else some (dim, 1)
  (hop 0).orElse (fun _ => (hop 1).orElse (fun _ => hop 2))

/-- A hop crosses the dateline of its dimension (R352). -/
def State.crossesDateline (s : State) (dim minus : Nat) : Bool :=
  let a := coordOf s.node dim
  s.torusOf dim && (if minus = 0 then a + 1 == s.sizeOf dim else a == 0)

/-- Channel index of the best-effort channels: class and dateline channel. -/
def vcIndex (cls : Nat) (dl : Bool) : Fin 10 := Fin.ofNat 10 (2 * cls + dl.toNat)
def pktVc (p : StilePkt) : Fin 10 := vcIndex (stileClass (hdrOpc p.hdr)) (hdrDl p.hdr)
def pktSlots (p : StilePkt) : Nat := 1 + (payloadSlots p.payload).length

/-- The next receiver has room for all of the packet (R354). -/
def StileSt.room (x : StileSt) (w : StileWait) : Bool :=
  if hdrB w.pkt.hdr then 0 < x.bcred else w.size ≤ x.cred.get (pktVc w.pkt)

def StileSt.spend (x : StileSt) (w : StileWait) : StileSt :=
  if hdrB w.pkt.hdr then { x with bcred := x.bcred - 1 }
  else { x with cred := vmod x.cred (pktVc w.pkt) (fun n => n - w.size), rr := (pktVc w.pkt).val }

/-- The packet that the arbiter sends next: the bounded channel, then round robin after the channel served last; none while the slots
of a packet are still arriving (R355). -/
def StileSt.pick (x : StileSt) : Option (StileWait × List StileWait) :=
  if x.cur.isSome then none else
  let first := fun (q : StilePkt → Bool) =>
    match takeFirst (fun (e : StileWait) => q e.pkt) x.wait with
    | some (e, rest) => if x.room e then some (e, rest) else none
    | none => none
  match first (fun p => hdrB p.hdr) with
  | some r => some r
  | none =>
    (List.range 10).foldl (fun a i =>
      match a with
      | some r => some r
      | none => first (fun p => !hdrB p.hdr && (pktVc p).val == (x.rr + 1 + i) % 10)) none

/-- Returns the receive buffer that a packet held (R354). -/
def State.returnBuf (s : State) (b : Option (LinkNo × BitVec 3 × Bool × Nat)) : State :=
  match b with
  | some (l, cls, dl, n) => s.sendCtl (.stile l) (.vcc cls dl n)
  | none => s

/-- The slots of a waiting packet that are here; the last of a whole packet ends it. -/
def StileWait.slots (w : StileWait) (l : LinkNo) : List TxSlot :=
  match w.open_ with
  | none => txOf (.stile l w.pkt) (stileSlots w.pkt)
  | some _ => (w.pkt.hdr :: w.got).map (fun x => { slot := x })

/-- Sends waiting packets of a link while receivers have room (R355); one that is still arriving is sent as far as it is here. -/
def State.pumpStile (l : LinkNo) : Nat → State → State
  | 0, s => s
  | k + 1, s =>
    match (s.stile l).pick with
    | none => s
    | some (w, rest) =>
      let part := w.open_.isSome
      let s1 := s.setStile l (fun x => { x.spend w with wait := rest, cur := if part then some w else none })
      let s2 := if hdrB w.pkt.hdr then s1.count (ctrSel 5 l 6) else s1
      if part then s2.transmitPart (.stile l) (w.slots l) false
      else State.pumpStile l k ((s2.transmitSlots (.stile l) (w.slots l)).returnBuf w.buf)

/-- Hands a packet to the arbiter of a link. -/
def State.queueStile (s : State) (l : LinkNo) (p : StilePkt) (buf : Option (LinkNo × BitVec 3 × Bool × Nat))
    (arriving : Option (LinkNo × Nat)) : State :=
  let w : StileWait := { pkt := p, since := s.fine, buf := buf, size := pktSlots p + (arriving.map Prod.snd).getD 0,
                         open_ := arriving.map Prod.fst }
  let s1 := s.setStile l (fun x => { x with wait := x.wait ++ [w] })
  State.pumpStile l (s1.stile l).wait.length s1

/-- The link on which a packet leaves this node, its header there, and whether it detours (R351 to R353); none where it has no
route. `inDim` is the dimension of the link that it came in on. -/
def State.exit (s : State) (inDim : Option Nat) (h : BitVec 160) (dim minus : Nat) : Option (LinkNo × BitVec 160 × Bool) :=
  let withDl := fun (h : BitVec 160) (minus : Nat) =>
    setHdr h 62 1 ((inDim == some dim && hdrDl h) || s.crossesDateline dim minus).toNat
  if s.linkActive (linkOf dim minus) then some (linkOf dim minus, withDl h minus, false)
  else if hdrDt h dim = 0 && s.torusOf dim && decide (3 ≤ s.sizeOf dim) && s.linkActive (linkOf dim (1 - minus)) then
    some (linkOf dim (1 - minus), withDl (setHdr (setHdr h (56 + 2 * dim) 2 (2 - minus)) 55 1 0) (1 - minus), true)
  else none

/-- A packet leaves this node, or is discarded: `buf` is the receive buffer that it holds, `arriving` the link that it is still
arriving on and its payload slots. Answers the link it leaves on. -/
def State.routeStile (s : State) (inDim : Option Nat) (buf : Option (LinkNo × BitVec 3 × Bool × Nat))
    (arriving : Option (LinkNo × Nat)) (p : StilePkt) : Option LinkNo × State :=
  match s.nextHop p.hdr with
  | none => (none, s.returnBuf buf)
  | some (dim, minus) =>
    match s.exit inDim p.hdr dim minus with
    | none => (none, ((s.count (ctrSel 5 (linkOf dim minus) 8)).raise 174 (unitLink (linkOf dim minus))).returnBuf buf)
    | some (l, h, detour) =>
      let s1 := if detour then s.count (ctrSel 5 l 7) else s
      let s2 := if detour && hdrB p.hdr then s1.raise 178 (unitLink l) else s1
      (some l, s2.queueStile l { p with hdr := h } buf arriving)

/-- Sends a fabric message of a unit of this node, over the Headland where the first link is on the other die. -/
def State.sendFabric (s : State) (u : HdlUnit) (p : StilePkt) : State :=
  let r := s.routeStile none none none p
  match r.1 with
  | some l => r.2.crossStile u (.link l) p
  | none => r.2

/-- A slot of a packet that has not begun to leave on link `l` and still arrives on link `i`. -/
def State.transitWait (s : State) (i l : LinkNo) (x : BitVec 160) (whole : Option FabPayload) : State :=
  let s1 := s.setStile l (fun y => { y with wait := modFirst (fun (w : StileWait) => w.open_ == some i) (fun (w : StileWait) =>
    match whole with
    | none => { w with got := w.got ++ [x] }
    | some b => { w with pkt := { w.pkt with payload := b }, open_ := none, got := [] }) y.wait })
  State.pumpStile l (s1.stile l).wait.length s1

/-- A slot of a packet that is forwarded to link `l` while it arrives on link `i` (R355); `whole` is the payload, with the last slot. -/
def State.transitSlot (s : State) (i l : LinkNo) (x : BitVec 160) (whole : Option FabPayload) : State :=
  match (s.stile l).cur with
  | some w =>
    if w.open_ = some i then
      let s1 := s.transmitPart (.stile l) [{ slot := x, last := whole.map (fun b => .stile l { w.pkt with payload := b }) }] whole.isSome
      if whole.isNone then s1
      else
        let s2 := (s1.setStile l (fun y => { y with cur := none })).returnBuf w.buf
        State.pumpStile l (s2.stile l).wait.length s2
    else s.transitWait i l x whole
  | none => s.transitWait i l x whole

/-- Hops of the route between two nodes (dimension-order distance). -/
def State.hops (s : State) (m n : Nat) : Nat :=
  (List.range 3).foldl (fun a d =>
    let x := coordOf m d
    let y := coordOf n d
    let k := if x < y then y - x else x - y
    a + (if s.torusOf d then min k (s.sizeOf d - k) else k)) 0

/-- Hops of the route from this node to another. -/
def State.distance (s : State) (n : Nat) : Nat := s.hops s.node n

end Sys2Proof.Machine
end

