-- ==== Sys2Proof/Machine/CohBase.lean ====
section
/-! DEFINITION. The arrays of the slices and the storage behind the channels and memory ports: tag rows, snoop filter,
directory, Press, Hamper, fill trackers, reads and writes of lines. Functions take the state `e` at the start of the step
for what the engine only reads (registers, links), and answer the engine's new state. -/

namespace Sys2Proof.Machine
open Sys2Proof

def Coh.emit (c : Coh) (f : Fx) : Coh := { c with fx := c.fx ++ [f] }
def Coh.emits (c : Coh) (f : List Fx) : Coh := { c with fx := c.fx ++ f }
def Coh.woken (c : Coh) : Coh := { c with wake := true }
def Coh.ctr (c : Coh) (sel : Nat) (n : Nat := 1) : Coh := if n = 0 then c else c.emit (.count sel n)
/-- Per-slice counter. -/
def Coh.sctr (c : Coh) (s i : Nat) (n : Nat := 1) : Coh := c.ctr (ctrSel 1 s i) n

/-! ### Tag states (Table 3.5) -/
def tI : BitVec 3 := 0
def tS : BitVec 3 := 1
def tE : BitVec 3 := 2
def tO : BitVec 3 := 3
def tM : BitVec 3 := 4
def tF : BitVec 3 := 5
def tT : BitVec 3 := 6
def isMod (s : BitVec 3) : Bool := s == tO || s == tM
def isValid (s : BitVec 3) : Bool := s == tS || s == tE || s == tO || s == tM

/-- Column value of protected bit i (R97). -/
def tagH (i : Nat) : Nat :=
  if i = 0 then 3 else if i ≤ 3 then i + 4 else if i ≤ 10 then i + 5 else if i ≤ 25 then i + 6 else i + 7

/-- Protected data D[32:0] of an entry. -/
def TagEntry.data (t : TagEntry) : BitVec 33 := BitVec.ofBool t.poison ++ t.age ++ t.st ++ t.tag

/-- CHK over D (R97). -/
def tagCheck (d : BitVec 33) : BitVec 6 :=
  (List.range 33).foldl (fun a i => if d.getLsbD i then a ^^^ BitVec.ofNat 6 (tagH i) else a) 0

def mkTag (tag : BitVec 27) (st : BitVec 3) (age : BitVec 2) (poison pf : Bool) : TagEntry :=
  let t : TagEntry := { tag := tag, st := st, age := age, poison := poison, pf := pf, chk := 0 }
  { t with chk := tagCheck t.data }

/-- The free entry: I with AGE 3 (R100). Its TAG, which the rule does not give, is 0 (DESIGN CHOICE, log entry 33). -/
def tagFree : TagEntry := mkTag 0 tI 3 false false

/-- Raw 40 bits of Table 3.4. -/
def TagEntry.raw (t : TagEntry) : BitVec 40 := t.chk ++ BitVec.ofBool t.pf ++ t.data

/-- Parity of the 39 protected bits of an entry (R98). -/
def TagEntry.par (t : TagEntry) : Bool := parity t.data != parity t.chk

def Coh.tag (c : Coh) (k : Nat) : TagEntry := Sparse.get (fun _ => tagFree) c.tags k
def ppKey (k : Nat) : Nat := slotSlice k * 4096 + slotSet k / 2
def Coh.ppRow (c : Coh) (k : Nat) : BitVec 16 := Sparse.get (fun _ => 0) c.pp (ppKey k)

/-- Writes an entry as it stands; PP of the pair follows (R98). -/
def Coh.putTag (c : Coh) (k : Nat) (t : TagEntry) : Coh :=
  let flip := (c.tag k).par != t.par
  let row := c.ppRow k
  { c with
    tags := Sparse.set (fun _ => tagFree) c.tags k t
    pp := if flip then Sparse.set (fun _ => 0) c.pp (ppKey k) (row ^^^ BitVec.ofNat 16 (2 ^ slotWay k)) else c.pp }

/-- Writes the fields of an entry with fresh check bits. -/
def Coh.setTag (c : Coh) (k : Nat) (f : TagEntry → TagEntry) : Coh :=
  let t := f (c.tag k)
  c.putTag k (mkTag t.tag t.st t.age t.poison t.pf)

def Coh.freeTag (c : Coh) (k : Nat) : Coh := c.putTag k tagFree

/-! ### Tag row check (R99 to R101) -/

def TagEntry.syndrome (t : TagEntry) : Nat := (t.chk ^^^ tagCheck t.data).toNat

/-- An entry with bit i of D[32:0] flipped. -/
def TagEntry.flipData (t : TagEntry) (i : Nat) : TagEntry :=
  let d := t.data ^^^ BitVec.ofNat 33 (2 ^ i)
  { t with tag := d.extractLsb' 0 27, st := d.extractLsb' 27 3, age := d.extractLsb' 30 2, poison := d.getLsbD 32 }

/-- The entry with the bit its syndrome names corrected; none where the syndrome names no single bit (R97). -/
def TagEntry.corrected (t : TagEntry) : Option TagEntry :=
  let s := t.syndrome
  if s = 0 then some t
  else match (List.range 33).find? (fun i => tagH i == s) with
    | some i => some (t.flipData i)
    | none =>
      match (List.range 6).find? (fun j => 2 ^ j == s) with
      | some j => some { t with chk := t.chk ^^^ BitVec.ofNat 6 (2 ^ j) }
      | none => none

/-- R100: a lost entry. -/
def Coh.lostTag (c : Coh) (k : Nat) (raw : BitVec 40) : Coh :=
  let s := slotSlice k
  let c1 := ({ c with tags := Sparse.set (fun _ => tagFree) c.tags k tagFree } : Coh)
  (c1.emits [.regBit (Reg.SLC_TAG_ERR s) 1, .regFld (Reg.SLC_TAG_ERR s) 4 4 (slotWay k),
    .regFld (Reg.SLC_TAG_ERR s) 16 13 (slotSet k)]).sctr s 9
    |>.emit (.log 65 s true (formC s (slotSet k) (slotWay k) raw))

/-- R101: a corrected entry or PP bit; entries are counted, PP bits set CORR only. -/
def Coh.correctedTag (c : Coh) (s : Nat) (entries : Nat) : Coh :=
  (c.sctr s 8 entries).emit (.first (Reg.SLC_TAG_ERR s) 0 64 s none false)

/-- A corrected entry that reads 0b111 is lost (Table 3.5). -/
def Coh.storeCorrected (c : Coh) (k : Nat) (old new : TagEntry) : Coh :=
  if new.st = 7 then c.lostTag k old.raw
  else ({ c with tags := Sparse.set (fun _ => tagFree) c.tags k new } : Coh).correctedTag (slotSlice k) 1

/-- PP bit w of the row recomputed from its pair. -/
def Coh.fixPp (c : Coh) (a b : Nat) : Coh :=
  let want := (c.tag a).par != (c.tag b).par
  let row := c.ppRow a
  if row.getLsbD (slotWay a) = want then c
  else { c with pp := Sparse.set (fun _ => 0) c.pp (ppKey a) (row ^^^ BitVec.ofNat 16 (2 ^ slotWay a)) }

/-- Table 3.6 for the pair of ways at slots `a` (even set) and `b` (odd set). -/
def Coh.checkPair (c : Coh) (a b : Nat) : Coh :=
  let ta := c.tag a
  let tb := c.tag b
  let p := (ta.par != tb.par) != (c.ppRow a).getLsbD (slotWay a)
  let sa := ta.syndrome
  let sb := tb.syndrome
  let lose := fun (c : Coh) =>
    let c1 := if sa ≠ 0 then c.lostTag a ta.raw else c
    let c2 := if sb ≠ 0 then c1.lostTag b tb.raw else c1
    c2.fixPp a b
  if sa = 0 ∧ sb = 0 then
    if p then (c.fixPp a b).correctedTag (slotSlice a) 0 else c
  else
    match ta.corrected, tb.corrected with
    | some xa, some xb =>
      if sa ≠ 0 ∧ sb ≠ 0 then
        if p then lose c else ((c.storeCorrected a ta xa).storeCorrected b tb xb).fixPp a b
      else if p then
        (if sa ≠ 0 then c.storeCorrected a ta xa else c.storeCorrected b tb xb).fixPp a b
      else lose c
    | _, _ => lose c

/-- The check of a whole row, before a pass uses its entries (R99). -/
def Coh.checkRow (c : Coh) (s set : Nat) : Coh :=
  (List.range 16).foldl (fun c w => c.checkPair (slotKey s (set / 2 * 2) w) (slotKey s (set / 2 * 2 + 1) w)) c

/-! ### Lookup (R94) -/

def Coh.hitSlot (c : Coh) (e : State) (l : LineAddr) : Option Nat :=
  let s := (sliceOf l).val
  let set := setIdx e.sets l
  let tag := tagOf e.sets l
  ((List.range 16).map (slotKey s set)).find? (fun k => isValid (c.tag k).st && (c.tag k).tag == tag)

/-- The slot reserved for a line by a fill (state F). -/
def Coh.fillSlot (c : Coh) (e : State) (l : LineAddr) : Option Nat :=
  let s := (sliceOf l).val
  let set := setIdx e.sets l
  let tag := tagOf e.sets l
  ((List.range 16).map (slotKey s set)).find? (fun k => (c.tag k).st == tF && (c.tag k).tag == tag)

/-- The line that a slot's entry names. -/
def Coh.slotLineAddr (c : Coh) (e : State) (k : Nat) : LineAddr :=
  lineOfTag e.sets (slotSlice k) (slotSet k) (c.tag k).tag

/-- Slot of the spill region (R153). -/
def State.isSpill (e : State) (k : Nat) : Bool :=
  slotWay k == 15 && decide (slotSet k < e.rf F.GLB_SPILL_CFG.SIZE_MIB * 256)

def Coh.pressOf (c : Coh) (l : LineAddr) : Option PressEntry := c.press.find? (fun p => p.line == l)
/-- Hamper entries, and the lines that wait for one. -/
def Coh.hampers (c : Coh) : List HamperEntry := c.hamper ++ c.hamperWait
def Coh.hamperOf (c : Coh) (l : LineAddr) : Option HamperEntry := c.hampers.find? (fun h => h.line == l && !h.copy)
/-- Copies of CLEAN by set and way included. -/
def Coh.anyHamper (c : Coh) (l : LineAddr) : Option HamperEntry := c.hampers.find? (fun h => h.line == l)
/-- A write-back of the line is under way. -/
def Coh.hamperWriting (c : Coh) (l : LineAddr) : Bool := c.hamper.any (fun h => h.line == l && h.writing)
def Coh.txnOf (c : Coh) (l : LineAddr) : Option Txn := c.txns.find? (fun t => t.req.line == l)
def Coh.nodeTxOf (c : Coh) (l : LineAddr) : Option NodeTx := c.nodeTx.find? (fun t => t.line == l)
def Coh.homeTxOf (c : Coh) (l : LineAddr) : Option HomeTx := c.homeTx.find? (fun t => t.line == l)
def Coh.setTxn (c : Coh) (l : LineAddr) (f : Txn → Txn) : Coh :=
  { c with txns := modFirst (fun t => t.req.line == l) f c.txns }
def Coh.setHome (c : Coh) (l : LineAddr) (f : HomeTx → HomeTx) : Coh :=
  { c with homeTx := modFirst (fun t => t.line == l) f c.homeTx }
def Coh.setNode (c : Coh) (l : LineAddr) (f : NodeTx → NodeTx) : Coh :=
  { c with nodeTx := modFirst (fun t => t.line == l) f c.nodeTx }
def Coh.setPress (c : Coh) (l : LineAddr) (f : PressEntry → PressEntry) : Coh :=
  { c with press := modFirst (fun t => t.line == l) f c.press }
def Coh.dropTxn (c : Coh) (l : LineAddr) : Coh :=
  { c with txns := c.txns.filter (fun t => t.req.line != l), wake := true }
def Coh.dropHome (c : Coh) (l : LineAddr) : Coh :=
  { c with homeTx := c.homeTx.filter (fun t => t.line != l), wake := true }
def Coh.dropNode (c : Coh) (l : LineAddr) : Coh :=
  { c with nodeTx := c.nodeTx.filter (fun t => t.line != l), wake := true }
def Coh.dropPress (c : Coh) (l : LineAddr) : Coh :=
  { c with press := c.press.filter (fun t => t.line != l), wake := true }
def Coh.dropHamper (c : Coh) (l : LineAddr) : Coh :=
  { c with hamper := c.hamper.filter (fun t => t.line != l), hamperWait := c.hamperWait.filter (fun t => t.line != l), wake := true }
/-- HELD entries of a line leave, those whose write-back has not started. -/
def Coh.dropHeld (c : Coh) (l : LineAddr) : Coh :=
  { c with hamper := c.hamper.filter (fun t => t.line != l || t.writing), hamperWait := c.hamperWait.filter (fun t => t.line != l),
           wake := true }

/-- Promises that the device holds itself (R66): number of a prefetch or resowing read of a line. -/
def deviceId (line : LineAddr) (who : Nat) : Nat := line.toNat * 8 + who
def whoResow : Nat := 7
/-- Number of the promise of a posted store, which has no tag: its port and its point. -/
def postedId (p : Port) (point : Nat) : Nat := (point * 6 + p.val) * 8 + 6

/-- The promise that a request carries. -/
def Req.promiseId (r : Req) : Option PromiseId :=
  match r.src with
  | .agent p => some (if r.posted then .device (dieOfPort p) (postedId p r.point) else .agent p r.tag)
  | .drill p => some (.device (dieOfPort p) (deviceId r.line p))
  | .resow => some (.device (dieOfSlice (sliceOf r.line)) (deviceId r.line whoResow))
  | _ => none

/-- Place of an item in a queue (R55, R69, R73): an allotted request, then class, then deadline, then none. -/
def rankOf (e : State) (top : Bool) (cls : BitVec 2) (id : Option PromiseId) : Nat :=
  if top then 0
  else
    let due := id.bind (fun i => (e.prm.inFlight.find? (fun q => q.id == i)).bind (fun q => q.deadline))
    (1 + min 2 cls.toNat) * 2 ^ 17 +
      (match due with
       | some d => (d - BitVec.ofNat 16 e.fine + 0x8000).toNat
       | none => 2 ^ 16)

def sliceIs (l : LineAddr) (s : Nat) : Bool := (sliceOf l).val == s
def Coh.pressIn (c : Coh) (s : Nat) : List PressEntry := c.press.filter (fun p => sliceIs p.line s)
def Coh.hamperIn (c : Coh) (s : Nat) : List HamperEntry := c.hamper.filter (fun h => sliceIs h.line s)

/-! ### Snoop filter (Table 6.7) -/

def snfSetIdx (l : LineAddr) : Nat := (l.toNat / 32) % 512
def snfTagOf (l : LineAddr) : BitVec 26 := BitVec.ofNat 26 ((l.toNat / 2 ^ 36) * 2 ^ 17 + (l.toNat / 2 ^ 14) % 2 ^ 17)
def snfKey (s set way : Nat) : Nat := (s * 512 + set) * 16 + way

/-- Bits [40:0] of an entry. -/
def SnfEntry.data (x : SnfEntry) : BitVec 41 := BitVec.ofBool x.ref ++ x.nst ++ x.ownp ++ x.ast ++ x.pres ++ x.tag
/-- PAR[j]: even parity over the bits i with i mod 2 = j. -/
def snfParity (d : BitVec 41) : BitVec 2 :=
  BitVec.ofNat 2 (maskOf (fun j => (List.range 41).foldl (fun a i => if i % 2 = j then a != d.getLsbD i else a) false) 2)
def mkSnf (x : SnfEntry) : SnfEntry := { x with par := snfParity x.data }
def snfFree : SnfEntry := mkSnf { tag := 0, pres := 0, ast := 3, ownp := 0, nst := 0, ref := false, par := 0 }
def aSH : BitVec 2 := 0
def aEX : BitVec 2 := 1
def aOW : BitVec 2 := 2
def aFree : BitVec 2 := 3

def Coh.snfAt (c : Coh) (k : Nat) : SnfEntry := Sparse.get (fun _ => snfFree) c.snf k
def Coh.putSnf (c : Coh) (k : Nat) (x : SnfEntry) : Coh := { c with snf := Sparse.set (fun _ => snfFree) c.snf k (mkSnf x) }
def Coh.clearSnf (c : Coh) (k : Nat) : Coh := c.putSnf k snfFree
def snfGood (x : SnfEntry) : Bool := x.par == snfParity x.data

def snfKeys (l : LineAddr) : List Nat := (List.range 16).map (snfKey (sliceOf l) (snfSetIdx l))

/-- The entry of a line. -/
def Coh.snfKeyOf (c : Coh) (l : LineAddr) : Option Nat :=
  (snfKeys l).find? (fun k => (c.snfAt k).ast != aFree && snfGood (c.snfAt k) && (c.snfAt k).tag == snfTagOf l)
def Coh.snfOf (c : Coh) (l : LineAddr) : Option SnfEntry := (c.snfKeyOf l).map c.snfAt

/-- The line an entry names. -/
def snfLine (k : Nat) (x : SnfEntry) : LineAddr :=
  anchorLine (k / 16 / 512)
    (BitVec.ofNat 45 ((x.tag.toNat / 2 ^ 17) * 2 ^ 36 + (x.tag.toNat % 2 ^ 17 * 512 + k / 16 % 512) * 32))

/-- Agents an entry names. -/
def SnfEntry.ports (x : SnfEntry) : List Port := (fins 6).filter (fun p => x.pres.getLsbD p)
def SnfEntry.named (x : SnfEntry) (p : Port) : Bool := x.pres.getLsbD p
/-- The EX or OW owner. -/
def SnfEntry.owner (x : SnfEntry) : Option Port :=
  if x.ast = aEX then x.ports.head?
  else if x.ast = aOW then some (Fin.ofNat 6 x.ownp.toNat)
  else none
def portBit (p : Port) : BitVec 6 := BitVec.ofNat 6 (2 ^ p.val)

/-! ### Home directory (Tables 6.8 and 6.9) -/

def dirSetIdx (l : LineAddr) : Nat := (l.toNat / 32) % 2048
def dirTagOf (l : LineAddr) : BitVec 15 := BitVec.ofNat 15 (l.toNat / 2 ^ 16)
def dirKey (s set way : Nat) : Nat := (s * 2048 + set) * 16 + way
def dSH : BitVec 2 := 1
def dEX : BitVec 2 := 2
def dOW : BitVec 2 := 3
def DirEntry.data (x : DirEntry) : BitVec 92 :=
  x.sharers ++ x.owner ++ BitVec.ofBool x.ref ++ BitVec.ofBool x.fmt ++ x.st ++ x.tag
def dirParity (d : BitVec 92) : BitVec 4 :=
  BitVec.ofNat 4 (maskOf (fun j => (List.range 92).foldl (fun a i => if i % 4 = j then a != d.getLsbD i else a) false) 4)
def mkDir (x : DirEntry) : DirEntry := { x with par := dirParity x.data }
def dirFree : DirEntry := { tag := 0, st := 0, fmt := false, ref := false, owner := 0, sharers := 0, par := 0 }
def dirGood (x : DirEntry) : Bool := x.par == dirParity x.data
def Coh.dirAt (c : Coh) (k : Nat) : DirEntry := Sparse.get (fun _ => dirFree) c.dir k
def Coh.putDir (c : Coh) (k : Nat) (x : DirEntry) : Coh := { c with dir := Sparse.set (fun _ => dirFree) c.dir k (mkDir x) }
def Coh.clearDir (c : Coh) (k : Nat) : Coh := c.putDir k dirFree
def dirKeys (l : LineAddr) : List Nat := (List.range 16).map (dirKey (sliceOf l) (dirSetIdx l))
def Coh.dirKeyOf (c : Coh) (l : LineAddr) : Option Nat :=
  (dirKeys l).find? (fun k => (c.dirAt k).st != 0 && dirGood (c.dirAt k) && (c.dirAt k).tag == dirTagOf l)
def Coh.dirOf (c : Coh) (l : LineAddr) : Option DirEntry := (c.dirKeyOf l).map c.dirAt

/-- The line of a directory entry; SA[42:38] is 0 and SA[51:43] is this node. -/
def dirLine (node k : Nat) (x : DirEntry) : LineAddr :=
  anchorLine (k / 16 / 2048) (BitVec.ofNat 45 (node * 2 ^ 36 + (x.tag.toNat * 2048 + k / 16 % 2048) * 32))

def sharerCount (x : BitVec 64) : Nat := (x.extractLsb' 36 3).toNat
def sharerPtr (x : BitVec 64) (i : Nat) : NodeId := x.extractLsb' (9 * i) 9
/-- Exact pointers as a list. -/
def sharerPtrs (x : BitVec 64) : List NodeId := (List.range (min 4 (sharerCount x))).map (sharerPtr x)
def mkSharers (l : List NodeId) : BitVec 64 :=
  BitVec.ofNat 64 ((List.range 4).foldl (fun a i => a + (l.getD i 0).toNat * 2 ^ (9 * i)) 0 + l.length * 2 ^ 36)

/-- Nodes a record may name (R216), less the dead and this node. -/
def DirEntry.nodes (x : DirEntry) (e : State) : List NodeId :=
  if x.st = dEX then []
  else if x.fmt then
    ((List.range 512).filter (fun n =>
      x.sharers.getLsbD (n / 8) && e.inFabric n && n != e.node && !e.deadNodes.contains n)).map (BitVec.ofNat 9)
  else (sharerPtrs x.sharers).filter (fun n => n.toNat != e.node && !e.deadNodes.contains n.toNat)

/-- Adds a sharer (R215); the Bool says that the record became coarse. -/
def DirEntry.addSharer (x : DirEntry) (n : NodeId) : DirEntry × Bool :=
  let g := fun (m : NodeId) => BitVec.ofNat 64 (2 ^ (m.toNat / 8))
  if x.fmt then ({ x with sharers := x.sharers ||| g n, ref := true }, false)
  else
    let l := sharerPtrs x.sharers
    if l.contains n then ({ x with ref := true }, false)
    else if l.length < 4 then ({ x with sharers := mkSharers (l ++ [n]), ref := true }, false)
    else ({ x with fmt := true, ref := true, sharers := l.foldl (fun a m => a ||| g m) (g n) }, true)

/-- Removes a sharer from an exact record. -/
def DirEntry.dropSharer (x : DirEntry) (n : NodeId) : DirEntry :=
  if x.fmt || x.st == dEX then x else { x with sharers := mkSharers ((sharerPtrs x.sharers).filter (· != n)) }

def DirEntry.hasSharers (x : DirEntry) : Bool := if x.fmt then x.sharers != 0 else decide (0 < sharerCount x.sharers)

/-! ### Policies and masks (R115, R118) -/

def pWBA : BitVec 3 := 0
def pWBS : BitVec 3 := 1
def pWBN : BitVec 3 := 2
def pWT : BitVec 3 := 3
def pUC : BitVec 3 := 4
def pDEV : BitVec 3 := 5

def Region.covers (r : Region) (l : LineAddr) : Bool :=
  r.valid && decide (l.toNat / 2 ^ 9 / 2 ^ (r.size.toNat - 16) = r.base.toNat / 2 ^ (r.size.toNat - 16))

/-- Policy of a memory-space line at this node (R118). -/
def State.policy (e : State) (l : LineAddr) : BitVec 3 :=
  match e.img.regions.find? (fun r => r.covers l) with
  | some r => r.policy
  | none => pWBS

/-- Allocation mask of a request (Table 3.9). -/
def State.allocMask (e : State) (r : Req) : BitVec 16 :=
  let ofPort := fun (p : Port) (cls : BitVec 2) =>
    if cls = 0 then BitVec.ofNat 16 (e.rf (F.AGP_WAY01.P0_MASK p))
    else if cls = 1 then BitVec.ofNat 16 (e.rf (F.AGP_WAY01.P1_MASK p))
    else BitVec.ofNat 16 (e.rf (F.AGP_WAY2.P2_MASK p))
  match r.src with
  | .agent p => ofPort p r.cls
  | .drill p => ofPort p 1
  | .walk p _ => ofPort p 1
  | .pwq p _ => ofPort p 2
  | .resow => BitVec.ofNat 16 (e.rf F.GLB_BG_WAY.RESOW_MASK)
  | .node _ _ _ => BitVec.ofNat 16 (e.rf F.GLB_ATOM_CFG.MASK)
  | .mnt => 0
  | .press => 0

/-! ### Storage -/

def getLine (m : List (Nat × Codeword)) (i : Nat) : CodeLine := mkLine (fun n => Sparse.get (fun _ => 0) m (16 * i + n))
def putLine (m : List (Nat × Codeword)) (i : Nat) (c : CodeLine) : List (Nat × Codeword) :=
  (List.range 16).foldl (fun m n => Sparse.set (fun _ => 0) m (16 * i + n) (lineWord c n)) m

def Coh.rawSlot (c : Coh) (e : State) (k : Nat) : CodeLine :=
  getLine (c.sram.get (e.chan (slotSlice k))) (slotIndex e.ch4 e.sets k)
def Coh.rawMem (c : Coh) (m : Fin 2) (i : Nat) : CodeLine := getLine (c.ddr.get m) i

/-- Reads in flight keep what the place held when a later write is accepted (R316, R366). -/
def captureReads (q : List PendRead) (k : Nat) (old : CodeLine) : List PendRead :=
  q.map (fun r => if r.key = k ∧ r.captured = none then { r with captured := some old } else r)

/-- The channel's write queue accepts a line. -/
def Coh.writeSlot (c : Coh) (e : State) (k : Nat) (cl : CodeLine) : Coh :=
  let ch := e.chan (slotSlice k)
  ({ c with
    cmiQ := vmod c.cmiQ ch (fun q => captureReads q k (c.rawSlot e k))
    sram := vmod c.sram ch (fun m => putLine m (slotIndex e.ch4 e.sets k) cl) } : Coh).ctr (ctrSel 3 ch 0x11)

/-- The write queue of M(d) accepts a line. -/
def Coh.writeMem (c : Coh) (l : LineAddr) (cl : CodeLine) : Coh :=
  let m := memOf l
  let i := memIndex l
  ({ c with
    memQ := vmod c.memQ m (fun q => captureReads q i (c.rawMem m i))
    ddr := vmod c.ddr m (fun d => putLine d i cl) } : Coh).ctr (ctrSel 4 m 0x11)

/-- Interfaces that decode: 0 to 7 channels, 8 and 9 memory ports. -/
def ifErr (u : Nat) : Nat := if u < 8 then Reg.CMI_ERR u else Reg.MEM_ERR (u - 8)
def ifCtr (u i : Nat) : Nat := if u < 8 then ctrSel 3 u i else ctrSel 4 (u - 8) i
def ifUnit (u : Nat) : Nat := if u < 8 then unitChan u else unitMem (u - 8)

/-- Trouble log detail of an occurrence at a line, with the slot where the interface is a channel. -/
def ifDetail (e : State) (u key : Nat) (line : LineAddr) (mask : Nat) : BitVec 128 :=
  if u < 8 then
    formASlot (if e.isSpill key then none else some (saOf line)) reqDevice mask e.node (slotSlice key) (slotSet key)
      (slotWay key)
  else formA (saOf line) reqDevice mask e.node []

/-- Act of a decode at an interface (R316): the served line; counts, new marks, the repair write and the owed verify
read. `fresh` is false where a later write to the place has been accepted already: the repair then came before it. A new mark that
a Darner visit finds in memory has its event at the report pass (R325). -/
def Coh.decodeAt (c : Coh) (e : State) (u key : Nat) (line : LineAddr) (raw : CodeLine) (fresh : Bool) (scrub : Bool := false) :
    CodeLine × Coh :=
  let d := decodeLine raw
  let nm := (List.range 16).foldl (fun a n => a + (d.newMarks.getLsbD n).toNat) 0
  let mk := (List.range 16).foldl (fun a n => a + (d.marked.getLsbD n).toNat) 0
  let c1 := c.ctr (ifCtr u 2) (if mk = 0 then 0 else 1)
  if d.corrected = 0 ∧ nm = 0 then (d.line, c1)
  else
    let c2 := if d.corrected = 0 then c1
      else (c1.ctr (ifCtr u 0) d.corrected).emits [.regBit (ifErr u) 0, .corrected u d.corrected]
    let c3 := if nm = 0 then c2
      else
        let c := if scrub && decide (8 ≤ u) then
            (c2.ctr (ifCtr u 1) nm).emits [.regBit (ifErr u) 1, .log 139 (ifUnit u) false (ifDetail e u key line d.newMarks.toNat)]
          else (c2.ctr (ifCtr u 1) nm).emit
            (.first (ifErr u) 1 (if u < 8 then 138 else 139) (ifUnit u) (some (ifDetail e u key line d.newMarks.toNat)) true)
        if u < 8 then c else c.emit (.retire (Fin.ofNat 2 (u - 8)) key line 1)
    let c4 := c3.ctr (ifCtr u 3)
    let c5 :=
      if !fresh then c4
      else if u < 8 then { c4 with sram := vmod c4.sram (Fin.ofNat 8 u) (fun m => putLine m (slotIndex e.ch4 e.sets key) d.line) }
      else { c4 with ddr := vmod c4.ddr (Fin.ofNat 2 (u - 8)) (fun m => putLine m key d.line) }
    let v : Verify := { key := key, line := line, cl := d.line }
    (d.line,
      if u < 8 then { c5 with cmiVerify := vmod c5.cmiVerify (Fin.ofNat 8 u) (· ++ [v]) }
      else { c5 with memVerify := vmod c5.memVerify (Fin.ofNat 2 (u - 8)) (· ++ [v]) })

/-- A read burst of a slot: counted, with the idle cycle of a change of rank (R365). -/
def Coh.readBurst (c : Coh) (e : State) (k : Nat) : Coh :=
  let ch := e.chan (slotSlice k)
  let r := (cmiPlace (e.rb F.GLB_CACHE_CFG.RANKS2) (e.rb F.GLB_CACHE_CFG.DEV8M) (slotIndex e.ch4 e.sets k) 0).rank
  let c1 := if c.cmiRank.get ch = r then c else ({ c with cmiRank := vset c.cmiRank ch r } : Coh).ctr (ctrSel 3 ch 0x12)
  c1.ctr (ctrSel 3 ch 0x10)

/-- Reads of a slot or a line within a pass: merges, moves to the Hamper, atomics, maintenance. -/
def Coh.readSlot (c : Coh) (e : State) (k : Nat) : CodeLine × Coh :=
  let ch := e.chan (slotSlice k)
  (c.readBurst e k).decodeAt e ch k (c.slotLineAddr e k) (c.rawSlot e k) true

def Coh.readMem (c : Coh) (e : State) (l : LineAddr) : CodeLine × Coh :=
  let m := memOf l
  (c.ctr (ctrSel 4 m 0x10)).decodeAt e (8 + m.val) (memIndex l) l (c.rawMem m (memIndex l)) true

/-- A read enters the queue of a slot's channel, or of a line's memory port. -/
def Coh.queueSlot (c : Coh) (e : State) (k : Nat) (l : LineAddr) (cont : Cont) (cls : BitVec 2) (top : Bool := false) : Coh :=
  let ch := e.chan (slotSlice k)
  ({ c with cmiQ := vmod c.cmiQ ch (· ++ [{ key := k, line := l, cont := cont, cls := cls, top := top }]) } : Coh).readBurst e k
def Coh.queueMem (c : Coh) (l : LineAddr) (cont : Cont) (cls : BitVec 2) (top : Bool := false) : Coh :=
  let m := memOf l
  ({ c with memQ := vmod c.memQ m (· ++ [{ key := memIndex l, line := l, cont := cont, cls := cls, top := top }]) } : Coh).ctr
    (ctrSel 4 m 0x10)

/-! ### Fabric messages -/

def Coh.sendNode (c : Coh) (e : State) (h : StileHdr) (p : FabPayload) : Coh :=
  c.emit (.node { hdr := stileHdr { h with src := e.node }, payload := p })

/-- The check of fabric data on arrival at a slice (R315). -/
def Coh.arrive (c : Coh) (l : LineAddr) (cl : CodeLine) : CodeLine × Coh :=
  let r := checkFabric cl
  if r.2 = 0 then (r.1, c)
  else
    let s := (sliceOf l).val
    (r.1, (c.ctr (ctrSel 7 0 3) r.2).emit (.raise 140 s))

/-! ### Locks (R105) -/

/-- A flow for one line locks it; a set purge or a set recall names a set, which is locked as such. -/
def Flow.locks (f : Flow) : Bool :=
  match f.kind with
  | .purge _ _ => false
  | .recallSet _ _ _ _ _ => false
  | _ => true

/-- The line is held by a tracker, a flow, a Hamper entry, a maintenance operation or an eviction record. -/
def Coh.lockedLine (c : Coh) (l : LineAddr) : Bool :=
  c.txns.any (fun t => t.req.line == l) || c.nodeTx.any (fun t => t.line == l) ||
  c.homeTx.any (fun t => t.line == l) || c.flows.any (fun f => f.locks && f.line == l) || c.agentWbs.any (fun w => w.line == l) ||
  c.hampers.any (fun h => h.line == l && !h.copy) ||
  c.lockedSnf.contains ((sliceOf l).val * 512 + snfSetIdx l) ||
  c.lockedDir.contains ((sliceOf l).val * 2048 + dirSetIdx l)

/-! ### Fill trackers (R70, R108) -/

/-- The home slice of a request at the front end, once the hub island has found it (after translation on a non-caching
port). -/
def State.frontSlice (e : State) (p : Port) (t : FrontReq) : Option Nat :=
  match t.tr with
  | .ready sa _ => some (sliceOf (lineOf sa)).val
  | _ => if e.caching p then some (sliceOf (lineOf t.req.addr)).val else none

/-- Fill trackers of a slice that released credits reserve (R70): an unspent credit reserves one in every slice it covers,
a spent one in every such slice until the request's home slice is found, and there only from then on. -/
def State.reservedBy (e : State) (s : Nat) : Nat :=
  (fins 6).foldl (fun a p =>
    let steered := e.caching p
    let covers := fun (cr : Credit) => cr.cls.toNat < 2 &&
      ((!steered && cr.kind == .agent) || cr.ch.toNat == (e.chan s).val)
    a + ((e.port p).credits.filter covers).length
      + ((e.port p).front.filter (fun t => match t.credit, e.frontSlice p t with
          | some cr, some h => decide (cr.cls.toNat < 2) && h == s
          | some cr, none => covers cr
          | none, _ => false)).length
      + ((e.port p).drill.issued.filter (fun l => lineHome l == e.node && sliceIs l s)).length)
    (e.prm.resow.filter (fun cr => cr.ch.toNat == (e.chan s).val)).length

/-- Fill trackers in use: requests in service, and partial drains of the Press that read memory (R126). -/
def Coh.trackersUsed (c : Coh) (s : Nat) : Nat :=
  (c.txns.filter (fun t => t.tracker && sliceIs t.req.line s)).length + ((c.pressIn s).filter PressEntry.fill).length
/-- Reservations of requests that wait or have joined a holder stay too (R70). -/
def Coh.trackersReserved (c : Coh) (e : State) (s : Nat) : Nat :=
  e.reservedBy s + ((c.wait ++ c.txns.flatMap Txn.joined).filter (fun r => r.resv && sliceIs r.line s)).length

/-- A tracker is free for the request: its own reservation, or an unreserved one. -/
def Coh.trackerFree (c : Coh) (e : State) (r : Req) : Bool :=
  let s := (sliceOf r.line).val
  r.resv || decide (c.trackersUsed s + c.trackersReserved e s < 64)

end Sys2Proof.Machine
end

