-- ==== Sys2Proof/Machine/CohFlow.lean ====
section
/-! DEFINITION. Parts of the flows of a slice: node states, victims and the Hamper, snoops, snoop filter and directory
entries, outgoing fabric messages. -/

namespace Sys2Proof.Machine
open Sys2Proof

/-- The line is homed at this node. -/
def State.isHome (e : State) (l : LineAddr) : Bool := lineHome l == e.node

/-! ### Fabric messages -/

def fRdS : Nat := 0x01
def fRdU : Nat := 0x02
def fUpg : Nat := 0x03
def fRdC : Nat := 0x04
def fRdPf : Nat := 0x05
def fWr : Nat := 0x06
def fWb : Nat := 0x07
def fEv : Nat := 0x08
def fAtm : Nat := 0x09
def fClean : Nat := 0x0A
def fFlush : Nat := 0x0B
def fDevRd : Nat := 0x0C
def fDevWr : Nat := 0x0D
def fFwdS : Nat := 0x10
def fFwdU : Nat := 0x11
def fFwdC : Nat := 0x12
def fInv : Nat := 0x13
def fRecall : Nat := 0x14
def fRecallSet : Nat := 0x15
def fData : Nat := 0x20
def fRecallData : Nat := 0x21
def fCmp : Nat := 0x28
def fInvAck : Nat := 0x29
def fRecallAck : Nat := 0x2A
def fFwdMiss : Nat := 0x2B
def fWbAck : Nat := 0x2C
def fDecl : Nat := 0x2D
def fCmpAck : Nat := 0x2E

/-- A message of this node about a line to the line's home. -/
def Coh.toHome (c : Coh) (e : State) (opc : Nat) (l : LineAddr) (f : StileHdr → StileHdr) (p : FabPayload) : Coh :=
  c.sendNode e (f { opc := opc, dst := lineHome l, rqn := e.node, line := l }) p

/-- R234 at a slice: counted, EV104, an entry with the message, its sender, the line and the state: 0 to 5 none and
the states of Table 7.5, 16 to 28 none and those of Table 7.2, 32 to 35 of the snoop filter, 48 to 55 of the tag. -/
def Coh.protoErr (c : Coh) (e : State) (l : LineAddr) (requester node opc st : Nat) : Coh :=
  let s := (sliceOf l).val
  (c.sctr s 0x30).emit (.log 104 s true (formA (saOf l) requester 0 (if requester = reqNode then node else e.node)
    [opc, (Config.stateCode st).toNat]))

/-- Numbers in use, and the lowest free one below a limit. -/
def lowestFree (used : List Nat) (limit : Nat) : Option Nat :=
  match (List.range (used.length + 1)).find? (fun i => !used.contains i) with
  | some i => if i < limit then some i else none
  | none => none

/-- Die of a request's outgoing fabric tracker: that of the first Stile link of its route (R44, steps 5 and 9); for a
line homed here, that of its slice. -/
def reqDie (e : State) (r : Req) : Nat :=
  match e.nextHop (stileHdr { opc := 0, dst := lineHome r.line }) with
  | some (dim, minus) => (dieOfLink (linkOf dim minus)).val
  | none => (dieOfSlice (sliceOf r.line)).val

/-- A free outgoing fabric tracker of a die, 512 on each (Table 1.3), as RTRK names it (Table 11.10). -/
def Coh.freeTrk (c : Coh) (die : Nat) : Option (BitVec 11) :=
  (lowestFree ((c.outTrks.filter (fun t => t.rtrk.toNat / 1024 = die)).map (fun t => t.rtrk.toNat % 1024)) 512).map
    (fun i => BitVec.ofNat 11 (1024 * die + i))

/-- A free home tracker number for HTRK. -/
def Coh.freeHtrk (c : Coh) : BitVec 11 :=
  BitVec.ofNat 11 ((lowestFree (c.homeTx.map (fun h => h.htrk.toNat) ++ c.setRecalls.map (fun r => r.htrk.toNat)) 2048).getD 0)

/-- Units of OUT_P0 for a home, in all and in use (R72, R75). -/
def State.allotOut (e : State) (n : Nat) : Nat := Sparse.get (fun _ => 0) e.img.allotOut n
def State.allotIn (e : State) (n : Nat) : Nat := Sparse.get (fun _ => 0) e.img.allotIn n
def Coh.outUsed (c : Coh) (n : Nat) : Nat := (c.outTrks.filter (fun t => t.unit && t.dst.toNat == n)).length
def ReqSrc.fromNode (x : ReqSrc) (n : Nat) : Bool := match x with | .node q _ _ => q.toNat == n | _ => false
def Coh.inUsed (c : Coh) (n : Nat) : Nat :=
  (c.homeTx.filter (fun h => h.allot && h.req.src.fromNode n)).length +
    (c.txns.filter (fun t => t.req.allot && t.req.src.fromNode n)).length

/-- A store admitted as P0 goes out with no OUT unit, or one admitted as P1 goes out (R75, R76): its promise ends. -/
def Coh.demoteStore (c : Coh) (w : StoreWait) : Coh :=
  if !w.bounded then c
  else if w.posted then c.emit (.postedEnd w.port w.point (w.cls == 0))
  else c.emit (if w.cls = 0 then .demoted w.port w.tag else .unpromise w.port w.tag)

/-- What the outgoing tracker decides for a request's promise (R75, R76): whether it takes an OUT unit. An FWr carries the
promises of the stores that its entry holds. A request that the Throughput rules admit has no promise (R71). -/
def Coh.admitRemote (c : Coh) (e : State) (r : Req) : Bool × Coh :=
  let n := lineHome r.line
  let room := decide (c.outUsed n < e.allotOut n)
  match r.src with
  | .agent p =>
    if r.cls = 0 ∧ r.bounded then
      if room then (true, c) else (false, c.emit (.demoted p r.tag))
    else if r.cls = 1 ∧ r.bounded then (false, c.emit (.unpromise p r.tag))
    else (false, c)
  | .press =>
    let ws := if r.mask = 0 then [] else (match c.pressOf r.line with | some p => p.waiters | none => [])
    let unit := room && ws.any (fun w => w.bounded && w.cls == 0)
    (unit, (ws.filter (fun w => !(unit && w.cls == 0))).foldl Coh.demoteStore c)
  | _ => (false, c)

/-- Sends a fabric request under a new outgoing tracker; none where no tracker is free. -/
def Coh.request (c : Coh) (e : State) (r : Req) (use : TrkUse) (opc : Nat) (f : StileHdr → StileHdr)
    (p : FabPayload) : Option Coh :=
  match c.freeTrk (reqDie e r) with
  | none => none
  | some k =>
    let a := c.admitRemote e r
    let t : OutTrk := { rtrk := k, dst := BitVec.ofNat 9 (lineHome r.line), since := e.fine, req := r, use := use,
                        unit := a.1 }
    some ((({ a.2 with outTrks := a.2.outTrks ++ [t] } : Coh)).toHome e opc r.line
      (fun h => f { h with rtrk := k.toNat, bounded := a.1 }) p)

/-! ### Press contents (R490) -/

/-- The OWNED or DRAINING entry of a line: its bytes are the line's value. -/
def Coh.pressVisible (c : Coh) (l : LineAddr) : Option PressEntry :=
  (c.pressOf l).filter (fun p => p.st != .pending)

/-- Bytes of an OWNED or DRAINING entry that are the line's value, as a pass meets them (Table 4.2, R490). A drain may end
before the item that passed is served; the bytes it met are then in the cache or memory, or are laid over older data. -/
def Coh.pressSnap (c : Coh) (l : LineAddr) : CodeLine × ByteMask :=
  match c.pressVisible l with
  | some p => (p.cl, p.mask)
  | none => (0, 0)

/-- The entry's bytes replace those of a read's other source. -/
def overSnap (s : CodeLine × ByteMask) (cl : CodeLine) : CodeLine := mergePress cl s.1 s.2

/-! ### Node state of a line (R191, R256) -/

/-- Places other than the tag. -/
def Coh.nodeStateOff (c : Coh) (l : LineAddr) : BitVec 3 :=
  match c.hamperOf l with
  | some h => h.st
  | none =>
    let n := match c.snfOf l with | some x => x.nst | none => 0
    let w := match c.agentWbs.find? (fun w => w.line == l) with | some w => w.nst | none => 0
    if n ≠ 0 then n else if w ≠ 0 then w else (match c.pressVisible l with | some p => p.nst | none => 0)

def Coh.nodeState (c : Coh) (e : State) (l : LineAddr) : BitVec 3 :=
  match c.hitSlot e l with
  | some k => (c.tag k).st
  | none =>
    match c.txnOf l with
    | some t => if t.install ≠ 0 then t.install else c.nodeStateOff l
    | none => c.nodeStateOff l

def Coh.setSnfOf (c : Coh) (l : LineAddr) (f : SnfEntry → SnfEntry) : Coh :=
  match c.snfKeyOf l with
  | some k => c.putSnf k (f (c.snfAt k))
  | none => c

/-- Cancels the install of a fill: the slot is free again. -/
def Coh.dropInstall (c : Coh) (l : LineAddr) : Coh :=
  match c.txnOf l with
  | some t =>
    let c1 := match t.writePending, t.slot with | true, some k => c.freeTag k | _, _ => c
    c1.setTxn l (fun t => if t.writePending then { t with writePending := false, slot := none, install := 0 }
                          else { t with install := 0 })
  | none => c

/-- Records a node state where R191 places it. -/
def Coh.setNodeState (c : Coh) (e : State) (l : LineAddr) (st : BitVec 3) : Coh :=
  match c.hitSlot e l with
  | some k => if st = tI then c.freeTag k else c.setTag k (fun t => { t with st := st })
  | none =>
    let c1 := match c.txnOf l with
      | some t =>
        if t.install ≠ 0 then
          (if st = tI then c.dropInstall l else c.setTxn l (fun t => { t with install := st }))
        else c
      | none => c
    let held := fun (h : HamperEntry) => if h.line = l ∧ !h.copy ∧ isMod st then { h with st := st } else h
    let c2 := { c1 with hamper := c1.hamper.map held, hamperWait := c1.hamperWait.map held }
    if e.isHome l then c2
    else
      let writing := match c2.txnOf l with | some t => t.install != 0 | none => false
      match c2.snfOf l with
      | some _ => c2.setSnfOf l (fun x => { x with nst := if writing then 0 else st })
      | none => c2.setPress l (fun p => if p.st = .pending then p else { p with nst := st })

/-- Installs a state in a slot whose line just arrived: NSTATE is cleared in that pass (R191). -/
def Coh.clearNst (c : Coh) (l : LineAddr) : Coh :=
  (c.setSnfOf l (fun x => { x with nst := 0 })).setPress l (fun p => { p with nst := 0 })

/-! ### Eviction records: FEv and FWb (R206) -/

def Coh.addNodeTx (c : Coh) (t : NodeTx) : Coh := { c with nodeTx := c.nodeTx ++ [t] }

/-- Sends FEv and enters EV. -/
def Coh.sendFEv (c : Coh) (e : State) (l : LineAddr) (mnt : Bool := false) : Coh :=
  (c.toHome e fEv l id .none).addNodeTx { line := l, ts := .ev, mnt := mnt }

/-- Sends FWb and enters WB; the line's data stands in a WRITING Hamper entry, or in the Press entry that drains (R491). -/
def Coh.sendFWb (c : Coh) (e : State) (l : LineAddr) (cl : CodeLine) (keepSt : BitVec 3) (mnt : Bool := false) : Coh :=
  (c.toHome e fWb l (fun h => { h with keep := keepSt != 0 }) (.line cl)).addNodeTx
    { line := l, ts := .wb, keepSt := keepSt, mnt := mnt }

def Coh.hamperFull (c : Coh) (s : Nat) : Bool := decide (16 ≤ (c.hamperIn s).length)

/-- A line enters the Hamper. One of another home that is WRITING from the start leaves by FWb. -/
def Coh.enterHamper (c : Coh) (e : State) (h : HamperEntry) : Coh :=
  let c1 := ({ c with hamper := c.hamper ++ [h] } : Coh).sctr (sliceOf h.line) 0x15
  if h.writing && !e.isHome h.line then c1.sendFWb e h.line h.cl h.keepSt h.mnt else c1

/-- The Hamper takes the line: an entry is free, and no other record of the line toward its home is open. -/
def Coh.hamperRoom (c : Coh) (h : HamperEntry) : Bool := !c.hamperFull (sliceOf h.line) && (c.nodeTxOf h.line).isNone

/-- A line for the Hamper waits where it has to (R141). -/
def Coh.putHamper (c : Coh) (e : State) (h : HamperEntry) : Coh :=
  if c.hamperRoom h then c.enterHamper e h else { c with hamperWait := c.hamperWait ++ [h] }

/-- The line leaves the node: FWb, its data in a WRITING Hamper entry (Table 7.2). -/
def Coh.leaveByFWb (c : Coh) (e : State) (l : LineAddr) (cl : CodeLine) (keepSt : BitVec 3) (mnt : Bool := false) : Coh :=
  c.putHamper e { line := l, cl := cl, st := tM, writing := true, keepSt := keepSt, mnt := mnt }

/-- Lines that wait for a Hamper entry enter it, oldest first. -/
def Coh.hamperNext (c : Coh) (e : State) : Coh :=
  c.hamperWait.foldl (fun (c : Coh) (h : HamperEntry) =>
    if c.hamperRoom h then (({ c with hamperWait := c.hamperWait.erase h, wake := true } : Coh)).enterHamper e h else c) c

/-- Data of a line that has lost it (R206): every mark set, data bits 0; the condition is a protocol error. -/
def lostLine : CodeLine := poisonLine 0
def Coh.lostData (c : Coh) (e : State) (l : LineAddr) : Coh := c.protoErr e l reqDevice 0 0 (48 + (c.nodeState e l).toNat)

/-- State kept by an FWb with KEEP (R206). -/
def keptState (st : BitVec 3) : BitVec 3 := if st = tM then tE else tS

/-- Node state that an FWb of the line keeps: 0 unless agents, or a Press entry with write permission, keep it. -/
def Coh.keepFor (c : Coh) (l : LineAddr) (st : BitVec 3) : BitVec 3 :=
  let named := match c.snfOf l with | some x => x.pres != 0 | none => false
  if named || (c.pressVisible l).isSome then keptState st else 0

/-- A node state leaves the snoop filter: what still holds the line records it, a Press entry or a write-back that an agent has
returned; else it leaves by FEv or FWb (R206, R210). -/
def Coh.freedNst (c : Coh) (e : State) (l : LineAddr) (nst : BitVec 3) : Coh :=
  if nst = 0 || e.isHome l || (c.hitSlot e l).isSome || (c.hamperOf l).isSome then c
  else if (c.pressVisible l).isSome then c.setPress l (fun p => { p with nst := nst })
  else if c.agentWbs.any (fun w => w.line == l) then
    { c with agentWbs := c.agentWbs.map (fun w => if w.line = l then { w with nst := if isMod nst then nst else tM } else w) }
  else if (c.nodeTxOf l).isSome then c
  else if isMod nst then (c.lostData e l).leaveByFWb e l lostLine 0
  else c.sendFEv e l

/-- R210: the entry of a line that names no agent is freed. While a PENDING Press entry asks for the line, the entry stays and
records the node state until permission is complete. -/
def Coh.tidySnf (c : Coh) (e : State) (l : LineAddr) : Coh :=
  match c.snfKeyOf l with
  | none => c
  | some k =>
    let x := c.snfAt k
    let asking : Bool := match c.pressOf l with | some p => p.st == PressState.pending | none => false
    if x.pres ≠ 0 ∨ (asking ∧ x.nst ≠ 0 ∧ (c.hitSlot e l).isNone) then c
    else (c.clearSnf k).woken.freedNst e l x.nst

/-! ### Victims and the Hamper (R111, R141, R145) -/

/-- A Press entry is on its way into the slot of its line. -/
def Coh.drainingInto (c : Coh) (l : LineAddr) : Bool := (c.pressOf l).any (fun p => p.st == .draining)

def Coh.candidates (c : Coh) (e : State) (l : LineAddr) (mask : BitVec 16) : List Nat :=
  let s := (sliceOf l).val
  let set := setIdx e.sets l
  if e.chanServes (e.chan s) then
    ((List.range 16).filter (fun w => mask.getLsbD w && e.wayEnabled s w)).map (slotKey s set) |>.filter (fun k =>
      let st := (c.tag k).st
      st != tF && st != tT && !e.isSpill k && !c.retiring.any (fun x => x.1 == k) &&
        (st == tI || !c.lockedLine (c.slotLineAddr e k)))
  else []

/-- The victim of a fill (R111); `spare` says that the pass frees a Hamper entry (R144). -/
def Coh.victim (c : Coh) (e : State) (l : LineAddr) (mask : BitVec 16) (spare : Bool) : Option Nat × Coh :=
  let s := (sliceOf l).val
  let all := c.candidates e l mask
  let cand := if c.hamperFull s && !spare then all.filter (fun k => !isMod (c.tag k).st) else all
  match cand.find? (fun k => (c.tag k).st == tI) with
  | some k => (some k, c)
  | none =>
    match cand with
    | [] => (none, if all.isEmpty then c else c.sctr s 0x17)
    | _ =>
      let a := cand.foldl (fun m k => max m (c.tag k).age.toNat) 0
      let c1 := if a = 3 then c
        else cand.foldl (fun c k => c.setTag k (fun t => { t with age := t.age + BitVec.ofNat 2 (3 - a) })) c
      (cand.find? (fun k => (c1.tag k).age == 3), c1)

/-- The line of a slot leaves it: a modified line goes to the Hamper, a clean one is dropped. The node state moves to
where R191 places it; a clean line of another home that nothing else records leaves by FEv. -/
def Coh.evictSlot (c : Coh) (e : State) (k : Nat) (walk : Bool := false) : Coh :=
  let t := c.tag k
  let s := slotSlice k
  if !isValid t.st then c.freeTag k
  else
    let l := c.slotLineAddr e k
    let c0 := if t.pf then (c.sctr s 7).emit (.prefetchUse false) else c
    let toNst := fun (c : Coh) => if e.isHome l then c else c.setSnfOf l (fun x => { x with nst := t.st })
    if isMod t.st then
      let rd := c0.readSlot e k
      let c1 := (rd.2.sctr s 4).sctr s 0x15
      let c2 := toNst (c1.freeTag k)
      ({ c2 with hamper := c2.hamper ++ [{ line := l, cl := rd.1, st := t.st, walk := walk }] } : Coh)
        |>.setPress l (fun p => if e.isHome l then p else { p with under := some rd.1 })
    else
      let c1 := (c0.sctr s 5).freeTag k
      if e.isHome l then c1
      else if (c1.snfOf l).isSome then toNst c1
      else if (c1.pressVisible l).isSome then
        let rd := c0.readSlot e k
        (rd.2.sctr s 5).freeTag k |>.setPress l (fun p => { p with nst := t.st, under := some rd.1 })
      else c1.sendFEv e l

/-- The slot is taken for a line: its old line leaves, its entry is F with the new tag (Table 3.7, step 3). -/
def Coh.reserveSlot (c : Coh) (e : State) (k : Nat) (l : LineAddr) : Coh :=
  (c.evictSlot e k).putTag k (mkTag (tagOf e.sets l) tF 3 false false)

/-- A slot for a line under a mask, reserved. -/
def Coh.allocSlot (c : Coh) (e : State) (l : LineAddr) (mask : BitVec 16) : Option Nat × Coh :=
  match c.victim e l mask false with
  | (some k, c1) => (some k, c1.reserveSlot e k l)
  | (none, c1) => (none, c1)

/-- Final entry of a slot: STATE, AGE, PF, POISON from the marks of the line (Table 3.7, step 7). -/
def Coh.finishSlot (c : Coh) (e : State) (k : Nat) (l : LineAddr) (st : BitVec 3) (age : Nat) (pf : Bool)
    (cl : CodeLine) : Coh :=
  (c.writeSlot e k cl).putTag k (mkTag (tagOf e.sets l) st (BitVec.ofNat 2 age) (anyMark cl) pf)

/-- Demand hit: AGE_HIT, and PF counted and cleared (Table 3.8). -/
def Coh.demandHit (c : Coh) (e : State) (k : Nat) : Coh :=
  let t := c.tag k
  let c1 := if t.pf then (c.sctr (slotSlice k) 6).emit (.prefetchUse true) else c
  c1.setTag k (fun t => { t with age := BitVec.ofNat 2 (e.rf F.GLB_INS_AGE.AGE_HIT), pf := false })

/-- Reclaim (Table 4.3, R144): the HELD line returns from the Hamper to a victim way. -/
def Coh.reclaim (c : Coh) (e : State) (l : LineAddr) (mask : BitVec 16) (age : Nat) (pf : Bool) : Option Coh :=
  match c.hamperOf l with
  | none => none
  | some h =>
    if h.writing then none
    else
      match c.victim e l mask true with
      | (none, _) => none
      | (some k, c1) =>
        let c2 := { c1 with hamper := c1.hamper.filter (fun x => x.line != l || x.copy) }
        let c3 := (c2.reserveSlot e k l).finishSlot e k l h.st age pf h.cl
        some ((c3.clearNst l).sctr (slotSlice k) 0x16).woken

/-! ### Snoops -/

/-- Snoop tag of the next snoop to a port. -/
def Coh.nextSnpTag (c : Coh) (e : State) (p : Port) : Tag :=
  (e.port p).snpTag + BitVec.ofNat 12 ((c.fx.filter (fun f => match f with | .snoop q _ => q == p | _ => false)).length)

def Coh.putSnoop (c : Coh) (e : State) (p : Port) (opc : BitVec 6) (l : LineAddr) (flow : Nat) (addr : SysAddr)
    (data : Option CodeLine) : Coh :=
  let tag := c.nextSnpTag e p
  let m : AgentMsg := { opc := opc, tag := tag, addr := addr,
                        bytes := (data.map lineBytes).getD 0, poison := (data.map linePoison).getD 0 }
  let own : Bool := opc != opSnpP && (match c.snfOf l with | some y => y.owner == some p | none => false)
  let x : Snoop := { port := p, tag := tag, opc := opc, line := l, flow := flow, since := e.fine, owner := own }
  ((({ c with snoops := c.snoops ++ [x] } : Coh).emit (.snoop p m)).sctr (sliceOf l) 0x20).ctr (ctrSel 2 p 0x20)

/-- The port's agent still owes AckC for the line (R198). -/
def Coh.owesAck (c : Coh) (l : LineAddr) (p : Port) : Bool :=
  match c.txnOf l with
  | some t => t.ackPending && t.req.src == .agent p
  | none => false

/-- Sends a snoop of a flow, or keeps it until AckC. -/
def Coh.snoopFor (c : Coh) (e : State) (l : LineAddr) (flow : Nat) (p : Port) (opc : BitVec 6) : Coh :=
  if c.owesAck l p then
    { c with snoops := c.snoops ++ [{ port := p, tag := 0, opc := opc, line := l, flow := flow, since := e.fine,
                                      deferred := true }] }
  else c.putSnoop e p opc l flow (saOf l) none

/-- Snoops agents for one purpose. -/
def Coh.startFlow (c : Coh) (e : State) (l : LineAddr) (kind : FlowKind) (ps : List (Port × BitVec 6)) : Coh :=
  let id := c.nextFlow
  let c1 := { c with flows := c.flows ++ [{ id := id, line := l, kind := kind, await := ps.length }],
                     nextFlow := id + 1, wake := c.wake || ps.isEmpty }
  ps.foldl (fun c q => c.snoopFor e l id q.1 q.2) c1

def Coh.dropFlow (c : Coh) (id : Nat) : Coh := { c with flows := c.flows.filter (fun f => f.id != id), wake := true }

/-- Snoops of AckC's agent that waited for it go out. -/
def Coh.releaseSnoops (c : Coh) (e : State) (p : Port) (l : LineAddr) : Coh :=
  let ds := c.snoops.filter (fun x => x.deferred && x.port == p && x.line == l)
  let c1 := { c with snoops := c.snoops.filter (fun x => !(x.deferred && x.port == p && x.line == l)) }
  ds.foldl (fun c x => c.putSnoop e p x.opc l x.flow (saOf l) none) c1

/-- Every agent an entry names, with one opcode. -/
def allNamed (x : Option SnfEntry) (opc : BitVec 6) : List (Port × BitVec 6) :=
  match x with
  | some x => x.ports.map (fun p => (p, opc))
  | none => []

/-- The EX or OW owner, with one opcode. -/
def ownerOnly (x : Option SnfEntry) (opc : BitVec 6) : List (Port × BitVec 6) :=
  match x.bind SnfEntry.owner with
  | some p => [(p, opc)]
  | none => []

/-! ### Snoop filter entries for grants (R211, R212) -/

/-- Victim of a full list of keys (R211): the lowest-numbered unlocked with REF 0; else REF is cleared in every unlocked
one and the lowest-numbered unlocked is taken. The flags answer whether REF is cleared. -/
def refVictim (keys : List Nat) (unlocked ref : Nat → Bool) : Option Nat × Bool :=
  match keys.find? (fun k => unlocked k && !ref k) with
  | some k => (some k, false)
  | none => (keys.find? unlocked, true)

def backInvSlots (c : Coh) (s : Nat) : Nat :=
  (c.flows.filter (fun f => (match f.kind with | .backInv _ => true | _ => false) && sliceIs f.line s)).length

/-- A snoop filter slot for a line: a free way, or a victim that moves to a back-invalidation slot. -/
def Coh.takeSnf (c : Coh) (e : State) (l : LineAddr) : Option Nat × Coh :=
  match (snfKeys l).find? (fun k => (c.snfAt k).ast == aFree) with
  | some k => (some k, c)
  | none =>
    let s := (sliceOf l).val
    if 16 ≤ backInvSlots c s then (none, c)
    else
      let unlocked := fun k => !c.lockedLine (snfLine k (c.snfAt k))
      match refVictim (snfKeys l) unlocked (fun k => (c.snfAt k).ref) with
      | (none, _) => (none, c)
      | (some k, clear) =>
        let c1 := if clear then
            (snfKeys l).foldl (fun c k => if unlocked k then c.putSnf k { c.snfAt k with ref := false } else c) c
          else c
        let x := c1.snfAt k
        let vl := snfLine k x
        let c2 := (c1.sctr s 0x23).startFlow e vl (.backInv x.nst) (x.ports.map (fun p => (p, opSnpU)))
        (some k, c2.clearSnf k)

/-- Writes a grant into the snoop filter (R210): the entry of the line, or the slot `k` taken for it. NSTATE follows the
node state for a line of another home that the tag does not hold. -/
def Coh.grantSnf (c : Coh) (k : Nat) (l : LineAddr) (p : Port) (own : Bool) (nst : BitVec 3) : Coh :=
  let old := c.snfAt k
  let had := old.ast != aFree
  let pres := if own then portBit p else (if had then old.pres ||| portBit p else portBit p)
  c.putSnf k
    { tag := snfTagOf l
      pres := pres
      ast := if own then aEX else if had && old.ast == aOW then aOW else aSH
      ownp := if !own && had && old.ast == aOW then old.ownp else 0
      nst := nst
      ref := if had && old.pres.getLsbD p then old.ref else true
      par := 0 }

/-! ### Directory entries (R217) -/

def recallSlots (c : Coh) (s : Nat) : Nat := (c.homeTx.filter (fun h => h.ts == .hr && sliceIs h.line s)).length

/-- No other node holds a line homed here any more: its tag S or O becomes E or M (R192). -/
def Coh.soleTag (c : Coh) (e : State) (l : LineAddr) : Coh :=
  match c.hitSlot e l with
  | some k =>
    let st := (c.tag k).st
    if st = tS then c.setTag k (fun t => { t with st := tE })
    else if st = tO then c.setTag k (fun t => { t with st := tM }) else c
  | none => c

/-- A directory entry is freed: nothing names its line at another node any more. -/
def Coh.freeDir (c : Coh) (e : State) (k : Nat) : Coh :=
  ((c.clearDir k).soleTag e (dirLine e.node k (c.dirAt k))).woken

/-- Writes the directory entry of a line; an entry that names no node is freed. -/
def Coh.writeDir (c : Coh) (e : State) (k : Nat) (x : DirEntry) : Coh :=
  if x.st = dSH ∧ !x.hasSharers then c.freeDir e k
  else c.putDir k (if x.st = dEX ∨ x.st = dOW then x else { x with owner := 0 })

/-- A node other than this one that is not dead. -/
def State.reaches (e : State) (n : NodeId) : Bool := n.toNat != e.node && !e.deadNodes.contains n.toNat

/-- The owner an entry names, where it can still answer. -/
def DirEntry.ownerOf (x : DirEntry) (e : State) : Option NodeId :=
  if (x.st = dEX ∨ x.st = dOW) ∧ e.reaches x.owner then some x.owner else none

/-- Nodes a recall of an entry goes to: the owner and every sharer. -/
def DirEntry.holders (x : DirEntry) (e : State) : List NodeId :=
  let o := (x.ownerOf e).toList
  o ++ (x.nodes e).filter (fun n => !o.contains n)

/-- Sends one home message to each node of a list. -/
def Coh.toNodes (c : Coh) (e : State) (opc : Nat) (l : LineAddr) (ns : List NodeId) (f : StileHdr → StileHdr) : Coh :=
  ns.foldl (fun c n => c.sendNode e (f { opc := opc, dst := n.toNat, line := l }) .none) c

def dummyReq (l : LineAddr) : Req := { src := .press, op := .store, line := l }

/-- A directory slot for a line: a free way, or a victim that moves to a recall slot (HR). -/
def Coh.takeDir (c : Coh) (e : State) (l : LineAddr) : Option Nat × Coh :=
  match (dirKeys l).find? (fun k => (c.dirAt k).st == 0) with
  | some k => (some k, c)
  | none =>
    let s := (sliceOf l).val
    if 8 ≤ recallSlots c s then (none, c)
    else
      let unlocked := fun k => !c.lockedLine (dirLine e.node k (c.dirAt k))
      match refVictim (dirKeys l) unlocked (fun k => (c.dirAt k).ref) with
      | (none, _) => (none, c)
      | (some k, clear) =>
        let c1 := if clear then
            (dirKeys l).foldl (fun c k => if unlocked k then c.putDir k { c.dirAt k with ref := false } else c) c
          else c
        let x := c1.dirAt k
        let vl := dirLine e.node k x
        let ns := x.holders e
        let ht := c1.freeHtrk
        let h : HomeTx := { line := vl, ts := .hr, req := dummyReq vl, htrk := ht, recalls := ns, recOwner := x.ownerOf e }
        let c2 := { c1.clearDir k with homeTx := c1.homeTx ++ [h], wake := true }
        (some k, (c2.toNodes e fRecall vl ns (fun m => { m with htrk := ht.toNat })).sctr s 0x27 ns.length)

/-- Enters node Q as EX owner, or as a sharer of a new SH record. -/
def Coh.newDir (c : Coh) (k : Nat) (l : LineAddr) (q : NodeId) (own : Bool) : Coh :=
  (c.putDir k
    { tag := dirTagOf l, st := if own then dEX else dSH, fmt := false, ref := true,
      owner := if own then q else 0, sharers := if own then 0 else mkSharers [q], par := 0 }).sctr (sliceOf l) 0x25

/-- Adds a sharer to an entry; the home's own node is never entered. -/
def Coh.addDirSharer (c : Coh) (e : State) (k : Nat) (q : NodeId) : Coh :=
  if q.toNat = e.node then c
  else
    let r := (c.dirAt k).addSharer q
    (c.putDir k r.1).sctr (k / 16 / 2048) 0x26 r.2.toNat

/-- EX owner Q in an existing slot; where Q is the home, the entry is freed. -/
def Coh.ownDir (c : Coh) (e : State) (k : Nat) (l : LineAddr) (q : NodeId) : Coh :=
  if q.toNat = e.node then c.freeDir e k
  else c.putDir k { tag := dirTagOf l, st := dEX, fmt := false, ref := true, owner := q, sharers := 0, par := 0 }

/-- The entry loses its owner: SH of the sharers, or free. -/
def Coh.dropDirOwner (c : Coh) (e : State) (k : Nat) : Coh :=
  let x := c.dirAt k
  if x.st = dEX then c.freeDir e k else c.writeDir e k { x with st := dSH, owner := 0 }

/-! ### Writes toward memory -/

/-- Memory write of a gathered line at its home. -/
def Coh.writeBack (c : Coh) (l : LineAddr) (cl : CodeLine) : Coh := c.writeMem l cl

end Sys2Proof.Machine
end

