-- ==== Sys2Proof/Machine/CohHome.lean ====
section
/-! DEFINITION. The home directory: what a home does for the requests of Table 6.6, for requests of its own node (with
the home as requester), and when the answers are in (Tables 7.5 and 7.6). -/

namespace Sys2Proof.Machine
open Sys2Proof

/-! ### Atomics (Table 6.10) -/

/-- Operation codes of AOP (Table 11.2): 0 ADD, 1 SWAP, 2 CAS, 3 AND, 4 OR, 5 XOR, 6 SMAX, 7 SMIN, 8 UMAX, 9 UMIN. -/
def atomicSizes (aop : Nat) : List Nat := if aop = 2 then [2, 3, 4] else if aop ≤ 9 then [2, 3] else []

/-- New value of an atomic on `8 * bytes` bits. -/
def atomicResult (aop : Nat) (bits : Nat) (old operand compare : Nat) : Nat :=
  let m := 2 ^ bits
  let sgn := fun (x : Nat) => if x < m / 2 then (x : Int) else (x : Int) - (m : Int)
  match aop with
  | 0 => (old + operand) % m
  | 1 => operand % m
  | 2 => if old = compare % m then operand % m else old
  | 3 => Nat.land old (operand % m)
  | 4 => Nat.lor old (operand % m)
  | 5 => Nat.xor old (operand % m)
  | 6 => if sgn old < sgn (operand % m) then operand % m else old
  | 7 => if sgn (operand % m) < sgn old then operand % m else old
  | 8 => if old < operand % m then operand % m else old
  | 9 => if operand % m < old then operand % m else old
  | _ => old

/-- Outcome of an atomic on a line: the line after it, the old value, its marks, and whether it was performed (R223). -/
structure AtomOut where
  line : CodeLine
  old : BitVec 128
  marks : BitVec 2
  done : Bool
  deriving DecidableEq, Repr

def atomic (cl : CodeLine) (r : Req) : AtomOut :=
  let off := r.off.toNat
  let n := 2 ^ r.sz.toNat
  let old := (lineBytes cl).toNat >>> (8 * off) % 2 ^ (8 * n)
  let w := off / 8
  let k := linePoison cl
  let marks := BitVec.ofNat 2 ((k.getLsbD w).toNat + 2 * (decide (8 < n) && k.getLsbD (w + 1)).toNat)
  if marks ≠ 0 then { line := cl, old := BitVec.ofNat 128 old, marks := marks, done := false }
  else
    let new := atomicResult r.aop.toNat (8 * n) old r.operand.toNat r.compare.toNat
    { line := mergeLine cl (encodeLine (BitVec.ofNat 1024 (new <<< (8 * off))) 0) (byteRange off n)
      old := BitVec.ofNat 128 old, marks := 0, done := true }

/-- The contention predictor (R221): an atomic has reached the home slice. -/
def Coh.predict (c : Coh) (l : LineAddr) : Coh :=
  let s := (sliceOf l).val
  if c.hot.any (fun x => x.2.1 == l) then
    { c with hot := c.hot.map (fun x => if x.2.1 = l then (x.1, x.2.1, min 3 (x.2.2 + 1)) else x) }
  else
    let mine := c.hot.filter (fun x => x.1 == s)
    if mine.length < 32 then { c with hot := c.hot ++ [(s, l, 1)] }
    else
      let low := mine.foldl (fun m x => min m x.2.2) 3
      match takeFirst (fun x => x.1 == s && x.2.2 == low) c.hot with
      | some (_, rest) => { c with hot := rest ++ [(s, l, 1)] }
      | none => c

def Coh.isHot (c : Coh) (e : State) (l : LineAddr) : Bool :=
  let h := max 1 (e.rf F.GLB_ATOM_CFG.HOT)
  c.hot.any (fun x => x.2.1 == l && decide (h ≤ x.2.2))

/-! ### Answers to a requester node -/

def reqNodeId (e : State) (r : Req) : NodeId :=
  match r.src with
  | .node n _ _ => n
  | _ => BitVec.ofNat 9 e.node

def Req.remote (r : Req) : Bool := match r.src with | .node _ _ _ => true | _ => false

/-- A message of the home to its requester. -/
def Coh.toRequester (c : Coh) (e : State) (h : HomeTx) (opc : Nat) (f : StileHdr → StileHdr) (p : FabPayload) : Coh :=
  match h.req.src with
  | .node n k b =>
    c.sendNode e (f { opc := opc, dst := n.toNat, rqn := n.toNat, rtrk := k.toNat, htrk := h.htrk.toNat, bounded := b,
                      line := h.line }) p
  | _ => c

/-- FCmp with a status to a node that holds no lock at the home. -/
def Coh.cmpStatus (c : Coh) (e : State) (r : Req) (stat : Nat) : Coh :=
  c.toRequester e { line := r.line, ts := .ha, req := r } fCmp (fun h => { h with stat := stat }) .none

/-- A marked word consumed inside the device (R321, Table 10.5). -/
def Coh.consume (c : Coh) (e : State) (row : Nat) (r : Req) (marks : Nat) : Coh :=
  let who := match r.src with | .agent p => reqAgent p | .node _ _ _ => reqNode | _ => reqDevice
  let node := match r.src with | .node n _ _ => n.toNat | _ => e.node
  (c.ctr (ctrSel 7 0 (4 + row))).emit
    (.log 144 (sliceOf r.line) true (formA (saOf r.line) who marks node [row]))

def Coh.addHome (c : Coh) (h : HomeTx) : Coh := { c with homeTx := c.homeTx ++ [h], wake := true }

/-- Removes the home's tag and HELD Hamper copy (R244): the line where there was one, and whether it was modified with
respect to memory, which a copy of CLEAN by set and way that has not been written says too. -/
def Coh.dropHolders (c : Coh) (e : State) (l : LineAddr) : Option CodeLine × Bool × Coh :=
  match c.hamperOf l with
  | some h => (some h.cl, true, c.dropHeld l)
  | none =>
    match c.hitSlot e l with
    | some k =>
      let dirty := isMod (c.tag k).st || (c.anyHamper l).isSome
      let rd := c.readSlot e k
      (some rd.1, dirty, (rd.2.freeTag k).dropHeld l)
    | none =>
      match c.anyHamper l with
      | some h => (some h.cl, true, c.dropHeld l)
      | none => (none, false, c)

/-- The home's tag after another node became a sharer: E becomes S, M becomes O. -/
def Coh.shareTag (c : Coh) (e : State) (l : LineAddr) : Coh :=
  match c.hitSlot e l with
  | some k =>
    let st := (c.tag k).st
    if st = tE then c.setTag k (fun t => { t with st := tS })
    else if st = tM then c.setTag k (fun t => { t with st := tO }) else c
  | none => c

/-- A tag copy in M or O is written back and becomes E or S (R489). -/
def Coh.cleanTag (c : Coh) (e : State) (l : LineAddr) : Coh :=
  match c.hitSlot e l with
  | some k =>
    let st := (c.tag k).st
    if isMod st then
      let rd := c.readSlot e k
      (rd.2.writeBack l rd.1).setTag k (fun t => { t with st := if st = tM then tE else tS })
    else c
  | none => c

/-- Modified data gathered from an agent or an owner cleans a line homed here: memory takes it, and so does a tag copy,
which becomes clean (R489). -/
def Coh.cleanWith (c : Coh) (e : State) (l : LineAddr) (d : CodeLine) : Coh :=
  let c1 := c.writeBack l d
  match c1.hitSlot e l with
  | some k =>
    let st := (c1.tag k).st
    (c1.writeSlot e k d).setTag k (fun t => { t with st := if st = tM then tE else if st = tO then tS else st, poison := anyMark d })
  | none => c1

/-- Starts the snoops of the home's own agents for a home flow. -/
def Coh.snoopHome (c : Coh) (e : State) (l : LineAddr) (ps : List (Port × BitVec 6)) : Coh :=
  if ps.isEmpty then c else (c.setHome l (fun h => { h with snooping := true })).startFlow e l .home ps

/-- A bounded request of another node: every message of its flow goes in the bounded channel (R74, R201). -/
def Req.inBounded (r : Req) : Bool := match r.src with | .node _ _ b => b | .resow => r.bounded | _ => false

/-- A forward of the home to an owner (R204). -/
def Coh.forward (c : Coh) (e : State) (opc : Nat) (l : LineAddr) (n : NodeId) (h : HomeTx) (rtrk : BitVec 11)
    (inv : Bool) : Coh :=
  let b := h.req.inBounded
  let k := match h.req.src with | .node _ k _ => k | _ => rtrk
  (c.sendNode e { opc := opc, dst := n.toNat, rqn := (reqNodeId e h.req).toNat, rtrk := k.toNat,
                  htrk := h.htrk.toNat, bounded := b, line := l, ack := true, inv := inv } .none).sctr (sliceOf l) 0x29

def Coh.invalidate (c : Coh) (e : State) (l : LineAddr) (ns : List NodeId) (h : HomeTx) : Coh :=
  (c.toNodes e fInv l ns (fun m => { m with htrk := h.htrk.toNat, rqn := (reqNodeId e h.req).toNat, bounded := h.req.inBounded })).sctr
    (sliceOf l) 0x28 ns.length

def Coh.recall (c : Coh) (e : State) (l : LineAddr) (ns : List NodeId) (h : HomeTx) : Coh :=
  (c.toNodes e fRecall l ns (fun m => { m with htrk := h.htrk.toNat, rqn := (reqNodeId e h.req).toNat, bounded := h.req.inBounded })).sctr
    (sliceOf l) 0x27 ns.length

/-- The request asks for every other holder to go. -/
def Req.takesLine (r : Req) : Bool :=
  match r.op with
  | .rdU => true
  | .upg => true
  | .store => true
  | .wrH => true
  | .atm => true
  | .flush => true
  | _ => false

/-- Kind of home flow of Table 6.6. -/
inductive HomeRow where
  | rdS | rdU | upg | rdC | pf | flush | clean
  deriving DecidableEq, Repr

/-- Row of Table 6.6 for a request: a store of this node needs ownership, one of another node is an FWr. -/
def Req.row (r : Req) : HomeRow :=
  match r.op with
  | .rdU => .rdU
  | .upg => .upg
  | .rdC => .rdC
  | .prefetch => if r.remote then .pf else .rdS
  | .store => if r.remote then .flush else .rdU
  | .wrH => .rdU
  | .atm => if r.noAlloc then .flush else .rdU
  | .flush => .flush
  | .clean => .clean
  | _ => .rdS

/-- Opens the home flow of a request on an unlocked line. For a request of this node the caller holds its Txn, and
`rtrk` is the tracker that a line forwarded to this node will name. -/
def Coh.homeStart (c : Coh) (e : State) (r : Req) (rtrk : BitVec 11) : Coh :=
  let l := r.line
  let remote := r.remote
  let q := reqNodeId e r
  let allot := match r.src with
    | .node n _ b => r.allot || (b && decide (c.inUsed n.toNat < e.allotIn n.toNat))
    | _ => false
  let h0 : HomeTx := { line := l, ts := .ha, req := r, htrk := c.freeHtrk, allot := allot, snap := c.pressSnap l }
  let snf := c.snfOf l
  let dk := c.dirKeyOf l
  let owner := dk.bind (fun k => (c.dirAt k).ownerOf e)
  let sharers := match dk with | some k => (c.dirAt k).nodes e | none => []
  match r.row with
  | .rdS =>
    match dk, owner with
    | some k, some n =>
      let x := c.dirAt k
      let c1 := c.putDir k { x with st := dOW, owner := n, ref := true,
                                    fmt := if x.st = dEX then false else x.fmt,
                                    sharers := if x.st = dEX then 0 else x.sharers }
      let c2 := c1.addDirSharer e k q
      (c2.addHome { h0 with ts := .hf, fwdTo := some n, grant := 1 }).forward e fFwdS l n h0 rtrk false
    | some k, none =>
      let c1 := (c.addDirSharer e k q).addHome { h0 with grant := 1 }
      c1.snoopHome e l (if remote then ownerOnly snf opSnpS else [])
    | none, _ =>
      let held := (c.hitSlot e l).isSome || (c.hamperOf l).isSome || (match snf with | some x => x.pres != 0 | none => false)
      match c.takeDir e l with
      | (some k, c1) =>
        if held then
          (((c1.newDir k l q false).shareTag e l).addHome { h0 with grant := 1 }).snoopHome e l (ownerOnly snf opSnpS)
        else (c1.newDir k l q true).addHome { h0 with grant := 2 }
      | (none, c1) =>
        (c1.addHome { h0 with grant := 1, uo := true }).snoopHome e l (ownerOnly snf opSnpS)
  | .rdC =>
    match owner with
    | some n => (c.addHome { h0 with ts := .hf, fwdTo := some n, grant := 0, uo := true }).forward e fFwdC l n h0 rtrk false
    | none => (c.addHome { h0 with grant := 0, uo := true, ackF := false }).snoopHome e l (ownerOnly snf opSnpC)
  | .pf =>
    match dk, owner with
    | some _, some _ => c.toRequester e h0 fDecl id .none
    | some k, none =>
      if (snf.bind SnfEntry.owner).isSome then c.toRequester e h0 fDecl id .none
      else (c.addDirSharer e k q).addHome { h0 with grant := 1 }
    | none, _ =>
      if (snf.bind SnfEntry.owner).isSome then c.toRequester e h0 fDecl id .none
      else
        match c.takeDir e l with
        | (some k, c1) => ((c1.newDir k l q false).shareTag e l).addHome { h0 with grant := 1 }
        | (none, c1) => c1.toRequester e h0 fDecl id .none
  | .clean =>
    match dk, owner with
    | some k, some n =>
      if n = q then
        ((c.addHome h0).cleanTag e l).snoopHome e l (if remote then ownerOnly snf opSnpU else [])
      else
        let c1 := (c.dropDirOwner e k).addHome { h0 with recalls := [n] }
        ((c1.recall e l [n] h0).cleanTag e l).snoopHome e l (if remote then ownerOnly snf opSnpU else [])
    | _, _ => ((c.addHome h0).cleanTag e l).snoopHome e l (if remote then ownerOnly snf opSnpU else [])
  | .flush =>
    let d := if remote then c.dropHolders e l else (none, false, c)
    let c1 := match dk with | some k => d.2.2.freeDir e k | none => d.2.2
    let rs := owner.toList
    let is := sharers.filter (fun n => !rs.contains n)
    let c2 := c1.addHome { h0 with invs := is, recalls := rs, data := d.1, dirty := d.2.1 }
    ((c2.recall e l rs h0).invalidate e l is h0).snoopHome e l (if remote then allNamed snf opSnpU else [])
  | row =>
    -- FRdU and FUpg
    let exactQ := match dk with
      | some k => !(c.dirAt k).fmt && (c.dirAt k).st != dEX && (sharerPtrs (c.dirAt k).sharers).contains q
      | none => false
    let ownQ := match dk with
      | some k => (c.dirAt k).st == dOW && (c.dirAt k).owner == q
      | none => false
    -- an upgrade of this node whose agent is named stands like a listed sharer
    let localQ := !remote && (match snf, r.src with | some x, .agent p => x.named p | _, _ => false)
    let listed := row = .upg && (exactQ || ownQ || localQ)
    let d := if remote then c.dropHolders e l else (none, false, c)
    let snoops := if remote then allNamed snf opSnpU else []
    let others := sharers.filter (fun n => n != q)
    match owner, dk with
    | some n, some k =>
      if listed && (c.dirAt k).st = dOW then
        -- Q owner, or Q a sharer: invalidations only, grant M
        let is := if ownQ then others else n :: others.filter (fun m => m != n)
        let c1 := (d.2.2.ownDir e k l q).addHome { h0 with invs := is, cmpOnly := true, grant := 3, data := none, dirty := true }
        (c1.invalidate e l is h0).snoopHome e l snoops
      else
        let is := others.filter (fun m => m != n)
        let c1 := (d.2.2.ownDir e k l q).addHome
          { h0 with ts := .hf, fwdTo := some n, grant := 2, invs := is, cmpAtAcks := !is.isEmpty, invFlag := !is.isEmpty }
        ((c1.forward e fFwdU l n h0 rtrk (!is.isEmpty)).invalidate e l is h0).snoopHome e l snoops
    | _, some k =>
      let c1 := (d.2.2.ownDir e k l q).addHome
        { h0 with invs := others, cmpOnly := listed, grant := if d.2.1 then 3 else 2, data := d.1, dirty := d.2.1 }
      (c1.invalidate e l others h0).snoopHome e l snoops
    | _, none =>
      if !remote then c.addHome { h0 with grant := 2 }
      else
        match d.2.2.takeDir e l with
        | (some k, c1) =>
          ((c1.newDir k l q true).addHome { h0 with grant := 2, data := d.1, dirty := d.2.1 }).snoopHome e l snoops
        | (none, c1) =>
          (c1.addHome { h0 with grant := 2, data := d.1, dirty := d.2.1, uo := true }).snoopHome e l snoops

/-! ### Completion of a home flow -/

/-- Every answer that HA or HF waits for is in. -/
def HomeTx.settled (h : HomeTx) : Bool :=
  h.invs.isEmpty && h.recalls.isEmpty && h.due.isEmpty && !h.snooping && !h.reading

/-- GRANT of the home's answer: FRdU and FUpg grant M where the line gathered was modified. -/
def HomeTx.finalGrant (h : HomeTx) : Nat :=
  if (h.req.row = .rdU ∨ h.req.row = .upg) ∧ h.dirty then 3 else h.grant.toNat

/-- Gives a flow of this node's own request back to its Txn. Ownership of a line that memory does not hold makes a tag copy M
(R202). -/
def Coh.homeLocal (c : Coh) (e : State) (h : HomeTx) : Coh :=
  let c1 := if h.finalGrant = 3 then
      (match c.hitSlot e h.line with | some k => c.setTag k (fun t => { t with st := tM }) | none => c)
    else c
  (c1.dropHome h.line).setTxn h.line (fun t =>
    { t with
      phase := .ready, permitted := true, grant := BitVec.ofNat 2 h.finalGrant
      data := match h.data with | some d => some d | none => t.data
      dirty := t.dirty || h.dirty })

/-- The line that the home sends: from what was gathered, the Hamper, the tag or memory. -/
def Coh.homeFetch (c : Coh) (e : State) (h : HomeTx) : Coh :=
  let put := fun (c : Coh) (d : CodeLine) => (c.setHome h.line (fun h => { h with data := some d })).woken
  let cls : BitVec 2 := if h.req.inBounded then 0 else 2
  match c.anyHamper h.line with
  | some x => put c x.cl
  | none =>
    match c.hitSlot e h.line with
    | some k => (c.setHome h.line (fun h => { h with reading := true })).queueSlot e k h.line .home cls h.allot
    | none => (c.setHome h.line (fun h => { h with reading := true })).queueMem h.line .home cls h.allot

/-- Acts when every answer is in (Table 7.5). -/
def Coh.homeFinish (c : Coh) (e : State) (h : HomeTx) : Coh :=
  let l := h.line
  if !h.req.remote then
    match h.req.row, h.data with
    | .clean, some d => ((if h.dirty then c.cleanWith e l d else c)).homeLocal e { h with data := none, dirty := false }
    | _, _ => c.homeLocal e h
  else
    match h.req.row with
    | .flush =>
      match h.req.op with
      | .store =>
        let base := match h.data with
          | some d => (d, c)
          | none => if h.req.mask = fullMask then (h.req.cl, c) else c.readMem e l
        let c1 := base.2.writeBack l (mergeLine base.1 h.req.cl h.req.mask)
        (c1.toRequester e h fCmp id .none).dropHome l
      | .atm =>
        let base := match h.data with | some d => (d, c) | none => c.readMem e l
        let o := atomic base.1 h.req
        let c1 := if o.done || h.dirty then base.2.writeBack l o.line else base.2
        let c2 := if o.done then c1.sctr (sliceOf l) 0x2C else (c1.sctr (sliceOf l) 0x2D).consume e 0 h.req o.marks.toNat
        (c2.toRequester e h fCmp id (if h.req.nr then .none else .value o.old o.marks)).dropHome l
      | _ =>
        let c1 := match h.data with | some d => if h.dirty then c.writeBack l d else c | none => c
        (c1.toRequester e h fCmp id .none).dropHome l
    | .clean =>
      let c1 := match h.data with | some d => if h.dirty then c.cleanWith e l d else c | none => c
      (c1.toRequester e h fCmp id .none).dropHome l
    | row =>
      if h.cmpOnly then
        (c.toRequester e h fCmp (fun m => { m with grant := h.finalGrant }) .none).setHome l (fun h => { h with ts := .hc, since := none })
      else
        match h.data with
        | none => c.homeFetch e h
        | some d =>
          let cl := if row = .rdC then overSnap h.snap d else d
          let c1 := c.toRequester e h fData
            (fun m => { m with grant := h.finalGrant, uo := h.uo, ack := h.ackF && !(h.uo && row != .rdS && row != .rdC), inv := h.invFlag }) (.line cl)
          if row = .rdC ∧ !h.ackF then c1.dropHome l
          else c1.setHome l (fun h => { h with ts := if h.uo && row != .rdS && row != .rdC then .hu else .hc,
                                               data := none, since := none })

/-- One look at a home flow: acts where nothing is awaited. -/
def Coh.homeProgress (c : Coh) (e : State) (h : HomeTx) : Coh :=
  if !h.settled then c
  else
    match h.ts with
    | .ha => c.homeFinish e h
    | .hr => (c.dropHome h.line).soleTag e h.line
    | .hf =>
      if h.missed then
        -- R205: served by the home with the grant the entry held before the forward allowed; the FCmp of INV goes too (R238)
        let c1 := (c.setHome h.line (fun h => { h with ts := .ha, cmpAtAcks := false, fwdTo := none })).woken
        if h.cmpAtAcks && h.req.remote then c1.toRequester e h fCmp (fun m => { m with grant := h.grant.toNat }) .none else c1
      else if !h.req.remote then
        if h.data.isSome then c.homeLocal e h else c
      else if h.cmpAtAcks then
        (c.setHome h.line (fun h => { h with cmpAtAcks := false })).toRequester e h fCmp
          (fun m => { m with grant := h.grant.toNat }) .none
      else c
    | .hc => c
    | .hu => c

/-! ### Messages at the home (Table 7.6) -/

def Coh.homeErr (c : Coh) (e : State) (h : FabHdr) (opc : Nat) : Coh :=
  let st := match c.homeTxOf h.line with
    | some t => (match t.ts with | .ha => 1 | .hf => 2 | .hc => 3 | .hr => 4 | .hu => 5)
    | none => 0
  c.protoErr e h.line reqNode h.src.toNat opc st

/-- FInvAck at the home: R215 takes an exact sharer out where the entry still names it. -/
def Coh.recvInvAck (c : Coh) (e : State) (h : FabHdr) : Coh :=
  match c.homeTxOf h.line with
  | some t =>
    if t.invs.contains h.src then
      (c.setHome h.line (fun t => { t with invs := t.invs.filter (fun n => n != h.src) })).woken
    else c.homeErr e h fInvAck
  | none => c.homeErr e h fInvAck

/-- FRecallAck with its count of data messages (R241). -/
def Coh.recvRecallAck (c : Coh) (e : State) (h : FabHdr) (n : Nat) : Coh :=
  match c.homeTxOf h.line with
  | some t =>
    if t.recalls.contains h.src then
      (c.setHome h.line (fun t => { t with
        recalls := t.recalls.filter (fun m => m != h.src)
        due := if n = 0 || t.early.contains h.src then t.due else t.due ++ [h.src]
        early := t.early.filter (fun m => m != h.src) })).woken
    else c.homeErr e h fRecallAck
  | none => c.homeErr e h fRecallAck

/-- A recall answer from the node is still awaited: its FRecallAck, or the FRecallData that it counted. -/
def HomeTx.awaits (t : HomeTx) (x : NodeId) : Bool := t.recalls.contains x || t.due.contains x

/-- Dirty data of a recalled node, taken once (R247). -/
def Coh.takeDirty (c : Coh) (t : HomeTx) (x : NodeId) (cl : CodeLine) : Coh :=
  if t.taken.contains x then c.sctr (sliceOf t.line) 0x33
  else
    let c1 := c.setHome t.line (fun t => { t with taken := t.taken ++ [x], data := some cl, dirty := true })
    if t.ts = .hr then c1.writeBack t.line cl else c1

def Coh.recvRecallData (c : Coh) (e : State) (h : FabHdr) (cl : CodeLine) : Coh :=
  match c.homeTxOf h.line with
  | some t =>
    if (t.ts = .ha ∨ t.ts = .hr) ∧ t.awaits h.src ∧ !t.early.contains h.src then
      let a := c.arrive h.line cl
      ((a.2.takeDirty t h.src a.1).setHome h.line (fun t =>
        if t.due.contains h.src then { t with due := t.due.filter (fun m => m != h.src) }
        else { t with early := t.early ++ [h.src] })).woken
    else c.homeErr e h fRecallData
  | none => c.homeErr e h fRecallData

/-- FFwdMiss: the home serves the requester (R205). -/
def Coh.recvFwdMiss (c : Coh) (e : State) (h : FabHdr) : Coh :=
  match c.homeTxOf h.line with
  | some t =>
    if t.ts = .hf ∧ t.fwdTo = some h.src ∧ !t.missed then
      ((c.setHome h.line (fun t => { t with missed := true })).sctr (sliceOf h.line) 0x2A).woken
    else c.homeErr e h fFwdMiss
  | none => c.homeErr e h fFwdMiss

/-- FCmpAck unlocks HC and, once every FInvAck is in, HF (R245, R246). -/
def Coh.recvCmpAck (c : Coh) (e : State) (h : FabHdr) : Coh :=
  match c.homeTxOf h.line with
  | some t =>
    if (t.ts = .hc ∨ (t.ts = .hf ∧ t.invs = [] ∧ !t.missed)) ∧ reqNodeId e t.req = h.src ∧ t.req.remote then c.dropHome h.line
    else c.homeErr e h fCmpAck
  | none => c.homeErr e h fCmpAck

def Coh.wbAck (c : Coh) (e : State) (h : FabHdr) (fwd : Bool) : Coh :=
  (c.sendNode e { opc := fWbAck, dst := h.src.toNat, rqn := h.rqn.toNat, rtrk := h.rtrk.toNat, line := h.line, fwd := fwd }
    .none).sctr (sliceOf h.line) 0x31 fwd.toNat

/-- FWb column of Table 6.6 on the entry as written; R208 discards what no entry explains. -/
def Coh.fwbColumn (c : Coh) (e : State) (h : FabHdr) (cl : CodeLine) (keep : Bool) : Coh :=
  let l := h.line
  match c.dirKeyOf l with
  | none => (c.sctr (sliceOf l) 0x32).wbAck e h false
  | some k =>
    let x := c.dirAt k
    if x.st = dEX ∧ x.owner = h.src then
      let c1 := c.writeBack l cl
      (if keep then c1 else c1.freeDir e k).wbAck e h false
    else if x.st = dOW ∧ x.owner = h.src then
      let c1 := c.writeBack l cl
      let y := if keep then (x.addSharer h.src).1 else x
      (c1.writeDir e k { y with st := dSH, owner := 0 }).wbAck e h false
    else (c.sctr (sliceOf l) 0x32).wbAck e h false

/-- FWb at the home in every column of Table 7.6. -/
def Coh.recvFWb (c : Coh) (e : State) (h : FabHdr) (cl : CodeLine) (keep : Bool) : Coh :=
  match c.homeTxOf h.line with
  | none => c.fwbColumn e h cl keep
  | some t =>
    let names := match c.dirOf h.line with | some x => x.st != dSH && x.owner == h.src | none => false
    match t.ts with
    | .hu =>
      if reqNodeId e t.req = h.src then ((c.writeBack h.line cl).wbAck e h false).dropHome h.line
      else (c.sctr (sliceOf h.line) 0x32).wbAck e h false
    | .hf =>
      if t.fwdTo = some h.src ∧ !names then c.wbAck e h true else c.fwbColumn e h cl keep
    | .hc => c.fwbColumn e h cl keep
    | _ =>
      if t.awaits h.src then ((c.takeDirty t h.src cl).wbAck e h false).woken
      else c.fwbColumn e h cl keep

/-- FEv column of Table 6.6 (R248). -/
def Coh.fevColumn (c : Coh) (e : State) (h : FabHdr) (fwd : Bool) : Coh :=
  match c.dirKeyOf h.line with
  | none => c.wbAck e h fwd
  | some k =>
    let x := c.dirAt k
    if x.st = dSH then (c.writeDir e k (x.dropSharer h.src)).wbAck e h fwd
    else if x.owner = h.src then (c.dropDirOwner e k).wbAck e h fwd
    else if x.st = dOW then (c.putDir k (x.dropSharer h.src)).wbAck e h fwd
    else c.wbAck e h fwd

/-- FEv at the home in every column of Table 7.6. -/
def Coh.recvFEv (c : Coh) (e : State) (h : FabHdr) : Coh :=
  match c.homeTxOf h.line with
  | some t =>
    let exNames := match c.dirOf h.line with | some x => x.st == dEX && x.owner == h.src | none => false
    c.fevColumn e h (t.ts == .hf && t.fwdTo == some h.src && exNames)
  | none => c.fevColumn e h false

/-! ### Directory set recall (R218) -/

/-- Starts the recall of a directory set whose entry has lost its parity. -/
def Coh.recallSetStart (c : Coh) (e : State) (s set : Nat) : Coh :=
  let ns := ((List.range 512).filter (fun n => e.inFabric n && n != e.node && !e.deadNodes.contains n)).map (BitVec.ofNat 9)
  let ht := c.freeHtrk
  let l := BitVec.ofNat 45 (s + 32 * set)
  let c1 := { c with lockedDir := addSet c.lockedDir (s * 2048 + set),
                     setRecalls := c.setRecalls ++ [{ slice := Fin.ofNat 32 s, set := set, await := ns, htrk := ht }],
                     wake := true }
  ns.foldl (fun c n => c.sendNode e { opc := fRecallSet, dst := n.toNat, line := l, htrk := ht.toNat } .none) c1

/-- Finishes a set recall when every answer is in: the set's entries are freed, EV097. -/
def Coh.recallSetEnd (c : Coh) (e : State) (r : SetRecall) : Coh :=
  if r.await = [] ∧ r.dataLeft = [] then
    let s := r.slice.val
    let keys := (List.range 16).map (dirKey s r.set)
    let c1 := keys.foldl (fun c k => { c with dir := Sparse.set (fun _ => dirFree) c.dir k dirFree }) c
    let ls := (c1.tags.filter (fun x => isValid x.2.st && slotSlice x.1 == s)).map (fun x => c1.slotLineAddr e x.1)
    let c2 := (ls.filter (fun l => e.isHome l && dirSetIdx l == r.set)).foldl (fun c l => c.soleTag e l) c1
    ({ c2 with setRecalls := c1.setRecalls.filter (fun x => x.htrk != r.htrk),
               lockedDir := c1.lockedDir.filter (fun x => x != s * 2048 + r.set), wake := true } : Coh).emits
      [.regBit (Reg.DIR_ERR s) 0, .regFld (Reg.DIR_ERR s) 16 11 r.set,
       .log 97 s true (formASlot none reqDevice 0 0 s r.set 0)]
  else c

/-- A node's balance of counted and received data. -/
def SetRecall.bump (r : SetRecall) (n : NodeId) (k : Int) : SetRecall :=
  let v := (match r.dataLeft.find? (fun x => x.1 == n) with | some x => x.2 | none => 0) + k
  let rest := r.dataLeft.filter (fun x => x.1 != n)
  { r with dataLeft := if v = 0 then rest else rest ++ [(n, v)] }

def Coh.setRecallAck (c : Coh) (htrk : BitVec 11) (n : NodeId) (k : Nat) : Coh :=
  { c with setRecalls := c.setRecalls.map (fun r =>
      if r.htrk = htrk then { r.bump n k with await := r.await.filter (fun m => m != n) } else r), wake := true }

/-- FRecallData of a set recall goes to memory. -/
def Coh.setRecallData (c : Coh) (htrk : BitVec 11) (n : NodeId) (l : LineAddr) (cl : CodeLine) : Coh :=
  let a := c.arrive l cl
  let c1 := a.2.writeBack l a.1
  { c1 with setRecalls := c1.setRecalls.map (fun r => if r.htrk = htrk then r.bump n (-1) else r), wake := true }

end Sys2Proof.Machine
end

