-- ==== Sys2Proof/Machine/CohNode.lean ====
section
/-! DEFINITION. A node toward the fabric: what it answers to forwards, invalidations and recalls (Tables 7.3 and 7.12), and
what it does with responses (Table 7.4). -/

namespace Sys2Proof.Machine
open Sys2Proof

/-! ### Responses to agents -/

def cmpMsg (tag : Tag) (grant stat : Nat) : AgentMsg :=
  { opc := opCmp, tag := tag, grant := BitVec.ofNat 2 grant, stat := BitVec.ofNat 4 stat }

def dataMsg (tag : Tag) (grant : Nat) (uo : Bool) (l : LineAddr) (cl : CodeLine) : AgentMsg :=
  { opc := opData, tag := tag, grant := BitVec.ofNat 2 grant, uo := uo, addr := saOf l, bytes := lineBytes cl,
    poison := linePoison cl }

/-- R343: a read of 2^SZ bytes carries its bytes at their offsets, every other byte 0. -/
def partMsg (r : Req) (cl : CodeLine) : AgentMsg :=
  let n := 2 ^ r.sz.toNat
  { opc := opData, tag := r.tag, addr := saOf r.line, bytes := bytesAt (lineBytes cl) r.off.toNat n,
    poison := poisonAt (linePoison cl) r.off.toNat n }

/-- The point of Table 8.1 of a request with one. -/
def Coh.pointOf (c : Coh) (r : Req) : Coh :=
  match r.src with
  | .agent p => c.emit (.point p r.point)
  | .pwq p _ => c.emit (.point p r.point)
  | _ => c

/-- The stores in an entry are visible: their points are reached. -/
def PressEntry.show (p : PressEntry) : List Fx := p.visible.map (fun x => Fx.point x.1 x.2)

/-- Ends a request with an error status (R31, R232, R242). -/
def Coh.failReq (c : Coh) (r : Req) (stat : Nat) : Coh :=
  match r.src with
  | .agent p =>
    if (r.op = .store ∨ r.op = .wrH) ∧ r.posted then (c.pointOf r).emit (.postedEnd p r.point false)
    else (c.pointOf r).emit (.respond p (cmpMsg r.tag 0 stat))
  | .pwq _ _ => c.pointOf r
  | .drill p => c.emit (.prefetchEnd p r.line false false true)
  | .resow => c.emit (.resowEnd r.line false)
  | .walk p w => c.emit (.walkData p w r.point (BitVec.ofNat 4 stat) 0 false)
  | .mnt => c.emit (.mntLine r.line)
  | _ => c

/-- A prefetch or a resowing read ends without a fill of its own. -/
def Coh.prefetchNone (c : Coh) (r : Req) : Coh :=
  match r.src with
  | .drill p => c.emit (.prefetchEnd p r.line false false false)
  | .resow => c.emit (.resowEnd r.line false)
  | _ => c

/-- Prefetches that joined a holder after it was served, or one that fills nothing, complete with it (Table 5.2). -/
def Coh.endJoined (c : Coh) (t : Txn) : Coh := t.joined.foldl Coh.prefetchNone c

/-- Stores that waited for their home's acknowledgement complete: responses of the non-posted, promises of the posted. -/
def Coh.storesDone (c : Coh) (ws : List StoreWait) (stat : Nat) : Coh :=
  ws.foldl (fun (c : Coh) (w : StoreWait) =>
    if w.posted then c.emit (.postedEnd w.port w.point false) else c.emit (.respond w.port (cmpMsg w.tag 0 stat))) c

/-- Ends the request in service with an error status; its fill ends without an install. -/
def Coh.failTxn (c : Coh) (l : LineAddr) (stat : Nat) : Coh :=
  match c.txnOf l with
  | none => c
  | some t =>
    let c1 := match t.slot with
      | some k => if (c.tag k).st = tF then c.freeTag k else c
      | none => c
    let c2 := t.joined.foldl (fun c r => c.failReq r stat) (c1.failReq t.req stat)
    let c3 := match t.req.src, c2.pressOf l with
      | .press, some p =>
        ((c2.emits p.show).storesDone p.waiters stat).dropPress l
      | _, _ => c2
    c3.dropTxn l

/-! ### Answers to forwards, invalidations and recalls -/

/-- Stores of the entry complete with the home's acknowledgement (R123): write-through, UC or DEV lines of other homes. -/
def PressEntry.homeAcked (p : PressEntry) (e : State) : Bool :=
  !e.isHome p.line && (p.policy == pWT || p.policy == pUC || p.policy == pDEV)
/-- Such an entry of stores alone: the home orders them (Table 8.1), and no observer reads its bytes before (R261), so that it
needs no permission of this node; one that took an agent write-back holds the node's own copy. -/
def PressEntry.homeWrite (p : PressEntry) (e : State) : Bool := !p.wb && p.homeAcked e

/-- Bytes of an entry that stand in an answered line (R490). -/
def Coh.answerOverlay (c : Coh) (e : State) (l : LineAddr) : CodeLine × ByteMask :=
  match c.pressVisible l with
  | some p => if p.homeWrite e then (0, 0) else (p.cl, p.mask)
  | none => (0, 0)

/-- A slot that a drain has reserved for its line. -/
def DrainTo.slot : DrainTo → Option Nat
  | .cache k => some k
  | .cacheAndMem k => some k
  | .cacheAndRemote k => some k
  | _ => Option.none

/-- The OWNED or DRAINING entry of a line is freed with no further drain, and a slot it has reserved too (R490). -/
def Coh.voidPress (c : Coh) (e : State) (l : LineAddr) : Coh :=
  match c.pressVisible l with
  | some p =>
    if p.homeWrite e then c
    else
      let c1 := match p.drain.slot with
        | some k => if (c.tag k).st = tF ∧ (c.tag k).tag = tagOf e.sets l then c.freeTag k else c
        | none => c
      ((c1.emits p.show).storesDone p.waiters 0).dropPress l
  | none => c

/-- The node keeps no copy: tag, HELD Hamper entry, fill in progress, snoop filter entry and Press entry go. -/
def Coh.dropNodeCopy (c : Coh) (e : State) (l : LineAddr) : Coh :=
  let c1 := match c.hitSlot e l with | some k => c.freeTag k | none => c.dropInstall l
  let c2 : Coh := { c1.dropHeld l with agentWbs := c1.agentWbs.filter (fun w => w.line != l) }
  let c3 : Coh := match c2.snfKeyOf l with | some k => c2.clearSnf k | none => c2
  let c4 := (c3.setTxn l (fun t => { t with grant := 0 })).voidPress e l
  c4.setNode l (fun t => if t.ts = .sm ∨ t.ts = .om then { t with ts := .im } else { t with keepSt := 0 })

def Coh.toHomeNode (c : Coh) (e : State) (h : FabHdr) (opc : Nat) (f : StileHdr → StileHdr) (p : FabPayload) : Coh :=
  c.sendNode e (f { opc := opc, dst := h.src.toNat, rqn := h.rqn.toNat, rtrk := h.rtrk.toNat, htrk := h.htrk.toNat,
                    bounded := h.bounded, line := h.line }) p

/-- FData of an owner straight to the requester. -/
def Coh.ownerData (c : Coh) (e : State) (h : FabHdr) (grant : Nat) (uo ackF inv : Bool) (cl : CodeLine) : Coh :=
  c.sendNode e { opc := fData, dst := h.rqn.toNat, rqn := h.rqn.toNat, rtrk := h.rtrk.toNat, htrk := h.htrk.toNat,
                 bounded := h.bounded, line := h.line, grant := grant, uo := uo, ack := ackF, inv := inv } (.line cl)

/-- The answer a unit in state I gives. -/
def Coh.answerI (c : Coh) (e : State) (msg : Fin 5) (h : FabHdr) : Coh :=
  if msg.val ≤ 2 then c.toHomeNode e h fFwdMiss id .none
  else if msg.val = 3 then c.toHomeNode e h fInvAck id .none
  else c.toHomeNode e h fRecallAck id .none

/-- A record of the line toward its home ends; a register-driven INVAL that waits for it completes (R149). -/
def Coh.endNode (c : Coh) (l : LineAddr) : Coh :=
  let c1 := match c.nodeTxOf l with | some t => if t.mnt then c.emit (.mntLine l) else c | none => c
  c1.dropNode l

/-- A forward has been served or answered in WB or EV (R240). -/
def Coh.markAnswered (c : Coh) (l : LineAddr) : Coh := c.setNode l (fun t => { t with answered := true })

/-- Where the line of an answer comes from (R239). -/
inductive Source where
  | line (cl : CodeLine) (modified : Bool)
  | slot (k : Nat) (modified : Bool)
  | absent
  deriving DecidableEq, Repr

/-- Some copy of the node, an agent's answer apart, is modified (R239): a tag or a fill in O or M, a Hamper entry, bytes of a
Press entry, a write-back on its way to one. `held` is the Hamper's line as the message met it. -/
def Coh.modifiedHere (c : Coh) (e : State) (l : LineAddr) (held : Option CodeLine) : Bool :=
  (match c.hitSlot e l with | some k => isMod (c.tag k).st | none => false) ||
  (match c.txnOf l with | some t => isMod t.install | none => false) ||
  (c.anyHamper l).isSome || held.isSome || (c.answerOverlay e l).2 != 0 || c.agentWbs.any (fun w => w.line == l)

/-- Gathering after the agents have answered: the agent's data, else what an agent has returned before, the Hamper, the tag,
the fill's data, and the line under a Press entry. A dirty answer was taken from the Press entry or later, so that its bytes
are the newer (R128). -/
def Coh.gather (c : Coh) (e : State) (l : LineAddr) (data : Option CodeLine) (dirty : Bool) (held : Option CodeLine) : Source :=
  let o := c.answerOverlay e l
  let ov := fun (cl : CodeLine) => mergePress cl o.1 o.2
  let m := c.modifiedHere e l held
  match data, c.agentWbs.find? (fun w => w.line == l) with
  | some d, _ => if dirty then .line d true else .line (ov d) m
  | none, some w => .line w.cl true
  | none, none =>
    match c.anyHamper l with
    | some h => .line (ov h.cl) true
    | none =>
      match c.hitSlot e l with
      | some k => .slot k m
      | none =>
        let fill := match c.txnOf l with
          | some t => if t.install ≠ 0 then t.data else none
          | none => none
        match (match fill with | some x => some x | none => held) with
        | some x => .line (ov x) m
        | none =>
          match c.pressVisible l with
          | some p => if p.homeWrite e then .absent
              else if p.mask = fullMask then .line p.cl true
              else (match p.under with | some u => .line (ov u) true | none => .absent)
          | none => .absent

/-- Answers a forward, invalidation or recall when every agent answer is in. `ns` is the node state the message met. -/
def Coh.answerDone (c : Coh) (e : State) (msg : Fin 5) (h : FabHdr) (ackF inv : Bool) (ns : BitVec 3)
    (data : Option CodeLine) (dirty : Bool) (held : Option CodeLine) : Coh :=
  let l := h.line
  let o := c.answerOverlay e l
  let cls : BitVec 2 := if h.bounded then 0 else 2
  let src := c.gather e l data dirty held
  -- a line in M or O with no data anywhere is lost; one in S or E is answered as absent (R206, R493); FInv asks for no data
  let lost : Bool := src = .absent ∧ isMod ns ∧ msg.val ≠ 3
  let c := if lost then c.lostData e l else c
  let src := if lost then Source.line lostLine true else src
  if msg.val ≤ 2 then
    match src with
    | .absent =>
      let c1 := c.answerI e msg h
      let ports := match c1.snfOf l with | some x => x.ports.map (fun p => (p, opSnpU)) | none => []
      let c2 := c1.markAnswered l
      (if ports.isEmpty then c2 else c2.startFlow e l (.backInv 0) ports).dropNodeCopy e l
    | _ =>
      let modified := match src with | .line _ m => m | .slot _ m => m | .absent => false
      let grant := if msg.val = 0 then 1 else if msg.val = 2 then 0 else if modified then 3 else 2
      let uo := msg.val = 2
      let c1 : Coh := match src with
        | .line cl _ => c.ownerData e h grant uo ackF inv cl
        | .slot k _ => c.queueSlot e k l (.toNode h.rqn h.rtrk h.htrk h.bounded (BitVec.ofNat 2 grant) uo ackF inv o.1 o.2) cls
        | .absent => c
      let c2 := c1.markAnswered l
      if msg.val = 0 then
        let c3 : Coh := match c2.nodeTxOf l with
          | some t => if t.ts = .wb then c2.setNode l (fun t => { t with keepSt := if t.keepSt = 0 then 0 else tS }) else c2
          | none => c2
        let c4 : Coh := if ns = tE ∨ ns = tM then c3.setNodeState e l tO else c3
        c4.setPress l (fun p => if p.st = .owned ∧ !p.homeWrite e then { p with st := .draining, drain := .none } else p)
      else if msg.val = 1 then
        let c3 := c2.dropNodeCopy e l
        match c3.nodeTxOf l with
        | some t => if t.ts = .wf then (c3.dropHamper l).endNode l else c3
        | none => c3
      else c2
  else if msg.val = 3 then (c.dropNodeCopy e l).toHomeNode e h fInvAck id .none
  else
    let modified := match src with | .line _ m => m | .slot _ m => m | .absent => false
    match modified, src with
    | true, .line cl _ =>
      (((c.dropNodeCopy e l).toHomeNode e h fRecallData id (.line cl)).toHomeNode e h fRecallAck
        (fun m => { m with count := 1 }) .none)
    | true, .slot k _ => (c.queueSlot e k l (.recall h o.1 o.2) cls).dropNodeCopy e l
    | _, _ => (c.dropNodeCopy e l).toHomeNode e h fRecallAck id .none

/-- Snoops for an answer, then the answer (R239). -/
def Coh.answer (c : Coh) (e : State) (msg : Fin 5) (h : FabHdr) (ackF inv : Bool) (ns : BitVec 3) : Coh :=
  let x := c.snfOf h.line
  let ps := if msg.val = 0 then ownerOnly x opSnpS else if msg.val = 2 then ownerOnly x opSnpC else allNamed x opSnpU
  let held := (c.anyHamper h.line).map HamperEntry.cl
  if ps.isEmpty then c.answerDone e msg h ackF inv ns none false held
  else
    let c1 := c.startFlow e h.line (.answer msg h ackF inv ns) ps
    { c1 with flows := c1.flows.map (fun f => if f.id = c.nextFlow then { f with held := held } else f) }

/-- Invalidates the agents of a line the node holds in S and answers as in state I (row S, and SM). -/
def Coh.answerShared (c : Coh) (e : State) (msg : Fin 5) (h : FabHdr) : Coh :=
  if msg.val = 0 ∨ msg.val = 2 then c.answerI e msg h
  else
    let ps := allNamed (c.snfOf h.line) opSnpU
    if ps.isEmpty then (c.dropNodeCopy e h.line).answerI e msg h
    else c.startFlow e h.line (.answer msg h false false tS) ps

/-- Error cell for a SNP-class message (R234). -/
def Coh.snpErr (c : Coh) (e : State) (msg : Fin 5) (h : FabHdr) (st : Nat) : Coh :=
  (c.protoErr e h.line reqNode h.src.toNat (fFwdS + msg.val) st).answerI e msg h

/-- Table 7.3: messages 0 FFwdS, 1 FFwdU, 2 FFwdC, 3 FInv, 4 FRecall at a node. -/
def Coh.recvSnp (c : Coh) (e : State) (msg : Fin 5) (h : FabHdr) (ackF inv : Bool) : Coh :=
  let l := h.line
  match c.nodeTxOf l with
  | none =>
    let ns := c.nodeState e l
    if ns = tS then c.answerShared e msg h
    else if ns = tE ∨ ns = tM then
      (if msg.val = 3 then c.snpErr e msg h (48 + ns.toNat) else c.answer e msg h ackF inv ns)
    else if ns = tO then c.answer e msg h ackF inv ns
    else c.answerI e msg h
  | some t =>
    match t.ts with
    | .is_ => c.answerI e msg h
    | .ic => c.answerI e msg h
    | .ip => c.answerI e msg h
    | .im => c.answerI e msg h
    | .ima => c.answerI e msg h
    | .sm => c.answerShared e msg h
    | .om => c.answer e msg h ackF inv tO
    | .wb => c.answer e msg h ackF inv tM
    | .wf => if msg.val = 1 ∨ msg.val = 4 then c.answer e msg h ackF inv tM else c.snpErr e msg h 25
    | .ev => (if msg.val ≤ 2 then c.markAnswered l else c).answerI e msg h
    | .ef =>
      if msg.val = 2 then (c.answerI e msg h).endNode l
      else if msg.val = 4 then c.answerI e msg h else c.snpErr e msg h 27
    | .uw => if msg.val = 4 then c.answerI e msg h else c.snpErr e msg h 28

/-! ### FRecallSet (R218) -/

/-- Lines of a directory set that this node holds: tags, snoop filter, Hamper, Press. -/
def Coh.setLines (c : Coh) (e : State) (src : NodeId) (s : SliceNo) (set : Nat) : List LineAddr :=
  let ok := fun (l : LineAddr) => lineHome l == src.toNat && sliceIs l s.val && dirSetIdx l == set
  let ts := (c.tags.filter (fun x => isValid x.2.st && slotSlice x.1 == s.val)).map (fun x => c.slotLineAddr e x.1)
  let ns := (c.snf.filter (fun x => x.2.ast != aFree)).map (fun x => snfLine x.1 x.2)
  let hs := c.hampers.map HamperEntry.line
  let ps := (c.press.filter (fun p => p.st != .pending)).map PressEntry.line
  ((ts ++ ns ++ hs ++ ps).filter ok).eraseDups

/-- Ends FRecallSet at a node once every line of the set has left: FRecallAck with the count of data messages. -/
def Coh.recallSetAck (c : Coh) (e : State) (src : NodeId) (htrk : BitVec 11) (s : SliceNo) (set count : Nat) : Coh :=
  c.sendNode e { opc := fRecallAck, dst := src.toNat, htrk := htrk.toNat, count := count,
                 line := BitVec.ofNat 45 (s.val + 32 * set) } .none

/-- One line of the set leaves: its dirty data, where it has any, goes to the home under the recall. -/
def Coh.recallSetLine (c : Coh) (e : State) (src : NodeId) (htrk : BitVec 11) (l : LineAddr) (data : Option CodeLine)
    (dirty : Bool) : Coh × Nat :=
  let ns := c.nodeState e l
  let g := c.gather e l data dirty none
  let send := fun (c : Coh) (cl : CodeLine) =>
    c.sendNode e { opc := fRecallData, dst := src.toNat, htrk := htrk.toNat, line := l } (.line cl)
  match g with
  | .line cl true => (send (c.dropNodeCopy e l) cl, 1)
  | .slot k true =>
    let rd := c.readSlot e k
    let o := c.answerOverlay e l
    (send (rd.2.dropNodeCopy e l) (mergePress rd.1 o.1 o.2), 1)
  | .absent => if isMod ns then (send ((c.lostData e l).dropNodeCopy e l) lostLine, 1) else (c.dropNodeCopy e l, 0)
  | _ => (c.dropNodeCopy e l, 0)

/-- FRecallSet: where agents may hold lines of the set, SnpP to every caching port for the snoop filter set that they lie in, which
is locked meanwhile; the lines leave when its answers are in (R218 step 2). -/
def Coh.recvRecallSet (c : Coh) (e : State) (src : NodeId) (htrk : BitVec 11) (s : SliceNo) (set : Nat) : Coh :=
  let ls := c.setLines e src s set
  let named := ls.any (fun l => match c.snfOf l with | some x => x.pres != 0 | none => false)
  let ps := if named then (fins 6).filter (fun p => e.caching p && !e.dead p) else []
  if ps.isEmpty then
    let r := ls.foldl (fun a l => let r := a.1.recallSetLine e src htrk l none false; (r.1, a.2 + r.2)) (c, 0)
    r.1.recallSetAck e src htrk s set r.2
  else
    let l0 := BitVec.ofNat 45 (s.val + 32 * (set % 512))
    let id := c.nextFlow
    let c1 := { c with flows := c.flows ++ [{ id := id, line := l0, kind := .recallSet src htrk s set 0, await := ps.length }],
                       lockedSnf := addSet c.lockedSnf (s.val * 512 + set % 512), nextFlow := id + 1 }
    ps.foldl (fun c p => c.putSnoop e p opSnpP l0 id (BitVec.ofNat 52 (s.val + 32 * (set % 512))) none) c1

/-! ### Responses at a node (Table 7.4) -/

def Coh.trkOf (c : Coh) (k : BitVec 11) : Option OutTrk := c.outTrks.find? (fun t => t.rtrk == k)
def Coh.dropTrk (c : Coh) (k : BitVec 11) : Coh := { c with outTrks := c.outTrks.filter (fun t => t.rtrk != k), wake := true }

def Coh.nodeErr (c : Coh) (e : State) (h : FabHdr) (opc : Nat) : Coh :=
  let st := match c.nodeTxOf h.line with
    | some t => (match t.ts with
      | .is_ => 17 | .ic => 18 | .ip => 19 | .im => 20 | .ima => 21 | .sm => 22 | .om => 23 | .wb => 24 | .wf => 25 | .ev => 26
      | .ef => 27 | .uw => 28)
    | none => 48 + (c.nodeState e h.line).toNat
  c.protoErr e h.line reqNode h.src.toNat opc st

/-- FCmpAck to the home of the line, under the home's tracker of the answer. -/
def Coh.cmpAck (c : Coh) (e : State) (l : LineAddr) (htrk : BitVec 11) (b : Bool) : Coh :=
  c.toHome e fCmpAck l (fun m => { m with htrk := htrk.toNat, bounded := b }) .none

/-- The fabric's answer is complete: the request in service goes on with data and grant. -/
def Coh.accept (c : Coh) (l : LineAddr) (rtrk : BitVec 11) (data : Option CodeLine) (grant : BitVec 2) (uo : Bool) : Coh :=
  ((c.dropTrk rtrk).setTxn l (fun t => { t with phase := .ready, permitted := true, data := data, grant := grant, uo := uo,
                                                dirty := t.dirty || grant == 3 })).woken

/-- Data with no FInv under way tells the requester's chain (R65): from the home out and back, or by way of the owner that sent
it. -/
def Coh.noteChain (c : Coh) (e : State) (h : FabHdr) : Coh :=
  let home := lineHome h.line
  let n := e.distance home
  match (c.txnOf h.line).bind (fun t => t.req.promiseId) with
  | some i => c.emit (.chain i (if h.src.toNat = home then 2 * n else n + e.hops home h.src.toNat + e.distance h.src.toNat))
  | none => c

/-- FData at the requester node, for a line request (R237, R238, R242). -/
def Coh.recvData (c : Coh) (e : State) (h : FabHdr) (cl0 : CodeLine) (grant : BitVec 2) (uo ackF inv : Bool) : Coh :=
  let l := h.line
  let a := (if inv || e.isHome l then c else c.noteChain e h).arrive l cl0
  if e.isHome l then
    match c.homeTxOf l with
    | some t =>
      if t.ts = .hf ∧ !t.req.remote ∧ t.data = none then
        ((a.2.dropTrk h.rtrk).setHome l (fun t => { t with data := some a.1, dirty := t.dirty || grant == 3, grant := grant })).woken
      else c.homeErr e h fData
    | none => c.homeErr e h fData
  else
    let ack := fun (c : Coh) => if ackF then c.cmpAck e l h.htrk h.bounded else c
    match c.nodeTxOf l with
    | some t =>
      match t.ts with
      | .is_ => ack ((a.2.dropNode l).accept l h.rtrk (some a.1) grant uo)
      | .ic => ack ((a.2.dropNode l).accept l h.rtrk (some a.1) 0 true)
      | .ip => ack ((a.2.dropNode l).accept l h.rtrk (some a.1) 1 false)
      | .im =>
        if uo then
          ((a.2.setNode l (fun t => { t with ts := .uw, htrk := h.htrk }))).accept l h.rtrk (some a.1) grant true
        else if inv then a.2.setNode l (fun t => { t with ts := .ima, held := some a.1, grant := grant, htrk := h.htrk })
        else ack ((a.2.dropNode l).accept l h.rtrk (some a.1) grant false)
      | .ima =>
        if t.cmpIn then ack ((a.2.dropNode l).accept l h.rtrk (some a.1) grant false)
        else c.nodeErr e h fData
      | _ => c.nodeErr e h fData
    | none => c.nodeErr e h fData

/-- FCmp at the requester node, for a line request. -/
def Coh.recvCmpLine (c : Coh) (e : State) (h : FabHdr) (grant : BitVec 2) (stat : Nat) : Coh :=
  let l := h.line
  match c.nodeTxOf l with
  | some t =>
    if stat ≠ 0 then
      match t.ts with
      | .is_ => ((c.dropTrk h.rtrk).dropNode l).failTxn l stat
      | .ic => ((c.dropTrk h.rtrk).dropNode l).failTxn l stat
      | .ip => ((c.dropTrk h.rtrk).dropNode l).failTxn l stat
      | .im => ((c.dropTrk h.rtrk).dropNode l).failTxn l stat
      | .ima => ((c.dropTrk h.rtrk).dropNode l).failTxn l stat
      | .sm => ((c.dropTrk h.rtrk).dropNode l).failTxn l stat
      | .om => ((c.dropTrk h.rtrk).dropNode l).failTxn l stat
      | _ => c.nodeErr e h fCmp
    else
      match t.ts with
      | .im => c.setNode l (fun t => { t with ts := .ima, cmpIn := true })
      | .ima =>
        match t.held with
        | some d => ((c.dropNode l).accept l h.rtrk (some d) t.grant false).cmpAck e l t.htrk h.bounded
        | none => c.nodeErr e h fCmp
      | .sm =>
        let st := if grant = 3 then tM else tE
        (((c.dropNode l).setNodeState e l st).accept l h.rtrk none grant false).cmpAck e l h.htrk h.bounded
      | .om => (((c.dropNode l).setNodeState e l tM).accept l h.rtrk none 3 false).cmpAck e l h.htrk h.bounded
      | _ => c.nodeErr e h fCmp
  | none => c.nodeErr e h fCmp

/-- A Press entry whose drain the home has acknowledged (R131): waiting stores are answered, points reached. -/
def Coh.pressAcked (c : Coh) (l : LineAddr) (stat : Nat) : Coh :=
  match c.pressOf l with
  | none => c
  | some p =>
    let c1 := (c.emits p.show).storesDone p.waiters stat
    match p.drain with
    | .cacheAndRemote _ => c1.setPress l (fun p => { p with acked := true, waiters := [], visible := [] })
    | _ => (c1.sctr (sliceOf l) (if p.mask = fullMask then 0x12 else 0x13)).dropPress l

/-- FCmp of a remote atomic or maintenance operation, or of an FWr. -/
def Coh.recvCmpOp (c : Coh) (h : FabHdr) (t : OutTrk) (stat : Nat) (value : BitVec 128) (marks : BitVec 2) :
    Coh :=
  let c1 := c.dropTrk h.rtrk
  match t.use with
  | .drain => c1.pressAcked t.req.line stat
  | _ =>
    match t.req.src with
    | .agent p =>
      let m : AgentMsg :=
        if t.req.op = .atm ∧ !t.req.nr ∧ stat = 0 then
          { opc := opDataV, tag := t.req.tag, value := value, marks := marks, addr := saOf t.req.line }
        else cmpMsg t.req.tag 0 stat
      (c1.pointOf t.req).emit (.respond p m)
    | .mnt => c1.emit (.mntLine t.req.line)
    | _ => c1

/-- Ends WB: the Hamper entry, or the Press entry drained under R491, is freed; a kept state is recorded. -/
def Coh.endWb (c : Coh) (e : State) (t : NodeTx) : Coh :=
  let l := t.line
  -- a CLEAN of this node goes on to its FClean (R489)
  let c1 := (c.endNode l).setTxn l (fun t =>
    if t.req.op = .clean ∧ t.phase = .fabric then { t with phase := .ready, data := none, dirty := false } else t)
  let drained : Bool := match c1.pressOf l with
    | some p => (match p.drain with | .remoteWb _ => p.st == .draining | .cacheAndRemote _ => p.wb && p.st == .draining | _ => false)
    | none => false
  let c2 : Coh := if drained then (c1.pressAcked l 0) else { c1 with hamper := c1.hamper.filter (fun h => !(h.line == l && h.writing)), wake := true }
  let c3 := c2
  if t.keepSt = 0 then c3
  else if (c3.hitSlot e l).isSome then c3
  else
    match c3.snfOf l with
    | some _ => (c3.setSnfOf l (fun x => { x with nst := t.keepSt })).tidySnf e l
    | none => if (c3.pressVisible l).isSome then c3.setPress l (fun p => { p with nst := t.keepSt }) else c3.sendFEv e l

/-- FWbAck at a node. -/
def Coh.recvWbAck (c : Coh) (e : State) (h : FabHdr) (fwd : Bool) : Coh :=
  match c.nodeTxOf h.line with
  | some t =>
    match t.ts with
    | .wb => if fwd ∧ !t.answered then c.setNode h.line (fun t => { t with ts := .wf }) else c.endWb e t
    | .ev =>
      if fwd ∧ !t.answered then c.setNode h.line (fun t => { t with ts := .ef })
      else c.endNode h.line
    | .uw => if fwd then c.nodeErr e h fWbAck else (c.dropNode h.line).pressAcked h.line 0
    | _ => c.nodeErr e h fWbAck
  | none => c.nodeErr e h fWbAck

/-- FDecl at a node. -/
def Coh.recvDecl (c : Coh) (e : State) (h : FabHdr) : Coh :=
  match c.nodeTxOf h.line with
  | some t =>
    if t.ts = .ip then
      let c1 := (c.dropTrk h.rtrk).dropNode h.line
      match c1.txnOf h.line with
      | some x =>
        let c2 := match x.slot with | some k => if (c1.tag k).st = tF then c1.freeTag k else c1 | none => c1
        let c3 := match x.req.src with
          | .drill p => c2.emit (.prefetchEnd p h.line false true false)
          | _ => c2
        -- requests that joined pass again
        { c3.dropTxn h.line with wait := c3.wait ++ x.joined }
      | none => c1
    else c.nodeErr e h fDecl
  | none => c.nodeErr e h fDecl

end Sys2Proof.Machine
end

