-- ==== Sys2Proof/Machine/CohPress.lean ====
section
/-! DEFINITION. The Press and the Hamper of a slice: merges, drains, write-backs (R122 to R145, R490, R491). -/

namespace Sys2Proof.Machine
open Sys2Proof

/-! ### Hamper write-backs (R142) -/

/-- The agents' copies of a line that leaves the Hamper are being gathered (R206). -/
def Coh.gathering (c : Coh) (l : LineAddr) : Bool := c.flows.any (fun f => f.kind == .evict && f.line == l)

/-- Starts the write-back of a HELD entry. A line of another home leaves by FWb; where agents keep copies, their owner's
data is gathered first (R206). -/
def Coh.hamperGo (c : Coh) (e : State) (h : HamperEntry) : Coh :=
  let l := h.line
  let setW := fun (c : Coh) => { c with hamper := modFirst (fun x => x.line == l && !x.writing) (fun x => { x with writing := true }) c.hamper }
  if e.isHome l then setW c
  else if c.gathering l then c
  else if h.copy then (setW c).sendFWb e l h.cl h.keepSt
  else
    match c.snfOf l with
    | some x =>
      if x.owner.isSome then c.startFlow e l .evict (ownerOnly (some x) opSnpS)
      else (setW c).sendFWb e l h.cl (c.keepFor l h.st)
    | none => (setW c).sendFWb e l h.cl (c.keepFor l h.st)

/-- The oldest HELD entry of a slice whose write-back has not started. -/
def Coh.hamperOldest (c : Coh) (s : Nat) : Option HamperEntry := (c.hamperIn s).find? (fun h => !h.writing && !c.gathering h.line)

/-- It starts; it waits for a record of the line toward its home, and for agents' answers that take the line elsewhere. -/
def Coh.hamperStart (c : Coh) (e : State) (s : Nat) : Coh :=
  match c.hamperOldest s with
  | some h => if (c.nodeTxOf h.line).isSome || c.flows.any (fun f => f.locks && f.line == h.line) then c else c.hamperGo e h
  | none => c

/-- The write-back of a line homed at this node ends when M(d)'s write queue accepts it. -/
def Coh.hamperDone (c : Coh) (e : State) (l : LineAddr) : Coh :=
  match c.hamper.find? (fun h => h.line == l && h.writing) with
  | some h =>
    if e.isHome l then
      { c.writeBack l h.cl with hamper := c.hamper.filter (fun x => !(x.line == l && x.writing)), wake := true }
    else c
  | none => c

/-! ### Press drains (R124 to R131, R491) -/

/-- A drain allocates on a miss (Table 4.1). -/
def PressEntry.allocates (p : PressEntry) : Bool := (p.policy == pWBA || p.policy == pWBS) && !p.diverted

/-- Mask of the port that created an entry (Table 3.9). -/
def State.pressMask (e : State) (p : PressEntry) : BitVec 16 := e.allocMask { src := p.port, op := .store, line := p.line, cls := p.cls }

/-- The whole line of an entry over the line below it. -/
def PressEntry.over (p : PressEntry) (base : CodeLine) : CodeLine := mergePress base p.cl p.mask

/-- Sends the entry's bytes home by FWr (R126); none where no tracker is free. -/
def Coh.drainFWr (c : Coh) (e : State) (p : PressEntry) : Option Coh :=
  c.request e { src := .press, op := .store, line := p.line, cls := 2, cl := p.cl, mask := p.mask } .drain fWr id
    (.lineMask p.cl p.mask)

/-- Sends the whole line home by FWb (R491), with KEEP where agents or a tag of the node keep it (R206). -/
def Coh.drainFWb (c : Coh) (e : State) (p : PressEntry) : Coh :=
  let st := c.nodeState e p.line
  let named := (c.hitSlot e p.line).isSome || (match c.snfOf p.line with | some x => x.pres != 0 | none => false)
  let base := p.under.getD lostLine
  let c1 := if p.mask = fullMask ∨ p.under.isSome then c else c.lostData e p.line
  c1.sendFWb e p.line (p.over base) (if named then keptState st else 0)

/-- State of the cached line after a drain: O where another node may hold the line, M otherwise. -/
def Coh.drainState (c : Coh) (e : State) (l : LineAddr) : BitVec 3 :=
  if e.isHome l then (if (c.dirOf l).isSome then tO else tM)
  else
    let st := c.nodeState e l
    if st = tO ∨ st = tS then tO else tM

/-- The line below a partial entry with no copy in the tag: what the permission flow delivered, the Hamper's copy, or at its
home memory, read with an unreserved fill tracker (R126); none where no tracker is free. -/
def Coh.drainRead (c : Coh) (e : State) (p : PressEntry) : Option Coh :=
  if p.mask = fullMask ∨ p.under.isSome ∨ p.fill then some c
  else
    match c.anyHamper p.line with
    | some h => some (c.setPress p.line (fun p => { p with under := some h.cl }))
    | none =>
      let s := (sliceOf p.line).val
      if !e.isHome p.line then some c
      else if c.trackersUsed s + c.trackersReserved e s < 64 then
        some ((c.setPress p.line (fun p => { p with fill := true })).queueMem p.line .press 1)
      else none

/-- A partial entry of another home whose line no unit of this node holds: the line is fetched from its current source first,
by the flow that gives write permission (R125). It waits where no fill tracker is free. -/
def Coh.drainFetch (c : Coh) (e : State) (p : PressEntry) : Coh :=
  let s := (sliceOf p.line).val
  if c.trackersUsed s + c.trackersReserved e s < 64 then
    let t : Txn := { req := { src := .press, op := .store, line := p.line, cls := p.cls }, phase := .ready, tracker := true }
    ({ c.setPress p.line (fun p => { p with st := .draining, drain := .fetch }) with txns := c.txns ++ [t], wake := true } : Coh)
  else c

/-- Chooses where a drain goes and starts it; the entry becomes DRAINING. -/
def Coh.drainPlan (c : Coh) (e : State) (p : PressEntry) : Coh :=
  let l := p.line
  let c := c.checkRow (sliceOf l) (setIdx e.sets l)
  let go := fun (c : Coh) (d : DrainTo) => c.setPress l (fun p => { p with st := .draining, drain := d })
  let lacks := p.mask != fullMask && p.under.isNone && (c.anyHamper l).isNone
  if p.hint.isSome && e.isHome l && (p.policy == pWBA || p.policy == pWBS || p.policy == pWBN) then go c .offer
  else if p.homeWrite e then
    let d := match c.hitSlot e l with | some k => DrainTo.cacheAndRemote k | none => .remote
    match c.drainFWr e p with
    | some c1 => go c1 d
    | none => c
  else
    let own := p.wb && !e.isHome l && c.nodeState e l != tI
    match c.hitSlot e l with
    | some k =>
      if p.policy = pWT then
        -- the node's own modified copy leaves only by FWb (R206); the cached line stays clean (Table 4.1)
        if own then go ((c.drainFWb e p).setTag k (fun t => { t with st := if isMod t.st then keptState t.st else t.st })) (.cacheAndRemote k)
        else go c (.cacheAndMem k)
      else go c (.cache k)
    | none =>
      if !e.isHome l && lacks && (p.allocates || own) then c.drainFetch e p
      else if p.allocates then
        match c.drainRead e p with
        | none => c
        | some c0 =>
          match c0.allocSlot e l (e.pressMask p) with
          | (some k, c1) => go c1 (.cache k)
          | (none, c1) =>
            if e.isHome l then go c1 .mem
            else go (c1.drainFWb e ((c1.pressOf l).getD p)) (.remoteWb true)
      else if e.isHome l then
        match c.drainRead e p with
        | none => c
        | some c0 => go c0 .mem
      else if own then go (c.drainFWb e p) (.remoteWb true)
      else
        match c.drainFWr e p with
        | some c1 => go c1 .remote
        | none => c

/-- R130: an entry may drain: a requirement or its age, or a full slice; its line is not held by another item. -/
def Coh.drainReady (c : Coh) (e : State) (p : PressEntry) : Bool :=
  let age := max 1 (e.rf F.GLB_PRESS_CFG.AGE) * 16
  let high := max 1 (e.rf F.GLB_PRESS_CFG.HIGH_WATER)
  p.st == .owned && !c.lockedLine p.line &&
    (p.mask == fullMask || p.policy == pDEV || p.wanted || p.hint.isSome || decide (age ≤ e.fine - p.born) ||
      decide (high ≤ (c.pressIn (sliceOf p.line)).length))

/-- The agent port of a request. -/
def ReqSrc.port? : ReqSrc → Option Port
  | .agent p => some p
  | .pwq p _ => some p
  | .drill p => some p
  | .walk p _ => some p
  | _ => none

/-- An earlier DEV entry of the same port has not been freed (R128, R130). -/
def Coh.devBehind (c : Coh) (p : PressEntry) : Bool :=
  p.policy == pDEV &&
    (c.press.takeWhile (fun q => q.line != p.line)).any (fun q => q.policy == pDEV && q.port.port? == p.port.port?)

/-- The oldest ready drain of a slice (entries stand in order of creation). -/
def Coh.drainNext (c : Coh) (e : State) (s : Nat) : Option PressEntry :=
  (c.pressIn s).find? (fun p => c.drainReady e p && !c.devBehind p)

/-- Starts it. -/
def Coh.drainStart (c : Coh) (e : State) (s : Nat) : Coh :=
  match c.drainNext e s with
  | some p => c.drainPlan e p
  | none => c

/-- R132: no entry is free; where none drains, the oldest OWNED one starts. -/
def Coh.drainOldest (c : Coh) (e : State) (s : Nat) : Coh :=
  if (c.pressIn s).any (fun p => p.st == .draining) then c
  else
    match (c.pressIn s).find? (fun p => p.st == .owned && !c.lockedLine p.line && !c.devBehind p) with
    | some p => c.drainPlan e p
    | none => c

/-- The entry leaves the Press; full and partial drains are counted. -/
def Coh.drainEnd (c : Coh) (p : PressEntry) : Coh :=
  let c1 := (c.emits p.show).sctr (sliceOf p.line) (if p.mask = fullMask then 0x12 else 0x13)
  (c1.storesDone p.waiters 0).dropPress p.line

/-- The line below an entry, as `drainRead` or the permission flow brought it. -/
def Coh.drainBase (c : Coh) (e : State) (p : PressEntry) : CodeLine × Coh :=
  match p.under with
  | some u => (u, c)
  | none => if p.mask = fullMask then (p.cl, c) else (lostLine, c.lostData e p.line)

/-- Writes an entry into a slot that holds the line, or that is reserved for it. -/
def Coh.drainSlot (c : Coh) (e : State) (p : PressEntry) (k : Nat) (st : BitVec 3) : Coh :=
  let t := c.tag k
  if t.st = tF then
    let b := c.drainBase e p
    (b.2.finishSlot e k p.line st (e.rf F.GLB_INS_AGE.INS_WRITE) false (p.over b.1)).clearNst p.line
  else
    let b := if p.mask = fullMask then (p.cl, c) else c.readSlot e k
    let c1 := if p.diverted then b.2 else b.2.demandHit e k
    let cl := p.over b.1
    (c1.writeSlot e k cl).setTag k (fun t => { t with st := st, poison := anyMark cl })

/-- The slot still belongs to the drain's line. -/
def Coh.slotStands (c : Coh) (e : State) (k : Nat) (l : LineAddr) : Bool :=
  let t := c.tag k
  (t.st == tF || isValid t.st) && t.tag == tagOf e.sets l && slotSlice k == (sliceOf l).val && slotSet k == setIdx e.sets l

/-- Hint install (R225): the external cache in M under HINT_MASK, or memory. -/
def Coh.hintInstall (c : Coh) (e : State) (p : PressEntry) : Coh :=
  let l := p.line
  match c.hitSlot e l with
  | some k =>
    (c.finishSlot e k l (c.drainState e l) (e.rf F.GLB_INS_AGE.INS_HINT) false p.cl).drainEnd p
  | none =>
    match c.allocSlot e l (BitVec.ofNat 16 (e.rf F.GLB_BG_WAY.HINT_MASK)) with
    | (some k, c1) => (c1.finishSlot e k l (c1.drainState e l) (e.rf F.GLB_INS_AGE.INS_HINT) false p.cl).drainEnd p
    | (none, c1) => (c1.writeBack l p.cl).drainEnd p

/-- A drain of a hint whose target is a caching port: SnpU to every named agent, then the offer. -/
def Coh.hintOffer (c : Coh) (e : State) (p : PressEntry) (tgt : Port) : Coh :=
  let l := p.line
  match c.snfKeyOf l with
  | some k => c.startFlow e l (.hint tgt false false) ((c.snfAt k).ports.map (fun q => (q, opSnpU)))
  | none =>
    match c.takeSnf e l with
    | (some k, c1) =>
      (c1.putSnf k { tag := snfTagOf l, pres := 0, ast := aSH, ownp := 0, nst := 0, ref := true, par := 0 }).startFlow e l
        (.hint tgt false true) []
    | (none, c1) => c1.hintInstall e p

/-- A line lent for one use goes straight back to its home with the entry's bytes (R217, R242). -/
def Coh.pressUo (c : Coh) (e : State) (l : LineAddr) (t : Txn) : Coh :=
  match c.pressOf l with
  | none => c
  | some p =>
    (((c.emits p.show).toHome e fWb l id (.line (p.over (t.data.getD 0)))).setPress l (fun p =>
      { p with st := .draining, drain := .remoteWb false, visible := [] })).dropTxn l |>.endJoined t

/-- Ends the drain of a line, where nothing is awaited. A drain whose slot has gone in between is planned again. -/
def Coh.drainDone (c : Coh) (e : State) (l : LineAddr) : Coh :=
  let c := c.checkRow (sliceOf l) (setIdx e.sets l)
  match c.pressOf l with
  | none => c
  | some p =>
    if p.st ≠ .draining ∨ (c.flows.any (fun f => f.locks && f.line == l)) ∨ (c.anyHamper l).isSome ∨ (p.fill ∧ p.under.isNone) then c
    else
      match p.drain with
      | .none => c.drainPlan e p
      | .offer =>
        let tgt : Port := Fin.ofNat 6 (p.hint.getD 7).toNat
        if (p.hint.getD 7).toNat < 6 && e.caching tgt && !e.dead tgt && p.port != .agent tgt then c.hintOffer e p tgt
        else c.hintInstall e p
      | .cache k =>
        if c.slotStands e k l then (c.drainSlot e p k (c.drainState e l)).drainEnd p else c.drainPlan e p
      | .cacheAndMem k =>
        if !c.slotStands e k l || (c.tag k).st = tF then c.drainPlan e p
        else
          let b := if p.mask = fullMask then (p.cl, c) else c.readSlot e k
          let cl := p.over b.1
          let c1 := b.2.writeBack l cl
          (((if p.diverted then c1 else c1.demandHit e k).writeSlot e k cl).setTag k (fun t => { t with poison := anyMark cl })).drainEnd p
      | .fetch =>
        match c.txnOf l with
        | some t =>
          if t.req.src = .press ∧ t.phase = .done then
            if t.uo then c.pressUo e l t
            else
              let c1 := ((c.setPress l (fun p => { p with nst := t.install })).dropTxn l).endJoined t
              c1.drainPlan e ((c1.pressOf l).getD p)
          else c
        | none => c.drainPlan e p
      | .mem =>
        let b := c.drainBase e p
        (b.2.writeBack l (p.over b.1)).drainEnd p
      | .cacheAndRemote k =>
        if p.acked then
          (if c.slotStands e k l && (c.tag k).st != tF then (c.drainSlot e p k (c.tag k).st) else c).drainEnd p
        else c
      | .remote => c
      | .remoteWb _ => c

/-! ### Merges (R128, R129, R251) -/

/-- A store's bytes over an entry's. -/
def PressEntry.take (p : PressEntry) (cl : CodeLine) (mask : ByteMask) : PressEntry :=
  { p with cl := mergePress p.cl cl mask, mask := p.mask ||| mask }

/-- An agent write-back into a PENDING entry supplies only the bytes no store wrote. -/
def PressEntry.fillUnder (p : PressEntry) (cl : CodeLine) : PressEntry :=
  { p with cl := mergePress cl p.cl p.mask, mask := fullMask }

/-- The pass of an agent write-back; none where it has to wait (R128, R132). -/
def Coh.mergeWb (c : Coh) (e : State) (l : LineAddr) (cl : CodeLine) (port : Port) (cls : BitVec 2) (nst : BitVec 3) : Option Coh :=
  let s := (sliceOf l).val
  match c.pressOf l with
  | some p =>
    match p.st with
    | .pending => some ((c.setPress l (fun p => { p.fillUnder cl with wb := true })).sctr s 0x11)
    | .owned => some ((c.setPress l (fun p => { p.take cl fullMask with wb := true, nst := if p.nst = 0 then nst else p.nst })).sctr s 0x11)
    | .draining => none
  | none =>
    if 32 ≤ (c.pressIn s).length then none
    else
      let p : PressEntry := { line := l, cl := cl, mask := fullMask, policy := e.policy l, port := .agent port, cls := cls,
                              born := e.fine, st := .owned, wb := true, nst := nst }
      some (({ c with press := c.press ++ [p] } : Coh).sctr s 0x10)

/-- The write-back taken from a snoop answer merges when it can (R251). -/
def Coh.passAgentWb (c : Coh) (e : State) (l : LineAddr) : Coh :=
  match takeFirst (fun w => w.line == l) c.agentWbs with
  | none => c
  | some (w, rest) =>
    let nst := if e.isHome l || (c.hitSlot e l).isSome || (c.snfOf l).isSome then 0 else if w.nst ≠ 0 then w.nst else c.nodeState e l
    match c.mergeWb e l w.cl w.port 2 nst with
    | some c1 => ({ c1 with agentWbs := rest, wake := true } : Coh).tidySnf e l
    | none => c.drainOldest e (sliceOf l)

end Sys2Proof.Machine
end

