-- ==== Sys2Proof/Machine/CohServe.lean ====
section
/-! DEFINITION. Passes of the serialisation point (R102): requests in service stage by stage (Tables 3.7, 6.5 and 7.7), what
each request meets on its pass, snoop answers, and the passes that follow within a step. -/

namespace Sys2Proof.Machine
open Sys2Proof

/-! ### What a request is -/

/-- Operations that need write permission (E or M) at the node. -/
def ReqOp.owns : ReqOp → Bool
  | .rdU => true
  | .upg => true
  | .store => true
  | .wrH => true
  | .atm => true
  | _ => false

/-- Reads that may fill the external cache. -/
def ReqOp.fills : ReqOp → Bool
  | .rdS => true
  | .rdU => true
  | .upg => true
  | .rd => true
  | .prefetch => true
  | _ => false

/-- The policy and the mask let the request allocate (R112). -/
def Req.mayAlloc (r : Req) (e : State) : Bool :=
  let atomic := r.op == ReqOp.atm && !r.noAlloc
  let pol := e.policy r.line
  (r.op.fills || atomic) && (r.remote || decide (pol.toNat ≤ 3)) && e.allocMask r != 0

/-- Insertion age and PF of a fill (Table 3.8). -/
def Req.insAge (r : Req) (e : State) : Nat × Bool :=
  match r.src, r.op with
  | .resow, _ => (e.rf F.GLB_INS_AGE.INS_RESOW, true)
  | _, .prefetch => (e.rf F.GLB_INS_AGE.INS_PREFETCH, true)
  | _, _ => (e.rf F.GLB_INS_AGE.INS_DEMAND, false)

/-- The requester is an agent of this node on an unposted or posted demand. -/
def Req.demand (r : Req) : Bool := match r.src with | .agent _ => true | .pwq _ _ => true | _ => false

/-- Row of Table 2.4 for a request that needed the fabric, a snoop or a fill, or neither (R64). -/
def Req.tableRow (r : Req) (fabric slow : Bool) : Nat :=
  match r.op with
  | .atm => if fabric then 6 else if slow || r.noAlloc then 4 else 3
  | .store => 2
  | .wrH => 2
  | .wrB => 2
  | .evC => 2
  | _ => if fabric then 5 else if slow then 1 else 0

/-- Link crossings of the messages that a request to a line of this home causes, by the line's own directory entry: a read's
forward and its answer, and for ownership also every FInv or FRecall with its acknowledgement (R65). -/
def Coh.chain (c : Coh) (e : State) (r : Req) : Option Nat :=
  match (if e.isHome r.line then c.dirOf r.line else none) with
  | none => none
  | some d =>
    let owner := match d.ownerOf e with | some n => [n] | none => []
    let away := owner ++ (if r.op == .rdS || r.op == .rd || r.op == .rdC then [] else d.nodes e)
    some (away.foldl (fun a (n : NodeId) => max a (2 * e.distance n.toNat)) 0)

def Coh.noteRow (c : Coh) (r : Req) (fabric slow : Bool) (crossings : Option Nat := none) : Coh :=
  match r.src with
  | .agent p =>
    (match r.promiseId with
     | some i => c.emit (.row i (r.tableRow fabric slow) (lineHome r.line) crossings)
     | none => c).emit (.passed p r.point fabric)
  | .pwq p _ => c.emit (.passed p r.point fabric)
  | _ => c

/-- A store completes: response of a non-posted one, end of the promise of a posted one (R123). -/
def Coh.storeDone (c : Coh) (r : Req) : Coh :=
  match r.src with
  | .agent a => c.emit (if r.posted then .postedEnd a r.point false else .respond a (cmpMsg r.tag 0 0))
  | _ => c

/-- What an entry keeps of a store that completes with its home's acknowledgement. -/
def Req.storeWait (r : Req) : List StoreWait :=
  match r.src with
  | .agent a =>
    if r.posted && !r.bounded then []
    else [{ port := a, tag := r.tag, point := r.point, posted := r.posted, cls := r.cls, bounded := r.bounded }]
  | _ => []

/-- R106: a request that joins a remote fill keeps the fill's deadline, and is demoted where the fill holds no OUT unit. -/
def Coh.joinFill (c : Coh) (t : Txn) (r : Req) : Coh :=
  match r.src, t.req.src with
  | .agent p, .agent q =>
    if !t.fabric then c
    else if t.demoted then c.emit (if r.cls = 0 ∧ r.bounded then .demoted p r.tag else .unpromise p r.tag)
    else c.emit (.follow p r.tag q t.req.tag)
  | .agent p, _ => if t.fabric then c.emit (if r.cls = 0 ∧ r.bounded then .demoted p r.tag else .unpromise p r.tag) else c
  | _, _ => c

/-- The node holds what Table 6.5 asks for. -/
def Coh.permits (c : Coh) (e : State) (r : Req) : Bool :=
  let l := r.line
  if e.isHome l then
    match c.dirOf l with
    | none => true
    | some d =>
      match r.op with
      | .inval => true
      | .clean => (d.ownerOf e).isNone
      | .flush => false
      | .rdC => (d.ownerOf e).isNone
      | op => if op.owns then false else (d.ownerOf e).isNone
  else
    match r.op with
    | .inval => true
    | .clean => true
    | .flush => true
    | op =>
      let st := c.nodeState e l
      if op.owns then st == tE || st == tM else st != tI

/-- An atomic of this node on a line homed elsewhere. -/
def Req.farAtomic (r : Req) (e : State) : Bool := r.op == ReqOp.atm && !e.isHome r.line

/-- Agents to snoop (Table 7.7, R224, R225, R489, R149). A FLUSH of a line homed elsewhere snoops none: the home's FInv or
FRecall takes the copies of this node as well (Table 6.6). -/
def Coh.snoopPlan (c : Coh) (e : State) (r : Req) : List (Port × BitVec 6) :=
  let x := c.snfOf r.line
  let notMe := fun (ps : List (Port × BitVec 6)) => match r.src with
    | .agent p => ps.filter (fun q => q.1 != p)
    | _ => ps
  match r.op with
  | .rdS => notMe (ownerOnly x opSnpS)
  | .rdU => notMe (allNamed x opSnpU)
  | .upg => notMe (allNamed x opSnpU)
  | .rd => ownerOnly x opSnpC
  | .rdC => ownerOnly x opSnpC
  | .clean => ownerOnly x opSnpU
  | .prefetch => []
  | .flush => if e.isHome r.line then allNamed x opSnpU else []
  | _ => allNamed x opSnpU

/-- Puts a request in its line's conflict list. -/
def Coh.requeue (c : Coh) (r : Req) : Coh := { c with wait := c.wait ++ [r] }

/-- The request leaves service and passes again later; its tracker, and a slot it took, are free again. -/
def Coh.retryTxn (c : Coh) (t : Txn) : Coh :=
  let c1 := match t.slot with
    | some k => if (c.tag k).st = tF then c.freeTag k else c
    | none => c
  { c1 with txns := c1.txns.filter (fun x => x.req.line != t.req.line)
            wait := c1.wait ++ ({ t.req with resv := t.req.resv || t.resv } :: t.joined) }

/-- The promise of a request spends its reservation when it takes a tracker (R70). -/
def Req.took (r : Req) : Req := { r with resv := false }

/-! ### Stage A: node permission -/

/-- The fabric request that permission needs (Table 6.5, R492), with the node state it opens. -/
def Coh.fabricOp (c : Coh) (e : State) (r : Req) (slot : Bool) : Nat × NodeTs :=
  let st := c.nodeState e r.line
  let room := (snfKeys r.line).any (fun k => (c.snfAt k).ast == aFree) ||
    (decide (backInvSlots c (sliceOf r.line) < 16) &&
      (snfKeys r.line).any (fun k => !c.lockedLine (snfLine k (c.snfAt k))))
  match r.op with
  | .rdC => (fRdC, .ic)
  | .prefetch => (fRdPf, .ip)
  | .rdS => if slot || room then (fRdS, .is_) else (fRdC, .ic)
  | .rd => if slot then (fRdS, .is_) else (fRdC, .ic)
  | _ => if st = tS then (fUpg, .sm) else if st = tO then (fUpg, .om) else (fRdU, .im)

/-- A request that obtains permission holds a fill tracker meanwhile (Table 7.1; FL of R249); a fabric request has its
incoming tracker. -/
def Coh.needsTracker (c : Coh) (e : State) (t : Txn) : Bool := !t.tracker && !t.req.remote && !c.trackerFree e t.req
def Txn.tracked (t : Txn) : Txn :=
  if t.tracker || t.req.remote then t else { t with tracker := true, resv := t.req.resv, req := t.req.took }

/-- Permission of a line homed elsewhere. -/
def Coh.askHome (c : Coh) (e : State) (t : Txn) : Coh :=
  let r := t.req
  let l := r.line
  if (c.freeTrk (reqDie e r)).isNone || c.needsTracker e t then c.retryTxn t
  else
    let f := c.fabricOp e r t.slot.isSome
    match c.request e r .line f.1 id .none with
    | none => c.retryTxn t
    | some c1 =>
      let demoted := match c1.outTrks.getLast? with | some k => !k.unit | none => false
      (c1.addNodeTx { line := l, ts := f.2 }).setTxn l (fun t => { t.tracked with phase := .fabric, demoted := demoted, fabric := true })

/-- The request of a home flow for a line operation in service here. An FAtm placed in the home slice has the home as
its requester (Section 6.6); it keeps the bound of its message. -/
def Req.atHome (r : Req) : Req :=
  match r.src with
  | .node _ _ b => { r with src := .resow, bounded := b }
  | _ => r

/-- Permission of a line homed here: the home's own flow. -/
def Coh.askDirectory (c : Coh) (e : State) (t : Txn) : Coh :=
  let r := t.req.atHome
  let fwd := match c.dirOf r.line with | some d => (d.ownerOf e).isSome | none => false
  let on := fun (c : Coh) =>
    let far : Bool := match c.homeTxOf r.line with | some h => h.fwdTo.isSome || !h.invs.isEmpty || !h.recalls.isEmpty | none => false
    c.setTxn r.line (fun t => { t.tracked with phase := .home, fabric := far })
  if c.needsTracker e t then c.retryTxn t
  else if fwd then
    match c.freeTrk (reqDie e r) with
    | none => c.retryTxn t
    | some k =>
      let use : OutTrk := { rtrk := k, dst := BitVec.ofNat 9 e.node, since := e.fine, req := r, use := .line, unit := false }
      on (({ c with outTrks := c.outTrks ++ [use] } : Coh).homeStart e r k)
  else on (c.homeStart e r 0)

/-! ### Stage C: data -/

/-- The request still needs the line. An upgrade by a named agent, an owner's RdU, and maintenance do not; a store needs a
line below a partial entry only for a line homed elsewhere. -/
def Txn.needsLine (t : Txn) (home : Bool) (full : Bool) : Bool :=
  match t.req.op with
  | .upg => !(t.named)
  | .rdU => !t.wasOwner
  | .clean => false
  | .flush => false
  | .inval => false
  | .store => !home && !full
  | .wrH => false
  | _ => true

/-- Marks the line as in hand. -/
def Coh.haveLine (c : Coh) (l : LineAddr) (d : CodeLine) : Coh :=
  (c.setTxn l (fun t => { t with data := some d, phase := .ready })).woken

/-- A slice atomic that finds no victim is placed in the ALU (R220). -/
def Coh.toAlu (c : Coh) (l : LineAddr) : Coh :=
  (c.setTxn l (fun t => { t with req := { t.req with noAlloc := true }, permitted := false, snooped := false, phase := .ready })).woken

/-- R493: every named agent drops the line, FEv follows, and the request passes again from node state I. -/
def Coh.refetch (c : Coh) (e : State) (t : Txn) : Coh :=
  (c.retryTxn t).startFlow e t.req.line .evict (allNamed (c.snfOf t.req.line) opSnpU)

/-- A line of another home that no unit of this node holds. -/
def Coh.noData (c : Coh) (e : State) (t : Txn) : Coh :=
  if isMod (c.nodeState e t.req.line) then (c.lostData e t.req.line).haveLine t.req.line lostLine
  else c.refetch e t

/-- Steps 2 and 3 of Table 3.7: the fill tracker and the victim way, in the pass that finds a miss. An FAtm needs no fill
tracker: its incoming fabric tracker holds the line (R105). -/
def Coh.openFill (c : Coh) (e : State) (t : Txn) : Coh :=
  let r := t.req
  let l := r.line
  let s := (sliceOf l).val
  if !r.remote && !c.trackerFree e r then c.retryTxn t
  else
    let a := if r.mayAlloc e && !c.drainingInto l then c.allocSlot e l (e.allocMask r) else (none, c)
    if r.op = ReqOp.atm ∧ a.1.isNone then a.2.toAlu l
    else
      ((a.2.sctr s 1).sctr s (if a.1.isSome then 2 else 3)).setTxn l (fun t =>
        { t with opened := true, tracker := !r.remote, resv := t.req.resv, slot := a.1, req := t.req.took })

/-- Operations whose miss is a fill: reads, prefetches, and an atomic placed in the home slice. -/
def Req.missFills (r : Req) (e : State) : Bool :=
  r.op.fills || r.op == ReqOp.rdC || (r.op == ReqOp.atm && !r.noAlloc && e.isHome r.line)

/-- Step 1 of Table 3.7: the line is absent from tags, Press and Hamper. -/
def Coh.absent (c : Coh) (e : State) (l : LineAddr) : Bool :=
  (c.hitSlot e l).isNone && (c.anyHamper l).isNone && (c.pressVisible l).isNone

/-- Class of a request's reads: that of a request of another node says whether it is bounded. -/
def Req.queueCls (r : Req) : BitVec 2 := if r.remote then (if r.inBounded then 0 else 2) else r.cls

/-- Step 4 of Table 3.7 for a line of this home; a line that left the cache after the pass takes its tracker here. -/
def Coh.fillMem (c : Coh) (e : State) (t : Txn) : Coh :=
  let r := t.req
  let l := r.line
  if !t.opened && r.missFills e then c.openFill e t
  else (c.queueMem l .serve r.queueCls r.allot).setTxn l (fun t => { t with phase := .mem })

/-- Finds the line: Hamper, tag, Press, memory. -/
def Coh.fetchLine (c : Coh) (e : State) (t : Txn) : Coh :=
  let r := t.req
  let l := r.line
  match c.anyHamper l, c.hitSlot e l with
  | some h, none => c.haveLine l h.cl
  | _, some k =>
    if r.op = ReqOp.store then (c.setTxn l (fun t => { t with data := none, phase := .ready, snooped := true })).woken
    else (c.queueSlot e k l .serve r.queueCls r.allot).setTxn l (fun t => { t with phase := .cmi })
  | none, none =>
    match c.pressVisible l with
    | some p =>
      if p.mask = fullMask then c.haveLine l p.cl
      else (match p.under with
        | some u => c.haveLine l u
        | none => if e.isHome l then c.fillMem e t else c.noData e t)
    | none => if e.isHome l then c.fillMem e t else c.noData e t

/-! ### Stage D: results -/

/-- State in which a fill is installed. -/
def Coh.installState (c : Coh) (e : State) (t : Txn) : BitVec 3 :=
  if e.isHome t.req.line then
    if (c.dirOf t.req.line).isSome then (if t.dirty then tO else tS) else (if t.dirty then tM else tE)
  else if t.grant = 3 then tM else if t.grant = 2 then tE else tS

/-- The fill installs its line (Table 3.7 step 7): it has a slot and the line, which no agent's answer brought (R203). -/
def Txn.installs (t : Txn) : Bool := t.slot.isSome && !t.uo && t.data.isSome && !t.agentData

/-- The request in service has been answered: what remains is the install and AckC. -/
def Coh.answered (c : Coh) (e : State) (l : LineAddr) (ack : Bool) : Coh :=
  match c.txnOf l with
  | none => c
  | some t =>
    let keep := t.installs
    let c1 := match t.slot with | some k => if keep then c else c.freeTag k | none => c
    let st := c.installState e t
    (c1.setTxn l (fun t => { t with phase := .done, writePending := keep, tracker := t.tracker && keep, slot := if keep then t.slot else none,
                                    install := if keep then st else 0, ackPending := ack, joined := [] })).woken

/-- Serves the requests that joined, from the line in hand (R105, R106). -/
def Coh.serveJoined (c : Coh) (t : Txn) (cl : CodeLine) : Coh :=
  t.joined.foldl (fun (c : Coh) (r : Req) =>
    match r.src with
    | .agent p =>
      (c.pointOf r).emit (.respond p (if r.op = ReqOp.rdC then partMsg r cl else dataMsg r.tag 0 false r.line cl))
    | .walk p w =>
      let n := r.off.toNat / 8
      c.emit (.walkData p w r.point 0 (wordData (lineWord cl n)) (wordMark (lineWord cl n)))
    | _ => c.prefetchNone r) c

/-- A use-once response (R199, R212): AckC follows a RdS, the agent's WrB a RdU. -/
def Coh.useOnce (c : Coh) (e : State) (t : Txn) (p : Port) (cl : CodeLine) : Coh :=
  let r := t.req
  let l := r.line
  let s := (sliceOf l).val
  let grant := match r.op with | .rdS => 1 | _ => if t.dirty then 3 else 2
  let c1 := ((c.sctr s 0x24).emit (.firstCtr (ctrSel 1 s 0x24) 103 s)).pointOf r
  let c2 := (c1.emit (.respond p (dataMsg r.tag grant true l cl))).serveJoined t cl
  if r.op = ReqOp.rdS then c2.answered e l true
  else (c2.answered e l false).setTxn l (fun t => { t with phase := .useOnce })

/-- Agent grants of Table 7.7 and Table 6.5. -/
def Coh.grantAgent (c : Coh) (e : State) (t : Txn) (p : Port) : Coh :=
  let r := t.req
  let l := r.line
  let s := (sliceOf l).val
  let x := c.snfOf l
  let home := e.isHome l
  let st := if t.grant ≠ 0 && !home then (if t.grant = 3 then tM else if t.grant = 2 then tE else tS)
            else if home then (if (c.dirOf l).isSome then tS else tE)
            else c.nodeState e l
  let excl := st == tE || st == tM
  let cmpOnly := (r.op = ReqOp.upg && t.named) || (r.op = ReqOp.rdU && t.wasOwner)
  -- no entry names an agent, or the requester is its EX owner (Table 7.7)
  let sole := match x with | some x => x.pres == 0 || (x.ast == aEX && x.owner == some p) | none => true
  -- memory does not hold the line of this home, and no slot of the node says so (R202)
  let unheld := home && (t.dirty || t.grant == 3) && !(t.installs || (c.hitSlot e l).isSome)
  let grant := match r.op with
    | .rdS => if excl && !t.sentSnoops && sole then 2 else 1
    | .upg => if cmpOnly then (if t.owOther || unheld then 3 else 2) else 3
    | _ =>
      -- Table 6.5: M with the data of an agent's M or O copy; also where no slot of the node takes a modified line
      if t.wasOwner then 3 else if t.dirty && (t.agentData || !(t.installs || (c.hitSlot e l).isSome)) then 3 else 2
  let own := grant != 1
  let slot := match c.snfKeyOf l with | some k => (some k, c) | none => if t.uo then (none, c) else c.takeSnf e l
  let cl := overSnap t.snap (t.data.getD 0)
  let cl := if t.dirty && t.sentSnoops then t.data.getD 0 else cl
  match slot with
  | (some k, c1) =>
    if t.uo then
      -- the line leaves with this response: nothing is recorded
      c1.useOnce e t p cl
    else
      let mod := grant = 3
      let nst := if home || (c1.hitSlot e l).isSome || t.installs then 0
        else if mod then tM else if st = tI then c1.nodeStateOff l else st
      let c2 := c1.grantSnf k l p own nst
      let c3 := if mod then
          (match c2.hitSlot e l with
           | some k => if (c2.tag k).st = tE then c2.setTag k (fun t => { t with st := tM }) else c2
           | none => c2)
        else c2
      let m := if cmpOnly then cmpMsg r.tag grant 0 else dataMsg r.tag grant false l cl
      let c4 := if t.sentSnoops && t.data.isSome then c3.sctr s 0x22 else c3
      let c5 := (c4.pointOf r).emit (.respond p m)
      (((c5.setTxn l (fun t => if mod then { t with dirty := true } else t)).serveJoined t cl)).answered e l true
  | (none, c1) => c1.useOnce e t p cl

/-- A read without a copy: Rd, RdC, a descriptor read. -/
def Coh.answerRead (c : Coh) (e : State) (t : Txn) : Coh :=
  let r := t.req
  let l := r.line
  let base := t.data.getD 0
  let cl := if t.dirty && t.sentSnoops then base else overSnap t.snap base
  let c1 := if t.sentSnoops && t.data.isSome then c.sctr (sliceOf l) 0x22 else c
  let c2 := match r.src with
    | .agent p => (c1.pointOf r).emit (.respond p (if r.op = ReqOp.rdC then partMsg r cl else dataMsg r.tag 0 false l cl))
    | .walk p w =>
      let n := r.off.toNat / 8
      c1.emit (.walkData p w r.point 0 (wordData (lineWord cl n)) (wordMark (lineWord cl n)))
    | _ => c1
  (c2.serveJoined t cl).answered e l false

/-- Performs an atomic on the line in hand (R220, R223). -/
def Coh.perform (c : Coh) (e : State) (t : Txn) : Coh :=
  let r := t.req
  let l := r.line
  let s := (sliceOf l).val
  let base := t.data.getD 0
  let o := atomic base r
  let c0 := if o.done then c.sctr s (if r.noAlloc then 0x2C else 0x2B) else (c.sctr s 0x2D).consume e 0 r o.marks.toNat
  let c1 :=
    if r.noAlloc then
      (let c1 := (c0.dropHolders e l).2.2
       if o.done || t.dirty then c1.writeBack l o.line else c1)
    else
      match c0.hitSlot e l with
      | some k =>
        if o.done then (c0.writeSlot e k o.line).setTag k (fun x => { x with st := tM, poison := anyMark o.line }) else c0
      | none =>
        match t.slot with
        | some k => c0.finishSlot e k l (if o.done || t.dirty then tM else tE) (r.insAge e).1 false o.line
        | none => if o.done || t.dirty then c0.writeBack l o.line else c0
  let m : AgentMsg := if r.nr then cmpMsg r.tag 0 0
    else { opc := opDataV, tag := r.tag, value := o.old, marks := o.marks, addr := saOf l }
  let c2 := match r.src with
    | .agent p => (c1.pointOf r).emit (.respond p m)
    | .node n k b =>
      c1.sendNode e { opc := fCmp, dst := n.toNat, rqn := n.toNat, rtrk := k.toNat, bounded := b, line := l }
        (if r.nr then .none else .value o.old o.marks)
    | _ => c1
  (c2.setTxn l (fun t => { t with slot := none })).answered e l false

/-- Ends a maintenance operation toward its requester. -/
def Coh.mntEnd (c : Coh) (r : Req) : Coh :=
  let c := c.sctr (sliceOf r.line) 0x18
  match r.src with
  | .agent p => (c.pointOf r).emit (.respond p (cmpMsg r.tag 0 0))
  | .mnt => c.emit (.mntLine r.line)
  | _ => c

/-- Sends FClean or FFlush to the home; its FCmp completes the operation. -/
def Coh.sendOp (c : Coh) (e : State) (t : Txn) : Coh :=
  match c.request e t.req .remoteOp (if t.req.op = ReqOp.clean then fClean else fFlush) id .none with
  | some c1 => (c1.sctr (sliceOf t.req.line) 0x18).dropTxn t.req.line
  | none => c.retryTxn t

/-- CLEAN by address at a node other than the home (R489): its modified copy leaves by FWb first, through a Hamper entry, and the
node keeps a clean copy; FClean follows when the write-back has been acknowledged. It waits while no entry is free. -/
def Coh.cleanAway (c : Coh) (e : State) (t : Txn) (agentDirty : Option CodeLine) : Coh :=
  let l := t.req.line
  let tagMod : Bool := match c.hitSlot e l with | some k => isMod (c.tag k).st | none => false
  if agentDirty.isNone && !tagMod then c.sendOp e t
  else if c.hamperFull (sliceOf l) then c
  else
    let ns := c.nodeState e l
    let g := match agentDirty, c.hitSlot e l with
      | some d, _ => (d, c)
      | none, some k => c.readSlot e k
      | none, none => (lostLine, c)
    let st := if isMod ns then ns else tM
    let kept := if (g.2.hitSlot e l).isSome then keptState st else g.2.keepFor l st
    let c2 := match g.2.hitSlot e l with
      | some k => (g.2.writeSlot e k g.1).setTag k (fun t =>
          { t with st := if isMod t.st then keptState t.st else t.st, poison := anyMark g.1 })
      | none => g.2
    ((c2.setTxn l (fun t => { t with phase := .fabric })).enterHamper e
      { line := l, cl := g.1, st := tM, writing := true, copy := true, keepSt := kept }).tidySnf e l

/-- INVAL by address (R149). Node state O is written back, through a Hamper entry at a node other than the home; it waits while
none is free. -/
def Coh.invalHere (c : Coh) (e : State) (t : Txn) (agentDirty : Option CodeLine) : Coh :=
  let r := t.req
  let l := r.line
  let home := e.isHome l
  let ns := c.nodeState e l
  let owned := if home then
      ((match c.hitSlot e l with | some k => (c.tag k).st == tO | none => false) ||
       (match c.hamperOf l with | some h => h.st == tO | none => false) || ((c.dirOf l).isSome && t.dirty))
    else ns == tO
  if !home && owned && c.hamperFull (sliceOf l) then c
  else
    let d := c.dropHolders e l
    let line := match agentDirty with | some x => some x | none => if d.2.1 then d.1 else none
    let c2 := match d.2.2.snfKeyOf l with | some k => d.2.2.clearSnf k | none => d.2.2
    if home then
      let c3 := if owned then (match line with | some x => c2.writeBack l x | none => c2) else c2
      (c3.mntEnd r).dropTxn l
    else if ns = tI then (c2.mntEnd r).dropTxn l
    else
      let c3 := (c2.sctr (sliceOf l) 0x18).dropTxn l
      if owned then (if line.isSome then c3 else c3.lostData e l).leaveByFWb e l (line.getD lostLine) 0 true
      else c3.sendFEv e l true

/-- Results of CLEAN, FLUSH and INVAL by address (Table 4.4, R149, R489), with every agent answer in. -/
def Coh.maintain (c : Coh) (e : State) (t : Txn) : Coh :=
  let r := t.req
  let l := r.line
  let home := e.isHome l
  let agentDirty := match t.data with | some d => if t.dirty then some d else none | none => none
  match r.op with
  | .clean =>
    if home then
      let c1 := match agentDirty with | some d => c.cleanWith e l d | none => c.cleanTag e l
      ((c1.mntEnd r).dropTxn l).tidySnf e l
    else c.cleanAway e t agentDirty
  | .flush =>
    if home then
      let d := c.dropHolders e l
      let c1 := match agentDirty with
        | some x => d.2.2.writeBack l x
        | none => match d.1 with | some x => if d.2.1 then d.2.2.writeBack l x else d.2.2 | none => d.2.2
      let c2 := match c1.snfKeyOf l with | some k => c1.clearSnf k | none => c1
      (c2.mntEnd r).dropTxn l
    else c.sendOp e t
  | _ => c.invalHere e t agentDirty

/-- A prefetch or a resowing read with its line (Table 5.2). -/
def Coh.endPrefetch (c : Coh) (e : State) (t : Txn) : Coh :=
  let r := t.req
  let c1 := match r.src with
    | .drill p => c.emit (.prefetchEnd p r.line true false false)
    | .resow => c.emit (.resowEnd r.line true)
    | _ => c
  (c1.serveJoined t (overSnap t.snap (t.data.getD 0))).answered e r.line false

/-- The permission flow of a Press entry is complete; its line stays locked until the entry becomes OWNED. -/
def Coh.pressReady (c : Coh) (e : State) (t : Txn) : Coh :=
  let l := t.req.line
  let c1 := c.setPress l (fun p => { p with permReady := true, under := match t.data with | some d => some d | none => p.under })
  let rec_ := e.isHome l || c.nodeState e l != tI
  c1.setTxn l (fun t => { t with phase := .done, ackPending := true,
                                 install := if rec_ || t.uo then t.install else if t.grant = 3 then tM else tE })

/-- Stage D. -/
def Coh.finish (c : Coh) (e : State) (t : Txn) : Coh :=
  match t.req.op with
  | .rdS => (match t.req.src with | .agent p => c.grantAgent e t p | _ => c.answerRead e t)
  | .rdU => (match t.req.src with | .agent p => c.grantAgent e t p | _ => c.answerRead e t)
  | .upg => (match t.req.src with | .agent p => c.grantAgent e t p | _ => c.answerRead e t)
  | .rd => c.answerRead e t
  | .rdC => c.answerRead e t
  | .atm =>
    -- a write-back taken from a snoop answer merges first; the atomic then passes again (R251, R130)
    if c.agentWbs.any (fun w => w.line == t.req.line) then c.retryTxn t else c.perform e t
  | .clean => c.maintain e t
  | .flush => c.maintain e t
  | .inval => c.maintain e t
  | .prefetch => c.endPrefetch e t
  | _ => c.pressReady e t

/-- An atomic on a line homed elsewhere is performed at the home (R220): FAtm, whose FCmp completes it. The node keeps no
transient state for it (R242). -/
def Coh.sendAtomic (c : Coh) (e : State) (t : Txn) : Coh :=
  let r := t.req
  match c.request e r .remoteOp fAtm (fun h => { h with aop := r.aop.toNat, sz := r.sz.toNat, nr := r.nr, off := r.off.toNat })
      (.atomic r.operand r.compare) with
  | some c1 => c1.dropTxn r.line
  | none => c.retryTxn t

/-- One stage of the request in service for a line; nothing where it waits. -/
def Coh.stage (c : Coh) (e : State) (t : Txn) : Coh :=
  let r := t.req
  let l := r.line
  if r.farAtomic e then c.sendAtomic e t
  else if !t.opened && !t.permitted && r.missFills e && c.absent e l then c.openFill e t
  else if !t.permitted then
    if c.permits e r && !(r.op = ReqOp.atm && r.noAlloc && (c.dirOf l).isSome) then
      (c.setTxn l (fun t => { t with permitted := true })).woken
    else if e.isHome l then c.askDirectory e t
    else c.askHome e t
  else if !t.snooped then
    let ps := c.snoopPlan e r
    let x := c.snfOf l
    let me := match r.src with | .agent p => some p | _ => none
    let named := match x, me with | some x, some p => x.named p | _, _ => false
    let own := x.bind SnfEntry.owner
    let ow := match x with | some x => x.ast == aOW | none => false
    let c1 := c.setTxn l (fun t => { t with
      snooped := ps.isEmpty, sentSnoops := t.sentSnoops || !ps.isEmpty, named := named
      wasOwner := ow && own == me && me.isSome, owOther := ow && own != me
      phase := if ps.isEmpty then .ready else .snoop })
    if ps.isEmpty then c1.woken else c1.startFlow e l .serve ps
  else
    let full := match c.pressOf l with | some p => p.mask == fullMask | none => false
    if t.data.isNone && t.needsLine (e.isHome l) full then
      -- an ALU atomic takes the line from the holders it removes
      if r.op = ReqOp.atm && r.noAlloc then
        let d := c.dropHolders e l
        match d.1 with
        | some x => (d.2.2.setTxn l (fun t => { t with dirty := t.dirty || d.2.1 })).haveLine l x
        | none => c.fetchLine e t
      else c.fetchLine e t
    else c.finish e t

/-- Unlocks a line whose request has nothing left to wait for (R210, R492). -/
def Coh.endTxn (c : Coh) (e : State) (t : Txn) : Coh :=
  let l := t.req.line
  let c1 := ((c.dropTxn l).endJoined t).tidySnf e l
  if !e.isHome l && t.grant ≠ 0 && !t.uo && c1.nodeState e l = tI && (c1.nodeTxOf l).isNone &&
      (c1.pressOf l).isNone then c1.sendFEv e l
  else c1

/-- Advances the request in service for a line while its stages are due. -/
def Coh.advance (e : State) (l : LineAddr) : Nat → Coh → Coh
  | 0, c => c
  | n + 1, c =>
    match c.txnOf l with
    | none => c
    | some t =>
      match t.phase with
      | .ready => Coh.advance e l n (c.stage e t)
      | .done => if !t.writePending && !t.ackPending then c.endTxn e t else c
      | _ => c

/-! ### Passes -/

/-- A snoop filter set or a directory set of the line is under a purge or a set recall (R213, R218). -/
def Coh.setLocked (c : Coh) (l : LineAddr) : Bool :=
  c.lockedSnf.contains ((sliceOf l).val * 512 + snfSetIdx l) || c.lockedDir.contains ((sliceOf l).val * 2048 + dirSetIdx l)

/-- The line is held against a request, a Hamper entry apart (R105). The write-back of a copy of CLEAN by set and way locks
nothing but itself (R151). -/
def Coh.blocked (c : Coh) (l : LineAddr) : Bool :=
  let copyOnly := c.hamper.any (fun h => h.line == l && h.copy)
  c.txns.any (fun t => t.req.line == l) ||
  c.nodeTx.any (fun t => t.line == l && !(t.ts == .wb && copyOnly)) ||
  c.homeTx.any (fun t => t.line == l) || c.flows.any (fun f => f.locks && f.line == l) ||
  c.agentWbs.any (fun w => w.line == l) || c.hamperWait.any (fun h => h.line == l) || c.setLocked l

/-- The holder of a line uses fabric messages (R106). -/
def Coh.holderFabric (c : Coh) (l : LineAddr) : Bool :=
  (match c.txnOf l with | some t => t.fabric | none => false) || (c.nodeTxOf l).isSome ||
  (match c.homeTxOf l with
   | some h => h.req.remote || h.fwdTo.isSome || !h.invs.isEmpty || !h.recalls.isEmpty
   | none => false)

/-- A request waits; behind a home fabric lock it is counted the first time. -/
def Coh.holdBack (c : Coh) (r : Req) : Coh :=
  let locked := c.lockedLine r.line
  let c1 := c.requeue { r with waited := r.waited || locked, waitedFab := r.waitedFab || (locked && c.holderFabric r.line) }
  if (c.homeTxOf r.line).isSome && !r.waited then c1.sctr (sliceOf r.line) 0x36 else c1

def Coh.wantDrain (c : Coh) (l : LineAddr) : Coh := c.setPress l (fun p => { p with wanted := true })

/-- Puts a request in service. -/
def Coh.serve (c : Coh) (r : Req) : Coh := { c with txns := c.txns ++ [{ req := r, phase := .ready, snap := c.pressSnap r.line }], wake := true }

/-- The flow that gives a Press entry write permission goes into service with a fill tracker (Table 7.1). -/
def Coh.servePress (c : Coh) (r : Req) : Coh :=
  { c with txns := c.txns ++ [{ req := r.took, phase := .ready, tracker := true, resv := r.resv }], wake := true }

/-- Row of Table 2.4 of a store, remote where its home's acknowledgement completes it (R64, R123). -/
def Coh.noteStore (c : Coh) (r : Req) (away fabric : Bool) : Coh :=
  let c1 := match r.promiseId with
    | some i => c.emit (.row i (if away then 6 else 2) (lineHome r.line) none)
    | none => c
  match r.src with
  | .agent p => c1.emit (.passed p r.point fabric)
  | .pwq p _ => c1.emit (.passed p r.point fabric)
  | _ => c1

/-- The point that a store reaches when its entry shows its bytes. -/
def Req.visiblePoint (r : Req) : List (Port × Nat) :=
  match r.src with
  | .agent p => [(p, r.point)]
  | .pwq p _ => [(p, r.point)]
  | _ => []

/-- An earlier entry of the same port for a DEV line has not been freed (R128). -/
def Coh.devEarlier (c : Coh) (p : PressEntry) : Bool :=
  p.policy == pDEV && c.press.any (fun q => q.policy == pDEV && q.line != p.line && q.port.port? == p.port.port?)

/-- A new Press entry (R127, R128). One that needs a permission flow waits where no fill tracker is free (R108). -/
def Coh.newPress (c : Coh) (e : State) (r : Req) : Coh :=
  let l := r.line
  let s := (sliceOf l).val
  let base : PressEntry := { line := l, cl := mergePress 0 r.cl r.mask, mask := r.mask, policy := e.policy l, port := r.src,
                             cls := r.cls, born := e.fine, st := .pending, diverted := r.divert,
                             hint := if r.op = ReqOp.wrH then some r.tgt else none }
  let away := base.homeWrite e
  let st := c.nodeState e l
  let alone := match c.snfOf l with | some x => x.pres == 0 | none => true
  let noDir := !e.isHome l || (c.dirOf l).isNone
  let granted := away || ((st == tE || st == tM) && (c.hitSlot e l).isSome && alone && noDir)
  let owned := granted && !c.devEarlier base
  let now := owned && !away && base.policy != pDEV
  if !granted && !c.trackerFree e r then c.holdBack r
  else
    let p := { base with st := if owned then .owned else .pending, permReady := granted && !owned,
                         waiters := if away then r.storeWait else [], visible := if now then [] else r.visiblePoint }
    let c1 := (({ c with press := c.press ++ [p] } : Coh).sctr s 0x10).sctr s 0x14 r.divert.toNat
    let c2 := c1.noteStore r away (away || (!granted && !c.permits e r))
    let c3 := if away then c2 else c2.storeDone r
    let c4 := if now then c3.pointOf r else c3
    if granted then c4
    else c4.servePress { src := .press, op := .store, line := l, cls := r.cls, resv := r.resv, order := r.order }

/-- A store that merges (R129). A write hint lends the entry its target (R225). -/
def Coh.mergeStore (c : Coh) (e : State) (r : Req) (p : PressEntry) : Coh :=
  let l := r.line
  let away := p.homeAcked e
  let now := p.st == PressState.owned && !away && p.policy != pDEV
  let q := p.take r.cl r.mask
  let c1 := (c.setPress l (fun _ => { q with visible := if now then q.visible else q.visible ++ r.visiblePoint,
                                             waiters := if away then q.waiters ++ r.storeWait else q.waiters,
                                             diverted := q.diverted && r.divert,
                                             hint := if r.op = ReqOp.wrH then some r.tgt else q.hint })).sctr (sliceOf l) 0x11
  let c2 := c1.noteStore r away away
  let c3 := if away then c2 else c2.storeDone r
  if now then c3.pointOf r else c3

/-- A store or hint on its pass (R122 to R132, Tables 4.1 to 4.3). An OWNED entry whose line an agent has taken since, or whose
permission another node has, drains first: it no longer is what Table 4.2 calls OWNED. -/
def Coh.passStore (c : Coh) (e : State) (r : Req) : Coh :=
  let l := r.line
  let s := (sliceOf l).val
  if r.mask = 0 then
    -- an all-zero mask completes without effect (R122)
    ((c.noteStore r false false).pointOf r).storeDone r
  else
    match c.pressOf l with
    | some p =>
      match p.st with
      | .draining => c.holdBack r
      | .pending => if p.policy = pDEV then c.holdBack r else c.mergeStore e r p
      | .owned =>
        if p.policy = pDEV then c.holdBack r
        else if p.homeWrite e then c.mergeStore e r p
        else
          let alone := match c.snfOf l with | some x => x.pres == 0 | none => true
          if alone && c.permits e r then c.mergeStore e r p else (c.wantDrain l).holdBack r
    | none =>
      if 32 ≤ (c.pressIn s).length then (c.drainOldest e s).holdBack r else c.newPress e r

/-- WrB on its pass (Table 7.7, R253). -/
def Coh.passWrB (c : Coh) (e : State) (r : Req) (p : Port) : Coh :=
  let l := r.line
  let s := (sliceOf l).val
  let done := fun (c : Coh) => (c.pointOf r).emit (.respond p { opc := opWbCmp, tag := r.tag })
  let once : Bool := match c.txnOf l with | some t => t.phase == Phase.useOnce && t.req.src == ReqSrc.agent p | none => false
  if once then
    -- the line that a use-once RdU returns (R199)
    let uo : Bool := match c.txnOf l with | some t => t.uo | none => false
    let st := match c.txnOf l with | some t => if e.isHome l || t.writePending then 0 else (if uo then 0 else tM) | none => 0
    match c.mergeWb e l r.cl p r.cls st with
    | none => (c.drainOldest e s).requeue r
    | some c1 =>
      let c2 := (done (c1.noteRow r false false)).setTxn l (fun t => { t with phase := .done, ackPending := false })
      if uo then
        -- UW: the line goes back to the home by FWb (R242)
        (c2.toHome e fWb l id (.line r.cl)).setPress l (fun q => { q with st := .draining, drain := .remoteWb false })
          |>.woken
      else c2.woken
  else
    match c.snfOf l with
    | none => done ((c.noteRow r false false).sctr s 0x35)
    | some x =>
      if !x.named p then done ((c.noteRow r false false).sctr s 0x35)
      else if x.owner = some p then
        let nst := if e.isHome l || (c.hitSlot e l).isSome then 0 else x.nst
        match c.mergeWb e l r.cl p r.cls nst with
        | none => (c.drainOldest e s).holdBack r
        | some c1 =>
          let c2 := c1.setSnfOf l (fun x => { x with pres := x.pres &&& ~~~ portBit p, ast := aSH, ownp := 0 })
          (done (c2.noteRow r false false)).tidySnf e l
      else c.protoErr e l (reqAgent p) 0 0x0A (32 + x.ast.toNat)

/-- EvC on its pass (Table 7.7). -/
def Coh.passEvC (c : Coh) (e : State) (r : Req) (p : Port) : Coh :=
  let l := r.line
  let done := fun (c : Coh) => ((c.noteRow r false false).pointOf r).emit (.respond p { opc := opWbCmp, tag := r.tag })
  match c.snfOf l with
  | none => done c
  | some x =>
    if x.ast = aOW ∧ x.owner = some p then c.protoErr e l (reqAgent p) 0 0x0B (32 + x.ast.toNat)
    else (done (c.setSnfOf l (fun x => { x with pres := x.pres &&& ~~~ portBit p }))).tidySnf e l

/-- The placement of an atomic (R220): the home slice, or the memory-port ALU. -/
def Coh.atomInSlice (c : Coh) (e : State) (r : Req) : Bool :=
  let l := r.line
  let place := e.rf F.GLB_ATOM_CFG.PLACE
  let held := (c.hitSlot e l).isSome || (c.anyHamper l).isSome || (c.snfOf l).isSome || (c.dirOf l).isSome
  if place = 1 then true else if place = 2 then false
  else !r.noAlloc && (held || c.isHot e l)

/-- Cells of Table 7.7 that no agent may reach. -/
def Coh.barred (c : Coh) (r : Req) : Bool :=
  match r.src, c.snfOf r.line with
  | .agent p, some x => x.ast == aOW && x.owner == some p && (r.op == ReqOp.rdS || r.op == ReqOp.upg)
  | _, _ => false

/-- A hit of a read, an ownership request or an atomic of the home slice is counted; a demand of this node sets AGE and PF,
unless the line has just been reclaimed with its insertion age (Tables 3.8 and 4.3). -/
def Coh.hitPass (c : Coh) (e : State) (r : Req) (reclaimed : Bool) : Coh :=
  match c.hitSlot e r.line with
  | some k =>
    if r.op.fills || r.op == ReqOp.rdC || (r.op == ReqOp.atm && e.isHome r.line && !r.noAlloc) then
      (let c1 := c.sctr (sliceOf r.line) 0
       if r.demand && !reclaimed then c1.demandHit e k else c1)
    else c
  | none => c

/-- The request goes into service, with its row of Table 2.4. A request that waited behind a lock counts as one that missed, with
the holder's fabric messages as its own (R106). `alu` says that a line of the Hamper has no slot for an atomic (R220). -/
def Coh.enter (c : Coh) (e : State) (r : Req) (reclaimed : Bool := false) (alu : Bool := false) : Coh :=
  let l := r.line
  if c.barred r then
    let who := match r.src with | .agent p => reqAgent p | _ => reqDevice
    c.protoErr e l who 0 (if r.op = ReqOp.upg then 3 else 1) (32 + aOW.toNat)
  else
    let place := r.op == ReqOp.atm && e.isHome l
    let r := if place then { r with noAlloc := alu || !c.atomInSlice e r } else r
    let fabric := r.farAtomic e || !c.permits e r || (!e.isHome l && (r.op == ReqOp.clean || r.op == ReqOp.flush)) || r.waitedFab
    let slow := !(c.snoopPlan e r).isEmpty || (c.hitSlot e l).isNone || r.waited
    ((c.noteRow r fabric slow (c.chain e r)).hitPass e r reclaimed).serve r

/-- A request of Table 4.3 that allocates, and a victim exists; a HELD entry's reclaim frees an entry (R144). -/
def Coh.mayReclaim (c : Coh) (e : State) (r : Req) (h : HamperEntry) : Bool :=
  !h.copy && r.mayAlloc e && r.op != ReqOp.upg && (c.victim e r.line (e.allocMask r) (!h.writing)).1.isSome

/-- Hamper entry (Table 4.3, R146), then service. A copy of CLEAN by set and way leaves the line in its slot (R151). -/
def Coh.meetHamper (c : Coh) (e : State) (r : Req) : Coh :=
  let l := r.line
  match (if r.farAtomic e then none else c.anyHamper l) with
  | none => c.enter e r
  | some h =>
    match r.op with
    | .clean => (if h.writing then c else c.hamperGo e h).holdBack r
    | .flush => (if h.writing then c else c.hamperGo e h).holdBack r
    | .inval => if h.writing then c.holdBack r else c.enter e r
    | op =>
      if c.mayReclaim e r h then
        if h.writing then c.holdBack r
        else match c.reclaim e l (e.allocMask r) (r.insAge e).1 (r.insAge e).2 with
          | some c1 => c1.enter e r (reclaimed := true)
          | none => c.enter e r
      else if op = ReqOp.atm then (if h.writing then c.holdBack r else c.enter e r (alu := !h.copy))
      else c.enter e r

/-- Every line-level operation of this node that a pass may put in service. -/
def Coh.passLocal (c : Coh) (e : State) (r : Req) : Coh :=
  let l := r.line
  -- Press entry (R490, Table 4.2)
  let stops := r.op == ReqOp.rdU || r.op == ReqOp.upg || r.op == ReqOp.atm || r.op == ReqOp.clean || r.op == ReqOp.flush || r.op == ReqOp.inval
  match c.pressOf l with
  | some p =>
    match p.st with
    | .pending => c.holdBack r
    | _ =>
      if stops || p.homeWrite e then (if p.st = PressState.owned then c.wantDrain l else c).holdBack r else c.meetHamper e r
  | none => c.meetHamper e r

/-- An allotted request takes its IN unit (R73). -/
def Coh.allotted (c : Coh) (e : State) (r : Req) : Req :=
  match r.src with
  | .node n _ b => { r with allot := r.allot || (b && decide (c.inUsed n.toNat < e.allotIn n.toNat)) }
  | _ => r

/-- An FAtm that the home slice performs (R220): a line in the Hamper is reclaimed, or the ALU takes the atomic. -/
def Coh.passFatm (c : Coh) (e : State) (r : Req) : Coh :=
  let l := r.line
  let r := { r with noAlloc := false }
  match c.anyHamper l with
  | some h =>
    if h.copy then (c.hitPass e r false).serve (c.allotted e r)
    else if c.mayReclaim e r h then
      (if h.writing then c.holdBack r
       else match c.reclaim e l (e.allocMask r) (r.insAge e).1 (r.insAge e).2 with
         | some c1 => (c1.hitPass e r true).serve (c.allotted e r)
         | none => c.holdBack r)
    else if h.writing then c.holdBack r
    else c.homeStart e { r with noAlloc := true } 0
  | none => (c.hitPass e r false).serve (c.allotted e r)

/-- A fabric request at the home (Table 6.6, R490, R107). -/
def Coh.passHome (c : Coh) (e : State) (r : Req) : Coh :=
  let l := r.line
  match c.pressVisible l with
  | some p =>
    if r.op = ReqOp.rdC then c.homeStart e r 0 else (if p.st = PressState.owned then c.wantDrain l else c).holdBack r
  | none =>
    if r.op = ReqOp.atm ∧ c.atomInSlice e r then c.passFatm e r
    else
      let r := if r.op = ReqOp.atm then { r with noAlloc := true } else r
      match c.anyHamper l with
      | some h =>
        if r.op = ReqOp.clean then (if h.writing then c else c.hamperGo e h).holdBack r
        else if r.takesLine && h.writing then c.holdBack r
        else c.homeStart e r 0
      | none => c.homeStart e r 0

/-- An incoming fabric tracker of the line's die is free for a request (Table 1.3, R73): 512 on each die, of which every IN
unit reserves one for an allotted request of its source. -/
def Coh.incomingFree (c : Coh) (e : State) (r : Req) : Bool :=
  let here := fun (l : LineAddr) => dieBit l == dieBit r.line
  let used := (c.homeTx.filter (fun h => h.req.remote && !h.allot && here h.line)).length
    + (c.txns.filter (fun t => t.req.remote && !t.req.allot && here t.req.line)).length
  (c.allotted e r).allot || decide (used + e.img.allotIn.foldl (fun a x => a + x.2) 0 < 512)

/-- Table 5.2. A prefetch that has to fill waits behind earlier requests for its line. -/
def Coh.passPrefetch (c : Coh) (e : State) (r : Req) (earlier : Bool) : Coh :=
  let l := r.line
  if (c.hitSlot e l).isSome then c.prefetchNone r
  else
    match c.txnOf l, c.pressOf l, c.hamperOf l with
    | some t, _, _ =>
      if t.tracker && !t.req.remote then c.setTxn l (fun t => { t with joined := t.joined ++ [r.took] }) else c.prefetchNone r
    | none, some p, _ => (if p.st = PressState.owned then c.wantDrain l else c).prefetchNone r
    | none, none, some h =>
      if !c.mayReclaim e r h then c.prefetchNone r
      else if h.writing || c.blocked l then c.holdBack r
      else match c.reclaim e l (e.allocMask r) (r.insAge e).1 (r.insAge e).2 with
        | some c1 => c1.prefetchNone r
        | none => c.prefetchNone r
    | none, none, none =>
      let snoops := ((c.snfOf l).bind SnfEntry.owner).isSome ||
        (match c.dirOf l with | some d => e.isHome l && (d.ownerOf e).isSome | none => false)
      let resident := !e.isHome l && c.nodeState e l != tI
      if c.blocked l || snoops || resident || !r.mayAlloc e then c.prefetchNone r
      else if (c.victim e l (e.allocMask r) false).1.isNone then (c.victim e l (e.allocMask r) false).2.prefetchNone r
      else if earlier then c.holdBack r
      else c.serve r

/-- A snoop filter set whose entry has lost its parity is purged (R213). -/
def Coh.purgeStart (c : Coh) (e : State) (s set : Nat) : Coh :=
  let ps := (fins 6).filter (fun p => e.caching p && !e.dead p)
  let l0 := BitVec.ofNat 45 (s + 32 * set)
  let id := c.nextFlow
  let c1 := { c with lockedSnf := addSet c.lockedSnf (s * 512 + set),
                     flows := c.flows ++ [{ id := id, line := l0, kind := .purge (Fin.ofNat 32 s) set, await := ps.length }],
                     nextFlow := id + 1, wake := true }
  ps.foldl (fun c p => c.putSnoop e p opSnpP l0 id (BitVec.ofNat 52 (s + 32 * set)) none) c1

/-- Parity of the snoop filter set, and of the directory set at the home, that a pass reads (R213, R218). -/
def Coh.checkSets (c : Coh) (e : State) (l : LineAddr) : Coh :=
  let s := (sliceOf l).val
  let sset := snfSetIdx l
  let dset := dirSetIdx l
  let c1 := if !c.lockedSnf.contains (s * 512 + sset) && (snfKeys l).any (fun k => !snfGood (c.snfAt k)) then c.purgeStart e s sset else c
  if !c1.lockedDir.contains (s * 2048 + dset) && e.isHome l && (dirKeys l).any (fun k => !dirGood (c1.dirAt k)) then
    c1.recallSetStart e s dset
  else c1

/-- What every pass for a line reads and checks first (R99, R102). -/
def Coh.readRow (c : Coh) (e : State) (l : LineAddr) : Coh := (c.checkRow (sliceOf l) (setIdx e.sets l)).checkSets e l

/-- A forward, invalidation or recall at its slice; one for a snoop filter set under a purge waits for its end (R213). -/
def Coh.takeSnp (c : Coh) (e : State) (msg : Fin 5) (h : FabHdr) (ackF inv : Bool) : Coh :=
  let c1 := c.readRow e h.line
  if c1.lockedSnf.contains ((sliceOf h.line).val * 512 + snfSetIdx h.line) then
    { c1 with snpWait := c1.snpWait ++ [(msg, h, ackF, inv)] }
  else c1.recvSnp e msg h ackF inv

/-- Those that waited go on. -/
def Coh.snpNext (c : Coh) (e : State) : Coh :=
  c.snpWait.foldl (fun (c : Coh) x => c.takeSnp e x.1 x.2.1 x.2.2.1 x.2.2.2) { c with snpWait := [] }

/-- An earlier operation of the same port for the line is on its way to the home (R258). -/
def Coh.farBefore (c : Coh) (r : Req) : Bool :=
  match r.src with
  | .agent p => c.outTrks.any (fun t => t.use == .remoteOp && t.req.src == .agent p && t.req.line == r.line)
  | _ => false

/-- FWb and FEv of another node (Table 7.1, R236). KEEP of an FWb stands in `nr`. -/
def Coh.passEvict (c : Coh) (e : State) (r : Req) : Coh :=
  match r.src with
  | .node n k b =>
    let h : FabHdr := { src := n, rqn := n, rtrk := k, htrk := 0, bounded := b, line := r.line }
    if r.op = ReqOp.fwb then c.recvFWb e h r.cl r.nr else c.recvFEv e h
  | _ => c

/-- The request joins the fill of the line (Table 7.1). -/
def Txn.joinable (t : Txn) (r : Req) : Bool :=
  t.tracker && !t.uo && !r.remote && (r.op == ReqOp.rd || r.op == ReqOp.rdC) && t.phase != Phase.done && t.phase != Phase.useOnce &&
    (t.req.op == ReqOp.rdS || t.req.op == ReqOp.rd || t.req.op == ReqOp.prefetch)

/-- A read without a victim joins the Hamper entry of its line (Table 4.3). -/
def Coh.joinsHamper (c : Coh) (e : State) (r : Req) : Bool :=
  match c.hamperOf r.line with
  | some h => !r.remote && (r.op == ReqOp.rdS || r.op == ReqOp.rdU || r.op == ReqOp.rd || r.op == ReqOp.rdC) && !c.mayReclaim e r h
  | none => false

/-- The pass of a request (R102). Requests that wait for a line pass in order of arrival; a later one passes them only where it
joins the holder, merges into a PENDING entry, or ends a use-once grant (R105, R235, Table 4.2). -/
def Coh.pass (c : Coh) (e : State) (r : Req) : Coh :=
  let l := r.line
  let c := c.readRow e l
  let before := c.wait.filter (fun q => q.line == l && decide (q.order < r.order))
  let earlier := !before.isEmpty
  let own := before.any (fun q => q.src.port?.isSome && q.src.port? == r.src.port?)
  if c.setLocked l then c.holdBack r
  else if r.op = ReqOp.fwb ∨ r.op = ReqOp.fev then
    if (c.homeTxOf l).isSome then c.passEvict e r
    else if c.blocked l || (c.hamperOf l).isSome || earlier then c.holdBack r else c.passEvict e r
  else if r.src = .press then
    if c.blocked l || earlier || !c.trackerFree e r then c.holdBack r else c.servePress r
  else if c.farBefore r || (r.remote && !c.incomingFree e r) then c.holdBack r
  else if r.op = ReqOp.prefetch ∧ !r.remote then c.passPrefetch e r earlier
  else
    let store := !r.remote && (r.op == ReqOp.store || r.op == ReqOp.wrH)
    let pend := match c.pressOf l with | some p => p.st == PressState.pending && !c.agentWbs.any (fun w => w.line == l) | none => false
    let once := match c.txnOf l, r.src with
      | some t, .agent p => r.op == ReqOp.wrB && t.phase == Phase.useOnce && t.req.src == ReqSrc.agent p
      | _, _ => false
    match c.txnOf l, r.src with
    | some t, src =>
      if store && pend && r.mask != 0 && !own then c.passStore e r
      else if once then (match src with | .agent p => c.passWrB e r p | _ => c)
      else if t.joinable r && !own then
        ((c.setTxn l (fun t => { t with joined := t.joined ++ [r] })).noteRow r (t.fabric || r.waitedFab) true).joinFill t r
      else c.holdBack r
    | none, src =>
      if store && pend && r.mask != 0 && !own then c.passStore e r
      else if c.blocked l || (earlier && (own || !c.joinsHamper e r)) then c.holdBack r
      else if r.remote then c.passHome e r
      else
        match r.op, src with
        | .store, _ => c.passStore e r
        | .wrH, _ => c.passStore e r
        | .wrB, .agent p => c.passWrB e r p
        | .evC, .agent p => c.passEvC e r p
        | _, _ => c.passLocal e r

/-! ### Snoop answers (R249 to R251) -/

/-- The dirty line of a snoop answer in state I goes into a Press entry (R251), rather than to the requester or an answer. -/
def FlowKind.toPress (k : FlowKind) (t : Option Txn) (h : Option HomeTx) : Bool :=
  match k with
  | .serve =>
    match t with
    | some t => (match t.req.op with
      | .rdU => false
      | .upg => false
      | .clean => false
      | .flush => false
      | .inval => false
      | _ => true)
    | none => true
  | .backInv _ => true
  | .purge _ _ => true
  | .home => match h with | some h => h.req.row == .rdS || h.req.row == .rdC | none => false
  | _ => false

/-- New state of the snoop filter entry after an answer. -/
def SnfEntry.answered (x : SnfEntry) (p : Port) (newst : AgSt) : SnfEntry :=
  let gone := { x with pres := x.pres &&& ~~~ portBit p }
  let wasOwner := x.owner == some p
  match newst with
  | .i => if wasOwner then { gone with ast := aSH, ownp := 0 } else gone
  | .s => if wasOwner then { x with ast := aSH, ownp := 0 } else x
  | .o => if wasOwner then { x with ast := aOW, ownp := BitVec.ofNat 3 p.val } else x
  | _ => x

/-- An answer to a snoop: counted, its data kept, the entry updated. `cl` is the line it carries. -/
def Coh.snoopAnswered (c : Coh) (x : Snoop) (newst : AgSt) (dirty : Bool) (cl : Option CodeLine) : Coh :=
  let l := x.line
  let c1 := { c with snoops := c.snoops.filter (fun y => !(y.port == x.port && y.tag == x.tag && !y.deferred)), wake := true }
  match c1.flows.find? (fun f => f.id == x.flow) with
  | none => c1
  | some f =>
    let c2 := if cl.isSome then c1.sctr (sliceOf l) 0x21 else c1
    let owner := x.owner || (match c2.snfOf l with | some y => y.owner == some x.port | none => true)
    let toPress := newst == .i && dirty && f.kind.toPress (c2.txnOf l) (c2.homeTxOf l) && cl.isSome && owner
    let c3 := if toPress then
        ({ c2 with agentWbs := c2.agentWbs ++ [{ line := l, cl := cl.getD 0, port := x.port }] } : Coh).sctr (sliceOf l) 0x34
      else c2
    let hint := match f.kind with | .hint _ _ _ => true | _ => false
    let c4 := if hint then c3 else c3.setSnfOf l (fun y => y.answered x.port newst)
    { c4 with flows := c4.flows.map (fun g =>
        if g.id = f.id then
          { g with await := g.await - 1
                   data := if cl.isSome && (g.data.isNone || dirty) then cl else g.data
                   dirty := g.dirty || (if x.opc = opSnpH then dirty else dirty && cl.isSome && !hint) }
        else g) }

/-- A line that a purge returned: a write-back of the agent where an entry names it, else it goes to the Hamper at home and by
FWb elsewhere (R213, step 4). -/
def Coh.returned (c : Coh) (e : State) (p : Port) (l : LineAddr) (cl : CodeLine) : Coh :=
  if (c.snfOf l).isSome then
    ({ c with agentWbs := c.agentWbs ++ [{ line := l, cl := cl, port := p }] } : Coh).sctr (sliceOf l) 0x34
  else if e.isHome l then c.putHamper e { line := l, cl := cl, st := tM }
  else c.leaveByFWb e l cl 0

/-- Answers of a purge (R213) or a set recall carry lines one by one before the last answer. -/
def Coh.purgeLine (c : Coh) (e : State) (f : Flow) (p : Port) (l : LineAddr) (cl : CodeLine) : Coh :=
  match f.kind with
  | .purge _ _ => c.returned e p l cl
  | .recallSet src htrk _ set _ =>
    if lineHome l == src.toNat && dirSetIdx l == set then
      let c1 := c.sendNode e { opc := fRecallData, dst := src.toNat, htrk := htrk.toNat, line := l } (.line cl)
      let c2 := c1.dropNodeCopy e l
      { c2 with flows := c2.flows.map (fun g =>
          if g.id = f.id then { g with kind := match g.kind with
            | .recallSet a b s t n => .recallSet a b s t (n + 1)
            | k => k } else g) }
    else c.returned e p l cl
  | _ => c

/-- After SnpP no agent holds a line of the set: every good entry is freed (R210). -/
def Coh.emptySet (c : Coh) (e : State) (s : SliceNo) (set : Nat) : Coh :=
  ((List.range 16).map (snfKey s.val set)).foldl (fun c k =>
    let x := c.snfAt k
    if x.ast != aFree && snfGood x then (c.putSnf k { x with pres := 0 }).tidySnf e (snfLine k x) else c) c

/-- The set is unlocked, unless another purge or recall of it is under way. -/
def Coh.unlockSnf (c : Coh) (s : SliceNo) (set : Nat) : Coh :=
  let more := c.flows.any (fun f => match f.kind with
    | .purge t k => t == s && k == set
    | .recallSet _ _ t k _ => t == s && k % 512 == set
    | _ => false)
  if more then c else { c with lockedSnf := c.lockedSnf.filter (fun x => x != s.val * 512 + set), wake := true }

/-- The end of a set purge (R213, steps 3 to 6). -/
def Coh.purgeEnd (c : Coh) (e : State) (s : SliceNo) (set : Nat) : Coh :=
  let c1 := c.emptySet e s set
  let c2 := ((List.range 16).map (snfKey s.val set)).foldl (fun c k => { c with snf := Sparse.set (fun _ => snfFree) c.snf k snfFree }) c1
  (c2.unlockSnf s set).emits
    [.regBit (Reg.SNF_ERR s.val) 0, .regFld (Reg.SNF_ERR s.val) 16 9 set,
     .log 96 s.val true (formASlot none reqDevice 0 e.node s.val set 0)]

/-- The end of FRecallSet's SnpP: the lines of the directory set leave, the agents of the other lines of the snoop filter set
have dropped theirs too, and FRecallAck counts the data (R218, R241). -/
def Coh.recallSetFinish (c : Coh) (e : State) (src : NodeId) (htrk : BitVec 11) (s : SliceNo) (set n : Nat) : Coh :=
  let r := (c.setLines e src s set).foldl (fun a l => let r := a.1.recallSetLine e src htrk l none false; (r.1, a.2 + r.2)) (c, n)
  ((r.1.emptySet e s (set % 512)).unlockSnf s (set % 512)).recallSetAck e src htrk s set r.2

/-- What follows when every answer of a flow is in. -/
def Coh.flowDone (c : Coh) (e : State) (f : Flow) : Coh :=
  let l := f.line
  let c1 := c.dropFlow f.id
  match f.kind with
  | .serve =>
    c1.setTxn l (fun t => { t with phase := .ready, snooped := true,
                                   agentData := t.agentData || (f.data.isSome && t.data.isNone),
                                   data := match f.data with | some d => some d | none => t.data
                                   dirty := t.dirty || f.dirty })
  | .home =>
    c1.setHome l (fun h => { h with
      snooping := false
      data := match f.data with | some d => if f.dirty || h.data.isNone then some d else h.data | none => h.data
      dirty := h.dirty || (f.dirty && h.req.row != .rdS && h.req.row != .rdC) })
      |> fun c2 => if (c2.homeTxOf l).any (fun h => h.req.takesLine) then
          (match c2.snfKeyOf l with | some k => c2.clearSnf k | none => c2) else c2
  | .answer msg h ackF inv ns =>
    if ns = tS ∧ msg.val ≠ 0 ∧ msg.val ≠ 2 then (c1.dropNodeCopy e l).answerI e msg h
    else c1.answerDone e msg h ackF inv ns f.data f.dirty f.held
  | .backInv nst => c1.freedNst e l nst
  | .hint tgt offered took =>
    if !offered then
      match c1.pressOf l with
      | some p =>
        let id := c1.nextFlow
        let c2 : Coh := { c1 with flows := c1.flows ++ [{ id := id, line := l, kind := .hint tgt true took, await := 1 }], nextFlow := id + 1 }
        let c3 := c2.setSnfOf l (fun x => { x with pres := 0, ast := aSH, ownp := 0 })
        c3.putSnoop e tgt opSnpH l id (saOf l) (some p.cl)
      | none => c1
    else
      match c1.pressOf l with
      | some p =>
        if f.dirty then
          -- accepted: the target holds the only copy of the node, in EX
          let c2 := match c1.hitSlot e l with | some k => c1.freeTag k | none => c1
          let c3 := c2.setSnfOf l (fun x => { x with pres := portBit tgt, ast := aEX, ownp := 0, ref := true })
          c3.drainEnd p
        else (c1.hintInstall e p).tidySnf e l
      | none => c1.tidySnf e l
  | .purge s set => c1.purgeEnd e s set
  | .recallSet src htrk s set n => c1.recallSetFinish e src htrk s set n
  | .evict =>
    match c1.hamper.find? (fun h => h.line == l && !h.copy && !h.writing) with
    | some h =>
      let cl := if f.dirty then f.data.getD h.cl else h.cl
      let c2 : Coh := { c1 with hamper := modFirst (fun x => x.line == l && !x.copy) (fun x => { x with writing := true, cl := cl }) c1.hamper }
      c2.sendFWb e l cl (c2.keepFor l h.st)
    | none =>
      let ns := c1.nodeState e l
      let c2 := match c1.snfKeyOf l with | some k => c1.clearSnf k | none => c1
      let c3 := c2.setPress l (fun p => { p with nst := 0 })
      if f.dirty then c3.leaveByFWb e l (f.data.getD 0) 0
      else if ns = tI || (c3.anyHamper l).isSome then c3 else c3.sendFEv e l
  | .deadNode =>
    let dirty := f.dirty || isMod (c1.nodeState e l)
    let c2 := (c1.dropNodeCopy e l)
    if dirty then c2.sctr (sliceOf l) 0x2F else c2
  | .fallow =>
    let c2 := match f.dirty, f.data with
      | true, some d =>
        (match c1.hitSlot e l with
         | some k => (c1.writeSlot e k d).setTag k (fun t => { t with st := if isMod t.st then t.st else tM, poison := anyMark d })
         | none => c1.putHamper e { line := l, cl := d, st := tM })
      | _, _ => c1
    (c2.setSnfOf l (fun x => { x with pres := 0, ast := aSH, ownp := 0 })).tidySnf e l

/-! ### Poisoning (R228) -/

/-- The line of a dead agent: every word is marked, over the bits of the node's copy or 0. It goes to the tag, to M(d), or away by
FWb; no other unit of the node keeps unmarked bytes of it. -/
def Coh.poison (c : Coh) (e : State) (l : LineAddr) (p : Port) : Coh :=
  let c1 := (c.sctr (sliceOf l) 0x2E).emit (.poisonedBy p)
  let o := c1.answerOverlay e l
  match c1.hitSlot e l with
  | some k =>
    let rd := c1.readSlot e k
    (((rd.2.writeSlot e k (poisonLine (mergePress rd.1 o.1 o.2))).setTag k (fun t => { t with st := tM, poison := true })).dropHeld l).voidPress e l
  | none =>
    let base := match c1.anyHamper l with
      | some h => h.cl
      | none => ((c1.pressVisible l).bind PressEntry.under).getD 0
    let d := poisonLine (mergePress base o.1 o.2)
    let c2 := (c1.dropHeld l).voidPress e l
    let c3 := { c2 with hamper := c2.hamper.map (fun (h : HamperEntry) => if h.line = l then { h with cl := poisonLine h.cl } else h) }
    if e.isHome l then c3.writeBack l d
    else (c3.setSnfOf l (fun x => { x with nst := 0 })).leaveByFWb e l d 0

/-- The owner's line of a snoop to a dead port: poisoned before the answer counts (R227). The full line of a hint replaces it in
any case (R225). A request that the snoop serves for a line that has left the node passes again. -/
def Coh.poisonFor (c : Coh) (e : State) (x : Snoop) : Coh :=
  match c.flows.find? (fun f => f.id == x.flow) with
  | none => c
  | some f =>
    match f.kind with
    | .hint _ _ _ => c
    | .serve =>
      let c1 := c.poison e x.line x.port
      if e.isHome x.line || (c1.hitSlot e x.line).isSome then c1
      else (match c1.txnOf x.line with
        | some t => if t.phase = .snoop then c1.retryTxn t else c1
        | none => c1)
    | _ => c.poison e x.line x.port

/-- SnpP to a dead port: every line of the set that an entry names it as owner of is poisoned (R213, R227). -/
def Coh.poisonSet (c : Coh) (e : State) (x : Snoop) : Coh :=
  (snfKeys x.line).foldl (fun c k =>
    let y := c.snfAt k
    if y.ast != aFree && snfGood y && y.owner == some x.port then c.poison e (snfLine k y) x.port else c) c

/-- Snoops to ports whose agent is dead are taken as answered with I; the owner's line is poisoned first (R227 step 3). -/
def Coh.deadSnoops (c : Coh) (e : State) : Coh :=
  (c.snoops.filter (fun x => e.dead x.port && !x.deferred)).foldl (fun c x =>
    let c1 := if x.opc = opSnpP then c.poisonSet e x else if x.owner then c.poisonFor e x else c
    c1.snoopAnswered x .i false none) c

/-- AckC, WrB and unsent snoops of dead ports are no longer awaited. -/
def Coh.deadAcks (c : Coh) (e : State) : Coh :=
  let isDead := fun (r : Req) => match r.src with | .agent p => e.dead p | _ => false
  let uws := c.txns.filter (fun t => isDead t.req && t.phase == Phase.useOnce && (c.nodeTxOf t.req.line).any (fun n => n.ts == .uw))
  -- a line lent for one use goes back to its home, poisoned
  let c0 := uws.foldl (fun (c : Coh) (t : Txn) => c.toHome e fWb t.req.line id (.line (poisonLine (t.data.getD 0)))) c
  let c1 : Coh := { c0 with txns := c0.txns.map (fun t =>
    if isDead t.req && t.phase == Phase.useOnce then { t with phase := .done, ackPending := false }
    else if isDead t.req then { t with ackPending := false } else t) }
  (c1.snoops.filter (fun x => e.dead x.port && x.deferred)).foldl (fun c x => c.releaseSnoops e x.port x.line) c1

/-- PENDING becomes OWNED at the pass that completes the permission flow (R128), when no agent write-back is on its way and, for
a DEV line, every earlier DEV entry of the port has been freed. Where a forward or an invalidation has taken the permission in
between, the flow starts again. A line lent for one use goes straight back to its home (R217, R242). -/
def Coh.permGranted (c : Coh) (e : State) (l : LineAddr) : Coh :=
  match c.pressOf l with
  | none => c
  | some p =>
    let dev := p.policy = pDEV
    let own := fun (c : Coh) (nst : BitVec 3) =>
      (if dev then c else c.emits p.show).setPress l (fun p => { p with st := .owned, nst := nst, visible := if dev then p.visible else [] })
    if p.st ≠ .pending ∨ !p.permReady ∨ c.agentWbs.any (fun w => w.line == l) ∨ c.devBehind p then c
    else
      match c.txnOf l with
      | none => (own c 0).woken
      | some t =>
        if t.req.src ≠ .press ∨ t.phase ≠ .done then c
        else
          let alone := match c.snfOf l with | some x => x.pres == 0 | none => true
          if t.uo then c.pressUo e l t
          else if !c.permits e t.req || !alone then
            ((c.setPress l (fun p => { p with permReady := false })).setTxn l (fun t =>
              { t with phase := .ready, permitted := false, snooped := false, ackPending := false })).woken
          else (((own c t.install).dropTxn l).endJoined t).tidySnf e l

/-! ### Dead nodes (R231, R232) -/

/-- A line homed at a node declared dead. -/
def State.deadHome (e : State) (l : LineAddr) : Bool := e.deadNodes.contains (lineHome l)

def State.deadNode (e : State) (n : NodeId) : Bool := e.deadNodes.contains n.toNat

/-- As a home: what a dead node still owes counts as received. The line of a dead owner in a recall slot is poisoned like one
that the directory names. -/
def Coh.deadAsHome (c : Coh) (e : State) : Coh :=
  let alive := fun (n : NodeId) => !e.deadNode n
  let owes := fun (h : HomeTx) => h.req.remote && e.deadNode (reqNodeId e h.req) &&
    (h.ts == .hc || h.ts == .hu || (h.ts == .hf && h.invs.all e.deadNode && !h.missed))
  let lost := c.homeTx.filter (fun h => h.ts == .hr &&
    (match h.recOwner with | some n => e.deadNode n && h.awaits n | none => false))
  let c1 := lost.foldl (fun (c : Coh) (h : HomeTx) =>
    let rd := c.readMem e h.line
    (rd.2.writeBack h.line (poisonLine rd.1)).sctr (sliceOf h.line) 0x2E) c
  { c1 with
    homeTx := (c1.homeTx.filter (fun h => !owes h)).map (fun h =>
      { h with
        invs := h.invs.filter alive
        recalls := h.recalls.filter alive
        due := h.due.filter alive
        missed := h.missed || (h.data.isNone && (match h.fwdTo with | some n => e.deadNode n | none => false)) })
    setRecalls := c1.setRecalls.map (fun r => { r with await := r.await.filter alive, dataLeft := r.dataLeft.filter (fun x => alive x.1) }) }

/-- The directory walk: a dead owner's line is poisoned in memory, dead sharers leave exact records. -/
def Coh.deadDir (c : Coh) (e : State) : Coh :=
  c.dir.foldl (fun (c : Coh) (x : Nat × DirEntry) =>
    let d := x.2
    if d.st = 0 then c
    else
      let l := dirLine e.node x.1 d
      let gone := (d.st == dEX || d.st == dOW) && e.deadNode d.owner
      let c1 := if gone then
          (let rd := c.readMem e l
           let c1 := (rd.2.writeBack l (poisonLine rd.1)).sctr (sliceOf l) 0x2E
           c1.dropDirOwner e x.1)
        else c
      let d1 := c1.dirAt x.1
      if d1.st = 0 || d1.fmt || d1.st = dEX || !(sharerPtrs d1.sharers).any e.deadNode then c1
      else c1.writeDir e x.1 { d1 with sharers := mkSharers ((sharerPtrs d1.sharers).filter (fun n => !e.deadNode n)) }) c

/-- As a requester: a request to a line of a dead home ends with the dead-node status; an agent's write-back or eviction
is acknowledged with it. -/
def Coh.deadReq (c : Coh) (r : Req) : Coh :=
  match r.op, r.src with
  | .wrB, .agent p =>
    ((c.pointOf r).emit (.respond p { opc := opWbCmp, tag := r.tag, stat := 5 })).setSnfOf r.line (fun x =>
      { x with pres := x.pres &&& ~~~ portBit p })
  | .evC, .agent p =>
    ((c.pointOf r).emit (.respond p { opc := opWbCmp, tag := r.tag, stat := 5 })).setSnfOf r.line (fun x =>
      { x with pres := x.pres &&& ~~~ portBit p })
  | _, _ => c.failReq r 5

/-- A request that has not been answered fails; one that has been goes on to its AckC and its install. -/
def Coh.failOpen (c : Coh) (l : LineAddr) : Coh :=
  match c.txnOf l with
  | some t => if t.phase = .done ∨ t.phase = .useOnce then c else c.failTxn l 5
  | none => c

/-- Outgoing requests, permission flows, write-backs, Press and Hamper entries toward a dead home end. -/
def Coh.deadAsRequester (c : Coh) (e : State) : Coh :=
  let c1 := (c.outTrks.filter (fun t => e.deadNode t.dst)).foldl (fun (c : Coh) (t : OutTrk) =>
    match t.use with
    | .line => (c.dropTrk t.rtrk).failOpen t.req.line
    | .drain => (c.dropTrk t.rtrk).pressAcked t.req.line 5
    | _ => (c.dropTrk t.rtrk).deadReq t.req) c
  let c2 := (c1.txns.filter (fun t => e.deadHome t.req.line)).foldl (fun (c : Coh) (t : Txn) => c.failOpen t.req.line) c1
  let c3 := (c2.nodeTx.filter (fun t => e.deadHome t.line)).foldl (fun (c : Coh) (t : NodeTx) => c.endNode t.line) c2
  let c4 := (c3.press.filter (fun p => e.deadHome p.line)).foldl (fun (c : Coh) (p : PressEntry) =>
    let c1 := (((c.emits p.show).storesDone p.waiters 5).dropPress p.line).sctr (sliceOf p.line) 0x2F
    match c1.txnOf p.line with
    | some t => if t.req.src = .press then (c1.dropTxn p.line).endJoined t else c1
    | none => c1) c3
  let c5 := ((c4.hampers).filter (fun h => e.deadHome h.line)).foldl (fun (c : Coh) (h : HamperEntry) =>
    ((if h.copy then c else c.sctr (sliceOf h.line) 0x2F).dropHamper h.line)) c4
  let ws := c5.wait.filter (fun r => e.deadHome r.line)
  ws.foldl (fun (c : Coh) (r : Req) => c.deadReq r) { c5 with wait := c5.wait.filter (fun r => !e.deadHome r.line) }

/-- Lines of a dead home that this node still holds, with no flow under way. -/
def Coh.deadLines (c : Coh) (e : State) (n : Nat) : List LineAddr :=
  let ts := (c.tags.filter (fun x => isValid x.2.st)).map (fun x => c.slotLineAddr e x.1)
  let ns := (c.snf.filter (fun x => x.2.ast != aFree)).map (fun x => snfLine x.1 x.2)
  ((ts ++ ns).filter (fun l => lineHome l == n)).eraseDups

/-- The walk that removes a dead home's lines (R232). -/
def Coh.deadWalk (c : Coh) (e : State) : Coh :=
  e.deadWalks.foldl (fun (c : Coh) (n : Nat) =>
    (c.deadLines e n).foldl (fun (c : Coh) (l : LineAddr) =>
      if c.lockedLine l then c
      else
        let ps := allNamed (c.snfOf l) opSnpU
        if ps.isEmpty then
          let m := isMod (c.nodeState e l)
          (c.dropNodeCopy e l).sctr (sliceOf l) 0x2F m.toNat
        else c.startFlow e l .deadNode ps) c) c

def Coh.deadNodes (c : Coh) (e : State) : Coh :=
  if e.deadNodes.isEmpty then c
  else (((c.deadAsHome e).deadDir e).deadAsRequester e).deadWalk e

/-- Order of two requests at the serialisation point: rank (R55, R69, R73), then arrival. -/
def Req.sooner (e : State) (a b : Req) : Bool :=
  let x := rankOf e a.allot (if a.remote then (if a.inBounded then 0 else 2) else a.cls) a.promiseId
  let y := rankOf e b.allot (if b.remote then (if b.inBounded then 0 else 2) else b.cls) b.promiseId
  decide (x < y) || (x == y && decide (a.order < b.order))

/-- Waiting requests pass by rank, and those for one line in order of arrival (R104, R105). Each passes once. -/
def Coh.passAll (e : State) : Nat → List Req → Coh → Coh
  | 0, todo, c => { c with wait := c.wait ++ todo }
  | n + 1, todo, c =>
    let heads := todo.filter (fun r => !todo.any (fun q => q.line == r.line && decide (q.order < r.order)))
    match heads with
    | [] => { c with wait := c.wait ++ todo }
    | h :: hs =>
      let best := hs.foldl (fun (b : Req) (r : Req) => if r.sooner e b then r else b) h
      match takeFirst (fun r => r == best) todo with
      | some (r, rest) => Coh.passAll e n rest (c.pass e r)
      | none => { c with wait := c.wait ++ todo }

/-- One round of passes: responses, then snoops, then holders, then waiting requests (R104, R105). -/
def Coh.round (c : Coh) (e : State) : Coh :=
  let c0 := ({ c with wake := false } : Coh)
  let c1 := ((c0.deadNodes e).deadAcks e).deadSnoops e
  let c2 := c1.flows.foldl (fun c f => if f.await = 0 then c.flowDone e f else c) c1
  let c3 := (c2.hamperNext e).snpNext e
  let c4 := c3.homeTx.foldl (fun c h => match c.homeTxOf h.line with | some h => c.homeProgress e h | none => c) c3
  let c5 := c4.setRecalls.foldl (fun c r => c.recallSetEnd e r) c4
  let c6 := c5.txns.foldl (fun c t => Coh.advance e t.req.line 8 c) c5
  Coh.passAll e c6.wait.length c6.wait { c6 with wait := [] }

/-- Passes until nothing more can pass. -/
def Coh.settle (e : State) : Nat → Coh → Coh
  | 0, c => c
  | n + 1, c => if c.wake then Coh.settle e n (c.round e) else c

/-- A request arrives at its slice; an atomic at its home slice trains the contention predictor (R221). -/
def Coh.arriveReq (c : Coh) (e : State) (r : Req) : Coh :=
  let c1 := if r.op = ReqOp.atm ∧ e.isHome r.line then c.predict r.line else c
  { c1 with wait := c1.wait ++ [{ r with order := c1.nextOrder }], nextOrder := c1.nextOrder + 1, wake := true }

end Sys2Proof.Machine
end

