-- ==== Sys2Proof/Machine/Effects.lean ====
section
/-! DEFINITION. What the coherence engine's passes mean for the other units: responses and promises, points and fences,
reports, retirement, prefetch accounts; and the operation that runs the engine within a step. -/

namespace Sys2Proof.Machine
open Sys2Proof

/-! ### Points and fences (Table 8.1, R264) -/

/-- A request of a port has reached its point: no fence, no flush, no invalidation and no stream waits for it any more. -/
def State.pointReached (s : State) (p : Port) (id : Nat) : State :=
  s.setPort p (fun x => { x with
    points := x.points.filter (fun q => q.id != id)
    fences := x.fences.map (fun f => { f with waits := f.waits.filter (· != id) })
    pwq := { x.pwq with flush := x.pwq.flush.map (fun l => l.filter (· != id)) }
    ptu := { x.ptu with invWaits := x.ptu.invWaits.filter (· != id) } })

/-- The pass of a request has decided whether it needs a fabric message; FenceL stops waiting for one that does. -/
def State.passDone (s : State) (p : Port) (id : Nat) (fabric : Bool) : State :=
  s.setPort p (fun x => { x with
    points := x.points.map (fun q => if q.id = id then { q with passed := true, fabric := fabric } else q)
    fences := x.fences.map (fun f =>
      if f.kind = .l ∧ fabric then { f with waits := f.waits.filter (· != id) } else f) })

/-! ### Promises (R63 to R66, R78) -/

/-- Bound of a row of Table 2.4 in ns. The table gives no remote bound for P1: a P1 request to a line of this home that needs the
fabric has that of P0 (DESIGN CHOICE, log entry 27). Rows: 0 read hit, 1 local memory read, 2 write, 3 atomic in the slice, 4 atomic in
the ALU, 5 remote read, 6 remote atomic or write. Modes: 0 Bounded, 2 Frugal. `c` counts link crossings. -/
def boundNs (row : Nat) (p1 : Bool) (mode c : Nat) : Nat :=
  let pick := fun (b f : Nat) => (if mode = 2 then f else b) * (if p1 then 4 else 1)
  match row with
  | 0 => pick 60 90
  | 1 => pick 180 250
  | 2 => pick 70 100
  | 3 => pick 110 160
  | 4 => pick 220 300
  | 5 => 420 + 60 * (c - 2)
  | _ => 460 + 60 * (c - 2)

/-- Fine time modulo 2^16 ns (R78). -/
def deadlineAt (t : Nat) : BitVec 16 := BitVec.ofNat 16 t

/-- The promise's deadline under a row of Table 2.4. A remote promise is not awaited by a mode switch (R83). -/
def State.setDeadline (s : State) (id : PromiseId) (row c : Nat) : State :=
  let remote := 5 ≤ row
  { s with
    prm := { s.prm with
      swAwait := if remote then s.prm.swAwait.filter (fun q => q != id) else s.prm.swAwait
      inFlight := s.prm.inFlight.map (fun q =>
        if q.id = id then { q with deadline := some (deadlineAt (q.issued + boundNs row q.p1 q.mode c)), remote := remote } else q) } }

/-- The pass has put the request in a row (R64). The crossings of a chain that starts at another node's directory are not known
here: they are a free value until the answer shows them (R65). -/
def State.setRow (s : State) (id : PromiseId) (row home : Nat) (crossings : Option Nat) : State :=
  if !s.prm.inFlight.any (fun q => q.id == id) then s
  else match crossings with
    | some c => s.setDeadline id row c
    | none =>
      if row < 5 then s.setDeadline id row 0
      else ({ s with freeCtr := s.freeCtr + 1 } : State).setDeadline id row (2 * s.distance home + Config.chainExtra s.freeCtr)

/-- The answer has shown the chain of a remote read (R65). -/
def State.setChain (s : State) (id : PromiseId) (c : Nat) : State :=
  if s.prm.inFlight.any (fun q => q.id == id && q.remote && q.deadline.isSome) then s.setDeadline id 5 c else s

def State.dropPromises (s : State) (f : PromiseId → Bool) : State :=
  { s with prm := { s.prm with
    inFlight := s.prm.inFlight.filter (fun q => !f q.id)
    swAwait := s.prm.swAwait.filter (fun q => !f q) } }

/-- The request is served without a bound from here on (R61, R75, R76). -/
def State.unpromise (s : State) (p : Port) (tag : Tag) : State :=
  if s.tagEnded p tag then s
  else (s.setPort p (fun x => { x with tags := x.tags.map (fun t => if t.tag = tag then { t with ceiling := true } else t) })).dropPromises
    (fun q => q == .agent p tag)

/-- NB of Table 11.3: a request sent with a P0 or P1 credit and served without a bound (R61). -/
def TagUse.nb (t : TagUse) : Bool := match t.credit with | some cr => decide (cr.cls.toNat < 2) && t.ceiling | none => false

/-- A response with its not-bounded indication, over the Headland where a unit of the other die gives it (R21). -/
def State.answer (s : State) (p : Port) (m : AgentMsg) : State :=
  match s.tagUse p m.tag with
  | some t =>
    let x := { m with nb := t.nb }
    let s1 := match t.unit with
      | some u => s.crossAgent u (.port p) (if m.opc = opData ∨ m.opc = opDataV then 3 else 2) ((t.credit.map Credit.cls).getD 2) x
      | none => s
    s1.respond p x
  | none => s.respond p { m with nb := false }

/-- The request numbered `id` is served by a unit. -/
def State.servedBy (s : State) (p : Port) (id : Nat) (u : HdlUnit) : State :=
  s.setPort p (fun x => { x with tags := x.tags.map (fun t => if t.point = id then { t with unit := some u } else t) })

/-- Slice of a snoop's line; SnpP names its slice in the address. -/
def AgentMsg.snpSlice (m : AgentMsg) : Fin 32 :=
  if m.opc = opSnpP then Fin.ofNat 32 m.addr.toNat else sliceOf (lineOf m.addr)

/-- The slice of a fabric header: of its line, for FRecallSet the one it names (Table 11.10). -/
def hdrSlice (h : BitVec 160) : HdlUnit :=
  .slice (if hdrOpc h = fRecallSet then Fin.ofNat 32 (h.extractLsb' 63 5).toNat else sliceOf (h.extractLsb' 63 45))

/-- The port whose register or MMIO access at another node an outgoing tracker serves. -/
def State.trkPort (s : State) (h : BitVec 160) : Option Port :=
  match s.coh.trkOf (h.extractLsb' 33 11) with
  | some t => (match t.use, t.req.src with | .dev, .agent p => some p | _, _ => none)
  | none => none

/-- The unit that sends a fabric message of this node: a slice, or the port of an access to another node's registers or windows. -/
def State.fabSource (s : State) (h : BitVec 160) : HdlUnit :=
  if hdrOpc h = fDevRd ∨ hdrOpc h = fDevWr then ((s.trkPort h).map HdlUnit.port).getD (hdrSlice h) else hdrSlice h

/-- A remote P0 request has been demoted (R75). -/
def State.noteDemoted (s : State) (p : Port) : State :=
  (s.count (ctrSel 2 p 2)).raiseFirst F.GLB_PRM_STAT.DEMOTED 41 (unitPort p) none

/-! ### Posted-write queues (R277) -/

/-- Items pass from the tail to the head while the middle is empty and the head has a free slot (R277). -/
def Pwq.settle (q : Pwq) : Pwq :=
  if q.midIds.isEmpty then
    let n := 32 - q.head.length
    { q with head := q.head ++ q.tail.take n, tail := q.tail.drop n }
  else q

/-- The header slot of a spilled entry. -/
def pwqHeader (x : PwqEntry) : CodeLine :=
  encodeLine (BitVec.ofNat 1024 (x.addr.toNat + 2 ^ 52 * x.strm.toNat + 2 ^ 56 * x.divert.toNat + 2 ^ 64 * x.mask.toNat)) 0

def pwqOfHeader (h cl : CodeLine) (id : Nat) : PwqEntry :=
  let b := lineBytes h
  { strm := b.extractLsb' 52 4, addr := b.extractLsb' 0 52, cl := cl, mask := b.extractLsb' 64 128, id := id,
    divert := b.getLsbD 56 }

/-- Entries of the middle of a posted-write queue (Table 8.4). -/
def State.pwqShare (s : State) (p : Port) : Nat :=
  match p.val with
  | 0 => s.rf F.GLB_SPILL_CFG.A0_MIB * 4096
  | 1 => s.rf F.GLB_SPILL_CFG.A1_MIB * 4096
  | 2 => s.rf F.GLB_SPILL_CFG.A2_MIB * 4096
  | 3 => s.rf F.GLB_SPILL_CFG.A3_MIB * 4096
  | 4 => s.rf F.GLB_SPILL_CFG.A4_MIB * 4096
  | _ => s.rf F.GLB_SPILL_CFG.A5_MIB * 4096

/-- Region slot 0 of a port's share. -/
def State.shareBase (s : State) (p : Port) : Nat :=
  ((fins 6).filter (fun (q : Port) => decide (q.val < p.val))).foldl (fun a q => a + 2 * s.pwqShare q) 0

/-- Slot of a region slot number. -/
def spillSlot (g : Nat) : Nat := slotKey (g % 32) (g / 32) 15

/-- Slice of a region slot number. -/
def spillUnit (g : Nat) : HdlUnit := .slice (Fin.ofNat 32 (slotSlice (spillSlot g)))

/-- Middle entries whose two slots are both back enter the head in order; a marked header drops its entry (Table 10.5). -/
def State.takeBack (p : Port) (cap : Nat) : Nat → State → State
  | 0, s => s
  | n + 1, s =>
    match (s.port p).pwq.midIds, (s.port p).pwq.back with
    | id :: ids, (some d, some h) :: rest =>
      let x := pwqOfHeader h d id
      let bad := anyMark h
      let s1 := s.setPort p (fun y => { y with pwq := ({ y.pwq with
        midIds := ids, midAt := (y.pwq.midAt + 1) % cap, back := rest,
        head := if bad then y.pwq.head else y.pwq.head ++ [x] } : Pwq).settle })
      State.takeBack p cap n (if bad then (s1.consumed 4 (unitPort p) reqDevice x.addr (linePoison h).toNat).pointReached p id else s1)
    | _, _ => s

/-- A slot of a middle entry has been read. -/
def State.spillData (s : State) (p : Port) (cap id : Nat) (header : Bool) (cl : CodeLine) : State :=
  let q := (s.port p).pwq
  let put := fun (x : Option CodeLine × Option CodeLine) => if header then (x.1, some cl) else (some cl, x.2)
  let back := (q.midIds.zip q.back).map (fun x => if x.1 = id then put x.2 else x.2)
  let at_ := (q.midAt + (q.midIds.takeWhile (fun i => i != id)).length) % cap
  let s0 := s.crossItem (spillUnit (s.shareBase p + 2 * at_ + header.toNat)) (.port p) 3 1 (some cl)
  State.takeBack p cap back.length (s0.setPort p (fun y => { y with pwq := { y.pwq with back := back } }))

/-! ### Retirement and thresholds (R332, R334) -/

/-- A memory line is recorded for retirement (R332). -/
def State.recordLine (s : State) (m : MemNo) (key : Nat) (cause : BitVec 2) : State :=
  let l := s.dar.retired.get m
  let put := fun (l : List RetEntry) => { s with dar := { s.dar with retired := vset s.dar.retired m l } }
  if l.any (fun x => x.key == key) then put (l.map (fun x => if x.key = key then { x with cause := x.cause ||| cause } else x))
  else if l.length < 64 then (put (l ++ [{ key := key, cause := cause, time := fabWord s.fab.t }])).raise 147 (unitMem m)
  else ((s.wb F.DAR_RET_STAT.LIST_FULL true).count (ctrSel 4 m 6)).raise 148 (unitMem m)

def ifCeWin (u : Nat) : RField := if u < 8 then F.CMI_ERR.CE_WIN u else F.MEM_ERR.CE_WIN (u - 8)
def ifThr (u : Nat) : RField := if u < 8 then F.CMI_ERR.THR u else F.MEM_ERR.THR (u - 8)

/-- Corrected codewords of an interface in its window (R334). -/
def State.addCorrected (s : State) (u n : Nat) : State :=
  let v := min 0xFFFF (s.rf (ifCeWin u) + n)
  let s1 := s.wf (ifCeWin u) v
  let thr := s1.rf F.DAR_THR.CE_THR
  if thr ≠ 0 ∧ thr ≤ v ∧ !s1.dar.winThr.getLsbD u then
    (({ s1 with dar := { s1.dar with winThr := s1.dar.winThr ||| BitVec.ofNat 10 (2 ^ u) } } : State).wb (ifThr u) true).raise
      (128 + u) (ifUnit u)
  else s1

/-! ### Effects in order -/

/-- A prefetch has ended (Table 5.2, R171, R184). One that the ceiling ended counts no more. -/
def State.prefetchEnded (s : State) (p : Port) (line : LineAddr) (filled declined error : Bool) : State :=
  match takeFirst (fun (o : PfOut) => o.line == line) (s.port p).drill.out with
  | none => s
  | some (_, rest) =>
    let s1 := s.setPort p (fun x => { x with drill := { x.drill with out := rest } })
    let s2 := if filled then s1 else s1.dropPromises (fun q => q == .device (dieOfPort p) (deviceId line p))
    s2.count (ctrSel 2 p (if filled then 0x15 else if declined then 0x18 else if error then 0x19 else 0x16))

def applyFx (s : State) : Fx → State
  | .raise ev unit => s.raise ev unit
  | .log ev unit raised d => s.report [.log ev unit raised d]
  | .count sel n => s.count sel n
  | .first off b ev unit log always =>
    let was := bit (s.rg off) b
    let s1 := s.wr off (setFld (s.rg off) b 1 1)
    if was then (match log, always with | some d, true => s1.note ev unit d | _, _ => s1)
    else match log with
      | some d => s1.raiseLog ev unit d
      | none => s1.raise ev unit
  | .firstCtr sel ev unit =>
    if s.mon.seen.contains sel then s
    else ({ s with mon := { s.mon with seen := addSet s.mon.seen sel } } : State).raise ev unit
  | .regBit off b => s.wr off (setFld (s.rg off) b 1 1)
  | .regFld off lo w v => s.wr off (setFld (s.rg off) lo w v)
  | .respond p m => s.answer p m
  | .snoop p m => ((s.crossAgent (.slice m.snpSlice) (.port p) 1 2 m).setPort p (fun x => { x with snpTag := x.snpTag + 1 })).sendSnoop p m
  | .node pkt => s.sendFabric (s.fabSource pkt.hdr) pkt
  | .point p id => s.pointReached p id
  | .passed p id fabric => s.passDone p id fabric
  | .row id r home c => s.setRow id r home c
  | .chain id c => s.setChain id c
  | .demoted p tag => (s.unpromise p tag).noteDemoted p
  | .postedEnd p point demoted =>
    let s1 := s.dropPromises (fun q => q == .device (dieOfPort p) (postedId p point))
    if demoted then s1.noteDemoted p else s1
  | .follow p tag q holder =>
    let d := (s.prm.inFlight.find? (fun x => x.id == .agent q holder)).bind Promise.deadline
    { s with prm := { s.prm with inFlight := s.prm.inFlight.map (fun x =>
      if x.id = .agent p tag then { x with deadline := d } else x) } }
  | .unpromise p tag => s.unpromise p tag
  | .walkData p w n stat d k =>
    let put := fun (x : Option Walk) => x.map (fun x => if x.order = n then { x with got := some (stat, d, k) } else x)
    s.setPort p (fun x => { x with ptu := match w with
      | .demand i => { x.ptu with demand := vmod x.ptu.demand i put }
      | .prefetch => { x.ptu with prefetch := put x.ptu.prefetch }
      | .speculative => { x.ptu with spec := put x.ptu.spec } })
  | .spillData p id header cl => s.spillData p (s.pwqShare p) id header cl
  | .prefetchEnd p line filled declined error => s.prefetchEnded p line filled declined error
  | .resowEnd line filled =>
    let s1 := { s with pwr := { s.pwr with resowOut := s.pwr.resowOut - 1 } }
    if filled then s1.count (ctrSel 7 0 0x46)
    else s1.dropPromises (fun q => q == .device (dieOfSlice (sliceOf line)) (deviceId line whoResow))
  | .mntLine line => { s with mnt := { s.mnt with inFlight := s.mnt.inFlight.erase line } }
  | .retire m key _ cause => s.recordLine m key cause
  | .prefetchUse useful => if useful then { s with accU := s.accU + 1 } else { s with accV := s.accV + 1 }
  | .corrected u n => s.addCorrected u n
  | .poisonedBy p =>
    if (s.port p).poisoned then s
    else (s.setPort p (fun x => { x with poisoned := true })).raise 100 (unitPort p)

/-- Rounds of passes within one step; the wake flag keeps what is left for the next step. -/
def settleRounds : Nat := 8

/-- Applies the effects that the engine has gathered. -/
def State.flushFx (s : State) : State :=
  let fx := s.coh.fx
  fx.foldl applyFx { s with coh := { s.coh with fx := [] } }

/-- Steps 2 and 3 of R331 for an accepted slot: its line leaves and it becomes T, once no fill and no holder keeps it and
a Hamper entry is free for a modified line. -/
def Coh.retireSlot (c : Coh) (e : State) (x : Nat × Nat) : Coh :=
  let k := x.1
  let s := slotSlice k
  let t := c.tag k
  let l := c.slotLineAddr e k
  if t.st == tF || (isValid t.st && (c.lockedLine l || c.drainingInto l)) || (isMod t.st && c.hamperFull s) then c
  else
    let d := formASlot (if isValid t.st then some (saOf l) else none) reqDevice x.2 e.node s (slotSet k) (slotWay k)
    let c1 := (c.evictSlot e k).putTag k (mkTag 0 tT 3 false false)
    (({ c1 with retiring := c1.retiring.filter (fun y => y.1 != k) } : Coh).sctr s 0x42).emits
      [.regFld Reg.DAR_RET_STAT 0 1 1, .log 145 s true d]

def Coh.retirePass (c : Coh) (e : State) : Coh := c.retiring.foldl (fun c x => c.retireSlot e x) c

/-- New records of answers awaited from nodes take their time. -/
def Coh.stamp (c : Coh) (now : Nat) : Coh :=
  let f := fun (x : Option Nat) => some (x.getD now)
  { c with homeTx := c.homeTx.map (fun h => { h with since := f h.since })
           nodeTx := c.nodeTx.map (fun t => { t with since := f t.since })
           setRecalls := c.setRecalls.map (fun r => { r with since := f r.since }) }

/-- Runs a change of the coherence engine, the passes that follow from it, and their effects. -/
def State.runCoh (s : State) (f : Coh → Coh) : State :=
  ({ s with coh := ((Coh.settle s settleRounds (f s.coh)).retirePass s).stamp s.fine } : State).flushFx

/-- A request arrives at its slice. -/
def State.arriveReq (s : State) (r : Req) : State := s.runCoh (fun c => c.arriveReq s r)

end Sys2Proof.Machine
end

