-- ==== Sys2Proof/Machine/Ptu.lean ====
section
/-! DEFINITION. The port translation units (R284 to R308): TLB lookups and fills, permission checks, walks, faults,
contexts and invalidations. -/

namespace Sys2Proof.Machine
open Sys2Proof

/-! ### Where a system address leads (R31, Table 1.6) -/

/-- Memory space above the populated top of this node. -/
def State.aboveTop (s : State) (sa : SysAddr) : Bool := decide (2 * s.portCap ≤ (sa.extractLsb' 0 42).toNat)

/-- The address error that this node itself finds in an address: outside the fabric, reserved, or above its own top. -/
def State.addrBad (s : State) (sa : SysAddr) : Bool :=
  !s.inFabric (nodeOf sa) ||
    (match spaceOf sa with
     | .reserved => true
     | .memory => nodeOf sa == s.node && s.aboveTop sa
     | _ => false)

/-- CSR and MMIO addresses are DEV; otherwise the regions decide (R118). -/
def State.policyOf (s : State) (sa : SysAddr) : BitVec 3 :=
  match spaceOf sa with
  | .csr _ => pDEV
  | .mmio _ => pDEV
  | _ => s.policy (lineOf sa)

/-! ### The TLB (R296 to R300) -/

def TlbEntry.exp (t : TlbEntry) : Nat := t.sz.toNat + 12

/-- The page contains the port address. -/
def TlbEntry.covers (t : TlbEntry) (pa : PortAddr) : Bool :=
  pa.toNat / 2 ^ t.exp == t.vpn.toNat * 4096 / 2 ^ t.exp

/-- Bits [101:0] of Table 9.3. -/
def TlbEntry.data (t : TlbEntry) : BitVec 102 :=
  t.src ++ t.key ++ BitVec.ofBool t.w ++ BitVec.ofBool t.r ++ t.oa ++ t.sz ++ t.vpn ++ t.ctx ++ BitVec.ofBool t.v

/-- The entry with its parity bit. -/
def TlbEntry.sealed (t : TlbEntry) : TlbEntry := { t with par := parity t.data }
def TlbEntry.good (t : TlbEntry) : Bool := t.par == parity t.data
def TlbEntry.cleared (t : TlbEntry) : TlbEntry := ({ t with v := false } : TlbEntry).sealed

/-- Two entries' pages overlap. -/
def TlbEntry.overlaps (a b : TlbEntry) : Bool :=
  let e := max a.exp b.exp
  a.vpn.toNat * 4096 / 2 ^ e == b.vpn.toNat * 4096 / 2 ^ e

/-- The entry's system address for a port address (R286, R290). -/
def TlbEntry.translate (t : TlbEntry) (pa : PortAddr) : SysAddr :=
  BitVec.ofNat 52 (t.oa.toNat * 4096 / 2 ^ t.exp * 2 ^ t.exp + pa.toNat % 2 ^ t.exp)

def TlbEntry.page (t : TlbEntry) : PageId := { ctx := t.ctx, vpn := t.vpn, sz := t.sz }

/-- Level of the leaf that an entry came from (R288, R290). -/
def TlbEntry.level (t : TlbEntry) : Nat := if t.exp ≤ 20 then 3 else if t.exp ≤ 29 then 2 else if t.exp ≤ 38 then 1 else 0

def State.ptu (s : State) (p : Port) : PtuSt := (s.port p).ptu
def State.setPtu (s : State) (p : Port) (f : PtuSt → PtuSt) : State := s.setPort p (fun x => { x with ptu := f x.ptu })

/-- Translation is on (R284). -/
def State.translated (s : State) (p : Port) : Bool := s.kind p == .nonCaching && s.rb (F.PTU_CTL.EN p)

def ptuCtr (p : Port) (i : Nat) : Nat := ctrSel 2 p (0x40 + i)

/-- The entry of the current context that an address matches, parity apart. -/
def PtuSt.find (x : PtuSt) (pa : PortAddr) : Option (Fin 128) :=
  (fins 128).find? (fun i => let t := x.tlb.get i; t.v && t.ctx == x.ctx && t.covers pa)

/-- A lookup (R297); a match that fails parity is invalidated, counted and reported, and the lookup misses (R300). -/
def State.lookup (s : State) (p : Port) (pa : PortAddr) : Option TlbEntry × State :=
  match (s.ptu p).find pa with
  | none => (none, s)
  | some i =>
    let t := (s.ptu p).tlb.get i
    if t.good then (some t, s)
    else
      let s1 := (s.setPtu p (fun x => { x with tlb := vset x.tlb i t.cleared })).count (ptuCtr p 0xE)
      (none, applyFx s1 (.firstCtr (ptuCtr p 0xE) 119 (unitPort p)))

/-- One step of the replacement LFSR (R298). -/
def lfsrNext (x : BitVec 16) : BitVec 16 :=
  let b := ((x.getLsbD 0 != x.getLsbD 2) != x.getLsbD 3) != x.getLsbD 5
  (x >>> 1) ||| (BitVec.ofBool b).setWidth 16 <<< 15

/-- A fill (R297, R298): overlapping entries of the context go, then the lowest invalid entry or the LFSR's is taken. -/
def PtuSt.fill (x : PtuSt) (t : TlbEntry) : PtuSt :=
  let tlb1 := x.tlb.map (fun u => if u.v && u.ctx == t.ctx && u.overlaps t then u.cleared else u)
  let i : Fin 128 := match (fins 128).find? (fun i => !(tlb1.get i).v) with
    | some i => i
    | none => Fin.ofNat 128 (x.lfsr.toNat % 128)
  { x with tlb := vset tlb1 i t.sealed, lfsr := lfsrNext x.lfsr }

/-! ### Permissions (R295) -/

/-- Access kinds of R285: 0 read, 1 write, 2 atomic. -/
def ReqOp.kind : ReqOp → Nat
  | .store => 1
  | .wrH => 1
  | .atm => 2
  | _ => 0

/-- Fault code of an access, 0 where it is permitted. -/
def permFault (keyr : Word) (r w : Bool) (key : BitVec 4) (kind : Nat) : BitVec 3 :=
  if (kind = 0 ∨ kind = 2) ∧ !r then 3
  else if (kind = 1 ∨ kind = 2) ∧ !w then 3
  else if bit keyr (2 * key.toNat) then 4
  else if (kind = 1 ∨ kind = 2) ∧ bit keyr (2 * key.toNat + 1) then 4
  else 0

def State.checkEntry (s : State) (p : Port) (t : TlbEntry) (kind : Nat) (pa : PortAddr) : Trans :=
  let c := permFault (s.rg (Reg.PTU_KEYR p)) t.r t.w t.key kind
  if c = 0 then .ready (t.translate pa) (some t.page) else .fault c t.level

/-! ### Walks (R291 to R293) -/

def granule (level : Nat) : Nat := 39 - 9 * level
def descAddr (table : SysAddr) (level : Nat) (pa : PortAddr) : SysAddr :=
  table + BitVec.ofNat 52 (8 * (pa.toNat / 2 ^ granule level % 512))

/-- What a descriptor says at a level. -/
inductive Desc where
  | pointer (next : SysAddr)
  | leaf (t : TlbEntry)
  | bad (code : BitVec 3)
  deriving DecidableEq, Repr

/-- Reads a descriptor (Tables 9.1 and 9.2, R288). -/
def readDesc (d : BitVec 64) (level : Nat) (pa : PortAddr) (ctx : BitVec 12) (src : BitVec 2) : Desc :=
  let n := d.toNat
  let field := fun (lo w : Nat) => n / 2 ^ lo % 2 ^ w
  if field 0 1 = 0 then .bad 1
  else if field 1 1 = 0 then
    if level = 3 ∨ field 2 10 ≠ 0 then .bad 2 else .pointer (BitVec.ofNat 52 (field 12 40 * 4096))
  else
    let e := field 6 5 + 12
    let contig := field 4 1 = 1
    let g := granule level
    if field 5 1 ≠ 0 ∨ field 11 1 ≠ 0 ∨ e < g ∨ min (g + 8) 43 < e ∨ field 12 40 * 4096 % 2 ^ e ≠ 0 ∨ (contig ∧ e ≠ 12) then .bad 2
    else
      let x := if contig then 16 else e
      let base := pa.toNat / 2 ^ x * 2 ^ x
      .leaf { v := true, ctx := ctx, vpn := BitVec.ofNat 36 (base / 4096), sz := BitVec.ofNat 5 (x - 12),
              oa := BitVec.ofNat 40 (field 12 40 * 4096 / 2 ^ x * 2 ^ x / 4096),
              r := field 2 1 = 1, w := field 3 1 = 1, key := BitVec.ofNat 4 (field 52 4), src := src, par := false }

def PtuSt.walk (x : PtuSt) : WalkId → Option Walk
  | .demand i => x.demand.get i
  | .prefetch => x.prefetch
  | .speculative => x.spec

def PtuSt.setWalk (x : PtuSt) (w : WalkId) (v : Option Walk) : PtuSt :=
  match w with
  | .demand i => { x with demand := vset x.demand i v }
  | .prefetch => { x with prefetch := v }
  | .speculative => { x with spec := v }

def walkSrc : WalkId → BitVec 2
  | .demand _ => 0
  | .prefetch => 1
  | .speculative => 2

def PtuSt.walks (x : PtuSt) : List Walk :=
  (fins 4).filterMap (fun i => x.demand.get i) ++ x.prefetch.toList ++ x.spec.toList

/-- A walk of the context for the 4 KiB page is in flight (R293). -/
def PtuSt.walking (x : PtuSt) (ctx : BitVec 12) (pa : PortAddr) : Bool :=
  x.walks.any (fun w => w.ctx == ctx && w.pa.toNat / 4096 == pa.toNat / 4096)

/-- The outcome of a walk: a leaf, or a fault with its code and level. -/
inductive WalkEnd where
  | leaf (t : TlbEntry)
  | fault (code : BitVec 3) (level : Nat)
  deriving DecidableEq, Repr

/-- The walk is for the context and 4 KiB page. -/
def Walk.serves (w : Walk) (ctx : BitVec 12) (pa : PortAddr) : Bool :=
  ctx == w.ctx && pa.toNat / 4096 == w.pa.toNat / 4096

/-- Outcome of a walk for a request: checked against the leaf, or faulted. -/
def State.walkTrans (s : State) (p : Port) (r : WalkEnd) (kind : Nat) (pa : PortAddr) : Trans :=
  match r with
  | .leaf t => s.checkEntry p t kind pa
  | .fault c l => .fault c l

/-- Demand requests whose translation a walk decides; their bounds run from here (R294). A running invalidation that marked the
walk awaits those it translates (R305 step 4). -/
def State.afterWalk (s : State) (p : Port) (w : Walk) (r : WalkEnd) : State :=
  let hit := fun (f : FrontReq) => match f.tr with | .wait ctx => w.serves ctx (f.req.addr.setWidth 48) | _ => false
  let ids := if w.marked then ((s.port p).front.filter hit).map FrontReq.id else []
  s.setPort p (fun x => { x with
    front := x.front.map (fun f =>
      if hit f then { f with at_ := s.fine, tr := s.walkTrans p r f.req.op.kind (f.req.addr.setWidth 48) } else f)
    ptu := { x.ptu with invWaits := x.ptu.invWaits ++ ids } })

def PendLine.pa (q : PendLine) : PortAddr := BitVec.ofNat 48 (q.addr.toNat * 128)

/-- Pending prefetch lines that wait for the walk: translated, or discarded (R179, R180). -/
def State.prefetchWalkEnd (s : State) (p : Port) (w : Walk) (r : WalkEnd) : State :=
  let out := fun (q : PendLine) =>
    match q.walk with
    | some ctx =>
      if w.serves ctx q.pa then
        (match s.walkTrans p r 0 q.pa with
         | .ready sa _ => some { q with walk := none, sa := some sa }
         | _ => none)
      else some q
    | none => some q
  let lines := (s.port p).drill.trackers.toList.flatMap (fun t => match t with | some t => t.pend | none => [])
  (s.setPort p (fun x => { x with drill := { x.drill with trackers := x.drill.trackers.map (fun t =>
    t.map (fun t => { t with pend := t.pend.filterMap out })) } })).count (ctrSel 2 p 0x17)
      (lines.filter (fun q => (out q).isNone)).length

/-- A walk ends: it fills unless it may not (R292, R298, R305), and what waited takes its outcome. -/
def State.endWalk (s : State) (p : Port) (id : WalkId) (w : Walk) (r : WalkEnd) : State :=
  let s1 := s.setPtu p (fun x => x.setWalk id none)
  let s2 := match r with
    | .leaf t => if w.marked then s1 else s1.setPtu p (fun x => x.fill t)
    | .fault _ _ => s1
  let s3 := (s2.afterWalk p w r).prefetchWalkEnd p w r
  match id, r with
  | .speculative, .fault _ _ => s3.count (ptuCtr p 5)
  | _, _ => s3

/-- The descriptor read of a walk's level (R291): a DEV address ends the walk, an address error is a read error. A fault of a
speculative walk is no event (R296). -/
def State.readLevel (s : State) (p : Port) (id : WalkId) (w : Walk) : State :=
  let a := descAddr w.table w.level w.pa
  if s.policyOf a = pDEV then s.endWalk p id w (.fault 6 w.level)
  else
    let s1 := s.count (ptuCtr p 6)
    if s1.addrBad a then
      (if id = .speculative then s1 else s1.addrError (unitPort p) reqDevice s.node a).endWalk p id w (.fault 5 w.level)
    else
      let s2 := s1.crossItem (.port p) (.slice (sliceOf (lineOf a))) 0 (if nodeOf a = s.node then 1 else 2) none
      (s2.setPtu p (fun x => x.setWalk id (some { w with due := false, since := s.fine, got := none }))).arriveReq
        { src := .walk p id, op := if s.policyOf a = pUC then .rdC else .rd, line := lineOf a,
          off := a.extractLsb' 0 7, sz := 3, cls := if nodeOf a = s.node then 1 else 2, point := w.order }

/-- Walks in the order in which the walker serves them: demand walks, the prefetch walk, the speculative walk, and demand
walks in order of start (R181, R293). -/
def PtuSt.served (x : PtuSt) : List WalkId :=
  let start := fun (i : Fin 4) => match x.demand.get i with | some w => w.order | none => 0
  ((fins 4).insertionSort (fun i j => start i ≤ start j)).map WalkId.demand ++ [.prefetch, .speculative]

def PtuSt.anyDue (x : PtuSt) : Bool := x.walks.any Walk.due

/-- Issues the descriptor reads that are due. -/
def State.walkReads (s : State) (p : Port) : State :=
  (s.ptu p).served.foldl (fun s id =>
    match (s.ptu p).walk id with
    | some w => if w.due then s.readLevel p id w else s
    | none => s) s

/-- Starts a walk from the root. -/
def State.startWalk (s : State) (p : Port) (id : WalkId) (pa : PortAddr) : State :=
  let x := s.ptu p
  let w : Walk := { pa := pa, level := 0, table := x.root, ctx := x.ctx, marked := false, order := x.started }
  let i := match id with | .demand _ => 2 | .prefetch => 3 | .speculative => 4
  (s.setPtu p (fun x => { x.setWalk id (some w) with started := x.started + 1 })).count (ptuCtr p i)

/-- Demand walks a port may run (PTU_CTL.WALKS). -/
def State.walkLimit (s : State) (p : Port) : Nat := min 4 (max 1 (s.rf (F.PTU_CTL.WALKS p)))

/-- A walker for one more demand walk, while fewer than WALKS are in flight. -/
def State.freeWalk (s : State) (p : Port) : Option (Fin 4) :=
  let free := (fins 4).filter (fun i => ((s.ptu p).demand.get i).isNone)
  if 4 - free.length < s.walkLimit p then free.head? else none

/-- The descriptor read of a walk ends in the ceiling error: it is served as P2, being of another node's line (R60, R76, R292). -/
def State.ceilingWalk (s : State) (p : Port) (id : WalkId) : State :=
  match (s.ptu p).walk id with
  | some w =>
    if w.due || w.got.isSome || nodeOf (descAddr w.table w.level w.pa) == s.node || decide (s.fine < w.since + 10000) then s
    else s.endWalk p id w (.fault 5 w.level)
  | none => s

/-- A hit in the last 1/16 of a page starts a speculative walk for the page that follows (R296). -/
def State.speculate (s : State) (p : Port) (t : TlbEntry) (pa : PortAddr) : State :=
  let size := 2 ^ t.exp
  let next := (pa.toNat / size + 1) * size
  if s.rb (F.PTU_CTL.SPEC p) && (s.ptu p).spec.isNone && decide (size - size / 16 ≤ pa.toNat % size) &&
      decide (next < 2 ^ 48) && ((s.ptu p).find (BitVec.ofNat 48 next)).isNone then
    s.startWalk p .speculative (BitVec.ofNat 48 next)
  else s

/-- The translation of a demand access: its outcome, or a wait for a walk (R37, R291, R293, R295, R296), and the walker
that a walk is to start on. In identity mode a set PA[47:43] is an address error (code 0). `again` is a miss that waited for a walker,
which has been counted. -/
def State.translateDemand (s : State) (p : Port) (pa : PortAddr) (kind : Nat) (again : Bool) :
    Trans × Option (Fin 4) × State :=
  if !s.translated p then
    if pa.toNat / 2 ^ 43 ≠ 0 then (.fault 0 0, none, s)
    else (.ready (BitVec.ofNat 9 s.node ++ pa.setWidth 43) none, none, s)
  else
    let l := s.lookup p pa
    match l.1 with
    | some t => (s.checkEntry p t kind pa, none, if again then l.2 else (l.2.count (ptuCtr p 0)).speculate p t pa)
    | none =>
      let s1 := if again then l.2 else l.2.count (ptuCtr p 1)
      let ctx := (s1.ptu p).ctx
      (.wait ctx, if (s1.ptu p).walking ctx pa then none else s1.freeWalk p, s1)

/-! ### Faults (R307, R308) -/

/-- Records a demand fault. -/
def State.recordFault (s : State) (p : Port) (code : BitVec 3) (kind : Nat) (posted : Bool) (tag : Tag) (pa : PortAddr)
    (level : Nat) : State :=
  let s1 := s.count (ptuCtr p (6 + code.toNat))
  if s1.rb (F.PTU_FLT_STAT.VALID p) then s1.wb (F.PTU_FLT_STAT.OVF p) true
  else
    ((((((((s1.wb (F.PTU_FLT_STAT.VALID p) true).wf (F.PTU_FLT_STAT.CODE p) code.toNat).wf (F.PTU_FLT_STAT.KIND p) kind).wb
      (F.PTU_FLT_STAT.POSTED p) posted).wf (F.PTU_FLT_STAT.TAG p) tag.toNat).wf (F.PTU_FLT_PA_LO.PA_LO p) (pa.toNat % 2 ^ 32)).wf
      (F.PTU_FLT_PA_HI.PA_HI p) (pa.toNat / 2 ^ 32)).wf (F.PTU_FLT_PA_HI.LEVEL p) level).raise (112 + p.val) (unitPort p)

/-! ### Contexts and invalidations (R301, R304 to R306) -/

/-- PTU registers of a port that is not non-caching read 0 and drop writes (R284). -/
def State.hasPtu (s : State) (p : Port) : Bool := s.kind p == .nonCaching

def opPtuRootLo (p : Port) (v : Word) (s : State) : State :=
  if s.hasPtu p then s.wf (F.PTU_ROOT_LO.ROOT_LO p) (fld v 12 20) else s

/-- A write of PTU_ROOT_HI installs root and context as one change. -/
def opPtuRootHi (p : Port) (v : Word) (s : State) : State :=
  if s.hasPtu p then
    let s1 := s.wr (Reg.PTU_ROOT_HI p) v
    s1.setPtu p (fun x => { x with root := BitVec.ofNat 52 (fld v 0 20 * 2 ^ 32 + s1.rf (F.PTU_ROOT_LO.ROOT_LO p) * 4096),
                                   ctx := BitVec.ofNat 12 (fld v 20 12) })
  else s

def opPtuSeed (p : Port) (seed : BitVec 16) (s : State) : State :=
  if s.hasPtu p then
    (s.wf (F.PTU_CTL.SEED p) seed.toNat).setPtu p (fun x => { x with lfsr := if seed = 0 then 1 else seed })
  else s

/-- What an invalidation covers. -/
inductive InvOp where
  | byAddress (ctx : BitVec 12) (pa : PortAddr)
  | byContext (ctx : BitVec 12)
  | all
  deriving DecidableEq, Repr

def InvOp.entry (o : InvOp) (ctx : BitVec 12) (vpn : BitVec 36) (sz : BitVec 5) : Bool :=
  match o with
  | .byAddress c pa => ctx == c && pa.toNat / 2 ^ (sz.toNat + 12) == vpn.toNat * 4096 / 2 ^ (sz.toNat + 12)
  | .byContext c => ctx == c
  | .all => true

/-- A walk could fill a matching entry: its page, as large as its level allows, would contain the address. -/
def InvOp.walk (o : InvOp) (w : Walk) : Bool :=
  match o with
  | .byAddress c pa =>
    let e := min (granule w.level + 8) 43
    w.ctx == c && pa.toNat / 2 ^ e == w.pa.toNat / 2 ^ e
  | .byContext c => w.ctx == c
  | .all => true

/-- A START is refused: one invalidation runs at a time (R306), and none starts in FALLOW entry (Table 14.5). -/
def State.invRefused (s : State) (p : Port) : Bool := s.rb (F.PTU_INV_STAT.BUSY p) || s.pwr.st == .fallowEntry

/-- Steps 1 and 2 of Table 9.4. -/
def State.startInv (s : State) (p : Port) (o : InvOp) : State :=
  if !s.hasPtu p then s
  else if s.invRefused p then s.wb (F.PTU_INV_STAT.REFUSED p) true
  else
    (s.wb (F.PTU_INV_STAT.BUSY p) true).setPort p (fun x =>
      let mark := fun (w : Option Walk) => w.map (fun w => if o.walk w then { w with marked := true } else w)
      let hit := fun (q : Option PageId) => match q with | some g => o.entry g.ctx g.vpn g.sz | none => false
      let held := fun (f : FrontReq) => match f.tr with | .ready _ g => hit g | _ => false
      { x with ptu := { x.ptu with
          tlb := x.ptu.tlb.map (fun t => if t.v && o.entry t.ctx t.vpn t.sz then t.cleared else t)
          demand := x.ptu.demand.map mark
          prefetch := mark x.ptu.prefetch
          spec := mark x.ptu.spec
          invWaits := (x.points.filter (fun q => hit q.page)).map OpenPoint.id ++ (x.front.filter held).map FrontReq.id } })

def State.invCtx (s : State) (p : Port) : BitVec 12 := BitVec.ofNat 12 (s.rf (F.PTU_INV_ADDR_HI.CTX p))
def State.invPa (s : State) (p : Port) : PortAddr :=
  BitVec.ofNat 48 (s.rf (F.PTU_INV_ADDR_HI.PA_HI p) * 2 ^ 32 + s.rf (F.PTU_INV_ADDR_LO.PA_LO p) * 4096)

def opTlbInvAddr (p : Port) (s : State) : State := s.startInv p (.byAddress (s.invCtx p) (s.invPa p))
def opTlbInvCtx (p : Port) (s : State) : State := s.startInv p (.byContext (s.invCtx p))
def opTlbInvAll (p : Port) (s : State) : State := s.startInv p .all

/-- A START with OP 0b11 is refused with ERR, or with REFUSED while BUSY (R306). -/
def opTlbInvBad (p : Port) (s : State) : State :=
  if !s.hasPtu p then s
  else if s.invRefused p then s.wb (F.PTU_INV_STAT.REFUSED p) true
  else s.wb (F.PTU_INV_STAT.ERR p) true

/-- Steps 3 to 5 of Table 9.4. -/
def opTlbInvComplete (p : Port) (s : State) : State :=
  let x := s.ptu p
  if s.rb (F.PTU_INV_STAT.BUSY p) && x.invWaits.isEmpty && !x.walks.any Walk.marked then
    (((s.wb (F.PTU_INV_STAT.BUSY p) false).wb (F.PTU_INV_STAT.DONE p) true).count (ptuCtr p 0xD)).raise 118 (unitPort p)
  else s

/-- PTU_ROOT_LO_WRITE. -/
def execPtuRootLoWrite (p : Port) (v : Word) (s : State) : Host.Outcome State Fault Refusal := .next (s.onReg (opPtuRootLo p v))
/-- PTU_ROOT_HI_WRITE. -/
def execPtuRootHiWrite (p : Port) (v : Word) (s : State) : Host.Outcome State Fault Refusal := .next (s.onReg (opPtuRootHi p v))
/-- PTU_SEED_WRITE. -/
def execPtuSeedWrite (p : Port) (seed : BitVec 16) (s : State) : Host.Outcome State Fault Refusal := .next (s.onReg (opPtuSeed p seed))
/-- TLB_INV_BY_ADDRESS. -/
def execTlbInvByAddress (p : Port) (s : State) : Host.Outcome State Fault Refusal := .next (s.onReg (opTlbInvAddr p))
/-- TLB_INV_BY_CONTEXT. -/
def execTlbInvByContext (p : Port) (s : State) : Host.Outcome State Fault Refusal := .next (s.onReg (opTlbInvCtx p))
/-- TLB_INV_ALL. -/
def execTlbInvAll (p : Port) (s : State) : Host.Outcome State Fault Refusal := .next (s.onReg (opTlbInvAll p))
/-- TLB_INV_COMPLETE. -/
def execTlbInvComplete (p : Port) (s : State) : Host.Outcome State Fault Refusal := .next (opTlbInvComplete p s)

end Sys2Proof.Machine
end

