-- ==== Sys2Proof/Machine/Fabric.lean ====
section
/-! DEFINITION. Messages of other nodes: requests at the home (Table 7.6), forwards, invalidations and recalls (Table 7.3),
answers (Table 7.4); packets for other nodes (R351 to R356). -/

namespace Sys2Proof.Machine
open Sys2Proof

/-! ### Requests at the home -/

/-- The request of another node as its slice sees it. -/
def homeReq (h : FabHdr) (op : ReqOp) : Req :=
  { src := .node h.src h.rtrk h.bounded, op := op, line := h.line, cls := if h.bounded then 0 else 2, bounded := h.bounded }

/-- A line that this node serves as a home; otherwise the request gets the address error (R31). -/
def State.homeServes (s : State) (l : LineAddr) : Bool :=
  s.isHome l && spaceOf (saOf l) == .memory && !s.aboveTop (saOf l)

/-- A fabric request arrives at its home slice. -/
def State.arriveHome (s : State) (h : FabHdr) (r : Req) : State :=
  if s.homeServes h.line then s.arriveReq r
  else
    (s.addrError (sliceOf h.line) reqNode h.src.toNat (saOf h.line ||| r.off.setWidth 52)).runCoh (fun c => c.cmpStatus s r 1)

def opFrds (h : FabHdr) (s : State) : State := s.arriveHome h (homeReq h .rdS)
def opFrdu (h : FabHdr) (s : State) : State := s.arriveHome h (homeReq h .rdU)
def opFupg (h : FabHdr) (s : State) : State := s.arriveHome h (homeReq h .upg)
def opFrdc (h : FabHdr) (s : State) : State := s.arriveHome h (homeReq h .rdC)
def opFrdpf (h : FabHdr) (s : State) : State := s.arriveHome h (homeReq h .prefetch)
def opFclean (h : FabHdr) (s : State) : State := s.arriveHome h (homeReq h .clean)
def opFflush (h : FabHdr) (s : State) : State := s.arriveHome h (homeReq h .flush)

/-- FWr: its data is checked on arrival (R315). -/
def opFwr (h : FabHdr) (cl : CodeLine) (mask : ByteMask) (s : State) : State :=
  let a := (s.coh.arrive h.line cl)
  ({ s with coh := a.2 } : State).arriveHome h { homeReq h .store with cl := a.1, mask := mask }

/-- FAtm: lines that this home does not cache are served by the memory-port ALU. -/
def opFatm (h : FabHdr) (off : BitVec 7) (sz : BitVec 3) (aop : BitVec 4) (operand compare : BitVec 128) (nr noAlloc : Bool)
    (s : State) : State :=
  s.arriveHome h { homeReq h .atm with off := off, sz := sz, aop := aop, operand := operand, compare := compare, nr := nr,
                                         noAlloc := noAlloc }

/-- FWb: its data is checked on arrival; at its slice it waits behind a holder that is no fabric flow (R235). -/
def opFwb (h : FabHdr) (cl : CodeLine) (keep : Bool) (s : State) : State :=
  let a := s.coh.arrive h.line cl
  ({ s with coh := a.2 } : State).arriveReq { homeReq h .fwb with cl := a.1, nr := keep }
def opFev (h : FabHdr) (s : State) : State := s.arriveReq (homeReq h .fev)

/-- FRDS. -/
def execFrds (h : FabHdr) (s : State) : Host.Outcome State Fault Refusal := .next (opFrds h s)
/-- FRDU. -/
def execFrdu (h : FabHdr) (s : State) : Host.Outcome State Fault Refusal := .next (opFrdu h s)
/-- FUPG. -/
def execFupg (h : FabHdr) (s : State) : Host.Outcome State Fault Refusal := .next (opFupg h s)
/-- FRDC. -/
def execFrdc (h : FabHdr) (s : State) : Host.Outcome State Fault Refusal := .next (opFrdc h s)
/-- FRDPF. -/
def execFrdpf (h : FabHdr) (s : State) : Host.Outcome State Fault Refusal := .next (opFrdpf h s)
/-- FWR. -/
def execFwr (h : FabHdr) (c : CodeLine) (mask : ByteMask) (s : State) : Host.Outcome State Fault Refusal := .next (opFwr h c mask s)
/-- FWB. -/
def execFwb (h : FabHdr) (c : CodeLine) (keep : Bool) (s : State) : Host.Outcome State Fault Refusal := .next (opFwb h c keep s)
/-- FEV. -/
def execFev (h : FabHdr) (s : State) : Host.Outcome State Fault Refusal := .next (opFev h s)
/-- FATM. -/
def execFatm (h : FabHdr) (off : BitVec 7) (sz : BitVec 3) (aop : BitVec 4) (operand compare : BitVec 128) (nr noAlloc : Bool)
    (s : State) : Host.Outcome State Fault Refusal := .next (opFatm h off sz aop operand compare nr noAlloc s)
/-- FCLEAN. -/
def execFclean (h : FabHdr) (s : State) : Host.Outcome State Fault Refusal := .next (opFclean h s)
/-- FFLUSH. -/
def execFflush (h : FabHdr) (s : State) : Host.Outcome State Fault Refusal := .next (opFflush h s)

/-! ### Forwards, invalidations and recalls at a node -/

def opSnp (msg : Fin 5) (h : FabHdr) (ackF inv : Bool) (s : State) : State :=
  s.runCoh (fun c => (c.takeSnp s msg h ackF inv).woken)
def opFfwds (h : FabHdr) (ackF inv : Bool) (s : State) : State := opSnp 0 h ackF inv s
def opFfwdu (h : FabHdr) (ackF inv : Bool) (s : State) : State := opSnp 1 h ackF inv s
def opFfwdc (h : FabHdr) (ackF inv : Bool) (s : State) : State := opSnp 2 h ackF inv s
def opFinv (h : FabHdr) (s : State) : State := opSnp 3 h false false s
def opFrecall (h : FabHdr) (s : State) : State := opSnp 4 h false false s
def opFrecallset (src : NodeId) (htrk : BitVec 11) (sl : SliceNo) (set : BitVec 11) (s : State) : State :=
  s.runCoh (fun c => ((c.readRow s (BitVec.ofNat 45 (sl.val + 32 * set.toNat))).recvRecallSet s src htrk sl set.toNat).woken)

/-- FFWDS. -/
def execFfwds (h : FabHdr) (ackF inv : Bool) (s : State) : Host.Outcome State Fault Refusal := .next (opFfwds h ackF inv s)
/-- FFWDU. -/
def execFfwdu (h : FabHdr) (ackF inv : Bool) (s : State) : Host.Outcome State Fault Refusal := .next (opFfwdu h ackF inv s)
/-- FFWDC. -/
def execFfwdc (h : FabHdr) (ackF inv : Bool) (s : State) : Host.Outcome State Fault Refusal := .next (opFfwdc h ackF inv s)
/-- FINV. -/
def execFinv (h : FabHdr) (s : State) : Host.Outcome State Fault Refusal := .next (opFinv h s)
/-- FRECALL. -/
def execFrecall (h : FabHdr) (s : State) : Host.Outcome State Fault Refusal := .next (opFrecall h s)
/-- FRECALLSET. -/
def execFrecallset (src : NodeId) (htrk : BitVec 11) (sl : SliceNo) (set : BitVec 11) (s : State) :
    Host.Outcome State Fault Refusal := .next (opFrecallset src htrk sl set s)

/-! ### Answers -/

/-- The answer to a CSR or MMIO access at another node reaches the agent (R350). -/
def Coh.devAnswer (c : Coh) (t : OutTrk) (cl : Option CodeLine) (stat : Nat) : Coh :=
  let c1 := (c.dropTrk t.rtrk).pointOf t.req
  match t.req.src with
  | .agent p =>
    if t.req.posted then c1
    else match cl with
      | some d => c1.emit (.respond p (if stat = 0 then partMsg t.req d else cmpMsg t.req.tag 0 stat))
      | none => c1.emit (.respond p (cmpMsg t.req.tag 0 stat))
  | _ => c1

/-- A response is a pass of its line: it reads the row and the sets first (R102). -/
def State.response (s : State) (h : FabHdr) (f : Coh → Coh) : State := s.runCoh (fun c => (f (c.readRow s h.line)).woken)

def opFdata (h : FabHdr) (cl : CodeLine) (grant : BitVec 2) (uo ackF inv : Bool) (stat : BitVec 4) (s : State) : State :=
  match s.coh.trkOf h.rtrk with
  | some t =>
    if t.use = .dev then s.runCoh (fun c => (c.devAnswer t (some cl) stat.toNat).woken)
    else s.response h (fun c => c.recvData s h cl grant uo ackF inv)
  | none => s.response h (fun c => c.recvData s h cl grant uo ackF inv)

def opFcmp (h : FabHdr) (grant : BitVec 2) (stat : BitVec 4) (value : BitVec 128) (marks : BitVec 2) (s : State) : State :=
  match s.coh.trkOf h.rtrk with
  | some t =>
    match t.use with
    | .dev => s.runCoh (fun c => (c.devAnswer t none stat.toNat).woken)
    | .line => s.response h (fun c => c.recvCmpLine s h grant stat.toNat)
    | _ => s.response h (fun c => c.recvCmpOp h t stat.toNat value marks)
  | none => s.response h (fun c => c.nodeErr s h fCmp)

/-- The tracker named is a directory set recall (R218). -/
def Coh.isSetRecall (c : Coh) (h : FabHdr) : Bool := c.setRecalls.any (fun r => r.htrk == h.htrk)

def opFrecalldata (h : FabHdr) (cl : CodeLine) (s : State) : State :=
  s.response h (fun c => if c.isSetRecall h then c.setRecallData h.htrk h.src h.line cl else c.recvRecallData s h cl)
def opFrecallack (h : FabHdr) (count : BitVec 12) (s : State) : State :=
  s.response h (fun c => if c.isSetRecall h then c.setRecallAck h.htrk h.src count.toNat else c.recvRecallAck s h count.toNat)
def opFinvack (h : FabHdr) (s : State) : State := s.response h (fun c => c.recvInvAck s h)
def opFfwdmiss (h : FabHdr) (s : State) : State := s.response h (fun c => c.recvFwdMiss s h)
def opFwback (h : FabHdr) (fwd : Bool) (s : State) : State := s.response h (fun c => c.recvWbAck s h fwd)
def opFdecl (h : FabHdr) (s : State) : State := s.response h (fun c => c.recvDecl s h)
def opFcmpack (h : FabHdr) (s : State) : State := s.response h (fun c => c.recvCmpAck s h)

/-- FRECALLDATA. -/
def execFrecalldata (h : FabHdr) (c : CodeLine) (s : State) : Host.Outcome State Fault Refusal := .next (opFrecalldata h c s)
/-- FINVACK. -/
def execFinvack (h : FabHdr) (s : State) : Host.Outcome State Fault Refusal := .next (opFinvack h s)
/-- FRECALLACK. -/
def execFrecallack (h : FabHdr) (count : BitVec 12) (s : State) : Host.Outcome State Fault Refusal :=
  .next (opFrecallack h count s)
/-- FFWDMISS. -/
def execFfwdmiss (h : FabHdr) (s : State) : Host.Outcome State Fault Refusal := .next (opFfwdmiss h s)
/-- FWBACK. -/
def execFwback (h : FabHdr) (fwd : Bool) (s : State) : Host.Outcome State Fault Refusal := .next (opFwback h fwd s)
/-- FDECL. -/
def execFdecl (h : FabHdr) (s : State) : Host.Outcome State Fault Refusal := .next (opFdecl h s)
/-- FCMPACK. -/
def execFcmpack (h : FabHdr) (s : State) : Host.Outcome State Fault Refusal := .next (opFcmpack h s)

/-! ### Packets for other nodes -/

/-- Class code of a VCC entry for a packet (Table 11.7), its dateline channel, and how much it frees (R354). -/
def hdrBuf (l : LinkNo) (h : BitVec 160) (size : Nat) : LinkNo × BitVec 3 × Bool × Nat :=
  if hdrB h then (l, 7, false, 1) else (l, BitVec.ofNat 3 (stileClass (hdrOpc h)), hdrDl h, size)
def pktBuf (l : LinkNo) (p : StilePkt) : LinkNo × BitVec 3 × Bool × Nat := hdrBuf l p.hdr (pktSlots p)

/-- A packet for another node goes on by R351 to R353. What comes on a link that is not ACTIVE is ignored: a VG512S has no L4 and L5
(R3), and an unused link's receivers are ignored (R27). -/
def opStileForward (l : LinkNo) (p : StilePkt) (s : State) : State :=
  if hdrDst p.hdr = s.node || !s.linkActive l then s else (s.routeStile (some (l.val / 2)) (some (pktBuf l p)) none p).2

/-- A bounded packet that has waited 1 µs for a hop credit goes on without its bound (R356). -/
def opHopEscape (l : LinkNo) (s : State) : State :=
  let late := fun (w : StileWait) => hdrB w.pkt.hdr && decide (w.since + 1000 ≤ s.fine)
  if (s.stile l).wait.any late then
    let s1 := s.setStile l (fun x => { x with wait := modFirst late (fun (w : StileWait) =>
      { w with pkt := { w.pkt with hdr := setHdr w.pkt.hdr 55 1 0 } }) x.wait })
    let s2 := (s1.count (ctrSel 5 l 9)).raise 178 (unitLink l)
    State.pumpStile l (s2.stile l).wait.length s2
  else s

/-- STILE_FORWARD. -/
def execStileForward (l : LinkNo) (p : StilePkt) (s : State) : Host.Outcome State Fault Refusal := .next (opStileForward l p s)
/-- HOP_CREDIT_ESCAPE. -/
def execHopCreditEscape (l : LinkNo) (s : State) : Host.Outcome State Fault Refusal := .next (opHopEscape l s)

end Sys2Proof.Machine
end

