-- ==== Sys2Proof/Machine/Answers.lean ====
section
/-! DEFINITION. Answers of agents: AckC, snoop answers, device requests of MMIO windows; dead agents (R226 to R229). -/

namespace Sys2Proof.Machine
open Sys2Proof

/-- A packet that breaks the protocol at an agent port (R234): counted, EV104, an entry with the message and its sender. -/
def State.portError (s : State) (p : Port) (opc : Nat) (sa : SysAddr) : State :=
  (s.count (ctrSel 2 p 0x23)).raiseLog 104 (unitPort p) (formA sa (reqAgent p) 0 s.node [opc, (Config.stateCode 63).toNat])

/-! ### AckC and snoop answers -/

/-- Code of an agent state (Table 11.2). -/
def AgSt.code : AgSt → Nat
  | .i => 0
  | .s => 1
  | .e => 2
  | .o => 3
  | .m => 4

/-- The transaction that awaits AckC of a tag. -/
def Coh.ackTxn (c : Coh) (p : Port) (tag : Tag) : Option Txn :=
  c.txns.find? (fun t => t.ackPending && t.req.src == .agent p && t.req.tag == tag)

/-- AckC ends the wait of R198: snoops to the agent for the line go out. -/
def opAckc (p : Port) (tag : Tag) (s : State) : State :=
  match s.coh.ackTxn p tag with
  | none => s.portError p 0x20 0
  | some t =>
    (s.count (ctrSel 2 p 0x22)).runCoh (fun c =>
      ((c.setTxn t.req.line (fun t => { t with ackPending := false })).releaseSnoops s p t.req.line).woken)

/-- ACKC. -/
def execAckc (p : Port) (tag : Tag) (s : State) : Host.Outcome State Fault Refusal := .next (opAckc p tag s)

def Coh.snoopBy (c : Coh) (p : Port) (tag : Tag) : Option Snoop :=
  c.snoops.find? (fun x => x.port == p && x.tag == tag && !x.deferred)

/-- A snoop answer, R249: a line of a set purge or recall, the answer to an offer, or an answer with or without data. -/
def opSnoopAnswer (p : Port) (tag : Tag) (newst : AgSt) (acc dirty : Bool) (data : Option FullData) (line : LineAddr)
    (s : State) : State :=
  match s.coh.snoopBy p tag with
  | none => s.portError p (if data.isSome then 0x28 else 0x21) (saOf line)
  | some x =>
    let hdr := BitVec.ofNat 160 ((if data.isSome then 0x28 else 0x21) + 2 ^ 8 * tag.toNat + 2 ^ 31 * dirty.toNat + 2 ^ 32 * AgSt.code newst
      + 2 ^ 35 * acc.toNat + 2 ^ 40 * (saOf line).toNat)
    let dst := if x.opc = opSnpP then sliceOf line else sliceOf x.line
    let s0 := s.cross (.port p) (.slice dst) false (if data.isSome then 3 else 2) 2 hdr (data.map (fun d => encodeLine d.bytes d.poison)) none
    let s1 := s0.count (ctrSel 2 p 0x21) (if x.since + 40 < s.fine then 1 else 0)
    let cl := data.map (fun d => encodeLine d.bytes d.poison)
    s1.runCoh (fun c =>
      if x.opc = opSnpP then
        match cl, c.flows.find? (fun f => f.id == x.flow) with
        | some d, some f => (c.purgeLine s1 f p line d).woken
        | _, _ => c.snoopAnswered x .i false none
      else if x.opc = opSnpH then c.snoopAnswered x newst acc none
      else c.snoopAnswered x (if x.opc = opSnpU then .i else newst) dirty cl)

/-- SNOOP_ANSWER. -/
def execSnoopAnswer (p : Port) (tag : Tag) (newst : AgSt) (acc dirty : Bool) (data : Option FullData) (line : LineAddr)
    (s : State) : Host.Outcome State Fault Refusal := .next (opSnoopAnswer p tag newst acc dirty data line s)

def opSnoopWriteback (l : LineAddr) (s : State) : State := s.runCoh (fun c => (c.passAgentWb s l).woken)

/-- SNOOP_DATA_WRITEBACK. -/
def execSnoopDataWriteback (l : LineAddr) (s : State) : Host.Outcome State Fault Refusal := .next (opSnoopWriteback l s)

/-! ### Device requests (R32, R47, R229, R270, R350) -/

/-- A fabric answer to another node's CSR or MMIO access. -/
def State.devReply (s : State) (u : HdlUnit) (n : NodeId) (rtrk : BitVec 11) (line : LineAddr) (data : Option CodeLine) (stat : Nat) :
    State :=
  let h : StileHdr := { opc := match data with | some _ => fData | none => fCmp, dst := n.toNat, src := s.node,
                        rqn := n.toNat, rtrk := rtrk.toNat, line := line, stat := stat }
  s.sendFabric u { hdr := stileHdr h, payload := match data with | some d => .line d | none => .none }

/-- Ends a device request of port `o`'s window: DData or DCmp of the owner, or a status of the device. -/
def State.devEnd (s : State) (o : Port) (d : DevReq) (data : Option CodeLine) (stat : Nat) : State :=
  match d.src with
  | .agent p tag point =>
    let s1 := s.pointReached p point
    if d.kind = .dWrP then s1
    else match data with
      | some cl =>
        if stat = 0 then
          s1.answer p (partMsg { src := .agent p, op := .rdC, line := 0, tag := tag, off := d.addr.extractLsb' 0 7, sz := d.sz } cl)
        else s1.answer p (cmpMsg tag 0 stat)
      | none => s1.answer p (cmpMsg tag 0 stat)
  | .node n rtrk =>
    let line := lineOf (BitVec.ofNat 52 (s.node * 2 ^ 43 + 0x60000000000 + d.window.toNat * 2 ^ 36 + d.addr.toNat))
    if d.kind = .dRd then s.devReply (.port o) n rtrk line (some (data.getD 0)) stat else s.devReply (.port o) n rtrk line none stat

/-- The device request answered by a tag at its owning port. -/
def opDevAnswer (p : Port) (tag : Tag) (data : Option CodeLine) (stat : Nat) (s : State) : State :=
  match takeFirst (fun (d : DevReq) => d.tag == tag && d.kind != .dWrP) (s.port p).dreqOut with
  | none => s.portError p (if data.isSome then 0x29 else 0x22) 0
  | some (d, rest) => (s.setPort p (fun x => { x with dreqOut := rest })).devEnd p d data stat

def opDcmp (p : Port) (tag : Tag) (stat : BitVec 4) (s : State) : State := opDevAnswer p tag none stat.toNat s
def opDdata (p : Port) (tag : Tag) (stat : BitVec 4) (d : FullData) (s : State) : State :=
  opDevAnswer p tag (some (encodeLine d.bytes d.poison)) stat.toNat s

def devOpc : DevKind → BitVec 6
  | .dRd => opDRd
  | .dWrP => opDWrP
  | .dWrN => opDWrN

/-- The packet of a device request (R32, Table 11.4). -/
def DevReq.msg (d : DevReq) (tag : Tag) : AgentMsg :=
  { opc := devOpc d.kind, tag := tag, addr := d.addr.setWidth 52 ||| (d.window.setWidth 52 <<< 36), sz := d.sz,
    bytes := d.data.bytes, mask := d.data.mask, poison := d.data.poison }

/-- Device writes whose last bit has left have reached their point (Table 8.1): a posted one has ended, with the FCmp of R350. -/
def State.devGone (s : State) (p : Port) : State :=
  let one := fun (s : State) (tag : Tag) =>
    match takeFirst (fun (d : DevReq) => d.tag == tag && d.kind != .dRd) (s.port p).dreqOut with
    | none => s
    | some (d, rest) =>
      if d.kind = .dWrP then (s.setPort p (fun x => { x with dreqOut := rest })).devEnd p d none 0
      else match d.src with
        | .agent q _ point => s.pointReached q point
        | .node _ _ => s
  (s.port p).devLeft.foldl one (s.setPort p (fun x => { x with devLeft := [] }))

/-- The oldest device request of a port leaves, when the agent has a buffer for it (R346); a dead agent's requests end with
the dead-target status. Marks of a write go with it, and are counted (R321). -/
def opMmioDelivery (p : Port) (s : State) : State :=
  match (s.port p).dreqQ with
  | [] => s
  | d :: rest =>
    let s1 := s.setPort p (fun x => { x with dreqQ := rest })
    if s.dead p then s1.devEnd p d none 4
    else if s.portActive p && decide (0 < (s.port p).dreqCred) then
      let tag := (s.port p).devTag
      let s2 := s1.setPort p (fun x => { x with dreqCred := x.dreqCred - 1, devTag := x.devTag + 1,
                                                dreqOut := x.dreqOut ++ [{ d with tag := tag }] })
      ((s2.count (ctrSel 7 0 7) (if d.data.poison = 0 then 0 else 1)).toAgent p (d.msg tag)).devGone p
    else s

/-! ### Dead agents (R226 to R229) -/

/-- A port's agent is declared dead: steps 1 to 3 of Table 6.11. -/
def State.declareDead (s : State) (p : Port) (cause : Nat) : State :=
  if s.kind p == .off || s.dead p then s
  else
    let s1 := (s.wf (F.AGP_DEAD_CTL.DEAD p) 1).wf (F.AGP_DEAD_CTL.CAUSE p) cause
    let s2 := s1.raiseBare 98 (unitPort p)
    let owed := (s2.port p).dreqOut ++ (s2.port p).dreqQ
    let s3 := s2.setPort p (fun x => { x with credits := [], snpWait := [], dreqQ := [], dreqOut := [], devLeft := [], poisoned := false })
    let s4 := owed.foldl (fun s d => s.devEnd p d none 4) s3
    s4.runCoh Coh.woken

/-- A snoop to the agent has gone unanswered for SNP_T. -/
def opSnoopTimeout (p : Port) (tag : Tag) (s : State) : State :=
  match s.coh.snoopBy p tag with
  | some x => if x.since + max 1 (s.rf (F.AGP_DEAD_CFG.SNP_T p)) * 256 ≤ s.fine then s.declareDead p 1 else s
  | none => s

/-- The link has left ACTIVE and not come back within LINK_T. -/
def opLinkRetrainTimeout (p : Port) (s : State) : State :=
  match (s.port p).link.leftAt with
  | some t => if t + max 1 (s.rf (F.AGP_DEAD_CFG.LINK_T p)) * 64000 ≤ s.fine then s.declareDead p 2 else s
  | none => s

/-- AGP_DEAD_CTL: DECLARE with its key. -/
def opDeadCtl (p : Port) (v : Word) (s : State) : State :=
  if bit v 8 && fld v 16 8 == 0xC3 then s.declareDead p 3 else s

/-- SNOOP_TIMEOUT. -/
def execSnoopTimeout (p : Port) (tag : Tag) (s : State) : Host.Outcome State Fault Refusal := .next (opSnoopTimeout p tag s)
/-- LINK_RETRAIN_TIMEOUT. -/
def execLinkRetrainTimeout (p : Port) (s : State) : Host.Outcome State Fault Refusal := .next (opLinkRetrainTimeout p s)
/-- AGP_DEAD_CTL_DECLARE. -/
def execAgpDeadCtlDeclare (p : Port) (v : Word) (s : State) : Host.Outcome State Fault Refusal := .next (s.onReg (opDeadCtl p v))

/-- Step 4 of Table 6.11 for the entry at a key: poison what the agent owned, then clear its bit. -/
def Coh.reclaimEntry (c : Coh) (e : State) (p : Port) (k : Nat) : Coh :=
  let x := c.snfAt k
  let l := snfLine k x
  if c.lockedLine l then c
  else
    let own := x.owner == some p
    let c1 := if own then c.poison e l p else c
    let y := c1.snfAt k
    let c2 := c1.putSnf k { y with pres := y.pres &&& ~~~ portBit p
                                   ast := if own then aSH else y.ast
                                   ownp := if own then 0 else y.ownp }
    c2.tidySnf e l

/-- Keys of the entries that name a port. -/
def Coh.naming (c : Coh) (p : Port) : List Nat :=
  (c.snf.filter (fun x => x.2.ast != aFree && snfGood x.2 && x.2.named p)).map (fun x => x.1)

/-- The walk of every slice; RECLAIMED and EV099 when it has ended in all of them and nothing of the port is in service. -/
def opDeadAgentWalk (p : Port) (s : State) : State :=
  if !s.dead p || s.rb (F.AGP_DEAD_CTL.RECLAIMED p) then s
  else
    let s1 := s.runCoh (fun c => ((c.naming p).foldl (fun c k => c.reclaimEntry s p k) c).woken)
    let busy := !(s1.coh.naming p).isEmpty || s1.coh.txns.any (fun t => t.req.src == .agent p) ||
      s1.coh.wait.any (fun r => r.src == .agent p) || !(s1.port p).front.isEmpty
    if busy then s1 else (s1.wb (F.AGP_DEAD_CTL.RECLAIMED p) true).raise 99 (unitPort p)

/-- DEAD_AGENT_WALK_DONE. -/
def execDeadAgentWalkDone (p : Port) (s : State) : Host.Outcome State Fault Refusal := .next (opDeadAgentWalk p s)

/-! ### Dead nodes (R230 to R232) -/

/-- Node n is declared dead; what that ends comes in the passes that follow. -/
def State.declareNode (s : State) (n : Nat) : State :=
  if n = s.node ∨ s.deadNodes.contains n then s
  else
    let s1 := ({ s with deadNodes := s.deadNodes ++ [n], deadWalks := s.deadWalks ++ [n] } : State).raiseLog 101 (unitHub 0)
      (formA 0 reqNode 0 n [])
    s1.runCoh Coh.woken

/-- No link toward the node works (R230, R353). -/
def State.noRoute (s : State) (n : Nat) : Bool :=
  let h := stileHdr { opc := 0, dst := n }
  match s.nextHop h with
  | none => false
  | some (dim, minus) =>
    !s.linkActive (linkOf dim minus) &&
      !(s.torusOf dim && decide (3 ≤ s.sizeOf dim) && s.linkActive (linkOf dim (1 - minus)))

/-- Moments since which this node has awaited an answer of node n. -/
def Coh.awaiting (c : Coh) (e : State) (n : NodeId) : List Nat :=
  ((c.outTrks.filter (fun t => t.dst == n)).map OutTrk.since) ++
  ((c.homeTx.filter (fun h => h.invs.contains n || h.recalls.contains n || h.fwdTo == some n ||
      ((h.ts == .hc || h.ts == .hu) && h.req.remote && reqNodeId e h.req == n))).filterMap HomeTx.since) ++
  ((c.nodeTx.filter (fun t => lineHome t.line == n.toNat)).filterMap NodeTx.since) ++
  ((c.setRecalls.filter (fun r => r.await.contains n)).filterMap SetRecall.since)

def opNodeTimeout (n : NodeId) (noRoute : Bool) (s : State) : State :=
  let t := max 1 (s.rf F.GLB_COH_TMO.NODE_T) * 10000
  let late := (s.coh.awaiting s n).any (fun x => decide (x + t ≤ s.fine))
  if s.inFabric n.toNat && (if noRoute then s.noRoute n.toNat else late) then s.declareNode n.toNat else s

/-- GLB_DEAD_CTL: DECLARE with its key. -/
def opGlbDeadCtl (v : Word) (s : State) : State :=
  if bit v 24 && fld v 16 8 == 0xC3 then s.declareNode (fld v 0 9) else s

/-- The walk that removes the dead node's lines ends when none is left (R232). -/
def opDeadNodeWalk (n : NodeId) (s : State) : State :=
  if s.deadWalks.contains n.toNat then
    let s1 := s.runCoh Coh.woken
    let left := !(s1.coh.deadLines s1 n.toNat).isEmpty || s1.coh.flows.any (fun f => f.locks && lineHome f.line == n.toNat)
    if left then s1
    else ({ s1 with deadWalks := s1.deadWalks.filter (fun m => m != n.toNat) } : State).raise 102 (unitHub 0)
  else s

/-- NODE_TIMEOUT. -/
def execNodeTimeout (n : NodeId) (noRoute : Bool) (s : State) : Host.Outcome State Fault Refusal :=
  .next (opNodeTimeout n noRoute s)
/-- GLB_DEAD_CTL_DECLARE. -/
def execGlbDeadCtlDeclare (v : Word) (s : State) : Host.Outcome State Fault Refusal := .next (s.onReg (opGlbDeadCtl v))
/-- DEAD_NODE_WALK_DONE. -/
def execDeadNodeWalkDone (n : NodeId) (s : State) : Host.Outcome State Fault Refusal := .next (opDeadNodeWalk n s)

end Sys2Proof.Machine
end

