-- ==== Sys2Proof/Machine/Fills.lean ====
section
/-! DEFINITION. Reads that return from the memory ports and channels, fills, and the clocks of Press, Hamper and Swath
trackers (R109, R128 to R142, R316, R330, R331). -/

namespace Sys2Proof.Machine
open Sys2Proof

/-! ### Reads that return (R316) -/

/-- The line of a request in service is in hand. -/
def Coh.served (c : Coh) (r : PendRead) (cl : CodeLine) : Coh :=
  match c.txnOf r.line with
  | some t =>
    if t.phase = .mem then (c.setTxn r.line (fun t => { t with data := some cl, phase := if t.tracker then .arrived else .ready })).woken
    else if t.phase = .cmi then (c.setTxn r.line (fun t => { t with data := some cl, phase := .ready })).woken
    else c
  | none => c

/-- What a returned line is for; `marks` are its new marks, `slot` says that it came from a cache slot. -/
def Coh.delivered (c : Coh) (e : State) (r : PendRead) (cl : CodeLine) (marks : BitVec 16) (slot : Bool) : Coh :=
  match r.cont with
  | .serve => c.served r cl
  | .toNode rqn rtrk htrk b grant uo ackF inv ovl mask =>
    c.sendNode e { opc := fData, dst := rqn.toNat, rqn := rqn.toNat, rtrk := rtrk.toNat, htrk := htrk.toNat, bounded := b,
                   line := r.line, grant := grant.toNat, uo := uo, ack := ackF, inv := inv }
      (.line (mergePress cl ovl mask))
  | .recall h ovl mask =>
    (c.toHomeNode e h fRecallData id (.line (mergePress cl ovl mask))).toHomeNode e h fRecallAck
      (fun m => { m with count := 1 }) .none
  | .home => (c.setHome r.line (fun h => { h with data := some cl, reading := false })).woken
  | .press => (c.setPress r.line (fun p => { p with under := some cl })).woken
  | .spill p id header => c.emit (.spillData p id header cl)
  | .scrub =>
    if marks = 0 then c
    else if slot then { c with slotReports := c.slotReports ++ [(r.key, r.line)] }
    else { c with memReports := c.memReports ++ [(r.key, r.line, !e.rb (F.MEM_ERR.UE (memOf r.line)))] }

/-- Marks the newest owed verify read as one of a Darner visit. -/
def markScrub (l : List Verify) : List Verify :=
  match l.getLast? with
  | some v => l.dropLast ++ [{ v with scrub := true }]
  | none => l

/-- Place of a read in its queue (R55, R69, R73). -/
def Coh.readRank (c : Coh) (e : State) (r : PendRead) : Nat :=
  rankOf e r.top r.cls (match r.cont with
    | .serve => (c.txnOf r.line).bind (fun t => t.req.promiseId)
    | .home => (c.homeTxOf r.line).bind (fun h => h.req.promiseId)
    | _ => none)

/-- Verify reads owed at an interface. -/
def Coh.owed (c : Coh) (u : Nat) : List Verify := if u < 8 then c.cmiVerify.get (Fin.ofNat 8 u) else c.memVerify.get (Fin.ofNat 2 (u - 8))
def Coh.owes (c : Coh) (u key : Nat) : Bool := (c.owed u).any (fun v => v.key == key)

/-- The next read of a queue goes into service: the first of the best rank, but no read overtakes one of the same place, and
none comes between a read there and its verify read (R316, R366). -/
def Coh.nextRead (c : Coh) (e : State) (u : Nat) (q : List PendRead) : List PendRead :=
  let first := q.zipIdx.filter (fun x => !c.owes u x.1.key && !(q.take x.2).any (fun y => y.key == x.1.key))
  match leastSome (first.map (fun x => c.readRank e x.1)) with
  | none => q
  | some m =>
    match takeFirst (fun r => c.readRank e r == m && first.any (fun x => x.1 == r)) q with
    | some (r, rest) => r :: rest
    | none => q

/-- The reads of an interface. -/
def Coh.readQ (c : Coh) (u : Nat) : List PendRead := if u < 8 then c.cmiQ.get (Fin.ofNat 8 u) else c.memQ.get (Fin.ofNat 2 (u - 8))
def Coh.setReadQ (c : Coh) (u : Nat) (q : List PendRead) : Coh :=
  if u < 8 then { c with cmiQ := vset c.cmiQ (Fin.ofNat 8 u) q } else { c with memQ := vset c.memQ (Fin.ofNat 2 (u - 8)) q }
def Coh.setOwed (c : Coh) (u : Nat) (q : List Verify) : Coh :=
  if u < 8 then { c with cmiVerify := vset c.cmiVerify (Fin.ofNat 8 u) q } else { c with memVerify := vset c.memVerify (Fin.ofNat 2 (u - 8)) q }

/-- The read in service at an interface (0 to 7 channels, 8 and 9 memory ports), the first of its queue, returns; `errs` are
the bits that differ from what was stored. A verify read owed at the same place comes first. -/
def Coh.readDone (c : Coh) (e : State) (u : Nat) (errs : CodeLine) : Coh :=
  match c.nextRead e u (c.readQ u) with
  | [] => c
  | r :: others =>
    if c.owes u r.key then c
    else
      let stored := if u < 8 then c.rawSlot e r.key else c.rawMem (Fin.ofNat 2 (u - 8)) r.key
      let raw := r.captured.getD stored ^^^ errs
      let d := (c.setReadQ u others).decodeAt e u r.key r.line raw r.captured.isNone (r.cont == .scrub)
      let owed := (decodeLine raw).corrected != 0 || (decodeLine raw).newMarks != 0
      let c2 := if r.cont = .scrub ∧ owed then d.2.setOwed u (markScrub (d.2.owed u)) else d.2
      c2.delivered e r d.1 (decodeLine raw).newMarks (decide (u < 8))

/-- During an hPPR sequence the port performs no other access (R371). -/
def opMemoryReadDone (m : MemNo) (errs : CodeLine) (s : State) : State :=
  if s.rb (F.MEM_STAT.PPR_BUSY m) then s else s.runCoh (fun c => c.readDone s (8 + m.val) errs)
def opCmiReadDone (ch : ChanNo) (errs : CodeLine) (s : State) : State := s.runCoh (fun c => c.readDone s ch.val errs)

/-- MEMORY_READ_DONE. -/
def execMemoryReadDone (m : MemNo) (errs : CodeLine) (s : State) : Host.Outcome State Fault Refusal :=
  .next (opMemoryReadDone m errs s)
/-- CMI_READ_DONE. -/
def execCmiReadDone (c : ChanNo) (errs : CodeLine) (s : State) : Host.Outcome State Fault Refusal :=
  .next (opCmiReadDone c errs s)

/-! ### Verify reads and slot retirement (R330, R331) -/

/-- Slots of a set in T or accepted for retirement. -/
def Coh.retiringIn (c : Coh) (k : Nat) : Nat :=
  let keys := (List.range 16).map (slotKey (slotSlice k) (slotSet k))
  (keys.filter (fun j => (c.tag j).st == tT || c.retiring.any (fun x => x.1 == j))).length

def slotDetail (e : State) (c : Coh) (k mask : Nat) : BitVec 128 :=
  formASlot (if e.isSpill k then none else some (saOf (c.slotLineAddr e k))) reqDevice mask e.node (slotSlice k) (slotSet k)
    (slotWay k)

/-- A verify failure at a slot: the slot is accepted for retirement, or the retirement is refused. -/
def Coh.retire (c : Coh) (e : State) (k mask : Nat) : Coh :=
  let s := slotSlice k
  if c.retiring.any (fun x => x.1 == k) then c
  else if e.rb F.DAR_CTL.RETIRE_EN && decide (c.retiringIn k < e.rf F.DAR_RET_CTL.RET_LIMIT) && !e.isSpill k then
    { c with retiring := c.retiring ++ [(k, mask)], wake := true }
  else (c.sctr s 0x43).emits [.regFld Reg.DAR_RET_STAT 1 1 1, .log 146 s true (slotDetail e c k mask)]

/-- The verify read owed longest at an interface returns. -/
def Coh.verifyDone (c : Coh) (e : State) (u : Nat) (errs : CodeLine) : Coh :=
  match c.owed u with
  | [] => c
  | v :: rest =>
    let c0 := c.setOwed u rest
    let d := decodeLine (v.cl ^^^ errs)
    if d.corrected = 0 ∧ d.newMarks = 0 then c0
    else
      let c1 := if d.corrected = 0 then c0
        else (c0.ctr (ifCtr u 0) d.corrected).emits [.regBit (ifErr u) 0, .corrected u d.corrected]
      let bad := maskOf (fun n => d.newMarks.getLsbD n || decide (lineWord (v.cl ^^^ errs) n ≠ lineWord d.line n)) 16
      let c2 := (c1.ctr (ifCtr u 4)).emits
        [.regBit (ifErr u) 3, .log noEvent (ifUnit u) false (ifDetail e u v.key v.line bad)]
      if u < 8 then c2.retire e v.key bad else c2.emit (.retire (Fin.ofNat 2 (u - 8)) v.key v.line 2)

def ifNo : MemIf → Nat
  | .chan c => c.val
  | .mem m => 8 + m.val

def opVerifyReadDone (u : MemIf) (errs : CodeLine) (s : State) : State :=
  let busy := match u with | .mem m => s.rb (F.MEM_STAT.PPR_BUSY m) | .chan _ => false
  if busy then s else s.runCoh (fun c => c.verifyDone s (ifNo u) errs)

/-- VERIFY_READ_DONE. -/
def execVerifyReadDone (u : MemIf) (errs : CodeLine) (s : State) : Host.Outcome State Fault Refusal :=
  .next (opVerifyReadDone u errs s)

/-! ### Fills (R109) -/

/-- The line's data reaches its fill tracker: the request is answered. -/
def opFillDataArrival (l : LineAddr) (s : State) : State :=
  s.runCoh (fun c => ((c.readRow s l).setTxn l (fun t => if t.phase = .arrived then { t with phase := .ready } else t)).woken)

/-- The channel has accepted the line: final tag entry, the tracker is free (Table 3.7, step 7), and prefetches that joined
complete. Where the reserved entry has been lost and its way taken (R100), a modified line goes to the Hamper. -/
def Coh.fillWritten (c : Coh) (e : State) (l : LineAddr) : Coh :=
  let c := c.readRow e l
  match c.txnOf l with
  | some t =>
    match t.phase, t.writePending, t.slot with
    | .done, true, some k =>
      let a := t.req.insAge e
      let mine := (c.tag k).st == tI || ((c.tag k).st == tF && (c.tag k).tag == tagOf e.sets l)
      let c1 := if mine then (c.finishSlot e k l t.install a.1 a.2 (t.data.getD 0)).clearNst l
        else if isMod t.install then c.putHamper e { line := l, cl := t.data.getD 0, st := t.install }
        else c
      (((c1.endJoined t).setTxn l (fun t => { t with writePending := false, install := 0, slot := none, tracker := false,
                                                     joined := [] })).tidySnf e l).woken
    | _, _, _ => c
  | none => c

def opFillWriteAccepted (l : LineAddr) (s : State) : State :=
  let pre : Bool := match s.coh.txnOf l with
    | some t => t.phase == .done && t.writePending && t.slot.isSome
    | none => false
  let s1 := s.runCoh (fun c => c.fillWritten s l)
  if pre then s1.dropPromises (fun q => match q with
    | .device _ id => id / 8 == l.toNat
    | .agent _ _ => false)
  else s1

/-- FILL_DATA_ARRIVAL. -/
def execFillDataArrival (l : LineAddr) (s : State) : Host.Outcome State Fault Refusal := .next (opFillDataArrival l s)
/-- FILL_WRITE_ACCEPTED. -/
def execFillWriteAccepted (l : LineAddr) (s : State) : Host.Outcome State Fault Refusal := .next (opFillWriteAccepted l s)

/-! ### Press and Hamper -/

/-- A drain is a pass: it reads the row and the sets of its line (R102). -/
def opPressDrainStart (sl : SliceNo) (s : State) : State :=
  s.runCoh (fun c => match c.drainNext s sl with
    | some p => ((c.readRow s p.line).drainStart s sl).woken
    | none => c.woken)

/-- An entry's age is reached (GLB_PRESS_CFG.AGE): its drain is wanted. -/
def opPressAge (l : LineAddr) (s : State) : State :=
  s.runCoh (fun c =>
    match c.pressOf l with
    | some p => if max 1 (s.rf F.GLB_PRESS_CFG.AGE) * 16 ≤ s.fine - p.born then c.wantDrain l else c
    | none => c)

def opPressDrainDone (l : LineAddr) (s : State) : State := s.runCoh (fun c => ((c.readRow s l).drainDone s l).woken)
def opPressPermission (l : LineAddr) (s : State) : State := s.runCoh (fun c => ((c.readRow s l).permGranted s l).woken)
def opHamperStart (sl : SliceNo) (s : State) : State :=
  s.runCoh (fun c => match c.hamperOldest sl with
    | some h => ((c.readRow s h.line).hamperStart s sl).woken
    | none => c.woken)
def opHamperDone (l : LineAddr) (s : State) : State := s.runCoh (fun c => ((c.readRow s l).hamperDone s l).woken)

/-- PRESS_AGE_EXPIRY. -/
def execPressAgeExpiry (l : LineAddr) (s : State) : Host.Outcome State Fault Refusal := .next (opPressAge l s)
/-- PRESS_DRAIN_START. -/
def execPressDrainStart (sl : SliceNo) (s : State) : Host.Outcome State Fault Refusal := .next (opPressDrainStart sl s)
/-- PRESS_PERMISSION_GRANTED. -/
def execPressPermissionGranted (l : LineAddr) (s : State) : Host.Outcome State Fault Refusal := .next (opPressPermission l s)
/-- HAMPER_WRITEBACK_START. -/
def execHamperWritebackStart (sl : SliceNo) (s : State) : Host.Outcome State Fault Refusal := .next (opHamperStart sl s)
/-- HAMPER_WRITEBACK_DONE. -/
def execHamperWritebackDone (l : LineAddr) (s : State) : Host.Outcome State Fault Refusal := .next (opHamperDone l s)

/-! ### Swath trackers (R135 to R139) -/

/-- The k test of R136: the store's distance from the expected line in lines of the tracker's direction. -/
def SwathTracker.match (t : SwathTracker) (l : Nat) (gap : Nat) : Bool :=
  match t.dir, t.exp with
  | some d, some x =>
    let k := ((l : Int) - x) * d
    decide (0 ≤ k) && decide (k ≤ (gap : Int))
  | _, _ => false

/-- A second store next to the first sets the direction (R136). -/
def SwathTracker.direct (t : SwathTracker) (l : Nat) : SwathTracker :=
  match t.dir with
  | some _ => t
  | none =>
    if (l : Int) = t.last + 1 then { t with dir := some 1, exp := some ((t.last : Int) + 1) }
    else if (l : Int) = t.last - 1 then { t with dir := some (-1), exp := some ((t.last : Int) - 1) }
    else t

/-- R136 on the trackers of a port in order; `now` is fine time, `stamp` orders matches. -/
def swathRun (trk : Vector (Option SwathTracker) 8) (l on gap now stamp : Nat) : Bool × Vector (Option SwathTracker) 8 :=
  let step := fun (a : Option Bool × Vector (Option SwathTracker) 8) (i : Fin 8) =>
    match a.1, a.2.get i with
    | none, some t =>
      let t1 := t.direct l
      if t1.match l gap then
        (some (decide (on ≤ t1.count)),
          vset a.2 i (some { t1 with count := min 255 (t1.count + 1), last := l,
                                     exp := some ((l : Int) + t1.dir.getD 1), matched := now, order := stamp }))
      else (none, vset a.2 i (some t1))
    | _, _ => a
  let r := (fins 8).foldl step (none, trk)
  match r.1 with
  | some d => (d, r.2)
  | none =>
    let free := (fins 8).find? (fun i => (r.2.get i).isNone)
    let old := (fins 8).foldl (fun (b : Fin 8) i =>
      match r.2.get b, r.2.get i with
      | some x, some y => if y.order < x.order then i else b
      | _, _ => b) 0
    (false, vset r.2 (free.getD old)
      (some { last := l, dir := none, exp := none, count := 1, matched := now, order := stamp }))

/-- R137: a tracker that the access names is reset and its expected line moves on. -/
def SwathTracker.reset (t : SwathTracker) : SwathTracker :=
  { t with count := 0, exp := match t.dir, t.exp with | some d, some x => some (x + d) | _, x => x }

/-- A partial store or a read to an expected line. -/
def swathTouch (trk : Vector (Option SwathTracker) 8) (l : Nat) : Vector (Option SwathTracker) 8 :=
  trk.map (fun t => t.map (fun t => if t.dir.isSome && t.exp == some (l : Int) then t.reset else t))

/-- A full-line store to a line whose policy is not WBS. -/
def swathBreak (trk : Vector (Option SwathTracker) 8) (l gap : Nat) : Vector (Option SwathTracker) 8 :=
  trk.map (fun t => t.map (fun t => if t.match l gap then t.reset else t))

/-- The detector of a port on a store or read of a line: whether the store is diverted. -/
def State.swath (s : State) (p : Port) (sa : SysAddr) (full store : Bool) : Bool × State :=
  if !s.rb F.GLB_SWATH_CFG.EN then (false, s)
  else
    let l := (lineOf sa).toNat
    let gap := s.rf F.GLB_SWATH_CFG.GAP
    let x := (s.port p).swath
    let put := fun (v : Vector (Option SwathTracker) 8) => s.setPort p (fun y => { y with swath := v })
    if store && full then
      if s.policy (lineOf sa) = pWBS then
        let stamp := x.toList.foldl (fun m t => match t with | some t => max m (t.order + 1) | none => m) 0
        let r := swathRun x l (s.rf F.GLB_SWATH_CFG.ON) gap s.fine stamp
        (r.1, put r.2)
      else (false, put (swathBreak x l gap))
    else (false, put (swathTouch x l))

/-- With EN 0 the trackers are freed (R139). -/
def State.swathOff (s : State) : State :=
  if s.rb F.GLB_SWATH_CFG.EN then s
  else (fins 6).foldl (fun s p => s.setPort p (fun x => { x with swath := Vector.replicate 8 none })) s

/-- A tracker whose last match lies IDLE × 256 ns in the past is freed (R137). -/
def opSwathIdle (p : Port) (i : Fin 8) (s : State) : State :=
  match (s.port p).swath.get i with
  | some t =>
    if max 1 (s.rf F.GLB_SWATH_CFG.IDLE) * 256 ≤ s.fine - t.matched then
      s.setPort p (fun x => { x with swath := vset x.swath i none })
    else s
  | none => s

/-- SWATH_TRACKER_IDLE. -/
def execSwathTrackerIdle (p : Port) (i : Fin 8) (s : State) : Host.Outcome State Fault Refusal := .next (opSwathIdle p i s)

end Sys2Proof.Machine
end

