-- ==== Sys2Proof/Machine/Promise.lean ====
section
/-! DEFINITION. Paces, the admission test and the release of credits, breaches and the fallback, ceilings, service modes
(R48 to R88, R172 to R176, R445, R486 to R488). Modes: 0 Bounded, 1 Throughput, 2 Frugal. -/

namespace Sys2Proof.Machine
open Sys2Proof

/-! ### Modes, floors and margins -/

def State.curMode (s : State) : Nat := s.rf F.GLB_PRM_MODE.CUR_MODE
def State.fallback (s : State) : Bool := s.rb F.GLB_PRM_MODE.FALLBACK
def State.switching (s : State) : Bool := s.rb F.GLB_PRM_MODE.SWITCHING

/-- Modes whose full test a new credit must pass (R67, R71, Table 2.10 step 2). -/
def State.testModes (s : State) : List Nat :=
  if s.fallback then []
  else
    let l := if s.switching then [s.curMode, s.rf F.GLB_PRM_MODE.REQ_MODE] else [s.curMode]
    (l.filter (fun m => m != 1)).dedup

def State.marginOf (s : State) (mode : Nat) : Nat :=
  if mode = 0 then s.rf F.GLB_PRM_CFG.MARGIN_B else s.rf F.GLB_PRM_CFG.MARGIN_F

/-- Floor of a mode in 5 mV units (Table 2.3). -/
def State.floorOf (s : State) (mode : Nat) : Nat :=
  if mode = 0 then s.rf F.GLB_PRM_FLOOR.FLOOR_B else if mode = 2 then s.rf F.GLB_PRM_FLOOR.FLOOR_F else 144

/-- VDDC target of a mode, mV (Table 2.3). -/
def vddcTarget (mode : Nat) : Nat := if mode = 0 then 800 else if mode = 2 then 620 else 850

/-- R84: the lower of the old and new floors until VDDC first reaches the new target. -/
def State.lowered (s : State) (floor : Nat) : Nat :=
  match s.prm.oldFloor with
  | some o => min floor (min o.floor (s.floorOf s.curMode))
  | none => floor

/-- The smallest margin in force (R78). -/
def State.marginNow (s : State) : Option Nat := leastSome (s.testModes.map s.marginOf)

/-- A margin has come into force since the latest reading. -/
def State.noteMargin (s : State) : State :=
  { s with prm := { s.prm with margins :=
    match s.prm.margins with
    | h :: t => leastSome (h.toList ++ s.marginNow.toList) :: t
    | [] => [s.marginNow] } }

def setVmonOf (o : OldFloor) (w e : Nat) : OldFloor :=
  let ok := fun (v : Nat) => if o.up then decide (o.target ≤ v) else decide (v ≤ o.target)
  { o with reachedW := o.reachedW || ok w, reachedE := o.reachedE || ok e }

/-- R84 ends when VDDC has reached the target; R84 speaks of one VDDC, and here the lower of the floors is used until both dies have
reached it (DESIGN CHOICE, log entry 30). -/
def State.floorsReached (s : State) : State :=
  { s with prm := { s.prm with oldFloor :=
    match s.prm.oldFloor with
    | some o =>
      let x := setVmonOf o (s.prm.vmon.get 0) (s.prm.vmon.get 1)
      if x.reachedW && x.reachedE then none else some x
    | none => none } }

/-! ### Pace readings (R51 to R54, R78, R174) -/

/-- Admission pace: the largest of the preceding 16 readings. -/
def PaceMon.admNow (m : PaceMon) : Nat := m.hist.foldl (fun a x => max a x.toNat) 0

/-- A reading. -/
def PaceMon.read (m : PaceMon) (now : BitVec 10) : PaceMon :=
  let h := (now :: m.hist).take 16
  let x : PaceMon := { m with now := now, hist := h }
  { x with admits := (BitVec.ofNat 10 x.admNow :: m.admits).take 32 }

/-- Domain number of a monitor in breach records (R48). -/
def monDomain (i : Nat) : Nat := if i < 34 then i else i + 30
def monUnit (dom : Nat) : Nat := if dom < 32 then dom else if dom < 34 then unitHub (dom - 32) else 46

/-- Token period of the slowest sub-link of a direction (R53). -/
def slowest (v : Vector (BitVec 10) 16) (lo : Nat) : BitVec 10 :=
  (List.range 8).foldl (fun a i => let x := v.get (Fin.ofNat 16 (lo + i)); if a.toNat < x.toNat then x else a) 0

def paceNow (r : PaceSample) (i : Nat) : BitVec 10 :=
  if i < 34 then r.islands.get (Fin.ofNat 34 i) else slowest r.sublinks (8 * (i - 34))

/-- Threshold of Table 2.7 in 1/256 of 4 ps, from the smallest margin and the smallest ADMIT of the window. -/
def PaceMon.limit (m : PaceMon) (margin : Nat) : Option Nat :=
  (leastSome (m.admits.map BitVec.toNat)).map (fun a => (256 + margin) * a)

/-- A condition that keeps a fallback from ending by itself (R81): a margin breach, VDDC below the floor, ADMIT 0. -/
def State.troubled (s : State) : Bool :=
  !s.prm.marginIn.isEmpty || s.prm.vmon.toList.any (fun v => decide (v < 5 * s.lowered (s.floorOf s.curMode))) ||
    s.prm.mons.toList.any (fun m => m.admNow == 0)

/-- R81: the time without a breach starts again. -/
def State.restartHold (s : State) : State := { s with prm := { s.prm with breachFree := s.fine } }
/-- After a change of a reading: the condition holds, or held until now. -/
def State.checkHold (s : State) (was : Bool) : State := if was || s.troubled then s.restartHold else s

/-- The on-die VDDC of a die, mV. -/
def State.setVmon (s : State) (d : Fin 2) (mv : Nat) : State :=
  (({ s with prm := { s.prm with vmon := vset s.prm.vmon d mv } } : State).floorsReached).checkHold s.troubled

/-- Every monitor reads; margin breaches are judged while a promise is in flight. Readings pause in REST (R434). A
condition of Table 2.7 that lasts over several readings is one breach, detected when the domain enters it (DESIGN CHOICE, log
entry 29). -/
def opPace (r : PaceSample) (s : State) : State :=
  if !s.coreOn || s.pwr.st == .rest then s
  else
    let margin := leastSome (s.prm.margins.filterMap id)
    let judge := fun (i : Nat) =>
      match margin, s.prm.inFlight with
      | some g, _ :: _ =>
        (((s.prm.mons.get (Fin.ofNat 36 i)).limit g).bind (fun x => if x < 256 * (paceNow r i).toNat then some (monDomain i, cdiv x 256) else none))
      | _, _ => none
    let found := (List.range 36).filterMap judge
    let fresh := found.filter (fun x => !s.prm.marginIn.contains x.1)
    ({ s with prm := { s.prm with
        mons := Vector.ofFn (fun (i : Fin 36) => (s.prm.mons.get i).read (paceNow r i))
        margins := (s.marginNow :: s.prm.margins).take 32
        chanLoad := r.chanLoad
        memLoad := r.memLoad
        marginIn := found.map (fun x => x.1)
        judged := s.prm.judged ++ fresh } } : State).checkHold s.troubled

/-- PACE_READING. -/
def execPaceReading (r : PaceSample) (s : State) : Host.Outcome State Fault Refusal := .next (opPace r s)

/-! ### Counts ahead (R68) -/

/-- Every released and unspent credit, with its port. -/
def State.credits (s : State) : List (Option Port × Credit) :=
  (fins 6).flatMap (fun p => (s.port p).credits.map (fun c => (some p, c))) ++ s.prm.resow.map (fun c => (none, c))

/-- The credit covers a channel: an agent's of a non-caching port covers all (R58). -/
def State.covers (s : State) (x : Option Port × Credit) (ch : Fin 8) : Bool :=
  match x.1 with
  | some p => (x.2.kind == .agent && !s.caching p) || x.2.ch.toNat == ch.val
  | none => x.2.ch.toNat == ch.val

def ReqOp.reads : ReqOp → Bool
  | .rdS => true
  | .rdU => true
  | .upg => true
  | .rd => true
  | .rdC => true
  | .atm => true
  | .prefetch => true
  | _ => false

def ReqOp.writes : ReqOp → Bool
  | .store => true
  | .wrB => true
  | .wrH => true
  | .atm => true
  | _ => false

/-- Requests of ports that have not reached their slice: class, operation, slice where it is known. -/
def State.inTransit (s : State) : List (Nat × ReqOp × Option (Fin 32)) :=
  (fins 6).flatMap (fun p =>
    ((s.port p).front.filter (fun f => f.req.cls.toNat < 2)).map (fun f =>
      (f.req.cls.toNat, f.req.op, match f.tr with | .ready sa _ => some (sliceOf (lineOf sa)) | _ => none)) ++
    (((s.port p).drill.issued.filter (fun l => lineHome l == s.node)).map (fun l => (1, ReqOp.prefetch, some (sliceOf l)))))

/-- A request in service whose line has not been asked of a bus or port yet. -/
def Txn.unread (t : Txn) : Bool := t.data.isNone && (t.phase == .ready || t.phase == .fabric || t.phase == .home || t.phase == .snoop)

/-- Requests of local lines that are past their pass and will read the channel (hits) or the memory port (misses), and home flows
that still need the home's copy: class, line, whether a slot is read. -/
def State.pastPass (s : State) : List (Nat × LineAddr × Bool) :=
  (s.coh.txns.filter (fun t => t.unread && lineHome t.req.line == s.node)).map (fun t => (t.req.queueCls.toNat, t.req.line, !t.tracker)) ++
    (s.coh.homeTx.filter (fun h => h.ts == .ha && h.data.isNone && !h.reading)).map (fun h =>
      (h.req.queueCls.toNat, h.line, (s.coh.hitSlot s h.line).isSome))

/-- Of those, the ones at a channel or at a memory port. -/
def State.readsDue (s : State) (cls : Nat) (slot : Bool) (here : LineAddr → Bool) : Nat :=
  (s.pastPass.filter (fun x => decide (x.1 ≤ cls) && x.2.2 == slot && here x.2.1)).length

/-- Fill writes that wait for the channel. -/
def State.fillsDue (s : State) (cls : Nat) (ch : Fin 8) : Nat :=
  (s.coh.txns.filter (fun t => t.writePending && decide (t.req.queueCls.toNat ≤ cls) && s.chanOfLine t.req.line == ch)).length

/-- Repair writes and verify reads are P1 device items (R316). -/
def verifiesDue (cls : Nat) (l : List Verify) : Nat := if 1 ≤ cls then l.length else 0

/-- Items at or on their way to the slices of a channel that satisfy a test. -/
def State.atSlices (s : State) (cls : Nat) (sel : ReqOp → Bool) (here : Fin 32 → Bool) : Nat :=
  (s.inTransit.filter (fun x => decide (x.1 ≤ cls) && sel x.2.1 && (match x.2.2 with | some k => here k | none => true))).length
    + (s.coh.wait.filter (fun r => decide (r.cls.toNat ≤ cls) && sel r.op && here (sliceOf r.line))).length

def State.creditsAhead (s : State) (cls : Nat) (ch : Fin 8) : Nat :=
  (s.credits.filter (fun x => decide (x.2.cls.toNat ≤ cls) && s.covers x ch)).length

def State.aheadSer (s : State) (cls : Nat) (ch : Fin 8) : Nat :=
  s.creditsAhead cls ch + (s.slicesOf ch).foldl (fun a k => max a (s.atSlices cls (fun _ => true) (fun j => j == k))) 0

def State.aheadRd (s : State) (cls : Nat) (ch : Fin 8) : Nat :=
  s.creditsAhead cls ch + s.atSlices cls ReqOp.reads (fun k => s.chan k == ch)
    + s.readsDue cls true (fun l => s.chanOfLine l == ch)
    + ((s.coh.cmiQ.get ch).filter (fun r => decide (r.cls.toNat ≤ cls))).length + verifiesDue cls (s.coh.cmiVerify.get ch)

def State.aheadWr (s : State) (cls : Nat) (ch : Fin 8) : Nat :=
  s.creditsAhead cls ch + s.atSlices cls ReqOp.writes (fun k => s.chan k == ch)
    + (s.coh.press.filter (fun x => x.st == .draining && decide (x.cls.toNat ≤ cls) && s.chanOfLine x.line == ch)).length
    + s.fillsDue cls ch + verifiesDue cls (s.coh.cmiVerify.get ch)

/-- A credit of several channels of the die is one item at its memory port. -/
def State.aheadMem (s : State) (cls : Nat) (d : Fin 2) : Nat :=
  (s.credits.filter (fun x => decide (x.2.cls.toNat ≤ cls) &&
      s.channels.any (fun c => dieOfChan c == d && s.covers x c))).length
    + s.atSlices cls (fun _ => true) (fun k => dieOfSlice k == d)
    + s.readsDue cls false (fun l => dieOfSlice (sliceOf l) == d)
    + ((s.coh.memQ.get d).filter (fun r => decide (r.cls.toNat ≤ cls))).length + 2 * verifiesDue cls (s.coh.memVerify.get d)

/-! ### The admission test (R67, Tables 2.4 and 2.5) -/

/-- CMI clock in MHz. -/
def State.cmiMHz (s : State) (ch : Nat) : Nat :=
  match s.rf (F.CMI_CFG.FREQ ch) with | 0 => 1000 | 1 => 933 | 2 => 800 | _ => 667
/-- t_line in ps. -/
def State.tLine (s : State) (m : Nat) : Nat :=
  match s.rf (F.MEM_CFG.SPEED m) with | 0 => 3330 | 1 => 2860 | _ => 2500

/-- A row of Table 2.5: f in ns, stages, lines on the channel's buses, lines at the memory port, budget in ns. -/
structure AdmitRow where
  f : Nat
  k : Nat
  bus : Nat
  mem : Nat
  budget : Nat
  deriving DecidableEq, Repr

/-- Largest ADMIT on the path, and H where it crosses; none where one of them reads 0 or the crossing is stalled
(R54, R361). -/
def State.pathPace (s : State) (da : Fin 2) (ch : Fin 8) : Option (Nat × Nat) :=
  let dc := dieOfChan ch
  let adm := fun (i : Nat) => (s.prm.mons.get (Fin.ofNat 36 i)).admNow
  let l := [adm (32 + da.val), adm (32 + dc.val)] ++ (s.slicesOf ch).map (fun k => adm k.val)
  let p := l.foldl max 0
  if l.any (fun x => x == 0) then none
  else if da = dc then some (p, 0)
  else if adm 34 = 0 ∨ adm 35 = 0 ∨ s.hdl.stalled ≠ 0 then none
  else some (p, max (adm 34) (adm 35))

/-- credit_ok for one channel and one mode, resources apart, over the rows of Table 2.5 that `sel` takes (0 to 5, in the
table's order). The comparison is exact: both sides are in ps/256 times the CMI clock in MHz. -/
def State.rowsTest (s : State) (sel : Nat → Bool) (da : Fin 2) (cls : Nat) (ch : Fin 8) (mode : Nat) : Bool :=
  let dc := dieOfChan ch
  let floor := 5 * s.lowered (s.floorOf mode)
  match s.pathPace da ch with
  | none => false
  | some (p, h) =>
    if s.prm.vmon.get dc < floor ∨ s.prm.vmon.get da < floor ∨ s.rb (F.MEM_STAT.PPR_BUSY dc) then false
    else
      let m := 256 + s.marginOf mode
      let rd := s.aheadRd cls ch + 1
      let wr := s.aheadWr cls ch + 1
      let mem := s.aheadMem cls dc + 1
      let room := (s.slicesOf ch).all (fun k => decide ((s.coh.pressIn k).length < 32))
      let b := fun (x y : Nat) => (if mode = 2 then y else x) * (if cls = 1 then 4 else 1)
      let rows : List AdmitRow :=
        [⟨20, 56, rd, 0, b 60 90⟩, ⟨114, 88, 0, mem, b 180 250⟩, ⟨12, 40, if room then 0 else wr, 0, b 70 100⟩,
         ⟨24, 96, rd + wr, 0, b 110 160⟩, ⟨134, 120, 0, mem, b 220 300⟩]
          ++ (if cls = 0 then [⟨20, 64, 0, 0, 80⟩] else [])
      let x := if da = dc then 0 else 4
      let ser := (s.aheadSer cls ch + 1) * 4
      let f := s.cmiMHz ch
      rows.zipIdx.all (fun r => !sel r.2 ||
        decide (f * (256000 * r.1.f + (r.1.k * (4 * p) + x * (4 * h) + ser * (4 * p)) * m + 256 * (r.1.mem * s.tLine dc))
            + 256 * (8000000 * r.1.bus)
          ≤ f * (256000 * r.1.budget)))

/-- Every operation that the credit could carry; a prefetch or resowing credit, which carries a local read, is tested on every row
like an agent's (DESIGN CHOICE, log entry 28). -/
def State.fullTest (s : State) (da : Fin 2) (cls : Nat) (ch : Fin 8) (mode : Nat) : Bool :=
  s.rowsTest (fun _ => true) da cls ch mode

/-- Channels that a credit of a port covers. -/
def State.coverage (s : State) (steered : Bool) (ch : Fin 8) : List (Fin 8) := if steered then [ch] else s.channels

/-- Every slice of the channels has a fill tracker not yet reserved (R70). -/
def State.trackersFree (s : State) (cs : List (Fin 8)) : Bool :=
  (fins 32).all (fun k => !cs.contains (s.chan k) ||
    decide (s.coh.trackersUsed k + s.coh.trackersReserved s k < 64))

/-- The port has a tag that no request holds and no credit reserves (R345). -/
def State.tagFree (s : State) (p : Port) : Bool :=
  let x := s.port p
  decide (x.tags.length + x.fences.length + (x.credits.filter (fun c => c.kind == .agent)).length < 4096)

/-- Mode whose bounds a credit released now promises (R487). -/
def State.promiseMode (s : State) : Nat :=
  match s.testModes with
  | [] => 1
  | l => if l.contains 0 then 0 else 2

/-- A credit released now. -/
def State.newCredit (s : State) (k : CreditKind) (cls : BitVec 2) (ch : Fin 8) : Credit :=
  { kind := k, cls := cls, ch := BitVec.ofNat 3 ch.val, mode := BitVec.ofNat 2 s.promiseMode,
    floor := s.testModes.foldl (fun a m => max a (s.lowered (s.floorOf m))) 0,
    promise := decide (cls.toNat < 2) && !s.testModes.isEmpty }

/-! ### Release (R56, R70, R172, R275, R345, R402, R445) -/

/-- Items of a posted-write queue (R277), and the depth at which it is full. -/
def Pwq.depth (q : Pwq) : Nat := q.head.length + q.midIds.length + q.tail.length
def State.pwqFull (s : State) (p : Port) : Nat := 64 + s.pwqShare p

def State.thermalCritical (s : State) : Bool := s.rb F.PWR_THERM_STAT.CRITICAL
def State.throttling (s : State) : Bool := s.rb F.PWR_THERM_STAT.THROTTLING

/-- Admitted P0 load of a channel (R174). -/
def State.p0Load (s : State) (ch : Fin 8) : Nat := max (s.prm.chanLoad.get ch) (s.prm.memLoad.get (dieOfChan ch))

/-- Table 5.1 and the thermal throttle withhold prefetch and resowing credits of a channel. -/
def State.gated (s : State) (ch : Fin 8) : Bool :=
  s.throttling ||
    (match s.curMode with
     | 0 => decide (min 100 (s.rf F.GLB_PRM_CFG.DRILL_GATE) < s.p0Load ch)
     | 2 => decide (70 < s.p0Load ch)
     | _ => false)

/-- No credit of any class leaves before RUN, outside it, or while the thermal condition is critical. -/
def State.releasing (s : State) : Bool := s.boot.running && s.pwr.st == .run && !s.thermalCritical

/-- The test of R67 for a class and channels. -/
def State.creditOk (s : State) (da : Fin 2) (cls : Nat) (cs : List (Fin 8)) : Bool :=
  s.testModes.all (fun m => cs.all (fun c => s.fullTest da cls c m)) && s.trackersFree cs

def prmCtr (p : Port) (i : Nat) : Nat := ctrSel 2 p i

def State.addCredit (s : State) (p : Port) (c : Credit) : State :=
  s.setPort p (fun x => { x with credits := x.credits ++ [c] })

/-- A credit of an agent: the pool's limit, a tag, then the test; it goes out in a CRD slot. -/
def State.releaseAgent (s : State) (p : Port) (cls : BitVec 2) (ch : Fin 8) : State :=
  if !s.releasing || !s.accepts p || !s.portActive p || !s.tagFree p then s
  else
    let steered := s.caching p
    let mine := ((s.port p).credits.filter (fun c => c.kind == .agent && c.cls == cls))
    let grant := fun (s : State) =>
      ((s.addCredit p (s.newCredit .agent cls (if steered || cls = 2 then ch else 0))).count (prmCtr p 0)).sendCtl (.port p)
        (.crd cls (BitVec.ofNat 3 ch.val))
    if cls.toNat = 2 then
      let q := (s.port p).pwq
      let room := steered || decide (mine.length + q.depth < s.pwqFull p)
      if mine.length < s.rf (F.AGP_CRD_CFG.P2_MAX p) && room then grant s else s
    else if cls.toNat = 3 then s
    else
      let max := if cls = 0 then s.rf (F.AGP_CRD_CFG.P0_PER_CH p) else s.rf (F.AGP_CRD_CFG.P1_PER_CH p)
      let pool := if steered then mine.filter (fun c => c.ch.toNat == ch.val) else mine
      if (steered && !s.channels.contains ch) || max ≤ pool.length then s
      else if s.creditOk (dieOfPort p) cls.toNat (s.coverage steered ch) then grant s
      else s.count (prmCtr p 1)

/-- A prefetch credit of a port for a channel (R172). -/
def State.releaseDrill (s : State) (p : Port) (ch : Fin 8) : State :=
  if !s.releasing || s.kind p == .off || !s.rb (F.DRL_CFG.EN p) || !s.channels.contains ch || !s.tagFree p then s
  else
    let pool := (s.port p).credits.filter (fun c => c.kind == .drill && c.ch.toNat == ch.val)
    if s.rf (F.DRL_CFG2.CRD p) ≤ pool.length then s
    else if s.gated ch then s.count (prmCtr p 0x1A)
    else if s.creditOk (dieOfPort p) 1 [ch] then s.addCredit p (s.newCredit .drill 1 ch)
    else s

/-- A resowing credit of a channel (R445): the test of the channel's own die. -/
def State.releaseResow (s : State) (ch : Fin 8) : State :=
  if !s.releasing || !s.rb F.PWR_SEED_STAT.RESOWING || !s.channels.contains ch || s.gated ch then s
  else
    let pool := s.prm.resow.filter (fun c => c.ch.toNat == ch.val)
    if s.rf F.PWR_SEED_CFG.CRD ≤ pool.length then s
    else if s.creditOk (dieOfChan ch) 1 [ch] then
      { s with prm := { s.prm with resow := s.prm.resow ++ [s.newCredit .resow 1 ch] } }
    else s

def opCreditRelease (k : CreditKind) (p : Port) (cls : BitVec 2) (ch : ChanNo) (s : State) : State :=
  match k with
  | .agent => s.releaseAgent p cls ch
  | .drill => s.releaseDrill p ch
  | .resow => s.releaseResow ch

/-- CREDIT_RELEASE. -/
def execCreditRelease (k : CreditKind) (p : Port) (cls : BitVec 2) (ch : ChanNo) (s : State) :
    Host.Outcome State Fault Refusal := .next (opCreditRelease k p cls ch s)

/-! ### Breaches (R78 to R81, R486) -/

/-- Status bit of GLB_PRM_STAT of a kind and domain. -/
def breachBit (kind dom : Nat) : Nat := if kind = 0 then dom - 32 else kind + 1

/-- Step 2 and 3 of Table 2.8: Throughput rules for new credits, and released credits lose their promise. -/
def State.enterFallback (s : State) : State :=
  let s1 := if s.fallback then s else (s.wb F.GLB_PRM_MODE.FALLBACK true).raise 38 (unitHub 0)
  let drop := fun (c : Credit) => { c with promise := false }
  { s1 with
    ports := s1.ports.map (fun x => { x with credits := x.credits.map drop })
    prm := { s1.prm with resow := s1.prm.resow.map drop, breachFree := s1.fine } }

/-- Table 2.8. -/
def State.breach (s : State) (kind ev unit dom reading limit : Nat) : State :=
  let s1 := s.enterFallback
  let s2 := s1.wr Reg.GLB_PRM_STAT (setFld (s1.rg Reg.GLB_PRM_STAT) (breachBit kind dom) 1 1)
  let k := Fin.ofNat 4 kind
  ({ s2 with prm := { s2.prm with breachCtr := vmod s2.prm.breachCtr k (fun c => if c = BitVec.allOnes 48 then c else c + 1) } }
    : State).raiseLog ev unit (formB dom reading limit kind)

/-- The floor that the promises in flight stand under, 5 mV units (R84, R487). -/
def State.floorInFlight (s : State) : Nat := s.prm.inFlight.foldl (fun a q => max a (s.lowered q.floor)) 0

def opBreach (b : Breach) (s : State) : State :=
  match b with
  | .floor d mv =>
    let s1 := s.setVmon d mv
    let limit := 5 * s1.floorInFlight
    if mv < limit then s1.breach 0 (32 + d.val) (unitHub d) (32 + d.val) mv limit else s1
  | .margin dom =>
    match takeFirst (fun (x : Nat × Nat) => x.1 == dom.val) s.prm.judged with
    | some (x, rest) =>
      let i : Fin 36 := Fin.ofNat 36 (if dom.val < 34 then dom.val else dom.val - 30)
      ({ s with prm := { s.prm with judged := rest } } : State).breach 1 34 (monUnit dom) dom (s.prm.mons.get i).now.toNat x.2
    | none => s

/-- BREACH_DETECTED. -/
def execBreachDetected (b : Breach) (s : State) : Host.Outcome State Fault Refusal := .next (opBreach b s)

/-- The deadline of a promise has been reached, modulo 2^16 ns (R78). -/
def Promise.due (q : Promise) (now : Nat) : Bool :=
  match q.deadline with
  | some d => !q.overrun && !(deadlineAt now - d).msb
  | none => false

/-- The port of a posted store's promise. -/
def postedPort (id : Nat) : Option Port := if id % 8 = 6 then some (Fin.ofNat 6 (id / 8 % 6)) else none

/-- An overrun (R78, R80): the promise still completes. -/
def opDeadline (id : PromiseId) (s : State) : State :=
  match s.prm.inFlight.find? (fun q => q.id == id && q.due s.fine) with
  | none => s
  | some q =>
    let s1 : State := { s with prm := { s.prm with inFlight := modFirst (fun (x : Promise) => x.id == id) (fun (x : Promise) => { x with overrun := true }) s.prm.inFlight } }
    let kind := if q.remote then 3 else 2
    let ev := if q.remote then 37 else if q.p1 then 36 else 35
    let limit := (q.deadline.getD 0).toNat
    let port := match id with | .agent p _ => some p | .device _ n => postedPort n
    match port, id with
    | some p, _ => (s1.count (prmCtr p 4)).breach kind ev (unitPort p) (44 + p.val) (s.fine % 65536) limit
    | none, .device d _ => s1.breach kind ev (unitHub d) (32 + d.val) (s.fine % 65536) limit
    | none, .agent _ _ => s1

/-- PROMISE_DEADLINE. -/
def execPromiseDeadline (id : PromiseId) (s : State) : Host.Outcome State Fault Refusal := .next (opDeadline id s)

/-- A fallback ends: the rules of CUR_MODE apply at once. -/
def State.leaveFallback (s : State) : State :=
  (((s.wb F.GLB_PRM_MODE.FALLBACK false).restartHold).noteMargin).raise 39 (unitHub 0)

def opAutoReturn (s : State) : State :=
  if s.fallback && s.rb F.GLB_PRM_MODE.AUTO_RETURN && !s.troubled &&
      decide (s.prm.breachFree + max 1 (s.rf F.GLB_PRM_CFG.HOLD) * 64000 ≤ s.fine) then s.leaveFallback
  else s

/-- FALLBACK_AUTO_RETURN. -/
def execFallbackAutoReturn (s : State) : Host.Outcome State Fault Refusal := .next (opAutoReturn s)

/-! ### Ceilings (R60, R266) -/

/-- A request under a ceiling has had no response for 10 µs: it gets the ceiling-error status, and counts as having
reached its point. -/
def State.ceilingAgent (s : State) (p : Port) (tag : Tag) : State :=
  match (s.port p).tags.find? (fun t => t.tag == tag && !t.ended) with
  | none => s
  | some t =>
    if !t.ceiling || s.fine < t.at_ + 10000 then s
    else
      let mark := modFirst (fun (t : TagUse) => t.tag == tag && !t.ended) (fun (t : TagUse) => { t with ended := true })
      let s1 := s.setPort p (fun x => { x with tags := mark x.tags })
      let s2 := (s1.pointReached p t.point).toAgent p { opc := opCmp, tag := tag, stat := 2, nb := t.nb }
      (s2.count (prmCtr p 3)).raiseFirst F.GLB_PRM_STAT.CEILING 42 (unitPort p) none

/-- A port's prefetch of a line ends with no effect: it waits no more, has joined no fill, and its own fill, where no other request
has joined it, installs nothing. -/
def Coh.dropPrefetch (c : Coh) (p : Port) (l : LineAddr) : Coh :=
  let mine := fun (r : Req) => r.src == .drill p && r.line == l
  let c1 := ({ c with wait := c.wait.filter (fun r => !mine r) } : Coh).setTxn l (fun t => { t with joined := t.joined.filter (fun r => !mine r) })
  match c1.txnOf l with
  | some t =>
    match t.slot with
    | some k =>
      if mine t.req && t.joined.isEmpty && (c1.tag k).st == tF then
        (c1.freeTag k).setTxn l (fun t => { t with slot := none, writePending := false, install := 0 })
      else c1
    | none => c1
  | none => c1

/-- A prefetch under a ceiling ends with no effect after 10 µs: counted, not reported (R171, R175). -/
def State.ceilingPrefetch (s : State) (p : Port) (l : LineAddr) : State :=
  match takeFirst (fun (o : PfOut) => o.line == l && o.ceiling && decide (o.since + 10000 ≤ s.fine)) (s.port p).drill.out with
  | none => s
  | some (_, rest) =>
    let s1 := (s.setPort p (fun x => { x with drill := { x.drill with out := rest, issued := x.drill.issued.erase l } })).count
      (ctrSel 2 p 0x19)
    if (s.port p).drill.issued.contains l then s1 else s1.runCoh (fun c => (c.dropPrefetch p l).woken)

/-! ### Switching modes (R82 to R88, R487, R488) -/

/-- Steps 1 and 2 of Table 2.10, and R85 for a new target: the local promises in flight are awaited. -/
def State.startSwitch (s : State) (mode : Nat) : State :=
  let s1 := (s.wf F.GLB_PRM_MODE.REQ_MODE mode).wb F.GLB_PRM_MODE.SWITCHING true
  ({ s1 with prm := { s1.prm with
      swStart := s.fine
      swAwait := (s.prm.inFlight.filter (fun q => !q.remote)).map Promise.id } } : State).noteMargin

/-- A mode is requested; 0b11 requests none. -/
def State.requestMode (s : State) (mode : Nat) : State :=
  if mode = 3 then s
  else if s.switching then (if mode = s.rf F.GLB_PRM_MODE.REQ_MODE then s else s.startSwitch mode)
  else if mode = s.curMode then s.wf F.GLB_PRM_MODE.REQ_MODE mode
  else s.startSwitch mode

/-- A write of GLB_PRM_MODE. -/
def opPrmMode (v : Word) (s : State) : State :=
  let s1 := s.wb F.GLB_PRM_MODE.AUTO_RETURN (bit v 6)
  let s2 := if bit v 5 && s1.fallback then s1.leaveFallback else s1
  s2.requestMode (fld v 2 2)

/-- PRM_MODE_WRITE. -/
def execPrmModeWrite (v : Word) (s : State) : Host.Outcome State Fault Refusal := .next (s.onReg (opPrmMode v))

/-- Step 4 of Table 2.10, its event apart. -/
def State.takeMode (s : State) : State :=
  let old := s.curMode
  let new := s.rf F.GLB_PRM_MODE.REQ_MODE
  let s1 := (s.wf F.GLB_PRM_MODE.CUR_MODE new).wb F.GLB_PRM_MODE.SWITCHING false
  let o : OldFloor := { floor := s.floorOf old, target := vddcTarget new, up := decide (vddcTarget old < vddcTarget new) }
  (({ s1 with prm := { s1.prm with swAwait := [], oldFloor := if new = old then s1.prm.oldFloor else some o } } : State).floorsReached).noteMargin

/-- R488: the image's mode is taken within the step that applies its records. -/
def State.imageMode (s : State) (mode : Nat) : State :=
  if mode = 3 ∨ mode = s.curMode then s else (s.wf F.GLB_PRM_MODE.REQ_MODE mode).takeMode

def opModeSwitch (s : State) : State :=
  if s.switching && s.prm.swAwait.isEmpty then s.takeMode.raise 40 (unitHub 0) else s

/-- MODE_SWITCH_COMPLETE. -/
def execModeSwitchComplete (s : State) : Host.Outcome State Fault Refusal := .next (opModeSwitch s)

end Sys2Proof.Machine
end

