-- ==== Sys2Proof/Machine/Darner.lean ====
section
/-! DEFINITION. The Darner: visits, report passes, repair, retirement lists and threshold windows (R324 to R334). -/

namespace Sys2Proof.Machine
open Sys2Proof

def State.setDar (s : State) (f : DarnerSt → DarnerSt) : State := { s with dar := f s.dar }

/-- Index of a walker: slices 0 to 31, memory ports 32 and 33. -/
def walkerIdx : Walker → Fin 34
  | .cache s => Fin.ofNat 34 s.val
  | .mem m => Fin.ofNat 34 (32 + m.val)

def State.darnerOn (s : State) (mem : Bool) : Bool :=
  s.boot.running && s.pwr.st == .run && (if mem then s.rb F.DAR_CTL.MEM_EN else s.rb F.DAR_CTL.CACHE_EN)

/-- Time between due visits of a kind of walker, ns (R327). -/
def State.dueTime (s : State) (mem : Bool) : Nat :=
  64 * max 1 (if mem then s.rf F.DAR_MEM_RATE.INTERVAL else s.rf F.DAR_CACHE_RATE.INTERVAL)

/-- A due count rises by 1 every INTERVAL × 64 ns, to at most 16 (R326); a new rate applies from the next rise (R328). -/
def opDueTick (w : Walker) (s : State) : State :=
  let i := walkerIdx w
  let mem := decide (32 ≤ i.val)
  if !s.darnerOn mem || decide (s.fine < s.dar.dueAt.get i) then s
  else
    let s1 := s.setDar (fun d => { d with dueAt := vset d.dueAt i (s.fine + s.dueTime mem), due := vmod d.due i (fun n => min 16 (n + 1)) })
    if s.dar.due.get i < 16 then s1 else ((s1.count (ctrSel 7 0 2)).wb F.DAR_STAT.LAG true).raise 151 (unitHub 0)

/-- DARNER_DUE_TICK. -/
def execDarnerDueTick (w : Walker) (s : State) : Host.Outcome State Fault Refusal := .next (opDueTick w s)

/-- The P1 test of a visit: its row of Table 2.5 on the channel of its slice (R326). -/
def State.visitOk (s : State) (row : Nat) (ch : Fin 8) : Bool :=
  s.testModes.all (fun m => s.rowsTest (fun i => i == row) (dieOfChan ch) 1 ch m)

/-- A walker has visited its last line: PASS and its event when every walker of the kind has, since the flag was 0. -/
def State.passEnd (s : State) (i : Fin 34) : State :=
  let mem := decide (32 ≤ i.val)
  let flag := if mem then F.DAR_STAT.MEM_PASS else F.DAR_STAT.CACHE_PASS
  if s.rb flag then s
  else
    let all : BitVec 34 := if mem then 0x300000000 else 0x0FFFFFFFF
    let p := s.dar.passed ||| BitVec.ofNat 34 (2 ^ i.val)
    if p &&& all = all then
      ((s.setDar (fun d => { d with passed := p &&& ~~~ all })).wb flag true).raise (if mem then 150 else 149) (unitHub 0)
    else s.setDar (fun d => { d with passed := p })

/-- A visit's row check and, at way 0, the snoop filter and directory sets (R324). -/
def Coh.visitRow (c : Coh) (e : State) (s set way : Nat) : Coh :=
  let c1 := c.checkRow s set
  if way ≠ 0 then c1
  else
    let c2 := if set < 512 ∧ !c1.lockedSnf.contains (s * 512 + set) ∧
        (List.range 16).any (fun w => !snfGood (c1.snfAt (snfKey s set w))) then c1.purgeStart e s set else c1
    if set < 2048 ∧ !c2.lockedDir.contains (s * 2048 + set) ∧
        (List.range 16).any (fun w => !dirGood (c2.dirAt (dirKey s set w))) then c2.recallSetStart e s set else c2

/-- The visit of a slot. -/
def Coh.visitSlot (c : Coh) (e : State) (k : Nat) : Coh :=
  let c1 := c.visitRow e (slotSlice k) (slotSet k) (slotWay k)
  let c2 := c1.sctr (slotSlice k) 0x40
  if isValid (c2.tag k).st || e.isSpill k then c2.queueSlot e k (c2.slotLineAddr e k) .scrub 1 else c2

def opCacheVisit (sl : SliceNo) (s : State) : State :=
  let i := walkerIdx (.cache sl)
  if !s.darnerOn false || s.dar.due.get i == 0 || !s.visitOk 0 (s.chan sl) then s
  else
    let n := s.dar.pos.get sl
    let k := slotKey sl (n / 16) (n % 16)
    let last := decide (s.sets * 16 ≤ n + 1)
    let s1 := s.setDar (fun d => { d with due := vmod d.due i (· - 1), pos := vset d.pos sl (if last then 0 else n + 1) })
    let s2 := s1.runCoh (fun c => (c.visitSlot s1 k).woken)
    if last then s2.passEnd i else s2

/-- DARNER_CACHE_VISIT. -/
def execDarnerCacheVisit (sl : SliceNo) (s : State) : Host.Outcome State Fault Refusal := .next (opCacheVisit sl s)

/-- A memory visit: the pass at the line's home slice sends a scrub read (R325). -/
def opMemVisit (m : MemNo) (s : State) : State :=
  let i := walkerIdx (.mem m)
  let n := s.dar.memPos.get m
  let l := lineOfMem s.node m n
  if !s.darnerOn true || s.dar.due.get i == 0 || !s.visitOk 1 (s.chanOfLine l) then s
  else
    let last := decide (s.portCap / 128 ≤ n + 1)
    let s1 := s.setDar (fun d => { d with due := vmod d.due i (· - 1), memPos := vset d.memPos m (if last then 0 else n + 1) })
    let s2 := (s1.count (ctrSel 7 0 0)).runCoh (fun c =>
      ((c.readRow s l).queueMem l .scrub 1).woken)
    if last then s2.passEnd i else s2

/-- DARNER_MEM_VISIT. -/
def execDarnerMemVisit (m : MemNo) (s : State) : Host.Outcome State Fault Refusal := .next (opMemVisit m s)

/-! ### Report passes -/

/-- Table 10.6 for a slot whose scrub found an uncorrectable codeword; the pass waits while the line is locked. -/
def Coh.slotReport (c : Coh) (e : State) (s : Nat) : Coh :=
  match takeFirst (fun (x : Nat × LineAddr) => slotSlice x.1 == s && !c.lockedLine x.2) c.slotReports with
  | none => c
  | some ((k, l), rest) =>
    let c1 := ({ c with slotReports := rest } : Coh).readRow e l
    let t := c1.tag k
    if e.isSpill k || !isValid t.st || c1.slotLineAddr e k != l then c1
    else if isMod t.st then c1.setTag k (fun t => { t with poison := true })
    else
      let mask := (linePoison (c1.rawSlot e k)).toNat
      ((c1.evictSlot e k).sctr s 0x41).emit
        (.log 142 s true (formASlot (some (saOf l)) reqDevice mask e.node s (slotSet k) (slotWay k)))

def opScrubReport (sl : SliceNo) (s : State) : State := s.runCoh (fun c => (c.slotReport s sl).woken)

/-- SCRUB_UE_REPORT. -/
def execScrubUeReport (sl : SliceNo) (s : State) : Host.Outcome State Fault Refusal := .next (opScrubReport sl s)

/-- R325 for a memory line with new marks: repaired from a clean copy of the home's cache, or left marked, with EV139 where the
port's UE was 0 (Table 10.8). -/
def Coh.memReport (c : Coh) (e : State) (m : Fin 2) : Coh :=
  match takeFirst (fun (x : Nat × LineAddr × Bool) => memOf x.2.1 == m && !c.lockedLine x.2.1) c.memReports with
  | none => c
  | some ((key, l, first), rest) =>
    let c1 := ({ c with memReports := rest } : Coh).readRow e l
    let left := if first then c1.emit (.raise 139 (unitMem m)) else c1
    match c1.hitSlot e l with
    | none => left
    | some k =>
      let t := c1.tag k
      if !e.rb F.DAR_CTL.REPAIR_EN || isMod t.st || t.poison then left
      else
        let mask := (linePoison (c1.rawMem m key)).toNat
        let r := c1.readSlot e k
        let c2 := (r.2.writeMem l r.1).ctr (ctrSel 4 m 3)
        let v : Verify := { key := key, line := l, cl := r.1, scrub := true }
        let c3 := { c2 with memVerify := vmod c2.memVerify m (· ++ [v]) }
        (c3.ctr (ctrSel 7 0 1)).emit (.log 141 (unitMem m) true (formA (saOf l) reqDevice mask e.node []))

def opMemReport (m : MemNo) (s : State) : State := s.runCoh (fun c => (c.memReport s m).woken)

/-- MEM_UE_REPORT. -/
def execMemUeReport (m : MemNo) (s : State) : Host.Outcome State Fault Refusal := .next (opMemReport m s)

/-! ### Control (R328, R331, R332) -/

def opRestartCache (s : State) : State := s.setDar (fun d => { d with pos := Vector.replicate 32 0 })
def opRestartMem (s : State) : State := s.setDar (fun d => { d with memPos := Vector.replicate 2 0 })

/-- DARNER_RESTART_CACHE. -/
def execDarnerRestartCache (s : State) : Host.Outcome State Fault Refusal := .next (s.onReg opRestartCache)
/-- DARNER_RESTART_MEM. -/
def execDarnerRestartMem (s : State) : Host.Outcome State Fault Refusal := .next (s.onReg opRestartMem)

/-- A kind of walker is enabled or disabled: its due counts are 0, and its time runs from now. -/
def State.resetDue (s : State) (mem : Bool) : State :=
  s.setDar (fun d => { d with
    due := Vector.ofFn (fun (i : Fin 34) => if decide (32 ≤ i.val) = mem then 0 else d.due.get i)
    dueAt := Vector.ofFn (fun (i : Fin 34) => if decide (32 ≤ i.val) = mem then s.fine + s.dueTime mem else d.dueAt.get i) })

def opDarCtl (v : Word) (s : State) : State :=
  let s1 := s.wrRw Reg.DAR_CTL v
  let s2 := if bit v 0 == s.rb F.DAR_CTL.CACHE_EN then s1 else s1.resetDue false
  let s3 := if bit v 1 == s.rb F.DAR_CTL.MEM_EN then s2 else s2.resetDue true
  let s4 := if bit v 8 then opRestartCache s3 else s3
  if bit v 9 then opRestartMem s4 else s4

/-- DAR_CTL_WRITE. -/
def execDarCtlWrite (v : Word) (s : State) : Host.Outcome State Fault Refusal := .next (s.onReg (opDarCtl v))

def opListClear (m0 m1 : Bool) (s : State) : State :=
  s.setDar (fun d => { d with retired := Vector.ofFn (fun (i : Fin 2) =>
    if (i = 0 ∧ m0) ∨ (i = 1 ∧ m1) then [] else d.retired.get i) })

/-- RETIREMENT_LIST_CLEAR. -/
def execRetirementListClear (m0 m1 : Bool) (s : State) : Host.Outcome State Fault Refusal := .next (s.onReg (opListClear m0 m1))

/-- Every T slot becomes I with AGE 3, with the key 0x5A. -/
def opUnretire (key : Byte) (s : State) : State :=
  if key = 0x5A then
    s.runCoh (fun c => ((c.tags.filter (fun x => x.2.st == tT)).foldl (fun c x => c.freeTag x.1) c).woken)
  else s

/-- UNRETIRE. -/
def execUnretire (key : Byte) (s : State) : Host.Outcome State Fault Refusal := .next (s.onReg (opUnretire key))

/-- DAR_RET_CTL as a register: RET_LIMIT, and what its write-only bits ask. -/
def opDarRetCtl (v : Word) (s : State) : State :=
  let s1 := opListClear (bit v 0) (bit v 1) (s.wrRw Reg.DAR_RET_CTL v)
  if bit v 2 then opUnretire (BitVec.ofNat 8 (fld v 8 8)) s1 else s1

/-! ### Threshold windows (R334) -/

def State.window (s : State) : Nat := 2 ^ s.rf F.DAR_THR.WIN * 1000000

def State.newWindow (s : State) (u : Fin 10) : State :=
  ((s.wf (ifCeWin u) 0).setDar (fun d => { d with winAt := vset d.winAt u s.fine, winThr := d.winThr &&& ~~~ BitVec.ofNat 10 (2 ^ u.val) }))

/-- The ECS counts of a port's devices at the end of its window: increases are counted, a count at ECS_THR is reported. -/
def State.readEcs (s : State) (m : Fin 2) (ecs : List Nat) : State :=
  let old := s.dar.ecs.get m
  let rise := (List.range ecs.length).foldl (fun a i => a + (ecs.getD i 0 - old.getD i 0)) 0
  let s1 := (s.count (ctrSel 4 m 5) rise).setDar (fun d => { d with ecs := vset d.ecs m ecs })
  if ecs.any (fun x => decide (s.rf F.DAR_THR.ECS_THR ≤ x)) then (s1.wb (F.MEM_ERR.ECS m) true).raise 152 (unitMem m) else s1

def opWindowEnd (u : MemIf) (ecs : List Nat) (s : State) : State :=
  let i : Fin 10 := Fin.ofNat 10 (ifNo u)
  if s.fine < s.dar.winAt.get i + s.window then s
  else
    let s1 := match u with | .mem m => s.readEcs m ecs | .chan _ => s
    s1.newWindow i

/-- THRESHOLD_WINDOW_END. -/
def execThresholdWindowEnd (u : MemIf) (ecs : List Nat) (s : State) : Host.Outcome State Fault Refusal :=
  .next (opWindowEnd u ecs s)

/-- A write of DAR_THR writes WIN, and so starts new windows. -/
def opDarThr (v : Word) (s : State) : State := (fins 10).foldl (fun s i => s.newWindow i) (s.wrRw Reg.DAR_THR v)

/-- DAR_THR_WIN_WRITE. -/
def execDarThrWinWrite (v : Word) (s : State) : Host.Outcome State Fault Refusal := .next (s.onReg (opDarThr v))

end Sys2Proof.Machine
end

