-- ==== Sys2Proof/Machine/Order.lean ====
section
/-! DEFINITION. Fences, posted-write queues and the spill queues (R153 to R156, R257 to R283). -/

namespace Sys2Proof.Machine
open Sys2Proof

def State.pwq (s : State) (p : Port) : Pwq := (s.port p).pwq
def State.setPwq (s : State) (p : Port) (f : Pwq → Pwq) : State := s.setPort p (fun x => { x with pwq := f x.pwq })
def ordCtr (p : Port) (i : Nat) : Nat := ctrSel 2 p (0x30 + i)

/-- The port has a posted-write queue (R271). -/
def State.hasPwq (s : State) (p : Port) : Bool := s.kind p == .nonCaching

/-! ### Push, issue, flush -/

/-- A push (R271, R277). -/
def State.pushPwq (s : State) (p : Port) (x : PwqEntry) : State :=
  let s1 := (s.setPwq p (fun q => ({ q with tail := q.tail ++ [x] } : Pwq).settle)).count (ordCtr p 4)
  { s1 with mon := s1.mon.greatest (ordCtr p 8) (s1.pwq p).depth }

/-- An entry of the head may issue: its stream is free, no entry before it is of its stream or line, and a DEV write has
no DEV request of the port before it (R258, R268, R276). -/
def State.mayIssue (s : State) (p : Port) (x : PwqEntry) : Bool :=
  let q := s.pwq p
  !q.busy.any (fun b => b.1 == x.strm) &&
    !(q.head.takeWhile (fun y => y.id != x.id)).any (fun y => y.strm == x.strm || lineOf y.addr == lineOf x.addr) &&
    !(s.policyOf x.addr == pDEV && (s.port p).points.any (fun o => o.dev && decide (o.id < x.id)))

/-- The slice's notice: the stream's issued write is visible. -/
def opOrderedVisible (p : Port) (strm : BitVec 4) (s : State) : State :=
  s.setPwq p (fun q => { q with busy := q.busy.filter (fun b =>
    b.1 != strm || (s.port p).points.any (fun o => o.id == b.2)) })

/-- ORDERED_WRITE_VISIBLE. -/
def execOrderedWriteVisible (p : Port) (strm : BitVec 4) (s : State) : Host.Outcome State Fault Refusal :=
  .next (opOrderedVisible p strm s)

/-- The flush point (R281, R282): every entry pushed before it that is not visible. -/
def opPwqFlush (p : Port) (s : State) : State :=
  if s.hasPwq p then
    let issued := ((s.pwq p).busy.map (fun b => b.2)).filter (fun i => (s.port p).points.any (fun o => o.id == i))
    s.setPwq p (fun q => { q with flush := some (issued ++ q.head.map PwqEntry.id ++ q.midIds ++ q.tail.map PwqEntry.id) })
  else s

/-- A write of AGP_PWQ_CTL.FLUSH; it starts nothing in FALLOW entry (Table 14.5). -/
def opFlushWrite (p : Port) (s : State) : State := if s.pwr.st = .fallowEntry then s else opPwqFlush p s

/-- AGP_PWQ_FLUSH. -/
def execAgpPwqFlush (p : Port) (s : State) : Host.Outcome State Fault Refusal := .next (s.onReg (opFlushWrite p))

def opPwqFlushDone (p : Port) (s : State) : State :=
  match (s.pwq p).flush with
  | some [] => ((s.setPwq p (fun q => { q with flush := none })).wb (F.AGP_PWQ_STAT.DONE p) true).raise 105 (unitPort p)
  | _ => s

/-- PWQ_FLUSH_DONE. -/
def execPwqFlushDone (p : Port) (s : State) : Host.Outcome State Fault Refusal := .next (opPwqFlushDone p s)

/-! ### The spilled middle of a posted-write queue (R153, R155, R277) -/

/-- The middle passes three quarters of the share (EV106). -/
def State.pwqHigh (s : State) (p : Port) (was : Nat) : State :=
  let lim := s.pwqShare p * 3 / 4
  if was ≤ lim ∧ lim < (s.pwq p).midIds.length then s.raise 106 (unitPort p) else s

/-- The oldest 8 tail entries go to the middle. -/
def State.spillPwq (s : State) (p : Port) : State :=
  let q := s.pwq p
  let cap := s.pwqShare p
  if q.tail.length < 24 || decide (cap < q.midIds.length + 8) || (q.midIds.isEmpty && decide (q.head.length < 32)) then s
  else
    let put := fun (c : Coh) (x : PwqEntry × Nat) =>
      let g := s.shareBase p + 2 * ((q.midAt + q.midIds.length + x.2) % cap)
      (c.writeSlot s (spillSlot g) x.1.cl).writeSlot s (spillSlot (g + 1)) (pwqHeader x.1)
    let batch := q.tail.take 8
    let sent := fun (s : State) (x : PwqEntry × Nat) =>
      let g := s.shareBase p + 2 * ((q.midAt + q.midIds.length + x.2) % cap)
      (s.crossItem (.port p) (spillUnit g) 0 1 (some x.1.cl)).crossItem (.port p) (spillUnit (g + 1)) 0 1 (some (pwqHeader x.1))
    let s1 := (batch.zipIdx.foldl sent s).runCoh (fun c => batch.zipIdx.foldl put c)
    let s2 := s1.setPwq p (fun q => { q with tail := q.tail.drop 8, midIds := q.midIds ++ batch.map PwqEntry.id })
    (s2.count (ordCtr p 5) 8).pwqHigh p q.midIds.length

/-- The two slots of a middle entry join the reads of their channels as P1 items (R156). -/
def Coh.readSpill (c : Coh) (e : State) (p : Port) (at_ : Nat) (id : Nat) : Coh :=
  let k := fun (g : Nat) => spillSlot (e.shareBase p + 2 * at_ + g)
  (c.queueSlot e (k 0) (c.slotLineAddr e (k 0)) (.spill p id false) 1).queueSlot e (k 1) (c.slotLineAddr e (k 1)) (.spill p id true) 1

/-- The oldest 8 middle entries, or all of fewer, are read into the head, which has room for them. -/
def State.refillPwq (s : State) (p : Port) : State :=
  let q := s.pwq p
  let batch := (q.midIds.drop q.back.length).take 8
  if batch.isEmpty || decide (24 < q.head.length + q.back.length) then s
  else
    let cap := s.pwqShare p
    let s1 := (s.setPwq p (fun r => { r with back := r.back ++ batch.map (fun _ => (none, none)) })).count (ordCtr p 6) batch.length
    let at_ := fun (x : Nat × Nat) => (q.midAt + q.back.length + x.2) % cap
    let sent := fun (s : State) (x : Nat × Nat) =>
      let g := s.shareBase p + 2 * at_ x
      (s.crossItem (.port p) (spillUnit g) 0 1 none).crossItem (.port p) (spillUnit (g + 1)) 0 1 none
    (batch.zipIdx.foldl sent s1).runCoh (fun c => batch.zipIdx.foldl (fun c x => c.readSpill s p (at_ x) x.1) c)

/-! ### Fences (R264 to R267) -/

def FenceKind.code : FenceKind → Nat
  | .w => 0
  | .l => 1
  | .g => 2

/-- Takes a credit of the class (and channel, where it is steered) from the port's pool: the one released first (DESIGN CHOICE, log
entry 25). -/
def State.takeCredit (s : State) (p : Port) (cls : BitVec 2) (ch : BitVec 3) : Option Credit × State :=
  let fits := fun (c : Credit) => c.kind == .agent && c.cls == cls && (!s.caching p || cls == 2 || c.ch == ch)
  match takeFirst fits (s.port p).credits with
  | some (c, rest) => (some c, s.setPort p (fun x => { x with credits := rest }))
  | none => (none, s)

/-- The tag is held by an outstanding request of the port. -/
def State.tagHeld (s : State) (p : Port) (tag : Tag) : Bool :=
  (s.port p).tags.any (fun t => t.tag == tag && !t.ended) || (s.port p).fences.any (fun f => f.tag == tag)

/-- The answer of a fence: it holds its tag until it has left (R345). -/
def State.answerFence (s : State) (p : Port) (m : AgentMsg) : State :=
  if s.accepts p then
    let t : TagUse := { tag := m.tag, at_ := s.fine, ceiling := true, ended := false, answered := true, point := 0 }
    (s.setPort p (fun x => { x with tags := x.tags ++ [t] })).toAgent p m
  else s

/-- Requests are taken in RUN, while REST is entered, and in the first two steps of FALLOW entry (R439). -/
def State.open (s : State) : Bool :=
  match s.pwr.st with
  | .run => s.boot.running
  | .restEntry => s.boot.running
  | .fallowEntry => s.boot.running && decide (s.pwr.step ≤ 2)
  | _ => false

/-- The port takes requests now. -/
def State.takes (s : State) (p : Port) : Bool := s.open && s.accepts p && s.portActive p

/-- Drains of the port's DEV Press entries. -/
def Coh.drainDev (c : Coh) (p : Port) : Coh :=
  { c with wake := true, press := c.press.map (fun (x : PressEntry) =>
      if x.policy = pDEV && (x.port == .agent p || (match x.port with | .pwq q _ => q == p | _ => false)) then { x with wanted := true } else x) }

/-- A fence arrives: what it waits for, and what it starts (Table 8.2). -/
def opFence (k : FenceKind) (p : Port) (cls : BitVec 2) (tag : Tag) (s : State) : State :=
  if !s.takes p then s
  else if s.tagHeld p tag then s.portError p 0x18 0
  else
    let s1 := (s.takeCredit p (if cls = 3 then 2 else cls) 0).2
    let x := s1.port p
    let waits := (x.points.filter (fun o => match k with
      | .w => o.isWrite
      | .l => !(o.passed && o.fabric)
      | .g => true)).map OpenPoint.id
    let f : FenceSt := { id := x.nextPoint, kind := k, tag := tag, nb := false, waits := waits }
    let s2 := (s1.setPort p (fun x => { x with fences := x.fences ++ [f], nextPoint := x.nextPoint + 1 })).count (ordCtr p k.code)
    let s3 := s2.runCoh (fun c => c.drainDev p)
    if k = .l then s3 else opPwqFlush p s3

/-- FENCEW. -/
def execFencew (p : Port) (cls : BitVec 2) (tag : Tag) (s : State) : Host.Outcome State Fault Refusal := .next (opFence .w p cls tag s)
/-- FENCEL. -/
def execFencel (p : Port) (cls : BitVec 2) (tag : Tag) (s : State) : Host.Outcome State Fault Refusal := .next (opFence .l p cls tag s)
/-- FENCEG. -/
def execFenceg (p : Port) (cls : BitVec 2) (tag : Tag) (s : State) : Host.Outcome State Fault Refusal := .next (opFence .g p cls tag s)

/-- A later request is held by a fence (Table 8.2). -/
def FenceSt.holds (f : FenceSt) (id : Nat) (isWrite : Bool) : Bool := decide (f.id < id) && (f.kind != .w || isWrite)

/-- The last point of the oldest fence of the port is reached: Cmp, and the bounds of what it held run from here (R265). -/
def opFenceDone (p : Port) (tag : Tag) (s : State) : State :=
  match (s.port p).fences with
  | f :: rest =>
    if f.tag = tag ∧ f.waits = [] then
      (s.setPort p (fun x => { x with
        fences := rest
        front := x.front.map (fun r => if f.holds r.id (r.req.op.writes) then { r with at_ := s.fine } else r) })).answerFence p
        { opc := opCmp, tag := tag }
    else s
  | [] => s

end Sys2Proof.Machine
end

