-- ==== Sys2Proof/Machine/Events.lean ====
section
/-! DEFINITION. The management event queue, routes, in-band messages, the trouble log's cursor and mark, the mailbox
(R380 to R400). -/

namespace Sys2Proof.Machine
open Sys2Proof

def State.setMon (s : State) (f : Monitor → Monitor) : State := { s with mon := f s.mon }
def State.setEv (s : State) (f : Events → Events) : State := s.setMon (fun m => { m with ev := f m.ev })
def State.setLog (s : State) (f : TroubleLog → TroubleLog) : State := s.setMon (fun m => { m with log := f m.log })

/-! ### The management event queue (R277, R391, R392) -/

/-- Bytes of an entry (Table 12.9). -/
def EvEntry.bits (x : EvEntry) : BitVec 128 :=
  BitVec.ofNat 128 (x.time.toNat + 2 ^ 64 * x.event.toNat + 2 ^ 80 * x.unit.toNat + 2 ^ 88 * x.flags.toNat + 2 ^ 96 * x.logSeq.toNat)

def evOfBits (b : BitVec 128) : EvEntry :=
  { time := b.extractLsb' 0 64, event := b.extractLsb' 64 9, unit := b.extractLsb' 80 8, flags := b.extractLsb' 88 8,
    logSeq := b.extractLsb' 96 32 }

/-- Line of the middle's region that holds entry n of its ring. -/
def State.evLine (s : State) (n : Nat) : LineAddr :=
  BitVec.ofNat 45 (s.node * 2 ^ 36 + s.rf F.EVT_Q_BASE.BASE * 2 ^ 13 + n % 65536 / 8)

/-- A batch of 8 entries as a line. -/
def evBatch (l : List EvEntry) : CodeLine :=
  encodeLine (BitVec.ofNat 1024 (l.foldr (fun x a => x.bits.toNat + a * 2 ^ 128) 0)) 0

/-- The oldest 8 tail entries go to the middle; EV009 where it passes 49,152 entries. -/
def State.spillEvents (s : State) : State :=
  let e := s.mon.ev
  if e.tail.length < 12 || decide (65536 < e.midCount + 8) || (e.midCount == 0 && decide (e.head.length < evHeadCap)) then s
  else
    let s1 := s.runCoh (fun c => c.writeMem (s.evLine (e.midAt + e.midCount)) (evBatch (e.tail.take 8)))
    let s2 := s1.setEv (fun e => { e with tail := e.tail.drop 8, midCount := e.midCount + 8 })
    if e.midCount ≤ 49152 ∧ 49152 < e.midCount + 8 then s2.raise 9 unitRegs else s2

/-- Entry i of a line read back: a marked one is discarded (Table 10.5). -/
def State.refillEvent (cl : CodeLine) (l : LineAddr) (s : State) (i : Nat) : State :=
  let k := (linePoison cl).toNat / 2 ^ (2 * i) % 4
  if k ≠ 0 then s.consumed 5 unitRegs reqDevice (saOf l) (k * 2 ^ (2 * i))
  else s.setEv (fun e => { e with head := e.head ++ [evOfBits ((lineBytes cl).extractLsb' (128 * i) 128)] })

/-- The oldest 8 middle entries, or all of fewer, go to the head. -/
def State.refillEvents (s : State) : State :=
  let e := s.mon.ev
  if e.midCount = 0 ∨ 8 < e.head.length then s
  else
    let l := s.evLine e.midAt
    let n := min 8 e.midCount
    let r := s.coh.readMem s l
    let s1 := ({ s with coh := r.2 } : State).runCoh (fun c => c)
    let s2 := s1.setEv (fun e => { e with midAt := (e.midAt + n) % 65536, midCount := e.midCount - n })
    ((List.range n).foldl (State.refillEvent r.1 l) s2).setEv Events.settle

/-- SPILL_BATCH_WRITE. -/
def opSpillWrite (q : SpillQ) (s : State) : State :=
  match q with
  | .pwq p => s.spillPwq p
  | .event => s.spillEvents
def execSpillBatchWrite (q : SpillQ) (s : State) : Host.Outcome State Fault Refusal := .next (opSpillWrite q s)

/-- SPILL_BATCH_READ. -/
def opSpillRead (q : SpillQ) (s : State) : State :=
  match q with
  | .pwq p => s.refillPwq p
  | .event => s.refillEvents
def execSpillBatchRead (q : SpillQ) (s : State) : Host.Outcome State Fault Refusal := .next (opSpillRead q s)

/-- A flush of the queue discards every entry (R392). -/
def opEvtFlush (s : State) : State :=
  s.setEv (fun e => { e with head := [], tail := [], midCount := 0, done := true })

/-- EVT_Q_FLUSH. -/
def execEvtQFlush (s : State) : Host.Outcome State Fault Refusal := .next (s.onReg opEvtFlush)

/-- Pops the oldest entry; where the head has run empty, the next batch is read first. -/
def State.popEvent (s : State) : Option EvEntry × State :=
  let s1 := if s.mon.ev.head.isEmpty then s.refillEvents else s
  match s1.mon.ev.head with
  | [] => (none, s1)
  | x :: rest => (some x, s1.setEv (fun e => Events.settle { e with head := rest }))

/-! ### Routes, software events, in-band messages (R388, R390, R393) -/

/-- EVT_RTE: the route of the source that INDEX names. -/
def opEvtRte (v : Word) (s : State) : State :=
  let n := s.rf F.EVT_RTE_IDX.INDEX
  if 288 ≤ n then s
  else s.setEv (fun e => { e with routes := Sparse.set routeDefault e.routes n (v.extractLsb' 0 5) })

/-- EVT_RTE_WRITE. -/
def execEvtRteWrite (v : Word) (s : State) : Host.Outcome State Fault Refusal := .next (s.onReg (opEvtRte v))

def opEvtSw (v : Word) (s : State) : State :=
  ((List.range 32).filter (fun b => bit v b)).foldl (fun (s : State) (b : Nat) => s.raise (256 + b) unitRegs) s

/-- EVT_SW_WRITE. -/
def execEvtSwWrite (v : Word) (s : State) : Host.Outcome State Fault Refusal := .next (s.onCore (opEvtSw v))

/-- The oldest waiting in-band message goes out when its port has an event buffer; it is discarded when the port can take
none any more. -/
def opInband (s : State) : State :=
  match s.mon.ev.inb with
  | [] => s
  | m :: rest =>
    let s1 := s.setEv (fun e => { e with inb := rest })
    if !s.inbOk then applyFx (s1.count (ctrSel 7 0 0x21)) (.firstCtr (ctrSel 7 0 0x21) 10 unitRegs)
    else
      let p : Port := Fin.ofNat 6 (s.rf F.EVT_INB.PORT)
      if (s.port p).evtCred = 0 then s
      else
        let x : AgentMsg := { opc := opEvMsg, addr := BitVec.ofNat 52 m.1, time := m.2 }
        ((s1.crossAgent (.regs 0) (.port p) 4 2 x).setPort p (fun x => { x with evtCred := x.evtCred - 1 })).toAgent p x

/-- INBAND_EVENT_SEND. -/
def execInbandEventSend (s : State) : Host.Outcome State Fault Refusal := .next (opInband s)

/-! ### The trouble log (R396 to R399) -/

/-- A write of LOG_RSEQ. -/
def opLogRseq (v : Word) (s : State) : State :=
  s.setLog (fun l =>
    { l with rseq := if (v - l.oldest).toNat ≤ l.entries.length then v else l.oldest })

/-- LOG_RSEQ_WRITE. -/
def execLogRseqWrite (v : Word) (s : State) : Host.Outcome State Fault Refusal := .next (s.onCore (opLogRseq v))

def opLogMark (s : State) : State := s.setLog (fun l => { l with mark := l.rseq, markValid := true })

/-- LOG_MARK. -/
def execLogMark (s : State) : Host.Outcome State Fault Refusal := .next (s.onCore opLogMark)

def opLogRewind (s : State) : State :=
  if s.mon.log.markValid then s.setLog (fun l => { l with rseq := l.mark })
  else (s.setLog (fun l => { l with rseq := l.oldest, rewindErr := true })).raise 6 unitRegs

/-- LOG_REWIND. -/
def execLogRewind (s : State) : Host.Outcome State Fault Refusal := .next (s.onCore opLogRewind)

/-- A log entry as the eight words of Table 12.10. -/
def LogEntry.words (x : LogEntry) : List Word :=
  let n := x.time.toNat + 2 ^ 64 * x.seq.toNat + 2 ^ 96 * x.event.toNat + 2 ^ 112 * x.unit.toNat + 2 ^ 120 * x.flags.toNat
    + 2 ^ 128 * x.detail.toNat
  (List.range 8).map (fun i => BitVec.ofNat 32 (n >>> (32 * i)))

/-- The entry at the read cursor; the cursor advances. -/
def State.readLog (s : State) : Option LogEntry × State :=
  let l := s.mon.log
  if l.rseq = l.wseq then (none, s)
  else (l.entries[(l.rseq - l.oldest).toNat]?, s.setLog (fun l => { l with rseq := l.rseq + 1 }))

/-! ### The mailbox (R380 to R386) -/

def State.mail (s : State) (m : Fin 4) : Mailbox := s.mbx.get m
def State.setMail (s : State) (m : Fin 4) (f : Mailbox → Mailbox) : State := { s with mbx := vmod s.mbx m f }

def selKind (x : Word) : Nat := fld x 0 8
def selInst (x : Word) : Nat := fld x 8 6
def selIndex (x : Word) : Nat := fld x 14 18

/-- Instances of a kind; none where the kind is not defined (Table 12.5). -/
def State.kindInsts (s : State) (kind : Nat) : Option Nat :=
  match kind with
  | 0x01 => some 32
  | 0x02 => some 6
  | 0x03 => some 8
  | 0x04 => some 2
  | 0x05 => some s.linkCount
  | 0x06 => some 2
  | 0x07 => some 1
  | 0x10 => some 1
  | 0x11 => some 1
  | 0x12 => some 1
  | 0x13 => some 1
  | 0x20 => some 32
  | 0x21 => some 32
  | 0x22 => some 32
  | 0x23 => some 6
  | 0x24 => some 2
  | 0x25 => some 1
  | _ => none

/-- Ranges of counter indices of a kind: base and length of each list (Table 12.6). -/
def counterLists (kind : Nat) : List (Nat × Nat) :=
  match kind with
  | 0x01 => [(0x00, 10), (0x10, 9), (0x20, 16), (0x30, 7), (0x40, 4)]
  | 0x02 => [(0x00, 5), (0x10, 11), (0x20, 4), (0x30, 9), (0x40, 15), (0x50, 1), (0x60, 6)]
  | 0x03 => [(0x00, 5), (0x10, 3)]
  | 0x04 => [(0x00, 7), (0x10, 4)]
  | 0x05 => [(0x00, 10)]
  | 0x06 => [(0x00, 2)]
  | _ => [(0x00, 11), (0x20, 4), (0x40, 11), (0x60, 11)]

/-- The index lies within the item. -/
def State.indexOk (s : State) (kind i : Nat) : Bool :=
  if kind < 0x10 then (counterLists kind).any (fun r => decide (r.1 ≤ i) && decide (i < r.1 + r.2))
  else if kind = 0x11 then decide (i < 2048)
  else if kind = 0x20 then decide (i / 32 < s.sets) && decide (i % 32 ≤ 16)
  else if kind = 0x21 then decide (i < 512 * 16)
  else if kind = 0x22 then decide (i < 2048 * 16)
  else if kind = 0x23 then decide (i < 128)
  else if kind = 0x24 then decide (i < 64)
  else i == 0

/-- The operation is permitted for the kind: 0 READ, 1 WRITE, 2 POP. -/
def opPermitted (kind op : Nat) : Bool := if kind < 0x10 then decide (op < 2) else if kind = 0x12 then op == 2 else op == 0

/-- ERR_CODE of a GO, 0 where it is accepted (R381). -/
def State.goError (s : State) (m : Fin 4) (op : Nat) : Nat :=
  let x := s.mail m
  let kind := selKind x.sel
  let inst := selInst x.sel
  if x.busy then 5
  else if op = 3 then 6
  else match s.kindInsts kind with
    | none => 1
    | some n =>
      if n ≤ inst ∨ (kind = 0x23 ∧ !s.hasPtu (Fin.ofNat 6 inst)) then 2
      else if !s.indexOk kind (selIndex x.sel) then 3
      else if !opPermitted kind op then 4
      else 0

/-- An operation is refused or abandoned. -/
def State.mailError (s : State) (m : Fin 4) (code : Nat) (sel : Word) : State :=
  (s.setMail m (fun x => { x with err := true, code := BitVec.ofNat 4 code })).raiseLog 4 unitRegs (formD sel.toNat)

/-- Step 2 of Table 12.4. -/
def State.mailGo (s : State) (m : Fin 4) (op : Nat) : State :=
  let c := s.goError m op
  if c ≠ 0 then s.mailError m c (s.mail m).sel
  else s.setMail m (fun x => { x with lsel := x.sel, lop := BitVec.ofNat 2 op, busy := true, valid := false, empty := false,
                                      selWritten := false, started := s.fine })

/-- A write of MBX_SEL. -/
def State.mailSel (s : State) (m : Fin 4) (v : Word) : State := s.setMail m (fun x => { x with sel := v, selWritten := true })

/-- Instances 0 to 2 belong to software; instance 3 serves sessions only. -/
def opMail (m : Fin 4) (op : Nat) (s : State) : State := if m = 3 then s else s.mailGo m op
def opMailRead (m : Fin 4) (s : State) : State := opMail m 0 s
def opMailWrite (m : Fin 4) (s : State) : State := opMail m 1 s
def opMailPop (m : Fin 4) (s : State) : State := opMail m 2 s

/-- MBX_READ. -/
def execMbxRead (m : Fin 4) (s : State) : Host.Outcome State Fault Refusal := .next (s.onCore (opMailRead m))
/-- MBX_WRITE. -/
def execMbxWrite (m : Fin 4) (s : State) : Host.Outcome State Fault Refusal := .next (s.onCore (opMailWrite m))
/-- MBX_POP. -/
def execMbxPop (m : Fin 4) (s : State) : Host.Outcome State Fault Refusal := .next (s.onCore (opMailPop m))

/-- Words of a value, lowest first. -/
def wordsOf (n v : Nat) : List Word := (List.range n).map (fun i => BitVec.ofNat 32 (v >>> (32 * i)))

/-- Lines of a range operation that have not completed. -/
def State.linesLeft (s : State) : Nat := if s.rb F.GLB_MNT_STAT.BUSY ∧ !s.mnt.sw then s.mnt.left + s.mnt.inFlight.length else 0

/-- What a READ or POP captures: words, or nothing found, and the state after it. -/
def State.capture (s : State) (sel : Word) : Option (List Word) × State :=
  let kind := selKind sel
  let inst := selInst sel
  let i := selIndex sel
  if kind < 0x10 then
    let c := ctrGet s.mon (ctrSel kind inst i)
    (some (wordsOf 2 c.toNat), s.setMon (fun m => { m with seen := m.seen.filter (fun n => n != ctrSel kind inst i) }))
  else if kind = 0x10 then (let r := s.readLog; (r.1.map LogEntry.words, r.2))
  else if kind = 0x11 then ((s.mon.log.entries.find? (fun x => x.seq.toNat % 2048 == i)).map LogEntry.words, s)
  else if kind = 0x12 then (let r := s.popEvent; (r.1.map (fun x => wordsOf 4 x.bits.toNat), r.2))
  else if kind = 0x13 then
    (some (wordsOf 5 ((fabWord s.fab.t).toNat + 2 ^ 64 * (BitVec.ofInt 64 s.fab.theta).toNat
      + 2 ^ 128 * (s.rf F.TIM_STAT.STRATUM + 16 * (s.rb F.TIM_STAT.SYNC).toNat + 32 * s.fab.holdover.toNat))), s)
  else if kind = 0x20 then
    (some (if i % 32 = 16 then wordsOf 1 (s.coh.ppRow (slotKey inst (i / 32) 0)).toNat
           else wordsOf 2 (s.coh.tag (slotKey inst (i / 32) (i % 32))).raw.toNat), s)
  else if kind = 0x21 then (let x := s.coh.snfAt (inst * 8192 + i); (some (wordsOf 2 (x.par ++ x.data).toNat), s))
  else if kind = 0x22 then (let x := s.coh.dirAt (inst * 32768 + i); (some (wordsOf 3 (x.par ++ x.data).toNat), s))
  else if kind = 0x23 then
    let x := (s.ptu (Fin.ofNat 6 inst)).tlb.get (Fin.ofNat 128 i)
    (some (wordsOf 4 (BitVec.ofBool x.par ++ x.data).toNat), s)
  else if kind = 0x24 then
    (((s.dar.retired.get (Fin.ofNat 2 inst))[i]?).map (fun x =>
      wordsOf 4 (x.key % 2 ^ 30 + 2 ^ 30 * x.cause.toNat + 2 ^ 64 * x.time.toNat)), s)
  else (some (wordsOf 1 s.linesLeft), s)

/-- Steps 3 and 4 of Table 12.4. -/
def State.mailDone (s : State) (m : Fin 4) : State :=
  let x := s.mail m
  if !x.busy then s
  else if x.lop = 1 then
    let c := BitVec.ofNat 49 ((x.data.get 0).toNat + 2 ^ 32 * ((x.data.get 1).toNat % 2 ^ 17))
    (s.setMon (fun k => k.setCtr (ctrSel (selKind x.lsel) (selInst x.lsel) (selIndex x.lsel)) c)).setMail m
      (fun x => { x with busy := false })
  else
    let r := s.capture x.lsel
    match r.1 with
    | some w => r.2.setMail m (fun x => { x with busy := false, valid := !x.selWritten, data := Vector.ofFn (fun i => w.getD i.val 0) })
    | none => r.2.setMail m (fun x => { x with busy := false, empty := true })

/-- An operation is abandoned after 10 µs. -/
def State.mailAbandon (s : State) (m : Fin 4) : State :=
  let x := s.mail m
  if x.busy ∧ x.started + 10000 ≤ s.fine then (s.setMail m (fun x => { x with busy := false })).mailError m 7 x.lsel else s

end Sys2Proof.Machine
end

