-- ==== Sys2Proof/Machine/Time.lean ====
section
/-! DEFINITION. Fabric time (R426 to R431): the tick of fine time, the exchange with the parent, synchronisation, PPS. -/

namespace Sys2Proof.Machine
open Sys2Proof

def State.setFab (s : State) (f : Fabric → Fabric) : State := { s with fab := f s.fab }

/-- Fabric time wraps with its seconds modulo 2^34 (R386), in 1/32 ns. -/
def fabWrap : Nat := 32 * 1000000000 * 2 ^ 34
def fabSecond : Nat := 32 * 1000000000

/-- Fabric time after one ns of fine time: 32 units and the rate trim's share. -/
def Fabric.advance (f : Fabric) : Fabric :=
  let a := f.acc + 32 * f.trim
  let k := a / 1000000000
  { f with t := (((f.t : Int) + 32 + k) % (fabWrap : Int)).toNat, acc := a - k * 1000000000 }

/-- One ns passes (step on an empty queue): fine time, fabric time, the end of a PPS_OUT pulse. -/
def State.tickTime (s : State) : State :=
  let s1 := { s with fine := s.fine + 1, fab := s.fab.advance }
  if s1.fab.ppsOut ∧ s1.fab.ppsUntil ≤ s1.fine then s1.setFab (fun f => { f with ppsOut := false }) else s1

/-- SYNC falls (R428). -/
def State.dropSync (s : State) : State :=
  let s1 := (s.setFab (fun f => { f with good := 0 })).wf F.TIM_STAT.STRATUM 0xF
  if s.rb F.TIM_STAT.SYNC then (s1.wb F.TIM_STAT.SYNC false).raiseBare 234 unitTime else s1

/-- Fabric time is stepped by θ (R428); the first step after start raises no event. -/
def State.stepTime (s : State) (theta : Int) : State :=
  let first := !s.fab.stepped
  let s1 := (s.setFab (fun f => { f with t := (((f.t : Int) + theta) % (fabWrap : Int)).toNat, stepped := true })).wb
    F.TIM_STAT.STEPPED true
  let s2 := s1.count (ctrSel 7 0 0x69)
  (if first then s2 else s2.raiseBare 237 unitTime).dropSync

/-- R428 for an offset θ in 1/32 ns: step, or trim the rate so that θ goes over 16 exchanges of `period` ns; then SYNC and
STRATUM, from the parent's stratum (none at the root). -/
def State.discipline (s : State) (theta : Int) (period : Int) (parent : Option Nat) : State :=
  let s0 := s.setFab (fun f => { f with theta := theta, holdover := false })
  if 32000 < theta.natAbs then s0.stepTime theta
  else
    let s1 := s0.setFab (fun f => { f with trim := theta * 1000000000 / (32 * 16 * period) })
    if parent = some 0xF then s1.dropSync
    else
      let good := if theta.natAbs ≤ 32 then s.fab.good + 1 else 0
      let s2 := s1.setFab (fun f => { f with good := good })
      let up := match parent with | some k => k + 1 | none => 0
      if s2.rb F.TIM_STAT.SYNC then s2.wf F.TIM_STAT.STRATUM up
      else if 16 ≤ good then ((s2.wb F.TIM_STAT.SYNC true).wf F.TIM_STAT.STRATUM up).raiseBare 233 unitTime
      else s2

def State.isRoot (s : State) : Bool := s.rb F.TIM_CFG.ROOT

/-- Fabric time starts (R426). -/
def State.startFabric (s : State) : State := (s.setFab (fun f => { f with running := true })).wb F.TIM_STAT.RUNNING true

/-- The root starts fabric time from its calendar time at step 7, synchronised. -/
def State.startRoot (s : State) : State :=
  if s.isRoot then
    ((({ s with fab := { s.fab with t := (s.cal.sec * 1000000000 + s.cal.ns) * 32, ppsAt := s.fine } } : State).startFabric).wb
      F.TIM_STAT.SYNC true).wf F.TIM_STAT.STRATUM 0
  else s

/-- Fabric time stops (safe configuration, FALLOW, resets). -/
def State.stopFabric (s : State) : State :=
  ({ s with fab := {} } : State).wr Reg.TIM_STAT (regReset Reg.TIM_STAT)

/-- The link to the parent (R427). -/
def State.parentLink (s : State) : Option LinkNo :=
  (s.nextHop (stileHdr { opc := 0, dst := s.rf F.TIM_CFG.ROOT_NODE })).map (fun r => linkOf r.1 r.2)

/-- Body of a TIME slot (Table 13.7). -/
def timeBody (kind : Nat) (xseq : BitVec 7) (stratum : Nat) (t2 : Nat) (res : Nat) : BitVec 128 :=
  BitVec.ofNat 128 (kind + 2 * xseq.toNat + 2 ^ 8 * stratum + 2 ^ 16 * (fabWord t2).toNat + 2 ^ 80 * (t2 % 32)
    + 2 ^ 85 * (res % 2 ^ 32))

def bodyKind (b : BitVec 128) : Nat := b.toNat % 2
def bodySeq (b : BitVec 128) : BitVec 7 := b.extractLsb' 1 7
def bodyStratum (b : BitVec 128) : Nat := (b.extractLsb' 8 4).toNat
def bodyT2 (b : BitVec 128) : Nat :=
  let w := (b.extractLsb' 16 64).toNat
  ((w / 2 ^ 30) * 1000000000 + w % 2 ^ 30) * 32 + (b.extractLsb' 80 5).toNat
def bodyRes (b : BitVec 128) : Nat := (b.extractLsb' 85 32).toNat

def State.myStratum (s : State) : Nat := s.rf F.TIM_STAT.STRATUM

/-- Every ms the node sends a request to its parent; without an ACTIVE parent link it holds over (R427, R428). -/
def opTimeExchange (s : State) : State :=
  if s.isRoot || s.rf F.IMG_STAT.STAGE < 6 || s.rf F.IMG_STAT.STAGE == 9 || s.fine < s.fab.lastExch + 1000000 then s
  else
    let s1 := s.setFab (fun f => { f with lastExch := s.fine, t1 := none })
    match s.parentLink with
    | none => s1
    | some l =>
      if s.linkActive l then
        let x := s.fab.xseq + 1
        (s1.setFab (fun f => { f with xseq := x, t1 := some s.fab.t })).sendCtl (.stile l)
          (.time (timeBody 0 x s.myStratum 0 0))
      else (s1.setFab (fun f => { f with holdover := true })).dropSync

/-- TIME_EXCHANGE_TIMER. -/
def execTimeExchangeTimer (s : State) : Host.Outcome State Fault Refusal := .next (opTimeExchange s)

/-- The parent answers a request with t2 and the residence the transmitter fills in. A node whose fabric time does not run
has no t2 to give and does not answer. -/
def opTimeRequest (l : LinkNo) (body : BitVec 128) (res : Word) (s : State) : State :=
  if s.linkActive l && s.fab.running && bodyKind body == 0 then
    s.sendCtl (.stile l) (.time (timeBody 1 (bodySeq body) s.myStratum s.fab.t res.toNat))
  else s

/-- TIME_REQUEST. -/
def execTimeRequest (l : LinkNo) (body : BitVec 128) (res : Word) (s : State) : Host.Outcome State Fault Refusal :=
  .next (opTimeRequest l body res s)

/-- A replay over the link to the parent voids the exchange in progress (R427). -/
def State.voidExchange (s : State) (u : LinkUnit) : State :=
  match u with
  | .port _ => s
  | .stile l => if s.parentLink == some l then s.setFab (fun f => { f with t1 := none }) else s

/-- The link-control slot (type TIME) of the request in progress. -/
def State.isRequest (s : State) (x : BitVec 160) : Bool :=
  x.toNat % 1024 == 0x3F + 64 * 5 && bodyKind (x.extractLsb' 32 128) == 0 && bodySeq (x.extractLsb' 32 128) == s.fab.xseq

/-- Flits are sent again: an exchange whose request is among their slots is void. -/
def State.resent (s : State) (u : LinkUnit) (flits : List (BitVec 10 × BitVec 512)) : State :=
  if flits.any (fun f => (slotsOf 3 f.2.toNat).any s.isRequest) then s.voidExchange u else s

/-- θ of an exchange (R427). -/
def exchangeOffset (t1 t2 res t4 : Nat) : Int :=
  (((t2 : Int) - t1) - ((t4 : Int) - (t2 + res))) / 2

/-- An answer to the exchange in progress: θ, then R428. The first exchange starts fabric time (R426). -/
def opTimeAnswer (l : LinkNo) (body : BitVec 128) (s : State) : State :=
  match s.fab.t1 with
  | none => s
  | some t1 =>
    if !s.linkActive l || s.isRoot || s.parentLink != some l || bodyKind body != 1 || bodySeq body != s.fab.xseq then s
    else
      let theta := exchangeOffset t1 (bodyT2 body) (bodyRes body) s.fab.t
      let s1 := (s.setFab (fun f => { f with t1 := none })).count (ctrSel 7 0 0x68)
      let s2 := if s1.fab.running then s1 else s1.startFabric
      s2.discipline theta 1000000 (some (bodyStratum body))

/-- TIME_ANSWER. -/
def execTimeAnswer (l : LinkNo) (body : BitVec 128) (s : State) : Host.Outcome State Fault Refusal :=
  .next (opTimeAnswer l body s)

/-- The root aligns its seconds with PPS_IN (R430): an edge marks a second boundary. -/
def ppsOffset (t : Nat) : Int :=
  let r := t % fabSecond
  if r < fabSecond / 2 then -(r : Int) else (fabSecond : Int) - r

def State.ppsUsed (s : State) : Bool := s.isRoot && s.rb F.TIM_CFG.PPS_EN && s.fab.running

def opPpsInEdge (s : State) : State :=
  if s.ppsUsed then
    ((s.setFab (fun f => { f with ppsAt := s.fine })).count (ctrSel 7 0 0x6A)).discipline (ppsOffset s.fab.t) 1000000000 none
  else s

/-- PPS_IN_EDGE. -/
def execPpsInEdge (s : State) : Host.Outcome State Fault Refusal := .next (opPpsInEdge s)

/-- No edge for 1.5 s: PPS_LOST, EV235, holdover. -/
def opPpsLost (s : State) : State :=
  if s.ppsUsed && !s.fab.holdover && decide (s.fab.ppsAt + 1500000000 ≤ s.fine) then
    (((s.setFab (fun f => { f with holdover := true })).wb F.TIM_STAT.PPS_LOST true).raiseBare 235 unitTime).dropSync
  else s

/-- PPS_LOST. -/
def execPpsLost (s : State) : Host.Outcome State Fault Refusal := .next (opPpsLost s)

/-- PPS_OUT goes high at a second boundary of fabric time for PPS_WIDTH ms (R431). -/
def opPpsOutBoundary (s : State) : State :=
  if s.fab.running && !s.fab.ppsOut && decide (s.fab.t % fabSecond < 64) then
    s.setFab (fun f => { f with ppsOut := true, ppsUntil := s.fine + max 1 (s.rf F.TIM_CFG.PPS_WIDTH) * 1000000 })
  else s

/-- PPS_OUT_BOUNDARY. -/
def execPpsOutBoundary (s : State) : Host.Outcome State Fault Refusal := .next (opPpsOutBoundary s)

end Sys2Proof.Machine
end

