-- ==== Sys2Proof/Machine/Links.lean ====
section
/-! DEFINITION. Agent ports and Stile links (R335 to R349), the Headland (R357 to R361) and the DDR5 ports' own events
(R368, R371). -/

namespace Sys2Proof.Machine
open Sys2Proof

/-! ### Which links are used (R3, R15, R27) -/

/-- A Stile link that R3 and R27 leave in use. -/
def State.linkUsed (s : State) (l : LinkNo) : Bool :=
  let dim := l.val / 2
  let a := coordOf s.node dim
  decide (l.val < s.linkCount) && decide (1 < s.sizeOf dim) &&
    (s.torusOf dim || (if l.val % 2 = 0 then decide (a + 1 < s.sizeOf dim) else decide (0 < a)))

def State.unitUsed (s : State) : LinkUnit → Bool
  | .port p => s.kind p != .off
  | .stile l => s.linkUsed l

/-- The neighbour's link that a link must meet (R28). -/
def oppositeLink (l : LinkNo) : Nat := if l.val % 2 = 0 then l.val + 1 else l.val - 1

/-! ### Training (R347 to R349, Table 11.9) -/

/-- The device's own PARAM body (Table 11.8). -/
def State.ownParam (s : State) (u : LinkUnit) : BitVec 128 :=
  let kind := match u with | .port p => if s.caching p then 1 else 2 | .stile _ => 0
  let link := match u with | .port p => p.val | .stile l => l.val
  BitVec.ofNat 128 (1 + 2 ^ 4 * kind + 2 ^ 30 * s.node + 2 ^ 39 * link)

/-- A step of training begins. PARAM sends the device's slot. -/
def State.trainTo (s : State) (u : LinkUnit) (st : Nat) : State :=
  let s1 := (s.setLinkState u st).setLink u (fun l => { l with since := s.fine, paramOk := false, step := 0 })
  if st = stParam then s1.emit (.ctl u (.param (s1.ownParam u))) else s1

/-- Training starts when the image is in force. -/
def State.startTraining (s : State) (u : LinkUnit) : State := if s.unitUsed u then s.trainTo u stDetect else s

/-- A port or link leaves ACTIVE: DOWN and its event; the wait of R226 begins. -/
def State.leaveActive (s : State) (u : LinkUnit) : State :=
  let s1 := s.setLink u (fun l => { l with leftAt := some s.fine })
  match u with
  | .port p => (s1.wb (F.AGP_LINK_STAT.DOWN p) true).raise (160 + p.val) (unitPort p)
  | .stile l => (s1.wb (F.STL_LINK_STAT.DOWN l) true).raise (166 + l.val) (unitLink l)

/-- RETRAIN from ACTIVE (R339). -/
def State.enterRetrain (s : State) (u : LinkUnit) : State :=
  if s.linkState u = stActive then
    ((((s.setLinkState u stRetrain).leaveActive u).setLink u (fun l =>
      { l with since := s.fine, step := 2, paramOk := false, nakCount := 0 })).count (linkCtr u 4))
  else s

/-- FAIL with its cause (R348). -/
def State.trainFail (s : State) (u : LinkUnit) (cause : Nat) : State := (s.setLinkCause u cause).trainTo u stFail

/-- What step 2 and step 3 found of the lanes. -/
def State.setLanes (s : State) (u : LinkUnit) (reversed : Bool) (polinv : BitVec 8) : State :=
  match u with
  | .port p => (s.wb (F.AGP_LINK_STAT.REVERSED p) reversed).wf (F.AGP_LINK_STAT.POLINV p) polinv.toNat
  | .stile l => (s.wb (F.STL_LINK_STAT.REVERSED l) reversed).wf (F.STL_LINK_STAT.POLINV l) (polinv.toNat % 16)

/-- Sends an ACK of the last good flit. -/
def State.sendAck (s : State) (u : LinkUnit) : State :=
  (s.setLink u (fun l => { l with unacked := 0 })).sendCtl u (.ack ((s.linkSt u).rxSeq - 1))

/-- Receive buffers of a link that starts anew are not returned twice. -/
def State.forgetBufs (s : State) (l : LinkNo) : State :=
  { s with links := s.links.map (fun x => { x with wait := x.wait.map (fun w =>
      match w.buf with
      | some (k, _) => if k = l then { w with buf := none } else w
      | none => w) }) }

/-- A link whose sequence numbers start at 0: flits that were not acknowledged are sent again under new numbers. -/
def LinkSt.fresh (l : LinkSt) : LinkSt :=
  { txSlots := l.replay.flatMap (fun f => (slotsOf 3 f.2.toNat).map (fun x => { slot := x })) ++ l.txSlots,
    txOpen := l.txOpen, txLater := l.txLater, rxBuf := l.rxBuf, rxLeft := l.rxLeft, rxTo := l.rxTo }

/-- What follows when slots that waited have left: device writes of a port reach their points. -/
def State.afterPump (s : State) (u : LinkUnit) : State :=
  match u with
  | .port p => s.devGone p
  | .stile _ => s

/-- Snoops that waited for a buffer go out. -/
def State.pumpSnoops (p : Port) : Nat → State → State
  | 0, s => s
  | k + 1, s =>
    match (s.port p).snpWait with
    | m :: rest =>
      if 0 < (s.port p).snpCred then
        State.pumpSnoops p k ((s.setPort p (fun x => { x with snpWait := rest, snpCred := x.snpCred - 1 })).toAgent p m)
      else s
    | [] => s

/-- Step 6 after a whole training: sequence numbers start at 0 and every buffer is free. -/
def State.linkUp (s : State) (u : LinkUnit) : State :=
  let s0 := s.resent u (s.linkSt u).replay
  let s1 := (((s0.setLinkState u stActive).setLink u LinkSt.fresh).pumpLink u).afterPump u
  match u with
  | .port p => State.pumpSnoops p (s1.port p).snpWait.length s1
  | .stile l =>
    let s2 := (s1.forgetBufs l).setStile l (fun x => { x with cred := Vector.replicate 10 20, bcred := 3, rr := 9 })
    State.pumpStile l (s2.stile l).wait.length s2

/-- After a retrain both sides go on at the first unacknowledged flit. -/
def State.linkResume (s : State) (u : LinkUnit) : State :=
  let s1 := ((s.resent u (s.linkSt u).replay).setLinkState u stActive).setLink u (fun l =>
    { l with step := 0, leftAt := none, nakSent := false, nakCount := 0 })
  let s2 := (s1.sendAck u).afterPump u
  match (s.linkSt u).replay.head? with
  | some f => s2.emit (.replay u f.1)
  | none => s2

/-- A step completes or times out. -/
def opTrainStep (u : LinkUnit) (ok reversed : Bool) (polinv : BitVec 8) (s : State) : State :=
  let st := s.linkState u
  let x := s.linkSt u
  if st = stDetect then (if ok then s.trainTo u stLock else s)
  else if st = stLock then
    if ok then (s.setLanes u false polinv).trainTo u stOrder else (s.setLinkCause u 2).trainTo u stDetect
  else if st = stOrder then
    if ok then (s.setLanes u reversed polinv).trainTo u stEqual else s.trainFail u 1
  else if st = stEqual then (if ok then s.trainTo u stParam else s.trainFail u 3)
  else if st = stParam then
    if ok then (if x.paramOk then s.linkUp u else s)
    else
      ({ s with freeCtr := s.freeCtr + 1 } : State).trainFail u (Config.trainCause s.freeCtr).toNat
  else if st = stRetrain then
    if !ok then s.trainTo u stDetect
    else if x.step = 2 then (s.setLanes u false polinv).setLink u (fun l => { l with step := 3 })
    else if x.step = 3 then
      ((s.setLanes u reversed polinv).setLink u (fun l => { l with step := 5 })).emit (.ctl u (.param (s.ownParam u)))
    else if x.paramOk then s.linkResume u
    else s
  else s

/-- LINK_TRAINING_STEP_DONE. -/
def execLinkTrainingStepDone (u : LinkUnit) (ok reversed : Bool) (polinv : BitVec 8) (s : State) :
    Host.Outcome State Fault Refusal := .next (opTrainStep u ok reversed polinv s)

/-- Receiver detection is tried again: 1 ms after the last try, 10 ms after a failure. -/
def opDetectRetry (u : LinkUnit) (s : State) : State :=
  let st := s.linkState u
  let t := (s.linkSt u).since
  if (st = stDetect ∧ t + 1000000 ≤ s.fine) ∨ (st = stFail ∧ t + 10000000 ≤ s.fine) then s.trainTo u stDetect else s

/-- LINK_DETECT_RETRY. -/
def execLinkDetectRetry (u : LinkUnit) (s : State) : Host.Outcome State Fault Refusal := .next (opDetectRetry u s)

/-- Cause of failure that a PARAM body gives (Table 11.8, R28), 0 where it agrees. -/
def State.paramCause (s : State) (u : LinkUnit) (b : BitVec 128) : Nat :=
  if b.extractLsb' 0 4 ≠ 1 then 5
  else match u with
    | .port p => if (b.extractLsb' 4 2).toNat ≠ (if s.caching p then 1 else 2) then 4 else 0
    | .stile l => if (b.extractLsb' 39 3).toNat ≠ oppositeLink l then 6 else 0

/-- A PARAM slot during training. A retrain keeps the credits that it finds. -/
def opParam (u : LinkUnit) (b : BitVec 128) (s : State) : State :=
  let st := s.linkState u
  let again := st = stRetrain ∧ (s.linkSt u).step = 5
  if st = stParam ∨ again then
    let c := s.paramCause u b
    if c ≠ 0 then (if again then (s.setLinkCause u c).trainTo u stDetect else s.trainFail u c)
    else
      let s1 := s.setLink u (fun l => { l with paramOk := true })
      match u with
      | .stile l => s1.wf (F.STL_LINK_STAT.PEER l) (b.extractLsb' 30 9).toNat
      | .port p =>
        if again then s1
        else s1.setPort p (fun x => { x with
          snpCred := (b.extractLsb' 6 8).toNat, dreqCred := (b.extractLsb' 14 8).toNat, evtCred := (b.extractLsb' 22 8).toNat })
  else s

/-- PARAM_SLOT. -/
def execParamSlot (u : LinkUnit) (body : BitVec 128) (s : State) : Host.Outcome State Fault Refusal := .next (opParam u body s)

/-- BLOCK_LOCK_LOST. -/
def execBlockLockLost (u : LinkUnit) (s : State) : Host.Outcome State Fault Refusal := .next (s.enterRetrain u)

/-- A write of AGP_LINK_CTL.RETRAIN. -/
def opLinkCtl (p : Port) (v : Word) (s : State) : State := if bit v 0 then s.enterRetrain (.port p) else s

/-- AGP_LINK_CTL_RETRAIN. -/
def execAgpLinkCtlRetrain (p : Port) (s : State) : Host.Outcome State Fault Refusal := .next (s.onReg (opLinkCtl p 1))

/-! ### Retry (R338, R339) -/

/-- 64 ns have passed since an unacknowledged good flit. -/
def opAckTimer (u : LinkUnit) (s : State) : State :=
  let x := s.linkSt u
  if s.linkState u = stActive ∧ 0 < x.unacked ∧ x.unackedAt + 64 ≤ s.fine then s.sendAck u else s

/-- ACK_TIMER. -/
def execAckTimer (u : LinkUnit) (s : State) : Host.Outcome State Fault Refusal := .next (opAckTimer u s)

/-- An ACK releases the flits up to its number; the transmitter goes on. -/
def opAck (u : LinkUnit) (q : BitVec 10) (s : State) : State :=
  if s.linkState u = stActive ∧ (s.linkSt u).replay.any (fun f => f.1 == q) then
    ((s.setLink u (fun l => { l with
      replay := (l.replay.dropWhile (fun f => f.1 != q)).drop 1, nakCount := 0 })).pumpLink u).afterPump u
  else s

/-- ACK. -/
def execAck (u : LinkUnit) (seq : BitVec 10) (s : State) : Host.Outcome State Fault Refusal := .next (opAck u seq s)

/-- A NAK: replay from the named flit; the fourth for one number retrains. -/
def opNak (u : LinkUnit) (q : BitVec 10) (s : State) : State :=
  let x := s.linkSt u
  if s.linkState u = stActive ∧ x.replay.any (fun f => f.1 == q) then
    let n := if 0 < x.nakCount ∧ x.nakSeq = q then x.nakCount + 1 else 1
    let s1 := s.setLink u (fun l => { l with nakCount := n, nakSeq := q })
    if 4 ≤ n then s1.enterRetrain u
    else applyFx (((s1.resent u (x.replay.dropWhile (fun f => f.1 != q))).emit (.replay u q)).count (linkCtr u 3)) (.firstCtr (linkCtr u 3) 172 (unitOf u))
  else s

/-- NAK. -/
def execNak (u : LinkUnit) (seq : BitVec 10) (s : State) : Host.Outcome State Fault Refusal := .next (opNak u seq s)

/-! ### Buffer credits (R346, R354) -/

/-- One VCC entry: class, dateline channel, count. -/
def State.vccEntry (u : LinkUnit) (s : State) (e : BitVec 16) : State :=
  let cls := (e.extractLsb' 0 3).toNat
  let n := (e.extractLsb' 4 8).toNat
  let ignored := s.count (linkCtr u 5)
  if n = 0 then s
  else match u with
    | .port p =>
      if cls = 0 then s.setPort p (fun x => { x with dreqCred := x.dreqCred + n })
      else if cls = 1 then State.pumpSnoops p (s.port p).snpWait.length (s.setPort p (fun x => { x with snpCred := x.snpCred + n }))
      else if cls = 4 then s.setPort p (fun x => { x with evtCred := x.evtCred + n })
      else ignored
    | .stile l =>
      if cls = 7 then s.setStile l (fun x => { x with bcred := x.bcred + n })
      else if cls < 5 then s.setStile l (fun x => { x with cred := vmod x.cred (vcIndex cls (e.getLsbD 3)) (fun k => k + n) })
      else ignored

/-- The eight 16-bit entries of a body. -/
def bodyEntries (b : BitVec 128) : List (BitVec 16) := (List.range 8).map (fun i => b.extractLsb' (16 * i) 16)

def opVcc (u : LinkUnit) (b : BitVec 128) (s : State) : State :=
  if s.linkState u = stActive then
    let s1 := (bodyEntries b).foldl (State.vccEntry u) s
    match u with
    | .port _ => s1
    | .stile l => State.pumpStile l (s1.stile l).wait.length s1
  else s

/-- VCC. -/
def execVcc (u : LinkUnit) (body : BitVec 128) (s : State) : Host.Outcome State Fault Refusal := .next (opVcc u body s)

/-! ### The Headland (R357 to R361) -/

def beatToken (b : BitVec 512) (j : Nat) : BitVec 64 := b.extractLsb' (64 * j) 64
/-- Routing word, token 2 bits [63:32] (Table 11.13). -/
def beatRoute (b : BitVec 512) : BitVec 32 := (beatToken b 2).extractLsb' 32 32
def routeSpace (r : BitVec 32) : Bool := r.getLsbD 0
def routeClass (r : BitVec 32) : Nat := (r.extractLsb' 1 3).toNat
def routeSender (r : BitVec 32) : Nat := (r.extractLsb' 6 6).toNat

/-- Beats of the packet that a first beat begins (R358): 1 without a line, 3 with one, 4 with a byte mask as well. -/
def packetBeats (b : BitVec 512) : Nat :=
  let r := beatRoute b
  let opc := b.toNat % 64
  if routeSpace r then
    if opc = 0x06 ∨ opc = 0x0D then 4 else if opc = 0x07 ∨ opc = 0x20 ∨ opc = 0x21 then 3 else 1
  else if 32 ≤ routeSender r ∧ routeSender r < 38 then
    if opc = 0x08 ∨ opc = 0x09 then 4 else if opc = 0x0A ∨ opc = 0x0C ∨ opc = 0x28 ∨ opc = 0x29 then 3 else 1
  else if opc = 0x39 ∨ opc = 0x3A then 4
  else if opc = 0x28 ∨ opc = 0x33 then 3
  else 1

/-- A credit beat returning `n` beats of a class (R359). -/
def creditBeat (cls n : Nat) : BitVec 512 := BitVec.ofNat 512 (n * 2 ^ (8 * cls) + 7 * 2 ^ (2 * 64 + 33))

/-- Buffers that a credit beat returns. -/
def State.hdlCredits (s : State) (o : Fin 2) (b : BitVec 512) : State :=
  s.setHdl (fun h => { h with cred := vmod h.cred o (fun v => Vector.ofFn (fun (i : Fin 5) =>
    v.get i + ((beatToken b 0).extractLsb' (8 * i.val) 8).toNat)) })

/-- A beat reaches the receiving hub: the sub-links of its direction are not stalled; a credit beat credits the other direction; a packet
whose last beat it is goes on, and its buffers are returned. -/
def opBeat (toE : Bool) (b : BitVec 512) (s : State) : State :=
  let d := hdlDir toE
  let clear : BitVec 16 := if toE then 0xFF00 else 0x00FF
  let s1 := (s.setHdl (fun h => { h with stalled := h.stalled &&& clear })).count (ctrSel 6 d 0)
  let got := s1.hdl.rx.get d
  let first := got.headD b
  let cls := routeClass (beatRoute first)
  let all := got ++ [b]
  let s2 :=
    if got = [] ∧ cls = 7 then s1.hdlCredits (hdlDir (!toE)) b
    else if all.length < packetBeats first then s1.setHdl (fun h => { h with rx := vset h.rx d all })
    else
      (s1.setHdl (fun h => { h with rx := vset h.rx d [], delivered := h.delivered ++ [(toE, all)] })).emit
        (.headland (!toE) (creditBeat cls all.length))
  [true, false].foldl (fun s e => State.pumpHdl e (s.hdl.tx.get (hdlDir e)).length s) s2

/-- HEADLAND_BEAT. -/
def execHeadlandBeat (toE : Bool) (tokens : BitVec 512) (s : State) : Host.Outcome State Fault Refusal :=
  .next (opBeat toE tokens s)

/-- A sub-link is stalled. -/
def opStall (i : Fin 16) (s : State) : State :=
  let s1 := s.setHdl (fun h => { h with stalled := h.stalled ||| BitVec.ofNat 16 (2 ^ i.val) })
  (((s1.wb F.HDL_STAT.STALL true).wf F.HDL_STAT.SUBLINK i.val).count (ctrSel 6 (i.val / 8) 1)).raise 173 46

/-- SUBLINK_STALL. -/
def execSublinkStall (i : Fin 16) (s : State) : Host.Outcome State Fault Refusal := .next (opStall i s)

/-! ### DDR5 (R368, R371) -/

/-- A same-bank refresh is issued on a port that serves accesses. -/
def opRefresh (m : MemNo) (s : State) : State :=
  if s.rb (F.MEM_STAT.TRAINED m) then (s.emit (.refresh m)).count (ctrSel 4 m 0x12) else s

/-- DDR5_REFRESH. -/
def execDdr5Refresh (m : MemNo) (s : State) : Host.Outcome State Fault Refusal := .next (opRefresh m s)

/-- The devices report their refresh rate. -/
def opTempPoll (m : MemNo) (hot : Bool) (s : State) : State :=
  if s.rb (F.MEM_STAT.TRAINED m) then s.wb (F.MEM_STAT.REF2X m) hot else s

/-- DDR5_TEMP_POLL. -/
def execDdr5TempPoll (m : MemNo) (hot : Bool) (s : State) : Host.Outcome State Fault Refusal := .next (opTempPoll m hot s)

/-- The hPPR sequence of a port ends. -/
def opHpprDone (m : MemNo) (s : State) : State :=
  if s.rb (F.MEM_STAT.PPR_BUSY m) then
    ((s.wb (F.MEM_STAT.PPR_BUSY m) false).wb (F.MEM_STAT.PPR_DONE m) true).raise 177 (unitMem m)
  else s

end Sys2Proof.Machine
end

