-- ==== Sys2Proof/Machine/Image.lean ====
section
/-! DEFINITION. The Ronli image (R406 to R410): its framing, its checks, and the records in force. -/

namespace Sys2Proof.Machine
open Sys2Proof

/-! ### The flash -/

/-- A byte of the flash; erased bytes are not listed. -/
def Flash.byte (f : Flash) (a : Nat) : Byte := Sparse.get (fun _ => 0xFF#8) f.bytes a
def slotBase : Slot → Nat
  | .a => 0
  | .b => 0x100000
/-- The first `n` bytes of a slot. -/
def Flash.slotBytes (f : Flash) (x : Slot) (n : Nat) : List Byte := (List.range n).map (fun i => f.byte (slotBase x + i))
/-- `n` bytes of a list from byte `i`. -/
def bytesFrom (l : List Byte) (i n : Nat) : List Byte := (l.drop i).take n
def leAt (l : List Byte) (i n : Nat) : Nat := leNat (bytesFrom l i n)

/-! ### Framing (Tables 13.3 and 13.4) -/

structure Record where
  type : Nat
  payload : List Byte
  deriving DecidableEq, Repr

/-- A whole image as read from a slot. -/
structure Image where
  signed : Bool
  meminit : Bool
  build : Word
  records : List Record
  /-- the bytes that DIGEST and SIG cover -/
  body : List Byte
  digest : List Byte
  pubkey : List Byte
  sig : List Byte
  deriving DecidableEq, Repr

/-- Check 1 of R410. -/
def headerOk (h : List Byte) : Bool :=
  leAt h 0 4 == 0x494C4E52 && leAt h 4 2 == 1 && leAt h 16 2 == 0x0512 && leAt h 24 4 == (crc32c (h.take 24)).toNat &&
    decide (leAt h 12 4 ≤ 0x100000)

/-- Payload length that a type must have; none where the type is not one of Table 13.4. -/
def recordLen (type len : Nat) : Bool :=
  match type with
  | 0x0001 => len % 8 == 0
  | 0x0002 => len == 512
  | 0x0003 => len == 512
  | 0x0004 => len == 288
  | 0x0005 => len == 128
  | 0x0006 => len == 72
  | 0x0007 => len == 96
  | 0xFFFF => len == 0
  | _ => false

/-- The record at the front of `l`, and what follows it. -/
def takeRecord (l : List Byte) : Option (Record × List Byte) :=
  let t := leAt l 0 2
  let n := leAt l 4 4
  let whole := l.take (8 + n)
  if l.length < 12 + n then none
  else if leAt l 2 2 ≠ 0 ∨ n % 4 ≠ 0 ∨ !recordLen t n ∨ leAt l (8 + n) 4 ≠ (crc32c whole).toNat then none
  else some ({ type := t, payload := whole.drop 8 }, l.drop (12 + n))

/-- `n` records, END the last of them and no other. -/
def takeRecords : Nat → List Byte → Option (List Record × List Byte)
  | 0, _ => none
  | n + 1, l =>
    match takeRecord l with
    | none => none
    | some (r, rest) =>
      if n = 0 then (if r.type = 0xFFFF then some ([r], rest) else none)
      else if r.type = 0xFFFF then none
      else (takeRecords n rest).map (fun x => (r :: x.1, x.2))

/-- Types other than REG appear at most once. -/
def recordsOnce (l : List Record) : Bool := ((l.map Record.type).filter (fun t => t != 1)).Nodup

/-- Check 2 of R410 on the LENGTH bytes of an image. -/
def parseImage (l : List Byte) : Option Image :=
  match takeRecords (leAt l 18 2) (l.drop 32) with
  | none => none
  | some (rs, rest) =>
    let signed := leAt l 6 2 % 2 == 1
    if rest.length ≠ (if signed then 160 else 32) ∨ !recordsOnce rs then none
    else
      some { signed := signed, meminit := leAt l 6 2 / 2 % 2 == 1, build := BitVec.ofNat 32 (leAt l 8 4), records := rs,
             body := l.take (l.length - rest.length), digest := rest.take 32, pubkey := bytesFrom rest 32 64,
             sig := bytesFrom rest 96 64 }

/-! ### Digest and signature (R409, R410) -/

def Image.digestOk (x : Image) : Bool := sha256 x.body == x.digest

def Image.signatureOk (x : Image) : Bool :=
  ecdsaOk (leAt x.pubkey 0 32, leAt x.pubkey 32 32) (beNat (sha256 x.body)) (leAt x.sig 0 32) (leAt x.sig 32 32)

/-- CAUSE of check 4, 0 where it passes. -/
def Image.signerCause (x : Image) (f : Fuses) : Nat :=
  if x.signed then
    if x.signatureOk && (!f.pkhSet || sha256 x.pubkey == keyBytes f.pkh) then 0 else 4
  else if f.pkhSet then 5 else 0

/-! ### Records in force -/

def Image.record (x : Image) (type : Nat) : Option (List Byte) := (x.records.find? (fun r => r.type == type)).map Record.payload

/-- REG pairs in order. -/
def Image.pairs (x : Image) : List (Nat × Word) :=
  (x.records.filter (fun r => r.type == 1)).flatMap (fun r =>
    (List.range (r.payload.length / 8)).map (fun i => (leAt r.payload (8 * i) 4, BitVec.ofNat 32 (leAt r.payload (8 * i + 4) 4))))

/-- Block and offset of a register inside it. -/
def regPlace (off : Nat) : Option (Block × Nat) := (csrBlock off).map (fun x => (x.1, x.2.2))

/-- RO fields that the image loads. -/
def imgMask (off : Nat) : Word :=
  let all := match regRow off with | some r => r.rd | none => 0
  match regPlace off with
  | some (.global, o) =>
    if [0x4, 0x8, 0xC, 0x10, 0x140, 0x168, 0x1058, 0x6000, 0x400C, 0x4020].contains o then all else 0
  | some (.channel, 0x48) => all
  | some (.memory, 0x44) => all
  | some (.port, 0x80) => all
  | some (.port, 0x200) => 1
  | some (.port, 0x44) => 0xF0
  | _ => 0

/-- A REG pair names a register and sets nothing that R408 excludes. -/
def pairOk (x : Nat × Word) : Bool :=
  let o := x.1
  if 0x1000 ≤ o ∧ o < 0x1024 ∧ o % 4 = 0 then x.2 == 0
  else if (0x2000 ≤ o ∧ o < 0x4000) ∨ (0x7000 ≤ o ∧ o < 0x8000) then false
  else match regRow o with
    | none => false
    | some r => x.2 &&& ~~~ r.rd == 0 && x.2 &&& r.w1c == 0

/-- Limits that a register puts on what it stores (R488). -/
def clampReg (off : Nat) (v : Word) : Word :=
  if off = Reg.GLB_PRM_CFG then
    setFld (setFld v 0 8 (max 8 (fld v 0 8))) 8 8 (max 8 (fld v 8 8))
  else if off = Reg.GLB_SWATH_CFG then setFld v 4 8 (max 4 (fld v 4 8))
  else if off = Reg.GLB_PRM_FLOOR then setFld (setFld v 0 8 (max 0x6E (fld v 0 8))) 8 8 (max 0x6E (fld v 8 8))
  else v

/-- The port whose translation unit a register belongs to. -/
def ptuPort (off : Nat) : Option (Port × Nat) :=
  match csrBlock off with
  | some (.port, i, o) => if 0x200 ≤ o ∧ o ≤ 0x22C then some (Fin.ofNat 6 i, o) else none
  | _ => none

/-- A pair's value as its register takes it: REQ_MODE 0b11 leaves its field unchanged (R488). -/
def State.pairValue (s : State) (x : Nat × Word) : Word :=
  if x.1 = Reg.GLB_PRM_MODE ∧ fld x.2 2 2 = 3 then setFld x.2 2 2 (s.rf F.GLB_PRM_MODE.REQ_MODE) else clampReg x.1 x.2

/-- A pair takes effect (R408). -/
def State.applyPair (s : State) (x : Nat × Word) : State :=
  let off := x.1
  match regRow off with
  | none => s
  | some r =>
    let m := r.rw ||| imgMask off
    let put := s.wr off ((s.rg off &&& ~~~ m) ||| (s.pairValue x &&& m))
    if off = Reg.EVT_RTE then opEvtRte x.2 s
    else match ptuPort off with
      | none => put
      | some (p, o) =>
        if !s.hasPtu p then s
        else if o = 0x200 then opPtuSeed p (x.2.extractLsb' 16 16) put
        else if o = 0x208 then opPtuRootHi p x.2 s
        else put

/-- A region descriptor. -/
def regionOf (l : List Byte) (i : Nat) : Region :=
  let d := BitVec.ofNat 64 (leAt l (8 * i) 8)
  { base := d.extractLsb' 0 36, size := d.extractLsb' 36 6, policy := d.extractLsb' 42 3, valid := d.getLsbD 45 }

/-- Sparse list of byte fields that are not 0. -/
def allotOf (l : List Byte) (lo : Nat) : List (Nat × Nat) :=
  l.zipIdx.filterMap (fun x => let v := x.1.toNat / 2 ^ lo % 4; if v = 0 then none else some (x.2, v))

def State.setImg (s : State) (f : ImageSetup → ImageSetup) : State := { s with img := f s.img }

/-- A record takes effect. -/
def State.applyRecord (s : State) (r : Record) : State :=
  let l := r.payload
  match r.type with
  | 0x0002 => s.setImg (fun g => { g with regions := (List.range 64).map (regionOf l) })
  | 0x0003 => s.setImg (fun g => { g with allotOut := allotOf l 0, allotIn := allotOf l 2 })
  | 0x0004 => s.setEv (fun e =>
    let rs := l.zipIdx.foldl (fun a x => Sparse.set routeDefault a x.2 (x.1.extractLsb' 0 5)) e.routes
    { e with routes := rs })
  | 0x0005 => s.setImg (fun g => { g with ddrTiming := (List.range 64).map (fun i => BitVec.ofNat 16 (leAt l (2 * i) 2)) })
  | 0x0006 => s.setImg (fun g => { g with trim := (List.range 34).map (fun i => (BitVec.ofNat 16 (leAt l (2 * i) 2)).toInt) })
  | 0x0007 => s.setImg (fun g => { g with keys := Vector.ofFn (fun (i : Fin 3) => keyOf (bytesFrom l (32 * i.val) 32)) })
  | _ => s

/-- The kinds, records and REG pairs of an image over a state. -/
def State.withImage (s : State) (x : Image) (kinds : Vector PortKind 6) : State :=
  x.pairs.foldl State.applyPair (x.records.foldl State.applyRecord (s.setImg (fun g => { g with kinds := kinds })))

/-! ### Content rules (check 5 of R410) -/

/-- R4. Of the nodes that an image names, GLB_NODE's own is tested; those of TIM_CFG.ROOT_NODE and of ALLOT are not (DESIGN CHOICE, log
entry 31). -/
def State.variantOk (s : State) : Bool :=
  !s.fuses.variantS ||
    (decide (s.sizeOf 2 ≤ 1) && decide (s.sizeOf 0 * s.sizeOf 1 * s.sizeOf 2 ≤ 8) && coordOf s.node 2 == 0)
/-- R26. -/
def State.torusOk (s : State) : Bool := (List.range 3).all (fun d => !s.torusOf d || decide (2 < s.sizeOf d))
/-- R35, R369: GiB that the devices of a port hold. -/
def State.deviceGiB (s : State) (m : Nat) : Nat :=
  (s.rf (F.MEM_CFG.RANKS m) + 1) * 16 * (if s.rb (F.MEM_CFG.X8 m) then 1 else 2) * (if s.rb (F.MEM_CFG.D32 m) then 2 else 1)
def State.capacityOk (s : State) : Bool :=
  let c := s.rf F.GLB_MEMMAP.PORT_CAP
  decide (1 ≤ c) && decide (c ≤ 32) && [0, 1].all (fun m => 4 * c == s.deviceGiB m)
/-- Owner of an MMIO window. -/
def State.ownerOf (s : State) (w : Nat) : Nat := fld (s.rg (if w < 8 then Reg.GLB_MMIO_OWN0 else Reg.GLB_MMIO_OWN1)) (4 * (w % 8)) 4
/-- R46. -/
def State.ownersOk (s : State) : Bool :=
  (List.range 16).all (fun w =>
    let o := s.ownerOf w
    o == 0xF || (decide (o < 6) && s.kind (Fin.ofNat 6 o) != .off))
/-- R46: an image describes a channel when its registers in the resulting state do, by EN = 1 or a nonzero CMI_CFG (DESIGN CHOICE, log
entry 32). -/
def State.ch4Ok (s : State) : Bool :=
  !s.ch4 || [2, 3, 6, 7].all (fun c => !s.rb (F.CMI_CTL.EN c) && s.rg (Reg.CMI_CFG c) == 0)
/-- R73. -/
def State.allotOk (s : State) : Bool := decide (s.img.allotIn.foldl (fun a x => a + x.2) 0 ≤ 16)
/-- R87. -/
def State.creditsOk (s : State) : Bool :=
  (fins 6).all (fun p => s.kind p == .off ||
    (let p0 := s.rf (F.AGP_CRD_CFG.P0_PER_CH p)
     let p2 := s.rf (F.AGP_CRD_CFG.P2_MAX p)
     let pools := if s.caching p then s.channels.length else 1
     decide (1 ≤ p0) && decide (1 ≤ p2) && decide (p2 + (p0 + s.rf (F.AGP_CRD_CFG.P1_PER_CH p)) * pools ≤ 4096)))
/-- R88. -/
def State.buildOk (s : State) : Bool :=
  let one := s.rb F.GLB_CACHE_CFG.RANKS2 != s.rb F.GLB_CACHE_CFG.DEV8M
  let none := !s.rb F.GLB_CACHE_CFG.RANKS2 && !s.rb F.GLB_CACHE_CFG.DEV8M
  match s.rf F.GLB_CACHE_CFG.CAP with
  | 0 => s.ch4 && none
  | 1 => if s.ch4 then one else none
  | 2 => !s.ch4 && one
  | _ => false
/-- R117. -/
def Region.ok (r : Region) : Bool :=
  !r.valid || (decide (16 ≤ r.size.toNat) && decide (r.size.toNat ≤ 52) && r.base.toNat * 2 ^ 16 % 2 ^ r.size.toNat == 0 &&
    decide (r.policy.toNat < 6))
/-- R155. -/
def State.shareMiB (s : State) (p : Port) : Nat := fld (s.rg Reg.GLB_SPILL_CFG) (4 + 3 * p.val) 3
def State.spillOk (s : State) : Bool :=
  decide (s.rf F.GLB_SPILL_CFG.SIZE_MIB ≤ 8) &&
    decide ((fins 6).foldl (fun a p => a + s.shareMiB p) 0 ≤ s.rf F.GLB_SPILL_CFG.SIZE_MIB) &&
    (fins 6).all (fun p => decide (s.shareMiB p ≤ 4) && (s.shareMiB p == 0 || s.kind p == .nonCaching))
/-- R391, R444: the regions lie in populated memory. -/
def State.placedOk (s : State) : Bool :=
  decide (s.rf F.EVT_Q_BASE.BASE * 2 ^ 20 + 2 ^ 20 ≤ 2 * s.portCap) &&
    decide (s.rf F.PWR_SEED_BASE.BASE * 2 ^ 19 + 2 ^ 19 ≤ 2 * s.portCap)

/-- Every content rule, on the state that the image would give. -/
def State.contentOk (s : State) (x : Image) : Bool :=
  x.pairs.all pairOk && (x.record 0x0005).isSome && s.variantOk && s.torusOk && s.capacityOk && s.ownersOk && s.ch4Ok &&
    s.allotOk && s.creditsOk && s.buildOk && s.img.regions.all Region.ok && s.spillOk && s.placedOk

/-! ### Validation (R410) -/

/-- CAUSE of a slot and the image, where it passes. -/
def State.validate (s : State) (x : Slot) (kinds : Vector PortKind 6) : Nat × Option Image :=
  let h := s.flash.slotBytes x 32
  if s.flash.info.isNone || !headerOk h then (1, none)
  else match parseImage (s.flash.slotBytes x (leAt h 12 4)) with
    | none => (2, none)
    | some im =>
      if !im.digestOk then (3, none)
      else
        let c := im.signerCause s.fuses
        if c ≠ 0 then (c, none)
        else if !(s.withImage im kinds).contentOk im then (6, none)
        else (0, some im)

end Sys2Proof.Machine
end

