-- ==== Sys2Proof/Machine/Boot.lean ====
section
/-! DEFINITION. Resets and the boot sequence, safe configuration (R401 to R405, R410 to R412, R485). -/

namespace Sys2Proof.Machine
open Sys2Proof

def State.stage (s : State) : Nat := s.rf F.IMG_STAT.STAGE
def State.setBoot (s : State) (f : Boot → Boot) : State := { s with boot := f s.boot }
def State.setPwr (s : State) (f : Power → Power) : State := { s with pwr := f s.pwr }
/-- Counters of the lists that chapters 13 and 14 give. -/
def startCtr (i : Nat) : Nat := ctrSel 7 0 (0x60 + i)
def powerCtr (i : Nat) : Nat := ctrSel 7 0 (0x40 + i)

/-! ### Sessions end at a reset (R420) -/

def Sessions.get (x : Sessions) : Transport → Session
  | .i3c => x.i3c
  | .inband => x.inband
def State.setSes (s : State) (f : Sessions → Sessions) : State := { s with ses := f s.ses }
def State.setSession (s : State) (tr : Transport) (f : Session → Session) : State :=
  s.setSes (fun x => match tr with
    | .i3c => { x with i3c := f x.i3c }
    | .inband => { x with inband := f x.inband })

/-- What a transport keeps when its session closes: the count of failures and the lockout. -/
def Session.closed (x : Session) : Session := { fails := x.fails, lockEnd := x.lockEnd, lockPeriod := x.lockPeriod }

/-- Closes the session of a transport: EV229; its image lock is free. -/
def State.closeSession (s : State) (tr : Transport) : State :=
  if (s.ses.get tr).isOpen then
    let s1 := s.setSession tr Session.closed
    ({ s1 with flash := { s1.flash with lockBy := if s1.flash.lockBy = some tr then none else s1.flash.lockBy } } : State).raiseBare
      229 unitBoot
  else s.setSession tr (fun x => { x with chal := none })

/-! ### Resets (R401) -/

/-- Registers of the always-on domain. -/
def alwaysOn (off : Nat) : Bool :=
  [Reg.PWR_CTL, Reg.PWR_ALARM, Reg.PWR_VDDC_CFG, Reg.PWR_THERM_CFG, Reg.RTC_CTL, Reg.RTC_SET_LO, Reg.RTC_SET_HI].contains off

/-- The power and start-up counters of the device. -/
def keptCtr (sel : Nat) : Bool :=
  let i := sel / 16384
  sel % 16384 == 7 && ((decide (0x40 ≤ i) && decide (i ≤ 0x4A)) || (decide (0x60 ≤ i) && decide (i ≤ 0x6A)))

/-- The core loses its state: everything outside the always-on domain, the stores behind the ports and the flash. -/
def State.coreReset (s : State) : State :=
  let live := s.rg Reg.PWR_STAT &&& 0x700#32
  let r : State := { State.reset with
    pending := s.pending
    fuses := s.fuses
    regs := s.regs.filter (fun x => alwaysOn x.1)
    img := { ImageSetup.reset with trim := s.img.trim }
    flash := { bytes := s.flash.bytes, info := s.flash.info }
    mon := { log := s.mon.log, ctr := s.mon.ctr.filter (fun x => keptCtr x.1), seen := s.mon.seen.filter keptCtr }
    fine := s.fine
    coh := { Coh.reset with ddr := s.coh.ddr, sram := s.coh.sram }
    accAt := s.fine
    decayAt := s.fine
    ses := { i3c := s.ses.i3c.closed, inband := s.ses.inband.closed }
    cal := s.cal
    pwr := { Power.reset with vin := s.pwr.vin, vbak := s.pwr.vbak }
    sent := s.sent
    freeCtr := s.freeCtr }
  r.wr Reg.PWR_STAT live

/-- A draw of a free value. -/
def State.drawn (s : State) : State := { s with freeCtr := s.freeCtr + 1 }

/-- Both regulators are set to 0.80 V. -/
def State.startVddc (s : State) : State :=
  let s1 := ((s.emit (.pmbus false 0x21 (Config.startVout s.freeCtr))).drawn)
  let s2 := (s1.emit (.pmbus true 0x21 (Config.startVout s1.freeCtr))).drawn
  ((s2.setPwr (fun x => { x with command := Vector.replicate 2 800 })).setVmon 0 800).setVmon 1 800

/-- Steps 2 to 4 of Table 13.1. -/
def State.bootFrom2 (s : State) : State :=
  let s1 := (((s.closeSession .i3c).closeSession .inband).coreReset).count (startCtr 0)
  (s1.startVddc).wf F.IMG_STAT.STAGE 3

def State.discovered (s : State) (info : Option FlashInfo) : State := { s with flash := { s.flash with info := info } }

/-- Step 1: a log that was lost with VIN and VBAK is empty, which its first entry says (R400). -/
def State.checkLog (s : State) : State :=
  if s.mon.log.entries.isEmpty ∧ s.mon.log.wseq = 0 ∧ s.mon.log.cleared then s.raiseLog 11 unitRegs (formE s.mon.log) else s

/-- The whole sequence, up to the reading of slot A. -/
def State.powerUp (s : State) (info : Option FlashInfo) : State := ((s.discovered info).bootFrom2).checkLog

def opPowerOn (info : Option FlashInfo) (s : State) : State :=
  if (s.stage = 1 ∧ s.pwr.st = .run) ∨ s.pwr.st = .off then
    (s.setPwr (fun x => { x with vin := true })).powerUp info
  else s

/-- POWER_ON_RESET. -/
def execPowerOnReset (flash : Option FlashInfo) (s : State) : Host.Outcome State Fault Refusal := .next (opPowerOn flash s)

/-- A pin reset: ignored in FALLOW, KEEP and TRIP, and it waits for the main rails. -/
def opPinReset (info : Option FlashInfo) (s : State) : State :=
  if s.coreOn && !s.pwr.waitRails && s.pwr.railsGood then (s.discovered info).bootFrom2 else s

/-- PIN_RESET. -/
def execPinReset (flash : Option FlashInfo) (s : State) : Host.Outcome State Fault Refusal := .next (opPinReset flash s)

/-! ### Slots (R410, R411) -/

def allUnits : List LinkUnit := (fins 6).map LinkUnit.port ++ (fins 6).map LinkUnit.stile

/-- Step 7: the records of a slot that passed are applied; ports and links begin to train. -/
def State.applyImage (s : State) (x : Slot) (im : Image) (kinds : Vector PortKind 6) : State :=
  let s1 := s.withImage im kinds
  let s2 := (((s1.wf F.IMG_STAT.STAGE 6).wb F.IMG_STAT.SLOT (x == .b)).wb F.IMG_STAT.SIGNED im.signed).wr Reg.IMG_BUILD im.build
  let s3 := (s2.setPwr (fun p => { p with digest := keyOf im.digest })).setBoot (fun b => { b with meminit := im.meminit })
  allUnits.foldl State.startTraining (s3.imageMode (s3.rf F.GLB_PRM_MODE.REQ_MODE)).startRoot

/-- Safe configuration (R412): nothing but the management path. -/
def State.enterSafe (s : State) : State :=
  let s1 := if s.ses.i3c.level = 3 then s else s.closeSession .i3c
  let s2 := s1.closeSession .inband
  let r := s2.coreReset
  let tfail := fun (m : Nat) => s2.rg (Reg.MEM_STAT m) &&& 2#32
  let a := s2.rf F.IMG_STAT.CAUSE_A
  let b := s2.rf F.IMG_STAT.CAUSE_B
  let r1 : State := { r with
    mon := { r.mon with ev := { r.mon.ev with pend := s2.mon.ev.pend }, ctr := s2.mon.ctr, seen := s2.mon.seen }
    ses := { r.ses with i3c := s2.ses.i3c, i3cAddr := s2.ses.i3cAddr, ibiEnabled := s2.ses.ibiEnabled }
    flash := s2.flash
    prm := { r.prm with vmon := s2.prm.vmon }
    pwr := { r.pwr with command := s2.pwr.command } }
  let r2 := ((r1.wr (Reg.MEM_STAT 0) (tfail 0)).wr (Reg.MEM_STAT 1) (tfail 1)).wf F.IMG_STAT.STAGE 9
  let r3 := ((r2.wb F.IMG_STAT.SAFE true).wf F.IMG_STAT.CAUSE_A a).wf F.IMG_STAT.CAUSE_B b
  (r3.count (startCtr 2)).raiseLog 225 unitBoot (formA 0 reqNone 0 0 [a, b])

/-- Reports the failures of checks 3 and 4. -/
def State.slotFailed (s : State) (cause : Nat) : State :=
  if cause = 3 then s.raiseBare 226 unitBoot
  else if cause = 4 ∨ cause = 5 then s.raiseBare 227 unitBoot
  else s

/-- Reading and checking of the slot that the stage names ends. -/
def opSlotValidated (kinds : Vector PortKind 6) (s : State) : State :=
  let st := s.stage
  if !s.coreOn || (st != 3 && st != 4) then s
  else
    let x := if st = 3 then Slot.a else Slot.b
    let r := s.validate x kinds
    let s1 := (s.slotFailed r.1).wf (if st = 3 then F.IMG_STAT.CAUSE_A else F.IMG_STAT.CAUSE_B) r.1
    match r.2 with
    | some im =>
      let s2 := if st = 3 then s1 else (s1.count (startCtr 1)).raiseBare 224 unitBoot
      s2.applyImage x im kinds
    | none => if st = 3 then s1.wf F.IMG_STAT.STAGE 4 else s1.enterSafe

/-- SLOT_VALIDATED. -/
def execSlotValidated (kinds : Vector PortKind 6) (s : State) : Host.Outcome State Fault Refusal := .next (opSlotValidated kinds s)

/-! ### Training and RUN (R370, R402, R404, R405) -/

def State.memTrained (s : State) : Bool := s.rb (F.MEM_STAT.TRAINED 0) && s.rb (F.MEM_STAT.TRAINED 1)

/-- Training of a memory port ends (Table 13.2). -/
def opDdrTrained (m : MemNo) (ok : Bool) (s : State) : State :=
  if !s.coreOn || s.stage != 6 || s.pwr.st != .run || s.rb (F.MEM_STAT.TRAINED m) then s
  else if ok then
    let s1 := s.wb (F.MEM_STAT.TRAINED m) true
    if s1.memTrained && s.boot.meminit then s1.wf F.IMG_STAT.STAGE 7 else s1
  else
    let n := s.boot.tries.get m + 1
    let s1 := ((s.wb (F.MEM_STAT.TFAIL m) true).setBoot (fun b => { b with tries := vset b.tries m n })).raise 176 (unitMem m)
    if 2 ≤ n then s1.enterSafe else s1

/-- DDR5_TRAINING_DONE. -/
def execDdr5TrainingDone (m : MemNo) (ok : Bool) (s : State) : Host.Outcome State Fault Refusal := .next (opDdrTrained m ok s)

/-- Every populated line reads as zero with clear marks. -/
def opMeminit (s : State) : State :=
  if s.stage = 7 ∧ s.boot.meminit then
    (({ s with coh := { s.coh with ddr := Vector.replicate 2 [] } } : State).setBoot (fun b => { b with meminit := false })).wb
      F.IMG_STAT.MEMINIT true
  else s

/-- MEMINIT_DONE. -/
def execMeminitDone (s : State) : Host.Outcome State Fault Refusal := .next (opMeminit s)

/-- Delivery of events, admission and the Darner start (step 10). -/
def State.startRunning (s : State) : State :=
  let s1 := ((s.wf F.IMG_STAT.STAGE 8).setBoot (fun b => { b with running := true })).setEv (fun e => { e with delivering := true })
  { s1 with
    accAt := s.fine
    decayAt := s.fine
    prm := { s1.prm with breachFree := s.fine }
    dar := { s1.dar with dueAt := Vector.ofFn (fun (i : Fin 34) => s.fine + s.dueTime (decide (32 ≤ i.val))), winAt := Vector.replicate 10 s.fine } }

def opRunEntered (s : State) : State :=
  if s.coreOn && s.memTrained && !s.boot.meminit && (s.stage == 6 || s.stage == 7) && s.pwr.st == .run then s.startRunning else s

/-- RUN_ENTERED. -/
def execRunEntered (s : State) : Host.Outcome State Fault Refusal := .next (opRunEntered s)

end Sys2Proof.Machine
end

