-- ==== Sys2Proof/Machine/Calendar.lean ====
section
/-! DEFINITION. REST, the start and end of FALLOW, and the calendar clock that can end both (R423 to R425, R432 to R442). -/

namespace Sys2Proof.Machine
open Sys2Proof

/-! ### Power states (Tables 14.1 and 14.3) -/

/-- PWR_STAT.STATE of a state that can be read. -/
def PState.code : PState → Nat
  | .restEntry => 1
  | .rest => 2
  | .restExit => 3
  | .fallowEntry => 4
  | .wake => 5
  | _ => 0

def State.enter (s : State) (st : PState) : State := (s.setPwr (fun x => { x with st := st })).wf F.PWR_STAT.STATE st.code

/-! ### Commands to the core regulators (R450) -/

/-- EXP as a signed number. -/
def State.vexp (s : State) : Int := (BitVec.ofNat 5 (s.rf F.PWR_PMB_CFG.EXP)).toInt
/-- round(V × 2^−EXP) for a voltage in mV. -/
def voutWord (mv : Nat) (exp : Int) : BitVec 16 :=
  if exp ≤ 0 then BitVec.ofNat 16 ((2 * mv * 2 ^ exp.natAbs + 1000) / 2000)
  else BitVec.ofNat 16 ((2 * mv + 1000 * 2 ^ exp.natAbs) / (2000 * 2 ^ exp.natAbs))

/-- VOUT_COMMAND to a die's regulator, when the command changes. -/
def State.commandVddc (s : State) (d : Fin 2) (mv : Nat) : State :=
  if s.pwr.command.get d = mv then s
  else (s.setPwr (fun x => { x with command := vset x.command d mv })).emit (.pmbus (d == 1) 0x21 (voutWord mv s.vexp))

def State.commandBoth (s : State) (mv : Nat) : State := (s.commandVddc 0 mv).commandVddc 1 mv

/-! ### REST (Table 14.4) -/

/-- No accepted request of a port is under way. -/
def PortSt.quiet (x : PortSt) : Bool :=
  x.front.isEmpty && x.tags.all TagUse.ended && x.fences.isEmpty && x.points.isEmpty && x.pwq.depth == 0 && x.pwq.busy.isEmpty &&
    x.dreqQ.isEmpty && x.dreqOut.isEmpty && x.drill.issued.isEmpty && x.drill.out.isEmpty && x.ptu.walks.isEmpty

/-- No operation of the coherence engine is under way. -/
def Coh.quiet (c : Coh) : Bool :=
  c.wait.isEmpty && c.txns.isEmpty && c.nodeTx.isEmpty && c.homeTx.isEmpty && c.setRecalls.isEmpty && c.flows.isEmpty &&
    c.snoops.isEmpty && c.agentWbs.isEmpty && c.outTrks.isEmpty && c.memQ.toList.all List.isEmpty && c.cmiQ.toList.all List.isEmpty &&
    c.memVerify.toList.all List.isEmpty && c.cmiVerify.toList.all List.isEmpty && c.slotReports.isEmpty && c.memReports.isEmpty &&
    c.hamperWait.isEmpty && c.snpWait.isEmpty

/-- Every accepted request has completed. -/
def State.quiet (s : State) : Bool := s.ports.toList.all PortSt.quiet && s.coh.quiet && s.pwr.resowOut == 0

/-- A write of REST in RUN: no credit is released, and every OWNED Press entry is to drain. -/
def opRest (s : State) : State :=
  if s.boot.running && s.pwr.st == .run then
    ((s.wb F.PWR_CTL.REST true).enter .restEntry).runCoh (fun c =>
      { c with wake := true, press := c.press.map (fun (x : PressEntry) => { x with wanted := true }) })
  else s

/-- PWR_REST_WRITE. -/
def execPwrRestWrite (s : State) : Host.Outcome State Fault Refusal := .next (s.onReg opRest)

def mems : List MemNo := [0, 1]
/-- Self-refresh entry or exit of both memory ports. -/
def State.selfRefresh (s : State) (enter : Bool) : State := mems.foldl (fun s m => s.emit (.selfRefresh m enter)) s

/-- Step 5: VDDC goes back to the mode's target. -/
def State.restExit (s : State) (src : BitVec 3) : State :=
  ((s.enter .restExit).wf F.PWR_STAT.WAKE_SRC src.toNat).commandBoth (vddcTarget s.curMode)

/-- Steps 3 and 4; a cause met during entry ends REST at once. -/
def opRestEntered (s : State) : State :=
  if s.pwr.st == .restEntry && s.quiet && s.coh.press.isEmpty then
    let s1 := (((s.selfRefresh true).commandBoth 550).count (powerCtr 0)).raiseBare 192 unitPower
    let s2 := (s1.enter .rest).setPwr (fun x => { x with heldRest := none })
    match s.pwr.heldRest with
    | some c => s2.restExit c
    | none => s2
  else s

/-- REST_ENTERED. -/
def execRestEntered (s : State) : Host.Outcome State Fault Refusal := .next (opRestEntered s)

/-- WAKE_SRC code of an exit cause. -/
def restCode : RestCause → BitVec 3
  | .lane => 4
  | .wakeN => 1
  | .alarm => 2
  | .i3c => 5

/-- The cause is enabled (R436). -/
def State.restEnabled (s : State) : RestCause → Bool
  | .wakeN => s.rb F.PWR_CTL.WAKE_EN
  | .alarm => s.rb F.PWR_CTL.ALARM_EN
  | _ => true

def opRestCause (c : RestCause) (s : State) : State :=
  if !s.restEnabled c then s
  else match s.pwr.st with
    | .rest => s.restExit (restCode c)
    | .restEntry => s.setPwr (fun x => { x with heldRest := x.heldRest.orElse (fun _ => some (restCode c)) })
    | _ => s

/-- REST_EXIT_CAUSE. -/
def execRestExitCause (c : RestCause) (s : State) : Host.Outcome State Fault Refusal := .next (opRestCause c s)

/-- On-die VDDC is at the target and every island has a pace. -/
def State.restReady (s : State) : Bool :=
  s.prm.vmon.toList.all (fun v => decide (vddcTarget s.curMode ≤ v)) &&
    (List.range 34).all (fun i => (s.prm.mons.get (Fin.ofNat 36 i)).admNow != 0)

/-- Steps 6 and 7. -/
def opRestDone (s : State) : State :=
  if s.pwr.st == .restExit && s.restReady then
    let s1 := ((s.selfRefresh false).wb F.PWR_CTL.REST false).enter .run
    (allUnits.foldl State.enterRetrain s1).raiseBare 193 unitPower
  else s

/-- REST_EXIT_DONE. -/
def execRestExitDone (s : State) : Host.Outcome State Fault Refusal := .next (opRestDone s)

/-! ### FALLOW requests and wake sources (R438, R440, R441) -/

/-- CAUSE of a refusal, 0 where the request is accepted. -/
def State.fallowCause (s : State) : Nat :=
  if 1 < s.sizeOf 0 * s.sizeOf 1 * s.sizeOf 2 then 1
  else if s.pwr.st = .fallowEntry then 2
  else if !s.pwr.vin then 3
  else if s.pwr.st ≠ .run ∨ !s.boot.running then 4
  else 0

def State.fallow (s : State) : State :=
  if !s.coreOn then s
  else
    let c := s.fallowCause
    if c ≠ 0 then ((s.wb F.PWR_STAT.REFUSED true).wf F.PWR_STAT.CAUSE c).count (powerCtr 2)
    else (((s.enter .fallowEntry).setPwr (fun x => { x with step := 2 })).count (powerCtr 1)).raiseBare 194 unitPower

def opFallow (src : FallowSrc) (s : State) : State :=
  match src with
  | .slpN => if s.rb F.PWR_CTL.SLP_EN then s.fallow else s
  | .csr => s.onReg State.fallow
  | .session => s.onReg State.fallow

/-- FALLOW_REQUEST. -/
def execFallowRequest (src : FallowSrc) (s : State) : Host.Outcome State Fault Refusal := .next (opFallow src s)

/-- Steps 1 and 2 of Table 14.6. -/
def State.startWake (s : State) (src : BitVec 3) : State :=
  ((s.enter .wake).setPwr (fun x => { x with step := 3, heldWake := none })).wf F.PWR_STAT.WAKE_SRC src.toNat

/-- An enabled wake source: it ends FALLOW, or is held during entry. -/
def State.wakeSource (s : State) (src : BitVec 3) : State :=
  match s.pwr.st with
  | .fallow => s.startWake src
  | .fallowEntry => s.setPwr (fun x => { x with heldWake := x.heldWake.orElse (fun _ => some src) })
  | _ => s

def opWakeN (s : State) : State := if s.rb F.PWR_CTL.WAKE_EN then opRestCause .wakeN (s.wakeSource 1) else s

/-- WAKE_N_FALL. -/
def execWakeNFall (s : State) : Host.Outcome State Fault Refusal := .next (opWakeN s)

def opSlpN (falling : Bool) (s : State) : State :=
  if !s.rb F.PWR_CTL.SLP_EN then s
  else if falling then s.fallow
  else s.wakeSource 3

/-- SLP_N_EDGE. -/
def execSlpNEdge (falling : Bool) (s : State) : Host.Outcome State Fault Refusal := .next (opSlpN falling s)

/-! ### The calendar (R423 to R425) -/

def State.setCal (s : State) (f : Calendar → Calendar) : State := { s with cal := f s.cal }

/-- Calendar time after a tick: the value that LOAD holds, or INC more. -/
def Calendar.next (c : Calendar) : Calendar :=
  match c.load with
  | some v => { c with load := none, sec := v.toNat / 2 ^ 30, ns := v.toNat % 2 ^ 30, frac := 0 }
  | none =>
    let x := c.ns * 2 ^ 24 + c.frac + c.inc
    let n := x / 2 ^ 24
    { c with sec := (c.sec + n / 1000000000) % 2 ^ 34, ns := n % 1000000000, frac := x % 2 ^ 24 }

/-- The alarm ends REST or FALLOW. -/
def State.alarm (s : State) : State := if s.rb F.PWR_CTL.ALARM_EN then opRestCause .alarm (s.wakeSource 2) else s

def opCalTick (s : State) : State :=
  if s.pwr.st == .off then s
  else
    let due := (s.cal.next).sec % 2 ^ 32 == s.rf F.PWR_ALARM.SEC
    let s1 := s.setCal (fun c => { c.next with lastTick := s.fine, stopped := false, alarmed := due })
    if due && !s.cal.alarmed then s1.alarm else s1

/-- CALENDAR_TICK. -/
def execCalendarTick (s : State) : Host.Outcome State Fault Refusal := .next (opCalTick s)

/-- INC in 2^-24 ns for a temperature in quarter °C (R423). -/
def incFor (trim : List Int) (aging t : Int) : Nat :=
  let c := (max (-160) (min 500 t)) + 160
  let i := (c / 20).toNat
  let r := c % 20
  let e0 := trim.getD i 0
  let e1 := trim.getD (i + 1) 0
  (512000000000 - (5120 * aging + 5120 * e0 + 256 * (e1 - e0) * r)).toNat

def State.aging (s : State) : Int := (BitVec.ofNat 16 (s.rf F.RTC_CTL.AGING)).toInt

def opCalTrim (t : Int) (s : State) : State :=
  if s.pwr.st == .off then s else s.setCal (fun c => { c with inc := incFor s.img.trim s.aging t })

/-- CALENDAR_TRIM_UPDATE. -/
def execCalendarTrimUpdate (quarterC : Int) (s : State) : Host.Outcome State Fault Refusal := .next (opCalTrim quarterC s)

/-- No tick for 1 ms while VIN is present. -/
def opCrystal (s : State) : State :=
  if s.pwr.vin && !s.cal.stopped && decide (s.cal.lastTick + 1000000 ≤ s.fine) then
    ((s.setCal (fun c => { c with stopped := true })).wb F.RTC_CTL.FAULT true).raiseBare 236 unitTime
  else s

/-- CRYSTAL_FAULT. -/
def execCrystalFault (s : State) : Host.Outcome State Fault Refusal := .next (opCrystal s)

/-- LOAD takes RTC_SET_LO and RTC_SET_HI for the next tick. -/
def opRtcLoad (s : State) : State :=
  s.setCal (fun c => { c with load := some (s.rg Reg.RTC_SET_HI ++ s.rg Reg.RTC_SET_LO) })

/-- RTC_LOAD. -/
def execRtcLoad (s : State) : Host.Outcome State Fault Refusal := .next (s.onCore opRtcLoad)

end Sys2Proof.Machine
end

