-- ==== Sys2Proof/Machine/Drill.lean ====
section
/-! DEFINITION. Stream prefetch: training, issue, the throttle's accuracy cap, and the contention predictor's decay
(R162 to R188, R221). -/

namespace Sys2Proof.Machine
open Sys2Proof

def State.drill (s : State) (p : Port) : DrillSt := (s.port p).drill
def State.setDrill (s : State) (p : Port) (f : DrillSt → DrillSt) : State := s.setPort p (fun x => { x with drill := f x.drill })
def drlCtr (p : Port) (i : Nat) : Nat := ctrSel 2 p i

/-- eff_max (R178). -/
def State.effMax (s : State) (p : Port) : Nat :=
  min (min (max 1 (s.rf (F.DRL_CFG.MAX_DIST p))) (s.rf F.DRL_ACC.CAP)) (if s.curMode = 2 then 8 else 16)
def State.confOn (s : State) (p : Port) : Nat := max 1 (s.rf (F.DRL_CFG.CONF_ON p))
def State.startDist (s : State) (p : Port) : Nat := min 16 (max 1 (s.rf (F.DRL_CFG.START p)))
def State.drillRamp (s : State) (p : Port) : Nat := max 1 (s.rf (F.DRL_CFG.RAMP p))
def State.drillWindow (s : State) (p : Port) : Nat := min 32 (max 1 (s.rf (F.DRL_CFG2.WINDOW p)))

/-- The Drill of the port trains and issues (R185, R187). -/
def State.drilling (s : State) (p : Port) : Bool := s.accepts p && s.rb (F.DRL_CFG.EN p)

/-! ### Training (R164, R165) -/

/-- Table-less pseudo-code of R164 for the tracker that matches. -/
def StreamTracker.train (t : StreamTracker) (l confOn start ramp eff : Nat) : StreamTracker :=
  let d : Int := (l : Int) - t.last
  let t1 : StreamTracker :=
    match t.stride with
    | none => { t with stride := some d, conf := 1 }
    | some x =>
      if d = x then
        let conf := min (t.conf + 1) 7
        { t with conf := conf,
                 dist := if conf = confOn then start else if confOn < conf then min (t.dist + ramp) eff else t.dist }
      else if 2 ≤ t.conf then
        { t with conf := t.conf - 2, dist := if confOn ≤ t.conf - 2 then start else 0 }
      else { t with stride := some d, conf := 1, dist := 0 }
  { t1 with ahead := if t1.stride = some d then t1.ahead - 1 else 0, last := l, dist := min t1.dist eff }

/-- A pending line that LAST has reached or passed (R170). -/
def StreamTracker.overtaken (t : StreamTracker) (q : PendLine) : Bool :=
  match t.stride with
  | some x => decide ((q.addr - t.last) * x.sign ≤ 0)
  | none => false

/-- Size of a bound block in lines, none without a bound. -/
def boundLines (b : Nat) : Option Nat := match b with | 0 => some 32 | 1 => some 512 | 2 => some 16384 | _ => none

/-- A line that the Drill may fetch (R168), by its system address: memory space within the populated memory as far as this node knows
it, policy, home. -/
def State.fetchable (s : State) (p : Port) (sa : SysAddr) : Bool :=
  spaceOf sa == .memory && !s.addrBad sa && decide ((s.policyOf sa).toNat ≤ 3) &&
    (nodeOf sa == s.node || s.rb (F.DRL_CFG.REMOTE p))

/-- The line may become pending, by the address that the tracker trains on; on a non-caching port the system address is
tested after translation. -/
def State.mayPend (s : State) (p : Port) (last : Nat) (a : Int) : Bool :=
  decide (0 ≤ a) && s.rf (F.AGP_WAY01.P1_MASK p) != 0 &&
    (match boundLines (s.rf (F.DRL_CFG.BOUND p)) with
     | some n => a.toNat / n == last / n
     | none => true) &&
    (if s.caching p then
       decide (a.toNat < 2 ^ 45) && a.toNat / 2 ^ 36 == last / 2 ^ 36 && s.fetchable p (saOf (BitVec.ofNat 45 a.toNat))
     else decide (a.toNat < 2 ^ 41))

/-- Makes lines pending from AHEAD + 1 on (R168). -/
def State.makePending (s : State) (p : Port) (stamp : Nat) (x : Int) : Nat → StreamTracker → StreamTracker
  | 0, t => t
  | n + 1, t =>
    let k := t.ahead + 1
    let a := (t.last : Int) + k * x
    if k * x.natAbs ≤ t.dist ∧ s.mayPend p t.last a then
      s.makePending p stamp x n { t with ahead := k, pend := t.pend ++ [{ addr := a, made := stamp }] }
    else t

/-- Of the trackers that satisfy a test, the one matched last, or first. -/
def pickTracker (v : Vector (Option StreamTracker) 64) (sel : StreamTracker → Bool) (latest : Bool) : Option (Fin 64) :=
  (fins 64).foldl (fun (b : Option (Fin 64)) i =>
    match v.get i with
    | none => b
    | some t =>
      if !sel t then b
      else match b.bind v.get with
        | none => some i
        | some u => if latest = decide (u.order < t.order) then some i else b) none

/-- allocate() of R165: the tracker, and whether one is displaced. -/
def State.allocTracker (s : State) (p : Port) : Fin 64 × Bool :=
  let v := (s.drill p).trackers
  match (fins 64).find? (fun i => (v.get i).isNone) with
  | some i => (i, false)
  | none =>
    match pickTracker v (fun t => decide (t.conf < s.confOn p)) false with
    | some i => (i, true)
    | none => ((pickTracker v (fun _ => true) false).getD 0, true)

/-- A training access to a line of the address space that the port trains on. -/
def State.train (s : State) (p : Port) (l : Nat) : State :=
  if !s.drilling p then s
  else
    let s := s.count (drlCtr p 0x10)
    let x := s.drill p
    let dist := fun (t : StreamTracker) => ((l : Int) - t.last).natAbs
    match pickTracker x.trackers (fun t => decide (1 ≤ dist t) && decide (dist t ≤ s.drillWindow p)) true with
    | none =>
      if (fins 64).any (fun i => match x.trackers.get i with | some t => t.last == l | none => false) then s
      else
        let a := s.allocTracker p
        let t : StreamTracker := { last := l, stride := none, conf := 0, dist := 0, ahead := 0, matched := s.fine, order := x.clock, pend := [] }
        let s1 := (s.setDrill p (fun x => { x with trackers := vset x.trackers a.1 (some t), clock := x.clock + 1 })).count (drlCtr p 0x11)
        if a.2 then s1.count (drlCtr p 0x12) else s1
    | some i =>
      match x.trackers.get i with
      | none => s
      | some t0 =>
        let t1 := t0.train l (s.confOn p) (s.startDist p) (s.drillRamp p) (s.effMax p)
        let t2 := { t1 with matched := s.fine, order := x.clock, pend := t1.pend.filter (fun q => !t1.overtaken q) }
        let t3 := match t2.stride with
          | some st => if s.confOn p ≤ t2.conf then s.makePending p x.clock st 17 t2 else t2
          | none => t2
        s.setDrill p (fun x => { x with trackers := vset x.trackers i (some t3), clock := x.clock + 1 })

/-! ### Issue (R169 to R171, R179 to R181) -/

def State.setTracker (s : State) (p : Port) (i : Fin 64) (f : StreamTracker → StreamTracker) : State :=
  s.setDrill p (fun x => { x with trackers := vmod x.trackers i (fun t => t.map f) })

/-- The head of a tracker's pending lines leaves. -/
def State.popPend (s : State) (p : Port) (i : Fin 64) : State := s.setTracker p i (fun t => { t with pend := t.pend.drop 1 })

/-- The tracker stops at its oldest pending line (R168): the lines from there on are not pending, and AHEAD ends before it. -/
def StreamTracker.stop (t : StreamTracker) : StreamTracker :=
  match t.pend, t.stride with
  | q :: _, some x => { t with pend := [], ahead := ((q.addr - t.last) / x).toNat - 1 }
  | _, _ => { t with pend := [] }

/-- The system address that a port address has, as far as the port knows it without a walk. -/
def State.knownAddr (s : State) (p : Port) (addr : BitVec 52) : Option SysAddr :=
  if s.caching p then some addr
  else
    let pa : PortAddr := addr.setWidth 48
    if s.translated p then
      ((s.ptu p).find pa).bind (fun i =>
        let t := (s.ptu p).tlb.get i
        if t.good then some (t.translate pa) else none)
    else some (BitVec.ofNat 9 s.node ++ pa.setWidth 43)

/-- On a non-caching port R168 is tested after translation: the line may be fetched and lies in the node that LAST's address names,
where the TLB still knows it. -/
def State.mayIssueLine (s : State) (p : Port) (i : Fin 64) (sa : SysAddr) : Bool :=
  s.caching p ||
    (s.fetchable p sa &&
      (match ((s.drill p).trackers.get i).bind (fun t => s.knownAddr p (BitVec.ofNat 52 (t.last * 128))) with
       | some x => nodeOf x == nodeOf sa
       | none => true))

/-- The translated line is issued where it may be: none where it waits for a credit or for room. -/
def State.issueLine (s : State) (p : Port) (i : Fin 64) (sa : SysAddr) : Option State :=
  let l := lineOf sa
  let out := fun (remote ceiling : Bool) (s : State) =>
    (s.popPend p i).setDrill p (fun x => { x with
      issued := x.issued ++ [l]
      out := x.out ++ [{ line := l, since := s.fine, remote := remote, ceiling := ceiling }] })
  if !s.mayIssueLine p i sa then some (s.setTracker p i StreamTracker.stop)
  else if nodeOf sa ≠ s.node then
    if ((s.drill p).out.filter PfOut.remote).length < s.rf (F.DRL_CFG2.REMOTE_MAX p) then
      some ((out true true s).count (drlCtr p 0x14))
    else none
  else if s.rf (F.DRL_CFG2.CRD p) = 0 then none
  else
    match takeFirst (fun (c : Credit) => c.kind == .drill && c.ch.toNat == (s.chanOfLine l).val) (s.port p).credits with
    | none => none
    | some (c, rest) =>
      let s1 := (out false (!c.promise) (s.setPort p (fun x => { x with credits := rest }))).count (drlCtr p 0x13)
      let q : Promise := { id := .device (dieOfPort p) (deviceId l p), p1 := true,
                           deadline := some (deadlineAt (s.fine + boundNs 1 true c.mode.toNat 2)), issued := s.fine,
                           floor := c.floor, mode := c.mode.toNat, remote := false, overrun := false }
      some (if c.promise then { s1 with prm := { s1.prm with inFlight := s1.prm.inFlight ++ [q] } } else s1)

/-- The oldest pending line of a tracker waits for a walk of its page in the context. -/
def State.awaitWalk (s : State) (p : Port) (i : Fin 64) : State :=
  let ctx := (s.ptu p).ctx
  s.setTracker p i (fun t => { t with pend := match t.pend with
    | h :: rest => { h with walk := some ctx } :: rest
    | [] => [] })

/-- A demand miss of the port waits for a walker (R293). -/
def State.missWaits (s : State) (p : Port) : Bool :=
  (s.port p).front.any (fun f => match f.tr with
    | .wait ctx => !(s.ptu p).walking ctx (f.req.addr.setWidth 48)
    | _ => false)

/-- A pending line misses in the TLB (R179, R181, R293): discarded with WALK 0; it joins a walk of its page, or starts the prefetch
walk once the port has none in flight and no demand miss waits for a walker. -/
def State.prefetchMiss (s : State) (p : Port) (i : Fin 64) (pa : PortAddr) : Option State :=
  if !s.rb (F.DRL_CFG.WALK p) then some ((s.popPend p i).count (drlCtr p 0x17))
  else if (s.ptu p).walking (s.ptu p).ctx pa then some (s.awaitWalk p i)
  else if (s.ptu p).prefetch.isSome || s.missWaits p then none
  else some ((s.awaitWalk p i).startWalk p .prefetch pa)

/-- What can be done with the oldest pending line of a tracker now; none where it waits. -/
def State.tryIssue (s : State) (p : Port) (i : Fin 64) : Option State :=
  match ((s.drill p).trackers.get i).bind (fun t => t.pend.head?) with
  | none => none
  | some q =>
    if q.walk.isSome then none
    else match q.sa with
      | some sa => s.issueLine p i sa
      | none =>
        if s.caching p then s.issueLine p i (saOf (BitVec.ofNat 45 q.addr.toNat))
        else if !s.translated p then s.issueLine p i (BitVec.ofNat 9 s.node ++ BitVec.ofNat 43 (q.addr.toNat * 128))
        else
          let r := s.lookup p q.pa
          match r.1 with
          | some t =>
            match r.2.checkEntry p t 0 q.pa with
            | .ready sa _ => r.2.issueLine p i sa
            | _ => some ((r.2.popPend p i).count (drlCtr p 0x17))
          | none => r.2.prefetchMiss p i q.pa

/-- Trackers with a pending line, the one whose oldest line was made pending first in front. -/
def State.issueOrder (s : State) (p : Port) : List (Fin 64) :=
  let made := fun (i : Fin 64) => (((s.drill p).trackers.get i).bind (fun t => t.pend.head?)).elim 0 PendLine.made
  ((fins 64).filter (fun i => (((s.drill p).trackers.get i).bind (fun t => t.pend.head?)).isSome)).insertionSort
    (fun i j => made i ≤ made j)

def opDrillIssue (p : Port) (s : State) : State :=
  if !s.drilling p || !s.boot.running || s.pwr.st != .run then s
  else ((s.issueOrder p).findSome? (fun i => s.tryIssue p i)).getD s

/-- The oldest issued prefetch reaches its slice (R182). -/
def opPrefetchPass (p : Port) (s : State) : State :=
  match (s.drill p).issued with
  | [] => s
  | l :: rest =>
    let here := lineHome l == s.node
    ((s.crossItem (.port p) (.slice (sliceOf l)) 0 (if here then 1 else 2) none).setDrill p (fun x => { x with issued := rest })).arriveReq
      { src := .drill p, op := .prefetch, line := l, cls := if here then 1 else 2, resv := here, bounded := here }

/-- PREFETCH_PASS. -/
def execPrefetchPass (p : Port) (s : State) : Host.Outcome State Fault Refusal := .next (opPrefetchPass p s)

/-! ### Trackers, cap and registers -/

/-- R166. -/
def opTrackerIdle (p : Port) (i : Fin 64) (s : State) : State :=
  match (s.drill p).trackers.get i with
  | some t =>
    if t.matched + max 1 (s.rf (F.DRL_CFG2.IDLE p)) * 256 < s.fine then
      s.setDrill p (fun x => { x with trackers := vset x.trackers i none })
    else s
  | none => s

/-- DRILL_TRACKER_IDLE. -/
def execDrillTrackerIdle (p : Port) (i : Fin 64) (s : State) : Host.Outcome State Fault Refusal := .next (opTrackerIdle p i s)

/-- CAP takes a value; EV071 where it falls, EV072 where it rises. -/
def State.setCap (s : State) (cap : Nat) : State :=
  let old := s.rf F.DRL_ACC.CAP
  let s1 := s.wf F.DRL_ACC.CAP cap
  if cap < old then s1.raise 71 (unitHub 0) else if old < cap then s1.raise 72 (unitHub 0) else s1

/-- The cap of R177 after an interval with U useful and V unused prefetches. -/
def nextCap (accEn : Bool) (cap u v mn : Nat) : Nat :=
  if !accEn then 16
  else if mn ≤ v ∧ u < v then max (cap / 2) 2
  else if v < mn ∨ 3 * v ≤ u then min (cap * 2) 16
  else cap

def opAccInterval (s : State) : State :=
  if s.fine < s.accAt + max 1 (s.rf F.DRL_ACC.INTERVAL) * 1000 then s
  else
    ({ s with accU := 0, accV := 0, accAt := s.fine } : State).setCap
      (nextCap (s.rb F.DRL_ACC.ACC_EN) (s.rf F.DRL_ACC.CAP) s.accU s.accV (s.rf F.DRL_ACC.MIN))

/-- DRILL_ACCURACY_INTERVAL. -/
def execDrillAccuracyInterval (s : State) : Host.Outcome State Fault Refusal := .next (opAccInterval s)

/-- R185: trackers are freed and unspent prefetch credits go back. -/
def State.stopDrill (s : State) (p : Port) : State :=
  s.setPort p (fun x => { x with
    credits := x.credits.filter (fun c => c.kind != .drill)
    drill := { x.drill with trackers := Vector.replicate 64 none } })

def opDrlCfg (p : Port) (v : Word) (s : State) : State :=
  let s1 := s.wrRw (Reg.DRL_CFG p) v
  if bit v 0 then s1 else s1.stopDrill p

/-- DRL_CFG2 as a register: a pool holds at most CRD prefetch credits (R172), and those above go back. -/
def opDrlCfg2 (p : Port) (v : Word) (s : State) : State :=
  let s1 := s.wrRw (Reg.DRL_CFG2 p) v
  let keep := fun (c : Credit) (l : List Credit) =>
    c.kind != .drill || decide ((l.filter (fun x => x.kind == .drill && x.ch == c.ch)).length < s1.rf (F.DRL_CFG2.CRD p))
  s1.setPort p (fun x => { x with credits := x.credits.foldl (fun l c => if keep c l then l ++ [c] else l) [] })

/-- DRL_CFG_WRITE. -/
def execDrlCfgWrite (p : Port) (v : Word) (s : State) : Host.Outcome State Fault Refusal := .next (s.onReg (opDrlCfg p v))

def opDrlAcc (v : Word) (s : State) : State :=
  let s1 := ((s.wf F.DRL_ACC.INTERVAL (fld v 0 8)).wf F.DRL_ACC.MIN (fld v 8 8)).wb F.DRL_ACC.ACC_EN (bit v 21)
  if bit v 21 then s1 else s1.setCap 16

/-- DRL_ACC_WRITE. -/
def execDrlAccWrite (v : Word) (s : State) : Host.Outcome State Fault Refusal := .next (s.onReg (opDrlAcc v))

/-- Every DECAY µs every count of the contention predictor falls by 1 (R221). -/
def opDecay (s : State) : State :=
  let d := s.rf F.GLB_ATOM_CFG.DECAY
  if d = 0 ∨ s.fine < s.decayAt + d * 1000 then s
  else
    { s with decayAt := s.fine
             coh := { s.coh with hot := s.coh.hot.map (fun x => (x.1, x.2.1, x.2.2 - 1)) } }

/-- CONTENTION_DECAY. -/
def execContentionDecay (s : State) : Host.Outcome State Fault Refusal := .next (opDecay s)

end Sys2Proof.Machine
end

