-- ==== Sys2Proof/Machine/Mnt.lean ====
section
/-! DEFINITION. Maintenance operations of the registers (R150 to R152), drains of ways and channels (R157 to R161). -/

namespace Sys2Proof.Machine
open Sys2Proof

/-- Operations of GLB_MNT_CTL. -/
def mntOp (op : BitVec 2) : ReqOp := if op = 0 then .clean else if op = 1 then .flush else .inval

/-- FALLOW entry refuses new register operations from step 2 on (Table 14.5). -/
def State.refusing (s : State) : Bool := s.pwr.st == .fallowEntry

def State.mntErr (s : State) (code : Nat) : State :=
  ((s.wf F.GLB_MNT_STAT.ERR_CODE code).wb F.GLB_MNT_STAT.ERR true).raise 67 unitRegs

def State.mntDone (s : State) : State :=
  ((s.wb F.GLB_MNT_STAT.BUSY false).wb F.GLB_MNT_STAT.DONE true).raise 66 unitRegs

/-! ### By set and way (R151, Table 4.5) -/

/-- Acts on a slot, in a pass that reads its row (R99); none where it waits. -/
def Coh.mntSlot (c : Coh) (e : State) (op : BitVec 2) (k : Nat) : Option Coh :=
  let c := c.checkRow (slotSlice k) (slotSet k)
  let t := c.tag k
  let s := slotSlice k
  let l := c.slotLineAddr e k
  if e.isSpill k || t.st == tI || t.st == tT then some c
  else if t.st == tF || c.lockedLine l || c.drainingInto l then none
  else
    let c := c.sctr s 0x18
    let drop := fun (c : Coh) =>
      (if t.pf then (c.sctr s 7).emit (.prefetchUse false) else c).freeTag k |>.woken
    if isMod t.st then
      if op = 2 then some (drop c)
      else if c.hamperFull s then none
      else
        let rd := c.readSlot e k
        let h : HamperEntry := { line := l, cl := rd.1, st := t.st, copy := op == 0,
                                 keepSt := if e.isHome l then 0 else keptState t.st }
        let c1 := if op = 0 then rd.2.setTag k (fun t => { t with st := if t.st = tM then tE else tS }) else drop rd.2
        some (({ c1 with hamper := c1.hamper ++ [h] } : Coh).sctr s 0x15)
    else some (if op = 0 then c else drop c)

/-- Visits the sets of a set-and-way operation in order until one waits. -/
def mntSweep (s : State) (sl way : Nat) (op : BitVec 2) : List Nat → Coh → List Nat × Coh
  | [], c => ([], c)
  | set :: t, c =>
    match c.mntSlot s op (slotKey sl set way) with
    | some c1 => mntSweep s sl way op t c1
    | none => (set :: t, c)

def State.mntSets (s : State) : State :=
  let m := s.mnt
  let rest := (mntSweep s m.slice m.way m.op m.sets s.coh).1
  let s1 := s.runCoh (fun c => (mntSweep s m.slice m.way m.op m.sets c).2)
  { s1 with mnt := { s1.mnt with sets := rest } }

/-! ### START and completion -/

/-- Memory space above the populated top of its node. Of another node this node knows only that it has at most 256 GiB (Table 1.6). -/
def State.abovePopulated (s : State) (sa : SysAddr) : Bool :=
  if nodeOf sa = s.node then s.aboveTop sa else decide (2 ^ 38 ≤ (sa.extractLsb' 0 42).toNat)

/-- The first and the last line of a range lie in the populated memory of one node (R150). -/
def State.rangeOk (s : State) (first lines : Nat) : Bool :=
  let last := first + lines - 1
  let a := saOf (BitVec.ofNat 45 first)
  let b := saOf (BitVec.ofNat 45 last)
  decide (last < 2 ^ 45) && nodeOf a == nodeOf b && spaceOf a == .memory && spaceOf b == .memory && s.inFabric (nodeOf a) &&
    !s.abovePopulated b

/-- A write of GLB_MNT_CTL with START. -/
def State.mntStart (s : State) (op : BitVec 2) (sw : Bool) (key : Nat) : State :=
  let s := (s.wf F.GLB_MNT_CTL.OP op.toNat).wb F.GLB_MNT_CTL.SW sw
  if s.rb F.GLB_MNT_STAT.BUSY || s.refusing then (s.wb F.GLB_MNT_STAT.REFUSED true).raise 67 unitRegs
  else if op = 3 then s.mntErr 2
  else if sw then
    let all := bit (s.rg Reg.GLB_MNT_SW) 31
    let set := s.rf F.GLB_MNT_SW.SET
    if s.sets ≤ set then s.mntErr 4
    else
      let m : Maint := { op := op, sw := true, slice := s.rf F.GLB_MNT_SW.SLICE, way := s.rf F.GLB_MNT_SW.WAY,
                         sets := if all then List.range s.sets else [set] }
      let s1 := ({ s with mnt := m } : State).wb F.GLB_MNT_STAT.BUSY true
      s1.mntSets
  else if op = 2 ∧ key ≠ 0xA5 then s.mntErr 3
  else
    let n := s.rf F.GLB_MNT_LEN.LINES
    let first := s.rf F.GLB_MNT_ADDR_HI.SA_HI * 2 ^ 25 + s.rf F.GLB_MNT_ADDR_LO.SA_LO
    if n = 0 then s.mntDone
    else if !s.rangeOk first n then s.mntErr 1
    else ({ s with mnt := { op := op, next := first, left := n } } : State).wb F.GLB_MNT_STAT.BUSY true

def opMntCleanAddr (s : State) : State := s.mntStart 0 false 0
def opMntFlushAddr (s : State) : State := s.mntStart 1 false 0
def opMntInvalAddr (key : Byte) (s : State) : State := s.mntStart 2 false key.toNat
def opMntCleanSw (s : State) : State := s.mntStart 0 true 0
def opMntFlushSw (s : State) : State := s.mntStart 1 true 0
def opMntInvalSw (s : State) : State := s.mntStart 2 true 0

/-- The next line of a range goes to its slice, with at most 4 items in flight there (R150). -/
def opMntIssue (s : State) : State :=
  let m := s.mnt
  let l : LineAddr := BitVec.ofNat 45 m.next
  let there := (m.inFlight.filter (fun x => sliceOf x == sliceOf l)).length
  if s.rb F.GLB_MNT_STAT.BUSY && !m.sw && decide (0 < m.left) && decide (there < 4) then
    ({ s with mnt := { m with next := m.next + 1, left := m.left - 1, inFlight := m.inFlight ++ [l] } } : State).arriveReq
      { src := .mnt, op := mntOp m.op, line := l, cls := 1 }
  else s

/-- The operation ends when every line, or every set, is done. -/
def opMntComplete (s : State) : State :=
  if !s.rb F.GLB_MNT_STAT.BUSY then s
  else
    let s1 := if s.mnt.sw then s.mntSets else s
    if s1.mnt.left = 0 ∧ s1.mnt.inFlight = [] ∧ s1.mnt.sets = [] then s1.mntDone else s1

/-- MNT_CLEAN_ADDR. -/
def execMntCleanAddr (s : State) : Host.Outcome State Fault Refusal := .next (s.onReg opMntCleanAddr)
/-- MNT_FLUSH_ADDR. -/
def execMntFlushAddr (s : State) : Host.Outcome State Fault Refusal := .next (s.onReg opMntFlushAddr)
/-- MNT_INVAL_ADDR. -/
def execMntInvalAddr (key : Byte) (s : State) : Host.Outcome State Fault Refusal := .next (s.onReg (opMntInvalAddr key))
/-- MNT_CLEAN_SW. -/
def execMntCleanSw (s : State) : Host.Outcome State Fault Refusal := .next (s.onReg opMntCleanSw)
/-- MNT_FLUSH_SW. -/
def execMntFlushSw (s : State) : Host.Outcome State Fault Refusal := .next (s.onReg opMntFlushSw)
/-- MNT_INVAL_SW. -/
def execMntInvalSw (s : State) : Host.Outcome State Fault Refusal := .next (s.onReg opMntInvalSw)
/-- MNT_RANGE_LINE_ISSUE. -/
def execMntRangeLineIssue (s : State) : Host.Outcome State Fault Refusal := .next (opMntIssue s)
/-- MNT_COMPLETE. -/
def execMntComplete (s : State) : Host.Outcome State Fault Refusal := .next (opMntComplete s)

/-! ### Ways (Table 4.6) -/

def State.setDraining (s : State) (sl way : Nat) (b : Bool) : State :=
  s.wr (Reg.SLC_WAY_STAT sl) (setFld (s.rg (Reg.SLC_WAY_STAT sl)) way 1 b.toNat)

/-- One bit of SLC_WAY_EN. -/
def State.wayWrite (s : State) (sl : SliceNo) (way : Fin 16) (on : Bool) : State :=
  let was := bit (s.rg (Reg.SLC_WAY_EN sl)) way
  let mine := fun (d : WayDrain) => !d.chan && d.slice == sl && d.way == way
  if was && !on then
    if s.refusing then s
    else
      (({ s with drains := s.drains ++ [{ slice := sl, way := way, next := 0, lines := [], chan := false }] } : State).wr
        (Reg.SLC_WAY_EN sl) (setFld (s.rg (Reg.SLC_WAY_EN sl)) way 1 0)).setDraining sl way true
  else if !was && on then
    (({ s with drains := s.drains.filter (fun d => !mine d) } : State).wr (Reg.SLC_WAY_EN sl)
      (setFld (s.rg (Reg.SLC_WAY_EN sl)) way 1 1)).setDraining sl way false
  else s

def opWayEn (sl : SliceNo) (v : Word) (s : State) : State :=
  (fins 16).foldl (fun s w => s.wayWrite sl w (bit v w)) s

/-- The walk of a way visits its next set; it waits for a fill, for a holder of the line, or for a Hamper entry. -/
def Coh.drainVisit (c : Coh) (e : State) (d : WayDrain) : Option (Coh × WayDrain) :=
  let k := slotKey d.slice d.next d.way
  let c := c.checkRow d.slice d.next
  let t := c.tag k
  let l := c.slotLineAddr e k
  let on := { d with next := d.next + 1 }
  if e.sets ≤ d.next then none
  else if e.isSpill k || t.st == tI || t.st == tT then some (c, on)
  else if t.st == tF || c.lockedLine l || c.drainingInto l || (isMod t.st && c.hamperFull d.slice) then none
  else some ((c.evictSlot e k true).woken, if isMod t.st then { on with lines := d.lines ++ [l] } else on)

def isDrain (sl : SliceNo) (way : Fin 16) (d : WayDrain) : Bool := d.slice == sl && d.way == way

def opWayVisit (sl : SliceNo) (way : Fin 16) (s : State) : State :=
  match s.drains.find? (fun d => isDrain sl way d && decide (d.next < s.sets)) with
  | none => s
  | some d =>
    match s.coh.drainVisit s d with
    | none => s
    | some r =>
      let s1 := s.runCoh (fun c => match c.drainVisit s d with | some r => r.1 | none => c)
      { s1 with drains := modFirst (fun x => x == d) (fun _ => r.2) s1.drains }

/-- Every set is visited and every Hamper entry of the walk is free. -/
def State.drainEnded (s : State) (d : WayDrain) : Bool :=
  decide (s.sets ≤ d.next) && !s.coh.hamper.any (fun h => h.walk && d.lines.contains h.line)

def opWayDone (sl : SliceNo) (way : Fin 16) (s : State) : State :=
  match s.drains.find? (fun d => isDrain sl way d && !d.chan) with
  | some d =>
    if s.drainEnded d then
      ((({ s with drains := s.drains.erase d } : State).setDraining sl way false).wb (F.SLC_WAY_STAT.DONE sl) true).raise 68 sl
    else s
  | none => s

/-- SLC_WAY_EN_WRITE. -/
def execSlcWayEnWrite (sl : SliceNo) (v : Word) (s : State) : Host.Outcome State Fault Refusal := .next (s.onReg (opWayEn sl v))
/-- WAY_DRAIN_VISIT. -/
def execWayDrainVisit (sl : SliceNo) (way : Fin 16) (s : State) : Host.Outcome State Fault Refusal := .next (opWayVisit sl way s)
/-- WAY_DRAIN_DONE. -/
def execWayDrainDone (sl : SliceNo) (way : Fin 16) (s : State) : Host.Outcome State Fault Refusal := .next (opWayDone sl way s)

/-! ### Channels (Table 4.7, R161, R367) -/

/-- A write of CMI_CTL. A channel that the build does not populate is not enabled; one that still drains is retrained when the drain
has ended. -/
def opCmiCtl (ch : ChanNo) (v : Word) (s : State) : State :=
  let s := if bit v 2 then s.wb (F.CMI_CTL.REFUSED ch) false else s
  let en := s.rb (F.CMI_CTL.EN ch)
  if en && !bit v 0 then
    if s.rf F.GLB_SPILL_CFG.SIZE_MIB ≠ 0 || s.refusing then (s.wb (F.CMI_CTL.REFUSED ch) true).raise 70 (unitChan ch)
    else if s.rb (F.CMI_CTL.DRAINING ch) then s.wb (F.CMI_CTL.EN ch) false
    else
      let ds : List WayDrain := (s.slicesOf ch).flatMap (fun sl =>
        (fins 16).map (fun w => { slice := sl, way := w, next := 0, lines := [], chan := true }))
      ((({ s with drains := s.drains ++ ds } : State).wb (F.CMI_CTL.EN ch) false).wb (F.CMI_STAT.TRAINED ch) false).wb
        (F.CMI_CTL.DRAINING ch) true
  else if !en && bit v 0 && s.channels.contains ch then s.wb (F.CMI_CTL.EN ch) true
  else s

/-- The walks have ended and the queues are empty. -/
def opChannelDone (ch : ChanNo) (s : State) : State :=
  let mine := fun (d : WayDrain) => d.chan && s.chan d.slice.val == ch
  if s.rb (F.CMI_CTL.DRAINING ch) && (s.drains.filter mine).all s.drainEnded && (s.coh.cmiQ.get ch).isEmpty &&
      (s.coh.cmiVerify.get ch).isEmpty then
    (({ s with drains := s.drains.filter (fun d => !mine d) } : State).wb (F.CMI_CTL.DRAINING ch) false).raise 69 (unitChan ch)
  else s

/-- Training of an enabled channel ends (Table 4.7, R367). -/
def opCmiTrained (ch : ChanNo) (ok : Bool) (s : State) : State :=
  if s.rb (F.CMI_CTL.EN ch) && !s.rb (F.CMI_STAT.TRAINED ch) && !s.rb (F.CMI_CTL.DRAINING ch) && s.channels.contains ch then
    if ok then (s.wb (F.CMI_STAT.TRAINED ch) true).runCoh Coh.woken
    else ((s.wb (F.CMI_STAT.TFAIL ch) true).wb (F.CMI_CTL.EN ch) false).raise 175 (unitChan ch)
  else s

/-- CMI_CTL_WRITE. -/
def execCmiCtlWrite (c : ChanNo) (v : Word) (s : State) : Host.Outcome State Fault Refusal := .next (s.onReg (opCmiCtl c v))
/-- CHANNEL_DISABLE_DONE. -/
def execChannelDisableDone (c : ChanNo) (s : State) : Host.Outcome State Fault Refusal := .next (opChannelDone c s)
/-- CMI_TRAINING_DONE. -/
def execCmiTrainingDone (c : ChanNo) (ok : Bool) (s : State) : Host.Outcome State Fault Refusal := .next (opCmiTrained c ok s)

end Sys2Proof.Machine
end

