-- ==== Sys2Proof/Machine/Power.lean ====
section
/-! DEFINITION. FALLOW entry and wake, the seed list, supplies, the adaptive core voltage and temperature (R439 to R456). -/

namespace Sys2Proof.Machine
open Sys2Proof

/-! ### The seed list (R443, Table 14.7) -/

/-- Walk order of a slot: set, slice, way. -/
def walkOrder (k : Nat) : Nat := (slotSet k * 32 + slotSlice k) * 16 + slotWay k

/-- The slot's line is to be listed at an age. -/
def State.seedWants (s : State) (age : Nat) (x : Nat × TagEntry) : Bool :=
  isValid x.2.st && x.2.age.toNat == age && !x.2.pf && !x.2.poison && !s.isSpill x.1 && decide (slotSet x.1 < s.sets)

/-- Slots of an age in walk order. -/
def State.seedAge (s : State) (age : Nat) : List Nat :=
  ((s.coh.tags.filter (s.seedWants age)).map (fun x => x.1)).insertionSort (fun a b => walkOrder a ≤ walkOrder b)

/-- The record of a slot's line. -/
def State.seedRecord (s : State) (k : Nat) : BitVec 64 :=
  BitVec.ofNat 64 ((s.coh.slotLineAddr s k).toNat % 2 ^ 36 + 2 ^ 36 * (s.coh.tag k).age.toNat)

/-- Records of SEED_MAX. -/
def State.seedMax (s : State) : Nat := min 64 (s.rf F.PWR_SEED_CFG.SEED_MAX) * 1024

def State.seedList (s : State) : List (BitVec 64) :=
  (([0, 1, 2].flatMap s.seedAge).take s.seedMax).map s.seedRecord

/-- Line j of the seed region. -/
def State.seedLine (s : State) (j : Nat) : LineAddr :=
  BitVec.ofNat 45 (s.node * 2 ^ 36 + s.rf F.PWR_SEED_BASE.BASE * 2 ^ 12 + j)

/-- The 16 records of a line; words after the last record are free. -/
def packSeeds (l : List (BitVec 64)) (free : Nat) : CodeLine :=
  mkLine (fun n => encodeWord (match l[n]? with | some r => r | none => Config.seedPad (free + n)) false)

/-- Lines of the seed list. -/
def State.seedLines (s : State) (l : List (BitVec 64)) : List (LineAddr × CodeLine) :=
  (List.range (cdiv l.length 16)).map (fun j => (s.seedLine j, packSeeds ((l.drop (16 * j)).take 16) s.freeCtr))

/-- Step 5 of Table 14.5. -/
def State.seedCapture (s : State) : State :=
  if s.seedMax = 0 then s
  else
    let l := s.seedList
    let s1 := ((s.seedLines l).foldl (fun (s : State) x => s.crossItem (.regs 0) (.slice (sliceOf x.1)) 0 2 (some x.2)) s).runCoh (fun c => (s.seedLines l).foldl (fun c x => c.writeMem x.1 x.2) c)
    let s2 := ((s1.wf F.PWR_SEED_STAT.SEED_COUNT l.length).wb F.PWR_SEED_STAT.SEED_VALID true).wb F.PWR_SEED_STAT.RESOWING false
    ((({ s2 with freeCtr := s2.freeCtr + 16 } : State).count (powerCtr 5) l.length).raiseBare 196 unitPower)

/-! ### FALLOW entry (Table 14.5) -/

/-- Every running register operation has ended. -/
def State.opsQuiet (s : State) : Bool :=
  !s.rb F.GLB_MNT_STAT.BUSY && s.drains.isEmpty &&
    (fins 6).all (fun p => !s.rb (F.PTU_INV_STAT.BUSY p) && (s.pwq p).flush.isNone) &&
    mems.all (fun m => !s.rb (F.MEM_STAT.PPR_BUSY m))

/-- Snoop filter entries that name an agent. -/
def Coh.named (c : Coh) : List Nat := (c.snf.filter (fun x => x.2.ast != aFree && x.2.pres != 0)).map (fun x => x.1)

/-- Step 4: SnpU for every entry that has no flow yet; the walk reads and checks the sets (R102, R213). -/
def Coh.fallowWalk (c : Coh) (e : State) : Coh :=
  c.named.foldl (fun c k =>
    let x := c.snfAt k
    let l := snfLine k x
    let c1 := c.readRow e l
    if c1.lockedSnf.contains (k / 16) || c1.flows.any (fun f => f.line == l) then c1
    else c1.startFlow e l .fallow (x.ports.map (fun p => (p, opSnpU)))) c

/-- Step 6 for one modified slot: its line goes to memory. -/
def Coh.flushSlot (c : Coh) (e : State) (k : Nat) : Coh :=
  let l := c.slotLineAddr e k
  let r := c.readSlot e k
  (r.2.writeMem l r.1).setTag k (fun t => { t with st := tE })

/-- Step 6 for a Press entry: its bytes over the line. -/
def Coh.flushPress (c : Coh) (e : State) (x : PressEntry) : Coh :=
  let r := c.readMem e x.line
  let c1 := (r.2.writeMem x.line (x.over r.1)).emits x.show
  let c2 := match c1.hitSlot e x.line with | some k => c1.freeTag k | none => c1
  c2.dropPress x.line

def Coh.flushAll (c : Coh) (e : State) : Coh :=
  let c1 := c.hamper.foldl (fun c (h : HamperEntry) => if h.copy then c else c.writeMem h.line h.cl) c
  let c2 : Coh := { c1 with hamper := [] }
  let ks := (c2.tags.filter (fun x => isMod x.2.st)).map (fun x => x.1)
  let c3 := ks.foldl (fun c k => c.flushSlot e k) c2
  c3.press.foldl (fun c x => c.flushPress e x) c3

/-- Step 7. -/
def State.storeWake (s : State) : State :=
  let w : WakeStore :=
    { digest := s.pwr.digest, pos := s.dar.pos, memPos := s.dar.memPos, seedCount := s.rf F.PWR_SEED_STAT.SEED_COUNT,
      seedValid := s.rb F.PWR_SEED_STAT.SEED_VALID, slotB := s.rb F.IMG_STAT.SLOT, kinds := s.img.kinds }
  s.setPwr (fun x => { x with wakeStore := some w })

def State.toStep (s : State) (n : Nat) : State := s.setPwr (fun x => { x with step := n })

/-- The step of FALLOW entry that is under way completes, when what it awaits has come. -/
def opFallowStep (s : State) : State :=
  if s.pwr.st != .fallowEntry then s
  else match s.pwr.step with
    | 2 => s.toStep 3
    | 3 => if s.quiet && s.opsQuiet then s.toStep 4 else s
    | 4 =>
      if s.coh.named.isEmpty then (if s.quiet then s.toStep 5 else s)
      else s.runCoh (fun c => (c.fallowWalk s).woken)
    | 5 => s.seedCapture.toStep 6
    | 6 => (s.runCoh (fun c => c.flushAll s)).toStep 7
    | 7 => s.storeWake.toStep 8
    | _ => s

/-- FALLOW_ENTRY_STEP. -/
def execFallowEntryStep (s : State) : Host.Outcome State Fault Refusal := .next (opFallowStep s)

/-- The core loses its supply: sessions close, every unit outside the always-on domain loses its state. -/
def State.coreLost (s : State) (st : PState) (memory cache : Bool) : State :=
  let s1 := ((s.closeSession .i3c).closeSession .inband).coreReset
  { s1 with
    coh := { s1.coh with ddr := if memory then s1.coh.ddr else Vector.replicate 2 [], sram := if cache then s1.coh.sram else Vector.replicate 8 [] }
    pwr := { s1.pwr with st := st, railsGood := false } }

/-- KEEP: memory, the wake store and the power registers are lost; the calendar, the log and the lockouts stay. -/
def State.goKeep (s : State) : State :=
  let s1 := s.coreLost .keep false false
  { s1 with regs := s1.regs.filter (fun x => !([Reg.PWR_CTL, Reg.PWR_ALARM, Reg.PWR_VDDC_CFG, Reg.PWR_THERM_CFG].contains x.1)) }

/-- OFF: nothing is kept but the fuses and the flash. -/
def State.goOff (s : State) : State :=
  { State.reset with
    pending := s.pending
    fuses := s.fuses
    flash := { bytes := s.flash.bytes }
    fine := s.fine
    sent := s.sent
    freeCtr := s.freeCtr
    pwr := { Power.reset with st := .off, vin := false, vbak := false, railsGood := false } }

/-- Step 8: FALLOW. A held wake source starts the wake at once; without VIN the device goes on to KEEP. -/
def opFallowEntered (s : State) : State :=
  if s.pwr.st == .fallowEntry && s.pwr.step == 8 then
    let s1 := ((s.selfRefresh true).emit (.pmbus false 0x01 0)).emit (.pmbus true 0x01 0)
    let s2 := (s1.coreLost .fallow true false).setPwr (fun x => { x with wakeStore := s.pwr.wakeStore })
    if !s.pwr.vin then s2.goKeep
    else match s.pwr.heldWake with
      | some c => s2.startWake c
      | none => s2
  else s

/-- FALLOW_ENTERED. -/
def execFallowEntered (s : State) : Host.Outcome State Fault Refusal := .next (opFallowEntered s)

/-! ### Wake (Table 14.6) -/

/-- R442: the wake goes on as a boot from step 5 of Table 13.1. -/
def State.wakeAsBoot (s : State) : State :=
  let s1 := ((s.selfRefresh false).enter .run).setPwr (fun x => { x with wakeStore := none, step := 0 })
  ((s1.wb F.PWR_SEED_STAT.SEED_VALID false).wf F.IMG_STAT.STAGE 3).count (powerCtr 4)

/-- The bytes of the slot in use, when their header passes check 1. -/
def State.wakeBytes (s : State) (w : WakeStore) : Option (List Byte) :=
  let x := if w.slotB then Slot.b else Slot.a
  let h := s.flash.slotBytes x 32
  if headerOk h then some (s.flash.slotBytes x (leAt h 12 4)) else none

/-- Step 4: the hubs start; what the wake store keeps shows again. -/
def State.wakeHub (s : State) (w : WakeStore) : State :=
  let s1 := ((s.emit (.pmbus false 0x01 0x80)).emit (.pmbus true 0x01 0x80)).startVddc
  (s1.wf F.PWR_SEED_STAT.SEED_COUNT w.seedCount).wb F.PWR_SEED_STAT.SEED_VALID w.seedValid

/-- Step 6: the records, when their digest is the stored one. -/
def State.wakeRecords (s : State) (w : WakeStore) : State :=
  match (s.wakeBytes w).bind parseImage with
  | some im =>
    if keyOf (sha256 im.body) = w.digest then
      ((s.applyImage (if w.slotB then Slot.b else Slot.a) im w.kinds).setBoot (fun b => { b with meminit := false })).toStep 7
    else s.wakeAsBoot
  | none => s.wakeAsBoot

/-- A step of the wake completes. -/
def opWakeStep (s : State) : State :=
  match s.pwr.st, s.pwr.wakeStore with
  | .wake, some w =>
    match s.pwr.step with
    | 3 => if s.pwr.railsGood then s.toStep 4 else s
    | 4 => (s.wakeHub w).toStep 5
    | 5 => if (s.wakeBytes w).isSome then s.toStep 6 else s.wakeAsBoot
    | 6 => s.wakeRecords w
    | 7 => ((mems.foldl (fun s m => s.wb (F.MEM_STAT.TRAINED m) true) s).selfRefresh false).toStep 8
    | _ => s
  | _, _ => s

/-- WAKE_STEP. -/
def execWakeStep (s : State) : Host.Outcome State Fault Refusal := .next (opWakeStep s)

/-- Step 8: RUN; the Darner resumes at its saved positions, and resowing begins. -/
def opWakeComplete (s : State) : State :=
  match s.pwr.wakeStore with
  | some w =>
    if s.pwr.st == .wake && s.pwr.step == 8 then
      let s1 := (s.startRunning.enter .run).setPwr (fun x => { x with wakeStore := none, step := 0, resowNext := 0, resowOut := 0 })
      let s2 : State := { s1 with dar := { s1.dar with pos := w.pos, memPos := w.memPos } }
      let s3 := s2.wb F.PWR_SEED_STAT.RESOWING (s2.rb F.PWR_SEED_STAT.SEED_VALID && s2.rb F.PWR_SEED_CFG.RESOW_EN)
      (s3.count (powerCtr 3)).raiseBare 195 unitPower
    else s
  | none => s

/-- WAKE_COMPLETE. -/
def execWakeComplete (s : State) : Host.Outcome State Fault Refusal := .next (opWakeComplete s)

/-! ### Resowing (R445, R446) -/

/-- The record passes the tests of R445, marks apart. -/
def State.seedOk (s : State) (r : BitVec 64) : Bool :=
  let l := BitVec.ofNat 45 (r.toNat % 2 ^ 36)
  decide (r.toNat < 2 ^ 38) && decide (r.toNat % 2 ^ 36 * 128 < 2 * s.portCap) && decide ((s.policy l).toNat < 4)

/-- The line of a record: read from memory at its first record, and at hand after it. -/
def State.seedFetch (s : State) (n : Nat) : CodeLine × State :=
  let l := s.seedLine (n / 16)
  if n % 16 = 0 then
    let r := s.coh.readMem s l
    (r.1, ({ s with coh := r.2 } : State).runCoh (fun c => c))
  else ((decodeLine (s.coh.rawMem (memOf l) (memIndex l))).line, s)

/-- A resowing read goes to its slice with a credit. -/
def State.resow (s : State) (l : LineAddr) (c : Credit) (rest : List Credit) : State :=
  let q : Promise := { id := .device (dieOfSlice (sliceOf l)) (deviceId l whoResow), p1 := true,
                       deadline := some (deadlineAt (s.fine + boundNs 1 true c.mode.toNat 2)), issued := s.fine,
                       floor := c.floor, mode := c.mode.toNat, remote := false, overrun := false }
  let s1 := (s.setPwr (fun x => { x with resowNext := x.resowNext + 1, resowOut := x.resowOut + 1 }))
  let s2 : State := { s1 with prm := { s1.prm with
    resow := rest, inFlight := if c.promise then s1.prm.inFlight ++ [q] else s1.prm.inFlight } }
  (s2.crossItem (.regs 0) (.slice (sliceOf l)) 0 1 none).arriveReq { src := .resow, op := .prefetch, line := l, cls := 1, resv := true, bounded := c.promise }

/-- The next record: skipped, or issued when a resowing credit of its channel is held. -/
def opResow (s : State) : State :=
  let n := s.pwr.resowNext
  if !s.rb F.PWR_SEED_STAT.RESOWING || s.pwr.st != .run || decide (s.rf F.PWR_SEED_STAT.SEED_COUNT ≤ n) then s
  else
    let f := s.seedFetch n
    let w := lineWord f.1 (n % 16)
    let r := wordData w
    let skip := fun (s : State) => (s.setPwr (fun x => { x with resowNext := n + 1 })).count (powerCtr 7)
    if wordMark w then
      skip (f.2.consumed 6 unitPower reqDevice (saOf (s.seedLine (n / 16))) (2 ^ (n % 16)))
    else if !s.seedOk r then skip f.2
    else
      let l := BitVec.ofNat 45 (r.toNat % 2 ^ 36)
      match takeFirst (fun (c : Credit) => c.ch.toNat == (s.chanOfLine l).val) s.prm.resow with
      | some (c, rest) => f.2.resow l c rest
      | none => s

/-- RESOW_READ_ISSUE. -/
def execResowReadIssue (s : State) : Host.Outcome State Fault Refusal := .next (opResow s)

/-- Credits that resowing has not spent. -/
def State.endResow (s : State) : State :=
  let s1 : State := { s with prm := { s.prm with resow := [] } }
  (s1.wb F.PWR_SEED_STAT.RESOWING false).wb F.PWR_SEED_STAT.SEED_VALID false

def opResowDone (s : State) : State :=
  if s.rb F.PWR_SEED_STAT.RESOWING && decide (s.rf F.PWR_SEED_STAT.SEED_COUNT ≤ s.pwr.resowNext) && s.pwr.resowOut == 0 then
    (s.endResow.wb F.PWR_SEED_STAT.DONE true).raiseBare 197 unitPower
  else s

/-- RESOWING_DONE. -/
def execResowingDone (s : State) : Host.Outcome State Fault Refusal := .next (opResowDone s)

def opSeedCfg (v : Word) (s : State) : State :=
  let s1 := s.wrRw Reg.PWR_SEED_CFG v
  if s1.rb F.PWR_SEED_STAT.RESOWING && !s1.rb F.PWR_SEED_CFG.RESOW_EN then s1.endResow else s1

/-- PWR_SEED_CFG_WRITE. -/
def execPwrSeedCfgWrite (v : Word) (s : State) : Host.Outcome State Fault Refusal := .next (s.onReg (opSeedCfg v))

/-! ### Supplies (R433, R447 to R449) -/

/-- VIN falls through 5.5 V. -/
def State.vinLow (s : State) : State :=
  if s.pwr.vin ∧ !s.rb F.PWR_STAT.VIN_LOW then (s.wb F.PWR_STAT.VIN_LOW true).raiseBare 198 unitPower else s

/-- VIN falls below 5.0 V: the always-on domain moves to VBAK, or the device is OFF. -/
def State.vinGone (s : State) : State :=
  if !s.pwr.vin then s
  else if !s.pwr.vbak then s.goOff
  else
    let s1 := ((s.setPwr (fun x => { x with vin := false })).wb F.PWR_STAT.ON_VBAK true).raiseBare 199 unitPower
    match s.pwr.st with
    | .fallow => s1.goKeep
    | .trip => s1.goKeep
    | _ => s1

def opVinFall (lv : VinLevel) (s : State) : State :=
  match lv with
  | .below55 => s.vinLow
  | .below50 => s.vinLow.vinGone

/-- VIN_FALL. -/
def execVinFall (lv : VinLevel) (s : State) : Host.Outcome State Fault Refusal := .next (opVinFall lv s)

/-- VIN reaches 5.5 V: from KEEP and OFF the device boots. -/
def opVinRise (info : Option FlashInfo) (s : State) : State :=
  let s1 := ((s.setPwr (fun x => { x with vin := true })).wb F.PWR_STAT.VIN_LOW false).wb F.PWR_STAT.ON_VBAK false
  match s.pwr.st with
  | .keep => s1.powerUp info
  | .off => s1.powerUp info
  | _ => s1

/-- VIN_RISE. -/
def execVinRise (flash : Option FlashInfo) (s : State) : Host.Outcome State Fault Refusal := .next (opVinRise flash s)

def opVbakLow (s : State) : State :=
  if s.pwr.vbak then (s.wb F.PWR_STAT.VBAK_LOW true).raiseBare 200 unitPower else s

/-- VBAK_LOW. -/
def execVbakLow (s : State) : Host.Outcome State Fault Refusal := .next (opVbakLow s)

/-- VBAK is present: OFF without VIN becomes KEEP. -/
def opVbakPresent (s : State) : State :=
  let s1 := (s.setPwr (fun x => { x with vbak := true })).wb F.PWR_STAT.VBAK_LOW false
  if s.pwr.st = .off ∧ !s.pwr.vin then s1.setPwr (fun x => { x with st := .keep }) else s1

/-- VBAK_PRESENT. -/
def execVbakPresent (s : State) : Host.Outcome State Fault Refusal := .next (opVbakPresent s)

/-- VBAK falls below 1.6 V. -/
def opVbakLost (s : State) : State := if s.pwr.vin then s.setPwr (fun x => { x with vbak := false }) else s.goOff

/-- VBAK_LOST. -/
def execVbakLost (s : State) : Host.Outcome State Fault Refusal := .next (opVbakLost s)

/-- The rails have been good for 1 ms: a device that lost one boots from step 2; a wake goes on. -/
def opRailsGood (s : State) : State :=
  if s.pwr.waitRails then s.bootFrom2
  else if s.pwr.st == .wake then s.setPwr (fun x => { x with railsGood := true })
  else s

/-- MAIN_RAILS_GOOD. -/
def execMainRailsGood (s : State) : Host.Outcome State Fault Refusal := .next (opRailsGood s)

/-- The rails in the order of Table 14.8. -/
def railNo : Rail → Nat
  | .vddio => 0
  | .vdda => 1
  | .vddcW => 2
  | .vddcE => 3
  | .vddqc => 4
  | .vddsh => 5
  | .vdds => 6
  | .vddqd => 7

/-- A rail is lost: an entry that names it, and a reset of every unit outside the always-on domain. -/
def opRailLost (r : Rail) (s : State) : State :=
  if !s.coreOn || s.pwr.waitRails then s
  else
    let s1 := s.note noEvent unitPower (formA 0 reqNone 0 0 [(Config.railCode (railNo r)).toNat])
    (s1.coreLost .run true false).setPwr (fun x => { x with waitRails := true })

/-- MAIN_RAIL_LOST. -/
def execMainRailLost (r : Rail) (s : State) : Host.Outcome State Fault Refusal := .next (opRailLost r s)

/-! ### The adaptive core voltage (R452, R453) -/

/-- The uplift after a millisecond with `fail` of `tests` credit tests failed. -/
def nextUplift (up dn old fail tests : Nat) : Nat :=
  if up * tests < 100 * fail then old + 10
  else if 100 * fail < dn * tests ∨ (tests = 0 ∧ 0 < dn) then old - 5
  else old

/-- Floor in force plus GUARD, mV. -/
def State.guarded (s : State) : Nat := 5 * s.lowered (s.floorOf s.curMode) + 5 * s.rf F.PWR_VDDC_CFG.GUARD

/-- C of a die. -/
def State.vddcFor (s : State) (uplift : Nat) : Nat :=
  if s.throttling then s.guarded else min 900 (max (vddcTarget s.curMode + uplift) s.guarded)

def State.adaptDie (s : State) (d : Fin 2) (fail tests : Nat) : State :=
  let u := if s.curMode = 1 then 0
           else nextUplift (s.rf F.PWR_VDDC_CFG.UP_PCT) (s.rf F.PWR_VDDC_CFG.DN_PCT) (s.pwr.uplift.get d) fail tests
  (s.setPwr (fun x => { x with uplift := vset x.uplift d u })).commandVddc d (s.vddcFor u)

/-- STATUS_WORD of a regulator. -/
def State.pollStatus (s : State) (e : Bool) (w : BitVec 16) : State :=
  if w = 0 then s
  else (((s.wb F.PWR_PMB_STAT.FAULT true).wb F.PWR_PMB_STAT.SIDE e).wf F.PWR_PMB_STAT.STATUS w.toNat).raiseBare 206 unitPower

/-- The controller acts. -/
def State.adapting (s : State) : Bool :=
  s.boot.running && !s.rb F.PWR_PMB_STAT.FAIL && (s.pwr.st == .run || s.pwr.st == .restEntry || s.pwr.st == .fallowEntry)

def opAdaptive (failW testsW failE testsE vmonW vmonE : Nat) (poll : PmbPoll) (s : State) : State :=
  if !s.coreOn then s
  else
    let s1 := (s.setVmon 0 vmonW).setVmon 1 vmonE
    let s2 := if s1.throttling then s1.count (powerCtr 9) else s1
    if !s2.adapting then s2
    else
      let s3 := (s2.adaptDie 0 failW testsW).adaptDie 1 failE testsE
      if poll.failed then ((s3.wb F.PWR_PMB_STAT.FAIL true).count (powerCtr 8)).raiseBare 205 unitPower
      else (s3.pollStatus false poll.statusW).pollStatus true poll.statusE

/-- ADAPTIVE_VDDC_UPDATE. -/
def execAdaptiveVddcUpdate (failW testsW failE testsE : Nat) (vmonW vmonE : Nat) (poll : PmbPoll) (s : State) :
    Host.Outcome State Fault Refusal := .next (opAdaptive failW testsW failE testsE vmonW vmonE poll s)

/-- FAIL and FAULT are cleared by writing 1. -/
def opPmbStat (v : Word) (s : State) : State := s.wr Reg.PWR_PMB_STAT (s.rg Reg.PWR_PMB_STAT &&& ~~~ (v &&& 3#32))

/-- PMB_STAT_WRITE. -/
def execPmbStatWrite (v : Word) (s : State) : Host.Outcome State Fault Refusal := .next (s.onCore (opPmbStat v))

/-! ### Temperature (R454, R455) -/

/-- A signed limit of PWR_THERM_CFG in quarter °C. -/
def State.limitOf (s : State) (f : RField) : Int := 4 * (BitVec.ofNat 8 (s.rf f)).toInt

/-- A temperature as TEMP_W and TEMP_E hold it. -/
def tempWord (t : Int) : BitVec 11 := BitVec.ofInt 11 (max (-1024) (min 1023 t))

/-- The warning of a die. -/
def State.warn (s : State) (temp warn : RField) (ev : Nat) (t : Int) : State :=
  let old := (BitVec.ofNat 11 (s.rf temp)).toInt
  let lim := s.limitOf F.PWR_THERM_CFG.WARN
  let s1 := s.wf temp (tempWord t).toNat
  if old < lim ∧ lim ≤ t then (s1.wb warn true).raiseBare ev unitPower else s1

/-- A condition of the hotter die begins. -/
def State.hotter (s : State) (f lim : RField) (ev : Nat) (t : Int) : State :=
  if s.limitOf lim ≤ t ∧ !s.rb f then (s.wb f true).raiseBare ev unitPower else s

/-- Since when the release temperature has held. -/
def State.cooling (s : State) (t : Int) : State :=
  if t < s.limitOf F.PWR_THERM_CFG.THROT - 12 then
    s.setPwr (fun x => { x with throttleSince := some (x.throttleSince.getD s.fine) })
  else s.setPwr (fun x => { x with throttleSince := none })

/-- A trip: MAIN_EN and MEM_EN fall, and cache and memory contents are lost. -/
def State.trip (s : State) : State :=
  ((s.note noEvent unitPower (s.bareDetail noEvent)).coreLost .trip false false).count (powerCtr 10)

def opThermal (tW tE : Int) (s : State) : State :=
  if !s.coreOn then s
  else
    let t := max tW tE
    if 540 ≤ t then s.trip
    else
      let s1 := (s.warn F.PWR_THERM_STAT.TEMP_W F.PWR_THERM_STAT.WARN_W 201 tW).warn F.PWR_THERM_STAT.TEMP_E
        F.PWR_THERM_STAT.WARN_E 202 tE
      let s2 := (s1.hotter F.PWR_THERM_STAT.THROTTLING F.PWR_THERM_CFG.THROT 203 t).hotter F.PWR_THERM_STAT.CRITICAL
        F.PWR_THERM_CFG.CRIT 204 t
      s2.cooling t

/-- THERMAL_READING. -/
def execThermalReading (tempW tempE : Int) (s : State) : Host.Outcome State Fault Refusal := .next (opThermal tempW tempE s)

/-- The temperature has stayed below THROT − 3 °C for 1 ms. -/
def opRelease (s : State) : State :=
  match s.pwr.throttleSince with
  | some t =>
    if t + 1000000 ≤ s.fine then (s.wb F.PWR_THERM_STAT.THROTTLING false).wb F.PWR_THERM_STAT.CRITICAL false else s
  | none => s

/-- THROTTLE_RELEASE. -/
def execThrottleRelease (s : State) : Host.Outcome State Fault Refusal := .next (opRelease s)

def opTrip (s : State) : State := if s.coreOn then s.trip else s

/-- THERMAL_TRIP. -/
def execThermalTrip (s : State) : Host.Outcome State Fault Refusal := .next (opTrip s)

/-- The always-on sensor reads below +100 °C in TRIP: boot from step 2. -/
def opTripRecovery (info : Option FlashInfo) (s : State) : State :=
  if s.pwr.st == .trip then ((s.discovered info).bootFrom2).wb F.PWR_STAT.TRIP true else s

/-- TRIP_RECOVERY. -/
def execTripRecovery (flash : Option FlashInfo) (s : State) : Host.Outcome State Fault Refusal := .next (opTripRecovery flash s)

end Sys2Proof.Machine
end

