-- ==== Sys2Proof/Machine/Csr.lean ====
section
/-! DEFINITION. CSR accesses: what each register reads, what a write of it does, the outcomes of Table 12.2, device
accesses of other nodes (R34, R350, R372 to R378, R412). -/

namespace Sys2Proof.Machine
open Sys2Proof

/-! ### Reads -/

/-- Stored bits of a register, as they read. -/
def State.stored (s : State) (off : Nat) : Word :=
  match regRow off with
  | some r => s.rg off &&& r.rd
  | none => 0

def w32 (n : Nat) : Word := BitVec.ofNat 32 n

/-- NOW and ADMIT of a slice (R54). -/
def State.slicePace (s : State) (i : Nat) : Word :=
  let m := s.prm.mons.get (Fin.ofNat 36 i)
  w32 (m.now.toNat + 2 ^ 16 * m.admNow)

/-- Two ADMIT values. -/
def State.admitPair (s : State) (i j : Nat) : Word :=
  w32 ((s.prm.mons.get (Fin.ofNat 36 i)).admNow + 2 ^ 16 * (s.prm.mons.get (Fin.ofNat 36 j)).admNow)

/-- Units of Allotment with a node (R76). -/
def State.allotWord (s : State) : Word :=
  let n := s.rf F.GLB_ALT_IDX.NODE
  w32 (s.allotOut n + 2 ^ 4 * s.coh.outUsed n + 2 ^ 8 * s.allotIn n + 2 ^ 12 * s.coh.inUsed n)

/-- The descriptor that GLB_RGN_IDX names (R121). -/
def State.shownRegion (s : State) : Region :=
  (s.img.regions[s.rf F.GLB_RGN_IDX.INDEX]?).getD { base := 0, size := 0, policy := 0, valid := false }

def State.regionAttr (s : State) : Word :=
  let r := s.shownRegion
  w32 (r.base.toNat / 2 ^ 32 + 2 ^ 4 * r.size.toNat + 2 ^ 10 * r.policy.toNat + 2 ^ 16 * r.valid.toNat)

def State.deadMap (s : State) : Word :=
  w32 (maskOf (fun b => s.deadNodes.contains (32 * s.rf F.GLB_DEAD_IDX.GROUP + b)) 32)

def scrubRead (r : PendRead) : Bool := r.cont == .scrub

/-- A Darner visit of the kind is in flight, its report pass included (R328). -/
def State.cacheBusy (s : State) : Bool :=
  s.coh.cmiQ.toList.any (fun q => q.any scrubRead) || s.coh.cmiVerify.toList.any (fun q => q.any Verify.scrub) || !s.coh.slotReports.isEmpty
def State.memBusy (s : State) : Bool :=
  s.coh.memQ.toList.any (fun q => q.any scrubRead) || s.coh.memVerify.toList.any (fun q => q.any Verify.scrub) || !s.coh.memReports.isEmpty

/-- Mailbox registers of instances 0 to 2 (R380). -/
def State.mailReg (s : State) (o : Nat) : Word :=
  let m := o / 0x40
  let r := o % 0x40
  if 3 ≤ m then 0
  else
    let x := s.mail (Fin.ofNat 4 m)
    if r = 0 then x.sel
    else if r = 4 then
      w32 (x.op.toNat + 2 ^ 3 * x.valid.toNat + 2 ^ 4 * x.busy.toNat + 2 ^ 5 * x.empty.toNat + 2 ^ 6 * x.err.toNat
        + 2 ^ 8 * x.code.toNat)
    else if 0x20 ≤ r ∧ r % 4 = 0 then x.data.get (Fin.ofNat 8 ((r - 0x20) / 4))
    else 0

/-- EVT_Q_STAT (R391, R392): a flush completes within its step, so FLUSHING reads 0. -/
def State.queueStat (s : State) : Word :=
  let e := s.mon.ev
  w32 (e.depth + 2 ^ 17 * (decide (0 < e.depth)).toNat + 2 ^ 18 * (decide (0 < e.midCount)).toNat + 2 ^ 19 * e.dropped.toNat
    + 2 ^ 21 * e.done.toNat)

def State.logStat (s : State) : Word :=
  let l := s.mon.log
  w32 ((l.wseq - l.rseq).toNat + 2 ^ 16 * l.markValid.toNat + 2 ^ 17 * l.markLost.toNat + 2 ^ 18 * l.rewindErr.toNat
    + 2 ^ 19 * l.overtaken.toNat + 2 ^ 20 * l.cleared.toNat)

def State.sesStat (s : State) : Word :=
  let x := s.ses
  w32 (x.busy.toNat + 2 * x.ready.toNat + 2 ^ 2 * x.refused.toNat + 2 ^ 3 * x.i3c.isOpen.toNat + 2 ^ 4 * x.inband.isOpen.toNat
    + 2 ^ 5 * x.i3c.level.toNat + 2 ^ 7 * x.inband.level.toNat + 2 ^ 9 * x.i3c.lockEnd.isSome.toNat
    + 2 ^ 10 * x.inband.lockEnd.isSome.toNat)

/-- On-die VDDC and commands in 5 mV units. -/
def State.vddcStat (s : State) : Word :=
  w32 (s.prm.vmon.get 0 / 5 % 256 + 2 ^ 8 * (s.prm.vmon.get 1 / 5 % 256) + 2 ^ 16 * (s.pwr.command.get 0 / 5 % 256)
    + 2 ^ 24 * (s.pwr.command.get 1 / 5 % 256))

/-- Session buffer words. -/
def sesBuf (j : Nat) : Nat := 0x7100 + 4 * j
def inSesBuf (o : Nat) : Bool := decide (0x7100 ≤ o) && decide (o < 0x7220)
/-- Pending-bit registers. -/
def inPend (o : Nat) : Bool := decide (0x1000 ≤ o) && decide (o < 0x1024)

/-- A register of the global block. -/
def State.globalReg (s : State) (o : Nat) : Word :=
  if inPend o then s.mon.ev.pend.extractLsb' (32 * ((o - 0x1000) / 4)) 32
  else if 0x3000 ≤ o ∧ o < 0x3100 then s.mailReg (o - 0x3000)
  else if inSesBuf o then s.rg o
  else match o with
    | 0x0 => if s.fuses.variantS then 0x51221143 else 0x51211169
    | 0x110 => s.admitPair 32 33
    | 0x124 => s.allotWord
    | 0x154 => w32 (s.shownRegion.base.toNat % 2 ^ 32)
    | 0x158 => s.regionAttr
    | 0x1A8 => s.deadMap
    | 0x1CC => s.stored o ||| bitVal s.cacheBusy 3 ||| bitVal s.memBusy 4
    | 0x1D4 => s.stored o ||| w32 (2 ^ 4 * (s.dar.retired.get 0).length + 2 ^ 12 * (s.dar.retired.get 1).length)
    | 0x1044 => (s.mon.ev.route (s.rf F.EVT_RTE_IDX.INDEX)).setWidth 32
    | 0x1054 => s.queueStat
    | 0x2000 => s.mon.log.wseq
    | 0x2004 => s.mon.log.rseq
    | 0x2008 => s.mon.log.mark
    | 0x2010 => s.logStat
    | 0x401C => s.vddcStat
    | 0x7004 => s.sesStat
    | 0x9000 => w32 (s.fuses.pkhSet.toNat + 2 * s.fuses.rkeySet.toNat)
    | _ => s.stored o

/-- Credits of a port that are released and unspent (R87). -/
def State.held (s : State) (p : Port) (cls : BitVec 2) : Nat :=
  ((s.port p).credits.filter (fun c => c.kind == .agent && c.cls == cls)).length

/-- The throttle of Table 5.1 withholds credits of a channel. -/
def State.anyGated (s : State) : Bool := s.channels.any (fun c => s.gated c)

/-- A register of an agent port's block. -/
def State.portReg (s : State) (p : Port) (o : Nat) : Word :=
  let full := s.stored (Reg.AGP_LINK_STAT p - 0x40 + o)
  if 0x200 ≤ o ∧ !s.hasPtu p then 0
  else match o with
    | 0x84 => w32 (s.held p 0 + 2 ^ 8 * s.held p 1 + 2 ^ 16 * s.held p 2)
    | 0xC8 =>
      w32 (((s.drill p).trackers.toList.filter Option.isSome).length + 2 ^ 8 * s.effMax p + 2 ^ 16 * s.anyGated.toNat)
    | 0x104 =>
      let q := s.pwq p
      full ||| w32 (q.depth + 2 ^ 16 * (!q.midIds.isEmpty).toNat + 2 ^ 17 * q.flush.isSome.toNat)
    | 0x22C => w32 (((s.ptu p).tlb.toList.filter TlbEntry.v).length + 2 ^ 16 * (s.ptu p).lfsr.toNat)
    | _ => full

/-- What a 4-byte read of a CSR offset returns. No field of the device is cleared by a read. -/
def State.csrRead (s : State) (off : Nat) : Word :=
  match csrBlock off with
  | none => 0
  | some (.global, _, o) => s.globalReg o
  | some (.slice, i, 0x40) => s.slicePace i
  | some (.headland, _, 0x40) => s.admitPair 34 35
  | some (.port, i, o) => s.portReg (Fin.ofNat 6 i) o
  | some (.stile, i, _) => if s.linkCount ≤ i then 0 else s.stored off
  | some _ => s.stored off

/-! ### Writes -/

/-- Bits of type W1C. -/
def State.w1c (s : State) (off : Nat) (v : Word) : State :=
  match regRow off with
  | some r => s.wr off (s.rg off &&& ~~~ (v &&& r.w1c))
  | none => s

/-- A register with no step of its own: RW bits take the value, W1C bits are cleared by 1. -/
def State.plain (s : State) (off : Nat) (v : Word) : State := (s.wrRw off (clampReg off v)).w1c off v

/-- Mailbox registers: instance 3 takes no CSR write. -/
def State.mailWrite (s : State) (o : Nat) (v : Word) : State :=
  let m := o / 0x40
  let r := o % 0x40
  if 3 ≤ m then s
  else
    let i : Fin 4 := Fin.ofNat 4 m
    if r = 0 then s.mailSel i v
    else if r = 4 then
      let s1 := s.setMail i (fun x => { x with op := v.extractLsb' 0 2, err := x.err && !bit v 6 })
      if bit v 2 then s1.mailGo i (fld v 0 2) else s1
    else if 0x20 ≤ r ∧ r % 4 = 0 then s.setMail i (fun x => { x with data := vset x.data (Fin.ofNat 8 ((r - 0x20) / 4)) v })
    else s

/-- EVT_Q_STAT: DROPPED and DONE. -/
def State.queueW1c (s : State) (v : Word) : State :=
  s.setEv (fun e => { e with dropped := e.dropped && !bit v 19, done := e.done && !bit v 21 })

/-- LOG_CTL: with both bits set, the mark is taken. -/
def State.logCtl (s : State) (v : Word) : State :=
  if bit v 0 then opLogMark s else if bit v 1 then opLogRewind s else s

def State.logW1c (s : State) (v : Word) : State :=
  s.setLog (fun l => { l with markLost := l.markLost && !bit v 17, rewindErr := l.rewindErr && !bit v 18,
                              overtaken := l.overtaken && !bit v 19, cleared := l.cleared && !bit v 20 })

/-- RTC_CTL: AGING, FAULT and LOAD. -/
def State.rtcCtl (s : State) (v : Word) : State :=
  let s1 := s.plain Reg.RTC_CTL v
  if bit v 0 then opRtcLoad s1 else s1

/-- PWR_CTL: its enables, a REST request, a FALLOW request. -/
def State.pwrCtl (s : State) (v : Word) : State :=
  let rest := s.rg Reg.PWR_CTL &&& 1#32
  let s1 := s.wr Reg.PWR_CTL ((v &&& 0x1C#32) ||| rest)
  let s2 := if bit v 0 then opRest s1 else s1.wb F.PWR_CTL.REST false
  if bit v 1 then s2.fallow else s2

/-- GLB_MNT_CTL: OP and SW, and START with its key. -/
def State.mntCtl (s : State) (v : Word) : State :=
  let s1 := s.wrRw Reg.GLB_MNT_CTL v
  if bit v 3 then s1.mntStart (v.extractLsb' 0 2) (bit v 2) (fld v 8 8) else s1

/-- The bytes of SES_BUF. -/
def State.sesBytes (s : State) : List Byte := (List.range 72).flatMap (fun j => leBytes 4 (s.rg (sesBuf j)).toNat)

/-- A frame read from its bytes (R416). -/
def frameOf (tr : Transport) (l : List Byte) : SesFrame :=
  let opc := l.headD 0
  let len := leAt l 2 2
  { tr := tr, opc := opc, stat := l.getD 1 0, len := len, seq := BitVec.ofNat 32 (leAt l 4 4),
    payload := bytesFrom l 8 len, mac := if opc = 1 ∨ opc = 2 then 0 else BitVec.ofNat 128 (leAt l (8 + len) 16) }

/-- A write of SES_CTL.GO (R415): the frame in SES_BUF joins the commands of the session engine. -/
def State.sesSubmit (s : State) : State :=
  if s.ses.busy then s.setSes (fun x => { x with refused := true })
  else s.setSes (fun x => { x with busy := true, ready := false, waiting := x.waiting ++ [frameOf .inband s.sesBytes] })

/-- A write of a register of the global block. -/
def State.globalWrite (s : State) (o : Nat) (v : Word) : State :=
  if inPend o then s.setEv (fun e => e.clearPend ((o - 0x1000) / 4) v)
  else if 0x3000 ≤ o ∧ o < 0x3100 then s.mailWrite (o - 0x3000) v
  else if inSesBuf o then s.wr o v
  else match o with
    | 0x100 => opPrmMode v s
    | 0x104 => (s.plain o v).noteMargin
    | 0x164 => (s.plain o v).swathOff
    | 0x180 => s.mntCtl v
    | 0x190 => opDrlAcc v s
    | 0x1AC => opGlbDeadCtl v s
    | 0x1C0 => opDarCtl v s
    | 0x1D0 => opDarThr v s
    | 0x1D8 => opDarRetCtl v s
    | 0x1044 => opEvtRte v s
    | 0x104C => opEvtSw v s
    | 0x1050 => if bit v 0 then opEvtFlush s else s
    | 0x1054 => s.queueW1c v
    | 0x2004 => opLogRseq v s
    | 0x200C => s.logCtl v
    | 0x2010 => s.logW1c v
    | 0x4000 => s.pwrCtl v
    | 0x4010 => opSeedCfg v s
    | 0x4024 => opPmbStat v s
    | 0x5000 => s.rtcCtl v
    | 0x7000 => if bit v 0 then s.sesSubmit else s
    | 0x7004 => s.setSes (fun x => { x with refused := x.refused && !bit v 2 })
    | _ => s.plain o v

/-- PTU_INV_CTL: OP, and START. -/
def State.invCtl (s : State) (p : Port) (v : Word) : State :=
  let s1 := s.wrRw (Reg.PTU_INV_CTL p) v
  if !bit v 2 then s1
  else match fld v 0 2 with
    | 0 => opTlbInvAddr p s1
    | 1 => opTlbInvCtx p s1
    | 2 => opTlbInvAll p s1
    | _ => opTlbInvBad p s1

/-- A write of a register of an agent port's block. -/
def State.portWrite (s : State) (p : Port) (off o : Nat) (v : Word) : State :=
  if 0x200 ≤ o ∧ !s.hasPtu p then s
  else match o with
    | 0x44 => opLinkCtl p v s
    | 0xC0 => opDrlCfg p v s
    | 0xC4 => opDrlCfg2 p v s
    | 0xE4 => opDeadCtl p v s
    | 0x100 => if bit v 0 then opFlushWrite p s else s
    | 0x200 => opPtuSeed p (v.extractLsb' 16 16) (s.plain off v)
    | 0x204 => opPtuRootLo p v s
    | 0x208 => opPtuRootHi p v s
    | 0x218 => s.invCtl p v
    | _ => s.plain off v

/-- A register write as its description gives it. -/
def State.csrWriteRun (s : State) (off : Nat) (v : Word) : State :=
  match csrBlock off with
  | none => s
  | some (.global, _, o) => s.globalWrite o v
  | some (.slice, i, 0x48) => opWayEn (Fin.ofNat 32 i) v s
  | some (.channel, i, 0x40) => opCmiCtl (Fin.ofNat 8 i) v s
  | some (.port, i, o) => s.portWrite (Fin.ofNat 6 i) off o v
  | some (.stile, i, _) => if s.linkCount ≤ i then s else s.plain off v
  | some _ => s.plain off v

/-- Areas whose every field acts in safe configuration (R412). -/
def safeArea (off : Nat) : Bool :=
  (decide (0x2000 ≤ off) && decide (off < 0x4000)) || (decide (0x5000 ≤ off) && decide (off < 0x6000)) ||
    (decide (0x7000 ≤ off) && decide (off < 0x8000))

/-- A register write in safe configuration: W1C and W1S fields alone act outside those areas. -/
def State.csrWriteSafe (s : State) (off : Nat) (v : Word) : State :=
  if safeArea off || inPend off || off == Reg.EVT_SW || off == Reg.EVT_Q_STAT then s.csrWriteRun off v
  else s.w1c off v

def State.csrWrite (s : State) (off : Nat) (v : Word) : State :=
  if s.rb F.IMG_STAT.SAFE then s.csrWriteSafe off v else s.csrWriteRun off v

/-! ### Accesses (Table 12.2, R373 to R377, R321) -/

/-- Who accesses: the requester byte and the node of a log entry. -/
structure CsrUser where
  who : Nat
  node : Nat
  deriving DecidableEq, Repr

def CsrUser.detail (u : CsrUser) (sa : SysAddr) : BitVec 128 := formA sa u.who 0 u.node []

def State.csrOutside (s : State) (u : CsrUser) (sa : SysAddr) : State := s.addrError unitRegs u.who u.node sa

/-- The words of a read of `n` bytes at an offset, at their place in a line. -/
def State.csrLine (s : State) (off n : Nat) : LineBytes :=
  let lo := off / 4 * 4
  let v := (s.csrRead lo).toNat + (if n = 8 then (s.csrRead (lo + 4)).toNat * 2 ^ 32 else 0)
  bytesAt (BitVec.ofNat 1024 (v * 2 ^ (8 * (lo % 128)))) (off % 128) n

/-- A CSR read: status, line, state. -/
def State.csrReadAccess (s : State) (u : CsrUser) (sa : SysAddr) (off sz : Nat) : Nat × LineBytes × State :=
  if 4 ≤ sz ∨ !aligned off sz then (1, 0, s.raiseLog 1 unitRegs (u.detail sa))
  else if (csrBlock off).isNone then (1, 0, s.csrOutside u sa)
  else (0, s.csrLine off (2 ^ sz), s)

/-- A CSR write: status, state. `base` is the offset of the line that the mask speaks of; `ok` says that the sender may
write here (R34), which comes after the checks of Table 12.2 (R373). -/
def State.csrWriteAccess (s : State) (u : CsrUser) (sa : SysAddr) (base : Nat) (d : StoreData) (ok : Bool := true) : Nat × State :=
  match csrWrOf d with
  | .none => (0, s)
  | .narrow => (0, s.raiseLog 0 unitRegs (u.detail sa))
  | .bad => (1, s.raiseLog 1 unitRegs (u.detail sa))
  | .words l =>
    let off := base + (l.headD (0, 0)).1
    let marks := (poisonAt d.poison ((l.headD (0, 0)).1) (4 * l.length)).toNat
    if !ok || (csrBlock off).isNone then (1, s.csrOutside u sa)
    else if marks ≠ 0 then (6, s.consumed 2 unitRegs u.who sa marks)
    else (0, l.foldl (fun s w => s.csrWrite (base + w.1) w.2) s)

end Sys2Proof.Machine
end

