-- ==== Sys2Proof/Machine/Sessions.lean ====
section
/-! DEFINITION. Management sessions (R414 to R422): frames, authentication, the commands of Table 13.6, the long operations
that reply when they end; register writes from outside. -/

namespace Sys2Proof.Machine
open Sys2Proof

/-! ### Frames and replies (R415, R416, R421) -/

/-- The bytes before the MAC. -/
def SesFrame.head (f : SesFrame) : List Byte := [f.opc, f.stat] ++ leBytes 2 f.len ++ leBytes 4 f.seq.toNat ++ f.payload
def macOf (ks : BitVec 256) (l : List Byte) : List Byte := (hmac (keyBytes ks) l).take 16

/-- A command of a session as its fields give it. -/
def cmdFrame (f : Frame) (opc : Byte) (payload : List Byte) : SesFrame :=
  { tr := f.tr, opc := opc, stat := 0, len := payload.length, seq := f.seq, payload := payload, mac := f.mac }

/-- Head and payload of a reply. -/
def replyHead (opc : Byte) (stat : Nat) (seq : Word) (payload : List Byte) : List Byte :=
  SesFrame.head { tr := .i3c, opc := opc, stat := BitVec.ofNat 8 stat, len := payload.length, seq := seq, payload := payload, mac := 0 }

/-- A reply under a session key. -/
def replyMac (ks : BitVec 256) (opc : Byte) (stat : Nat) (seq : Word) (payload : List Byte) : List Byte :=
  let h := replyHead opc stat seq payload
  h ++ macOf ks h

/-- One word of SES_BUF with the reply's bytes laid over it. -/
def State.bufWord (s : State) (l : List Byte) (j : Nat) : Word :=
  let old := leBytes 4 (s.rg (sesBuf j)).toNat
  BitVec.ofNat 32 (leNat ((List.range 4).map (fun i => (l[4 * j + i]?).getD (old.getD i 0))))

/-- A reply is ready on its transport. -/
def State.deliver (s : State) (tr : Transport) (l : List Byte) : State :=
  match tr with
  | .i3c =>
    let s1 := s.emit (.reply .i3c l)
    if s.ses.ibiEnabled then s1.emit (.ibi 0xA1) else s1
  | .inband =>
    ((List.range (cdiv l.length 4)).foldl (fun s1 j => s1.wr (sesBuf j) (s.bufWord l j)) s).setSes
      (fun x => { x with busy := false, ready := true })

/-- A command that is not performed. -/
def State.deny (s : State) (f : SesFrame) (stat : Nat) : State :=
  s.deliver f.tr (replyMac (s.ses.get f.tr).ks f.opc stat f.seq [])

/-- A command has been performed: its reply is stored and sent. -/
def State.performed (s : State) (tr : Transport) (opc : Byte) (seq : Word) (stat : Nat) (payload : List Byte) : State :=
  if (s.ses.get tr).isOpen then
    let l := replyMac (s.ses.get tr).ks opc stat seq payload
    ((s.setSession tr (fun x => { x with lastSeq := seq, lastReply := l, lastAt := s.fine })).count (startCtr 6)).deliver tr l
  else s

def State.done (s : State) (f : SesFrame) (payload : List Byte) : State := s.performed f.tr f.opc f.seq 0 payload

/-! ### Opening (R417 to R419) -/

/-- K of a level; none where the level is disabled. -/
def State.levelKey (s : State) (level : Nat) : Option (BitVec 256) :=
  if level = 3 then (if s.fuses.rkeySet then some s.fuses.rkey else none)
  else
    let k := s.img.keys.get (Fin.ofNat 3 level)
    if k = 0 then none else some k

def trCode : Transport → Byte
  | .i3c => 0
  | .inband => 1

/-- The 40 bytes that AUTH and ACCEPT sign: `last` is "1" or "D". -/
def authBytes (last : Byte) (nd nh : BitVec 128) (level : BitVec 2) (tr : Transport) (node : Nat) : List Byte :=
  [0x53, 0x56, 0x47, last] ++ leBytes 16 nd.toNat ++ leBytes 16 nh.toNat ++ [level.setWidth 8, trCode tr] ++ leBytes 2 node

/-- Ks of a session. -/
def sessionKey (k : BitVec 256) (nd nh : BitVec 128) : BitVec 256 :=
  keyOf (hmac (keyBytes k) ([0x53, 0x56, 0x47, 0x4B] ++ leBytes 16 nh.toNat ++ leBytes 16 nd.toNat))

def nsPerS : Nat := 1000000000

/-- A failed authentication; the fourth in a row locks the transport out. -/
def State.failedAuth (s : State) (tr : Transport) : State :=
  let x := s.ses.get tr
  let s1 := ((s.setSession tr (fun x => { x with chal := none, fails := x.fails + 1 })).count (startCtr 4)).raiseBare 230 unitBoot
  if x.fails + 1 < 4 then s1
  else
    ((s1.setSession tr (fun x => { x with
      fails := 0, lockEnd := some (s.fine + x.lockPeriod * nsPerS), lockPeriod := min 4096 (2 * x.lockPeriod) })).count (startCtr 5)).raiseBare
        231 unitBoot

/-- Seconds of a lockout that are left. -/
def State.lockLeft (s : State) (e : Nat) : Nat := cdiv (e - s.fine) nsPerS

/-- Levels that safe configuration leaves (R412). -/
def State.levelOpen (s : State) (tr : Transport) (level : Nat) : Bool :=
  (s.levelKey level).isSome && (!s.rb F.IMG_STAT.SAFE || (level == 3 && tr == .i3c))

/-- OPEN is answered with CHAL. -/
def State.sesOpen (s : State) (f : SesFrame) : State :=
  let x := s.ses.get f.tr
  let say := fun (stat : Nat) (l : List Byte) => replyHead 0x01 stat 0 l
  let level := (f.payload.headD 0).toNat
  match x.lockEnd with
  | some e => s.deliver f.tr (say 6 (leBytes 4 (s.lockLeft e)))
  | none =>
    if f.payload.length ≠ 17 ∨ f.len ≠ 17 ∨ 3 < level then s.deliver f.tr (say 5 [])
    else if x.isOpen then s.deliver f.tr (say 4 [])
    else if !s.levelOpen f.tr level then s.deliver f.tr (say 1 [])
    else
      let nd := Config.nonce s.freeCtr
      let nh := BitVec.ofNat 128 (leNat (f.payload.drop 1))
      ((s.drawn).setSession f.tr (fun x => { x with chal := some (BitVec.ofNat 2 level, nh, nd) })).deliver f.tr
        (say 0 (leBytes 16 nd.toNat))

/-- AUTH is answered with ACCEPT. -/
def State.sesAuth (s : State) (f : SesFrame) : State :=
  let say := fun (stat : Nat) (l : List Byte) => replyHead 0x02 stat 0 l
  match (s.ses.get f.tr).chal with
  | none => s.deliver f.tr (say 3 [])
  | some (level, nh, nd) =>
    if f.payload.length ≠ 32 ∨ f.len ≠ 32 then s.deliver f.tr (say 5 [])
    else
      let k := (s.levelKey level.toNat).getD 0
      if hmac (keyBytes k) (authBytes 0x31 nd nh level f.tr s.node) == f.payload then
        let s1 := s.setSession f.tr (fun x => { x with
          isOpen := true, level := level, chal := none, ks := sessionKey k nd nh, lastSeq := 0, lastReply := [],
          lastAt := s.fine, fails := 0, lockPeriod := 64 })
        ((s1.count (startCtr 3)).raiseBare 228 unitBoot).deliver f.tr
          (say 0 (hmac (keyBytes k) (authBytes 0x44 nd nh level f.tr s.node)))
      else (s.failedAuth f.tr).deliver f.tr (say 2 [])

/-! ### Commands (Tables 13.5 and 13.6) -/

def leField (f : SesFrame) (i n : Nat) : Nat := leAt f.payload i n

/-- The least level that may perform a command; none for an opcode of no command. -/
def minLevel (f : SesFrame) : Option Nat :=
  match f.opc.toNat with
  | 0x03 => some 0
  | 0x10 => some 0
  | 0x11 => some 1
  | 0x12 => some (if leField f 4 1 = 1 then 1 else 0)
  | 0x13 => some 0
  | 0x14 => some 0
  | 0x15 => some 1
  | 0x20 => some 1
  | 0x21 => some 1
  | 0x30 => some 2
  | 0x31 => some 2
  | 0x32 => some 0
  | 0x33 => some 0
  | 0x40 => some 2
  | 0x41 => some 2
  | _ => none

def slotSize : Nat := 0x100000

/-- The payload fits its command (R422). -/
def State.fits (s : State) (f : SesFrame) : Bool :=
  let n := f.payload.length
  let b := fun (i : Nat) => leField f i 1
  let slot := decide (b 0 < 2)
  f.len == n &&
    (match f.opc.toNat with
     | 0x10 => n == 5 && decide (1 ≤ b 4) && decide (b 4 ≤ 16)
     | 0x11 => n == 8
     | 0x12 => n == 13 && decide (b 4 < 4)
     | 0x13 => n == 1 && decide (1 ≤ b 0) && decide (b 0 ≤ 8)
     | 0x15 => n == 8
     | 0x20 => n == 1 && decide (b 0 < 4)
     | 0x21 => n == 5 && slot && decide (leField f 1 4 * 128 < s.portCap)
     | 0x30 => n == 1 && slot
     | 0x31 => decide (6 ≤ n) && decide (n ≤ 245) && slot && decide (leField f 1 4 + (n - 5) ≤ slotSize)
     | 0x32 => n == 6 && slot && decide (1 ≤ b 5) && decide (b 5 ≤ 240) && decide (leField f 1 4 + b 5 ≤ slotSize)
     | 0x33 => n == 1 && slot
     | 0x41 => n == 33 && slot
     | _ => n == 0)

def slotOf (n : Nat) : Slot := if n = 0 then .a else .b
def sesUser (s : State) : CsrUser := { who := reqSession, node := s.node }

/-- CSR_RD: 4-byte reads under R374; where one is refused, the command's argument is bad. -/
def State.cmdCsrRd (s : State) (f : SesFrame) : State :=
  let step := fun (a : Bool × List Byte × State) (i : Nat) =>
    let off := leField f 0 4 + 4 * i
    let r := a.2.2.csrReadAccess (sesUser s) (csrAddr s.node off) off 2
    (a.1 && r.1 == 0, a.2.1 ++ leBytes 4 (r.2.2.csrRead off).toNat, r.2.2)
  let r := (List.range (leField f 4 1)).foldl step (true, [], s)
  if r.1 then r.2.2.done f r.2.1 else r.2.2.performed f.tr f.opc f.seq 5 []

/-- CSR_WR: a 4-byte write; its status is the reply. -/
def State.cmdCsrWr (s : State) (f : SesFrame) : State :=
  let off := leField f 0 4
  let v := BitVec.ofNat 32 (leField f 4 4)
  let u := sesUser s
  let sa := csrAddr s.node off
  if off % 4 ≠ 0 then (s.raiseLog 1 unitRegs (u.detail sa)).done f [1]
  else if (csrBlock off).isNone then (s.csrOutside u sa).done f [1]
  else (s.csrWrite off v).done f [0]

/-- MBX_CTL bits [11:3] and DATA0 to DATA7 of instance 3. -/
def Mailbox.replyBytes (x : Mailbox) : List Byte :=
  leBytes 2 (x.valid.toNat + 2 * x.busy.toNat + 4 * x.empty.toNat + 8 * x.err.toNat + 32 * x.code.toNat)
    ++ x.data.toList.flatMap (fun w => leBytes 4 w.toNat)

/-- MBX: the registers of instance 3 are written, and GO. -/
def State.cmdMbx (s : State) (f : SesFrame) : State :=
  let op := leField f 4 1
  let s1 := (s.mailSel 3 (BitVec.ofNat 32 (leField f 0 4))).setMail 3 (fun x => { x with
    op := BitVec.ofNat 2 op, err := false, code := 0
    data := vset (vset x.data 0 (BitVec.ofNat 32 (leField f 5 4))) 1 (BitVec.ofNat 32 (leField f 9 4)) })
  let s2 := s1.mailGo 3 op
  if (s2.mail 3).busy then s2.setMail 3 (fun x => { x with waiter := some (f.tr, f.seq) })
  else s2.done f (s2.mail 3).replyBytes

/-- LOG_RD: entries at the cursor, fewer where the log is read out. -/
def State.readLogs : Nat → List Byte → State → List Byte × State
  | 0, l, s => (l, s)
  | k + 1, l, s =>
    match s.readLog with
    | (some e, s1) => State.readLogs k (l ++ e.words.flatMap (fun w => leBytes 4 w.toNat)) s1
    | (none, s1) => (l, s1)

def State.cmdLogRd (s : State) (f : SesFrame) : State :=
  let r := State.readLogs (leField f 0 1) [] s
  r.2.done f r.1

def State.cmdCalGet (s : State) (f : SesFrame) : State := s.done f (leBytes 8 (timeWord s.cal.sec s.cal.ns).toNat)
def State.cmdCalSet (s : State) (f : SesFrame) : State :=
  (s.setCal (fun c => { c with load := some (BitVec.ofNat 64 (leField f 0 8)) })).done f []

/-- MODE writes REQ_MODE, which safe configuration leaves unchanged. -/
def State.cmdMode (s : State) (f : SesFrame) : State :=
  (if s.rb F.IMG_STAT.SAFE then s else s.requestMode (leField f 0 1)).done f []

/-- PPR: the sequence of R371 starts on the line's place; its reply waits for the end. -/
def State.cmdPpr (s : State) (f : SesFrame) : State :=
  let m : MemNo := Fin.ofNat 2 (leField f 0 1)
  ((s.wb (F.MEM_STAT.PPR_BUSY m) true).emit (.hppr m (s.ddrPlace m (leField f 1 4)))).setSes (fun x => { x with ppr := some (f.tr, f.seq, m) })

/-- Starts a flash operation that takes the image lock; the other session's is answered as busy. -/
def State.cmdFlash (s : State) (f : SesFrame) (op : FlashOp) : State :=
  match s.flash.lockBy with
  | some t => if t = f.tr then { s with flash := { s.flash with op := some op } } else s.deny f 4
  | none => { s with flash := { s.flash with op := some op, lockBy := some f.tr } }

def State.cmdImgErase (s : State) (f : SesFrame) : State := s.cmdFlash f (.erase f.tr f.seq (slotOf (leField f 0 1)))
def State.cmdImgWrite (s : State) (f : SesFrame) : State :=
  s.cmdFlash f (.write f.tr f.seq (slotOf (leField f 0 1)) (leField f 1 4) (f.payload.drop 5))
def State.cmdImgRead (s : State) (f : SesFrame) : State :=
  let a := slotBase (slotOf (leField f 0 1)) + leField f 1 4
  s.done f ((List.range (leField f 5 1)).map (fun i => s.flash.byte (a + i)))
def State.cmdImgCheck (s : State) (f : SesFrame) : State :=
  { s with flash := { s.flash with op := some (.check f.tr f.seq (slotOf (leField f 0 1))) } }

/-- RESET: the reply, then the boot from step 2. -/
def State.cmdReset (s : State) (f : SesFrame) : State := (s.done f []).bootFrom2

/-- FUSE programs a fuse set that is not programmed yet. -/
def State.cmdFuse (s : State) (f : SesFrame) : State :=
  let v := keyOf (f.payload.drop 1)
  if leField f 0 1 = 0 then
    if s.fuses.pkhSet then s.deny f 5 else ({ s with fuses := { s.fuses with pkhSet := true, pkh := v } } : State).done f []
  else
    if s.fuses.rkeySet then s.deny f 5 else ({ s with fuses := { s.fuses with rkeySet := true, rkey := v } } : State).done f []

def State.cmdClose (s : State) (f : SesFrame) : State := (s.done f []).closeSession f.tr

/-- A command that has passed its checks. -/
def State.perform (s : State) (f : SesFrame) : State :=
  match f.opc.toNat with
  | 0x03 => s.cmdClose f
  | 0x10 => s.cmdCsrRd f
  | 0x11 => s.cmdCsrWr f
  | 0x12 => s.cmdMbx f
  | 0x13 => s.cmdLogRd f
  | 0x14 => s.cmdCalGet f
  | 0x15 => s.cmdCalSet f
  | 0x20 => s.cmdMode f
  | 0x21 => s.cmdPpr f
  | 0x30 => s.cmdImgErase f
  | 0x31 => s.cmdImgWrite f
  | 0x32 => s.cmdImgRead f
  | 0x33 => s.cmdImgCheck f
  | 0x40 => s.cmdReset f
  | 0x41 => s.cmdFuse f
  | _ => s.deny f 1

/-- A command without an open session: no key makes its reply's MAC, which is free. -/
def State.orphan (s : State) (f : SesFrame) : State :=
  (s.drawn).deliver f.tr (replyHead f.opc 1 f.seq [] ++ leBytes 16 (Config.orphanMac s.freeCtr).toNat)

/-- R420: MAC, SEQ, level, payload. -/
def State.sesCommand (s : State) (f : SesFrame) : State :=
  let x := s.ses.get f.tr
  if !x.isOpen then s.orphan f
  else if 256 < f.len then s.deny f 5
  else if leBytes 16 f.mac.toNat != macOf x.ks f.head then ((s.deny f 2).closeSession f.tr).failedAuth f.tr
  else if f.seq = x.lastSeq ∧ x.lastReply ≠ [] then s.deliver f.tr x.lastReply
  else if f.seq ≠ x.lastSeq + 1 then s.deny f 3
  else match minLevel f with
    | none => s.deny f 1
    | some l => if x.level.toNat < l then s.deny f 1 else if !s.fits f then s.deny f 5 else s.perform f

def State.sesFrame (s : State) (f : SesFrame) : State :=
  if f.opc = 1 then s.sesOpen f else if f.opc = 2 then s.sesAuth f else s.sesCommand f

/-! ### The engine (R421) -/

/-- A command is under way. -/
def State.sesWorking (s : State) : Bool := s.flash.op.isSome || s.ses.ppr.isSome || (s.mail 3).waiter.isSome

/-- Commands one at a time, in order of arrival. -/
def State.pumpSes : Nat → State → State
  | 0, s => s
  | k + 1, s =>
    if s.sesWorking then s
    else match s.ses.waiting with
      | [] => s
      | f :: rest => State.pumpSes k ((s.setSes (fun x => { x with waiting := rest })).sesFrame f)

/-- Runs what waits; a command may add an in-band frame of its own. -/
def State.runSes (s : State) : State := State.pumpSes (2 * s.ses.waiting.length + 2) s

/-- A frame arrives. The engine works while the core has its supply. -/
def opSession (f : SesFrame) (s : State) : State :=
  if s.coreOn then (s.setSes (fun x => { x with waiting := x.waiting ++ [f] })).runSes else s

def opSesGo (s : State) : State := if s.coreOn then s.sesSubmit.runSes else s
def opSesOpen (tr : Transport) (level : Byte) (nh : BitVec 128) (s : State) : State :=
  opSession { tr := tr, opc := 1, stat := 0, len := 17, seq := 0, payload := level :: leBytes 16 nh.toNat, mac := 0 } s
def opSesAuth (tr : Transport) (mac : BitVec 256) (s : State) : State :=
  opSession { tr := tr, opc := 2, stat := 0, len := 32, seq := 0, payload := leBytes 32 mac.toNat, mac := 0 } s
def word4 (w : Word) : List Byte := leBytes 4 w.toNat
def opSesClose (f : Frame) (s : State) : State := opSession (cmdFrame f 0x03 []) s
def opCsrRd (f : Frame) (offset : Word) (count : Byte) (s : State) : State := opSession (cmdFrame f 0x10 (word4 offset ++ [count])) s
def opCsrWr (f : Frame) (offset value : Word) (s : State) : State := opSession (cmdFrame f 0x11 (word4 offset ++ word4 value)) s
def opMbx (f : Frame) (sel : Word) (op : Byte) (d0 d1 : Word) (s : State) : State :=
  opSession (cmdFrame f 0x12 (word4 sel ++ [op] ++ word4 d0 ++ word4 d1)) s
def opLogRd (f : Frame) (count : Byte) (s : State) : State := opSession (cmdFrame f 0x13 [count]) s
def opCalGet (f : Frame) (s : State) : State := opSession (cmdFrame f 0x14 []) s
def opCalSet (f : Frame) (time : BitVec 64) (s : State) : State := opSession (cmdFrame f 0x15 (leBytes 8 time.toNat)) s
def opMode (f : Frame) (req : Byte) (s : State) : State := opSession (cmdFrame f 0x20 [req]) s
def opPpr (f : Frame) (port : Byte) (line : Word) (s : State) : State := opSession (cmdFrame f 0x21 (port :: word4 line)) s
def opImgErase (f : Frame) (slot : Byte) (s : State) : State := opSession (cmdFrame f 0x30 [slot]) s
def opImgWrite (f : Frame) (slot : Byte) (offset : Word) (bytes : List Byte) (s : State) : State :=
  opSession (cmdFrame f 0x31 (slot :: word4 offset ++ bytes)) s
def opImgRead (f : Frame) (slot : Byte) (offset : Word) (len : Byte) (s : State) : State :=
  opSession (cmdFrame f 0x32 (slot :: word4 offset ++ [len])) s
def opImgCheck (f : Frame) (slot : Byte) (s : State) : State := opSession (cmdFrame f 0x33 [slot]) s
def opReset (f : Frame) (s : State) : State := opSession (cmdFrame f 0x40 []) s
def opFuse (f : Frame) (sel : Byte) (value : BitVec 256) (s : State) : State :=
  opSession (cmdFrame f 0x41 (sel :: leBytes 32 value.toNat)) s

/-- SES_GO. -/
def execSesGo (s : State) : Host.Outcome State Fault Refusal := .next (opSesGo s)
/-- OPEN. -/
def execSesOpen (tr : Transport) (level : Byte) (nh : BitVec 128) (s : State) : Host.Outcome State Fault Refusal :=
  .next (opSesOpen tr level nh s)
/-- AUTH. -/
def execSesAuth (tr : Transport) (mac : BitVec 256) (s : State) : Host.Outcome State Fault Refusal := .next (opSesAuth tr mac s)
/-- CLOSE. -/
def execSesClose (f : Frame) (s : State) : Host.Outcome State Fault Refusal := .next (opSesClose f s)
/-- CSR_RD. -/
def execCsrRd (f : Frame) (offset : Word) (count : Byte) (s : State) : Host.Outcome State Fault Refusal :=
  .next (opCsrRd f offset count s)
/-- CSR_WR. -/
def execCsrWr (f : Frame) (offset value : Word) (s : State) : Host.Outcome State Fault Refusal := .next (opCsrWr f offset value s)
/-- MBX. -/
def execMbx (f : Frame) (sel : Word) (op : Byte) (data0 data1 : Word) (s : State) : Host.Outcome State Fault Refusal :=
  .next (opMbx f sel op data0 data1 s)
/-- LOG_RD. -/
def execLogRd (f : Frame) (count : Byte) (s : State) : Host.Outcome State Fault Refusal := .next (opLogRd f count s)
/-- CAL_GET. -/
def execCalGet (f : Frame) (s : State) : Host.Outcome State Fault Refusal := .next (opCalGet f s)
/-- CAL_SET. -/
def execCalSet (f : Frame) (time : BitVec 64) (s : State) : Host.Outcome State Fault Refusal := .next (opCalSet f time s)
/-- MODE. -/
def execMode (f : Frame) (req : Byte) (s : State) : Host.Outcome State Fault Refusal := .next (opMode f req s)
/-- PPR. -/
def execPpr (f : Frame) (port : Byte) (lineIdx : Word) (s : State) : Host.Outcome State Fault Refusal := .next (opPpr f port lineIdx s)
/-- IMG_ERASE. -/
def execImgErase (f : Frame) (slot : Byte) (s : State) : Host.Outcome State Fault Refusal := .next (opImgErase f slot s)
/-- IMG_WRITE. -/
def execImgWrite (f : Frame) (slot : Byte) (offset : Word) (bytes : List Byte) (s : State) : Host.Outcome State Fault Refusal :=
  .next (opImgWrite f slot offset bytes s)
/-- IMG_READ. -/
def execImgRead (f : Frame) (slot : Byte) (offset : Word) (len : Byte) (s : State) : Host.Outcome State Fault Refusal :=
  .next (opImgRead f slot offset len s)
/-- IMG_CHECK. -/
def execImgCheck (f : Frame) (slot : Byte) (s : State) : Host.Outcome State Fault Refusal := .next (opImgCheck f slot s)
/-- RESET. -/
def execResetCmd (f : Frame) (s : State) : Host.Outcome State Fault Refusal := .next (opReset f s)
/-- FUSE. -/
def execFuse (f : Frame) (sel : Byte) (value : BitVec 256) (s : State) : Host.Outcome State Fault Refusal := .next (opFuse f sel value s)

/-! ### Operations that end later -/

/-- A byte is programmed or erased. -/
def Flash.put (f : Flash) (a : Nat) (b : Byte) : Flash := { f with bytes := Sparse.set (fun _ => 0xFF#8) f.bytes a b }

/-- Erases a slot. -/
def Flash.eraseSlot (f : Flash) (x : Slot) : Flash :=
  { f with bytes := f.bytes.filter (fun e => e.1 < slotBase x || slotBase x + slotSize ≤ e.1) }

/-- Programs bytes: the AND of old and new (R422). -/
def Flash.program (f : Flash) (a : Nat) : List Byte → Flash
  | [] => f
  | b :: t => Flash.program (f.put a (f.byte a &&& b)) (a + 1) t

/-- A session command has changed a slot (R413). -/
def State.reprov (s : State) (old : Flash) : State :=
  if s.flash.bytes = old.bytes then s else (s.wb F.IMG_STAT.REPROV true).raiseBare 232 unitBoot

/-- The flash operation under way ends, and its reply is sent. No image record gives the port kinds: a check judges a slot with the kinds
in force (DESIGN CHOICE, log entry 32). -/
def opFlashDone (s : State) : State :=
  match s.flash.op with
  | none => s
  | some op =>
    let s1 : State := { s with flash := { s.flash with op := none } }
    let s2 := match op with
      | .erase tr seq x => (({ s1 with flash := s1.flash.eraseSlot x } : State).reprov s.flash).performed tr 0x30 seq 0 []
      | .write tr seq x off l =>
        ((({ s1 with flash := s1.flash.program (slotBase x + off) l } : State).count (startCtr 7) l.length).reprov s.flash).performed
          tr 0x31 seq 0 []
      | .check tr seq x => s1.performed tr 0x33 seq 0 [BitVec.ofNat 8 (s1.validate x s1.img.kinds).1]
    s2.runSes

/-- FLASH_OPERATION_DONE. -/
def execFlashOperationDone (s : State) : Host.Outcome State Fault Refusal := .next (opFlashDone s)

/-- Instance 3 has finished the MBX command that waits for it. -/
def State.mailReply (s : State) : State :=
  let x := s.mail 3
  match x.waiter with
  | some (tr, seq) =>
    if x.busy then s
    else ((s.setMail 3 (fun x => { x with waiter := none })).performed tr 0x12 seq 0 x.replyBytes).runSes
  | none => s

def opMailDone (m : Fin 4) (s : State) : State := (s.mailDone m).mailReply
def opMailTimeout (m : Fin 4) (s : State) : State := (s.mailAbandon m).mailReply

/-- MBX_CAPTURE_DONE. -/
def execMbxCaptureDone (m : Fin 4) (s : State) : Host.Outcome State Fault Refusal := .next (opMailDone m s)
/-- MBX_TIMEOUT. -/
def execMbxTimeout (m : Fin 4) (s : State) : Host.Outcome State Fault Refusal := .next (opMailTimeout m s)

/-- The hPPR sequence of a port ends (R371); the session gets MEM_STAT. -/
def opHpprEnd (m : MemNo) (s : State) : State :=
  let s1 := opHpprDone m s
  match s.ses.ppr with
  | some (tr, seq, k) =>
    if k = m then
      ((s1.setSes (fun x => { x with ppr := none })).performed tr 0x21 seq 0 (word4 (s1.csrRead (Reg.MEM_STAT m)))).runSes
    else s1
  | none => s1

/-- HPPR_DONE. -/
def execHpprDone (m : MemNo) (s : State) : Host.Outcome State Fault Refusal := .next (opHpprEnd m s)

/-! ### Timeouts and I3C (R414, R419, R420) -/

def opLockoutExpiry (tr : Transport) (s : State) : State :=
  match (s.ses.get tr).lockEnd with
  | some e => if e ≤ s.fine then s.setSession tr (fun x => { x with lockEnd := none }) else s
  | none => s

/-- LOCKOUT_EXPIRY. -/
def execLockoutExpiry (tr : Transport) (s : State) : Host.Outcome State Fault Refusal := .next (opLockoutExpiry tr s)

/-- A command of the transport is under way. -/
def State.trWorking (s : State) (tr : Transport) : Bool :=
  (match s.flash.op with
   | some (.erase t _ _) => t == tr
   | some (.write t _ _ _ _) => t == tr
   | some (.check t _ _) => t == tr
   | none => false) || s.ses.ppr.any (fun x => x.1 == tr) || (s.mail 3).waiter.any (fun x => x.1 == tr)

def opIdle (tr : Transport) (s : State) : State :=
  let x := s.ses.get tr
  if x.isOpen && !s.trWorking tr && decide (x.lastAt + 60 * nsPerS ≤ s.fine) then s.closeSession tr else s

/-- SESSION_IDLE_TIMEOUT. -/
def execSessionIdleTimeout (tr : Transport) (s : State) : Host.Outcome State Fault Refusal := .next (opIdle tr s)

def opEntdaa (a : BitVec 7) (s : State) : State := if s.coreOn then s.setSes (fun x => { x with i3cAddr := some a }) else s
def opEnec (s : State) : State := if s.coreOn then s.setSes (fun x => { x with ibiEnabled := true }) else s

/-- ENTDAA. -/
def execEntdaa (addr : BitVec 7) (s : State) : Host.Outcome State Fault Refusal := .next (opEntdaa addr s)
/-- ENEC. -/
def execEnec (s : State) : Host.Outcome State Fault Refusal := .next (opEnec s)

/-! ### Register writes with no step of their own (R374) -/

/-- A 4-byte CSR write at an offset. -/
def opCsrWrite (off : BitVec 26) (v : Word) (s : State) : State :=
  let o := off.toNat
  let u : CsrUser := { who := reqNone, node := s.node }
  let sa := csrAddr s.node o
  if !s.coreOn then s
  else if o % 4 ≠ 0 then s.raiseLog 1 unitRegs (u.detail sa)
  else if (csrBlock o).isNone then s.csrOutside u sa
  else (s.csrWrite o v).runSes

/-- CSR_WRITE. -/
def execCsrWrite (offset : BitVec 26) (v : Word) (s : State) : Host.Outcome State Fault Refusal := .next (opCsrWrite offset v s)

end Sys2Proof.Machine
end

