-- ==== Sys2Proof/Machine/Front.lean ====
section
/-! DEFINITION. The front end of the agent ports: arrival of requests, the order in which they go on, where they go
(R44, R57 to R61, R196, R258, R265, R268, R343, R345, Table 12.2), walks' descriptor reads, device accesses of other
nodes. -/

namespace Sys2Proof.Machine
open Sys2Proof

/-! ### Requests -/

/-- Opcode of a request (Table 11.4). -/
def AgReq.opc (q : AgReq) : Nat :=
  match q.op with
  | .rdS => 0x01
  | .rdU => 0x02
  | .upg => 0x03
  | .rd => 0x04
  | .rdC => 0x05
  | .store => if q.posted then 0x08 else 0x09
  | .wrB => 0x0A
  | .evC => 0x0B
  | .wrH => 0x0C
  | .atm => 0x10
  | .clean => 0x12
  | .flush => 0x13
  | .inval => 0
  | .prefetch => 0
  | .fwb => 0
  | .fev => 0

/-- Table 6.2 permits the request on a port of the kind (R196). -/
def permitsOp (caching : Bool) : ReqOp → Bool
  | .rdS => caching
  | .rdU => caching
  | .upg => caching
  | .wrB => caching
  | .evC => caching
  | .rd => !caching
  | _ => true

/-- Served as P2 with its credit back in its pool, whatever the credit (R59, R274). -/
def AgReq.background (q : AgReq) : Bool := q.op == .clean || q.op == .flush || q.ord

/-- A demand read or a read for ownership, which trains the Drill (R162). -/
def ReqOp.trains : ReqOp → Bool
  | .rdS => true
  | .rdU => true
  | .rd => true
  | .rdC => true
  | _ => false

/-- The answer that ends a request with a status: WbCmp for WrB and EvC, otherwise Cmp (Table 11.4). -/
def AgReq.errMsg (q : AgReq) (stat : Nat) (fcode : BitVec 3) : AgentMsg :=
  { opc := if q.op == .wrB || q.op == .evC then opWbCmp else opCmp, tag := q.tag, stat := BitVec.ofNat 4 stat, fcode := fcode }

/-! ### The front end -/

def State.dropFront (s : State) (p : Port) (id : Nat) : State :=
  s.setPort p (fun x => { x with front := x.front.filter (fun f => f.id != id) })

def State.setFront (s : State) (p : Port) (id : Nat) (g : FrontReq → FrontReq) : State :=
  s.setPort p (fun x => { x with front := modFirst (fun (f : FrontReq) => f.id == id) g x.front })

/-- The promise of a request: an answered one by its tag, a posted store by its point. -/
def AgReq.promiseId (q : AgReq) (p : Port) (id : Nat) : PromiseId :=
  if q.posted then .device (dieOfPort p) (postedId p id) else .agent p q.tag

/-- The request is served as P2 (R59). -/
def State.asP2 (s : State) (p : Port) (q : AgReq) (id : Nat) : State :=
  if q.posted then s.dropPromises (fun x => x == q.promiseId p id) else s.unpromise p q.tag

/-- A request ends without being performed: its status, or nothing for a posted one. -/
def State.refuseReq (s : State) (p : Port) (q : AgReq) (id stat : Nat) (fcode : BitVec 3 := 0) : State :=
  let s1 := s.pointReached p id
  if q.posted then s1.asP2 p q id else s1.answer p (q.errMsg stat fcode)

/-- A request ends at its port. -/
def State.refuse (s : State) (p : Port) (f : FrontReq) (stat : Nat) (fcode : BitVec 3 := 0) : State :=
  (s.dropFront p f.id).refuseReq p f.req f.id stat fcode

/-- The address error of R31 at the port. -/
def State.refuseAddr (s : State) (p : Port) (f : FrontReq) (sa : SysAddr) : State :=
  (s.addrError (unitPort p) (reqAgent p) s.node sa).refuse p f 1

/-! ### Arrival -/

/-- The steered credit of a request is of the wrong channel (R57). An MClean or MFlush is served as P2, and no channel is tested
(DESIGN CHOICE, log entry 26). -/
def State.wrongChannel (s : State) (p : Port) (q : AgReq) (sa : SysAddr) : Bool :=
  s.caching p && decide (q.cls.toNat < 2) && !q.background && spaceOf sa == .memory &&
    q.ch.toNat != (s.chanOfLine (lineOf sa)).val

/-- A read to ownership or for an agent's cache, aimed at a DEV address (R120). -/
def State.devCached (s : State) (op : ReqOp) (sa : SysAddr) : Bool :=
  (op == .rdS || op == .rdU || op == .upg) && s.policyOf sa == pDEV

/-- A read of fewer bytes than a line that is not aligned to its size. -/
def AgReq.misaligned (q : AgReq) (sa : SysAddr) : Bool := q.op == .rdC && !aligned sa.toNat q.sz.toNat

/-- A demand read of memory space that gets no address error trains the Drill (R162). -/
def State.trainsOn (s : State) (p : Port) (q : AgReq) (sa : SysAddr) : Bool :=
  spaceOf sa == .memory && !s.addrBad sa && !s.wrongChannel p q sa && !s.devCached q.op sa && !q.misaligned sa

/-- The training access of a request, on the address space that the port trains on; whether it is one shows with its translation. -/
def State.trainLater (s : State) (p : Port) (q : AgReq) (id : Nat) : State :=
  if q.op.trains && permitsOp (s.caching p) q.op then
    let line := if s.caching p then (lineOf q.addr).toNat else q.addr.toNat % 2 ^ 48 / 128
    s.setDrill p (fun x => { x with training := x.training ++ [{ id := id, line := line, ok := none }] })
  else s

/-- Applies the training accesses that are decided, in their order of arrival (R167). -/
def State.drainTraining (p : Port) : Nat → State → State
  | 0, s => s
  | n + 1, s =>
    match (s.drill p).training with
    | [] => s
    | a :: rest =>
      match a.ok with
      | none => s
      | some ok =>
        let s1 := s.setDrill p (fun x => { x with training := rest })
        State.drainTraining p n (if ok then s1.train p a.line else s1)

/-- A request's translation has shown whether it trains. -/
def State.trainKnown (s : State) (p : Port) (id : Nat) (ok : Bool) : State :=
  let s1 := s.setDrill p (fun x => { x with training := x.training.map (fun a => if a.id = id then { a with ok := some ok } else a) })
  State.drainTraining p (s1.drill p).training.length s1

/-- What the arrival of a request records: its tag, its promise, its point and its place in program order. -/
def State.enqueue (s : State) (p : Port) (q : AgReq) (cr : Credit) : State :=
  let id := (s.port p).nextPoint
  let free := decide (1 < q.cls.toNat) || !cr.promise || q.background
  let use : TagUse := { tag := q.tag, at_ := s.fine, ceiling := free, ended := false, credit := some cr, point := id }
  let req : AgReq := if q.background then { q with cls := 2 } else q
  let f : FrontReq := { req := req, id := id, at_ := s.fine, tr := .todo, credit := if q.background then none else some cr }
  let s1 := (s.setPort p (fun x => { x with
    nextPoint := id + 1
    points := x.points ++ [{ id := id, isWrite := q.op.writes }]
    tags := if q.posted then x.tags else x.tags ++ [use]
    front := x.front ++ [f] })).trainLater p q id
  if free then s1
  else
    let m : Promise := { id := q.promiseId p id, p1 := q.cls == 1, deadline := none, issued := s.fine, floor := cr.floor,
                         mode := cr.mode.toNat, remote := false, overrun := false }
    { s1 with prm := { s1.prm with inFlight := s1.prm.inFlight ++ [m] } }

/-! ### Order at the port (R258, R265, R268, R272, R294) -/

/-- The request has been found to end in a fault or an address error of R37. -/
def FrontReq.faulting (f : FrontReq) : Bool := match f.tr with | .fault _ _ => true | _ => false

/-- The line of a request that has not gone on, where it is known. -/
def State.frontLine (s : State) (p : Port) (f : FrontReq) : Option LineAddr :=
  if s.caching p then some (lineOf f.req.addr)
  else match f.tr with
    | .ready sa _ => some (lineOf sa)
    | _ => none

/-- An earlier request may be for the line: it is, or it is still in translation and its page offset allows it. -/
def State.mayMeet (s : State) (p : Port) (f : FrontReq) (l : LineAddr) : Bool :=
  match s.frontLine p f with
  | some m => m == l
  | none => !f.faulting && (f.req.addr.extractLsb' 7 5) == l.extractLsb' 0 5

/-- An earlier request is a DEV request, or may be. -/
def State.mayBeDev (s : State) (p : Port) (f : FrontReq) : Bool :=
  if s.caching p then s.policyOf f.req.addr == pDEV
  else match f.tr with
    | .ready sa _ => s.policyOf sa == pDEV
    | _ => !f.faulting

/-- Lines of the posted-write queue's entries in the order of the queue. -/
def State.pwqLines (s : State) (p : Port) : List (Nat × LineAddr) :=
  let q := s.pwq p
  let own := fun (x : PwqEntry) => (x.id, lineOf x.addr)
  let cap := max 1 (s.pwqShare p)
  let mid := q.midIds.zipIdx.map (fun x =>
    let g := s.shareBase p + 2 * ((q.midAt + x.2) % cap)
    (x.1, lineOf (pwqOfHeader (s.coh.readSlot s (spillSlot (g + 1))).1 0 x.1).addr))
  q.head.map own ++ mid ++ q.tail.map own

/-- A request must wait for an earlier one of its port: for the line (R258), as a DEV request (R268), or as an ordered write for its
stream (R272). -/
def State.mustWait (s : State) (p : Port) (f : FrontReq) (sa : SysAddr) : Bool :=
  let l := lineOf sa
  let before := (s.port p).front.filter (fun g => decide (g.id < f.id))
  before.any (fun g => s.mayMeet p g l) ||
    (f.req.ord && before.any (fun g => g.req.ord && g.req.strm == f.req.strm && !g.faulting)) ||
    (!f.req.ord && (s.pwqLines p).any (fun x => decide (x.1 < f.id) && x.2 == l)) ||
    (s.policyOf sa == pDEV &&
      (before.any (fun g => s.mayBeDev p g) || (!f.req.ord && (s.port p).points.any (fun o => o.dev && decide (o.id < f.id)))))

/-- A fence of the port holds the request (R265). -/
def State.fenceHolds (s : State) (p : Port) (f : FrontReq) : Bool :=
  (s.port p).fences.any (fun x => x.holds f.id f.req.op.writes)

/-- A request that a ceiling has ended still runs under the tag (R60). -/
def State.tagBusy (s : State) (p : Port) (f : FrontReq) : Bool :=
  !f.req.posted && (s.port p).tags.any (fun t => t.ended && t.tag == f.req.tag && t.point != f.id)

/-! ### Where a request goes (R44) -/

/-- The request has left the front end; its bound runs from the time it was last held (R265, R294). -/
def State.leave (s : State) (p : Port) (f : FrontReq) (page : Option PageId) (dev : Bool) : State :=
  let s1 := (s.dropFront p f.id).setPort p (fun x => { x with
    points := x.points.map (fun o => if o.id = f.id then { o with page := page, dev := dev } else o) })
  { s1 with prm := { s1.prm with inFlight := s1.prm.inFlight.map (fun q =>
      if q.id = f.req.promiseId p f.id then { q with issued := f.at_ } else q) } }

/-- The request still has its promise. -/
def State.promised (s : State) (p : Port) (f : FrontReq) : Bool :=
  decide (f.req.cls.toNat < 2) && s.prm.inFlight.any (fun q => q.id == f.req.promiseId p f.id)

/-- Requests that reach a register or an MMIO window: RdC, stores; on an MMIO window also Rd and WrH, as the read and the
store of a full line that they are. -/
def devOp (mmio : Bool) : ReqOp → Bool
  | .rdC => true
  | .store => true
  | .rd => mmio
  | .wrH => mmio
  | _ => false

def AgReq.isRead (q : AgReq) : Bool := q.op == .rdC || q.op == .rd

/-- The slice request of an agent request. -/
def AgReq.toReq (q : AgReq) (p : Port) (sa : SysAddr) (id : Nat) : Req :=
  { src := .agent p, op := q.op, line := lineOf sa, off := sa.extractLsb' 0 7, sz := q.sz, cls := q.cls, tag := q.tag,
    posted := q.posted, cl := encodeLine q.data.bytes q.data.poison, mask := q.data.mask, aop := q.aop, operand := q.operand,
    compare := q.compare, nr := q.nr, tgt := q.tgt, point := id }

/-- Header slot of a request (Table 11.2), with the system address. -/
def AgReq.hdr (q : AgReq) (sa : SysAddr) : BitVec 160 :=
  BitVec.ofNat 160 (q.opc + 2 ^ 6 * q.cls.toNat + 2 ^ 8 * q.tag.toNat + 2 ^ 20 * q.ch.toNat + 2 ^ 23 * q.nr.toNat + 2 ^ 24 * sa.toNat
    + 2 ^ 76 * q.sz.toNat + 2 ^ 79 * q.aop.toNat + 2 ^ 83 * q.ord.toNat + 2 ^ 84 * q.strm.toNat + 2 ^ 88 * q.tgt.toNat)

/-- A request goes from its port to the unit that serves it, over the Headland where that is on the other die (R21, R44). -/
def State.sendTo (s : State) (p : Port) (q : AgReq) (id : Nat) (sa : SysAddr) (u : HdlUnit) : State :=
  let line := if q.op == .store || q.op == .wrB || q.op == .wrH then some (encodeLine q.data.bytes q.data.poison) else none
  (s.cross (.port p) u false 0 q.cls (q.hdr sa) line (if q.op == .store then some q.data.mask else none)).servedBy p id u

/-- A request for another node's register or MMIO window goes out under a fabric tracker (R350); none where it waits. -/
def State.remoteDev (s : State) (p : Port) (q : AgReq) (id : Nat) (sa : SysAddr) : Option State :=
  let r := q.toReq p sa id
  if s.deadNodes.contains (nodeOf sa) then some (s.refuseReq p q id 5)
  else
    let opc := if q.isRead then fDevRd else fDevWr
    let pay := if q.isRead then FabPayload.none else .store q.data
    match s.coh.request s r .dev opc (fun h => { h with off := if q.isRead then r.off.toNat else 0,
                                                        sz := if q.isRead then q.sz.toNat else 0,
                                                        pst := !q.isRead && q.posted }) pay with
    | none => none
    | some c => some ((s.passDone p id true).runCoh (fun _ => c))

/-- A register access of the port's own node. -/
def State.ownCsr (s : State) (p : Port) (q : AgReq) (id : Nat) (sa : SysAddr) (off : Nat) : State :=
  let u : CsrUser := { who := reqAgent p, node := s.node }
  let s0 := (s.sendTo p q id sa (csrUnit off)).passDone p id false
  if q.isRead then
    let r := s0.csrReadAccess u sa off q.sz.toNat
    let s1 := r.2.2.pointReached p id
    if r.1 = 0 then s1.answer p { opc := opData, tag := q.tag, addr := sa, bytes := r.2.1 } else s1.answer p (cmpMsg q.tag 0 r.1)
  else
    let r := s0.csrWriteAccess u sa (off / 128 * 128) q.data
    let s1 := r.2.runSes.pointReached p id
    if q.posted then s1 else s1.answer p (cmpMsg q.tag 0 r.1)

/-- The status that a request for a window of this node ends with: R47 gives a port an enable bit that no register holds, and a port
is disabled here when its kind is off (DESIGN CHOICE, log entry 32). -/
def State.windowStat (s : State) (w : BitVec 4) : Nat :=
  let own := s.ownerOf w.toNat
  if 6 ≤ own then 1
  else if s.kind (Fin.ofNat 6 own) == .off then 1
  else if s.dead (Fin.ofNat 6 own) then 4
  else 0

/-- A request for an MMIO window of the port's own node joins the owner's queue (R32, R33, R47, R229). -/
def State.ownMmio (s : State) (p : Port) (q : AgReq) (id : Nat) (sa : SysAddr) (w : BitVec 4) : State :=
  let stat := s.windowStat w
  if stat ≠ 0 then
    (if stat = 1 then s.addrError (unitPort p) (reqAgent p) s.node sa else s).refuseReq p q id stat
  else
    let d : DevReq := { src := .agent p q.tag id, kind := if q.isRead then .dRd else if q.posted then .dWrP else .dWrN,
                        window := w, addr := sa.extractLsb' 0 36, sz := q.sz, data := q.data }
    let o : Port := Fin.ofNat 6 (s.ownerOf w.toNat)
    ((s.sendTo p q id sa (.port o)).passDone p id false).setPort o (fun x => { x with dreqQ := x.dreqQ ++ [d] })

/-- A request for a register or an MMIO window goes to it; none where it waits for a tracker. -/
def State.toDev (s : State) (p : Port) (q : AgReq) (id : Nat) (sa : SysAddr) : Option State :=
  if nodeOf sa ≠ s.node then s.remoteDev p q id sa
  else match spaceOf sa with
    | .csr off => some (s.ownCsr p q id sa off.toNat)
    | .mmio w => some (s.ownMmio p q id sa w)
    | _ => some s

/-- An ordered write enters the posted-write queue (R271). -/
def State.toPwq (s : State) (p : Port) (f : FrontReq) (sa : SysAddr) (divert : Bool) : State :=
  s.pushPwq p { strm := f.req.strm, addr := sa, cl := encodeLine f.req.data.bytes f.req.data.poison, mask := f.req.data.mask,
                id := f.id, divert := divert }

/-- A request for memory space goes to its slice, an ordered write to the posted-write queue. -/
def State.toMemory (s : State) (p : Port) (f : FrontReq) (sa : SysAddr) (page : Option PageId) : State :=
  let q := f.req
  let pol := s.policyOf sa
  if s.devCached q.op sa then s.refuseAddr p f sa
  else if q.misaligned sa ||
      (q.op == .atm && (!(atomicSizes q.aop.toNat).contains q.sz.toNat || !aligned sa.toNat q.sz.toNat)) then s.refuse p f 1
  else
    let d := if q.op == .store then s.swath p sa (q.data.mask == fullMask) true
      else if q.isRead || q.op == .rdS || q.op == .rdU then s.swath p sa false false
      else (false, s)
    let s1 := d.2.leave p f page (pol == pDEV)
    if q.ord then s1.toPwq p f sa d.1
    else
      let r := q.toReq p sa f.id
      let whole := q.op == .rd && (pol == pUC || pol == pDEV)
      (s1.sendTo p q f.id sa (.slice (sliceOf (lineOf sa)))).arriveReq { r with
        op := if whole then .rdC else q.op
        off := if whole then 0 else r.off
        sz := if whole then 7 else r.sz
        noAlloc := q.op == .atm && (pol == pUC || pol == pDEV || pol == pWT)
        divert := d.1
        resv := f.credit.isSome && decide (q.cls.toNat < 2)
        bounded := s.promised p f }

/-- A translated request that nothing holds goes where Table 1.8 sends it; none where it waits for a tracker. -/
def State.route (s : State) (p : Port) (f : FrontReq) (sa : SysAddr) (page : Option PageId) : Option State :=
  if s.addrBad sa || s.wrongChannel p f.req sa then some (s.refuseAddr p f sa)
  else
    let dev := fun (_ : Unit) =>
      let s1 := s.leave p f page true
      if f.req.ord then some (s1.toPwq p f sa false) else s1.toDev p f.req f.id sa
    match spaceOf sa with
    | .csr _ => if !devOp false f.req.op then some (s.refuseAddr p f sa) else dev ()
    | .mmio w =>
      if !devOp true f.req.op || (nodeOf sa == s.node && s.windowStat w == 1) then some (s.refuseAddr p f sa)
      else if f.req.misaligned sa then some (s.refuse p f 1)
      else dev ()
    | .memory => some (s.toMemory p f sa page)
    | .reserved => some (s.refuseAddr p f sa)

/-! ### The scan -/

/-- A request that cannot be translated ends: recorded, with the translation-fault status (R307, R308), or with the address
error of R37 at the system address of identity mode. -/
def State.faulted (s : State) (p : Port) (f : FrontReq) (code : BitVec 3) (level : Nat) : State :=
  let pa : PortAddr := f.req.addr.setWidth 48
  if code = 0 then s.refuseAddr p f (BitVec.ofNat 9 s.node ++ pa.setWidth 43)
  else (s.recordFault p code f.req.op.kind f.req.posted f.req.tag pa level).refuse p f 3 code

/-- The lookup of a request; `again` where it has missed before and no walk serves it. -/
def State.lookupFront (s : State) (p : Port) (f : FrontReq) (again : Bool) : State :=
  if s.caching p then s.setFront p f.id (fun g => { g with tr := .ready f.req.addr none })
  else
    let pa : PortAddr := f.req.addr.setWidth 48
    let t := s.translateDemand p pa f.req.op.kind again
    let s1 := t.2.2.setFront p f.id (fun g => { g with tr := t.1 })
    match t.2.1 with
    | some i => s1.startWalk p (.demand i) pa
    | none => s1

/-- Looks up a request that has no translation and that no walk serves. -/
def State.translateFront (s : State) (p : Port) (f : FrontReq) : State :=
  match f.tr with
  | .todo => s.lookupFront p f false
  | .wait ctx => if (s.ptu p).walking ctx (f.req.addr.setWidth 48) then s else s.lookupFront p f true
  | _ => s

/-- What a request's translation shows at once: whether it trains (R162), and whether it is served as P2 with its credit back in its
pool (R59). -/
def State.settleFront (s : State) (p : Port) (f : FrontReq) : State :=
  match f.tr with
  | .ready sa _ =>
    let s1 := s.trainKnown p f.id (s.trainsOn p f.req sa)
    let dev := match spaceOf sa with | .csr _ => true | .mmio _ => true | _ => false
    if dev && decide (f.req.cls.toNat < 2) then
      (s1.setFront p f.id (fun g => { g with req := { g.req with cls := 2 }, credit := none })).asP2 p f.req f.id
    else s1
  | .fault _ _ => s.trainKnown p f.id false
  | _ => s

/-- A request that a fence holds is counted once. -/
def State.noteFenced (s : State) (p : Port) (f : FrontReq) : State :=
  if s.fenceHolds p f && !f.fenced then (s.count (ordCtr p 3)).setFront p f.id (fun g => { g with fenced := true }) else s

def State.frontReq (s : State) (p : Port) (id : Nat) : Option FrontReq := (s.port p).front.find? (fun f => f.id == id)

/-- A translated request that nothing holds goes on. -/
def State.goOn (s : State) (p : Port) (f : FrontReq) : State :=
  if s.fenceHolds p f || s.tagBusy p f then s
  else match f.tr with
    | .fault code level => s.faulted p f code level
    | .ready sa page => if s.mustWait p f sa then s else (s.route p f sa page).getD s
    | _ => s

/-- One request of the front end goes as far as it can: it is translated, and then goes on. -/
def State.frontOne (p : Port) (s : State) (id : Nat) : State :=
  match s.frontReq p id with
  | none => s
  | some f =>
    let s1 := (s.noteFenced p f).translateFront p f
    match s1.frontReq p id with
    | none => s1
    | some g =>
      let s2 := s1.settleFront p g
      match s2.frontReq p id with
      | none => s2
      | some h => s2.goOn p h

/-- Every request of the port's front end, in program order, then the descriptor reads that are due. -/
def State.frontPass (p : Port) : Nat → State → State
  | 0, s => s
  | n + 1, s =>
    let s1 := ((s.port p).front.map FrontReq.id).foldl (State.frontOne p) s
    if (s1.ptu p).anyDue then State.frontPass p n (s1.walkReads p) else s1

/-- The front end of a port; each of its requests may start a walk that ends at once. -/
def State.frontScan (p : Port) (s : State) : State := State.frontPass p ((s.port p).front.length + 8) s

/-- The front ends of all ports. -/
def State.frontAll (s : State) : State := (fins 6).foldl (fun s p => s.frontScan p) s

/-- An agent request arrives. One for whose class and channel the agent holds no credit is served under a ceiling, as if sent
with a credit that promises nothing (DESIGN CHOICE, log entry 25). -/
def opArrive (p : Port) (q : AgReq) (s : State) : State :=
  if !s.takes p then s
  else if !q.posted && s.tagHeld p q.tag then s.portError p q.opc q.addr
  else
    let cls := if q.cls = 3 then 2 else q.cls
    let s1 := if q.ord && s.caching p then
        ((s.wb (F.AGP_PWQ_STAT.ORD_CACHING p) true).count (ordCtr p 7))
      else s
    let t := s1.takeCredit p cls q.ch
    let cr := t.1.getD { kind := .agent, cls := cls, ch := q.ch, mode := 1, floor := 0, promise := false }
    let r := { q with cls := cls, ord := q.ord && s.hasPwq p }
    let s2 := t.2.enqueue p r cr
    if permitsOp (s.caching p) q.op then s2.frontScan p
    else match (s2.port p).front.getLast? with
      | some f => s2.refuseAddr p f ((s2.knownAddr p q.addr).getD q.addr)
      | none => s2

/-! ### Agent requests -/

def reqOfHdr (h : ReqHdr) (op : ReqOp) : AgReq := { op := op, cls := h.cls, tag := h.tag, ch := h.ch, addr := h.addr }

def opRds (h : ReqHdr) (s : State) : State := opArrive h.port (reqOfHdr h .rdS) s
def opRdu (h : ReqHdr) (s : State) : State := opArrive h.port (reqOfHdr h .rdU) s
def opUpg (h : ReqHdr) (s : State) : State := opArrive h.port (reqOfHdr h .upg) s
def opRd (h : ReqHdr) (s : State) : State := opArrive h.port (reqOfHdr h .rd) s
def opRdc (h : ReqHdr) (sz : BitVec 3) (s : State) : State := opArrive h.port { reqOfHdr h .rdC with sz := sz } s
def opWrp (h : ReqHdr) (d : StoreData) (ord : Bool) (strm : BitVec 4) (s : State) : State :=
  opArrive h.port { reqOfHdr h .store with posted := true, data := d, ord := ord, strm := strm } s
def opWrn (h : ReqHdr) (d : StoreData) (s : State) : State := opArrive h.port { reqOfHdr h .store with data := d } s

/-- A full line as store data. -/
def lineStore (d : FullData) : StoreData := { bytes := d.bytes, mask := fullMask, poison := d.poison }

def opWrb (h : ReqHdr) (d : FullData) (s : State) : State := opArrive h.port { reqOfHdr h .wrB with data := lineStore d } s
def opEvc (h : ReqHdr) (s : State) : State := opArrive h.port (reqOfHdr h .evC) s
def opWrh (h : ReqHdr) (d : FullData) (tgt : BitVec 3) (s : State) : State :=
  opArrive h.port { reqOfHdr h .wrH with posted := true, data := lineStore d, tgt := tgt } s
def opAtm (h : ReqHdr) (sz : BitVec 3) (aop : BitVec 4) (operand compare : BitVec 128) (nr : Bool) (s : State) : State :=
  opArrive h.port { reqOfHdr h .atm with sz := sz, aop := aop, operand := operand, compare := compare, nr := nr } s
def opMclean (h : ReqHdr) (s : State) : State := opArrive h.port (reqOfHdr h .clean) s
def opMflush (h : ReqHdr) (s : State) : State := opArrive h.port (reqOfHdr h .flush) s

/-- RDS. -/
def execRds (h : ReqHdr) (s : State) : Host.Outcome State Fault Refusal := .next (opRds h s)
/-- RDU. -/
def execRdu (h : ReqHdr) (s : State) : Host.Outcome State Fault Refusal := .next (opRdu h s)
/-- UPG. -/
def execUpg (h : ReqHdr) (s : State) : Host.Outcome State Fault Refusal := .next (opUpg h s)
/-- RD. -/
def execRd (h : ReqHdr) (s : State) : Host.Outcome State Fault Refusal := .next (opRd h s)
/-- RDC. -/
def execRdc (h : ReqHdr) (sz : BitVec 3) (s : State) : Host.Outcome State Fault Refusal := .next (opRdc h sz s)
/-- WRP. -/
def execWrp (h : ReqHdr) (d : StoreData) (ord : Bool) (strm : BitVec 4) (s : State) : Host.Outcome State Fault Refusal :=
  .next (opWrp h d ord strm s)
/-- WRN. -/
def execWrn (h : ReqHdr) (d : StoreData) (s : State) : Host.Outcome State Fault Refusal := .next (opWrn h d s)
/-- WRB. -/
def execWrb (h : ReqHdr) (d : FullData) (s : State) : Host.Outcome State Fault Refusal := .next (opWrb h d s)
/-- EVC. -/
def execEvc (h : ReqHdr) (s : State) : Host.Outcome State Fault Refusal := .next (opEvc h s)
/-- WRH. -/
def execWrh (h : ReqHdr) (d : FullData) (tgt : BitVec 3) (s : State) : Host.Outcome State Fault Refusal :=
  .next (opWrh h d tgt s)
/-- ATM. -/
def execAtm (h : ReqHdr) (sz : BitVec 3) (aop : BitVec 4) (operand compare : BitVec 128) (nr : Bool) (s : State) :
    Host.Outcome State Fault Refusal := .next (opAtm h sz aop operand compare nr s)
/-- MCLEAN. -/
def execMclean (h : ReqHdr) (s : State) : Host.Outcome State Fault Refusal := .next (opMclean h s)
/-- MFLUSH. -/
def execMflush (h : ReqHdr) (s : State) : Host.Outcome State Fault Refusal := .next (opMflush h s)

/-! ### Walks (R291, R292) -/

/-- The descriptor of a walk's level has been read (R292); a marked word ends the walk, for a speculative walk without an event
(R296). -/
def State.walkGot (s : State) (p : Port) (id : WalkId) (w : Walk) (stat : BitVec 4) (d : BitVec 64) (marked : Bool) : State :=
  let a := descAddr w.table w.level w.pa
  if stat ≠ 0 then s.endWalk p id w (.fault 5 w.level)
  else if marked then
    (if id = .speculative then s else s.consumed 1 (unitPort p) reqDevice a (2 ^ (a.toNat % 128 / 8))).endWalk p id w (.fault 5 w.level)
  else match readDesc d w.level w.pa w.ctx (walkSrc id) with
    | .pointer t =>
      s.setPtu p (fun x => x.setWalk id (some { w with level := w.level + 1, table := t, due := true, got := none }))
    | .leaf t => s.endWalk p id w (.leaf t)
    | .bad c => s.endWalk p id w (.fault c w.level)

def opWalkRead (p : Port) (id : WalkId) (s : State) : State :=
  match (s.ptu p).walk id with
  | none => s
  | some w =>
    match w.got with
    | none => s
    | some (stat, d, marked) => (s.walkGot p id w stat d marked).frontScan p

/-- WALK_DESCRIPTOR_READ. -/
def execWalkDescriptorRead (p : Port) (w : WalkId) (s : State) : Host.Outcome State Fault Refusal := .next (opWalkRead p w s)

/-! ### Register and MMIO accesses of other nodes (R34, R350) -/

/-- An address that no register or window answers. -/
def State.devRefuse (s : State) (h : FabHdr) (sa : SysAddr) (stat : Nat) (read : Bool) : State :=
  let s1 := if stat = 1 then s.addrError unitRegs reqNode h.src.toNat sa else s
  s1.devReply (.regs 0) h.src h.rtrk h.line (if read then some 0 else none) stat

/-- A device request of another node joins the owner's queue. -/
def State.nodeMmio (s : State) (h : FabHdr) (sa : SysAddr) (w : BitVec 4) (kind : DevKind) (sz : BitVec 3) (d : StoreData) :
    State :=
  let own := s.ownerOf w.toNat
  let read := kind == .dRd
  if 6 ≤ own then s.devRefuse h sa 1 read
  else
    let o : Port := Fin.ofNat 6 own
    if s.kind o == .off then s.devRefuse h sa 1 read
    else if s.dead o then s.devRefuse h sa 4 read
    else
      let q : DevReq := { src := .node h.src h.rtrk, kind := kind, window := w, addr := sa.extractLsb' 0 36, sz := sz, data := d }
      s.setPort o (fun x => { x with dreqQ := x.dreqQ ++ [q] })

def opFdevrd (h : FabHdr) (off : BitVec 7) (sz : BitVec 3) (s : State) : State :=
  let sa := saOf h.line ||| off.setWidth 52
  if nodeOf sa ≠ s.node then s.devRefuse h sa 1 true
  else match spaceOf sa with
    | .csr o =>
      let r := s.csrReadAccess { who := reqNode, node := h.src.toNat } sa o.toNat sz.toNat
      r.2.2.devReply (csrUnit o.toNat) h.src h.rtrk h.line (some (encodeLine r.2.1 0)) r.1
    | .mmio w => s.nodeMmio h sa w .dRd sz { bytes := 0, mask := 0, poison := 0 }
    | _ => s.devRefuse h sa 1 true

def opFdevwr (h : FabHdr) (off : BitVec 7) (d : StoreData) (pst : Bool) (s : State) : State :=
  let sa := saOf h.line ||| off.setWidth 52
  if nodeOf sa ≠ s.node then s.devRefuse h sa 1 false
  else match spaceOf sa with
    | .csr o =>
      let r := s.csrWriteAccess { who := reqNode, node := h.src.toNat } sa (o.toNat / 128 * 128) d (s.rb F.GLB_NODE.REMOTE_CSR_WR)
      r.2.runSes.devReply (csrUnit o.toNat) h.src h.rtrk h.line none r.1
    | .mmio w => s.nodeMmio h sa w (if pst then .dWrP else .dWrN) 7 d
    | _ => s.devRefuse h sa 1 false

/-- FDEVRD. -/
def execFdevrd (h : FabHdr) (off : BitVec 7) (sz : BitVec 3) (s : State) : Host.Outcome State Fault Refusal :=
  .next (opFdevrd h off sz s)
/-- FDEVWR. -/
def execFdevwr (h : FabHdr) (off : BitVec 7) (d : StoreData) (pst : Bool) (s : State) : Host.Outcome State Fault Refusal :=
  .next (opFdevwr h off d pst s)

/-! ### Events after which requests at a front end may go on -/

/-- The entry of a posted-write queue's head goes to its slice (R276), or to the register or window it writes; none where it waits. -/
def State.issuePwq (s : State) (p : Port) (x : PwqEntry) : Option State :=
  let s1 := s.setPwq p (fun q => ({ q with head := q.head.filter (fun y => y.id != x.id), busy := q.busy ++ [(x.strm, x.id)] } : Pwq).settle)
  let q : AgReq := { op := .store, cls := 2, tag := 0, ch := 0, addr := x.addr, posted := true,
                     data := { bytes := lineBytes x.cl, mask := x.mask, poison := linePoison x.cl }, ord := true, strm := x.strm }
  match spaceOf x.addr with
  | .memory =>
    some ((s1.sendTo p q x.id x.addr (.slice (sliceOf (lineOf x.addr)))).arriveReq
      { src := .pwq p x.strm, op := .store, line := lineOf x.addr, off := 0, cls := 2, posted := true, cl := x.cl, mask := x.mask,
        point := x.id, divert := x.divert })
  | _ =>
    s1.toDev p q x.id x.addr

/-- The oldest entry of the head that may issue does. -/
def opPwqIssue (p : Port) (s : State) : State :=
  ((s.pwq p).head.findSome? (fun x => if s.mayIssue p x then s.issuePwq p x else none)).getD s

/-- The oldest request under a ceiling that a timer names ends: an agent request, a prefetch, or a walk's descriptor read (R60,
R292). -/
def opCeiling (w : CeilingOf) (s : State) : State :=
  match w with
  | .agent p tag => s.ceilingAgent p tag
  | .prefetch p l => s.ceilingPrefetch p l
  | .walk p w => (s.ceilingWalk p w).frontScan p

/-- CEILING_EXPIRY. -/
def execCeilingExpiry (w : CeilingOf) (s : State) : Host.Outcome State Fault Refusal := .next (opCeiling w s)
/-- DRILL_ISSUE. -/
def execDrillIssue (p : Port) (s : State) : Host.Outcome State Fault Refusal := .next ((opDrillIssue p s).frontScan p)

/-- FENCE_COMPLETE. -/
def execFenceComplete (p : Port) (tag : Tag) (s : State) : Host.Outcome State Fault Refusal := .next ((opFenceDone p tag s).frontScan p)
/-- PWQ_ISSUE. -/
def execPwqIssue (p : Port) (s : State) : Host.Outcome State Fault Refusal := .next ((opPwqIssue p s).frontScan p)
/-- DCMP. -/
def execDcmp (p : Port) (tag : Tag) (stat : BitVec 4) (s : State) : Host.Outcome State Fault Refusal :=
  .next (opDcmp p tag stat s).frontAll
/-- DDATA. -/
def execDdata (p : Port) (tag : Tag) (stat : BitVec 4) (d : FullData) (s : State) : Host.Outcome State Fault Refusal :=
  .next (opDdata p tag stat d s).frontAll
/-- MMIO_DELIVERY. -/
def execMmioDelivery (p : Port) (s : State) : Host.Outcome State Fault Refusal := .next (opMmioDelivery p s).frontAll
/-- FDATA. -/
def execFdata (h : FabHdr) (c : CodeLine) (grant : BitVec 2) (uo ackF inv : Bool) (stat : BitVec 4) (s : State) :
    Host.Outcome State Fault Refusal := .next (opFdata h c grant uo ackF inv stat s).frontAll
/-- FCMP. -/
def execFcmp (h : FabHdr) (grant : BitVec 2) (stat : BitVec 4) (value : BitVec 128) (marks : BitVec 2) (s : State) :
    Host.Outcome State Fault Refusal := .next (opFcmp h grant stat value marks s).frontAll
/-- PRESS_DRAIN_DONE. -/
def execPressDrainDone (l : LineAddr) (s : State) : Host.Outcome State Fault Refusal := .next (opPressDrainDone l s).frontAll

end Sys2Proof.Machine
end

