-- ==== Sys2Proof/Machine/Flit.lean ====
section
/-! DEFINITION. Received flits (R337 to R342, R350): the CRC and sequence check, link-control slots, packets put together
from their slots and performed. -/

namespace Sys2Proof.Machine
open Sys2Proof

/-! ### Fields and payloads -/

def slotTag (x : BitVec 160) : Tag := x.extractLsb' 8 12
def slotOpc (x : BitVec 160) : Nat := x.toNat % 64
/-- Payload slots as one number, the first slot lowest. -/
def payNat (l : List (BitVec 160)) : Nat := slotsVal l
def payBits (l : List (BitVec 160)) (lo w : Nat) : BitVec w := BitVec.ofNat w (payNat l >>> lo)

/-- PL-L and PL-M of Table 11.6. -/
def payFull (l : List (BitVec 160)) : FullData := { bytes := payBits l 0 1024, poison := payBits l 1024 16 }
def payStore (l : List (BitVec 160)) : StoreData :=
  { bytes := payBits l 0 1024, mask := payBits l 1024 128, poison := payBits l 1152 16 }

/-- Payload slots of a packet from an agent; none for an opcode that Table 11.4 does not list for the direction. -/
def agentPay (opc : Nat) : Option Nat :=
  match opc with
  | 0x01 => some 0
  | 0x02 => some 0
  | 0x03 => some 0
  | 0x04 => some 0
  | 0x05 => some 0
  | 0x08 => some 8
  | 0x09 => some 8
  | 0x0A => some 7
  | 0x0B => some 0
  | 0x0C => some 7
  | 0x10 => some 2
  | 0x12 => some 0
  | 0x13 => some 0
  | 0x18 => some 0
  | 0x20 => some 0
  | 0x21 => some 0
  | 0x22 => some 0
  | 0x28 => some 7
  | 0x29 => some 7
  | _ => none

/-- Payload slots of a Stile packet by its opcode (Table 11.11); FCmp apart. -/
def stilePay (opc : Nat) : Option Nat :=
  if 0x01 ≤ opc ∧ opc ≤ 0x05 then some 0
  else if opc = fWr then some 9
  else if opc = fWb ∨ opc = fData ∨ opc = fRecallData ∨ opc = fDevWr then some 8
  else if opc = fAtm then some 2
  else if opc = fEv ∨ (0x0A ≤ opc ∧ opc ≤ 0x0C) then some 0
  else if fFwdS ≤ opc ∧ opc ≤ fRecallSet then some 0
  else if fInvAck ≤ opc ∧ opc ≤ fCmpAck then some 0
  else none

/-- An FCmp to this node carries a value when its tracker holds an atomic that returns one. -/
def State.cmpPay (s : State) (h : BitVec 160) : Nat × State :=
  if hdrDst h = s.node then
    (match s.coh.trkOf (h.extractLsb' 33 11) with
     | some t => if t.req.op == .atm && !t.req.nr then 1 else 0
     | none => 0, s)
  else
    ((Config.transitValue s.freeCtr).toNat, { s with freeCtr := s.freeCtr + 1 })

/-- Slots that follow a header slot, none where the opcode is not listed. -/
def State.payOf (s : State) (u : LinkUnit) (h : BitVec 160) : Option Nat × State :=
  match u with
  | .port _ => (agentPay (slotOpc h), s)
  | .stile _ =>
    if slotOpc h = fCmp then (some (s.cmpPay h).1, (s.cmpPay h).2) else (stilePay (slotOpc h), s)

/-! ### Packets from an agent -/

def slotHdr (p : Port) (h : BitVec 160) : ReqHdr :=
  { port := p, cls := h.extractLsb' 6 2, tag := slotTag h, ch := h.extractLsb' 20 3, addr := h.extractLsb' 24 52 }

def agSt (v : BitVec 3) : Option AgSt :=
  match v.toNat with
  | 0 => some .i
  | 1 => some .s
  | 2 => some .e
  | 3 => some .o
  | 4 => some .m
  | _ => none

/-- A fence with an AOP of no fence orders nothing: it takes its credit and its tag, and gets an address error (R264). -/
def State.badFence (s : State) (p : Port) (h : ReqHdr) : State :=
  if !s.takes p then s
  else if s.tagHeld p h.tag then s.portError p 0x18 0
  else
    ((s.takeCredit p (if h.cls = 3 then 2 else h.cls) 0).2.addrError (unitPort p) (reqAgent p) s.node h.addr).answerFence p
      (cmpMsg h.tag 0 1)

/-- A whole packet from an agent. -/
def State.agentPacket (s : State) (p : Port) (x : BitVec 160) (pay : List (BitVec 160)) : State :=
  let h := slotHdr p x
  let sz := x.extractLsb' 76 3
  let aop := x.extractLsb' 79 4
  let stat := x.extractLsb' 24 4
  let line := lineOf (x.extractLsb' 40 52)
  let answer := fun (data : Option FullData) =>
    match agSt (x.extractLsb' 32 3) with
    | some st => opSnoopAnswer p h.tag st (x.getLsbD 35) (x.getLsbD 31) data line s
    | none => s.portError p (slotOpc x) 0
  match slotOpc x with
  | 0x01 => opRds h s
  | 0x02 => opRdu h s
  | 0x03 => opUpg h s
  | 0x04 => opRd h s
  | 0x05 => opRdc h sz s
  | 0x08 => opWrp h (payStore pay) (x.getLsbD 83) (x.extractLsb' 84 4) s
  | 0x09 => opWrn h (payStore pay) s
  | 0x0A => opWrb h (payFull pay) s
  | 0x0B => opEvc h s
  | 0x0C => opWrh h (payFull pay) (x.extractLsb' 88 3) s
  | 0x10 => opAtm h sz aop (payBits pay 0 128) (payBits pay 128 128) (x.getLsbD 23) s
  | 0x12 => opMclean h s
  | 0x13 => opMflush h s
  | 0x18 =>
    if aop = 1 then opFence .w p h.cls h.tag s
    else if aop = 2 then opFence .l p h.cls h.tag s
    else if aop = 3 then opFence .g p h.cls h.tag s
    else s.badFence p h
  | 0x20 => opAckc p h.tag s
  | 0x21 => answer none
  | 0x22 => opDcmp p h.tag stat s
  | 0x28 => answer (some (payFull pay))
  | 0x29 => opDdata p h.tag stat (payFull pay) s
  | _ => s.portError p (slotOpc x) 0

/-! ### Packets of the fabric -/

def slotFab (x : BitVec 160) : FabHdr :=
  { src := x.extractLsb' 15 9, rqn := x.extractLsb' 24 9, rtrk := x.extractLsb' 33 11, htrk := x.extractLsb' 44 11,
    bounded := x.getLsbD 55, line := x.extractLsb' 63 45 }

/-- The payload of a packet in transit. -/
def payloadOf (opc : Nat) (pay : List (BitVec 160)) : FabPayload :=
  if opc = fWr then .lineMask (payBits pay 0 1280) (payBits pay 1280 128)
  else if opc = fWb ∨ opc = fData ∨ opc = fRecallData then .line (payBits pay 0 1280)
  else if opc = fAtm then .atomic (payBits pay 0 128) (payBits pay 128 128)
  else if opc = fDevWr then .store (payStore pay)
  else if opc = fCmp ∧ pay ≠ [] then .value (payBits pay 0 128) (payBits pay 128 2)
  else .none

/-- A whole packet for this node. -/
def State.fabricPacket (s : State) (x : BitVec 160) (pay : List (BitVec 160)) : State :=
  let h := slotFab x
  let cl : CodeLine := payBits pay 0 1280
  let grant := x.extractLsb' 108 2
  let uo := x.getLsbD 110
  let ackF := x.getLsbD 111
  let inv := x.getLsbD 112
  let stat := x.extractLsb' 115 4
  match slotOpc x with
  | 0x01 => opFrds h s
  | 0x02 => opFrdu h s
  | 0x03 => opFupg h s
  | 0x04 => opFrdc h s
  | 0x05 => opFrdpf h s
  | 0x06 => opFwr h cl (payBits pay 1280 128) s
  | 0x07 => opFwb h cl (x.getLsbD 114) s
  | 0x08 => opFev h s
  | 0x09 =>
    opFatm h (x.extractLsb' 139 7) (x.extractLsb' 135 3) (x.extractLsb' 131 4) (payBits pay 0 128) (payBits pay 128 128)
      (x.getLsbD 138) (Config.noAllocMark s.freeCtr) { s with freeCtr := s.freeCtr + 1 }
  | 0x0A => opFclean h s
  | 0x0B => opFflush h s
  | 0x0C => opFdevrd h (x.extractLsb' 139 7) (x.extractLsb' 135 3) s
  | 0x0D => opFdevwr h (x.extractLsb' 139 7) (payStore pay) (x.getLsbD 146) s
  | 0x10 => opFfwds h ackF inv s
  | 0x11 => opFfwdu h ackF inv s
  | 0x12 => opFfwdc h ackF inv s
  | 0x13 => opFinv h s
  | 0x14 => opFrecall h s
  | 0x15 => opFrecallset h.src h.htrk (Fin.ofNat 32 (x.extractLsb' 63 5).toNat) (x.extractLsb' 68 11) s
  | 0x20 => opFdata h cl grant uo ackF inv stat s
  | 0x21 => opFrecalldata h cl s
  | 0x28 => opFcmp h grant stat (payBits pay 0 128) (payBits pay 128 2) s
  | 0x29 => opFinvack h s
  | 0x2A => opFrecallack h (x.extractLsb' 119 12) s
  | 0x2B => opFfwdmiss h s
  | 0x2C => opFwback h (x.getLsbD 113) s
  | 0x2D => opFdecl h s
  | 0x2E => opFcmpack h s
  | _ => s

/-- The unit of this device that a fabric packet is for: a slice; for an access of another node its register block or window's owner;
for the answer of such an access the port that asked. -/
def State.fabDest (s : State) (h : BitVec 160) : HdlUnit :=
  let sa := saOf (h.extractLsb' 63 45) ||| (h.extractLsb' 139 7).setWidth 52
  if slotOpc h = fDevRd ∨ slotOpc h = fDevWr then
    match spaceOf sa with
    | .csr off => csrUnit off.toNat
    | .mmio w => if s.ownerOf w.toNat < 6 then .port (Fin.ofNat 6 (s.ownerOf w.toNat)) else .regs 0
    | _ => .regs 0
  else if slotOpc h = fData ∨ slotOpc h = fCmp then ((s.trkPort h).map HdlUnit.port).getD (hdrSlice h)
  else hdrSlice h

/-- A whole packet: performed here, or sent on; a packet for this node frees its receive buffer (R354). -/
def State.packet (s : State) (u : LinkUnit) (x : BitVec 160) (pay : List (BitVec 160)) : State :=
  match u with
  | .port p => s.agentPacket p x pay
  | .stile l =>
    let pkt : StilePkt := { hdr := x, payload := payloadOf (slotOpc x) pay }
    if hdrDst x = s.node then ((s.crossStile (.link l) (s.fabDest x) pkt).fabricPacket x pay).returnBuf (some (pktBuf l pkt))
    else opStileForward l pkt s

/-! ### Slots (R340, Table 11.7) -/

/-- A link-control slot: its acknowledgement, then its type. -/
def State.ctlReceived (s : State) (u : LinkUnit) (x : BitVec 160) : State :=
  let s1 := if x.getLsbD 20 then opAck u (x.extractLsb' 10 10) s else s
  let body : BitVec 128 := x.extractLsb' 32 128
  let ignored := s1.count (linkCtr u 5)
  match (x.extractLsb' 6 4).toNat, u with
  | 0, _ => s1
  | 2, _ => opVcc u body s1
  | 3, _ => opNak u (x.extractLsb' 21 10) s1
  | 4, _ => opParam u body s1
  | 5, .stile l => if bodyKind body = 0 then opTimeRequest l body (Config.residence s1.freeCtr) s1.drawn else opTimeAnswer l body s1
  | _, _ => ignored

/-- A header slot whose opcode its direction does not have (R234). -/
def State.badHeader (s : State) (u : LinkUnit) (x : BitVec 160) : State :=
  match u with
  | .port p => s.portError p (slotOpc x) 0
  | .stile l =>
    s.raiseLog 104 (unitLink l) (formA (saOf (slotFab x).line) reqNode 0 (slotFab x).src.toNat [slotOpc x, (Config.stateCode 63).toNat])

/-- A packet for another node has payload slots to come: it goes on by its header slot (R355). -/
def State.startTransit (s : State) (l : LinkNo) (x : BitVec 160) (k : Nat) : State :=
  let r := s.routeStile (some (l.val / 2)) (some (hdrBuf l x (1 + k))) (some (l, k)) { hdr := x, payload := .none }
  r.2.setLink (.stile l) (fun y => { y with rxBuf := [x], rxLeft := k, rxTo := match r.1 with | some o => .to o | none => .dropped })

/-- The header slot of a packet. -/
def State.headerReceived (s : State) (u : LinkUnit) (x : BitVec 160) : State :=
  let n := s.payOf u x
  match n.1 with
  | none => n.2.badHeader u x
  | some 0 => n.2.packet u x []
  | some k =>
    let here := n.2.setLink u (fun l => { l with rxBuf := [x], rxLeft := k, rxTo := .here })
    match u with
    | .port _ => here
    | .stile l => if hdrDst x = s.node then here else n.2.startTransit l x k

/-- A payload slot. -/
def State.payloadReceived (s : State) (u : LinkUnit) (x : BitVec 160) : State :=
  let l := s.linkSt u
  let got := l.rxBuf ++ [x]
  let last := l.rxLeft == 1
  let s1 := s.setLink u (fun l => { l with rxBuf := if last then [] else got, rxLeft := l.rxLeft - 1 })
  match l.rxTo, u with
  | .to o, .stile i => s1.transitSlot i o x (if last then some (payloadOf (slotOpc (got.headD 0)) (got.drop 1)) else none)
  | .here, _ => if last then s1.packet u (got.headD 0) (got.drop 1) else s1
  | _, _ => s1

/-- One slot of a good flit. -/
def State.slotReceived (u : LinkUnit) (s : State) (x : BitVec 160) : State :=
  if (s.linkSt u).rxLeft ≠ 0 then s.payloadReceived u x
  else if x.toNat % 256 = 0 then s
  else if slotOpc x = 0x3F then s.ctlReceived u x
  else s.headerReceived u x

/-! ### Flits (R337, R338) -/

/-- A good flit is counted and acknowledged: at once when it is the 32nd, otherwise by the timer. -/
def State.goodFlit (s : State) (u : LinkUnit) : State :=
  let s1 := (s.setLink u (fun l => { l with
    rxSeq := l.rxSeq + 1, nakSent := false, unacked := l.unacked + 1,
    unackedAt := if l.unacked = 0 then s.fine else l.unackedAt })).count (linkCtr u 1)
  if 32 ≤ (s1.linkSt u).unacked then s1.sendAck u else s1

/-- A flit that fails its CRC: one NAK, and what follows is discarded until the expected flit comes. -/
def State.badFlit (s : State) (u : LinkUnit) : State :=
  if (s.linkSt u).nakSent then s
  else
    ((((s.voidExchange u).setLink u (fun l => { l with nakSent := true })).count (linkCtr u 2))).sendCtl u (.nak (s.linkSt u).rxSeq)

def opFlit (u : LinkUnit) (slots : BitVec 480) (crc : Word) (s : State) : State :=
  if s.linkState u ≠ stActive then s
  else if crc ≠ flitCrc slots (s.linkSt u).rxSeq then s.badFlit u
  else ((slotsOf 3 slots.toNat).foldl (State.slotReceived u) (s.goodFlit u)).frontAll

/-- FLIT_RECEIVED. -/
def execFlitReceived (u : LinkUnit) (slots : BitVec 480) (crc : Word) (s : State) : Host.Outcome State Fault Refusal :=
  .next (opFlit u slots crc s)

end Sys2Proof.Machine
end

