-- ==== Sys2Proof/Machine/Dispatch.lean ====
section
/-! DEFINITION. One arm for each command: the call of its meaning. -/

namespace Sys2Proof.Machine
open Sys2Proof

def exec (i : Instr) (s : State) : Host.Outcome State Fault Refusal :=
  match i with
  | .powerOnReset flash => Sys2Proof.Machine.execPowerOnReset flash s
  | .pinReset flash => Sys2Proof.Machine.execPinReset flash s
  | .slotValidated kinds => Sys2Proof.Machine.execSlotValidated kinds s
  | .ddr5TrainingDone m ok => Sys2Proof.Machine.execDdr5TrainingDone m ok s
  | .meminitDone => Sys2Proof.Machine.execMeminitDone s
  | .runEntered => Sys2Proof.Machine.execRunEntered s
  | .cmiTrainingDone c ok => Sys2Proof.Machine.execCmiTrainingDone c ok s
  | .linkTrainingStepDone u ok reversed polinv => Sys2Proof.Machine.execLinkTrainingStepDone u ok reversed polinv s
  | .linkDetectRetry u => Sys2Proof.Machine.execLinkDetectRetry u s
  | .paramSlot u body => Sys2Proof.Machine.execParamSlot u body s
  | .flitReceived u slots crc => Sys2Proof.Machine.execFlitReceived u slots crc s
  | .ackTimer u => Sys2Proof.Machine.execAckTimer u s
  | .ack u seq => Sys2Proof.Machine.execAck u seq s
  | .nak u seq => Sys2Proof.Machine.execNak u seq s
  | .blockLockLost u => Sys2Proof.Machine.execBlockLockLost u s
  | .linkRetrainTimeout p => Sys2Proof.Machine.execLinkRetrainTimeout p s
  | .vcc u body => Sys2Proof.Machine.execVcc u body s
  | .timeExchangeTimer => Sys2Proof.Machine.execTimeExchangeTimer s
  | .timeRequest l body res => Sys2Proof.Machine.execTimeRequest l body res s
  | .timeAnswer l body => Sys2Proof.Machine.execTimeAnswer l body s
  | .ppsInEdge => Sys2Proof.Machine.execPpsInEdge s
  | .ppsLost => Sys2Proof.Machine.execPpsLost s
  | .ppsOutBoundary => Sys2Proof.Machine.execPpsOutBoundary s
  | .calendarTick => Sys2Proof.Machine.execCalendarTick s
  | .calendarTrimUpdate quarterC => Sys2Proof.Machine.execCalendarTrimUpdate quarterC s
  | .crystalFault => Sys2Proof.Machine.execCrystalFault s
  | .paceReading r => Sys2Proof.Machine.execPaceReading r s
  | .creditRelease k p cls ch => Sys2Proof.Machine.execCreditRelease k p cls ch s
  | .breachDetected b => Sys2Proof.Machine.execBreachDetected b s
  | .promiseDeadline id => Sys2Proof.Machine.execPromiseDeadline id s
  | .fallbackAutoReturn => Sys2Proof.Machine.execFallbackAutoReturn s
  | .ceilingExpiry w => Sys2Proof.Machine.execCeilingExpiry w s
  | .prmModeWrite v => Sys2Proof.Machine.execPrmModeWrite v s
  | .modeSwitchComplete => Sys2Proof.Machine.execModeSwitchComplete s
  | .rds h => Sys2Proof.Machine.execRds h s
  | .rdu h => Sys2Proof.Machine.execRdu h s
  | .upg h => Sys2Proof.Machine.execUpg h s
  | .rd h => Sys2Proof.Machine.execRd h s
  | .rdc h sz => Sys2Proof.Machine.execRdc h sz s
  | .wrp h d ord strm => Sys2Proof.Machine.execWrp h d ord strm s
  | .wrn h d => Sys2Proof.Machine.execWrn h d s
  | .wrb h d => Sys2Proof.Machine.execWrb h d s
  | .evc h => Sys2Proof.Machine.execEvc h s
  | .wrh h d tgt => Sys2Proof.Machine.execWrh h d tgt s
  | .atm h sz aop operand compare nr => Sys2Proof.Machine.execAtm h sz aop operand compare nr s
  | .mclean h => Sys2Proof.Machine.execMclean h s
  | .mflush h => Sys2Proof.Machine.execMflush h s
  | .fencew p cls tag => Sys2Proof.Machine.execFencew p cls tag s
  | .fencel p cls tag => Sys2Proof.Machine.execFencel p cls tag s
  | .fenceg p cls tag => Sys2Proof.Machine.execFenceg p cls tag s
  | .fenceComplete p tag => Sys2Proof.Machine.execFenceComplete p tag s
  | .ackc p tag => Sys2Proof.Machine.execAckc p tag s
  | .snoopAnswer p snpTag newst acc dirty data line => Sys2Proof.Machine.execSnoopAnswer p snpTag newst acc dirty data line s
  | .snoopDataWriteback line => Sys2Proof.Machine.execSnoopDataWriteback line s
  | .dcmp p tag stat => Sys2Proof.Machine.execDcmp p tag stat s
  | .ddata p tag stat d => Sys2Proof.Machine.execDdata p tag stat d s
  | .mmioDelivery p => Sys2Proof.Machine.execMmioDelivery p s
  | .frds h => Sys2Proof.Machine.execFrds h s
  | .frdu h => Sys2Proof.Machine.execFrdu h s
  | .fupg h => Sys2Proof.Machine.execFupg h s
  | .frdc h => Sys2Proof.Machine.execFrdc h s
  | .frdpf h => Sys2Proof.Machine.execFrdpf h s
  | .fwr h c mask => Sys2Proof.Machine.execFwr h c mask s
  | .fwb h c keep => Sys2Proof.Machine.execFwb h c keep s
  | .fev h => Sys2Proof.Machine.execFev h s
  | .fatm h off sz aop operand compare nr noAlloc => Sys2Proof.Machine.execFatm h off sz aop operand compare nr noAlloc s
  | .fclean h => Sys2Proof.Machine.execFclean h s
  | .fflush h => Sys2Proof.Machine.execFflush h s
  | .fdevrd h off sz => Sys2Proof.Machine.execFdevrd h off sz s
  | .fdevwr h off d pst => Sys2Proof.Machine.execFdevwr h off d pst s
  | .ffwds h ackF inv => Sys2Proof.Machine.execFfwds h ackF inv s
  | .ffwdu h ackF inv => Sys2Proof.Machine.execFfwdu h ackF inv s
  | .ffwdc h ackF inv => Sys2Proof.Machine.execFfwdc h ackF inv s
  | .finv h => Sys2Proof.Machine.execFinv h s
  | .frecall h => Sys2Proof.Machine.execFrecall h s
  | .frecallset src htrk slice set => Sys2Proof.Machine.execFrecallset src htrk slice set s
  | .fdata h c grant uo ackF inv stat => Sys2Proof.Machine.execFdata h c grant uo ackF inv stat s
  | .frecalldata h c => Sys2Proof.Machine.execFrecalldata h c s
  | .fcmp h grant stat value marks => Sys2Proof.Machine.execFcmp h grant stat value marks s
  | .finvack h => Sys2Proof.Machine.execFinvack h s
  | .frecallack h count => Sys2Proof.Machine.execFrecallack h count s
  | .ffwdmiss h => Sys2Proof.Machine.execFfwdmiss h s
  | .fwback h fwd => Sys2Proof.Machine.execFwback h fwd s
  | .fdecl h => Sys2Proof.Machine.execFdecl h s
  | .fcmpack h => Sys2Proof.Machine.execFcmpack h s
  | .stileForward inLink pkt => Sys2Proof.Machine.execStileForward inLink pkt s
  | .hopCreditEscape l => Sys2Proof.Machine.execHopCreditEscape l s
  | .headlandBeat toE tokens => Sys2Proof.Machine.execHeadlandBeat toE tokens s
  | .sublinkStall ix => Sys2Proof.Machine.execSublinkStall ix s
  | .memoryReadDone m errs => Sys2Proof.Machine.execMemoryReadDone m errs s
  | .cmiReadDone c errs => Sys2Proof.Machine.execCmiReadDone c errs s
  | .verifyReadDone u errs => Sys2Proof.Machine.execVerifyReadDone u errs s
  | .fillDataArrival line => Sys2Proof.Machine.execFillDataArrival line s
  | .fillWriteAccepted line => Sys2Proof.Machine.execFillWriteAccepted line s
  | .pressDrainStart sl => Sys2Proof.Machine.execPressDrainStart sl s
  | .pressAgeExpiry line => Sys2Proof.Machine.execPressAgeExpiry line s
  | .pressDrainDone line => Sys2Proof.Machine.execPressDrainDone line s
  | .pressPermissionGranted line => Sys2Proof.Machine.execPressPermissionGranted line s
  | .swathTrackerIdle p ix => Sys2Proof.Machine.execSwathTrackerIdle p ix s
  | .hamperWritebackStart sl => Sys2Proof.Machine.execHamperWritebackStart sl s
  | .hamperWritebackDone line => Sys2Proof.Machine.execHamperWritebackDone line s
  | .mntCleanAddr => Sys2Proof.Machine.execMntCleanAddr s
  | .mntFlushAddr => Sys2Proof.Machine.execMntFlushAddr s
  | .mntInvalAddr key => Sys2Proof.Machine.execMntInvalAddr key s
  | .mntCleanSw => Sys2Proof.Machine.execMntCleanSw s
  | .mntFlushSw => Sys2Proof.Machine.execMntFlushSw s
  | .mntInvalSw => Sys2Proof.Machine.execMntInvalSw s
  | .mntRangeLineIssue => Sys2Proof.Machine.execMntRangeLineIssue s
  | .mntComplete => Sys2Proof.Machine.execMntComplete s
  | .slcWayEnWrite sl v => Sys2Proof.Machine.execSlcWayEnWrite sl v s
  | .wayDrainVisit sl way => Sys2Proof.Machine.execWayDrainVisit sl way s
  | .wayDrainDone sl way => Sys2Proof.Machine.execWayDrainDone sl way s
  | .cmiCtlWrite c v => Sys2Proof.Machine.execCmiCtlWrite c v s
  | .channelDisableDone c => Sys2Proof.Machine.execChannelDisableDone c s
  | .drillIssue p => Sys2Proof.Machine.execDrillIssue p s
  | .prefetchPass p => Sys2Proof.Machine.execPrefetchPass p s
  | .drillTrackerIdle p ix => Sys2Proof.Machine.execDrillTrackerIdle p ix s
  | .drillAccuracyInterval => Sys2Proof.Machine.execDrillAccuracyInterval s
  | .drlCfgWrite p v => Sys2Proof.Machine.execDrlCfgWrite p v s
  | .drlAccWrite v => Sys2Proof.Machine.execDrlAccWrite v s
  | .contentionDecay => Sys2Proof.Machine.execContentionDecay s
  | .snoopTimeout p snpTag => Sys2Proof.Machine.execSnoopTimeout p snpTag s
  | .agpDeadCtlDeclare p v => Sys2Proof.Machine.execAgpDeadCtlDeclare p v s
  | .deadAgentWalkDone p => Sys2Proof.Machine.execDeadAgentWalkDone p s
  | .nodeTimeout n noRoute => Sys2Proof.Machine.execNodeTimeout n noRoute s
  | .glbDeadCtlDeclare v => Sys2Proof.Machine.execGlbDeadCtlDeclare v s
  | .deadNodeWalkDone n => Sys2Proof.Machine.execDeadNodeWalkDone n s
  | .pwqIssue p => Sys2Proof.Machine.execPwqIssue p s
  | .orderedWriteVisible p strm => Sys2Proof.Machine.execOrderedWriteVisible p strm s
  | .spillBatchWrite q => Sys2Proof.Machine.execSpillBatchWrite q s
  | .spillBatchRead q => Sys2Proof.Machine.execSpillBatchRead q s
  | .agpPwqFlush p => Sys2Proof.Machine.execAgpPwqFlush p s
  | .pwqFlushDone p => Sys2Proof.Machine.execPwqFlushDone p s
  | .walkDescriptorRead p w => Sys2Proof.Machine.execWalkDescriptorRead p w s
  | .ptuRootLoWrite p v => Sys2Proof.Machine.execPtuRootLoWrite p v s
  | .ptuRootHiWrite p v => Sys2Proof.Machine.execPtuRootHiWrite p v s
  | .ptuSeedWrite p seed => Sys2Proof.Machine.execPtuSeedWrite p seed s
  | .tlbInvByAddress p => Sys2Proof.Machine.execTlbInvByAddress p s
  | .tlbInvByContext p => Sys2Proof.Machine.execTlbInvByContext p s
  | .tlbInvAll p => Sys2Proof.Machine.execTlbInvAll p s
  | .tlbInvComplete p => Sys2Proof.Machine.execTlbInvComplete p s
  | .darnerCacheVisit sl => Sys2Proof.Machine.execDarnerCacheVisit sl s
  | .darnerMemVisit m => Sys2Proof.Machine.execDarnerMemVisit m s
  | .darnerDueTick w => Sys2Proof.Machine.execDarnerDueTick w s
  | .scrubUeReport sl => Sys2Proof.Machine.execScrubUeReport sl s
  | .memUeReport m => Sys2Proof.Machine.execMemUeReport m s
  | .darCtlWrite v => Sys2Proof.Machine.execDarCtlWrite v s
  | .darnerRestartCache => Sys2Proof.Machine.execDarnerRestartCache s
  | .darnerRestartMem => Sys2Proof.Machine.execDarnerRestartMem s
  | .retirementListClear m0 m1 => Sys2Proof.Machine.execRetirementListClear m0 m1 s
  | .unretire key => Sys2Proof.Machine.execUnretire key s
  | .thresholdWindowEnd u ecs => Sys2Proof.Machine.execThresholdWindowEnd u ecs s
  | .darThrWinWrite v => Sys2Proof.Machine.execDarThrWinWrite v s
  | .ddr5Refresh m => Sys2Proof.Machine.execDdr5Refresh m s
  | .ddr5TempPoll m hot => Sys2Proof.Machine.execDdr5TempPoll m hot s
  | .hpprDone m => Sys2Proof.Machine.execHpprDone m s
  | .agpLinkCtlRetrain p => Sys2Proof.Machine.execAgpLinkCtlRetrain p s
  | .mbxRead m => Sys2Proof.Machine.execMbxRead m s
  | .mbxWrite m => Sys2Proof.Machine.execMbxWrite m s
  | .mbxPop m => Sys2Proof.Machine.execMbxPop m s
  | .mbxCaptureDone m => Sys2Proof.Machine.execMbxCaptureDone m s
  | .mbxTimeout m => Sys2Proof.Machine.execMbxTimeout m s
  | .inbandEventSend => Sys2Proof.Machine.execInbandEventSend s
  | .evtRteWrite v => Sys2Proof.Machine.execEvtRteWrite v s
  | .evtSwWrite v => Sys2Proof.Machine.execEvtSwWrite v s
  | .evtQFlush => Sys2Proof.Machine.execEvtQFlush s
  | .logRseqWrite v => Sys2Proof.Machine.execLogRseqWrite v s
  | .logMark => Sys2Proof.Machine.execLogMark s
  | .logRewind => Sys2Proof.Machine.execLogRewind s
  | .csrWrite offset v => Sys2Proof.Machine.execCsrWrite offset v s
  | .sesGo => Sys2Proof.Machine.execSesGo s
  | .sesOpen tr level nh => Sys2Proof.Machine.execSesOpen tr level nh s
  | .sesAuth tr mac => Sys2Proof.Machine.execSesAuth tr mac s
  | .lockoutExpiry tr => Sys2Proof.Machine.execLockoutExpiry tr s
  | .sessionIdleTimeout tr => Sys2Proof.Machine.execSessionIdleTimeout tr s
  | .sesClose f => Sys2Proof.Machine.execSesClose f s
  | .csrRd f offset count => Sys2Proof.Machine.execCsrRd f offset count s
  | .csrWr f offset value => Sys2Proof.Machine.execCsrWr f offset value s
  | .mbx f sel op data0 data1 => Sys2Proof.Machine.execMbx f sel op data0 data1 s
  | .logRd f count => Sys2Proof.Machine.execLogRd f count s
  | .calGet f => Sys2Proof.Machine.execCalGet f s
  | .calSet f time => Sys2Proof.Machine.execCalSet f time s
  | .mode f req => Sys2Proof.Machine.execMode f req s
  | .ppr f port lineIdx => Sys2Proof.Machine.execPpr f port lineIdx s
  | .imgErase f slot => Sys2Proof.Machine.execImgErase f slot s
  | .imgWrite f slot offset bytes => Sys2Proof.Machine.execImgWrite f slot offset bytes s
  | .imgRead f slot offset len => Sys2Proof.Machine.execImgRead f slot offset len s
  | .imgCheck f slot => Sys2Proof.Machine.execImgCheck f slot s
  | .resetCmd f => Sys2Proof.Machine.execResetCmd f s
  | .fuse f sel value => Sys2Proof.Machine.execFuse f sel value s
  | .flashOperationDone => Sys2Proof.Machine.execFlashOperationDone s
  | .rtcLoad => Sys2Proof.Machine.execRtcLoad s
  | .pwrRestWrite => Sys2Proof.Machine.execPwrRestWrite s
  | .restEntered => Sys2Proof.Machine.execRestEntered s
  | .restExitCause c => Sys2Proof.Machine.execRestExitCause c s
  | .restExitDone => Sys2Proof.Machine.execRestExitDone s
  | .fallowRequest src => Sys2Proof.Machine.execFallowRequest src s
  | .fallowEntryStep => Sys2Proof.Machine.execFallowEntryStep s
  | .fallowEntered => Sys2Proof.Machine.execFallowEntered s
  | .wakeNFall => Sys2Proof.Machine.execWakeNFall s
  | .slpNEdge falling => Sys2Proof.Machine.execSlpNEdge falling s
  | .wakeStep => Sys2Proof.Machine.execWakeStep s
  | .wakeComplete => Sys2Proof.Machine.execWakeComplete s
  | .resowReadIssue => Sys2Proof.Machine.execResowReadIssue s
  | .resowingDone => Sys2Proof.Machine.execResowingDone s
  | .pwrSeedCfgWrite v => Sys2Proof.Machine.execPwrSeedCfgWrite v s
  | .vinFall lv => Sys2Proof.Machine.execVinFall lv s
  | .vinRise flash => Sys2Proof.Machine.execVinRise flash s
  | .vbakLow => Sys2Proof.Machine.execVbakLow s
  | .mainRailsGood => Sys2Proof.Machine.execMainRailsGood s
  | .mainRailLost r => Sys2Proof.Machine.execMainRailLost r s
  | .adaptiveVddcUpdate failW testsW failE testsE vmonW vmonE poll => Sys2Proof.Machine.execAdaptiveVddcUpdate failW testsW failE testsE vmonW vmonE poll s
  | .pmbStatWrite v => Sys2Proof.Machine.execPmbStatWrite v s
  | .thermalReading tempW tempE => Sys2Proof.Machine.execThermalReading tempW tempE s
  | .throttleRelease => Sys2Proof.Machine.execThrottleRelease s
  | .thermalTrip => Sys2Proof.Machine.execThermalTrip s
  | .tripRecovery flash => Sys2Proof.Machine.execTripRecovery flash s
  | .vbakPresent => Sys2Proof.Machine.execVbakPresent s
  | .vbakLost => Sys2Proof.Machine.execVbakLost s
  | .entdaa addr => Sys2Proof.Machine.execEntdaa addr s
  | .enec => Sys2Proof.Machine.execEnec s

end Sys2Proof.Machine
end

