-- ==== Sys2Proof/Machine/Tick.lean ====
section
/-! DEFINITION. What one ns of fine time does when no command waits. -/

namespace Sys2Proof.Machine
open Sys2Proof

/-- The empty queue's step: one ns passes, and requests at the front ends of the ports go on where nothing holds them any
more. -/
def State.tick (s : State) : State := s.tickTime.frontAll

end Sys2Proof.Machine
end

