-- ==== Sys2Proof/Safety.lean ====
section
/-! DEFINITION. What claims call a well-kept state, a step that completes, and what a step leaves alone. -/

namespace Sys2Proof
open Sys2Proof.Machine

/-- Every codeword store behind the memory ports and the channels is canonical (INVENTORY, Memory and ordering). -/
abbrev Inv.memory (s : State) : Prop :=
  (∀ m : MemNo, Memory.wf (s.coh.ddr.get m) = true) ∧ (∀ c : ChanNo, Memory.wf (s.coh.sram.get c) = true)

/-- The registers are stored canonically. -/
abbrev Inv.registers (s : State) : Prop := Sparse.wf regReset s.regs = true

/-- Tags, pair parity, snoop filter and directory are stored canonically. -/
abbrev Inv.arrays (s : State) : Prop :=
  Sparse.wf (fun _ => tagFree) s.coh.tags = true ∧ Sparse.wf (fun _ => 0) s.coh.pp = true ∧
    Sparse.wf (fun _ => snfFree) s.coh.snf = true ∧ Sparse.wf (fun _ => dirFree) s.coh.dir = true

/-- Event counters, event routes and the flash are stored canonically. -/
abbrev Inv.status (s : State) : Prop :=
  Sparse.wf (fun _ => 0) s.mon.ctr = true ∧ Sparse.wf routeDefault s.mon.ev.routes = true ∧
    Sparse.wf (fun _ => 0xFF#8) s.flash.bytes = true

/-- Equal contents are equal data: every sparse store of the state is in its canonical form. -/
abbrev Inv (s : State) : Prop := Inv.memory s ∧ Inv.registers s ∧ Inv.arrays s ∧ Inv.status s

/-- A fuse set that is programmed stays as it is, and the ordering code never changes (R2, R418). -/
def FusesStay (f g : Fuses) : Prop :=
  g.variantS = f.variantS ∧ (f.pkhSet = true → g.pkhSet = true ∧ g.pkh = f.pkh) ∧
    (f.rkeySet = true → g.rkeySet = true ∧ g.rkey = f.rkey)

/-- What every command leaves alone: the commands that wait, fine time, the records already sent, programmed fuses. -/
def Steady (s t : State) : Prop :=
  t.pending = s.pending ∧ t.fine = s.fine ∧ s.sent <+: t.sent ∧ FusesStay s.fuses t.fuses

/-- Nothing changes but registers of `offs` and the status that units report (events, log and counters). -/
def OnlyRegs (offs : List Nat) (s t : State) : Prop :=
  t = { s with regs := t.regs, mon := t.mon } ∧ ∀ o, o ∉ offs → t.rg o = s.rg o

/-- The command completes: it answers a next state, of which `P` holds. -/
def Completes (o : Host.Outcome State Fault Refusal) (P : State → Prop) : Prop := ∃ t, o = .next t ∧ P t

/-- The command completes from `s`: it answers a next state that keeps what every command keeps, and of which `P` holds. -/
def Does (c : Instr) (s : State) (P : State → Prop) : Prop := Completes (exec c s) (fun t => Steady s t ∧ P t)

/-- The source is pending (R387). -/
abbrev Raised (t : State) (ev : Nat) : Prop := t.mon.ev.pend.getLsbD ev = true

/-- The register window is served: the core has its state and is not in safe configuration (R401, R412). -/
abbrev Serving (s : State) : Prop := s.coreOn = true ∧ s.rb F.IMG_STAT.SAFE = false

/-- The coherence engine has no message or work of its own to handle, and no node is dead: a command that gives it one thing
to do sees that thing done alone. -/
abbrev Idle (s : State) : Prop := s.coh.quiet = true ∧ s.coh.retiring = [] ∧ s.coh.fx = [] ∧ s.deadNodes = []

/-- Nothing at a port holds back a request under the tag: the port takes requests, no earlier request or fence and no ordered
write waits there, and the tag is free (R258, R265, R345). -/
abbrev Unheld (s : State) (p : Port) (tag : Tag) : Prop :=
  s.takes p = true ∧ (s.port p).front = [] ∧ (s.port p).fences = [] ∧ (s.port p).pwq = {} ∧ ∀ x ∈ (s.port p).tags, x.tag ≠ tag

/-- Nothing waits at the front end of any port: no request, and no descriptor read of a walk that is due. -/
abbrev Still (s : State) : Prop := ∀ p : Port, (s.port p).front = [] ∧ (s.ptu p).anyDue = false

/-- Every tag of the line's row, and the snoop filter and directory sets of the line, read back as they were written: a pass for the
line finds nothing to mend (R99, R102, R213, R218). -/
abbrev Sound (s : State) (l : LineAddr) : Prop :=
  s.coh.checkRow (sliceOf l) (setIdx s.sets l) = s.coh ∧ s.coh.checkSets s l = s.coh

/-- A scan of a port's front end ends with the descriptor reads that are due, and with what follows from those (R181, R293). -/
def afterScan (p : Port) (n : Nat) (s : State) : State :=
  if (s.ptu p).anyDue then State.frontPass p n (s.walkReads p) else s

/-- A port or link sends what it is given at once: it is in ACTIVE, nothing waits there, and the replay buffer has room for the
flits of any packet (R338, R340). -/
abbrev Clear (s : State) (u : LinkUnit) : Prop :=
  s.linkState u = stActive ∧ (s.linkSt u).txSlots = [] ∧ (s.linkSt u).txOpen = false ∧ (s.linkSt u).replay.length ≤ 248

/-- A beat on the Headland. -/
def isBeat : Sent → Bool
  | .headland _ _ => true
  | _ => false

/-- What the device sends, apart from beats between its own dies, is `l`. -/
def Sends (s t : State) (l : List Sent) : Prop :=
  t.sent.filter (fun x => !isBeat x) = s.sent.filter (fun x => !isBeat x) ++ l

/-- Only the engine's sleep differs. -/
def Asleep (c : Coh) : Coh := { c with wake := false }

/-- What a boot from step 2 of Table 13.1 leaves (R401, R402): the stage that reads slot A, the stores behind the ports and
the always-on domain as they were, every other unit as after reset. -/
def Restarted (f : Option FlashInfo) (s t : State) : Prop :=
  t.rf F.IMG_STAT.STAGE = 3 ∧ t.flash = { bytes := s.flash.bytes, info := f } ∧
    t.coh = { Coh.reset with ddr := s.coh.ddr, sram := s.coh.sram } ∧ t.ports = State.reset.ports ∧
    t.links = State.reset.links ∧ t.mbx = State.reset.mbx ∧ t.boot = State.reset.boot ∧ t.cal = s.cal ∧
    t.ses.i3c.isOpen = false ∧ t.ses.inband.isOpen = false ∧
    ∀ o, o ≠ Reg.IMG_STAT → o ≠ Reg.PWR_STAT → t.rg o = if alwaysOn o then s.rg o else regReset o

/-- A session command that the engine performs at once: the session is open, the MAC and the sequence number are right, the
level suffices, and no other command is under way (R416, R420, R421). -/
abbrev Accepted (s : State) (f : Frame) (opc : Byte) (payload : List Byte) : Prop :=
  s.coreOn = true ∧ s.sesWorking = false ∧ s.ses.waiting = [] ∧ (s.ses.get f.tr).isOpen = true ∧
    leBytes 16 f.mac.toNat = macOf (s.ses.get f.tr).ks (cmdFrame f opc payload).head ∧
    f.seq = (s.ses.get f.tr).lastSeq + 1 ∧ ∀ l ∈ minLevel (cmdFrame f opc payload), l ≤ (s.ses.get f.tr).level.toNat

/-- The command has been performed, and its reply with STAT 0 stands (R416, R421). -/
def Replied (s t : State) (f : Frame) (opc : Byte) (payload : List Byte) : Prop :=
  (t.ses.get f.tr).lastReply = replyMac (s.ses.get f.tr).ks opc 0 f.seq payload ∧ (t.ses.get f.tr).lastSeq = f.seq ∧
    (t.ses.get f.tr).lastAt = s.fine

end Sys2Proof
end

