-- ==== Sys2Proof/Certificates/Slice0/Obligations.lean ====
section
/-! DEFINITION. The statements for the provers: what the step, the commands and the shared operations do, by the rules of spec/. -/

open Sys2Proof Sys2Proof.Machine

/-- A step performs the command in front: For every command c and state s whose queue holds c in front, step of s is exec of
c on s with the rest of the queue. -/
def Obligations.StepRunsFront : Prop :=
  ∀ (c : Instr) (s : State) (rest : List Instr), s.pending = c :: rest → step s = exec c { s with pending := rest }

/-- An empty queue lets one ns of fine time pass: With no command waiting a step answers a next state: fine time rises by
one, the queue stays empty, nothing sent is lost, fuses stay, and the invariant is kept; where no request and no descriptor
read waits at any port, only fine time and fabric time change. That time passes here is the model's own choice (log entry 2).
-/
def Obligations.StepIdles : Prop :=
  ∀ (s : State), s.pending = [] → ∃ t, step s = .next t ∧ t.pending = [] ∧ t.fine = s.fine + 1 ∧ s.sent <+: t.sent ∧
    t.fuses = s.fuses ∧ (Inv s → Inv t) ∧
    (Still s → t = { s with fine := t.fine, fab := t.fab })

/-- The invariant holds at reset: Every sparse store of the state after reset is in its canonical form. -/
def Obligations.ResetInv : Prop :=
 Inv State.reset

/-- Registers after reset: Registers of the global block, of every port block and of every slice block hold after reset the
values that their tables of the spec give; no command waits, no slot of the cache and no directory entry is in use, no event
is pending. GLB_ID is that of a VG512F (log entry 4). -/
def Obligations.ResetValues : Prop :=
  (∀ x ∈ [(0x000C, 0xFFFFFFFF#32), (0x0010, 0xFFFFFFFF#32), (0x0100, 0x00000005#32), (0x0104, 0x55102020#32),
      (0x0108, 0x00007490#32), (0x0144, 0x000001B6#32), (0x0148, 0xFFFFFFFF#32), (0x0160, 0x00001810#32), (0x0164, 0x00102201#32),
      (0x0190, 0x00304010#32), (0x01A0, 0xFFFF0102#32), (0x01B0, 0x00000014#32), (0x01D0, 0x00100A10#32), (0x01D8, 0x00040000#32),
      (0x4010, 0x00001440#32), (0x4018, 0x00041004#32), (0x4028, 0x007F766E#32), (0x6004, 0x0000003C#32), (0x8000, 0x0000FF01#32),
      (0x0004, 0x00000000#32), (0x0000, 0x51211169#32)], State.reset.csrRead x.1 = x.2) ∧
  (∀ p : Port, ∀ x ∈ [(0xA0, 0xFFFFFFFF#32), (0xA4, 0x0000FFFF#32), (0xC0, 0x02022201#32), (0xC4, 0x00104410#32), (0xC8, 0x00001000#32),
      (0xE0, 0x00001010#32)], State.reset.csrRead (0x01400000 + 0x20000 * p.val + x.1) = x.2) ∧
  (∀ p : Port, State.reset.rg (0x01400000 + 0x20000 * p.val + 0x200) = 0xACE10040#32) ∧
  (∀ sl : SliceNo, State.reset.csrRead (0x01000000 + 0x10000 * sl.val + 0x48) = 0x0000FFFF#32) ∧
  State.reset.pending = [] ∧ State.reset.coh.tags = [] ∧ State.reset.coh.dir = [] ∧ State.reset.mon.ev.pend = 0

/-- Every step keeps the invariant: From every state with the invariant, whichever command waits in front or none, the next
state of a step has the invariant: memories, registers, tags, snoop filter, directory, counters, routes and flash stay in
canonical form. -/
def Obligations.StepKeepsInv : Prop :=
 ∀ (s t : State), Inv s → step s = .next t → Inv t

/-- No step changes a programmed fuse or takes back what was sent: In the next state of every step the ordering code is as
before, a key hash or a recovery key once programmed is as before, and the record of what the device has sent begins with the
record before the step. -/
def Obligations.StepKeepsFuses : Prop :=
 ∀ (s t : State), step s = .next t → FusesStay s.fuses t.fuses ∧ s.sent <+: t.sent

/-- Every command answers a next state: For every command and every state exec answers a next state that leaves the queue,
fine time, programmed fuses and what was sent before, and that keeps the invariant. -/
def Obligations.EveryCommandCompletes : Prop :=
  ∀ (c : Instr) (s : State), Does c s (fun t => Inv s → Inv t)

/-- The node ID and its coordinates in a system address: For coordinates of 0 to 7 the node ID of an address is x + 8y + 64z
exactly when its bits 45:43, 48:46 and 51:49 hold x, y and z, and the coordinates read back from the node ID are x, y and z.
-/
def Obligations.NodeIdHoldsCoordinates : Prop :=
  ∀ (sa : SysAddr) (x y z : Nat), x < 8 → y < 8 → z < 8 →
    (nodeOf sa = x + 8 * y + 64 * z ↔
      (sa.extractLsb' 43 3).toNat = x ∧ (sa.extractLsb' 46 3).toNat = y ∧ (sa.extractLsb' 49 3).toNat = z) ∧
    coordOf (x + 8 * y + 64 * z) 0 = x ∧ coordOf (x + 8 * y + 64 * z) 1 = y ∧ coordOf (x + 8 * y + 64 * z) 2 = z

/-- The system address of a listed line: The address recovered from a line index, a port number and a node ID has the node ID
in bits 51:43, the index in bits 42:8, and in bit 7 the port number xor bits 13, 19, 25, 31 and 37; its memory port and index
are those it was recovered from, and every line of the node is recovered from its own port and index. -/
def Obligations.ListedLinesAreRecovered : Prop :=
  ∀ (node i : Nat) (n : MemNo), node < 512 → i < 2 ^ 35 →
    let sa := saOf (lineOfMem node n i)
    (sa.extractLsb' 43 9).toNat = node ∧ (sa.extractLsb' 8 35).toNat = i ∧
    sa.getLsbD 7 = ((n == 1) ^^ sa.getLsbD 13 ^^ sa.getLsbD 19 ^^ sa.getLsbD 25 ^^ sa.getLsbD 31 ^^ sa.getLsbD 37) ∧
    memOf (lineOf sa) = n ∧ memIndex (lineOf sa) = i ∧
    ∀ l : LineAddr, lineHome l = node → lineOfMem node (memOf l) (memIndex l) = l

/-- A way that drains is set again, or cleared again: A write of SLC_WAY_EN that sets a cleared bit whose DRAINING bit is 1
ends the walk, makes the way available, clears the DRAINING bit and changes no slot; a write that leaves a cleared bit 0
changes neither that bit, its DRAINING bit nor its walk. -/
def Obligations.WaysSetAgain : Prop :=
  ∀ (s : State) (sl : SliceNo) (v : Word) (w : Fin 16), Inv s → Serving s → bit (s.rg (Reg.SLC_WAY_EN sl)) w.val = false →
    (bit (s.rg (Reg.SLC_WAY_STAT sl)) w.val = true → bit v w.val = true → Does (.slcWayEnWrite sl v) s (fun t =>
      (∀ d ∈ t.drains, d.slice = sl → d.way = w → d.chan = true) ∧ t.wayEnabled sl w = true ∧
      bit (t.rg (Reg.SLC_WAY_STAT sl)) w.val = false ∧ t.coh.tags = s.coh.tags)) ∧
    (bit v w.val = false → Does (.slcWayEnWrite sl v) s (fun t =>
      bit (t.rg (Reg.SLC_WAY_EN sl)) w.val = false ∧
      bit (t.rg (Reg.SLC_WAY_STAT sl)) w.val = bit (s.rg (Reg.SLC_WAY_STAT sl)) w.val ∧
      t.drains.filter (isDrain sl w) = s.drains.filter (isDrain sl w) ∧ t.coh = s.coh))

/-- A bounded packet that has waited 1 µs: Where the oldest bounded packet of a link that has waited 1 µs is at any place of
the queue, HOP_CREDIT_ESCAPE clears its B bit and no other bit of its header, raises EV178, and the packet is sent, is with
the transmitter, or waits on as a best-effort packet. -/
def Obligations.BoundedPacketsEscape : Prop :=
  ∀ (s : State) (l : LinkNo) (pre post : List StileWait) (w : StileWait), (s.stile l).wait = pre ++ w :: post →
    (∀ x ∈ pre, hdrB x.pkt.hdr = false ∨ s.fine < x.since + 1000) → hdrB w.pkt.hdr = true → w.since + 1000 ≤ s.fine →
    let k' : StilePkt := { w.pkt with hdr := setHdr w.pkt.hdr 55 1 0 }
    hdrB k'.hdr = false ∧ (∀ i, i ≠ 55 → k'.hdr.getLsbD i = w.pkt.hdr.getLsbD i) ∧
    Does (.hopCreditEscape l) s (fun t => Raised t 178 ∧ (.stile l k' ∈ t.sent ∨
      (∃ x ∈ (t.stile l).wait ++ (t.stile l).cur.toList, x.pkt = k') ∨
      ∃ x ∈ (t.stile l).link.txSlots ++ (t.stile l).link.txLater, x.last = some (.stile l k')))

/-- A line written to a memory port reads back: After the engine writes a line of a node's memory, that line reads as written
and every other line of the node reads as before; the memories stay in canonical form. -/
def Obligations.MemoryReadsBack : Prop :=
  ∀ (c : Coh) (l l' : LineAddr) (cl : CodeLine), (∀ m : MemNo, Memory.wf (c.ddr.get m) = true) → lineHome l = lineHome l' →
    (c.writeMem l cl).rawMem (memOf l') (memIndex l') = (if l = l' then cl else c.rawMem (memOf l') (memIndex l')) ∧
    ∀ m : MemNo, Memory.wf ((c.writeMem l cl).ddr.get m) = true

/-- Requests of agents and of other nodes reach the slice of their line: At a port that holds nothing back, a request of an
agent for a memory line (RDS, RDU, UPG, RDC, WRP, WRN, WRB, WRH, EVC, ATM, MCLEAN, MFLUSH; RD at a port that is not
translated) reaches the slice as the agent gives it, the tag of one that is not posted is in use, and the command ends with
the port's descriptor reads that are due; at the home, a request of another node (FRDS, FRDU, FUPG, FRDC, FRDPF, FWR, FATM,
FCLEAN, FFLUSH) reaches the slice as that node's request. -/
def Obligations.RequestsReachTheirSlice : Prop :=
  (∀ (s : State) (h : ReqHdr), Unheld s h.port h.tag →
     let arrives : Instr → SysAddr → ReqOp → Bool → (Req → Prop) → Prop := fun i sa op posted P =>
       ∃ (u : State) (r : Req), exec i s = .next (afterScan h.port 8 (u.arriveReq r)) ∧ r.src = .agent h.port ∧ r.op = op ∧ r.line = lineOf sa ∧
         r.tag = h.tag ∧ r.posted = posted ∧ r.point = (s.port h.port).nextPoint ∧ u.coh = s.coh ∧
         (u.port h.port).front = [] ∧ (posted = false → ∃ x ∈ (u.port h.port).tags, x.tag = h.tag ∧ x.point = r.point) ∧ P r
     (s.caching h.port = true → spaceOf h.addr = .memory → s.addrBad h.addr = false → s.policyOf h.addr = pWBA →
       h.ch.toNat = (s.chanOfLine (lineOf h.addr)).val →
       (∀ x ∈ [(Instr.rds h, ReqOp.rdS), (.rdu h, .rdU), (.upg h, .upg), (.evc h, .evC), (.mclean h, .clean), (.mflush h, .flush)],
         arrives x.1 h.addr x.2 false (fun _ => True)) ∧
       (∀ sz : BitVec 3, aligned h.addr.toNat sz.toNat = true → arrives (.rdc h sz) h.addr .rdC false (fun r =>
         r.sz = sz ∧ r.off = h.addr.extractLsb' 0 7)) ∧
       (∀ (d : StoreData) (ord : Bool) (strm : BitVec 4),
         arrives (.wrp h d ord strm) h.addr .store true (fun r => r.cl = encodeLine d.bytes d.poison ∧ r.mask = d.mask) ∧
         arrives (.wrn h d) h.addr .store false (fun r => r.cl = encodeLine d.bytes d.poison ∧ r.mask = d.mask)) ∧
       (∀ (d : FullData) (tgt : BitVec 3), arrives (.wrb h d) h.addr .wrB false (fun r => r.cl = encodeLine d.bytes d.poison) ∧
         arrives (.wrh h d tgt) h.addr .wrH true (fun r => r.cl = encodeLine d.bytes d.poison ∧ r.tgt = tgt)) ∧
       (∀ (sz : BitVec 3) (aop : BitVec 4) (operand compare : BitVec 128) (nr : Bool), aligned h.addr.toNat sz.toNat = true →
         (atomicSizes aop.toNat).contains sz.toNat = true → arrives (.atm h sz aop operand compare nr) h.addr .atm false (fun r =>
           r.sz = sz ∧ r.aop = aop ∧ r.operand = operand ∧ r.compare = compare ∧ r.nr = nr ∧ r.off = h.addr.extractLsb' 0 7))) ∧
     (∀ sa : SysAddr, sa = BitVec.ofNat 9 s.node ++ (h.addr.setWidth 48).setWidth 43 →
       s.kind h.port = .nonCaching → s.translated h.port = false → (h.addr.setWidth 48).toNat < 2 ^ 43 → spaceOf sa = .memory →
       s.addrBad sa = false → s.policyOf sa = pWBA → arrives (.rd h) sa .rd false (fun _ => True))) ∧
  (∀ (s : State) (h : FabHdr), s.homeServes h.line = true →
     let arrives : Instr → ReqOp → (Req → Prop) → Prop := fun i op P =>
       ∃ r : Req, exec i s = .next (s.arriveReq r) ∧ r.src = .node h.src h.rtrk h.bounded ∧ r.op = op ∧ r.line = h.line ∧ P r
     (∀ x ∈ [(Instr.frds h, ReqOp.rdS), (.frdu h, .rdU), (.fupg h, .upg), (.frdc h, .rdC), (.frdpf h, .prefetch), (.fclean h, .clean),
       (.fflush h, .flush)], arrives x.1 x.2 (fun _ => True)) ∧
     (∀ (off : BitVec 7) (sz : BitVec 3) (aop : BitVec 4) (operand compare : BitVec 128) (nr noAlloc : Bool),
       arrives (.fatm h off sz aop operand compare nr noAlloc) .atm (fun r => r.off = off ∧ r.sz = sz ∧ r.aop = aop ∧
         r.operand = operand ∧ r.compare = compare ∧ r.nr = nr)) ∧
     (∀ (cl : CodeLine) (mask : ByteMask), ∃ r : Req,
       exec (.fwr h cl mask) s = .next (({ s with coh := (s.coh.arrive h.line cl).2 } : State).arriveReq r) ∧
       r.cl = (s.coh.arrive h.line cl).1 ∧ r.op = .store ∧ r.mask = mask ∧ r.src = .node h.src h.rtrk h.bounded ∧ r.line = h.line))

/-- The slice serves stores, write-backs, evictions and reads: At a slice with nothing else in service, for a line that no
agent and no other node holds, with sound arrays and a port that can send: WrB and EvC are answered; a store to a line held
exclusive joins the Press and is answered; a RdC of such a line queues its read of the slot. -/
def Obligations.SliceServesRequests : Prop :=
  ∀ (s : State) (r : Req) (p : Port), Inv s → Idle s → s.coh.wake = false → r.src = .agent p → s.isHome r.line = true → r.posted = false →
    Sound s r.line → Clear s (.port p) →
    s.coh.blocked r.line = false → s.coh.pressOf r.line = none → s.coh.hamperOf r.line = none → s.coh.snfOf r.line = none →
    s.coh.dirOf r.line = none → s.accepts p = true → s.tagEnded p r.tag = false →
    let answered : AgentMsg → Prop := fun m => ∃ nb, Sends s (s.arriveReq r) [.agent p { m with nb := nb }]
    ((r.op = .wrB ∨ r.op = .evC) → answered { opc := opWbCmp, tag := r.tag }) ∧
    (∀ k, s.coh.hitSlot s r.line = some k → (s.coh.tag k).st = tE →
      (r.op = .store → r.mask ≠ 0 → s.policy r.line = pWBA → (s.coh.pressIn (sliceOf r.line).val).length < 32 →
        answered { opc := opCmp, tag := r.tag } ∧ ∃ x, (s.arriveReq r).coh.press = s.coh.press ++ [x] ∧ x.line = r.line ∧
          x.mask = r.mask ∧ x.cl = mergePress 0 r.cl r.mask ∧ x.st = .owned) ∧
      (r.op = .rdC → ∃ q, (s.arriveReq r).coh.cmiQ.get (s.chan (slotSlice k)) = [q] ∧ q.key = k ∧ q.line = r.line ∧ q.cont = .serve))

/-- Fences wait for earlier requests and are then answered: FENCEW, FENCEL and FENCEG are recorded with exactly the earlier
requests they wait for; FENCE_COMPLETE answers the oldest fence once it waits for none, and changes nothing but the port and
its account. -/
def Obligations.FencesWait : Prop :=
  ∀ (s : State) (p : Port) (cls : BitVec 2) (tag : Tag), s.takes p = true →
    (Idle s → s.tagHeld p tag = false → (∀ x ∈ s.coh.press, x.policy ≠ pDEV) →
      ∀ x ∈ [(FenceKind.w, Instr.fencew p cls tag), (.l, .fencel p cls tag), (.g, .fenceg p cls tag)],
        let waits := ((s.port p).points.filter (fun o => match x.1 with
          | .w => o.isWrite
          | .l => !(o.passed && o.fabric)
          | .g => true)).map OpenPoint.id
        let f : FenceSt := { id := (s.port p).nextPoint, kind := x.1, tag := tag, nb := false, waits := waits }
        Does x.2 s (fun t => (t.port p).fences = (s.port p).fences ++ [f] ∧ (t.port p).nextPoint = (s.port p).nextPoint + 1 ∧
          t = { s with ports := t.ports, coh := Asleep s.coh, mon := t.mon })) ∧
    (∀ (f : FenceSt) (rest : List FenceSt), (s.port p).fences = f :: rest → f.tag = tag → f.waits = [] → (s.port p).front = [] →
      (s.ptu p).anyDue = false → Clear s (.port p) →
      Does (.fenceComplete p tag) s (fun t => (t.port p).fences = rest ∧
        t.sent = s.sent ++ [.agent p { opc := opCmp, tag := tag }] ∧
        t = { s with ports := t.ports, prm := t.prm, mon := t.mon, sent := t.sent }))

/-- The posted-write queue and the spilled queues: PWQ_ISSUE sends the oldest entry that may issue to the slice of its line,
or to the queue of the window it writes, marks its stream busy and takes the entry from the head; ORDERED_WRITE_VISIBLE frees
the stream where the store is visible; a flush latches the queued entries and its end is reported; eight event records go
from the tail to memory and come back to the head; eight entries of a posted-write queue go from its tail to its middle, and
the reads of the oldest middle entries begin. -/
def Obligations.OrderedWritesAndSpills : Prop :=
  (∀ (s : State) (p : Port), Inv s →
     (∀ x : PwqEntry, (s.pwq p).head.find? (fun x => s.mayIssue p x) = some x →
       let issued : State → Prop := fun u => (u.pwq p).busy = (s.pwq p).busy ++ [(x.strm, x.id)] ∧
         (s.pwq p).head.filter (fun y => y.id != x.id) <+: (u.pwq p).head ∧ Sends s u [] ∧
         u = { s with ports := u.ports, hdl := u.hdl, sent := u.sent }
       (spaceOf x.addr = .memory → ∃ (u : State) (r : Req), exec (.pwqIssue p) s = .next ((u.arriveReq r).frontScan p) ∧ issued u ∧
         r.src = .pwq p x.strm ∧ r.op = .store ∧ r.line = lineOf x.addr ∧ r.cl = x.cl ∧ r.mask = x.mask ∧ r.posted = true ∧
         r.point = x.id) ∧
       (∀ w : BitVec 4, spaceOf x.addr = .mmio w → nodeOf x.addr = s.node → s.windowStat w = 0 →
         ∃ (u : State) (d : DevReq), exec (.pwqIssue p) s = .next (u.frontScan p) ∧ issued u ∧
           (u.port (Fin.ofNat 6 (s.ownerOf w.toNat))).dreqQ = (s.port (Fin.ofNat 6 (s.ownerOf w.toNat))).dreqQ ++ [d] ∧
           d.kind = .dWrP ∧ d.window = w ∧ d.addr = x.addr.extractLsb' 0 36 ∧ d.data.mask = x.mask)) ∧
     (∀ strm : BitVec 4, Does (.orderedWriteVisible p strm) s (fun t =>
       (∀ b, b ∈ (t.pwq p).busy ↔ b ∈ (s.pwq p).busy ∧ (b.1 = strm → ∃ o ∈ (s.port p).points, o.id = b.2)) ∧
       t = { s with ports := t.ports })) ∧
     (Serving s → s.kind p = .nonCaching → s.pwr.st ≠ .fallowEntry → Does (.agpPwqFlush p) s (fun t =>
       (∃ l, (t.pwq p).flush = some l ∧ ∀ x ∈ (s.pwq p).head ++ (s.pwq p).tail, x.id ∈ l) ∧ t = { s with ports := t.ports })) ∧
     ((s.pwq p).flush = some [] → Does (.pwqFlushDone p) s (fun t => (t.pwq p).flush = none ∧
       t.rb (F.AGP_PWQ_STAT.DONE p) = true ∧ Raised t 105 ∧ t = { s with regs := t.regs, ports := t.ports, mon := t.mon }))) ∧
  (∀ (s : State), Inv s → Idle s →
     let e := s.mon.ev
     let line := s.evLine (e.midAt + e.midCount)
     (12 ≤ e.tail.length → e.midCount + 8 ≤ 65536 → 0 < e.midCount → Does (.spillBatchWrite .event) s (fun t =>
       t.mon.ev.midCount = e.midCount + 8 ∧ e.tail.drop 8 <+: t.mon.ev.tail ∧
       t.coh.rawMem (memOf line) (memIndex line) = evBatch (e.tail.take 8) ∧ t = { s with coh := t.coh, mon := t.mon })) ∧
     (∀ cl : CodeLine, let l := s.evLine e.midAt
       s.coh.readMem s l = (cl, s.coh.ctr (ctrSel 4 (memOf l) 0x10)) → linePoison cl = 0 → 8 < e.midCount → e.head.length ≤ 8 →
       Does (.spillBatchRead .event) s (fun t => t.mon.ev.midCount = e.midCount - 8 ∧
         t.mon.ev.head = e.head ++ (List.range 8).map (fun i => evOfBits ((lineBytes cl).extractLsb' (128 * i) 128)) ∧
         t = { s with coh := Asleep s.coh, mon := t.mon })) ∧
     (∀ p : Port, let q := s.pwq p
       (24 ≤ q.tail.length → q.midIds ≠ [] → q.midIds.length + 8 ≤ s.pwqShare p → Does (.spillBatchWrite (.pwq p)) s (fun t =>
         (t.pwq p).tail = q.tail.drop 8 ∧ (t.pwq p).midIds = q.midIds ++ (q.tail.take 8).map PwqEntry.id ∧ (t.pwq p).head = q.head)) ∧
       (q.midIds.drop q.back.length ≠ [] → q.head.length + q.back.length ≤ 24 → Does (.spillBatchRead (.pwq p)) s (fun t =>
         (t.pwq p).back = q.back ++ ((q.midIds.drop q.back.length).take 8).map (fun _ => (none, none)) ∧
         (t.pwq p).midIds = q.midIds ∧ (t.pwq p).head = q.head))))

/-- Accesses to MMIO windows: The oldest device request goes to the window's owner and uses a credit; those for a dead owner
end with STAT 4; DCMP and DDATA go to the agent that asked, with status or bytes, and DCMP to the node that asked; FDEVRD and
FDEVWR for a window of this node join the owner's queue. -/
def Obligations.DeviceRequestsAreServed : Prop :=
  ∀ (s : State) (p : Port), Still s →
    (∀ (d : DevReq) (rest : List DevReq), (s.port p).dreqQ = d :: rest → s.dead p = false → s.portActive p = true →
      s.accepts p = true → 0 < (s.port p).dreqCred → Clear s (.port p) → (s.port p).devLeft = [] →
      (∀ x ∈ (s.port p).dreqOut, x.tag ≠ (s.port p).devTag) →
      let delivered : State → Prop := fun t => Sends s t [.agent p (d.msg (s.port p).devTag)] ∧ (t.port p).dreqQ = rest ∧
        (t.port p).dreqCred = (s.port p).dreqCred - 1 ∧ t = { s with ports := t.ports, mon := t.mon, sent := t.sent }
      (d.kind ≠ .dWrP → Does (.mmioDelivery p) s (fun t => delivered t ∧
        (t.port p).dreqOut = (s.port p).dreqOut ++ [{ d with tag := (s.port p).devTag }])) ∧
      (∀ (q : Port) (tag : Tag) (pt : Nat), d.kind = .dWrP → d.src = .agent q tag pt → Does (.mmioDelivery p) s (fun t => delivered t ∧
        (t.port p).dreqOut = (s.port p).dreqOut ∧ ∀ o ∈ (t.port q).points, o.id ≠ pt))) ∧
    (∀ (d : DevReq) (rest : List DevReq) (q : Port) (tag : Tag) (pt : Nat), (s.port p).dreqQ = d :: rest → s.dead p = true →
      d.src = .agent q tag pt → d.kind ≠ .dWrP → s.accepts q = true → s.tagEnded q tag = false → Clear s (.port q) →
      Does (.mmioDelivery p) s (fun t => (t.port p).dreqQ = rest ∧
        ∃ nb, Sends s t [.agent q { opc := opCmp, tag := tag, stat := 4, nb := nb }])) ∧
    (∀ (d : DevReq) (rest : List DevReq) (q : Port) (tag : Tag) (pt : Nat),
      takeFirst (fun (x : DevReq) => x.tag == d.tag) (s.port p).dreqOut = some (d, rest) → d.src = .agent q tag pt →
      s.accepts q = true → s.tagEnded q tag = false → Clear s (.port q) →
      (d.kind = .dWrN → ∀ stat : BitVec 4, Does (.dcmp p d.tag stat) s (fun t => (t.port p).dreqOut = rest ∧
        ∃ nb, Sends s t [.agent q { opc := opCmp, tag := tag, stat := stat, nb := nb }])) ∧
      (d.kind = .dRd → ∀ x : FullData, Does (.ddata p d.tag 0 x) s (fun t => (t.port p).dreqOut = rest ∧
        ∃ m : AgentMsg, Sends s t [.agent q m] ∧ m.opc = opData ∧ m.tag = tag ∧
          m.bytes = bytesAt (lineBytes (encodeLine x.bytes x.poison)) (d.addr.toNat % 128) (2 ^ d.sz.toNat)))) ∧
    (∀ (d : DevReq) (rest : List DevReq) (n : NodeId) (rtrk : BitVec 11) (stat : BitVec 4),
      takeFirst (fun (x : DevReq) => x.tag == d.tag) (s.port p).dreqOut = some (d, rest) → d.src = .node n rtrk → d.kind = .dWrN →
      let l := lineOf (BitVec.ofNat 52 (s.node * 2 ^ 43 + 0x60000000000 + d.window.toNat * 2 ^ 36 + d.addr.toNat))
      Does (.dcmp p d.tag stat) s (fun t =>
        t = (s.setPort p (fun x => { x with dreqOut := rest })).devReply (.port p) n rtrk l none stat.toNat)) ∧
    (∀ (h : FabHdr) (off : BitVec 7) (w : BitVec 4), let sa := saOf h.line ||| off.setWidth 52
      nodeOf sa = s.node → spaceOf sa = .mmio w → s.ownerOf w.toNat = p.val → s.kind p ≠ .off → s.dead p = false →
      let joins : DevKind → BitVec 3 → StoreData → State → Prop := fun kind sz d t =>
        (t.port p).dreqQ = (s.port p).dreqQ ++
          [{ src := .node h.src h.rtrk, kind := kind, window := w, addr := sa.extractLsb' 0 36, sz := sz, data := d }] ∧
        (∀ q, q ≠ p → t.port q = s.port q) ∧ t = { s with ports := t.ports }
      (∀ sz : BitVec 3, Does (.fdevrd h off sz) s (joins .dRd sz { bytes := 0, mask := 0, poison := 0 })) ∧
      (∀ (d : StoreData) (pst : Bool), Does (.fdevwr h off d pst) s (joins (if pst then .dWrP else .dWrN) 7 d)))

/-- Acknowledgements, snoop answers and write-backs of agents: ACKC ends the service of its line; a snoop answer is counted
and the snoop filter stops naming the port; a line that an answer carried goes to the Press; answers that nothing awaits
raise EV104 and change nothing else. -/
def Obligations.AgentsAnswer : Prop :=
  ∀ (s : State), Inv s → s.deadNodes = [] → s.coh.retiring = [] → s.coh.fx = [] →
    (∀ (p : Port) (tag : Tag) (x : Txn), ({ s.coh with txns := [] } : Coh).quiet = true → s.coh.txns = [x] → x.phase = .done →
      x.writePending = false → x.ackPending = true → x.req.src = .agent p → x.req.tag = tag →
      Does (.ackc p tag) s (fun t => t.coh.txns = [])) ∧
    (∀ (x y : Snoop) (f : Flow) (newst : AgSt) (acc : Bool) (l : LineAddr),
      ({ s.coh with flows := [], snoops := [] } : Coh).quiet = true → s.coh.snoops = [x, y] → s.coh.flows = [f] →
      x.flow = f.id → f.await = 2 → x.deferred = false → x.opc ≠ opSnpP → x.opc ≠ opSnpH → (∀ a b c, f.kind ≠ .hint a b c) →
      y.port ≠ x.port → s.dead y.port = false → newst = .i →
      Does (.snoopAnswer x.port x.tag newst acc false none l) s (fun t => t.coh.snoops = [y] ∧ t.coh.flows = [{ f with await := 1 }] ∧
        ∀ e, t.coh.snfOf x.line = some e → e.named x.port = false)) ∧
    (∀ w : AgentWb, ({ s.coh with agentWbs := [] } : Coh).quiet = true → s.coh.agentWbs = [w] →
      s.coh.pressOf w.line = none → (s.coh.pressIn (sliceOf w.line).val).length < 32 →
      Does (.snoopDataWriteback w.line) s (fun t => t.coh.agentWbs = [] ∧
        ∃ e ∈ t.coh.press, e.line = w.line ∧ e.cl = w.cl ∧ e.mask = fullMask)) ∧
    (∀ (p : Port) (tag : Tag), s.coh.ackTxn p tag = none → Does (.ackc p tag) s (fun t => Raised t 104 ∧ t = { s with mon := t.mon })) ∧
    (∀ (p : Port) (tag : Tag) (newst : AgSt) (acc dirty : Bool) (d : Option FullData) (l : LineAddr), s.coh.snoopBy p tag = none →
      Does (.snoopAnswer p tag newst acc dirty d l) s (fun t => Raised t 104 ∧ t = { s with mon := t.mon }))

/-- Dead agents: A snoop unanswered for SNP_T, a link out of ACTIVE for LINK_T, and a declaration with the key declare an
agent dead: DEAD and the cause are set, EV098 is raised, its credits, device requests and waiting snoops are gone, and the
coherence engine is woken; under the last two, with an idle engine and no device request, only registers, the port and status
change; the walk ends with RECLAIMED and EV099 where no entry names the port. -/
def Obligations.AgentsDie : Prop :=
  (∀ (s : State) (p : Port), Inv s → s.kind p ≠ .off → s.dead p = false →
     let dies : Nat → State → Prop := fun cause t => t.dead p = true ∧ t.rf (F.AGP_DEAD_CTL.CAUSE p) = cause ∧ Raised t 98 ∧
       (t.port p).credits = [] ∧ (t.port p).dreqQ = [] ∧ (t.port p).dreqOut = [] ∧ (t.port p).snpWait = []
     let declared : Nat → Instr → Prop := fun cause i =>
       ∃ u : State, exec i s = .next (u.runCoh Coh.woken) ∧ dies cause u ∧ u.coh = s.coh
     let alone : Nat → Instr → Prop := fun cause i => Idle s → (s.port p).dreqOut = [] → (s.port p).dreqQ = [] →
       Does i s (fun t => dies cause t ∧ t = { s with regs := t.regs, ports := t.ports, coh := Asleep s.coh, mon := t.mon })
     (∀ (tag : Tag) (x : Snoop), s.coh.snoopBy p tag = some x → x.since + max 1 (s.rf (F.AGP_DEAD_CFG.SNP_T p)) * 256 ≤ s.fine →
       declared 1 (.snoopTimeout p tag)) ∧
     (∀ at_ : Nat, (s.port p).link.leftAt = some at_ → at_ + max 1 (s.rf (F.AGP_DEAD_CFG.LINK_T p)) * 64000 ≤ s.fine →
       declared 2 (.linkRetrainTimeout p) ∧ alone 2 (.linkRetrainTimeout p)) ∧
     (∀ v : Word, Serving s → bit v 8 = true → fld v 16 8 = 0xC3 →
       declared 3 (.agpDeadCtlDeclare p v) ∧ alone 3 (.agpDeadCtlDeclare p v))) ∧
  (∀ (s : State) (p : Port), Inv s → s.dead p = true → s.rb (F.AGP_DEAD_CTL.RECLAIMED p) = false → Idle s →
     s.coh.naming p = [] → (s.port p).front = [] → Does (.deadAgentWalkDone p) s (fun t =>
       t.rb (F.AGP_DEAD_CTL.RECLAIMED p) = true ∧ Raised t 99 ∧ t = { s with regs := t.regs, coh := Asleep s.coh, mon := t.mon }))

/-- Dead nodes: A declaration with the key, a missing route, and a home or requester that has awaited the node for NODE_T
declare a node dead, start its walk and raise EV101; the walk ends with EV102 where nothing names the node. -/
def Obligations.NodesDie : Prop :=
  ∀ (s : State) (n : NodeId), n.toNat ≠ s.node → s.inFabric n.toNat = true →
    let died : State → Prop := fun t => t.deadNodes = s.deadNodes ++ [n.toNat] ∧ t.deadWalks = s.deadWalks ++ [n.toNat] ∧
      Raised t 101
    (s.deadNodes.contains n.toNat = false →
      (∀ v : Word, Serving s → bit v 24 = true → fld v 16 8 = 0xC3 → fld v 0 9 = n.toNat → Does (.glbDeadCtlDeclare v) s died) ∧
      (s.noRoute n.toNat = true → Does (.nodeTimeout n true) s died) ∧
      (∀ x ∈ s.coh.awaiting s n, x + max 1 (s.rf F.GLB_COH_TMO.NODE_T) * 10000 ≤ s.fine → Does (.nodeTimeout n false) s died)) ∧
    (s.deadWalks = [n.toNat] → s.coh.deadLines s n.toNat = [] → s.coh.quiet = true → s.coh.retiring = [] → s.coh.fx = [] →
      s.coh.dir = [] → s.coh.press = [] → s.coh.hamper = [] → Does (.deadNodeWalkDone n) s (fun t => t.deadWalks = [] ∧
        Raised t 102 ∧ t = { s with coh := Asleep s.coh, deadWalks := t.deadWalks, mon := t.mon }))

/-- Forwards, invalidations, recalls, write-backs and evictions: A node without the line answers FFWDS, FFWDU and FFWDC with
FFwdMiss, FINV with FInvAck, FRECALL and an empty FRECALLSET with FRecallAck, and changes nothing else; a home without an
entry acknowledges FEV and leaves memory, directory and cache alone under FWB; FWB of the owner of an exclusive entry writes
memory, and clears the entry unless the line is kept. -/
def Obligations.FabricAnswersWithoutCopy : Prop :=
  ∀ (s : State) (h : FabHdr), Idle s → Sound s h.line → s.coh.setLocked h.line = false →
    let head : Nat → StileHdr := fun opc => { opc := opc, dst := h.src.toNat, src := s.node, line := h.line }
    let reply : Nat → StilePkt := fun opc => {
      payload := .none
      hdr := stileHdr { head opc with rqn := h.rqn.toNat, rtrk := h.rtrk.toNat, htrk := h.htrk.toNat, bounded := h.bounded } }
    let answered : LineAddr → StilePkt → State → Prop := fun l k t =>
      t = ({ s with coh := Asleep s.coh } : State).sendFabric (.slice (sliceOf l)) k
    (s.coh.nodeState s h.line = tI →
      (∀ ackF inv : Bool, Does (.ffwds h ackF inv) s (answered h.line (reply fFwdMiss)) ∧
        Does (.ffwdu h ackF inv) s (answered h.line (reply fFwdMiss)) ∧ Does (.ffwdc h ackF inv) s (answered h.line (reply fFwdMiss))) ∧
      Does (.finv h) s (answered h.line (reply fInvAck)) ∧ Does (.frecall h) s (answered h.line (reply fRecallAck))) ∧
    (∀ (sl : SliceNo) (set : BitVec 11), let l : LineAddr := BitVec.ofNat 45 (sl.val + 32 * set.toNat)
      Sound s l → s.coh.setLines s h.src sl set.toNat = [] →
      Does (.frecallset h.src h.htrk sl set) s (answered l {
        payload := .none
        hdr := stileHdr { head fRecallAck with htrk := h.htrk.toNat, line := l } })) ∧
    (s.coh.dirKeyOf h.line = none → s.coh.hamperOf h.line = none → s.coh.blocked h.line = false →
      let ack : StilePkt := {
        payload := .none
        hdr := stileHdr { head fWbAck with rqn := h.src.toNat, rtrk := h.rtrk.toNat } }
      let passed : State := { s with coh := { Asleep s.coh with nextOrder := s.coh.nextOrder + 1 } }
      Does (.fev h) s (fun t => t = { passed.sendFabric (.slice (sliceOf h.line)) ack with mon := t.mon }) ∧
      ∀ (cl : CodeLine) (keep : Bool), Does (.fwb h cl keep) s (fun t =>
        t.coh.ddr = s.coh.ddr ∧ t.coh.dir = s.coh.dir ∧ t.coh.tags = s.coh.tags)) ∧
    (∀ (k : Nat) (cl : CodeLine), Inv s → s.coh.dirKeyOf h.line = some k → (s.coh.dirAt k).st = dEX → (s.coh.dirAt k).owner = h.src →
      s.coh.hamperOf h.line = none → s.coh.blocked h.line = false → ∀ keep : Bool, Does (.fwb h cl keep) s (fun t =>
        t.coh.rawMem (memOf h.line) (memIndex h.line) = (s.coh.arrive h.line cl).1 ∧
        (keep = true → t.coh.dir = s.coh.dir) ∧ (keep = false → (t.coh.dirAt k).st = 0) ∧ t.coh.tags = s.coh.tags))

/-- Answers of the fabric end what awaits them: At the home FINVACK, FRECALLACK, FRECALLDATA (also one that comes before its
acknowledgement) and FFWDMISS are entered in the flow of the line, and FCMPACK ends it; at the requester FWBACK ends a
write-back, FDECL a prefetch that was declined, and FCMP and FDATA answer the agent's access to another node's register or
window. -/
def Obligations.FabricAnswersAreTaken : Prop :=
  (∀ (s : State) (h : FabHdr) (x : HomeTx), s.deadNodes = [] → s.coh.retiring = [] → s.coh.fx = [] →
     ({ s.coh with homeTx := [] } : Coh).quiet = true → s.coh.homeTx = [x] → x.line = h.line →
     Sound s h.line →
     (x.snooping = true → h.src ∈ x.invs → Does (.finvack h) s (fun t => ∃ y, t.coh.homeTx = [y] ∧
       y.invs = x.invs.filter (fun n => n != h.src) ∧ y.recalls = x.recalls)) ∧
     (∀ n : BitVec 12, x.snooping = true → h.src ∈ x.recalls → Does (.frecallack h n) s (fun t => ∃ y, t.coh.homeTx = [y] ∧
       y.recalls = x.recalls.filter (fun n => n != h.src) ∧ y.early = x.early.filter (fun n => n != h.src) ∧
       y.due = (if n = 0 ∨ h.src ∈ x.early then x.due else x.due ++ [h.src]))) ∧
     (∀ cl : CodeLine, x.snooping = true → x.ts = .ha → h.src ∈ x.recalls → h.src ∉ x.due → h.src ∉ x.early → h.src ∉ x.taken →
       Does (.frecalldata h cl) s (fun t => ∃ y, t.coh.homeTx = [y] ∧ y.early = x.early ++ [h.src] ∧ y.due = x.due ∧
         y.data = some (s.coh.arrive h.line cl).1 ∧ y.dirty = true)) ∧
     (x.snooping = true → x.ts = .hf → x.fwdTo = some h.src → x.missed = false → Does (.ffwdmiss h) s (fun t =>
       ∃ y, t.coh.homeTx = [y] ∧ y.missed = true)) ∧
     (x.ts = .hc → reqNodeId s x.req = h.src → x.req.remote = true → Does (.fcmpack h) s (fun t => t.coh.homeTx = []))) ∧
  (∀ (s : State) (h : FabHdr), s.deadNodes = [] → s.coh.retiring = [] → s.coh.fx = [] → Sound s h.line →
     (∀ x : NodeTx, ({ s.coh with nodeTx := [] } : Coh).quiet = true → s.coh.nodeTx = [x] → x.line = h.line → x.ts = .wb →
       x.keepSt = 0 → x.mnt = false → s.coh.pressOf h.line = none → Does (.fwback h false) s (fun t => t.coh.nodeTx = [] ∧
         t.coh.hamper = s.coh.hamper.filter (fun e => !(e.line == h.line && e.writing)))) ∧
     (∀ (x : NodeTx) (y : Txn) (k : OutTrk) (p : Port), ({ s.coh with nodeTx := [], txns := [], outTrks := [] } : Coh).quiet = true →
       s.coh.nodeTx = [x] → s.coh.txns = [y] → s.coh.outTrks = [k] → x.line = h.line → x.ts = .ip → k.rtrk = h.rtrk →
       y.req.line = h.line → y.req.src = .drill p → y.slot = none → y.joined = [] →
       Does (.fdecl h) s (fun t => t.coh.nodeTx = [] ∧ t.coh.txns = [] ∧ t.coh.outTrks = [] ∧ t.coh.wait = [])) ∧
     (∀ (k : OutTrk) (p : Port), ({ s.coh with outTrks := [] } : Coh).quiet = true → s.coh.outTrks = [k] → k.rtrk = h.rtrk →
       k.use = .dev → k.req.src = .agent p → k.req.posted = false → s.accepts p = true → s.tagEnded p k.req.tag = false →
       Still s → Clear s (.port p) →
       (∀ (g : BitVec 2) (stat : BitVec 4) (v : BitVec 128) (m : BitVec 2), Does (.fcmp h g stat v m) s (fun t => t.coh.outTrks = [] ∧
         ∃ nb, Sends s t [.agent p { opc := opCmp, tag := k.req.tag, stat := stat, nb := nb }])) ∧
       (∀ (cl : CodeLine) (g : BitVec 2) (uo a i : Bool), Does (.fdata h cl g uo a i 0) s (fun t => t.coh.outTrks = [] ∧
         ∃ nb, Sends s t [.agent p { partMsg k.req cl with nb := nb }]))))

/-- A packet in transit: A packet for another node goes out on the link of its route with its dateline bit, where nothing
waits there and the next receiver has room, and its receive buffer is returned on the link it came in on. -/
def Obligations.PacketsMoveOn : Prop :=
  ∀ (s : State) (l : LinkNo),
    (∀ (k : StilePkt) (dim minus : Nat), s.nextHop k.hdr = some (dim, minus) → hdrDst k.hdr ≠ s.node →
      let o := linkOf dim minus
      let dl := ((some (l.val / 2) == some dim && hdrDl k.hdr) || s.crossesDateline dim minus)
      let k' : StilePkt := { k with hdr := setHdr k.hdr 62 1 dl.toNat }
      let b := pktBuf l k
      Clear s (.stile l) → Clear s (.stile o) → (s.stile o).wait = [] → (s.stile o).cur = none →
      (s.stile o).room { pkt := k', since := s.fine, size := pktSlots k' } = true → Does (.stileForward l k) s (fun t =>
        t.sent = s.sent ++ [.stile o k', .ctl (.stile l) (.vcc b.2.1 b.2.2.1 b.2.2.2)] ∧ (t.stile o).wait = [] ∧
        t = { s with links := t.links, mon := t.mon, sent := t.sent }))

/-- Reads of memories and channels: MEMORY_READ_DONE gives the decoded line to the request it was read for; CMI_READ_DONE of
a scrub reports a line with new marks; VERIFY_READ_DONE ends the obligation and raises EV146 exactly where a codeword was
corrected or marked. -/
def Obligations.ReadsReturn : Prop :=
  ∀ (s : State), Inv s → s.deadNodes = [] → s.coh.retiring = [] → s.coh.fx = [] →
    (∀ (m : MemNo) (r : PendRead) (x : Txn) (errs : CodeLine), s.rb (F.MEM_STAT.PPR_BUSY m) = false →
      ({ s.coh with memQ := vset s.coh.memQ m [], txns := [] } : Coh).quiet = true → s.coh.memQ.get m = [r] → s.coh.txns = [x] →
      x.req.line = r.line → r.cont = .serve → r.captured = none → x.phase = .mem → x.tracker = true →
      Does (.memoryReadDone m errs) s (fun t => t.coh.memQ.get m = [] ∧ ∃ y, t.coh.txns = [y] ∧ y.phase = .arrived ∧
        y.data = some (decodeLine (s.coh.rawMem m r.key ^^^ errs)).line)) ∧
    (∀ (ch : ChanNo) (r : PendRead) (errs : CodeLine), ({ s.coh with cmiQ := vset s.coh.cmiQ ch [] } : Coh).quiet = true →
      s.coh.cmiQ.get ch = [r] → r.cont = .scrub → r.captured = none → s.chan (slotSlice r.key) = ch →
      Does (.cmiReadDone ch errs) s (fun t => t.coh.cmiQ.get ch = [] ∧
        t.coh.slotReports = (if (decodeLine (s.coh.rawSlot s r.key ^^^ errs)).newMarks = 0 then [] else [(r.key, r.line)]))) ∧
    (∀ (ch : ChanNo) (v : Verify) (errs : CodeLine), ({ s.coh with cmiVerify := vset s.coh.cmiVerify ch [] } : Coh).quiet = true →
      s.coh.cmiVerify.get ch = [v] → s.rb F.DAR_CTL.RETIRE_EN = false →
      let d := decodeLine (v.cl ^^^ errs)
      Does (.verifyReadDone (.chan ch) errs) s (fun t => t.coh.cmiVerify.get ch = [] ∧
        (d.corrected = 0 → d.newMarks = 0 → t.mon = s.mon) ∧ (d.corrected ≠ 0 ∨ d.newMarks ≠ 0 → Raised t 146)))

/-- Fills: FILL_DATA_ARRIVAL answers a RdC with the data of the fill tracker; FILL_WRITE_ACCEPTED makes the slot's entry
final and the slot holds the line. -/
def Obligations.FillsEnd : Prop :=
  ∀ (s : State) (x : Txn) (l : LineAddr) (cl : CodeLine), Inv s → s.deadNodes = [] → s.coh.retiring = [] → s.coh.fx = [] →
    ({ s.coh with txns := [] } : Coh).quiet = true → s.coh.txns = [x] → x.req.line = l → x.data = some cl → s.isHome l = true →
    Sound s l → x.joined = [] →
    (∀ p : Port, x.req.src = .agent p → x.req.op = .rdC → x.phase = .arrived → x.permitted = true → x.snooped = true →
      x.dirty = false → x.slot = none → s.accepts p = true → s.tagEnded p x.req.tag = false → Clear s (.port p) →
      Does (.fillDataArrival l) s (fun t => ∃ nb,
        Sends s t [.agent p { partMsg x.req (overSnap x.snap cl) with nb := nb }])) ∧
    (∀ k : Nat, x.phase = .done → x.writePending = true → x.slot = some k → x.ackPending = false →
      (s.coh.tag k).st = tF → (s.coh.tag k).tag = tagOf s.sets l →
      Does (.fillWriteAccepted l) s (fun t => t.coh.txns = [] ∧ (t.coh.tag k).st = x.install ∧
        (t.coh.tag k).tag = tagOf s.sets l ∧ (t.coh.tag k).poison = anyMark cl ∧ t.coh.rawSlot s k = cl))

/-- The Press, the Hamper and the Swath: PRESS_DRAIN_START, PRESS_DRAIN_DONE, PRESS_AGE_EXPIRY and PRESS_PERMISSION_GRANTED
take an entry to its drain, to the slot, to be wanted and to be owned; HAMPER_WRITEBACK_START and HAMPER_WRITEBACK_DONE take
a held line to memory; SWATH_TRACKER_IDLE frees a tracker and nothing else. -/
def Obligations.PressAndHamperDrain : Prop :=
  (∀ (s : State) (x : PressEntry), Inv s → s.deadNodes = [] → s.coh.retiring = [] → s.coh.fx = [] → s.coh.press = [x] → Sound s x.line →
     (Idle s → s.coh.drainReady s x = true → x.policy = pWBA → x.hint = none → s.isHome x.line = true →
       ∀ k, s.coh.hitSlot s x.line = some k → Does (.pressDrainStart (sliceOf x.line)) s (fun t =>
         t.coh.press = [{ x with st := .draining, drain := .cache k }] ∧
         t = { s with coh := { s.coh with press := t.coh.press, wake := false } })) ∧
     (Idle s → ∀ k : Nat, Still s → x.st = .draining → x.drain = .cache k → x.fill = false →
       s.coh.slotStands s k x.line = true → (s.coh.tag k).st ≠ tF → x.mask = fullMask → s.coh.anyHamper x.line = none →
       Does (.pressDrainDone x.line) s (fun t => t.coh.press = [] ∧ (t.coh.tag k).st = s.coh.drainState s x.line ∧
         t.coh.rawSlot s k = x.over x.cl)) ∧
     (Idle s → max 1 (s.rf F.GLB_PRESS_CFG.AGE) * 16 ≤ s.fine - x.born → Does (.pressAgeExpiry x.line) s (fun t =>
       t = { s with coh := { s.coh with press := [{ x with wanted := true }], wake := false } })) ∧
     (∀ y : Txn, ({ s.coh with txns := [] } : Coh).quiet = true → s.coh.txns = [y] → y.req.line = x.line → y.req.src = .press →
       y.phase = .done → y.uo = false → x.st = .pending → x.permReady = true → s.coh.permits s y.req = true →
       s.coh.snfOf x.line = none → Does (.pressPermissionGranted x.line) s (fun t => t.coh.txns = [] ∧
         ∃ z, t.coh.press = [z] ∧ z.st = .owned ∧ z.line = x.line ∧ z.cl = x.cl ∧ z.mask = x.mask))) ∧
  (∀ (s : State), Inv s →
     (∀ h : HamperEntry, Idle s → s.coh.hamper = [h] → s.isHome h.line = true → Sound s h.line →
       (h.writing = false → Does (.hamperWritebackStart (sliceOf h.line)) s (fun t =>
         t = { s with coh := { s.coh with hamper := [{ h with writing := true }], wake := false } })) ∧
       (h.writing = true → Does (.hamperWritebackDone h.line) s (fun t => t.coh.hamper = [] ∧
         t.coh.rawMem (memOf h.line) (memIndex h.line) = h.cl ∧ t = { s with coh := t.coh, mon := t.mon }))) ∧
     (∀ (p : Port) (i : Fin 8) (x : SwathTracker), (s.port p).swath.get i = some x →
       max 1 (s.rf F.GLB_SWATH_CFG.IDLE) * 256 ≤ s.fine - x.matched → Does (.swathTrackerIdle p i) s (fun t =>
         (t.port p).swath.get i = none ∧ t = { s with ports := t.ports })))

/-- Maintenance of a range: MNT_CLEAN_ADDR, MNT_FLUSH_ADDR and MNT_INVAL_ADDR with its key latch the range, end at once where
it is empty, report a bad range, and are refused while an operation runs; MNT_RANGE_LINE_ISSUE hands the next line to its
slice, and MNT_COMPLETE reports the end. -/
def Obligations.MaintenanceByAddress : Prop :=
  (∀ (s : State), Inv s → Serving s →
     let n := s.rf F.GLB_MNT_LEN.LINES
     let first := s.rf F.GLB_MNT_ADDR_HI.SA_HI * 2 ^ 25 + s.rf F.GLB_MNT_ADDR_LO.SA_LO
     ∀ x ∈ [(Instr.mntCleanAddr, 0#2), (.mntFlushAddr, 1#2), (.mntInvalAddr 0xA5, 2#2)],
       (s.rb F.GLB_MNT_STAT.BUSY = false → s.refusing = false → 0 < n → s.rangeOk first n = true → Does x.1 s (fun t =>
         t.mnt = { op := x.2, next := first, left := n } ∧ t.rb F.GLB_MNT_STAT.BUSY = true ∧
         t = { s with regs := t.regs, mnt := t.mnt })) ∧
       (s.rb F.GLB_MNT_STAT.BUSY = false → s.refusing = false → n = 0 → Does x.1 s (fun t =>
         t.rb F.GLB_MNT_STAT.DONE = true ∧ Raised t 66 ∧ t = { s with regs := t.regs, mon := t.mon })) ∧
       (s.rb F.GLB_MNT_STAT.BUSY = false → s.refusing = false → 0 < n → s.rangeOk first n = false → Does x.1 s (fun t =>
         t.rf F.GLB_MNT_STAT.ERR_CODE = 1 ∧ t.rb F.GLB_MNT_STAT.ERR = true ∧ Raised t 67 ∧
         t = { s with regs := t.regs, mon := t.mon })) ∧
       (s.rb F.GLB_MNT_STAT.BUSY = true → Does x.1 s (fun t => t.rb F.GLB_MNT_STAT.REFUSED = true ∧ Raised t 67 ∧
         t = { s with regs := t.regs, mon := t.mon }))) ∧
  (∀ (s : State), Inv s → s.rb F.GLB_MNT_STAT.BUSY = true → s.mnt.sw = false →
     let l : LineAddr := BitVec.ofNat 45 s.mnt.next
     (0 < s.mnt.left → (s.mnt.inFlight.filter (fun x => sliceOf x == sliceOf l)).length < 4 →
       ∃ (u : State) (r : Req), exec .mntRangeLineIssue s = .next (u.arriveReq r) ∧
         u = { s with mnt := { s.mnt with next := s.mnt.next + 1, left := s.mnt.left - 1, inFlight := s.mnt.inFlight ++ [l] } } ∧
         r.src = .mnt ∧ r.op = mntOp s.mnt.op ∧ r.line = l) ∧
     (s.mnt.left = 0 → s.mnt.inFlight = [] → s.mnt.sets = [] → Does .mntComplete s (fun t =>
       t.rb F.GLB_MNT_STAT.BUSY = false ∧ t.rb F.GLB_MNT_STAT.DONE = true ∧ Raised t 66 ∧
       t = { s with regs := t.regs, mon := t.mon })))

/-- Maintenance of one slot: A clean line stays under MNT_CLEAN_SW and leaves under MNT_FLUSH_SW and MNT_INVAL_SW; a modified
line is copied to the Hamper, moved to it, or dropped. -/
def Obligations.MaintenanceBySetWay : Prop :=
  ∀ (s : State), Inv s → Serving s → Idle s → s.rb F.GLB_MNT_STAT.BUSY = false → s.refusing = false →
    bit (s.rg Reg.GLB_MNT_SW) 31 = false → s.rf F.GLB_MNT_SW.SET < s.sets →
    let k := slotKey (s.rf F.GLB_MNT_SW.SLICE) (s.rf F.GLB_MNT_SW.SET) (s.rf F.GLB_MNT_SW.WAY)
    let l := s.coh.slotLineAddr s k
    s.coh.checkRow (s.rf F.GLB_MNT_SW.SLICE) (s.rf F.GLB_MNT_SW.SET) = s.coh →
    s.isSpill k = false → s.coh.lockedLine l = false → s.coh.drainingInto l = false →
    let m : Maint := { op := 0, sw := true, slice := s.rf F.GLB_MNT_SW.SLICE, way := s.rf F.GLB_MNT_SW.WAY }
    ∀ x ∈ [(Instr.mntCleanSw, 0#2), (.mntFlushSw, 1#2), (.mntInvalSw, 2#2)],
      (((s.coh.tag k).st = tE ∨ (s.coh.tag k).st = tS) → Does x.1 s (fun t =>
        t.mnt = { m with op := x.2 } ∧ t.rb F.GLB_MNT_STAT.BUSY = true ∧
        t.coh.tag k = (if x.2 = 0 then s.coh.tag k else tagFree) ∧ t.coh.hamper = s.coh.hamper)) ∧
      ((s.coh.tag k).st = tM → s.coh.hamperFull (slotSlice k) = false → Does x.1 s (fun t =>
        t.mnt = { m with op := x.2 } ∧ t.rb F.GLB_MNT_STAT.BUSY = true ∧
        (x.2 = 0 → (t.coh.tag k).st = tE) ∧ (x.2 ≠ 0 → t.coh.tag k = tagFree) ∧
        (x.2 = 2 → t.coh.hamper = s.coh.hamper) ∧
        (x.2 ≠ 2 → ∃ h, t.coh.hamper = s.coh.hamper ++ [h] ∧ h.line = l ∧ h.copy = (x.2 == 0))))

/-- Ways and channels are enabled and disabled: SLC_WAY_EN_WRITE stores the enables and starts a walk for each bit it clears;
WAY_DRAIN_VISIT moves a walk on and empties a clean slot; WAY_DRAIN_DONE ends it; CMI_CTL_WRITE that disables drains every
way of the channel or is refused while a spill region is set; CHANNEL_DISABLE_DONE and CMI_TRAINING_DONE end a disable and a
training. -/
def Obligations.WaysAndChannelsSwitch : Prop :=
  (∀ (s : State) (sl : SliceNo), Inv s →
     (∀ v : Word, Serving s → s.refusing = false → Does (.slcWayEnWrite sl v) s (fun t =>
       (∀ w < 16, bit (t.rg (Reg.SLC_WAY_EN sl)) w = bit v w) ∧
       (∀ w : Fin 16, bit (s.rg (Reg.SLC_WAY_EN sl)) w.val = true → bit v w.val = false →
         bit (t.rg (Reg.SLC_WAY_STAT sl)) w.val = true ∧ { slice := sl, way := w, next := 0, lines := [], chan := false } ∈ t.drains) ∧
       t = { s with regs := t.regs, drains := t.drains })) ∧
     (∀ (way : Fin 16) (d : WayDrain), s.drains.find? (fun d => isDrain sl way d && decide (d.next < s.sets)) = some d → Idle s →
       s.coh.checkRow sl.val d.next = s.coh →
       let k := slotKey sl.val d.next way.val
       let on := modFirst (fun x => x == d) (fun _ => { d with next := d.next + 1 }) s.drains
       ((s.coh.tag k).st = tI → s.isSpill k = false → Does (.wayDrainVisit sl way) s (fun t =>
         t.drains = on ∧ t = { s with drains := t.drains, coh := Asleep s.coh })) ∧
       ((s.coh.tag k).st = tE → s.isSpill k = false → s.isHome (s.coh.slotLineAddr s k) = true →
         s.coh.lockedLine (s.coh.slotLineAddr s k) = false → s.coh.drainingInto (s.coh.slotLineAddr s k) = false →
         Does (.wayDrainVisit sl way) s (fun t => t.drains = on ∧ t.coh.tag k = tagFree))) ∧
     (∀ (way : Fin 16) (d : WayDrain), s.drains.find? (fun d => isDrain sl way d && !d.chan) = some d → s.drainEnded d = true →
       Does (.wayDrainDone sl way) s (fun t => t.drains = s.drains.erase d ∧ bit (t.rg (Reg.SLC_WAY_STAT sl)) way.val = false ∧
         t.rb (F.SLC_WAY_STAT.DONE sl) = true ∧ Raised t 68 ∧ t = { s with regs := t.regs, drains := t.drains, mon := t.mon }))) ∧
  (∀ (s : State) (ch : ChanNo), Inv s →
     (∀ v : Word, Serving s → s.rb (F.CMI_CTL.EN ch) = true → bit v 0 = false →
       (s.rf F.GLB_SPILL_CFG.SIZE_MIB = 0 → s.refusing = false → s.rb (F.CMI_CTL.DRAINING ch) = false → Does (.cmiCtlWrite ch v) s (fun t =>
         t.rb (F.CMI_CTL.EN ch) = false ∧ t.rb (F.CMI_STAT.TRAINED ch) = false ∧ t.rb (F.CMI_CTL.DRAINING ch) = true ∧
         (∀ sl ∈ s.slicesOf ch, ∀ w : Fin 16, { slice := sl, way := w, next := 0, lines := [], chan := true } ∈ t.drains) ∧
         t = { s with regs := t.regs, drains := t.drains })) ∧
       (s.rf F.GLB_SPILL_CFG.SIZE_MIB ≠ 0 → Does (.cmiCtlWrite ch v) s (fun t =>
         t.rb (F.CMI_CTL.EN ch) = true ∧ t.rb (F.CMI_CTL.REFUSED ch) = true ∧ Raised t 70 ∧
         t = { s with regs := t.regs, mon := t.mon }))) ∧
     (s.rb (F.CMI_CTL.DRAINING ch) = true → Idle s → (∀ d ∈ s.drains, d.chan = true → s.chan d.slice.val = ch → s.drainEnded d = true) →
       Does (.channelDisableDone ch) s (fun t => t.rb (F.CMI_CTL.DRAINING ch) = false ∧ Raised t 69 ∧
         (∀ d ∈ t.drains, d.chan = true → s.chan d.slice.val ≠ ch) ∧
         t = { s with regs := t.regs, drains := t.drains, mon := t.mon })) ∧
     (s.rb (F.CMI_CTL.EN ch) = true → s.rb (F.CMI_STAT.TRAINED ch) = false → s.rb (F.CMI_CTL.DRAINING ch) = false →
       s.channels.contains ch = true →
       (Idle s → Does (.cmiTrainingDone ch true) s (fun t => t.rb (F.CMI_STAT.TRAINED ch) = true ∧
         t = { s with regs := t.regs, coh := Asleep s.coh })) ∧
       Does (.cmiTrainingDone ch false) s (fun t => t.rb (F.CMI_STAT.TFAIL ch) = true ∧ t.rb (F.CMI_CTL.EN ch) = false ∧
         Raised t 175 ∧ t = { s with regs := t.regs, mon := t.mon })))

/-- Readings of pace, and the release of credits: A reading enters NOW and the last sixteen readings of every island;
CREDIT_RELEASE gives the port one more credit of the class where pool, tag and tests allow it, and a CRD slot tells the
agent. -/
def Obligations.PaceAndCredits : Prop :=
  (∀ (s : State) (r : PaceSample), s.coreOn = true → s.pwr.st ≠ .rest →
     Does (.paceReading r) s (fun t =>
       (∀ i : Fin 36, (t.prm.mons.get i).now = paceNow r i.val ∧
         (t.prm.mons.get i).hist = (paceNow r i.val :: (s.prm.mons.get i).hist).take 16) ∧
       t.prm.chanLoad = r.chanLoad ∧ t.prm.memLoad = r.memLoad ∧ t.prm.inFlight = s.prm.inFlight ∧ t = { s with prm := t.prm })) ∧
  (∀ (s : State) (p : Port) (cls : BitVec 2) (ch : ChanNo), s.releasing = true → s.accepts p = true → Clear s (.port p) →
     s.portActive p = true → s.tagFree p = true → s.caching p = true → cls ≠ 3 →
     let mine := (s.port p).credits.filter (fun c => c.kind == .agent && c.cls == cls)
     let here := mine.filter (fun c => c.ch.toNat == ch.val)
     let granted : State → Prop := fun t => (t.port p).credits = (s.port p).credits ++ [s.newCredit .agent cls ch] ∧
       t.sent = s.sent ++ [.ctl (.port p) (.crd cls (BitVec.ofNat 3 ch.val))] ∧
       t = { s with ports := t.ports, mon := t.mon, sent := t.sent }
     (cls = 2 → mine.length < s.rf (F.AGP_CRD_CFG.P2_MAX p) → Does (.creditRelease .agent p cls ch) s granted) ∧
     (cls = 0 → s.channels.contains ch = true → here.length < s.rf (F.AGP_CRD_CFG.P0_PER_CH p) →
       s.creditOk (dieOfPort p) 0 [ch] = true → Does (.creditRelease .agent p cls ch) s granted) ∧
     (cls = 1 → s.channels.contains ch = true → here.length < s.rf (F.AGP_CRD_CFG.P1_PER_CH p) →
       s.creditOk (dieOfPort p) 1 [ch] = true → Does (.creditRelease .agent p cls ch) s granted))

/-- Breaches: A floor breach and a promise past its deadline enter fallback mode, set the cause's bit, raise its event, and
every released credit loses its promise. -/
def Obligations.BreachesFallBack : Prop :=
  ∀ (s : State), Inv s →
    let fallen : State → Prop := fun t => t.fallback = true ∧ (∀ q : Port, ∀ c ∈ (t.port q).credits, c.promise = false) ∧
      t = { s with regs := t.regs, ports := t.ports, prm := t.prm, mon := t.mon }
    (∀ (d : Fin 2) (mv : Nat), mv < 5 * (s.setVmon d mv).floorInFlight →
      Does (.breachDetected (.floor d mv)) s (fun t => fallen t ∧ t.prm.vmon.get d = mv ∧
        fld (t.rg Reg.GLB_PRM_STAT) d.val 1 = 1 ∧ Raised t (32 + d.val))) ∧
    (∀ (p : Port) (tag : Tag) (q : Promise), s.prm.inFlight.find? (fun q => q.id == .agent p tag && q.due s.fine) = some q →
      Does (.promiseDeadline (.agent p tag)) s (fun t => fallen t ∧
        fld (t.rg Reg.GLB_PRM_STAT) (if q.remote then 4 else 3) 1 = 1 ∧
        Raised t (if q.remote then 37 else if q.p1 then 36 else 35)))

/-- The end of a fallback, the ceiling, and the switch of modes: FALLBACK_AUTO_RETURN ends a fallback after HOLD;
CEILING_EXPIRY answers the agent with STAT 2 and leaves its tag in use, ended; PRM_MODE_WRITE starts a switch that awaits the
local promises in flight; MODE_SWITCH_COMPLETE enters the requested mode. -/
def Obligations.FallbackEndsModesSwitch : Prop :=
  (∀ (s : State), Inv s →
     (s.fallback = true → s.rb F.GLB_PRM_MODE.AUTO_RETURN = true → s.troubled = false →
       s.prm.breachFree + max 1 (s.rf F.GLB_PRM_CFG.HOLD) * 64000 ≤ s.fine →
       Does .fallbackAutoReturn s (fun t => t.fallback = false ∧ Raised t 39 ∧ t.curMode = s.curMode ∧
         t = { s with regs := t.regs, prm := t.prm, mon := t.mon })) ∧
     (∀ (p : Port) (u : TagUse), (s.port p).tags.find? (fun x => x.tag == u.tag && !x.ended) = some u → u.ceiling = true →
       u.at_ + 10000 ≤ s.fine → s.accepts p = true → Clear s (.port p) → (∀ x ∈ (s.port p).tags, x.tag = u.tag → x.answered = false) →
       s.rb F.GLB_PRM_STAT.CEILING = false →
       Does (.ceilingExpiry (.agent p u.tag)) s (fun t =>
         t.sent = s.sent ++ [.agent p { opc := opCmp, tag := u.tag, stat := 2, nb := u.nb }] ∧
         t.rb F.GLB_PRM_STAT.CEILING = true ∧ Raised t 42 ∧ (∃ x ∈ (t.port p).tags, x = { u with ended := true }) ∧
         t = { s with regs := t.regs, ports := t.ports, mon := t.mon, sent := t.sent }))) ∧
  (∀ (s : State), Inv s →
     (∀ v : Word, Serving s → s.switching = false → s.fallback = false → fld v 2 2 ≠ 3 → fld v 2 2 ≠ s.curMode →
       Does (.prmModeWrite v) s (fun t => t.rf F.GLB_PRM_MODE.REQ_MODE = fld v 2 2 ∧ t.switching = true ∧ t.curMode = s.curMode ∧
         t.prm.swAwait = (s.prm.inFlight.filter (fun q => !q.remote)).map Promise.id ∧
         t = { s with regs := t.regs, prm := t.prm })) ∧
     (s.switching = true → s.prm.swAwait = [] → Does .modeSwitchComplete s (fun t =>
       t.curMode = s.rf F.GLB_PRM_MODE.REQ_MODE ∧ t.switching = false ∧ Raised t 40 ∧
       t = { s with regs := t.regs, prm := t.prm, mon := t.mon })))

/-- The Drill: DRILL_ISSUE takes a pending line with a prefetch credit, PREFETCH_PASS hands it to its slice,
DRILL_TRACKER_IDLE frees a tracker; the accuracy interval moves CAP; writes of DRL_CFG and DRL_ACC take effect; contention
counts decay. -/
def Obligations.PrefetchesRun : Prop :=
  (∀ (s : State) (p : Port),
     (∀ (i : Fin 64) (is : List (Fin 64)) (x : StreamTracker) (q : PendLine) (qs : List PendLine) (c : Credit) (cs : List Credit),
       let l : LineAddr := BitVec.ofNat 45 q.addr.toNat
       s.drilling p = true → s.boot.running = true → s.pwr.st = .run → s.caching p = true → (s.port p).front = [] →
       (s.ptu p).anyDue = false → s.issueOrder p = i :: is → (s.drill p).trackers.get i = some x → x.pend = q :: qs →
       q.walk = none → q.sa = none → nodeOf (saOf l) = s.node → s.rf (F.DRL_CFG2.CRD p) ≠ 0 →
       takeFirst (fun c => c.kind == .drill && c.ch.toNat == (s.chanOfLine l).val) (s.port p).credits = some (c, cs) →
       Does (.drillIssue p) s (fun t => (t.drill p).issued = (s.drill p).issued ++ [l] ∧ (t.port p).credits = cs ∧
         (t.drill p).trackers.get i = some { x with pend := qs } ∧ t = { s with ports := t.ports, prm := t.prm, mon := t.mon })) ∧
     (∀ (l : LineAddr) (rest : List LineAddr), (s.drill p).issued = l :: rest →
       ∃ (u : State) (r : Req), exec (.prefetchPass p) s = .next (u.arriveReq r) ∧
         u = { s with ports := u.ports, hdl := u.hdl, sent := u.sent, freeCtr := u.freeCtr } ∧ Sends s u [] ∧
         (u.drill p).issued = rest ∧ r.src = .drill p ∧ r.op = .prefetch ∧ r.line = l ∧ r.cls = if lineHome l = s.node then 1 else 2) ∧
     (∀ (i : Fin 64) (x : StreamTracker), (s.drill p).trackers.get i = some x →
       x.matched + max 1 (s.rf (F.DRL_CFG2.IDLE p)) * 256 < s.fine → Does (.drillTrackerIdle p i) s (fun t =>
         (t.drill p).trackers.get i = none ∧ (∀ j, j ≠ i → (t.drill p).trackers.get j = (s.drill p).trackers.get j) ∧
         t = { s with ports := t.ports }))) ∧
  (∀ (s : State), Inv s →
     (s.accAt + max 1 (s.rf F.DRL_ACC.INTERVAL) * 1000 ≤ s.fine →
       let cap := nextCap (s.rb F.DRL_ACC.ACC_EN) (s.rf F.DRL_ACC.CAP) s.accU s.accV (s.rf F.DRL_ACC.MIN)
       Does .drillAccuracyInterval s (fun t => t.rf F.DRL_ACC.CAP = cap ∧ t.accU = 0 ∧ t.accV = 0 ∧ t.accAt = s.fine ∧
         (cap < s.rf F.DRL_ACC.CAP → Raised t 71) ∧ (s.rf F.DRL_ACC.CAP < cap → Raised t 72) ∧
         t = { s with accU := 0, accV := 0, accAt := s.fine, regs := t.regs, mon := t.mon })) ∧
     (∀ (p : Port) (v : Word), Serving s → Does (.drlCfgWrite p v) s (fun t =>
       t.rb (F.DRL_CFG.EN p) = bit v 0 ∧ (bit v 0 = true → t = { s with regs := t.regs }) ∧
       (bit v 0 = false → (∀ i, (t.drill p).trackers.get i = none) ∧ (∀ c ∈ (t.port p).credits, c.kind ≠ .drill) ∧
         t = { s with regs := t.regs, ports := t.ports }))) ∧
     (∀ v : Word, Serving s → Does (.drlAccWrite v) s (fun t =>
       t.rf F.DRL_ACC.INTERVAL = fld v 0 8 ∧ t.rf F.DRL_ACC.MIN = fld v 8 8 ∧ t.rb F.DRL_ACC.ACC_EN = bit v 21 ∧
       t.rf F.DRL_ACC.CAP = (if bit v 21 then s.rf F.DRL_ACC.CAP else 16) ∧ t = { s with regs := t.regs, mon := t.mon })) ∧
     (s.rf F.GLB_ATOM_CFG.DECAY ≠ 0 → s.decayAt + s.rf F.GLB_ATOM_CFG.DECAY * 1000 ≤ s.fine → Does .contentionDecay s (fun t =>
       t.coh.hot = s.coh.hot.map (fun x => (x.1, x.2.1, x.2.2 - 1)) ∧
       t = { s with decayAt := s.fine, coh := { s.coh with hot := t.coh.hot } })))

/-- Translation registers and invalidations: Root and seed registers give the port its table, its context and its seed; each
of the three invalidations clears the entries it names and no other, or is refused and clears none; its end is reported. -/
def Obligations.TranslationRegisters : Prop :=
  (∀ (s : State) (p : Port) (v : Word) (seed : BitVec 16), Inv s → Serving s → s.kind p = .nonCaching →
     Does (.ptuRootLoWrite p v) s (fun t => t.rf (F.PTU_ROOT_LO.ROOT_LO p) = fld v 12 20 ∧ t = { s with regs := t.regs }) ∧
     Does (.ptuRootHiWrite p v) s (fun t =>
       (t.ptu p).root.toNat = fld v 0 20 * 2 ^ 32 + s.rf (F.PTU_ROOT_LO.ROOT_LO p) * 2 ^ 12 ∧ (t.ptu p).ctx.toNat = fld v 20 12 ∧
       (t.ptu p).tlb = (s.ptu p).tlb ∧ (t.ptu p).demand = (s.ptu p).demand ∧ t = { s with regs := t.regs, ports := t.ports }) ∧
     Does (.ptuSeedWrite p seed) s (fun t => (t.ptu p).lfsr = (if seed = 0 then 1 else seed) ∧ (t.ptu p).tlb = (s.ptu p).tlb ∧
       t.rf (F.PTU_CTL.SEED p) = seed.toNat ∧ t = { s with regs := t.regs, ports := t.ports })) ∧
  (∀ (s : State) (p : Port), Inv s → Serving s → s.kind p = .nonCaching →
     (∀ x ∈ [(Instr.tlbInvByAddress p, InvOp.byAddress (s.invCtx p) (s.invPa p)), (.tlbInvByContext p, .byContext (s.invCtx p)),
         (.tlbInvAll p, .all)],
       (s.invRefused p = false → Does x.1 s (fun t => t.rb (F.PTU_INV_STAT.BUSY p) = true ∧
         (∀ i : Fin 128, let e := (s.ptu p).tlb.get i;
           (t.ptu p).tlb.get i = if e.v && x.2.entry e.ctx e.vpn e.sz then e.cleared else e) ∧
         t = { s with regs := t.regs, ports := t.ports })) ∧
       (s.invRefused p = true → Does x.1 s (fun t => t.rb (F.PTU_INV_STAT.REFUSED p) = true ∧ t = { s with regs := t.regs }))) ∧
     (s.rb (F.PTU_INV_STAT.BUSY p) = true → (s.ptu p).invWaits = [] → (∀ w ∈ (s.ptu p).walks, w.marked = false) →
       Does (.tlbInvComplete p) s (fun t => t.rb (F.PTU_INV_STAT.BUSY p) = false ∧ t.rb (F.PTU_INV_STAT.DONE p) = true ∧
         Raised t 118 ∧ t = { s with regs := t.regs, mon := t.mon })))

/-- The end of a walk: A walk whose descriptor is a leaf fills the translation buffer unless an invalidation has marked it; a
walk whose descriptor is bad fills nothing; one whose descriptor is a pointer goes on at the next level from the table it
names, and its next descriptor read is issued. -/
def Obligations.WalksEnd : Prop :=
  ∀ (s : State) (p : Port) (id : WalkId) (w : Walk) (d : BitVec 64), (s.port p).front = [] → (s.ptu p).anyDue = false →
    (s.ptu p).walk id = some w → w.got = some (0, d, false) →
    (∀ e, readDesc d w.level w.pa w.ctx (walkSrc id) = .leaf e → Does (.walkDescriptorRead p id) s (fun t =>
      (t.ptu p).walk id = none ∧ (w.marked = true → (t.ptu p).tlb = (s.ptu p).tlb) ∧
      (w.marked = false → (t.ptu p).tlb = ((s.ptu p).fill e).tlb) ∧
      t = { s with ports := t.ports, mon := t.mon })) ∧
    (∀ c, readDesc d w.level w.pa w.ctx (walkSrc id) = .bad c → Does (.walkDescriptorRead p id) s (fun t =>
      (t.ptu p).walk id = none ∧ (t.ptu p).tlb = (s.ptu p).tlb ∧ t = { s with ports := t.ports, mon := t.mon })) ∧
    (∀ a, readDesc d w.level w.pa w.ctx (walkSrc id) = .pointer a → exec (.walkDescriptorRead p id) s =
      .next (afterScan p 7 (s.setPtu p (fun x =>
        x.setWalk id (some { w with level := w.level + 1, table := a, due := true, got := none })))))

/-- Visits of the Darner: A visit becomes due each interval, up to sixteen, beyond which LAG is set and EV151 raised; a visit
moves its walker to the next slot or line and takes one due visit away. -/
def Obligations.ScrubVisits : Prop :=
  ∀ (s : State), Inv s →
    (∀ w : Walker, let i := walkerIdx w; let mem := decide (32 ≤ i.val)
      s.darnerOn mem = true →
      s.dar.dueAt.get i ≤ s.fine →
      (s.dar.due.get i < 16 → Does (.darnerDueTick w) s (fun t => t.dar.due.get i = s.dar.due.get i + 1 ∧
        t.dar.dueAt.get i = s.fine + 64 * max 1 (if mem then s.rf F.DAR_MEM_RATE.INTERVAL else s.rf F.DAR_CACHE_RATE.INTERVAL) ∧
        (∀ j, j ≠ i → t.dar.due.get j = s.dar.due.get j) ∧ t = { s with dar := t.dar })) ∧
      (s.dar.due.get i = 16 → Does (.darnerDueTick w) s (fun t => t.dar.due = s.dar.due ∧ t.rb F.DAR_STAT.LAG = true ∧
        Raised t 151 ∧ t = { s with regs := t.regs, dar := t.dar, mon := t.mon }))) ∧
    (∀ sl : SliceNo, s.darnerOn false = true → s.dar.due.get (walkerIdx (.cache sl)) ≠ 0 → s.visitOk 0 (s.chan sl) = true →
      Does (.darnerCacheVisit sl) s (fun t =>
        t.dar.pos.get sl = (if s.sets * 16 ≤ s.dar.pos.get sl + 1 then 0 else s.dar.pos.get sl + 1) ∧
        t.dar.due.get (walkerIdx (.cache sl)) = s.dar.due.get (walkerIdx (.cache sl)) - 1)) ∧
    (∀ m : MemNo, s.darnerOn true = true → s.dar.due.get (walkerIdx (.mem m)) ≠ 0 →
      s.visitOk 1 (s.chanOfLine (lineOfMem s.node m (s.dar.memPos.get m))) = true →
      Does (.darnerMemVisit m) s (fun t =>
        t.dar.memPos.get m = (if s.portCap / 128 ≤ s.dar.memPos.get m + 1 then 0 else s.dar.memPos.get m + 1) ∧
        t.dar.due.get (walkerIdx (.mem m)) = s.dar.due.get (walkerIdx (.mem m)) - 1))

/-- Reports of the Darner: A reported slot loses its clean line with EV142, or its modified line is marked poisoned; a
reported memory line without a copy in the cache is left as it is, with EV139 where it is the first since UE was clear, and
with a clean copy it is repaired with EV141. -/
def Obligations.ScrubReports : Prop :=
  ∀ (s : State), Inv s → s.deadNodes = [] → s.coh.retiring = [] → s.coh.fx = [] →
    (∀ (sl : SliceNo) (k : Nat) (l : LineAddr), let c : Coh := { s.coh with slotReports := [] }
      s.coh.slotReports = [(k, l)] → slotSlice k = sl.val → c.quiet = true → c.lockedLine l = false →
      c.readRow s l = c → s.isSpill k = false → c.slotLineAddr s k = l → s.isHome l = true →
      ((c.tag k).st = tE → Does (.scrubUeReport sl) s (fun t => t.coh.slotReports = [] ∧ t.coh.tag k = tagFree ∧ Raised t 142)) ∧
      ((c.tag k).st = tM → Does (.scrubUeReport sl) s (fun t => t.coh.slotReports = [] ∧ (t.coh.tag k).poison = true ∧
        (t.coh.tag k).st = tM))) ∧
    (∀ (m : MemNo) (k : Nat) (l : LineAddr) (first : Bool), let c : Coh := { s.coh with memReports := [] }
      s.coh.memReports = [(memIndex l, l, first)] → memOf l = m → c.quiet = true → c.lockedLine l = false →
      c.readRow s l = c →
      (c.hitSlot s l = none → first = false → Does (.memUeReport m) s (fun t => t = { s with coh := Asleep c })) ∧
      (c.hitSlot s l = none → first = true → Does (.memUeReport m) s (fun t => Raised t 139 ∧
        t = { s with coh := Asleep c, mon := t.mon })) ∧
      (c.hitSlot s l = some k → s.rb F.DAR_CTL.REPAIR_EN = true → (c.tag k).st = tE → (c.tag k).poison = false →
        Does (.memUeReport m) s (fun t => t.coh.memReports = [] ∧ t.coh.rawMem m (memIndex l) = (c.readSlot s k).1 ∧ Raised t 141)))

/-- Control of the Darner, error windows, refresh: Writes of DAR_CTL, restarts, the retirement list and un-retirement have
their effects and no other; an error window's end clears its count; a write of DAR_THR restarts every window; a refresh is
sent, and a temperature poll sets or clears REF2X. -/
def Obligations.ScrubControl : Prop :=
  (∀ (s : State), Inv s → Serving s →
     (∀ v : Word, Does (.darCtlWrite v) s (fun t => t.rb F.DAR_CTL.CACHE_EN = bit v 0 ∧ t.rb F.DAR_CTL.MEM_EN = bit v 1 ∧
       (bit v 0 ≠ s.rb F.DAR_CTL.CACHE_EN → ∀ sl : SliceNo, t.dar.due.get (walkerIdx (.cache sl)) = 0) ∧
       (bit v 1 ≠ s.rb F.DAR_CTL.MEM_EN → ∀ m : MemNo, t.dar.due.get (walkerIdx (.mem m)) = 0) ∧
       (bit v 8 = false → t.dar.pos = s.dar.pos) ∧ (bit v 9 = false → t.dar.memPos = s.dar.memPos) ∧
       t = { s with regs := t.regs, dar := t.dar })) ∧
     Does .darnerRestartCache s (fun t => t = { s with dar := { s.dar with pos := Vector.replicate 32 0 } }) ∧
     Does .darnerRestartMem s (fun t => t = { s with dar := { s.dar with memPos := Vector.replicate 2 0 } }) ∧
     (∀ m0 m1 : Bool, Does (.retirementListClear m0 m1) s (fun t =>
       t.dar.retired.get 0 = (if m0 then [] else s.dar.retired.get 0) ∧
       t.dar.retired.get 1 = (if m1 then [] else s.dar.retired.get 1) ∧ t = { s with dar := { s.dar with retired := t.dar.retired } })) ∧
     (∀ key : Byte, (key ≠ 0x5A → Does (.unretire key) s (fun t => t = s)) ∧
       (key = 0x5A → Idle s → Does (.unretire key) s (fun t =>
         (∀ k, t.coh.tag k = if (s.coh.tag k).st = tT then tagFree else s.coh.tag k) ∧
         t = { s with coh := { s.coh with tags := t.coh.tags, pp := t.coh.pp, wake := false } })))) ∧
  (∀ (s : State), Inv s →
     (∀ (ch : ChanNo) (ecs : List Nat), s.dar.winAt.get (Fin.ofNat 10 ch.val) + s.window ≤ s.fine →
       Does (.thresholdWindowEnd (.chan ch) ecs) s (fun t => t.rf (ifCeWin ch.val) = 0 ∧
         t.dar.winAt.get (Fin.ofNat 10 ch.val) = s.fine ∧ t.dar.winThr.getLsbD ch.val = false ∧
         t = { s with regs := t.regs, dar := t.dar })) ∧
     (∀ (m : MemNo) (ecs : List Nat), s.dar.winAt.get (Fin.ofNat 10 (8 + m.val)) + s.window ≤ s.fine →
       Does (.thresholdWindowEnd (.mem m) ecs) s (fun t => t.rf (ifCeWin (8 + m.val)) = 0 ∧ t.dar.ecs.get m = ecs ∧
         t.dar.winAt.get (Fin.ofNat 10 (8 + m.val)) = s.fine ∧
         ((∃ x ∈ ecs, s.rf F.DAR_THR.ECS_THR ≤ x) → t.rb (F.MEM_ERR.ECS m) = true ∧ Raised t 152) ∧
         t = { s with regs := t.regs, dar := t.dar, mon := t.mon })) ∧
     (∀ v : Word, Serving s → Does (.darThrWinWrite v) s (fun t => t.rf F.DAR_THR.CE_THR = fld v 0 8 ∧
       t.rf F.DAR_THR.WIN = fld v 8 4 ∧ t.rf F.DAR_THR.ECS_THR = fld v 16 8 ∧
       (∀ u : Fin 10, t.rf (ifCeWin u.val) = 0 ∧ t.dar.winAt.get u = s.fine) ∧ t.dar.winThr = 0 ∧
       t = { s with regs := t.regs, dar := t.dar })) ∧
     (∀ m : MemNo, s.rb (F.MEM_STAT.TRAINED m) = true →
       Does (.ddr5Refresh m) s (fun t => t.sent = s.sent ++ [.refresh m] ∧ t = { s with sent := t.sent, mon := t.mon }) ∧
       ∀ hot : Bool, Does (.ddr5TempPoll m hot) s (fun t => t.rb (F.MEM_STAT.REF2X m) = hot ∧ t = { s with regs := t.regs })))

/-- Training and retraining of ports and links: Each step of training done goes to the next, each failure to its outcome with
its cause; a detection is tried again; lost lock, a written RETRAIN and four NAKs for one flit take an ACTIVE unit to RETRAIN
with DOWN and its event. -/
def Obligations.LinksTrain : Prop :=
  (∀ (u : LinkUnit) (rev : Bool) (pol : BitVec 8) (s : State), Inv s →
     let done := fun (ok : Bool) (st : Nat) => Does (.linkTrainingStepDone u ok rev pol) s (fun t => t.linkState u = st ∧
       t = { s with regs := t.regs, ports := t.ports, links := t.links, sent := t.sent })
     let fails := fun (cause : Nat) => Does (.linkTrainingStepDone u false rev pol) s (fun t => t.linkState u = stFail ∧
       t.linkField u F.AGP_LINK_STAT.CAUSE F.STL_LINK_STAT.CAUSE = cause)
     (s.linkState u = stDetect → done true stLock) ∧
     (s.linkState u = stLock → done true stOrder ∧ done false stDetect) ∧
     (s.linkState u = stOrder → done true stEqual ∧ fails 1) ∧
     (s.linkState u = stEqual → done true stParam ∧ fails 3 ∧ Does (.linkTrainingStepDone u true rev pol) s (fun t =>
       t.sent = s.sent ++ [.ctl u (.param (s.ownParam u))])) ∧
     (s.linkState u = stParam → (s.linkSt u).paramOk = true → Does (.linkTrainingStepDone u true rev pol) s (fun t =>
       t.linkState u = stActive)) ∧
     ((s.linkState u = stDetect ∧ (s.linkSt u).since + 1000000 ≤ s.fine) ∨
         (s.linkState u = stFail ∧ (s.linkSt u).since + 10000000 ≤ s.fine) →
       Does (.linkDetectRetry u) s (fun t => t.linkState u = stDetect ∧ (t.linkSt u).since = s.fine ∧
         t = { s with regs := t.regs, ports := t.ports, links := t.links }))) ∧
  (∀ (s : State), Inv s →
     let down := fun (u : LinkUnit) (t : State) => t.linkState u = stRetrain ∧ (t.linkSt u).leftAt = some s.fine ∧
       (∀ p : Port, u = .port p → t.rb (F.AGP_LINK_STAT.DOWN p) = true ∧ Raised t (160 + p.val)) ∧
       (∀ l : LinkNo, u = .stile l → t.rb (F.STL_LINK_STAT.DOWN l) = true ∧ Raised t (166 + l.val)) ∧
       t = { s with regs := t.regs, mon := t.mon, ports := t.ports, links := t.links }
     (∀ u : LinkUnit, s.linkState u = stActive → Does (.blockLockLost u) s (down u)) ∧
     (∀ p : Port, Serving s → s.portActive p = true → Does (.agpLinkCtlRetrain p) s (down (.port p))) ∧
     (∀ (u : LinkUnit) (q : BitVec 10), s.linkState u = stActive → (s.linkSt u).replay.any (fun f => f.1 == q) = true →
       (s.linkSt u).nakSeq = q → (s.linkSt u).nakCount = 3 → Does (.nak u q) s (fun t => t.linkState u = stRetrain)))

/-- The PARAM slot: A PARAM slot with a wrong version, kind or opposite link fails the training with its cause; a right one
gives the port its credits, or the link its peer. -/
def Obligations.ParamIsChecked : Prop :=
  ∀ (u : LinkUnit) (b : BitVec 128) (s : State), Inv s → s.linkState u = stParam →
    let fails := fun (cause : Nat) => Does (.paramSlot u b) s (fun t => t.linkState u = stFail ∧
      t.linkField u F.AGP_LINK_STAT.CAUSE F.STL_LINK_STAT.CAUSE = cause)
    (b.extractLsb' 0 4 ≠ 1 → fails 5) ∧
    (∀ p : Port, u = .port p → b.extractLsb' 0 4 = 1 →
      let kind : BitVec 2 := if s.caching p then 1 else 2
      (b.extractLsb' 4 2 ≠ kind → fails 4) ∧
      (b.extractLsb' 4 2 = kind → Does (.paramSlot u b) s (fun t => (t.port p).link.paramOk = true ∧
        (t.port p).snpCred = (b.extractLsb' 6 8).toNat ∧ (t.port p).dreqCred = (b.extractLsb' 14 8).toNat ∧
        (t.port p).evtCred = (b.extractLsb' 22 8).toNat ∧ t = { s with ports := t.ports }))) ∧
    (∀ l : LinkNo, u = .stile l → b.extractLsb' 0 4 = 1 →
      ((b.extractLsb' 39 3).toNat ≠ oppositeLink l → fails 6) ∧
      ((b.extractLsb' 39 3).toNat = oppositeLink l → Does (.paramSlot u b) s (fun t => (t.stile l).link.paramOk = true ∧
        t.rf (F.STL_LINK_STAT.PEER l) = (b.extractLsb' 30 9).toNat ∧ t = { s with regs := t.regs, links := t.links })))

/-- Retry and credits of an ACTIVE unit: A good empty flit is counted, a bad one answered with NAK; ACK frees the flits it
names, NAK replays from the flit it names, the ACK timer sends an ACK; a VCC slot returns the buffers that its class names.
-/
def Obligations.RetryKeepsOrder : Prop :=
  (∀ (u : LinkUnit) (s : State), s.linkState u = stActive →
     let x := s.linkSt u
     (Clear s u → 0 < x.unacked → x.unackedAt + 64 ≤ s.fine → Does (.ackTimer u) s (fun t =>
       t.sent = s.sent ++ [.ctl u (.ack (x.rxSeq - 1))] ∧ (t.linkSt u).unacked = 0)) ∧
     (∀ q : BitVec 10, x.replay.any (fun f => f.1 == q) = true → x.txSlots = [] → (∀ p : Port, u = .port p → (s.port p).devLeft = []) →
       Does (.ack u q) s (fun t => (t.linkSt u).replay = (x.replay.dropWhile (fun f => f.1 != q)).drop 1 ∧
         (t.linkSt u).nakCount = 0 ∧ t = { s with ports := t.ports, links := t.links, mon := t.mon })) ∧
     (∀ q : BitVec 10, x.replay.any (fun f => f.1 == q) = true → x.nakCount = 0 → Does (.nak u q) s (fun t =>
       t.sent = s.sent ++ [.replay u q] ∧ (t.linkSt u).nakCount = 1 ∧ (t.linkSt u).replay = x.replay)) ∧
     (∀ (slots : BitVec 480) (crc : Word), Clear s u → crc ≠ flitCrc slots x.rxSeq → x.nakSent = false →
       Does (.flitReceived u slots crc) s (fun t => t.sent = s.sent ++ [.ctl u (.nak x.rxSeq)] ∧ (t.linkSt u).rxSeq = x.rxSeq)) ∧
     (Still s → x.unacked = 0 → x.rxLeft = 0 → Does (.flitReceived u 0 (flitCrc 0 x.rxSeq)) s (fun t =>
       (t.linkSt u).rxSeq = x.rxSeq + 1 ∧ (t.linkSt u).unacked = 1 ∧ (t.linkSt u).unackedAt = s.fine ∧ t.sent = s.sent))) ∧
  (∀ (s : State) (n : BitVec 8),
     let body := fun (cls : BitVec 4) => (n ++ cls : BitVec 12).setWidth 128
     (∀ p : Port, s.linkState (.port p) = stActive →
       Does (.vcc (.port p) (body 0)) s (fun t => (t.port p).dreqCred = (s.port p).dreqCred + n.toNat ∧ t = { s with ports := t.ports }) ∧
       Does (.vcc (.port p) (body 4)) s (fun t => (t.port p).evtCred = (s.port p).evtCred + n.toNat ∧ t = { s with ports := t.ports }) ∧
       ((s.port p).snpWait = [] → Does (.vcc (.port p) (body 1)) s (fun t => (t.port p).snpCred = (s.port p).snpCred + n.toNat ∧
         t = { s with ports := t.ports }))) ∧
     (∀ l : LinkNo, s.linkState (.stile l) = stActive → (s.stile l).wait = [] →
       Does (.vcc (.stile l) (body 7)) s (fun t => (t.stile l).bcred = (s.stile l).bcred + n.toNat ∧ t = { s with links := t.links })))

/-- The Headland: A message between units of different dies is sent in the beats of its packet and takes that many buffers of
its class, one between units of one die sends nothing; a received one-beat packet is delivered and its buffer returned; a
stalled sub-link is shown and EV173 raised. -/
def Obligations.HeadlandBeats : Prop :=
  ∀ (s : State), Inv s →
    (∀ (a b : HdlUnit) (stile : Bool) (vcl : Fin 5) (cls : BitVec 2) (h : BitVec 160) (l : Option CodeLine) (m : Option ByteMask),
      let beats := hdlBeats h (hdlRoute stile vcl cls a b) l m
      let e := b.die == 1
      (a.die = b.die → s.cross a b stile vcl cls h l m = s) ∧
      (a.die ≠ b.die → (∀ d : Fin 2, s.hdl.tx.get d = []) → s.hdl.stalled = 0 →
        beats.length ≤ (s.hdl.cred.get (hdlDir e)).get vcl →
        let t := s.cross a b stile vcl cls h l m
        t.sent = s.sent ++ beats.map (fun x => .headland e x) ∧
        (t.hdl.cred.get (hdlDir e)).get vcl + beats.length = (s.hdl.cred.get (hdlDir e)).get vcl ∧
        t = { s with hdl := { s.hdl with cred := t.hdl.cred }, sent := t.sent })) ∧
    (∀ (toE : Bool) (b : BitVec 512), (∀ d : Fin 2, s.hdl.tx.get d = []) → s.hdl.rx.get (hdlDir toE) = [] →
      packetBeats b = 1 → routeClass (beatRoute b) < 5 →
      Does (.headlandBeat toE b) s (fun t => t.hdl.delivered = s.hdl.delivered ++ [(toE, [b])] ∧
        t.sent = s.sent ++ [.headland (!toE) (creditBeat (routeClass (beatRoute b)) 1)] ∧
        t = { s with hdl := t.hdl, sent := t.sent, mon := t.mon })) ∧
    (∀ i : Fin 16, Does (.sublinkStall i) s (fun t => t.hdl.stalled.getLsbD i = true ∧ t.rb F.HDL_STAT.STALL = true ∧
      t.rf F.HDL_STAT.SUBLINK = i ∧ Raised t 173 ∧ t = { s with regs := t.regs, hdl := t.hdl, mon := t.mon }))

/-- Writes of registers: A write of a register with no command of its own, of a slice or memory block, stores its RW bits,
clears its W1C bits written 1 and changes no other register; a misaligned write and one outside every block change no
register and raise EV001 and EV002. -/
def Obligations.CsrWriteByFieldType : Prop :=
  (∀ (s : State) (o : BitVec 26) (v : Word) (row : RegRow), Inv s → Serving s → s.ses.waiting = [] → o.toNat % 4 = 0 →
     (∃ i r, csrBlock o.toNat = some (.slice, i, r) ∧ r ≠ 0x48 ∨ csrBlock o.toNat = some (.memory, i, r)) →
     regRow o.toNat = some row →
     Does (.csrWrite o v) s (fun t =>
       t.rg o.toNat = ((s.rg o.toNat &&& ~~~row.rw) ||| (v &&& row.rw)) &&& ~~~(v &&& row.w1c) ∧
       t = { s with regs := t.regs } ∧ ∀ p, p ≠ o.toNat → t.rg p = s.rg p)) ∧
  (∀ (s : State) (o : BitVec 26) (v : Word), s.coreOn = true →
     (o.toNat % 4 ≠ 0 → Does (.csrWrite o v) s (fun t => Raised t 1 ∧ t = { s with mon := t.mon })) ∧
     (o.toNat % 4 = 0 → csrBlock o.toNat = none → Does (.csrWrite o v) s (fun t => Raised t 2 ∧ t = { s with mon := t.mon })))

/-- Events: EVT_RTE_WRITE sets one route, EVT_SW_WRITE raises the sources of its bits, EVT_Q_FLUSH empties the queue, and the
oldest in-band message goes out with an event buffer credit. -/
def Obligations.EventRegisters : Prop :=
  (∀ (s : State), Inv s →
     (∀ v : Word, Serving s → s.rf F.EVT_RTE_IDX.INDEX < 288 → Does (.evtRteWrite v) s (fun t =>
       t.mon.ev.route (s.rf F.EVT_RTE_IDX.INDEX) = v.extractLsb' 0 5 ∧
       (∀ n, n ≠ s.rf F.EVT_RTE_IDX.INDEX → t.mon.ev.route n = s.mon.ev.route n) ∧
       t = { s with mon := { s.mon with ev := { s.mon.ev with routes := t.mon.ev.routes } } })) ∧
     (∀ v : Word, s.coreOn = true → Does (.evtSwWrite v) s (fun t =>
       (∀ b < 32, v.getLsbD b = true → Raised t (256 + b)) ∧ t = { s with mon := t.mon })) ∧
     (Serving s → Does .evtQFlush s (fun t => t.mon.ev.head = [] ∧ t.mon.ev.tail = [] ∧ t.mon.ev.midCount = 0 ∧
       t.mon.ev.done = true ∧ t.mon.ev.pend = s.mon.ev.pend ∧ t = { s with mon := t.mon }))) ∧
  (∀ (s : State) (m : Nat × BitVec 64) (rest : List (Nat × BitVec 64)), s.mon.ev.inb = m :: rest → s.inbOk = true →
     let p : Port := Fin.ofNat 6 (s.rf F.EVT_INB.PORT)
     0 < (s.port p).evtCred → Clear s (.port p) → Does .inbandEventSend s (fun t => (t.port p).evtCred = (s.port p).evtCred - 1 ∧
       Sends s t [.agent p { opc := opEvMsg, addr := BitVec.ofNat 52 m.1, time := m.2 }] ∧
       t = { s with ports := t.ports, mon := t.mon, sent := t.sent, hdl := t.hdl }))

/-- The read cursor and the mark of the trouble log: A write of the read cursor moves it within the log or to the oldest
entry; a mark is taken; a rewind goes to the mark, or, without one, to the oldest entry with an error and EV006. -/
def Obligations.LogCursor : Prop :=
  ∀ (s : State), s.coreOn = true →
    (∀ v : Word, Does (.logRseqWrite v) s (fun t =>
      ((v - s.mon.log.oldest).toNat ≤ s.mon.log.entries.length → t.mon.log.rseq = v) ∧
      (s.mon.log.entries.length < (v - s.mon.log.oldest).toNat → t.mon.log.rseq = s.mon.log.oldest) ∧
      t = { s with mon := { s.mon with log := { s.mon.log with rseq := t.mon.log.rseq } } })) ∧
    Does .logMark s (fun t => t = { s with mon := { s.mon with log := { s.mon.log with mark := s.mon.log.rseq, markValid := true } } }) ∧
    (s.mon.log.markValid = true → Does .logRewind s (fun t =>
      t = { s with mon := { s.mon with log := { s.mon.log with rseq := s.mon.log.mark } } })) ∧
    (s.mon.log.markValid = false → Does .logRewind s (fun t => t.mon.log.rseq = t.mon.log.oldest ∧ t.mon.log.rewindErr = true ∧
      Raised t 6 ∧ t = { s with mon := t.mon }))

/-- The mailboxes: An accepted GO latches its selector and is busy, a refused one sets ERR with its code and raises EV004;
the end of a write writes one counter, the end of a read shows it; a mailbox busy for 10 µs gives up with code 7. -/
def Obligations.MailboxOperations : Prop :=
  (∀ (s : State) (m : Fin 4), s.coreOn = true → m ≠ 3 →
     let go : Nat → Instr := fun op => if op = 0 then .mbxRead m else if op = 1 then .mbxWrite m else .mbxPop m
     ∀ op < 3,
       (s.goError m op = 0 → Does (go op) s (fun t => (t.mail m).busy = true ∧ (t.mail m).lsel = (s.mail m).sel ∧
         (t.mail m).lop.toNat = op ∧ (t.mail m).valid = false ∧ (t.mail m).empty = false ∧ t = { s with mbx := t.mbx })) ∧
       (s.goError m op ≠ 0 → Does (go op) s (fun t => (t.mail m).err = true ∧ (t.mail m).code.toNat = s.goError m op ∧
         (t.mail m).busy = (s.mail m).busy ∧ Raised t 4 ∧ t = { s with mbx := t.mbx, mon := t.mon }))) ∧
  (∀ (s : State) (m : Fin 4), Inv s → (s.mail 3).waiter = none → (s.mail m).busy = true →
     let x := s.mail m
     let sel := ctrSel (selKind x.lsel) (selInst x.lsel) (selIndex x.lsel)
     (x.lop = 1 → Does (.mbxCaptureDone m) s (fun t => (t.mail m).busy = false ∧
       (ctrVal (ctrGet t.mon sel) = ((x.data.get 0).toNat + 2 ^ 32 * (x.data.get 1).toNat) % 2 ^ 48) ∧
       (∀ k, k ≠ sel → ctrGet t.mon k = ctrGet s.mon k) ∧ t = { s with mbx := t.mbx, mon := t.mon })) ∧
     (x.lop = 0 → selKind x.lsel < 0x10 → x.selWritten = false → Does (.mbxCaptureDone m) s (fun t => (t.mail m).busy = false ∧
       (t.mail m).valid = true ∧ (t.mail m).data.get 0 = (ctrGet s.mon sel).setWidth 32 ∧
       (t.mail m).data.get 1 = ((ctrGet s.mon sel).extractLsb' 32 17).setWidth 32 ∧ t.mon.ctr = s.mon.ctr)) ∧
     (x.started + 10000 ≤ s.fine → Does (.mbxTimeout m) s (fun t => (t.mail m).busy = false ∧ (t.mail m).err = true ∧
       (t.mail m).code = 7 ∧ Raised t 4 ∧ t = { s with mbx := t.mbx, mon := t.mon })))

/-- Opening a session: OPEN gives a challenge; AUTH with the right code opens the session with its keys, with a wrong one
counts a failure and at the fourth locks out; lockouts and idle sessions end in time. -/
def Obligations.SessionsOpen : Prop :=
  ∀ (s : State) (tr : Transport), s.coreOn = true → s.sesWorking = false → s.ses.waiting = [] →
    let x := s.ses.get tr
    (∀ (level : Byte) (nh : BitVec 128), x.lockEnd = none → x.isOpen = false → level.toNat ≤ 3 → s.levelOpen tr level.toNat = true →
      Does (.sesOpen tr level nh) s (fun t => (t.ses.get tr).chal = some (level.setWidth 2, nh, Config.nonce s.freeCtr) ∧
        (t.ses.get tr).isOpen = false ∧ t.freeCtr = s.freeCtr + 1)) ∧
    (∀ (mac : BitVec 256) (level : BitVec 2) (nh nd : BitVec 128), x.chal = some (level, nh, nd) →
      let k := (s.levelKey level.toNat).getD 0
      let want := hmac (keyBytes k) (authBytes 0x31 nd nh level tr s.node)
      (want = leBytes 32 mac.toNat → Does (.sesAuth tr mac) s (fun t => (t.ses.get tr).isOpen = true ∧
        (t.ses.get tr).level = level ∧ (t.ses.get tr).ks = sessionKey k nd nh ∧ (t.ses.get tr).lastSeq = 0 ∧
        (t.ses.get tr).fails = 0 ∧ Raised t 228)) ∧
      (want ≠ leBytes 32 mac.toNat → Does (.sesAuth tr mac) s (fun t => (t.ses.get tr).isOpen = x.isOpen ∧
        (t.ses.get tr).chal = none ∧ Raised t 230 ∧
        (x.fails < 3 → (t.ses.get tr).fails = x.fails + 1) ∧
        (3 ≤ x.fails → (t.ses.get tr).lockEnd = some (s.fine + x.lockPeriod * nsPerS) ∧ Raised t 231)))) ∧
    (∀ e : Nat, x.lockEnd = some e → e ≤ s.fine → Does (.lockoutExpiry tr) s (fun t => (t.ses.get tr).lockEnd = none ∧
      t = { s with ses := t.ses })) ∧
    (x.isOpen = true → x.lastAt + 60000000000 ≤ s.fine → Does (.sessionIdleTimeout tr) s (fun t => (t.ses.get tr).isOpen = false ∧
      Raised t 229 ∧ t = { s with ses := t.ses, flash := t.flash, mon := t.mon }))

/-- Session commands that read: CSR_RD, LOG_RD, CAL_GET and IMG_READ reply with registers, log entries, calendar time and
flash bytes. -/
def Obligations.SessionReads : Prop :=
  ∀ (s : State) (f : Frame),
    (∀ (o : Word) (n : Byte), 1 ≤ n.toNat → n.toNat ≤ 16 → (∀ i < n.toNat, (o.toNat + 4 * i) % 4 = 0 ∧
        csrBlock (o.toNat + 4 * i) ≠ none) → Accepted s f 0x10 (leBytes 4 o.toNat ++ [n]) →
      Does (.csrRd f o n) s (fun t => Replied s t f 0x10
        ((List.range n.toNat).flatMap (fun i => leBytes 4 (s.csrRead (o.toNat + 4 * i)).toNat)))) ∧
    (∀ n : Byte, 1 ≤ n.toNat → n.toNat ≤ 8 → ctrVal (ctrGet s.mon (startCtr 6)) < ctrMax → Accepted s f 0x13 [n] → Does (.logRd f n) s (fun t =>
      Replied s t f 0x13 (State.readLogs n.toNat [] s).1 ∧ t.mon.log.rseq = (State.readLogs n.toNat [] s).2.mon.log.rseq)) ∧
    (Accepted s f 0x14 [] → Does (.calGet f) s (fun t => Replied s t f 0x14 (leBytes 8 (timeWord s.cal.sec s.cal.ns).toNat) ∧
      t.cal = s.cal)) ∧
    (∀ (slot : Byte) (o : Word) (n : Byte), slot.toNat < 2 → 1 ≤ n.toNat → n.toNat ≤ 240 → o.toNat + n.toNat ≤ slotSize →
      Accepted s f 0x32 (slot :: leBytes 4 o.toNat ++ [n]) → Does (.imgRead f slot o n) s (fun t => Replied s t f 0x32
        ((List.range n.toNat).map (fun i => s.flash.byte (slotBase (slotOf slot.toNat) + o.toNat + i))) ∧ t.flash = s.flash))

/-- Session commands that act at once: CLOSE, CSR_WR, MBX, CAL_SET, MODE, FUSE and RESET have their effects and reply. -/
def Obligations.SessionActs : Prop :=
  ∀ (s : State) (f : Frame), Inv s →
    (Accepted s f 0x03 [] → Does (.sesClose f) s (fun t => (t.ses.get f.tr).isOpen = false ∧ Raised t 229)) ∧
    (∀ (o v : Word) (i r : Nat) (row : RegRow), o.toNat % 4 = 0 → csrBlock o.toNat = some (.memory, i, r) →
      regRow o.toNat = some row → s.rb F.IMG_STAT.SAFE = false → f.tr = .i3c → Accepted s f 0x11 (leBytes 4 o.toNat ++ leBytes 4 v.toNat) →
      Does (.csrWr f o v) s (fun t => Replied s t f 0x11 [0] ∧
        t.rg o.toNat = ((s.rg o.toNat &&& ~~~row.rw) ||| (v &&& row.rw)) &&& ~~~(v &&& row.w1c))) ∧
    (∀ (sel d0 d1 : Word) (op : Byte), op.toNat < 2 → (s.mail 3).busy = false → selKind sel < 8 → 0 < selKind sel →
      (∀ n, s.kindInsts (selKind sel) = some n → selInst sel < n) → s.indexOk (selKind sel) (selIndex sel) = true →
      Accepted s f 0x12 (leBytes 4 sel.toNat ++ [op] ++ leBytes 4 d0.toNat ++ leBytes 4 d1.toNat) →
      Does (.mbx f sel op d0 d1) s (fun t => (t.mail 3).busy = true ∧ (t.mail 3).lsel = sel ∧ (t.mail 3).lop = op.setWidth 2 ∧
        (t.mail 3).data.get 0 = d0 ∧ (t.mail 3).data.get 1 = d1 ∧ (t.mail 3).waiter = some (f.tr, f.seq))) ∧
    (∀ v : BitVec 64, Accepted s f 0x15 (leBytes 8 v.toNat) → Does (.calSet f v) s (fun t => Replied s t f 0x15 [] ∧
      t.cal = { s.cal with load := some v })) ∧
    (∀ q : Byte, q.toNat < 3 → s.rb F.IMG_STAT.SAFE = false → f.tr = .i3c → Accepted s f 0x20 [q] → Does (.mode f q) s (fun t =>
      Replied s t f 0x20 [] ∧ t.rf F.GLB_PRM_MODE.REQ_MODE = q.toNat)) ∧
    (∀ (sel : Byte) (v : BitVec 256), sel.toNat < 2 → Accepted s f 0x41 (sel :: leBytes 32 v.toNat) →
      (sel = 0 → s.fuses.pkhSet = false → Does (.fuse f sel v) s (fun t => Replied s t f 0x41 [] ∧
        t.fuses = { s.fuses with pkhSet := true, pkh := v })) ∧
      (sel = 1 → s.fuses.rkeySet = false → Does (.fuse f sel v) s (fun t => Replied s t f 0x41 [] ∧
        t.fuses = { s.fuses with rkeySet := true, rkey := v }))) ∧
    (Accepted s f 0x40 [] → Does (.resetCmd f) s (fun t => t.rf F.IMG_STAT.STAGE = 3 ∧ (t.ses.get f.tr).isOpen = false ∧
      t.flash.bytes = s.flash.bytes ∧ t.coh.ddr = s.coh.ddr ∧ t.cal = s.cal))

/-- Session commands that end later, and the transports: PPR, IMG_ERASE, IMG_WRITE and IMG_CHECK start; erase and write
change exactly their bytes when they end; SES_GO hands a command to the engine or is refused; ENTDAA and ENEC give the I3C
bus its address and its interrupts. -/
def Obligations.SessionWorks : Prop :=
  (∀ (s : State) (f : Frame), Inv s →
     (∀ (m : Byte) (l : Word), m.toNat < 2 → l.toNat * 128 < s.portCap → Accepted s f 0x21 (m :: leBytes 4 l.toNat) →
       Does (.ppr f m l) s (fun t => t.rb (F.MEM_STAT.PPR_BUSY m.toNat) = true ∧
         t.ses.ppr = some (f.tr, f.seq, Fin.ofNat 2 m.toNat) ∧
         t.sent = s.sent ++ [.hppr (Fin.ofNat 2 m.toNat) (s.ddrPlace (Fin.ofNat 2 m.toNat) l.toNat)] ∧
         t = { s with regs := t.regs, ses := t.ses, sent := t.sent })) ∧
     (∀ m : MemNo, s.rb (F.MEM_STAT.PPR_BUSY m) = true → s.ses.ppr = none → Does (.hpprDone m) s (fun t =>
       Raised t 177 ∧ t.rb (F.MEM_STAT.PPR_BUSY m) = false ∧ t.rb (F.MEM_STAT.PPR_DONE m) = true ∧
       t = { s with regs := t.regs, mon := t.mon })) ∧
     ((s.flash.lockBy = none ∨ s.flash.lockBy = some f.tr) →
       (∀ slot : Byte, slot.toNat < 2 → Accepted s f 0x30 [slot] → Does (.imgErase f slot) s (fun t =>
         t.flash = { s.flash with lockBy := some f.tr, op := some (.erase f.tr f.seq (slotOf slot.toNat)) })) ∧
       (∀ (slot : Byte) (o : Word) (l : List Byte), slot.toNat < 2 → 1 ≤ l.length → l.length ≤ 240 → o.toNat + l.length ≤ slotSize →
         Accepted s f 0x31 (slot :: leBytes 4 o.toNat ++ l) → Does (.imgWrite f slot o l) s (fun t =>
           t.flash = { s.flash with lockBy := some f.tr, op := some (.write f.tr f.seq (slotOf slot.toNat) o.toNat l) }))) ∧
     (∀ slot : Byte, slot.toNat < 2 → Accepted s f 0x33 [slot] → Does (.imgCheck f slot) s (fun t =>
       t.flash = { s.flash with op := some (.check f.tr f.seq (slotOf slot.toNat)) })) ∧
     (∀ (tr : Transport) (q : Word) (x : Slot), s.ses.waiting = [] → s.flash.op = some (.erase tr q x) →
       Does .flashOperationDone s (fun t => t.flash.op = none ∧ ∀ a, t.flash.byte a =
         if slotBase x ≤ a ∧ a < slotBase x + slotSize then 0xFF#8 else s.flash.byte a)) ∧
     (∀ (tr : Transport) (q : Word) (x : Slot) (o : Nat) (l : List Byte), s.ses.waiting = [] →
       s.flash.op = some (.write tr q x o l) → Does .flashOperationDone s (fun t => t.flash.op = none ∧ ∀ i (h : i < l.length),
         t.flash.byte (slotBase x + o + i) = s.flash.byte (slotBase x + o + i) &&& l[i])) ∧
     (s.coreOn = true → s.ses.busy = true → s.sesWorking = true → Does .sesGo s (fun t => t.ses = { s.ses with refused := true })) ∧
     (s.coreOn = true → s.ses.busy = false → s.sesWorking = true → Does .sesGo s (fun t => t.ses = { s.ses with
       busy := true, ready := false, waiting := s.ses.waiting ++ [frameOf .inband s.sesBytes] }))) ∧
  (∀ (s : State), s.coreOn = true →
     (∀ a : BitVec 7, Does (.entdaa a) s (fun t => t = { s with ses := { s.ses with i3cAddr := some a } })) ∧
     Does .enec s (fun t => t = { s with ses := { s.ses with ibiEnabled := true } }))

/-- Resets start the boot again: A power-on reset of a device that is off and a pin reset of a running core leave the boot at
the stage that reads slot A, keep memories, flash and the always-on registers, and put every other unit as after reset. -/
def Obligations.ResetsRestart : Prop :=
  ∀ (f : Option FlashInfo) (s : State), Inv s →
    (s.pwr.st = .off → Does (.powerOnReset f) s (Restarted f s)) ∧
    (s.coreOn = true → s.pwr.waitRails = false → s.pwr.railsGood = true → Does (.pinReset f) s (Restarted f s))

/-- Slots of the image: A slot A that fails leaves its cause and slot B is next; a slot B that fails enters safe
configuration with EV225; a slot A that passes gives its key and its MEMINIT to the boot. -/
def Obligations.SlotsAreTried : Prop :=
  ∀ (s : State) (kinds : Vector PortKind 6), Inv s → s.coreOn = true →
    (s.rf F.IMG_STAT.STAGE = 3 → (s.validate .a kinds).2 = none →
      Does (.slotValidated kinds) s (fun t => t.rf F.IMG_STAT.STAGE = 4 ∧
        t.rf F.IMG_STAT.CAUSE_A = (s.validate .a kinds).1 % 16 ∧ t = { s with regs := t.regs, mon := t.mon })) ∧
    (s.rf F.IMG_STAT.STAGE = 4 → (s.validate .b kinds).2 = none →
      Does (.slotValidated kinds) s (fun t => t.rf F.IMG_STAT.STAGE = 9 ∧ t.rb F.IMG_STAT.SAFE = true ∧ Raised t 225)) ∧
    ∀ im, s.rf F.IMG_STAT.STAGE = 3 → (s.validate .a kinds).2 = some im →
      Does (.slotValidated kinds) s (fun t => t.boot.meminit = im.meminit ∧ t.pwr.digest = keyOf im.digest)

/-- Training of the memories, and the end of the boot: A memory that trains is shown as trained, one that fails is tried once
more and then leads to safe configuration with EV176; MEMINIT_DONE empties both memories; RUN is entered when both memories
are trained. -/
def Obligations.MemoryTrainingEnds : Prop :=
  (∀ (s : State) (m : MemNo), Inv s → s.coreOn = true → s.rf F.IMG_STAT.STAGE = 6 → s.pwr.st = .run →
     s.rb (F.MEM_STAT.TRAINED m) = false →
     Does (.ddr5TrainingDone m true) s (fun t => t.rb (F.MEM_STAT.TRAINED m) = true ∧ t = { s with regs := t.regs }) ∧
     Does (.ddr5TrainingDone m false) s (fun t => t.rb (F.MEM_STAT.TFAIL m) = true ∧ Raised t 176 ∧
       (s.boot.tries.get m = 0 → t.boot.tries.get m = 1) ∧ (1 ≤ s.boot.tries.get m → t.rb F.IMG_STAT.SAFE = true))) ∧
  (∀ (s : State), Inv s →
     (s.rf F.IMG_STAT.STAGE = 7 → s.boot.meminit = true → Does .meminitDone s (fun t =>
       t.coh = { s.coh with ddr := Vector.replicate 2 [] } ∧ t.boot.meminit = false ∧ t.rb F.IMG_STAT.MEMINIT = true ∧
         t = { s with coh := t.coh, boot := t.boot, regs := t.regs })) ∧
     (s.coreOn = true → s.pwr.st = .run → s.rb (F.MEM_STAT.TRAINED 0) = true → s.rb (F.MEM_STAT.TRAINED 1) = true →
       s.boot.meminit = false → (s.rf F.IMG_STAT.STAGE = 6 ∨ s.rf F.IMG_STAT.STAGE = 7) →
       Does .runEntered s (fun t => t.rf F.IMG_STAT.STAGE = 8 ∧ t.boot.running = true ∧ t.mon.ev.delivering = true)))

/-- Fabric time: The exchange with the parent sends its request, answers those of children on an ACTIVE link and no other,
and corrects the time by a step or a trim; PPS at the root measures the offset, its loss is reported; PPS_OUT pulses each
second. -/
def Obligations.FabricTime : Prop :=
  (∀ (s : State) (l : LinkNo),
     (s.isRoot = false → 6 ≤ s.rf F.IMG_STAT.STAGE → s.rf F.IMG_STAT.STAGE ≠ 9 → s.fab.lastExch + 1000000 ≤ s.fine →
       s.parentLink = some l → s.linkActive l = true → Clear s (.stile l) →
       Does .timeExchangeTimer s (fun t => t.fab.t1 = some s.fab.t ∧ t.fab.xseq = s.fab.xseq + 1 ∧ t.fab.lastExch = s.fine ∧
         t.sent = s.sent ++ [.ctl (.stile l) (.time (timeBody 0 (s.fab.xseq + 1) s.myStratum 0 0))] ∧
         t = { s with fab := t.fab, links := t.links, mon := t.mon, sent := t.sent })) ∧
     (∀ (body : BitVec 128) (res : Word), s.fab.running = true → bodyKind body = 0 →
       (s.linkActive l = false → Does (.timeRequest l body res) s (fun t => t = s)) ∧
       (Clear s (.stile l) → Does (.timeRequest l body res) s (fun t =>
         t.sent = s.sent ++ [.ctl (.stile l) (.time (timeBody 1 (bodySeq body) s.myStratum s.fab.t res.toNat))] ∧
         t = { s with links := t.links, mon := t.mon, sent := t.sent }))) ∧
     (∀ (body : BitVec 128) (t1 : Nat), s.fab.t1 = some t1 → s.isRoot = false → s.parentLink = some l → s.linkActive l = true → bodyKind body = 1 →
       bodySeq body = s.fab.xseq → s.fab.running = true →
       let theta := exchangeOffset t1 (bodyT2 body) (bodyRes body) s.fab.t
       Does (.timeAnswer l body) s (fun t => t.fab.theta = theta ∧ t.fab.t1 = none ∧ t.fab.holdover = false ∧
         (32000 < theta.natAbs → t.fab.t = (((s.fab.t : Int) + theta) % (fabWrap : Int)).toNat) ∧
         (theta.natAbs ≤ 32000 → t.fab.t = s.fab.t ∧ t.fab.trim = theta * 1000000000 / (32 * 16 * 1000000)) ∧
         t = { s with fab := t.fab, regs := t.regs, mon := t.mon }))) ∧
  (∀ (s : State), Inv s →
     (s.ppsUsed = true → Does .ppsInEdge s (fun t => t.fab.theta = ppsOffset s.fab.t ∧ t.fab.ppsAt = s.fine ∧
       t = { s with fab := t.fab, regs := t.regs, mon := t.mon })) ∧
     (s.ppsUsed = true → s.fab.holdover = false → s.fab.ppsAt + 1500000000 ≤ s.fine → Does .ppsLost s (fun t =>
       t.rb F.TIM_STAT.PPS_LOST = true ∧ t.fab.holdover = true ∧ Raised t 235 ∧
       t = { s with fab := t.fab, regs := t.regs, mon := t.mon })) ∧
     (s.fab.running = true → s.fab.ppsOut = false → s.fab.t % fabSecond < 64 → Does .ppsOutBoundary s (fun t =>
       t.fab.ppsOut = true ∧ t.fab.ppsUntil = s.fine + max 1 (s.rf F.TIM_CFG.PPS_WIDTH) * 1000000 ∧ t = { s with fab := t.fab })))

/-- The calendar: A tick adds INC to the time or takes a loaded value; a trim update sets INC; a stopped crystal holds the
time and raises EV236. -/
def Obligations.CalendarRuns : Prop :=
  ∀ (s : State), Inv s → s.pwr.st ≠ .off →
    (s.cal.load = none → s.cal.alarmed = true → Does .calendarTick s (fun t =>
      (t.cal.sec * 1000000000 + t.cal.ns) * 2 ^ 24 + t.cal.frac =
        ((s.cal.sec * 1000000000 + s.cal.ns) * 2 ^ 24 + s.cal.frac + s.cal.inc) % (2 ^ 34 * 1000000000 * 2 ^ 24) ∧
      t.cal.ns < 1000000000 ∧ t = { s with cal := t.cal })) ∧
    (∀ v : BitVec 64, s.cal.load = some v → s.cal.alarmed = true → Does .calendarTick s (fun t =>
      t.cal.sec = v.toNat / 2 ^ 30 ∧ t.cal.ns = v.toNat % 2 ^ 30 ∧ t.cal.frac = 0 ∧ t.cal.load = none ∧ t = { s with cal := t.cal })) ∧
    (∀ q : Int, Does (.calendarTrimUpdate q) s (fun t => t = { s with cal := { s.cal with inc := incFor s.img.trim s.aging q } })) ∧
    (s.pwr.vin = true → s.cal.stopped = false → s.cal.lastTick + 1000000 ≤ s.fine → Does .crystalFault s (fun t =>
      t.cal.stopped = true ∧ t.cal.sec = s.cal.sec ∧ t.cal.ns = s.cal.ns ∧ t.rb F.RTC_CTL.FAULT = true ∧ Raised t 236 ∧
      t = { s with cal := t.cal, regs := t.regs, mon := t.mon })) ∧
    (s.coreOn = true → Does .rtcLoad s (fun t =>
      t = { s with cal := { s.cal with load := some (s.rg Reg.RTC_SET_HI ++ s.rg Reg.RTC_SET_LO) } }))

/-- REST and FALLOW: REST is entered with both core supplies commanded to 550 mV, left by its causes with the target
commanded, and ends; FALLOW is requested by register and pin, or refused with its cause; each step of its entry completes:
snoops empty the agents, the seed list is written to memory and counted, modified lines go to memory, the wake store is
filled, the core loses its state and the memories are kept; each step of the wake completes, goes on as a boot where the slot
or the digest of its image fails, and ends in RUN with the positions of the Darner. -/
def Obligations.RestAndFallow : Prop :=
  (∀ (s : State), Inv s →
     (Serving s → s.boot.running = true → s.pwr.st = .run → Does .pwrRestWrite s (fun t => t.pwr.st = .restEntry)) ∧
     (s.pwr.st = .restEntry → s.quiet = true → s.coh.press = [] → s.pwr.heldRest = none → Does .restEntered s (fun t =>
       t.pwr.st = .rest ∧ t.rf F.PWR_STAT.STATE = 2 ∧ Raised t 192 ∧ t.pwr.command = #v[550, 550] ∧
       t = { s with pwr := t.pwr, regs := t.regs, mon := t.mon, sent := t.sent })) ∧
     (∀ c : RestCause, s.pwr.st = .rest → s.restEnabled c = true → Does (.restExitCause c) s (fun t =>
       t.pwr.st = .restExit ∧ t.rf F.PWR_STAT.WAKE_SRC = (restCode c).toNat ∧ t.pwr.command.get 0 = vddcTarget s.curMode ∧
       t.pwr.command.get 1 = vddcTarget s.curMode ∧ t = { s with pwr := t.pwr, regs := t.regs, sent := t.sent })) ∧
     (s.pwr.st = .restExit → s.restReady = true → Does .restExitDone s (fun t =>
       t.pwr.st = .run ∧ t.rb F.PWR_CTL.REST = false ∧ Raised t 193 ∧
       t = { s with pwr := t.pwr, regs := t.regs, mon := t.mon, sent := t.sent, ports := t.ports, links := t.links })) ∧
     (s.pwr.st = .rest → s.rb F.PWR_CTL.WAKE_EN = true → Does .wakeNFall s (fun t => t.pwr.st = .restExit))) ∧
  (∀ (s : State), Inv s →
     (∀ src : FallowSrc, Serving s → s.rb F.PWR_CTL.SLP_EN = true →
       (s.fallowCause = 0 → Does (.fallowRequest src) s (fun t => t.pwr.st = .fallowEntry ∧ t.pwr.step = 2 ∧ Raised t 194)) ∧
       (s.fallowCause ≠ 0 → Does (.fallowRequest src) s (fun t => t.pwr = s.pwr ∧ t.rb F.PWR_STAT.REFUSED = true ∧
         t.rf F.PWR_STAT.CAUSE = s.fallowCause))) ∧
     (s.rb F.PWR_CTL.SLP_EN = true → s.coreOn = true → s.fallowCause = 0 → Does (.slpNEdge true) s (fun t =>
       t.pwr.st = .fallowEntry ∧ Raised t 194)) ∧
     (s.rb F.PWR_CTL.SLP_EN = true → s.pwr.st = .fallow → Does (.slpNEdge false) s (fun t =>
       t.pwr.st = .wake ∧ t.rf F.PWR_STAT.WAKE_SRC = 3)) ∧
     (s.pwr.st = .fallowEntry →
       (s.pwr.step = 2 → Does .fallowEntryStep s (fun t => t.pwr.step = 3)) ∧
       (s.pwr.step = 3 → s.quiet = true → s.opsQuiet = true → Does .fallowEntryStep s (fun t => t.pwr.step = 4)) ∧
       (s.pwr.step = 4 → s.quiet = true → s.coh.named = [] → Does .fallowEntryStep s (fun t => t.pwr.step = 5)) ∧
       (s.pwr.step = 4 → Idle s → ∀ k, s.coh.named = [k] → ∀ p : Port, (s.coh.snfAt k).ports = [p] → s.accepts p = true →
         Sound s (snfLine k (s.coh.snfAt k)) → Does .fallowEntryStep s (fun t => t.pwr.step = 4 ∧
           ∃ f ∈ t.coh.flows, f.line = snfLine k (s.coh.snfAt k) ∧ ∃ x ∈ t.coh.snoops, x.flow = f.id ∧ x.port = p ∧ x.opc = opSnpU)) ∧
       (s.pwr.step = 5 → s.seedMax = 0 → Does .fallowEntryStep s (fun t => t.pwr.step = 6 ∧ t = { s with pwr := t.pwr })) ∧
       (s.pwr.step = 5 → s.seedMax ≠ 0 → Idle s → Does .fallowEntryStep s (fun t => t.pwr.step = 6 ∧
         t.rf F.PWR_SEED_STAT.SEED_COUNT = s.seedList.length ∧ t.rb F.PWR_SEED_STAT.SEED_VALID = true ∧ Raised t 196 ∧
         t.coh.ddr = ((s.seedLines s.seedList).foldl (fun c x => c.writeMem x.1 x.2) s.coh).ddr ∧ t.coh.tags = s.coh.tags)) ∧
       (s.pwr.step = 6 → Idle s → Does .fallowEntryStep s (fun t => t.pwr.step = 7 ∧ (∀ k, isMod (t.coh.tag k).st = false) ∧
         t.coh.hamper = [] ∧ t.coh.press = [] ∧
         (s.coh.hamper = [] → s.coh.press = [] → ∀ x : Nat × TagEntry, s.coh.tags.filter (fun y => isMod y.2.st) = [x] →
           let l := s.coh.slotLineAddr s x.1
           t.coh.rawMem (memOf l) (memIndex l) = (s.coh.readSlot s x.1).1))) ∧
       (s.pwr.step = 7 → Does .fallowEntryStep s (fun t => t.pwr.step = 8 ∧ t.pwr.wakeStore = some
         { digest := s.pwr.digest, pos := s.dar.pos, memPos := s.dar.memPos, seedCount := s.rf F.PWR_SEED_STAT.SEED_COUNT,
           seedValid := s.rb F.PWR_SEED_STAT.SEED_VALID, slotB := s.rb F.IMG_STAT.SLOT, kinds := s.img.kinds }))) ∧
     (s.pwr.st = .fallowEntry → s.pwr.step = 8 → s.pwr.vin = true → Does .fallowEntered s (fun t =>
       t.pwr.st = (if s.pwr.heldWake.isSome then .wake else .fallow) ∧ t.coh.ddr = s.coh.ddr ∧ t.coh.tags = [] ∧
       t.coh.sram = Vector.replicate 8 [] ∧ t.pwr.wakeStore = s.pwr.wakeStore ∧ t.cal = s.cal)) ∧
     (s.pwr.st = .fallow → s.rb F.PWR_CTL.WAKE_EN = true → Does .wakeNFall s (fun t =>
       t.pwr.st = .wake ∧ t.pwr.step = 3 ∧ t.rf F.PWR_STAT.WAKE_SRC = 1)) ∧
     (∀ w : WakeStore, s.pwr.st = .wake → s.pwr.wakeStore = some w →
       let boots : State → Prop := fun t => t.pwr.st = .run ∧ t.rf F.IMG_STAT.STAGE = 3 ∧ t.pwr.wakeStore = none ∧
         t.rb F.PWR_SEED_STAT.SEED_VALID = false ∧ t.coh.ddr = s.coh.ddr
       (s.pwr.step = 3 → s.pwr.railsGood = true → Does .wakeStep s (fun t => t.pwr.step = 4 ∧ t = { s with pwr := t.pwr })) ∧
       (s.pwr.step = 4 → w.seedCount < 2 ^ 17 → Does .wakeStep s (fun t => t.pwr.step = 5 ∧
         t.rf F.PWR_SEED_STAT.SEED_COUNT = w.seedCount ∧ t.rb F.PWR_SEED_STAT.SEED_VALID = w.seedValid ∧ t.coh = s.coh)) ∧
       (s.pwr.step = 5 → ((s.wakeBytes w).isSome = true → Does .wakeStep s (fun t => t.pwr.step = 6 ∧ t = { s with pwr := t.pwr })) ∧
         (s.wakeBytes w = none → Does .wakeStep s boots)) ∧
       (s.pwr.step = 6 → ∀ im : Image, (s.wakeBytes w).bind parseImage = some im →
         (keyOf (sha256 im.body) = w.digest → Does .wakeStep s (fun t => t.pwr.step = 7 ∧ t.img.kinds = w.kinds ∧
           t.boot.meminit = false ∧ t.coh.ddr = s.coh.ddr)) ∧
         (keyOf (sha256 im.body) ≠ w.digest → Does .wakeStep s boots)) ∧
       (s.pwr.step = 6 → (s.wakeBytes w).bind parseImage = none → Does .wakeStep s boots) ∧
       (s.pwr.step = 7 → Does .wakeStep s (fun t => t.pwr.step = 8 ∧ t.rb (F.MEM_STAT.TRAINED 0) = true ∧
         t.rb (F.MEM_STAT.TRAINED 1) = true ∧ t.coh = s.coh)) ∧
       (s.pwr.step = 8 → Does .wakeComplete s (fun t => t.pwr.st = .run ∧ t.dar.pos = w.pos ∧ t.dar.memPos = w.memPos ∧
         t.boot.running = true ∧ t.rf F.IMG_STAT.STAGE = 8 ∧ Raised t 195 ∧ t.coh.ddr = s.coh.ddr))))

/-- Resowing: A word of the seed list that gives no read moves to the next; the end of the list ends resowing with EV197;
clearing its enable drops what is not under way. -/
def Obligations.Resowing : Prop :=
  ∀ (s : State), Inv s →
    (s.rb F.PWR_SEED_STAT.RESOWING = true → s.pwr.st = .run → s.pwr.resowNext < s.rf F.PWR_SEED_STAT.SEED_COUNT →
      let f := s.seedFetch s.pwr.resowNext
      let w := lineWord f.1 (s.pwr.resowNext % 16)
      (wordMark w = true ∨ s.seedOk (wordData w) = false ∨ ∃ c ∈ s.prm.resow,
        c.ch.toNat = (s.chanOfLine (BitVec.ofNat 45 ((wordData w).toNat % 2 ^ 36))).val) →
      Does .resowReadIssue s (fun t => t.pwr.resowNext = s.pwr.resowNext + 1)) ∧
    (s.rb F.PWR_SEED_STAT.RESOWING = true → s.rf F.PWR_SEED_STAT.SEED_COUNT ≤ s.pwr.resowNext → s.pwr.resowOut = 0 →
      Does .resowingDone s (fun t => t.rb F.PWR_SEED_STAT.RESOWING = false ∧ t.rb F.PWR_SEED_STAT.SEED_VALID = false ∧
        t.rb F.PWR_SEED_STAT.DONE = true ∧ Raised t 197 ∧ t.prm.resow = [] ∧
        t = { s with regs := t.regs, mon := t.mon, prm := t.prm })) ∧
    (∀ v : Word, Serving s → s.rb F.PWR_SEED_STAT.RESOWING = true → v.getLsbD 12 = false →
      Does (.pwrSeedCfgWrite v) s (fun t => t.rb F.PWR_SEED_STAT.RESOWING = false ∧ t.rb F.PWR_SEED_STAT.SEED_VALID = false ∧
        t.prm.resow = [] ∧ t.pwr.resowOut = s.pwr.resowOut))

/-- Supplies: VIN, VBAK and main rails that fall and return lose and keep what the power states say. -/
def Obligations.SuppliesFailAndReturn : Prop :=
  ∀ (s : State), Inv s →
    (s.pwr.vin = true → s.rb F.PWR_STAT.VIN_LOW = false → Does (.vinFall .below55) s (fun t =>
      t.rb F.PWR_STAT.VIN_LOW = true ∧ Raised t 198 ∧ t = { s with regs := t.regs, mon := t.mon })) ∧
    (s.pwr.vin = true → s.pwr.vbak = true → s.pwr.st = .fallow → Does (.vinFall .below50) s (fun t =>
      t.pwr.st = .keep ∧ t.pwr.vin = false ∧ t.cal = s.cal ∧ t.coh.ddr = Vector.replicate 2 [] ∧ t.pwr.wakeStore = none)) ∧
    (s.pwr.vin = true → s.pwr.vbak = false → Does (.vinFall .below50) s (fun t =>
      t.pwr.st = .off ∧ t.regs = [] ∧ t.mon = {} ∧ t.cal = {} ∧ t.flash.bytes = s.flash.bytes)) ∧
    (∀ f : Option FlashInfo, s.pwr.st = .keep ∨ s.pwr.st = .off → Does (.vinRise f) s (fun t =>
      t.rf F.IMG_STAT.STAGE = 3 ∧ t.pwr.vin = true ∧ t.pwr.st = .run ∧ t.flash.info = f ∧ t.cal = s.cal)) ∧
    (s.pwr.vbak = true → Does .vbakLow s (fun t => t.rb F.PWR_STAT.VBAK_LOW = true ∧ Raised t 200 ∧
      t = { s with regs := t.regs, mon := t.mon })) ∧
    (s.pwr.st = .off → s.pwr.vin = false → Does .vbakPresent s (fun t => t.pwr.st = .keep ∧ t.pwr.vbak = true ∧ t.cal = s.cal ∧
      t.mon = s.mon)) ∧
    (s.pwr.vin = false → Does .vbakLost s (fun t => t.pwr.st = .off ∧ t.cal = {} ∧ t.mon = {} ∧ t.regs = [])) ∧
    (s.pwr.waitRails = true → Does .mainRailsGood s (fun t => t.rf F.IMG_STAT.STAGE = 3 ∧ t.pwr.waitRails = false ∧
      t.coh.ddr = s.coh.ddr)) ∧
    (∀ r : Rail, s.coreOn = true → s.pwr.waitRails = false → Does (.mainRailLost r) s (fun t => t.pwr.waitRails = true ∧
      t.coh.ddr = s.coh.ddr ∧ t.coh.sram = Vector.replicate 8 [] ∧ t.coh.tags = [] ∧ t.cal = s.cal))

/-- Temperature limits and the adaptive core voltage: Readings set throttling, critical and trip; a trip turns the rails off
and recovery starts the boot; an update moves each uplift as its rule says, and a failed poll is reported. -/
def Obligations.TemperatureAndVoltage : Prop :=
  (∀ (s : State), Inv s →
     (∀ tW tE : Int, s.coreOn = true → 540 ≤ max tW tE → Does (.thermalReading tW tE) s (fun t => t.pwr.st = .trip ∧ t.mainEn = false ∧
       t.memEn = false)) ∧
     (∀ tW tE : Int, s.coreOn = true → max tW tE < 540 → Does (.thermalReading tW tE) s (fun t =>
       t.rf F.PWR_THERM_STAT.TEMP_W = (tempWord tW).toNat ∧ t.rf F.PWR_THERM_STAT.TEMP_E = (tempWord tE).toNat ∧
       (s.limitOf F.PWR_THERM_CFG.THROT ≤ max tW tE → t.rb F.PWR_THERM_STAT.THROTTLING = true) ∧
       (s.limitOf F.PWR_THERM_CFG.CRIT ≤ max tW tE → t.rb F.PWR_THERM_STAT.CRITICAL = true) ∧
       t = { s with regs := t.regs, mon := t.mon, pwr := t.pwr })) ∧
     (∀ since : Nat, s.pwr.throttleSince = some since → since + 1000000 ≤ s.fine → Does .throttleRelease s (fun t =>
       t.rb F.PWR_THERM_STAT.THROTTLING = false ∧ t.rb F.PWR_THERM_STAT.CRITICAL = false ∧ t = { s with regs := t.regs })) ∧
     (s.coreOn = true → Does .thermalTrip s (fun t => t.pwr.st = .trip ∧ t.mainEn = false ∧ t.memEn = false ∧
       t.coh.ddr = Vector.replicate 2 [] ∧ t.coh.sram = Vector.replicate 8 [] ∧ t.cal = s.cal)) ∧
     (∀ f : Option FlashInfo, s.pwr.st = .trip → Does (.tripRecovery f) s (fun t => t.rf F.IMG_STAT.STAGE = 3 ∧
       t.rb F.PWR_STAT.TRIP = true ∧ t.pwr.st = .run ∧ t.mainEn = true))) ∧
  (∀ (s : State) (fw tw fe te vw ve : Nat), Inv s → s.coreOn = true →
     (s.adapting = true → s.throttling = false → s.curMode ≠ 1 →
       Does (.adaptiveVddcUpdate fw tw fe te vw ve { failed := false, statusW := 0, statusE := 0 }) s (fun t =>
         t.pwr.uplift.get 0 = nextUplift (s.rf F.PWR_VDDC_CFG.UP_PCT) (s.rf F.PWR_VDDC_CFG.DN_PCT) (s.pwr.uplift.get 0) fw tw ∧
         t.pwr.uplift.get 1 = nextUplift (s.rf F.PWR_VDDC_CFG.UP_PCT) (s.rf F.PWR_VDDC_CFG.DN_PCT) (s.pwr.uplift.get 1) fe te ∧
         t.prm.vmon = #v[vw, ve] ∧ t.regs = s.regs)) ∧
     (s.adapting = true → Does (.adaptiveVddcUpdate fw tw fe te vw ve { failed := true, statusW := 0, statusE := 0 }) s (fun t =>
       t.rb F.PWR_PMB_STAT.FAIL = true ∧ Raised t 205)) ∧
     (∀ v : Word, Does (.pmbStatWrite v) s (fun t => t.rg Reg.PWR_PMB_STAT = s.rg Reg.PWR_PMB_STAT &&& ~~~(v &&& 3#32) ∧
       OnlyRegs [Reg.PWR_PMB_STAT] s t)))
end

