-- ==== Sys2Proof/Laws/Sparse.lean ====
section
/-! SUPPORT. Sparse stores: the canonical form is kept by every write, and a read gives what was last written. -/

namespace Sys2Proof.Machine
open Sys2Proof

variable {α : Type}

theorem Sparse.sortedFrom_mono {lo lo' : Nat} (h : lo ≤ lo') :
    ∀ {m : List (Nat × α)}, Sparse.sortedFrom lo' m = true → Sparse.sortedFrom lo m = true
  | [], _ => rfl
  | (j, x) :: t, hs => by
    simp only [Sparse.sortedFrom, Bool.and_eq_true, decide_eq_true_eq] at hs ⊢
    exact ⟨h.trans hs.1, hs.2⟩

/-- Keys of a sorted store are at least its lower bound. -/
theorem Sparse.le_of_mem {lo : Nat} {m : List (Nat × α)} (hs : Sparse.sortedFrom lo m = true) :
    ∀ e ∈ m, lo ≤ e.1 := by
  induction m generalizing lo with
  | nil => simp
  | cons a t ih =>
    obtain ⟨j, x⟩ := a
    simp only [Sparse.sortedFrom, Bool.and_eq_true, decide_eq_true_eq] at hs
    intro e he
    rcases List.mem_cons.mp he with rfl | he
    · exact hs.1
    · exact hs.1.trans ((Nat.le_succ j).trans (ih hs.2 e he))

theorem Sparse.insert_sorted {lo k : Nat} (v : α) (hk : lo ≤ k) :
    ∀ {m : List (Nat × α)}, Sparse.sortedFrom lo m = true → Sparse.sortedFrom lo (Sparse.insert m k v) = true
  | [], _ => by simp [Sparse.insert, Sparse.sortedFrom, hk]
  | (j, x) :: t, hs => by
    simp only [Sparse.sortedFrom, Bool.and_eq_true, decide_eq_true_eq] at hs
    unfold Sparse.insert
    split
    · next h => simp only [Sparse.sortedFrom, Bool.and_eq_true, decide_eq_true_eq]; exact ⟨hk, h, hs.2⟩
    · split
      · next h => subst h; simp only [Sparse.sortedFrom, Bool.and_eq_true, decide_eq_true_eq]; exact ⟨hk, hs.2⟩
      · next h1 h2 =>
        simp only [Sparse.sortedFrom, Bool.and_eq_true, decide_eq_true_eq]
        exact ⟨hs.1, Sparse.insert_sorted v (by omega) hs.2⟩

theorem Sparse.erase_sorted {lo k : Nat} :
    ∀ {m : List (Nat × α)}, Sparse.sortedFrom lo m = true → Sparse.sortedFrom lo (Sparse.erase m k) = true
  | [], _ => rfl
  | (j, x) :: t, hs => by
    simp only [Sparse.sortedFrom, Bool.and_eq_true, decide_eq_true_eq] at hs
    unfold Sparse.erase
    split
    · exact Sparse.sortedFrom_mono (hs.1.trans (Nat.le_succ j)) hs.2
    · simp only [Sparse.sortedFrom, Bool.and_eq_true, decide_eq_true_eq]; exact ⟨hs.1, Sparse.erase_sorted hs.2⟩

theorem Sparse.mem_insert {m : List (Nat × α)} {k : Nat} {v : α} {e : Nat × α} (h : e ∈ Sparse.insert m k v) :
    e = (k, v) ∨ e ∈ m := by
  induction m with
  | nil => exact .inl (by simpa [Sparse.insert] using h)
  | cons a t ih =>
    obtain ⟨j, x⟩ := a
    unfold Sparse.insert at h
    split at h
    · rcases List.mem_cons.mp h with h | h
      · exact .inl h
      · exact .inr h
    · split at h
      · rcases List.mem_cons.mp h with h | h
        · exact .inl h
        · exact .inr (List.mem_cons_of_mem _ h)
      · rcases List.mem_cons.mp h with h | h
        · exact .inr (h ▸ List.mem_cons_self)
        · exact (ih h).imp id (List.mem_cons_of_mem _)

theorem Sparse.mem_erase {m : List (Nat × α)} {k : Nat} {e : Nat × α} (h : e ∈ Sparse.erase m k) : e ∈ m := by
  induction m with
  | nil => simp [Sparse.erase] at h
  | cons a t ih =>
    obtain ⟨j, x⟩ := a
    unfold Sparse.erase at h
    split at h
    · exact List.mem_cons_of_mem _ h
    · rcases List.mem_cons.mp h with h | h
      · exact h ▸ List.mem_cons_self
      · exact List.mem_cons_of_mem _ (ih h)

theorem Sparse.wf_iff [DecidableEq α] {d : Nat → α} {m : List (Nat × α)} :
    Sparse.wf d m = true ↔ Sparse.sortedFrom 0 m = true ∧ ∀ e ∈ m, e.2 ≠ d e.1 := by
  simp [Sparse.wf, List.all_eq_true]

/-- A write keeps the canonical form. -/
theorem Sparse.set_wf [DecidableEq α] {d : Nat → α} {m : List (Nat × α)} (k : Nat) (v : α) (h : Sparse.wf d m = true) :
    Sparse.wf d (Sparse.set d m k v) = true := by
  rw [Sparse.wf_iff] at h ⊢
  unfold Sparse.set
  split
  · exact ⟨Sparse.erase_sorted h.1, fun e he => h.2 e (Sparse.mem_erase he)⟩
  · next hv =>
    refine ⟨Sparse.insert_sorted v (Nat.zero_le k) h.1, fun e he => ?_⟩
    rcases Sparse.mem_insert he with rfl | he
    · exact hv
    · exact h.2 e he

theorem Sparse.filter_sorted (p : Nat × α → Bool) :
    ∀ {lo : Nat} {m : List (Nat × α)}, Sparse.sortedFrom lo m = true → Sparse.sortedFrom lo (m.filter p) = true
  | _, [], _ => rfl
  | lo, (j, x) :: t, hs => by
    simp only [Sparse.sortedFrom, Bool.and_eq_true, decide_eq_true_eq] at hs
    rw [List.filter_cons]
    split
    · simp only [Sparse.sortedFrom, Bool.and_eq_true, decide_eq_true_eq]; exact ⟨hs.1, Sparse.filter_sorted p hs.2⟩
    · exact Sparse.sortedFrom_mono (hs.1.trans (Nat.le_succ j)) (Sparse.filter_sorted p hs.2)

/-- Dropping entries keeps the canonical form. -/
theorem Sparse.filter_wf [DecidableEq α] {d : Nat → α} {m : List (Nat × α)} (p : Nat × α → Bool) (h : Sparse.wf d m = true) :
    Sparse.wf d (m.filter p) = true := by
  rw [Sparse.wf_iff] at h ⊢
  exact ⟨Sparse.filter_sorted p h.1, fun e he => h.2 e (List.mem_of_mem_filter he)⟩

/-- A read of an unlisted key gives the default. -/
theorem Sparse.get_of_not_mem {d : Nat → α} {k : Nat} :
    ∀ {m : List (Nat × α)}, (∀ e ∈ m, e.1 ≠ k) → Sparse.get d m k = d k
  | [], _ => rfl
  | (j, x) :: t, h => by
    unfold Sparse.get
    rw [if_neg (h _ List.mem_cons_self)]
    exact Sparse.get_of_not_mem (fun e he => h e (List.mem_cons_of_mem _ he))

theorem Sparse.get_insert {d : Nat → α} (m : List (Nat × α)) (k j : Nat) (v : α) :
    Sparse.get d (Sparse.insert m k v) j = if k = j then v else Sparse.get d m j := by
  induction m with
  | nil => simp [Sparse.insert, Sparse.get]
  | cons a t ih =>
    obtain ⟨i, x⟩ := a
    unfold Sparse.insert
    split
    · rfl
    · split
      · next h => subst h; by_cases hj : k = j <;> simp [Sparse.get, hj]
      · next h =>
        simp only [Sparse.get, ih]
        by_cases hi : i = j
        · subst hi; simp [h]
        · simp [hi]

theorem Sparse.get_erase {d : Nat → α} {lo : Nat} (m : List (Nat × α)) (k j : Nat) (hs : Sparse.sortedFrom lo m = true) :
    Sparse.get d (Sparse.erase m k) j = if k = j then d j else Sparse.get d m j := by
  induction m generalizing lo with
  | nil => simp [Sparse.erase, Sparse.get]
  | cons a t ih =>
    obtain ⟨i, x⟩ := a
    simp only [Sparse.sortedFrom, Bool.and_eq_true, decide_eq_true_eq] at hs
    unfold Sparse.erase
    split
    · next h =>
      subst h
      by_cases hj : i = j
      · subst hj
        rw [if_pos rfl]
        exact Sparse.get_of_not_mem (fun e he hk => by have := Sparse.le_of_mem hs.2 e he; omega)
      · simp [Sparse.get, hj]
    · next h =>
      simp only [Sparse.get, ih hs.2]
      by_cases hi : i = j
      · subst hi; simp [Ne.symm h]
      · simp [hi]

/-- A read after a write: the value at the key written, and what stood there at any other. -/
theorem Sparse.get_set [DecidableEq α] {d : Nat → α} {m : List (Nat × α)} (k j : Nat) (v : α) (h : Sparse.wf d m = true) :
    Sparse.get d (Sparse.set d m k v) j = if k = j then v else Sparse.get d m j := by
  unfold Sparse.set
  split
  · next hv =>
    rw [Sparse.get_erase m k j (Sparse.wf_iff.mp h).1]
    by_cases hk : k = j
    · subst hk; simp [hv]
    · simp [hk]
  · exact Sparse.get_insert m k j v

theorem Sparse.get_filter {d : Nat → α} (p : Nat → Bool) (k : Nat) :
    ∀ {lo : Nat} {m : List (Nat × α)}, Sparse.sortedFrom lo m = true →
      Sparse.get d (m.filter (fun x => p x.1)) k = if p k then Sparse.get d m k else d k
  | _, [], _ => by simp [Sparse.get]
  | lo, (j, x) :: t, hs => by
    simp only [Sparse.sortedFrom, Bool.and_eq_true] at hs
    have ih := Sparse.get_filter (d := d) p k hs.2
    by_cases hp : p j = true
    · rw [List.filter_cons_of_pos (by simpa using hp)]
      simp only [Sparse.get]
      by_cases hj : j = k
      · subst hj; simp [hp]
      · simp [hj, ih]
    · rw [List.filter_cons_of_neg (by simpa using hp), ih]
      by_cases hj : j = k
      · subst hj; simp [hp]
      · simp [Sparse.get, hj]

end Sys2Proof.Machine
end

