-- ==== Sys2Proof/Laws/Keep.lean ====
section
/-! SUPPORT. What every operation keeps: the queue of commands, fine time, the records already sent, and the canonical
form of every sparse store. -/

namespace Sys2Proof.Machine
open Sys2Proof

/-- What is kept: canonical stores if `p` holds, the waiting commands, fine time, the records sent so far, and the
fuses: a fuse set that is programmed never changes again (R418). -/
structure Kept where
  p : Prop
  q : List Instr
  n : Nat
  l : List Sent
  f : Fuses

/-- The stores of the coherence engine are canonical. -/
structure CohWf (c : Coh) : Prop where
  tags : Sparse.wf (fun _ => tagFree) c.tags = true
  pp : Sparse.wf (fun _ => 0) c.pp = true
  snf : Sparse.wf (fun _ => snfFree) c.snf = true
  dir : Sparse.wf (fun _ => dirFree) c.dir = true
  ddr : ∀ m, Memory.wf (c.ddr.get m) = true
  sram : ∀ m, Memory.wf (c.sram.get m) = true

structure CohOk (p : Prop) (c : Coh) : Prop where
  wf : p → CohWf c
structure MonOk (p : Prop) (m : Monitor) : Prop where
  wf : p → Sparse.wf (fun _ => 0) m.ctr = true ∧ Sparse.wf routeDefault m.ev.routes = true
structure FlashOk (p : Prop) (f : Flash) : Prop where
  wf : p → Sparse.wf (fun _ => 0xFF#8) f.bytes = true

/-- `g` holds the ordering code of `f`, and every fuse set that `f` has programmed, unchanged. -/
structure FusesKept (f g : Fuses) : Prop where
  variant : g.variantS = f.variantS
  pkh : f.pkhSet = true → g.pkhSet = true ∧ g.pkh = f.pkh
  rkey : f.rkeySet = true → g.rkeySet = true ∧ g.rkey = f.rkey

structure Ok (k : Kept) (s : State) : Prop where
  pending : s.pending = k.q
  fine : s.fine = k.n
  sent : k.l <+: s.sent
  regs : k.p → Sparse.wf regReset s.regs = true
  coh : CohOk k.p s.coh
  mon : MonOk k.p s.mon
  flash : FlashOk k.p s.flash
  fuses : FusesKept k.f s.fuses

/-- A command completes, and its next state keeps all that the state kept. -/
def Keeps (o : Host.Outcome State Fault Refusal) (s : State) : Prop := ∃ t, o = .next t ∧ ∀ k, Ok k s → Ok k t

theorem Keeps.next {s t : State} (h : ∀ k, Ok k s → Ok k t) : Keeps (.next t) s := ⟨t, rfl, h⟩

/-- A property of what an option holds. -/
def OptOk {α : Type} (P : α → Prop) : Option α → Prop
  | some x => P x
  | none => True

theorem OptOk.some {α : Type} {P : α → Prop} {x : α} (h : P x) : OptOk P (some x) := h
theorem OptOk.none {α : Type} {P : α → Prop} : OptOk P none := trivial

theorem OptOk.elim {α : Type} {P : α → Prop} {o : Option α} {x : α} (h : OptOk P o) (e : o = Option.some x) : P x := by
  subst e; exact h

theorem OptOk.getD {α : Type} {P : α → Prop} {o : Option α} {x : α} (h : OptOk P o) (hx : P x) : P (o.getD x) := by
  cases o
  · exact hx
  · exact h

theorem CohOk.of_mk {p : Prop} {c : Coh}
    {tags pp snf dir ddr sram a7 a8 a9 b0 b1 b2 b3 b4 b5 b6 b7 b8 b9 c0 c1 c2 c3 c4 c5 c6 c7 c8 c9 d0 d1 d2 d3 d4}
    (h : CohOk p c) (h1 : tags = c.tags) (h2 : pp = c.pp) (h3 : snf = c.snf) (h4 : dir = c.dir)
    (h5 : ddr = c.ddr) (h6 : sram = c.sram) :
    CohOk p (Coh.mk tags pp snf dir ddr sram a7 a8 a9 b0 b1 b2 b3 b4 b5 b6 b7 b8 b9 c0 c1 c2 c3 c4 c5 c6 c7 c8 c9 d0 d1 d2 d3 d4) := by
  subst_vars; exact ⟨fun hp => ⟨(h.wf hp).1, (h.wf hp).2, (h.wf hp).3, (h.wf hp).4, (h.wf hp).5, (h.wf hp).6⟩⟩

/-- A fact is shown of a value before it is used. -/
theorem cut {Q P : Prop} (h : Q) (j : Q → P) : P := j h

theorem foldl_keeps {α β : Type} {Q : β → Prop} {f : β → α → β} {l : List α} {x : β} (h : Q x)
    (hf : ∀ x a, Q x → Q (f x a)) : Q (l.foldl f x) := by
  induction l generalizing x with
  | nil => exact h
  | cons a t ih => exact ih (hf _ _ h)

theorem vget_vmod {α : Type} {n : Nat} (v : Vector α n) (i j : Fin n) (f : α → α) :
    (vmod v i f).get j = if i = j then f (v.get i) else v.get j := by
  show (v.set i.1 (f v[i.1]) i.2)[j.1] = if i = j then f v[i.1] else v[j.1]
  rw [Vector.getElem_set]
  simp [Fin.ext_iff]

theorem vmod_all {α : Type} {n : Nat} {P : α → Prop} {v : Vector α n} (h : ∀ i, P (v.get i)) (i : Fin n) {f : α → α}
    (hf : P (v.get i) → P (f (v.get i))) : ∀ j, P ((vmod v i f).get j) := by
  intro j
  rw [vget_vmod]
  split
  · exact hf (h i)
  · exact h j

/-- Writing a line keeps the canonical form. -/
theorem putLine_wf {m : List (Nat × Codeword)} (h : Memory.wf m = true) (i : Nat) (cl : CodeLine) :
    Memory.wf (putLine m i cl) = true :=
  foldl_keeps (Q := fun m => Memory.wf m = true) h (fun _ _ hx => Sparse.set_wf _ _ hx)

theorem empty_ddr : ∀ m, Memory.wf ((Vector.replicate 2 ([] : List (Nat × Codeword))).get m) = true := by decide
theorem empty_sram : ∀ m, Memory.wf ((Vector.replicate 8 ([] : List (Nat × Codeword))).get m) = true := by decide

section
variable {p : Prop} {c : Coh} (hc : CohOk p c)
include hc

theorem CohOk.setTags (k : Nat) (t : TagEntry) : CohOk p { c with tags := Sparse.set (fun _ => tagFree) c.tags k t } :=
  ⟨fun hp => ⟨Sparse.set_wf _ _ (hc.wf hp).1, (hc.wf hp).2, (hc.wf hp).3, (hc.wf hp).4, (hc.wf hp).5, (hc.wf hp).6⟩⟩

theorem CohOk.setPp (k : Nat) (t : BitVec 16) : CohOk p { c with pp := Sparse.set (fun _ => 0) c.pp k t } :=
  ⟨fun hp => ⟨(hc.wf hp).1, Sparse.set_wf _ _ (hc.wf hp).2, (hc.wf hp).3, (hc.wf hp).4, (hc.wf hp).5, (hc.wf hp).6⟩⟩

theorem CohOk.setSnf (k : Nat) (t : SnfEntry) : CohOk p { c with snf := Sparse.set (fun _ => snfFree) c.snf k t } :=
  ⟨fun hp => ⟨(hc.wf hp).1, (hc.wf hp).2, Sparse.set_wf _ _ (hc.wf hp).3, (hc.wf hp).4, (hc.wf hp).5, (hc.wf hp).6⟩⟩

theorem CohOk.setDir (k : Nat) (t : DirEntry) : CohOk p { c with dir := Sparse.set (fun _ => dirFree) c.dir k t } :=
  ⟨fun hp => ⟨(hc.wf hp).1, (hc.wf hp).2, (hc.wf hp).3, Sparse.set_wf _ _ (hc.wf hp).4, (hc.wf hp).5, (hc.wf hp).6⟩⟩

theorem CohOk.setDdr (i : MemNo) (n : Nat) (cl : CodeLine) (q : Vector (List PendRead) 2) : CohOk p { c with ddr := vmod c.ddr i (fun m => putLine m n cl), memQ := q } :=
  ⟨fun hp => ⟨(hc.wf hp).1, (hc.wf hp).2, (hc.wf hp).3, (hc.wf hp).4, vmod_all (P := fun m => Memory.wf m = true) (hc.wf hp).5 _ (fun h => putLine_wf h _ _), (hc.wf hp).6⟩⟩

theorem CohOk.setSram (i : ChanNo) (n : Nat) (cl : CodeLine) (q : Vector (List PendRead) 8) : CohOk p { c with sram := vmod c.sram i (fun m => putLine m n cl), cmiQ := q } :=
  ⟨fun hp => ⟨(hc.wf hp).1, (hc.wf hp).2, (hc.wf hp).3, (hc.wf hp).4, (hc.wf hp).5, vmod_all (P := fun m => Memory.wf m = true) (hc.wf hp).6 _ (fun h => putLine_wf h _ _)⟩⟩

end

theorem MonOk.of_mk {p : Prop} {m : Monitor} {ev log ctr seen} (h : MonOk p m) (h1 : ctr = m.ctr)
    (h2 : ev.routes = m.ev.routes) : MonOk p (Monitor.mk ev log ctr seen) := by
  subst h1; exact ⟨fun hp => ⟨(h.wf hp).1, h2 ▸ (h.wf hp).2⟩⟩

theorem FlashOk.of_mk {p : Prop} {f : Flash} {bytes a b c} (h : FlashOk p f) (h1 : bytes = f.bytes) :
    FlashOk p (Flash.mk bytes a b c) := by subst h1; exact ⟨h.wf⟩

theorem Ok.of_mk {k : Kept} {t : State} {pending fuses regs img boot flash mon mbx fine prm ports links hdl coh mnt drains
    dar accU accV accAt decayAt deadNodes deadWalks ses cal fab pwr sent freeCtr} (h : Ok k t)
    (h1 : pending = t.pending) (h2 : fine = t.fine) (h3 : sent = t.sent) (h4 : regs = t.regs) (h8 : fuses = t.fuses)
    (h5 : CohOk k.p coh) (h6 : MonOk k.p mon) (h7 : FlashOk k.p flash) :
    Ok k (State.mk pending fuses regs img boot flash mon mbx fine prm ports links hdl coh mnt drains
      dar accU accV accAt decayAt deadNodes deadWalks ses cal fab pwr sent freeCtr) := by
  subst h1 h2 h3 h4 h8; exact ⟨h.pending, h.fine, h.sent, h.regs, h5, h6, h7, h.fuses⟩

end Sys2Proof.Machine
end

