-- ==== Sys2Proof/Laws/KeepFlags.lean ====
section
/-! SUPPORT. What the operations of Machine/Flags.lean keep (Laws/Keep.lean says what is kept). -/

set_option linter.all false

namespace Sys2Proof.Machine
open Sys2Proof

variable {p : Prop} {k : Kept}

theorem Events.settle_routes (e : Events) : (Events.settle e).routes = e.routes := by
  unfold Events.settle; split <;> rfl

theorem Monitor.raise_ok {m : Monitor} (hm : MonOk p m) (a2 a3 a4 a5) : MonOk p (Monitor.raise m a2 a3 a4 a5).1 := by
  refine ⟨fun hp => ⟨?_, ?_⟩⟩
  · unfold Monitor.raise; dsimp only; split_ifs <;> exact (hm.wf hp).1
  · unfold Monitor.raise; dsimp only; split_ifs <;> first | exact (hm.wf hp).2 | (simp only [Events.settle_routes]; exact (hm.wf hp).2)

theorem Monitor.raise_okE {t y} {m : Monitor} {a2 a3 a4 a5} (e : Monitor.raise m a2 a3 a4 a5 = (t, y)) (hm : MonOk p m) :
    MonOk p t := by
  have := Monitor.raise_ok hm a2 a3 a4 a5; rw [e] at this; exact this

theorem Monitor.write_ok {m : Monitor} (hm : MonOk p m) (a2 a3) (a4 a5 a6) : MonOk p (Monitor.write m a2 a3 a4 a5 a6).1 := by
  unfold Monitor.write
  repeat' first
    | with_reducible assumption
    | extract_lets +onlyGivenNames z; first | (clear_value z; rename' z => w) | rename' z => w
    | split
    | with_reducible first | refine MonOk.of_mk ?_ rfl rfl
theorem Monitor.write_okE {t yr} {m : Monitor}  {a2 a3} {a4 a5 a6} (e : (Monitor.write m a2 a3 a4 a5 a6) = (t, yr)) (hm : MonOk p m) : MonOk p t := by
  have := Monitor.write_ok hm a2 a3 a4 a5 a6; rw [e] at this; exact this

theorem Monitor.setCtr_ok {m : Monitor} (hm : MonOk p m) (a2 a3) : MonOk p (Monitor.setCtr m a2 a3) :=
  ⟨fun hp => ⟨Sparse.set_wf _ _ (hm.wf hp).1, (hm.wf hp).2⟩⟩

theorem Monitor.count_ok {m : Monitor} (hm : MonOk p m) (a2 a3) : MonOk p (Monitor.count m a2 a3).1 := by
  unfold Monitor.count
  repeat' first
    | with_reducible assumption
    | with_reducible first | apply Monitor.setCtr_ok
    | extract_lets +onlyGivenNames z; first | (clear_value z; rename' z => w) | rename' z => w
    | split
theorem Monitor.count_okE {t yr} {m : Monitor}  {a2 a3} (e : (Monitor.count m a2 a3) = (t, yr)) (hm : MonOk p m) : MonOk p t := by
  have := Monitor.count_ok hm a2 a3; rw [e] at this; exact this

theorem Monitor.occ_ok {m : Monitor} (hm : MonOk p m) (a2 a3) : MonOk p (Monitor.occ m a2 a3).1 := by
  unfold Monitor.occ
  repeat' first
    | with_reducible assumption
    | with_reducible first | apply Monitor.count_ok | apply Monitor.write_ok | apply Monitor.raise_ok
    | (with_reducible refine Monitor.count_okE (by with_reducible assumption) ?_)
    | (with_reducible refine Monitor.write_okE (by with_reducible assumption) ?_)
    | (with_reducible refine Monitor.raise_okE (by with_reducible assumption) ?_)
    | split
theorem Monitor.occ_okE {t yr} {m : Monitor}  {a2 a3} (e : (Monitor.occ m a2 a3) = (t, yr)) (hm : MonOk p m) : MonOk p t := by
  have := Monitor.occ_ok hm a2 a3; rw [e] at this; exact this

theorem Monitor.run_ok (a1 a2 a3) {m : Monitor} (hm : MonOk p m) : MonOk p (Monitor.run a1 a2 a3 m) := by
  induction a2 generalizing a3 m with
  | zero => cases a3 <;> exact hm
  | succ n ih =>
    cases a3 with
    | nil => exact hm
    | cons o t => exact ih _ (Monitor.occ_ok hm _ _)

theorem Monitor.greatest_ok {m : Monitor} (hm : MonOk p m) (a2 a3) : MonOk p (Monitor.greatest m a2 a3) := by
  unfold Monitor.greatest
  repeat' first
    | with_reducible assumption
    | with_reducible first | apply Monitor.setCtr_ok
    | extract_lets +onlyGivenNames z; first | (clear_value z; rename' z => w) | rename' z => w
    | split

end Sys2Proof.Machine
end

