-- ==== Sys2Proof/Laws/KeepOps.lean ====
section
/-! SUPPORT. What the operations of Machine/Ops.lean keep (Laws/Keep.lean says what is kept). -/

set_option linter.all false

namespace Sys2Proof.Machine
open Sys2Proof

variable {p : Prop} {k : Kept}

theorem State.wr_ok {s : State} (hs : Ok k s) (a2 a3) : Ok k (State.wr s a2 a3) :=
  ⟨hs.pending, hs.fine, hs.sent, fun hp => Sparse.set_wf _ _ (hs.regs hp), hs.coh, hs.mon, hs.flash, hs.fuses⟩

theorem State.wrRw_ok {s : State} (hs : Ok k s) (a2 a3) : Ok k (State.wrRw s a2 a3) := by
  unfold State.wrRw
  repeat' first
    | with_reducible assumption
    | with_reducible first | apply State.wr_ok
    | split

theorem State.wf_ok {s : State} (hs : Ok k s) (a2 a3) : Ok k (State.wf s a2 a3) := by
  unfold State.wf
  repeat' first
    | with_reducible assumption
    | with_reducible first | apply State.wr_ok

theorem State.wb_ok {s : State} (hs : Ok k s) (a2 a3) : Ok k (State.wb s a2 a3) := by
  unfold State.wb
  repeat' first
    | with_reducible assumption
    | with_reducible first | apply State.wf_ok

theorem State.setPort_ok {s : State} (hs : Ok k s) (a2) (a3 : Sys2Proof.Machine.PortSt → Sys2Proof.Machine.PortSt) : Ok k (State.setPort s a2 a3) := by
  unfold State.setPort
  repeat' first
    | with_reducible assumption
    | with_reducible first | apply Ok.coh | apply Ok.mon | apply Ok.flash
    | with_reducible apply_assumption -exfalso
    | with_reducible first | refine Ok.of_mk ?_ rfl rfl rfl rfl rfl ?_ ?_ ?_

theorem State.onCore_ok {s : State} {a2 : Sys2Proof.Machine.State → Sys2Proof.Machine.State} (hs : Ok k s) (hf : ∀ s, Ok k s → Ok k (a2 s)) : Ok k (State.onCore s a2) := by
  unfold State.onCore
  repeat' first
    | with_reducible assumption
    | with_reducible apply_assumption -exfalso
    | split

theorem State.onReg_ok {s : State} {a2 : Sys2Proof.Machine.State → Sys2Proof.Machine.State} (hs : Ok k s) (hf : ∀ s, Ok k s → Ok k (a2 s)) : Ok k (State.onReg s a2) := by
  unfold State.onReg
  repeat' first
    | with_reducible assumption
    | with_reducible apply_assumption -exfalso
    | split

theorem State.report_ok {s : State} (hs : Ok k s) (a2) : Ok k (State.report s a2) := by
  unfold State.report
  repeat' first
    | with_reducible assumption
    | with_reducible first | apply Monitor.run_ok | apply Ok.coh | apply Ok.mon | apply Ok.flash
    | with_reducible first | refine Ok.of_mk ?_ rfl rfl rfl rfl rfl ?_ ?_ ?_

theorem State.raise_ok {s : State} (hs : Ok k s) (a2 a3) : Ok k (State.raise s a2 a3) := by
  unfold State.raise
  repeat' first
    | with_reducible assumption
    | with_reducible first | apply State.report_ok

theorem State.raiseLog_ok {s : State} (hs : Ok k s) (a2 a3 a4) : Ok k (State.raiseLog s a2 a3 a4) := by
  unfold State.raiseLog
  repeat' first
    | with_reducible assumption
    | with_reducible first | apply State.report_ok

theorem State.raiseBare_ok {s : State} (hs : Ok k s) (a2 a3) : Ok k (State.raiseBare s a2 a3) := by
  unfold State.raiseBare
  repeat' first
    | with_reducible assumption
    | with_reducible first | apply State.raiseLog_ok

theorem State.note_ok {s : State} (hs : Ok k s) (a2 a3 a4) : Ok k (State.note s a2 a3 a4) := by
  unfold State.note
  repeat' first
    | with_reducible assumption
    | with_reducible first | apply State.report_ok

theorem State.count_ok {s : State} (hs : Ok k s) (a2 a3) : Ok k (State.count s a2 a3) := by
  unfold State.count
  repeat' first
    | with_reducible assumption
    | with_reducible first | apply State.report_ok
    | split

theorem State.raiseFirst_ok {s : State} (hs : Ok k s) (a2 a3) (a4 a5) : Ok k (State.raiseFirst s a2 a3 a4 a5) := by
  unfold State.raiseFirst
  repeat' first
    | with_reducible assumption
    | with_reducible first | apply State.raiseLog_ok | apply State.raise_ok | apply State.wf_ok
    | extract_lets +onlyGivenNames z; first
      | (refine cut (Q := Ok k z) ?_ ?_; (on_goal 2 => (intro hz; clear_value z; rename' z => w)); unfold z; clear z)
      | (clear_value z; rename' z => w)
      | rename' z => w
    | split

theorem State.addrError_ok {s : State} (hs : Ok k s) (a2 a3) (a4 a5) : Ok k (State.addrError s a2 a3 a4 a5) := by
  unfold State.addrError
  repeat' first
    | with_reducible assumption
    | with_reducible first | apply State.raiseLog_ok

theorem State.consumed_ok {s : State} (hs : Ok k s) (a2 a3) (a4 a5 a6) : Ok k (State.consumed s a2 a3 a4 a5 a6) := by
  unfold State.consumed
  repeat' first
    | with_reducible assumption
    | with_reducible first | apply State.count_ok | apply State.raiseLog_ok

theorem State.setHdl_ok {s : State} (hs : Ok k s) (a2 : Sys2Proof.Machine.HeadlandSt → Sys2Proof.Machine.HeadlandSt) : Ok k (State.setHdl s a2) := by
  unfold State.setHdl
  repeat' first
    | with_reducible assumption
    | with_reducible first | apply Ok.coh | apply Ok.mon | apply Ok.flash
    | with_reducible apply_assumption -exfalso
    | with_reducible first | refine Ok.of_mk ?_ rfl rfl rfl rfl rfl ?_ ?_ ?_

theorem State.pumpHdl_ok {s : State} (hs : Ok k s) (a1 a2) : Ok k (State.pumpHdl a1 a2 s) := by
  induction a2 generalizing s with
  | zero => exact hs
  | succ n ih =>
    unfold State.pumpHdl
    dsimp only
    split
    · exact hs
    · split
      · exact hs
      · exact ih ⟨hs.pending, hs.fine, hs.sent.trans (List.prefix_append _ _), hs.regs, hs.coh, hs.mon, hs.flash, hs.fuses⟩

theorem State.cross_ok {s : State} (hs : Ok k s) (a2 a3) (a4 a5) (a6 a7) (a8 a9) : Ok k (State.cross s a2 a3 a4 a5 a6 a7 a8 a9) := by
  unfold State.cross
  repeat' first
    | with_reducible assumption
    | intro _
    | with_reducible first | apply State.pumpHdl_ok | apply State.setHdl_ok
    | extract_lets +onlyGivenNames z; first
      | (refine cut (Q := Ok k z) ?_ ?_; (on_goal 2 => (intro hz; clear_value z; rename' z => w)); unfold z; clear z)
      | (clear_value z; rename' z => w)
      | rename' z => w
    | split

theorem State.crossItem_ok {s : State} (hs : Ok k s) (a2 a3) (a4 a5 a6) : Ok k (State.crossItem s a2 a3 a4 a5 a6) := by
  unfold State.crossItem
  repeat' first
    | with_reducible assumption
    | with_reducible first | apply State.cross_ok | apply Ok.coh | apply Ok.mon | apply Ok.flash
    | split
    | with_reducible first | refine Ok.of_mk ?_ rfl rfl rfl rfl rfl ?_ ?_ ?_

theorem State.crossStile_ok {s : State} (hs : Ok k s) (a2 a3 a4) : Ok k (State.crossStile s a2 a3 a4) := by
  unfold State.crossStile
  repeat' first
    | with_reducible assumption
    | with_reducible first | apply State.cross_ok
    | split

theorem State.crossAgent_ok {s : State} (hs : Ok k s) (a2 a3) (a4 a5 a6) : Ok k (State.crossAgent s a2 a3 a4 a5 a6) := by
  unfold State.crossAgent
  repeat' first
    | with_reducible assumption
    | with_reducible first | apply State.cross_ok
    | split

theorem State.setStile_ok {s : State} (hs : Ok k s) (a2) (a3 : Sys2Proof.Machine.StileSt → Sys2Proof.Machine.StileSt) : Ok k (State.setStile s a2 a3) := by
  unfold State.setStile
  repeat' first
    | with_reducible assumption
    | with_reducible first | apply Ok.coh | apply Ok.mon | apply Ok.flash
    | with_reducible apply_assumption -exfalso
    | with_reducible first | refine Ok.of_mk ?_ rfl rfl rfl rfl rfl ?_ ?_ ?_

theorem State.setLink_ok {s : State} (hs : Ok k s) (a2) (a3 : Sys2Proof.Machine.LinkSt → Sys2Proof.Machine.LinkSt) : Ok k (State.setLink s a2 a3) := by
  unfold State.setLink
  repeat' first
    | with_reducible assumption
    | intro _
    | with_reducible first | apply State.setStile_ok | apply State.setPort_ok
    | with_reducible apply_assumption -exfalso
    | split

theorem State.setLinkState_ok {s : State} (hs : Ok k s) (a2 a3) : Ok k (State.setLinkState s a2 a3) := by
  unfold State.setLinkState
  repeat' first
    | with_reducible assumption
    | with_reducible first | apply State.wf_ok
    | split

theorem State.setLinkCause_ok {s : State} (hs : Ok k s) (a2 a3) : Ok k (State.setLinkCause s a2 a3) := by
  unfold State.setLinkCause
  repeat' first
    | with_reducible assumption
    | with_reducible first | apply State.wf_ok
    | split

theorem State.emit_ok {s : State} (hs : Ok k s) (a2) : Ok k (State.emit s a2) :=
  ⟨hs.pending, hs.fine, hs.sent.trans (List.prefix_append _ _), hs.regs, hs.coh, hs.mon, hs.flash, hs.fuses⟩

theorem State.freeTag_ok {s : State} (hs : Ok k s) (a2 a3) : Ok k (State.freeTag s a2 a3) := by
  unfold State.freeTag
  repeat' first
    | with_reducible assumption
    | intro _
    | with_reducible first | apply State.setPort_ok | apply Ok.coh | apply Ok.mon | apply Ok.flash
    | extract_lets +onlyGivenNames z; first
      | (refine cut (Q := Ok k z) ?_ ?_; (on_goal 2 => (intro hz; clear_value z; rename' z => w)); unfold z; clear z)
      | (clear_value z; rename' z => w)
      | rename' z => w
    | split
    | with_reducible first | refine Ok.of_mk ?_ rfl rfl rfl rfl rfl ?_ ?_ ?_

theorem State.left_ok {s : State} (hs : Ok k s) (a2) : Ok k (State.left s a2) := by
  unfold State.left
  repeat' first
    | with_reducible assumption
    | intro _
    | with_reducible first | apply State.freeTag_ok | apply State.emit_ok | apply State.setPort_ok
    | extract_lets +onlyGivenNames z; first
      | (refine cut (Q := Ok k z) ?_ ?_; (on_goal 2 => (intro hz; clear_value z; rename' z => w)); unfold z; clear z)
      | (clear_value z; rename' z => w)
      | rename' z => w
    | split

theorem State.pumpLink_ok {s : State} (hs : Ok k s) (a2) : Ok k (State.pumpLink s a2) := by
  unfold State.pumpLink
  repeat' first
    | with_reducible assumption
    | intro _
    | with_reducible first | apply State.left_ok | apply State.setLink_ok | apply State.count_ok | refine foldl_keeps (Q := fun x : State => Ok k x) ?_ ?_
    | extract_lets +onlyGivenNames z; first | (clear_value z; rename' z => w) | rename' z => w
    | split

theorem State.transmitSlots_ok {s : State} (hs : Ok k s) (a2 a3) : Ok k (State.transmitSlots s a2 a3) := by
  unfold State.transmitSlots
  repeat' first
    | with_reducible assumption
    | intro _
    | with_reducible first | apply State.pumpLink_ok | apply State.setLink_ok
    | split

theorem State.transmitPart_ok {s : State} (hs : Ok k s) (a2 a3 a4) : Ok k (State.transmitPart s a2 a3 a4) := by
  unfold State.transmitPart
  repeat' first
    | with_reducible assumption
    | intro _
    | with_reducible first | apply State.pumpLink_ok | apply State.setLink_ok
    | split

theorem State.transmit_ok {s : State} (hs : Ok k s) (a2 a3 a4) : Ok k (State.transmit s a2 a3 a4) := by
  unfold State.transmit
  repeat' first
    | with_reducible assumption
    | with_reducible first | apply State.transmitSlots_ok

theorem State.sendCtl_ok {s : State} (hs : Ok k s) (a2 a3) : Ok k (State.sendCtl s a2 a3) := by
  unfold State.sendCtl
  repeat' first
    | with_reducible assumption
    | with_reducible first | apply State.transmit_ok

theorem State.markedDelivery_ok {s : State} (hs : Ok k s) (a2 a3) : Ok k (State.markedDelivery s a2 a3) := by
  unfold State.markedDelivery
  repeat' first
    | with_reducible assumption
    | with_reducible first | apply State.count_ok | apply State.raiseLog_ok | apply Ok.coh | apply Ok.mon | apply Ok.flash
    | extract_lets +onlyGivenNames z; first
      | (refine cut (Q := Ok k z) ?_ ?_; (on_goal 2 => (intro hz; clear_value z; rename' z => w)); unfold z; clear z)
      | (refine cut (Q := MonOk k.p z) ?_ ?_; (on_goal 2 => (intro hz; clear_value z; rename' z => w)); unfold z; clear z)
      | (clear_value z; rename' z => w)
      | rename' z => w
    | split
    | with_reducible first | refine Ok.of_mk ?_ rfl rfl rfl rfl rfl ?_ ?_ ?_ | refine MonOk.of_mk ?_ rfl rfl

theorem State.toAgent_ok {s : State} (hs : Ok k s) (a2 a3) : Ok k (State.toAgent s a2 a3) := by
  unfold State.toAgent
  repeat' first
    | with_reducible assumption
    | with_reducible first | apply State.markedDelivery_ok | apply State.transmit_ok
    | split

theorem State.respond_ok {s : State} (hs : Ok k s) (a2 a3) : Ok k (State.respond s a2 a3) := by
  unfold State.respond
  repeat' first
    | with_reducible assumption
    | intro _
    | with_reducible first | apply State.toAgent_ok | apply State.freeTag_ok | apply State.setPort_ok
    | extract_lets +onlyGivenNames z; first
      | (refine cut (Q := Ok k z) ?_ ?_; (on_goal 2 => (intro hz; clear_value z; rename' z => w)); unfold z; clear z)
      | (clear_value z; rename' z => w)
      | rename' z => w
    | split

theorem State.sendSnoop_ok {s : State} (hs : Ok k s) (a2 a3) : Ok k (State.sendSnoop s a2 a3) := by
  unfold State.sendSnoop
  repeat' first
    | with_reducible assumption
    | intro _
    | with_reducible first | apply State.toAgent_ok | apply State.setPort_ok
    | split

theorem State.returnBuf_ok {s : State} (hs : Ok k s) (a2) : Ok k (State.returnBuf s a2) := by
  unfold State.returnBuf
  repeat' first
    | with_reducible assumption
    | with_reducible first | apply State.sendCtl_ok
    | split

theorem State.pumpStile_ok {s : State} (hs : Ok k s) (a1 a2) : Ok k (State.pumpStile a1 a2 s) := by
  induction a2 generalizing s with
  | zero => exact hs
  | succ n ih =>
    unfold State.pumpStile
    repeat' first
      | with_reducible assumption
      | with_reducible first | apply ih | apply State.returnBuf_ok | apply State.transmitPart_ok | apply State.transmitSlots_ok | apply State.count_ok | apply State.setStile_ok
      | extract_lets +onlyGivenNames z; first
        | (refine cut (Q := Ok k z) ?_ ?_; (on_goal 2 => (intro hz; clear_value z; rename' z => w)); unfold z; clear z)
        | (clear_value z; rename' z => w)
      | split

theorem State.queueStile_ok {s : State} (hs : Ok k s) (a2 a3) (a4 a5) : Ok k (State.queueStile s a2 a3 a4 a5) := by
  unfold State.queueStile
  repeat' first
    | with_reducible assumption
    | intro _
    | with_reducible first | apply State.pumpStile_ok | apply State.setStile_ok
    | extract_lets +onlyGivenNames z; first
      | (refine cut (Q := Ok k z) ?_ ?_; (on_goal 2 => (intro hz; clear_value z; rename' z => w)); unfold z; clear z)
      | (clear_value z; rename' z => w)
      | rename' z => w

theorem State.routeStile_ok {s : State} (hs : Ok k s) (a2 a3) (a4 a5) : Ok k (State.routeStile s a2 a3 a4 a5).2 := by
  unfold State.routeStile
  repeat' first
    | with_reducible assumption
    | with_reducible first | apply State.queueStile_ok | apply State.returnBuf_ok | apply State.count_ok | apply State.raise_ok
    | extract_lets +onlyGivenNames z; first
      | (refine cut (Q := Ok k z) ?_ ?_; (on_goal 2 => (intro hz; clear_value z; rename' z => w)); unfold z; clear z)
      | (clear_value z; rename' z => w)
      | rename' z => w
    | split
theorem State.routeStile_okE {yl t} {s : State}  {a2 a3} {a4 a5} (e : (State.routeStile s a2 a3 a4 a5) = (yl, t)) (hs : Ok k s) : Ok k t := by
  have := State.routeStile_ok hs a2 a3 a4 a5; rw [e] at this; exact this

theorem State.sendFabric_ok {s : State} (hs : Ok k s) (a2 a3) : Ok k (State.sendFabric s a2 a3) := by
  unfold State.sendFabric
  repeat' first
    | with_reducible assumption
    | with_reducible first | apply State.routeStile_ok | apply State.crossStile_ok
    | (with_reducible refine State.routeStile_okE (by with_reducible assumption) ?_)
    | extract_lets +onlyGivenNames z; first
      | (refine cut (Q := Ok k z.2) ?_ ?_; (on_goal 2 => (intro hz; clear_value z; rename' z => w)); unfold z; clear z)
      | (clear_value z; rename' z => w)
      | rename' z => w
    | split

theorem State.transitWait_ok {s : State} (hs : Ok k s) (a2 a3) (a4 a5) : Ok k (State.transitWait s a2 a3 a4 a5) := by
  unfold State.transitWait
  repeat' first
    | with_reducible assumption
    | intro _
    | with_reducible first | apply State.pumpStile_ok | apply State.setStile_ok
    | extract_lets +onlyGivenNames z; first
      | (refine cut (Q := Ok k z) ?_ ?_; (on_goal 2 => (intro hz; clear_value z; rename' z => w)); unfold z; clear z)
      | (clear_value z; rename' z => w)
      | rename' z => w
    | split

theorem State.transitSlot_ok {s : State} (hs : Ok k s) (a2 a3) (a4 a5) : Ok k (State.transitSlot s a2 a3 a4 a5) := by
  unfold State.transitSlot
  repeat' first
    | with_reducible assumption
    | intro _
    | with_reducible first | apply State.transitWait_ok | apply State.pumpStile_ok | apply State.returnBuf_ok | apply State.transmitPart_ok | apply State.setStile_ok
    | extract_lets +onlyGivenNames z; first
      | (refine cut (Q := Ok k z) ?_ ?_; (on_goal 2 => (intro hz; clear_value z; rename' z => w)); unfold z; clear z)
      | (clear_value z; rename' z => w)
      | rename' z => w
    | split

end Sys2Proof.Machine
end

