-- ==== Sys2Proof/Laws/KeepCohBase.lean ====
section
/-! SUPPORT. What the operations of Machine/CohBase.lean keep (Laws/Keep.lean says what is kept). -/

set_option linter.all false

namespace Sys2Proof.Machine
open Sys2Proof

variable {p : Prop} {k : Kept}

theorem Coh.emit_ok {c : Coh} (hc : CohOk p c) (a2) : CohOk p (Coh.emit c a2) := by
  unfold Coh.emit
  repeat' first
    | with_reducible assumption
    | with_reducible first | refine CohOk.of_mk ?_ rfl rfl rfl rfl rfl rfl

theorem Coh.emits_ok {c : Coh} (hc : CohOk p c) (a2) : CohOk p (Coh.emits c a2) := by
  unfold Coh.emits
  repeat' first
    | with_reducible assumption
    | with_reducible first | refine CohOk.of_mk ?_ rfl rfl rfl rfl rfl rfl

theorem Coh.woken_ok {c : Coh} (hc : CohOk p c) : CohOk p (Coh.woken c) := by
  unfold Coh.woken
  repeat' first
    | with_reducible assumption
    | with_reducible first | refine CohOk.of_mk ?_ rfl rfl rfl rfl rfl rfl

theorem Coh.ctr_ok {c : Coh} (hc : CohOk p c) (a2 a3) : CohOk p (Coh.ctr c a2 a3) := by
  unfold Coh.ctr
  repeat' first
    | with_reducible assumption
    | with_reducible first | apply Coh.emit_ok
    | split

theorem Coh.sctr_ok {c : Coh} (hc : CohOk p c) (a2 a3 a4) : CohOk p (Coh.sctr c a2 a3 a4) := by
  unfold Coh.sctr
  repeat' first
    | with_reducible assumption
    | with_reducible first | apply Coh.ctr_ok

theorem Coh.putTag_ok {c : Coh} (hc : CohOk p c) (a2 a3) : CohOk p (Coh.putTag c a2 a3) := by
  refine ⟨fun hp => ⟨Sparse.set_wf _ _ (hc.wf hp).1, ?_, (hc.wf hp).3, (hc.wf hp).4, (hc.wf hp).5, (hc.wf hp).6⟩⟩
  show Sparse.wf _ (if _ then _ else _) = true
  split
  · exact Sparse.set_wf _ _ (hc.wf hp).2
  · exact (hc.wf hp).2

theorem Coh.setTag_ok {c : Coh} (hc : CohOk p c) (a2) (a3 : Sys2Proof.Machine.TagEntry → Sys2Proof.Machine.TagEntry) : CohOk p (Coh.setTag c a2 a3) := by
  unfold Coh.setTag
  repeat' first
    | with_reducible assumption
    | with_reducible first | apply Coh.putTag_ok
    | extract_lets +onlyGivenNames z; first | (clear_value z; rename' z => w) | rename' z => w
    | with_reducible apply_assumption -exfalso

theorem Coh.freeTag_ok {c : Coh} (hc : CohOk p c) (a2) : CohOk p (Coh.freeTag c a2) := by
  unfold Coh.freeTag
  repeat' first
    | with_reducible assumption
    | with_reducible first | apply Coh.putTag_ok

theorem Coh.lostTag_ok {c : Coh} (hc : CohOk p c) (a2 a3) : CohOk p (Coh.lostTag c a2 a3) := by
  unfold Coh.lostTag
  repeat' first
    | with_reducible assumption
    | with_reducible first | apply Coh.sctr_ok | apply Coh.emits_ok | apply Coh.emit_ok | apply CohOk.setTags | apply CohOk.setPp | apply CohOk.setSnf | apply CohOk.setDir
    | extract_lets +onlyGivenNames z; first
      | (refine cut (Q := CohOk p z) ?_ ?_; (on_goal 2 => (intro hz; clear_value z; rename' z => w)); unfold z; clear z)
      | (clear_value z; rename' z => w)
      | rename' z => w
    | with_reducible first | refine CohOk.of_mk ?_ rfl rfl rfl rfl rfl rfl

theorem Coh.correctedTag_ok {c : Coh} (hc : CohOk p c) (a2 a3) : CohOk p (Coh.correctedTag c a2 a3) := by
  unfold Coh.correctedTag
  repeat' first
    | with_reducible assumption
    | with_reducible first | apply Coh.sctr_ok | apply Coh.emit_ok

theorem Coh.storeCorrected_ok {c : Coh} (hc : CohOk p c) (a2 a3 a4) : CohOk p (Coh.storeCorrected c a2 a3 a4) := by
  unfold Coh.storeCorrected
  repeat' first
    | with_reducible assumption
    | with_reducible first | apply Coh.correctedTag_ok | apply Coh.lostTag_ok | apply CohOk.setTags | apply CohOk.setPp | apply CohOk.setSnf | apply CohOk.setDir
    | split
    | with_reducible first | refine CohOk.of_mk ?_ rfl rfl rfl rfl rfl rfl

theorem Coh.fixPp_ok {c : Coh} (hc : CohOk p c) (a2 a3) : CohOk p (Coh.fixPp c a2 a3) := by
  unfold Coh.fixPp
  repeat' first
    | with_reducible assumption
    | with_reducible first | apply CohOk.setTags | apply CohOk.setPp | apply CohOk.setSnf | apply CohOk.setDir
    | extract_lets +onlyGivenNames z; first | (clear_value z; rename' z => w) | rename' z => w
    | split
    | with_reducible first | refine CohOk.of_mk ?_ rfl rfl rfl rfl rfl rfl

theorem Coh.checkPair_ok {c : Coh} (hc : CohOk p c) (a2 a3) : CohOk p (Coh.checkPair c a2 a3) := by
  unfold Coh.checkPair
  repeat' first
    | with_reducible assumption
    | intro _
    | with_reducible first | apply Coh.fixPp_ok | apply Coh.storeCorrected_ok | apply Coh.correctedTag_ok | apply Coh.lostTag_ok
    | extract_lets +onlyGivenNames z; first
      | (refine cut (Q := ∀ x0, CohOk p x0 → CohOk p (z x0)) ?_ ?_; (on_goal 2 => (intro hz; clear_value z; rename' z => w)); unfold z; clear z)
      | (refine cut (Q := CohOk p z) ?_ ?_; (on_goal 2 => (intro hz; clear_value z; rename' z => w)); unfold z; clear z)
      | (clear_value z; rename' z => w)
      | rename' z => w
    | with_reducible apply_assumption -exfalso
    | split

theorem Coh.checkRow_ok {c : Coh} (hc : CohOk p c) (a2 a3) : CohOk p (Coh.checkRow c a2 a3) := by
  unfold Coh.checkRow
  repeat' first
    | with_reducible assumption
    | intro _
    | with_reducible first | apply Coh.checkPair_ok | refine foldl_keeps (Q := fun x : Coh => CohOk p x) ?_ ?_

theorem Coh.setTxn_ok {c : Coh} (hc : CohOk p c) (a2) (a3 : Sys2Proof.Machine.Txn → Sys2Proof.Machine.Txn) : CohOk p (Coh.setTxn c a2 a3) := by
  unfold Coh.setTxn
  repeat' first
    | with_reducible assumption
    | with_reducible apply_assumption -exfalso
    | with_reducible first | refine CohOk.of_mk ?_ rfl rfl rfl rfl rfl rfl

theorem Coh.setHome_ok {c : Coh} (hc : CohOk p c) (a2) (a3 : Sys2Proof.Machine.HomeTx → Sys2Proof.Machine.HomeTx) : CohOk p (Coh.setHome c a2 a3) := by
  unfold Coh.setHome
  repeat' first
    | with_reducible assumption
    | with_reducible apply_assumption -exfalso
    | with_reducible first | refine CohOk.of_mk ?_ rfl rfl rfl rfl rfl rfl

theorem Coh.setNode_ok {c : Coh} (hc : CohOk p c) (a2) (a3 : Sys2Proof.Machine.NodeTx → Sys2Proof.Machine.NodeTx) : CohOk p (Coh.setNode c a2 a3) := by
  unfold Coh.setNode
  repeat' first
    | with_reducible assumption
    | with_reducible apply_assumption -exfalso
    | with_reducible first | refine CohOk.of_mk ?_ rfl rfl rfl rfl rfl rfl

theorem Coh.setPress_ok {c : Coh} (hc : CohOk p c) (a2) (a3 : Sys2Proof.Machine.PressEntry → Sys2Proof.Machine.PressEntry) : CohOk p (Coh.setPress c a2 a3) := by
  unfold Coh.setPress
  repeat' first
    | with_reducible assumption
    | with_reducible apply_assumption -exfalso
    | with_reducible first | refine CohOk.of_mk ?_ rfl rfl rfl rfl rfl rfl

theorem Coh.dropTxn_ok {c : Coh} (hc : CohOk p c) (a2) : CohOk p (Coh.dropTxn c a2) := by
  unfold Coh.dropTxn
  repeat' first
    | with_reducible assumption
    | with_reducible first | refine CohOk.of_mk ?_ rfl rfl rfl rfl rfl rfl

theorem Coh.dropHome_ok {c : Coh} (hc : CohOk p c) (a2) : CohOk p (Coh.dropHome c a2) := by
  unfold Coh.dropHome
  repeat' first
    | with_reducible assumption
    | with_reducible first | refine CohOk.of_mk ?_ rfl rfl rfl rfl rfl rfl

theorem Coh.dropNode_ok {c : Coh} (hc : CohOk p c) (a2) : CohOk p (Coh.dropNode c a2) := by
  unfold Coh.dropNode
  repeat' first
    | with_reducible assumption
    | with_reducible first | refine CohOk.of_mk ?_ rfl rfl rfl rfl rfl rfl

theorem Coh.dropPress_ok {c : Coh} (hc : CohOk p c) (a2) : CohOk p (Coh.dropPress c a2) := by
  unfold Coh.dropPress
  repeat' first
    | with_reducible assumption
    | with_reducible first | refine CohOk.of_mk ?_ rfl rfl rfl rfl rfl rfl

theorem Coh.dropHamper_ok {c : Coh} (hc : CohOk p c) (a2) : CohOk p (Coh.dropHamper c a2) := by
  unfold Coh.dropHamper
  repeat' first
    | with_reducible assumption
    | with_reducible first | refine CohOk.of_mk ?_ rfl rfl rfl rfl rfl rfl

theorem Coh.dropHeld_ok {c : Coh} (hc : CohOk p c) (a2) : CohOk p (Coh.dropHeld c a2) := by
  unfold Coh.dropHeld
  repeat' first
    | with_reducible assumption
    | with_reducible first | refine CohOk.of_mk ?_ rfl rfl rfl rfl rfl rfl

theorem Coh.putSnf_ok {c : Coh} (hc : CohOk p c) (a2 a3) : CohOk p (Coh.putSnf c a2 a3) :=
  ⟨fun hp => ⟨(hc.wf hp).1, (hc.wf hp).2, Sparse.set_wf _ _ (hc.wf hp).3, (hc.wf hp).4, (hc.wf hp).5, (hc.wf hp).6⟩⟩

theorem Coh.clearSnf_ok {c : Coh} (hc : CohOk p c) (a2) : CohOk p (Coh.clearSnf c a2) := by
  unfold Coh.clearSnf
  repeat' first
    | with_reducible assumption
    | with_reducible first | apply Coh.putSnf_ok

theorem Coh.putDir_ok {c : Coh} (hc : CohOk p c) (a2 a3) : CohOk p (Coh.putDir c a2 a3) :=
  ⟨fun hp => ⟨(hc.wf hp).1, (hc.wf hp).2, (hc.wf hp).3, Sparse.set_wf _ _ (hc.wf hp).4, (hc.wf hp).5, (hc.wf hp).6⟩⟩

theorem Coh.clearDir_ok {c : Coh} (hc : CohOk p c) (a2) : CohOk p (Coh.clearDir c a2) := by
  unfold Coh.clearDir
  repeat' first
    | with_reducible assumption
    | with_reducible first | apply Coh.putDir_ok

theorem Coh.writeSlot_ok {c : Coh} (hc : CohOk p c) (a2 : State) (a3 a4) : CohOk p (Coh.writeSlot c a2 a3 a4) := by
  unfold Coh.writeSlot
  repeat' first
    | with_reducible assumption
    | with_reducible first | apply Coh.ctr_ok | apply CohOk.setSram | apply CohOk.setDdr
    | extract_lets +onlyGivenNames z; first | (clear_value z; rename' z => w) | rename' z => w
    | with_reducible first | refine CohOk.of_mk ?_ rfl rfl rfl rfl rfl rfl

theorem Coh.writeMem_ok {c : Coh} (hc : CohOk p c) (a2 a3) : CohOk p (Coh.writeMem c a2 a3) := by
  unfold Coh.writeMem
  repeat' first
    | with_reducible assumption
    | with_reducible first | apply Coh.ctr_ok | apply CohOk.setSram | apply CohOk.setDdr
    | extract_lets +onlyGivenNames z; first | (clear_value z; rename' z => w) | rename' z => w
    | with_reducible first | refine CohOk.of_mk ?_ rfl rfl rfl rfl rfl rfl

theorem Coh.decodeAt_ok {c : Coh} (hc : CohOk p c) (a2 : State) (a3 a4) (a5 a6) (a7 a8) : CohOk p (Coh.decodeAt c a2 a3 a4 a5 a6 a7 a8).2 := by
  unfold Coh.decodeAt
  repeat' first
    | with_reducible assumption
    | intro _
    | with_reducible first | apply Coh.ctr_ok | apply Coh.emits_ok | apply Coh.emit_ok | apply CohOk.setSram | apply CohOk.setDdr
    | extract_lets +onlyGivenNames z; first
      | (refine cut (Q := CohOk p z) ?_ ?_; (on_goal 2 => (intro hz; clear_value z; rename' z => w)); unfold z; clear z)
      | (clear_value z; rename' z => w)
      | rename' z => w
    | split
    | with_reducible first | refine CohOk.of_mk ?_ rfl rfl rfl rfl rfl rfl
theorem Coh.decodeAt_okE {yl t} {c : Coh}  {a2 : State} {a3 a4} {a5 a6} {a7 a8} (e : (Coh.decodeAt c a2 a3 a4 a5 a6 a7 a8) = (yl, t)) (hc : CohOk p c) : CohOk p t := by
  have := Coh.decodeAt_ok hc a2 a3 a4 a5 a6 a7 a8; rw [e] at this; exact this

theorem Coh.readBurst_ok {c : Coh} (hc : CohOk p c) (a2 : State) (a3) : CohOk p (Coh.readBurst c a2 a3) := by
  unfold Coh.readBurst
  repeat' first
    | with_reducible assumption
    | with_reducible first | apply Coh.ctr_ok
    | extract_lets +onlyGivenNames z; first
      | (refine cut (Q := CohOk p z) ?_ ?_; (on_goal 2 => (intro hz; clear_value z; rename' z => w)); unfold z; clear z)
      | (clear_value z; rename' z => w)
      | rename' z => w
    | split
    | with_reducible first | refine CohOk.of_mk ?_ rfl rfl rfl rfl rfl rfl

theorem Coh.readSlot_ok {c : Coh} (hc : CohOk p c) (a2 : State) (a3) : CohOk p (Coh.readSlot c a2 a3).2 := by
  unfold Coh.readSlot
  repeat' first
    | with_reducible assumption
    | with_reducible first | apply Coh.readBurst_ok | apply Coh.decodeAt_ok
    | (with_reducible refine Coh.decodeAt_okE (by with_reducible assumption) ?_)
    | extract_lets +onlyGivenNames z; first | (clear_value z; rename' z => w) | rename' z => w
theorem Coh.readSlot_okE {yl t} {c : Coh}  {a2 : State} {a3} (e : (Coh.readSlot c a2 a3) = (yl, t)) (hc : CohOk p c) : CohOk p t := by
  have := Coh.readSlot_ok hc a2 a3; rw [e] at this; exact this

theorem Coh.readMem_ok {c : Coh} (hc : CohOk p c) (a2 : State) (a3) : CohOk p (Coh.readMem c a2 a3).2 := by
  unfold Coh.readMem
  repeat' first
    | with_reducible assumption
    | with_reducible first | apply Coh.decodeAt_ok | apply Coh.ctr_ok
    | (with_reducible refine Coh.decodeAt_okE (by with_reducible assumption) ?_)
    | extract_lets +onlyGivenNames z; first | (clear_value z; rename' z => w) | rename' z => w
theorem Coh.readMem_okE {yl t} {c : Coh}  {a2 : State} {a3} (e : (Coh.readMem c a2 a3) = (yl, t)) (hc : CohOk p c) : CohOk p t := by
  have := Coh.readMem_ok hc a2 a3; rw [e] at this; exact this

theorem Coh.queueSlot_ok {c : Coh} (hc : CohOk p c) (a2 : State) (a3 a4) (a5 a6 a7) : CohOk p (Coh.queueSlot c a2 a3 a4 a5 a6 a7) := by
  unfold Coh.queueSlot
  repeat' first
    | with_reducible assumption
    | with_reducible first | apply Coh.readBurst_ok
    | extract_lets +onlyGivenNames z; first | (clear_value z; rename' z => w) | rename' z => w
    | with_reducible first | refine CohOk.of_mk ?_ rfl rfl rfl rfl rfl rfl

theorem Coh.queueMem_ok {c : Coh} (hc : CohOk p c) (a2 a3) (a4 a5) : CohOk p (Coh.queueMem c a2 a3 a4 a5) := by
  unfold Coh.queueMem
  repeat' first
    | with_reducible assumption
    | with_reducible first | apply Coh.ctr_ok
    | extract_lets +onlyGivenNames z; first | (clear_value z; rename' z => w) | rename' z => w
    | with_reducible first | refine CohOk.of_mk ?_ rfl rfl rfl rfl rfl rfl

theorem Coh.sendNode_ok {c : Coh} (hc : CohOk p c) (a2 : State) (a3 a4) : CohOk p (Coh.sendNode c a2 a3 a4) := by
  unfold Coh.sendNode
  repeat' first
    | with_reducible assumption
    | with_reducible first | apply Coh.emit_ok

theorem Coh.arrive_ok {c : Coh} (hc : CohOk p c) (a2 a3) : CohOk p (Coh.arrive c a2 a3).2 := by
  unfold Coh.arrive
  repeat' first
    | with_reducible assumption
    | with_reducible first | apply Coh.ctr_ok | apply Coh.emit_ok
    | extract_lets +onlyGivenNames z; first | (clear_value z; rename' z => w) | rename' z => w
    | split
theorem Coh.arrive_okE {yl t} {c : Coh}  {a2 a3} (e : (Coh.arrive c a2 a3) = (yl, t)) (hc : CohOk p c) : CohOk p t := by
  have := Coh.arrive_ok hc a2 a3; rw [e] at this; exact this

end Sys2Proof.Machine
end

