-- ==== Sys2Proof/Laws/KeepCohFlow.lean ====
section
/-! SUPPORT. What the operations of Machine/CohFlow.lean keep (Laws/Keep.lean says what is kept). -/

set_option linter.all false

namespace Sys2Proof.Machine
open Sys2Proof

variable {p : Prop} {k : Kept}

theorem Coh.toHome_ok {c : Coh} (hc : CohOk p c) (a2 : State) (a3 a4) (a5 : Sys2Proof.Machine.StileHdr → Sys2Proof.Machine.StileHdr) (a6) : CohOk p (Coh.toHome c a2 a3 a4 a5 a6) := by
  unfold Coh.toHome
  repeat' first
    | with_reducible assumption
    | with_reducible first | apply Coh.sendNode_ok
    | with_reducible apply_assumption -exfalso

theorem Coh.protoErr_ok {c : Coh} (hc : CohOk p c) (a2 : State) (a3 a4) (a5 a6 a7) : CohOk p (Coh.protoErr c a2 a3 a4 a5 a6 a7) := by
  unfold Coh.protoErr
  repeat' first
    | with_reducible assumption
    | with_reducible first | apply Coh.sctr_ok | apply Coh.emit_ok
    | extract_lets +onlyGivenNames z; first | (clear_value z; rename' z => w) | rename' z => w
    | split

theorem Coh.demoteStore_ok {c : Coh} (hc : CohOk p c) (a2) : CohOk p (Coh.demoteStore c a2) := by
  unfold Coh.demoteStore
  repeat' first
    | with_reducible assumption
    | with_reducible first | apply Coh.emit_ok
    | split

theorem Coh.admitRemote_ok {c : Coh} (hc : CohOk p c) (a2 : State) (a3) : CohOk p (Coh.admitRemote c a2 a3).2 := by
  unfold Coh.admitRemote
  repeat' first
    | with_reducible assumption
    | intro _
    | with_reducible first | apply Coh.demoteStore_ok | apply Coh.emit_ok | refine foldl_keeps (Q := fun x : Coh => CohOk p x) ?_ ?_
    | extract_lets +onlyGivenNames z; first | (clear_value z; rename' z => w) | rename' z => w
    | split
theorem Coh.admitRemote_okE {yl t} {c : Coh}  {a2 : State} {a3} (e : (Coh.admitRemote c a2 a3) = (yl, t)) (hc : CohOk p c) : CohOk p t := by
  have := Coh.admitRemote_ok hc a2 a3; rw [e] at this; exact this

theorem Coh.request_ok {c : Coh} (hc : CohOk p c) (a2 : State) (a3 a4 a5) (a6 : Sys2Proof.Machine.StileHdr → Sys2Proof.Machine.StileHdr) (a7) : OptOk (CohOk p) (Coh.request c a2 a3 a4 a5 a6 a7) := by
  unfold Coh.request
  repeat' first
    | with_reducible assumption
    | intro _
    | with_reducible first | apply Coh.admitRemote_ok | apply Coh.toHome_ok | exact OptOk.none | refine OptOk.some ?_
    | (with_reducible refine Coh.admitRemote_okE (by with_reducible assumption) ?_)
    | extract_lets +onlyGivenNames z; first
      | (refine cut (Q := CohOk p z.2) ?_ ?_; (on_goal 2 => (intro hz; clear_value z; rename' z => w)); unfold z; clear z)
      | (refine cut (Q := CohOk p z) ?_ ?_; (on_goal 2 => (intro hz; clear_value z; rename' z => w)); unfold z; clear z)
      | (clear_value z; rename' z => w)
      | rename' z => w
    | with_reducible apply_assumption -exfalso
    | split
    | with_reducible first | refine CohOk.of_mk ?_ rfl rfl rfl rfl rfl rfl
theorem Coh.request_okE {t} {c : Coh}  {a2 : State} {a3 a4 a5} {a6 : Sys2Proof.Machine.StileHdr → Sys2Proof.Machine.StileHdr} {a7} (e : (Coh.request c a2 a3 a4 a5 a6 a7) = some t) (hc : CohOk p c) : CohOk p t := by
  have := Coh.request_ok hc a2 a3 a4 a5 a6 a7; rw [e] at this; exact this

theorem Coh.setSnfOf_ok {c : Coh} (hc : CohOk p c) (a2) (a3 : Sys2Proof.Machine.SnfEntry → Sys2Proof.Machine.SnfEntry) : CohOk p (Coh.setSnfOf c a2 a3) := by
  unfold Coh.setSnfOf
  repeat' first
    | with_reducible assumption
    | with_reducible first | apply Coh.putSnf_ok
    | with_reducible apply_assumption -exfalso
    | split

theorem Coh.dropInstall_ok {c : Coh} (hc : CohOk p c) (a2) : CohOk p (Coh.dropInstall c a2) := by
  unfold Coh.dropInstall
  repeat' first
    | with_reducible assumption
    | intro _
    | with_reducible first | apply Coh.setTxn_ok | apply Coh.freeTag_ok
    | extract_lets +onlyGivenNames z; first
      | (refine cut (Q := CohOk p z) ?_ ?_; (on_goal 2 => (intro hz; clear_value z; rename' z => w)); unfold z; clear z)
      | (clear_value z; rename' z => w)
      | rename' z => w
    | split

theorem Coh.setNodeState_ok {c : Coh} (hc : CohOk p c) (a2 : State) (a3 a4) : CohOk p (Coh.setNodeState c a2 a3 a4) := by
  unfold Coh.setNodeState
  repeat' first
    | with_reducible assumption
    | intro _
    | with_reducible first | apply Coh.dropInstall_ok | apply Coh.setSnfOf_ok | apply Coh.setPress_ok | apply Coh.setTxn_ok | apply Coh.freeTag_ok | apply Coh.setTag_ok
    | extract_lets +onlyGivenNames z; first
      | (refine cut (Q := CohOk p z) ?_ ?_; (on_goal 2 => (intro hz; clear_value z; rename' z => w)); unfold z; clear z)
      | (clear_value z; rename' z => w)
      | rename' z => w
    | split
    | with_reducible first | refine CohOk.of_mk ?_ rfl rfl rfl rfl rfl rfl

theorem Coh.clearNst_ok {c : Coh} (hc : CohOk p c) (a2) : CohOk p (Coh.clearNst c a2) := by
  unfold Coh.clearNst
  repeat' first
    | with_reducible assumption
    | intro _
    | with_reducible first | apply Coh.setSnfOf_ok | apply Coh.setPress_ok

theorem Coh.addNodeTx_ok {c : Coh} (hc : CohOk p c) (a2) : CohOk p (Coh.addNodeTx c a2) := by
  unfold Coh.addNodeTx
  repeat' first
    | with_reducible assumption
    | with_reducible first | refine CohOk.of_mk ?_ rfl rfl rfl rfl rfl rfl

theorem Coh.sendFEv_ok {c : Coh} (hc : CohOk p c) (a2 : State) (a3 a4) : CohOk p (Coh.sendFEv c a2 a3 a4) := by
  unfold Coh.sendFEv
  repeat' first
    | with_reducible assumption
    | intro _
    | with_reducible first | apply Coh.addNodeTx_ok | apply Coh.toHome_ok

theorem Coh.sendFWb_ok {c : Coh} (hc : CohOk p c) (a2 : State) (a3 a4) (a5 a6) : CohOk p (Coh.sendFWb c a2 a3 a4 a5 a6) := by
  unfold Coh.sendFWb
  repeat' first
    | with_reducible assumption
    | intro _
    | with_reducible first | apply Coh.addNodeTx_ok | apply Coh.toHome_ok

theorem Coh.enterHamper_ok {c : Coh} (hc : CohOk p c) (a2 : State) (a3) : CohOk p (Coh.enterHamper c a2 a3) := by
  unfold Coh.enterHamper
  repeat' first
    | with_reducible assumption
    | with_reducible first | apply Coh.sendFWb_ok | apply Coh.sctr_ok
    | extract_lets +onlyGivenNames z; first
      | (refine cut (Q := CohOk p z) ?_ ?_; (on_goal 2 => (intro hz; clear_value z; rename' z => w)); unfold z; clear z)
      | (clear_value z; rename' z => w)
      | rename' z => w
    | split
    | with_reducible first | refine CohOk.of_mk ?_ rfl rfl rfl rfl rfl rfl

theorem Coh.putHamper_ok {c : Coh} (hc : CohOk p c) (a2 : State) (a3) : CohOk p (Coh.putHamper c a2 a3) := by
  unfold Coh.putHamper
  repeat' first
    | with_reducible assumption
    | with_reducible first | apply Coh.enterHamper_ok
    | split
    | with_reducible first | refine CohOk.of_mk ?_ rfl rfl rfl rfl rfl rfl

theorem Coh.leaveByFWb_ok {c : Coh} (hc : CohOk p c) (a2 : State) (a3 a4) (a5 a6) : CohOk p (Coh.leaveByFWb c a2 a3 a4 a5 a6) := by
  unfold Coh.leaveByFWb
  repeat' first
    | with_reducible assumption
    | with_reducible first | apply Coh.putHamper_ok

theorem Coh.hamperNext_ok {c : Coh} (hc : CohOk p c) (a2 : State) : CohOk p (Coh.hamperNext c a2) := by
  unfold Coh.hamperNext
  repeat' first
    | with_reducible assumption
    | intro _
    | with_reducible first | apply Coh.enterHamper_ok | refine foldl_keeps (Q := fun x : Coh => CohOk p x) ?_ ?_
    | split
    | with_reducible first | refine CohOk.of_mk ?_ rfl rfl rfl rfl rfl rfl

theorem Coh.lostData_ok {c : Coh} (hc : CohOk p c) (a2 : State) (a3) : CohOk p (Coh.lostData c a2 a3) := by
  unfold Coh.lostData
  repeat' first
    | with_reducible assumption
    | with_reducible first | apply Coh.protoErr_ok

theorem Coh.freedNst_ok {c : Coh} (hc : CohOk p c) (a2 : State) (a3 a4) : CohOk p (Coh.freedNst c a2 a3 a4) := by
  unfold Coh.freedNst
  repeat' first
    | with_reducible assumption
    | intro _
    | with_reducible first | apply Coh.lostData_ok | apply Coh.leaveByFWb_ok | apply Coh.sendFEv_ok | apply Coh.setPress_ok
    | split
    | with_reducible first | refine CohOk.of_mk ?_ rfl rfl rfl rfl rfl rfl

theorem Coh.tidySnf_ok {c : Coh} (hc : CohOk p c) (a2 : State) (a3) : CohOk p (Coh.tidySnf c a2 a3) := by
  unfold Coh.tidySnf
  repeat' first
    | with_reducible assumption
    | with_reducible first | apply Coh.freedNst_ok | apply Coh.clearSnf_ok | apply Coh.woken_ok
    | extract_lets +onlyGivenNames z; first | (clear_value z; rename' z => w) | rename' z => w
    | split

theorem Coh.victim_ok {c : Coh} (hc : CohOk p c) (a2 : State) (a3 a4 a5) : CohOk p (Coh.victim c a2 a3 a4 a5).2 := by
  unfold Coh.victim
  repeat' first
    | with_reducible assumption
    | intro _
    | with_reducible first | apply Coh.setTag_ok | apply Coh.sctr_ok | refine foldl_keeps (Q := fun x : Coh => CohOk p x) ?_ ?_
    | extract_lets +onlyGivenNames z; first
      | (refine cut (Q := CohOk p z) ?_ ?_; (on_goal 2 => (intro hz; clear_value z; rename' z => w)); unfold z; clear z)
      | (clear_value z; rename' z => w)
      | rename' z => w
    | split
theorem Coh.victim_okE {yl t} {c : Coh}  {a2 : State} {a3 a4 a5} (e : (Coh.victim c a2 a3 a4 a5) = (yl, t)) (hc : CohOk p c) : CohOk p t := by
  have := Coh.victim_ok hc a2 a3 a4 a5; rw [e] at this; exact this

theorem Coh.evictSlot_ok {c : Coh} (hc : CohOk p c) (a2 : State) (a3 a4) : CohOk p (Coh.evictSlot c a2 a3 a4) := by
  unfold Coh.evictSlot
  repeat' first
    | with_reducible assumption
    | intro _
    | with_reducible first | apply Coh.sendFEv_ok | apply Coh.setSnfOf_ok | apply Coh.readSlot_ok | apply Coh.setPress_ok | apply Coh.freeTag_ok | apply Coh.sctr_ok | apply Coh.emit_ok
    | (with_reducible refine Coh.readSlot_okE (by with_reducible assumption) ?_)
    | extract_lets +onlyGivenNames z; first
      | (refine cut (Q := CohOk p z) ?_ ?_; (on_goal 2 => (intro hz; clear_value z; rename' z => w)); unfold z; clear z)
      | (refine cut (Q := ∀ x0, CohOk p x0 → CohOk p (z x0)) ?_ ?_; (on_goal 2 => (intro hz; clear_value z; rename' z => w)); unfold z; clear z)
      | (refine cut (Q := CohOk p z.2) ?_ ?_; (on_goal 2 => (intro hz; clear_value z; rename' z => w)); unfold z; clear z)
      | (clear_value z; rename' z => w)
      | rename' z => w
    | with_reducible apply_assumption -exfalso
    | split
    | with_reducible first | refine CohOk.of_mk ?_ rfl rfl rfl rfl rfl rfl

theorem Coh.reserveSlot_ok {c : Coh} (hc : CohOk p c) (a2 : State) (a3 a4) : CohOk p (Coh.reserveSlot c a2 a3 a4) := by
  unfold Coh.reserveSlot
  repeat' first
    | with_reducible assumption
    | with_reducible first | apply Coh.evictSlot_ok | apply Coh.putTag_ok

theorem Coh.allocSlot_ok {c : Coh} (hc : CohOk p c) (a2 : State) (a3 a4) : CohOk p (Coh.allocSlot c a2 a3 a4).2 := by
  unfold Coh.allocSlot
  repeat' first
    | with_reducible assumption
    | with_reducible first | apply Coh.reserveSlot_ok | apply Coh.victim_ok
    | (with_reducible refine Coh.victim_okE (by with_reducible assumption) ?_)
    | split
theorem Coh.allocSlot_okE {yl t} {c : Coh}  {a2 : State} {a3 a4} (e : (Coh.allocSlot c a2 a3 a4) = (yl, t)) (hc : CohOk p c) : CohOk p t := by
  have := Coh.allocSlot_ok hc a2 a3 a4; rw [e] at this; exact this

theorem Coh.finishSlot_ok {c : Coh} (hc : CohOk p c) (a2 : State) (a3 a4) (a5 a6) (a7 a8) : CohOk p (Coh.finishSlot c a2 a3 a4 a5 a6 a7 a8) := by
  unfold Coh.finishSlot
  repeat' first
    | with_reducible assumption
    | with_reducible first | apply Coh.writeSlot_ok | apply Coh.putTag_ok

theorem Coh.demandHit_ok {c : Coh} (hc : CohOk p c) (a2 : State) (a3) : CohOk p (Coh.demandHit c a2 a3) := by
  unfold Coh.demandHit
  repeat' first
    | with_reducible assumption
    | intro _
    | with_reducible first | apply Coh.setTag_ok | apply Coh.sctr_ok | apply Coh.emit_ok
    | extract_lets +onlyGivenNames z; first
      | (refine cut (Q := CohOk p z) ?_ ?_; (on_goal 2 => (intro hz; clear_value z; rename' z => w)); unfold z; clear z)
      | (clear_value z; rename' z => w)
      | rename' z => w
    | split

theorem Coh.reclaim_ok {c : Coh} (hc : CohOk p c) (a2 : State) (a3 a4) (a5 a6) : OptOk (CohOk p) (Coh.reclaim c a2 a3 a4 a5 a6) := by
  unfold Coh.reclaim
  repeat' first
    | with_reducible assumption
    | with_reducible first | apply Coh.finishSlot_ok | apply Coh.reserveSlot_ok | apply Coh.victim_ok | apply Coh.clearNst_ok | apply Coh.sctr_ok | apply Coh.woken_ok | exact OptOk.none | refine OptOk.some ?_
    | (with_reducible refine Coh.victim_okE (by with_reducible assumption) ?_)
    | extract_lets +onlyGivenNames z; first
      | (refine cut (Q := CohOk p z) ?_ ?_; (on_goal 2 => (intro hz; clear_value z; rename' z => w)); unfold z; clear z)
      | (clear_value z; rename' z => w)
      | rename' z => w
    | split
    | with_reducible first | refine CohOk.of_mk ?_ rfl rfl rfl rfl rfl rfl
theorem Coh.reclaim_okE {t} {c : Coh}  {a2 : State} {a3 a4} {a5 a6} (e : (Coh.reclaim c a2 a3 a4 a5 a6) = some t) (hc : CohOk p c) : CohOk p t := by
  have := Coh.reclaim_ok hc a2 a3 a4 a5 a6; rw [e] at this; exact this

theorem Coh.putSnoop_ok {c : Coh} (hc : CohOk p c) (a2 : State) (a3 a4) (a5 a6) (a7 a8) : CohOk p (Coh.putSnoop c a2 a3 a4 a5 a6 a7 a8) := by
  unfold Coh.putSnoop
  repeat' first
    | with_reducible assumption
    | with_reducible first | apply Coh.sctr_ok | apply Coh.ctr_ok | apply Coh.emit_ok
    | extract_lets +onlyGivenNames z; first | (clear_value z; rename' z => w) | rename' z => w
    | split
    | with_reducible first | refine CohOk.of_mk ?_ rfl rfl rfl rfl rfl rfl

theorem Coh.snoopFor_ok {c : Coh} (hc : CohOk p c) (a2 : State) (a3 a4) (a5 a6) : CohOk p (Coh.snoopFor c a2 a3 a4 a5 a6) := by
  unfold Coh.snoopFor
  repeat' first
    | with_reducible assumption
    | with_reducible first | apply Coh.putSnoop_ok
    | split
    | with_reducible first | refine CohOk.of_mk ?_ rfl rfl rfl rfl rfl rfl

theorem Coh.startFlow_ok {c : Coh} (hc : CohOk p c) (a2 : State) (a3 a4 a5) : CohOk p (Coh.startFlow c a2 a3 a4 a5) := by
  unfold Coh.startFlow
  repeat' first
    | with_reducible assumption
    | intro _
    | with_reducible first | apply Coh.snoopFor_ok | refine foldl_keeps (Q := fun x : Coh => CohOk p x) ?_ ?_
    | extract_lets +onlyGivenNames z; first
      | (refine cut (Q := CohOk p z) ?_ ?_; (on_goal 2 => (intro hz; clear_value z; rename' z => w)); unfold z; clear z)
      | (clear_value z; rename' z => w)
      | rename' z => w
    | with_reducible first | refine CohOk.of_mk ?_ rfl rfl rfl rfl rfl rfl

theorem Coh.dropFlow_ok {c : Coh} (hc : CohOk p c) (a2) : CohOk p (Coh.dropFlow c a2) := by
  unfold Coh.dropFlow
  repeat' first
    | with_reducible assumption
    | with_reducible first | refine CohOk.of_mk ?_ rfl rfl rfl rfl rfl rfl

theorem Coh.releaseSnoops_ok {c : Coh} (hc : CohOk p c) (a2 : State) (a3 a4) : CohOk p (Coh.releaseSnoops c a2 a3 a4) := by
  unfold Coh.releaseSnoops
  repeat' first
    | with_reducible assumption
    | intro _
    | with_reducible first | apply Coh.putSnoop_ok | refine foldl_keeps (Q := fun x : Coh => CohOk p x) ?_ ?_
    | extract_lets +onlyGivenNames z; first
      | (refine cut (Q := CohOk p z) ?_ ?_; (on_goal 2 => (intro hz; clear_value z; rename' z => w)); unfold z; clear z)
      | (clear_value z; rename' z => w)
      | rename' z => w
    | with_reducible first | refine CohOk.of_mk ?_ rfl rfl rfl rfl rfl rfl

theorem Coh.takeSnf_ok {c : Coh} (hc : CohOk p c) (a2 : State) (a3) : CohOk p (Coh.takeSnf c a2 a3).2 := by
  unfold Coh.takeSnf
  repeat' first
    | with_reducible assumption
    | intro _
    | with_reducible first | apply Coh.startFlow_ok | apply Coh.clearSnf_ok | apply Coh.putSnf_ok | apply Coh.sctr_ok | refine foldl_keeps (Q := fun x : Coh => CohOk p x) ?_ ?_
    | extract_lets +onlyGivenNames z; first
      | (refine cut (Q := CohOk p z) ?_ ?_; (on_goal 2 => (intro hz; clear_value z; rename' z => w)); unfold z; clear z)
      | (clear_value z; rename' z => w)
      | rename' z => w
    | split
theorem Coh.takeSnf_okE {yl t} {c : Coh}  {a2 : State} {a3} (e : (Coh.takeSnf c a2 a3) = (yl, t)) (hc : CohOk p c) : CohOk p t := by
  have := Coh.takeSnf_ok hc a2 a3; rw [e] at this; exact this

theorem Coh.grantSnf_ok {c : Coh} (hc : CohOk p c) (a2 a3) (a4 a5 a6) : CohOk p (Coh.grantSnf c a2 a3 a4 a5 a6) := by
  unfold Coh.grantSnf
  repeat' first
    | with_reducible assumption
    | with_reducible first | apply Coh.putSnf_ok
    | extract_lets +onlyGivenNames z; first | (clear_value z; rename' z => w) | rename' z => w
    | split

theorem Coh.soleTag_ok {c : Coh} (hc : CohOk p c) (a2 : State) (a3) : CohOk p (Coh.soleTag c a2 a3) := by
  unfold Coh.soleTag
  repeat' first
    | with_reducible assumption
    | intro _
    | with_reducible first | apply Coh.setTag_ok
    | extract_lets +onlyGivenNames z; first | (clear_value z; rename' z => w) | rename' z => w
    | split

theorem Coh.freeDir_ok {c : Coh} (hc : CohOk p c) (a2 : State) (a3) : CohOk p (Coh.freeDir c a2 a3) := by
  unfold Coh.freeDir
  repeat' first
    | with_reducible assumption
    | with_reducible first | apply Coh.soleTag_ok | apply Coh.clearDir_ok | apply Coh.woken_ok

theorem Coh.writeDir_ok {c : Coh} (hc : CohOk p c) (a2 : State) (a3 a4) : CohOk p (Coh.writeDir c a2 a3 a4) := by
  unfold Coh.writeDir
  repeat' first
    | with_reducible assumption
    | with_reducible first | apply Coh.freeDir_ok | apply Coh.putDir_ok
    | split

theorem Coh.toNodes_ok {c : Coh} (hc : CohOk p c) (a2 : State) (a3 a4 a5) (a6 : Sys2Proof.Machine.StileHdr → Sys2Proof.Machine.StileHdr) : CohOk p (Coh.toNodes c a2 a3 a4 a5 a6) := by
  unfold Coh.toNodes
  repeat' first
    | with_reducible assumption
    | intro _
    | with_reducible first | apply Coh.sendNode_ok | refine foldl_keeps (Q := fun x : Coh => CohOk p x) ?_ ?_
    | with_reducible apply_assumption -exfalso

theorem Coh.takeDir_ok {c : Coh} (hc : CohOk p c) (a2 : State) (a3) : CohOk p (Coh.takeDir c a2 a3).2 := by
  unfold Coh.takeDir
  repeat' first
    | with_reducible assumption
    | intro _
    | with_reducible first | apply Coh.toNodes_ok | apply Coh.clearDir_ok | apply Coh.putDir_ok | apply Coh.sctr_ok | refine foldl_keeps (Q := fun x : Coh => CohOk p x) ?_ ?_
    | extract_lets +onlyGivenNames z; first
      | (refine cut (Q := CohOk p z) ?_ ?_; (on_goal 2 => (intro hz; clear_value z; rename' z => w)); unfold z; clear z)
      | (clear_value z; rename' z => w)
      | rename' z => w
    | split
    | with_reducible first | refine CohOk.of_mk ?_ rfl rfl rfl rfl rfl rfl
theorem Coh.takeDir_okE {yl t} {c : Coh}  {a2 : State} {a3} (e : (Coh.takeDir c a2 a3) = (yl, t)) (hc : CohOk p c) : CohOk p t := by
  have := Coh.takeDir_ok hc a2 a3; rw [e] at this; exact this

theorem Coh.newDir_ok {c : Coh} (hc : CohOk p c) (a2 a3) (a4 a5) : CohOk p (Coh.newDir c a2 a3 a4 a5) := by
  unfold Coh.newDir
  repeat' first
    | with_reducible assumption
    | with_reducible first | apply Coh.putDir_ok | apply Coh.sctr_ok
    | split

theorem Coh.addDirSharer_ok {c : Coh} (hc : CohOk p c) (a2 : State) (a3 a4) : CohOk p (Coh.addDirSharer c a2 a3 a4) := by
  unfold Coh.addDirSharer
  repeat' first
    | with_reducible assumption
    | with_reducible first | apply Coh.putDir_ok | apply Coh.sctr_ok
    | extract_lets +onlyGivenNames z; first | (clear_value z; rename' z => w) | rename' z => w
    | split

theorem Coh.ownDir_ok {c : Coh} (hc : CohOk p c) (a2 : State) (a3 a4 a5) : CohOk p (Coh.ownDir c a2 a3 a4 a5) := by
  unfold Coh.ownDir
  repeat' first
    | with_reducible assumption
    | with_reducible first | apply Coh.freeDir_ok | apply Coh.putDir_ok
    | split

theorem Coh.dropDirOwner_ok {c : Coh} (hc : CohOk p c) (a2 : State) (a3) : CohOk p (Coh.dropDirOwner c a2 a3) := by
  unfold Coh.dropDirOwner
  repeat' first
    | with_reducible assumption
    | with_reducible first | apply Coh.writeDir_ok | apply Coh.freeDir_ok
    | extract_lets +onlyGivenNames z; first | (clear_value z; rename' z => w) | rename' z => w
    | split

theorem Coh.writeBack_ok {c : Coh} (hc : CohOk p c) (a2 a3) : CohOk p (Coh.writeBack c a2 a3) := by
  unfold Coh.writeBack
  repeat' first
    | with_reducible assumption
    | with_reducible first | apply Coh.writeMem_ok

end Sys2Proof.Machine
end

