-- ==== Sys2Proof/Laws/KeepCohHome.lean ====
section
/-! SUPPORT. What the operations of Machine/CohHome.lean keep (Laws/Keep.lean says what is kept). -/

set_option linter.all false

namespace Sys2Proof.Machine
open Sys2Proof

variable {p : Prop} {k : Kept}

theorem Coh.predict_ok {c : Coh} (hc : CohOk p c) (a2) : CohOk p (Coh.predict c a2) := by
  unfold Coh.predict
  repeat' first
    | with_reducible assumption
    | intro _
    | extract_lets +onlyGivenNames z; first | (clear_value z; rename' z => w) | rename' z => w
    | split
    | with_reducible first | refine CohOk.of_mk ?_ rfl rfl rfl rfl rfl rfl

theorem Coh.toRequester_ok {c : Coh} (hc : CohOk p c) (a2 : State) (a3 a4) (a5 : Sys2Proof.Machine.StileHdr → Sys2Proof.Machine.StileHdr) (a6) : CohOk p (Coh.toRequester c a2 a3 a4 a5 a6) := by
  unfold Coh.toRequester
  repeat' first
    | with_reducible assumption
    | with_reducible first | apply Coh.sendNode_ok
    | with_reducible apply_assumption -exfalso
    | split

theorem Coh.cmpStatus_ok {c : Coh} (hc : CohOk p c) (a2 : State) (a3 a4) : CohOk p (Coh.cmpStatus c a2 a3 a4) := by
  unfold Coh.cmpStatus
  repeat' first
    | with_reducible assumption
    | intro _
    | with_reducible first | apply Coh.toRequester_ok

theorem Coh.consume_ok {c : Coh} (hc : CohOk p c) (a2 : State) (a3 a4 a5) : CohOk p (Coh.consume c a2 a3 a4 a5) := by
  unfold Coh.consume
  repeat' first
    | with_reducible assumption
    | with_reducible first | apply Coh.ctr_ok | apply Coh.emit_ok
    | extract_lets +onlyGivenNames z; first | (clear_value z; rename' z => w) | rename' z => w
    | split

theorem Coh.addHome_ok {c : Coh} (hc : CohOk p c) (a2) : CohOk p (Coh.addHome c a2) := by
  unfold Coh.addHome
  repeat' first
    | with_reducible assumption
    | with_reducible first | refine CohOk.of_mk ?_ rfl rfl rfl rfl rfl rfl

theorem Coh.dropHolders_ok {c : Coh} (hc : CohOk p c) (a2 : State) (a3) : CohOk p (Coh.dropHolders c a2 a3).2.2 := by
  unfold Coh.dropHolders
  repeat' first
    | with_reducible assumption
    | with_reducible first | apply Coh.readSlot_ok | apply Coh.dropHeld_ok | apply Coh.freeTag_ok
    | (with_reducible refine Coh.readSlot_okE (by with_reducible assumption) ?_)
    | extract_lets +onlyGivenNames z; first
      | (refine cut (Q := CohOk p z.2) ?_ ?_; (on_goal 2 => (intro hz; clear_value z; rename' z => w)); unfold z; clear z)
      | (clear_value z; rename' z => w)
      | rename' z => w
    | split
theorem Coh.dropHolders_okE {yl yrl t} {c : Coh}  {a2 : State} {a3} (e : (Coh.dropHolders c a2 a3) = (yl, (yrl, t))) (hc : CohOk p c) : CohOk p t := by
  have := Coh.dropHolders_ok hc a2 a3; rw [e] at this; exact this

theorem Coh.shareTag_ok {c : Coh} (hc : CohOk p c) (a2 : State) (a3) : CohOk p (Coh.shareTag c a2 a3) := by
  unfold Coh.shareTag
  repeat' first
    | with_reducible assumption
    | intro _
    | with_reducible first | apply Coh.setTag_ok
    | extract_lets +onlyGivenNames z; first | (clear_value z; rename' z => w) | rename' z => w
    | split

theorem Coh.cleanTag_ok {c : Coh} (hc : CohOk p c) (a2 : State) (a3) : CohOk p (Coh.cleanTag c a2 a3) := by
  unfold Coh.cleanTag
  repeat' first
    | with_reducible assumption
    | intro _
    | with_reducible first | apply Coh.writeBack_ok | apply Coh.readSlot_ok | apply Coh.setTag_ok
    | (with_reducible refine Coh.readSlot_okE (by with_reducible assumption) ?_)
    | extract_lets +onlyGivenNames z; first
      | (refine cut (Q := CohOk p z.2) ?_ ?_; (on_goal 2 => (intro hz; clear_value z; rename' z => w)); unfold z; clear z)
      | (clear_value z; rename' z => w)
      | rename' z => w
    | split

theorem Coh.cleanWith_ok {c : Coh} (hc : CohOk p c) (a2 : State) (a3 a4) : CohOk p (Coh.cleanWith c a2 a3 a4) := by
  unfold Coh.cleanWith
  repeat' first
    | with_reducible assumption
    | intro _
    | with_reducible first | apply Coh.writeBack_ok | apply Coh.writeSlot_ok | apply Coh.setTag_ok
    | extract_lets +onlyGivenNames z; first
      | (refine cut (Q := CohOk p z) ?_ ?_; (on_goal 2 => (intro hz; clear_value z; rename' z => w)); unfold z; clear z)
      | (clear_value z; rename' z => w)
      | rename' z => w
    | split

theorem Coh.snoopHome_ok {c : Coh} (hc : CohOk p c) (a2 : State) (a3 a4) : CohOk p (Coh.snoopHome c a2 a3 a4) := by
  unfold Coh.snoopHome
  repeat' first
    | with_reducible assumption
    | intro _
    | with_reducible first | apply Coh.startFlow_ok | apply Coh.setHome_ok
    | split

theorem Coh.forward_ok {c : Coh} (hc : CohOk p c) (a2 : State) (a3 a4) (a5 a6) (a7 a8) : CohOk p (Coh.forward c a2 a3 a4 a5 a6 a7 a8) := by
  unfold Coh.forward
  repeat' first
    | with_reducible assumption
    | with_reducible first | apply Coh.sendNode_ok | apply Coh.sctr_ok
    | extract_lets +onlyGivenNames z; first | (clear_value z; rename' z => w) | rename' z => w
    | split

theorem Coh.invalidate_ok {c : Coh} (hc : CohOk p c) (a2 : State) (a3 a4 a5) : CohOk p (Coh.invalidate c a2 a3 a4 a5) := by
  unfold Coh.invalidate
  repeat' first
    | with_reducible assumption
    | intro _
    | with_reducible first | apply Coh.toNodes_ok | apply Coh.sctr_ok

theorem Coh.recall_ok {c : Coh} (hc : CohOk p c) (a2 : State) (a3 a4 a5) : CohOk p (Coh.recall c a2 a3 a4 a5) := by
  unfold Coh.recall
  repeat' first
    | with_reducible assumption
    | intro _
    | with_reducible first | apply Coh.toNodes_ok | apply Coh.sctr_ok

theorem Coh.homeStart_ok {c : Coh} (hc : CohOk p c) (a2 : State) (a3 a4) : CohOk p (Coh.homeStart c a2 a3 a4) := by
  unfold Coh.homeStart
  repeat' first
    | with_reducible assumption
    | intro _
    | with_reducible first | apply Coh.recall_ok | apply Coh.invalidate_ok | apply Coh.forward_ok | apply Coh.snoopHome_ok | apply Coh.cleanTag_ok | apply Coh.shareTag_ok | apply Coh.dropHolders_ok | apply Coh.addHome_ok | apply Coh.toRequester_ok | apply Coh.dropDirOwner_ok | apply Coh.ownDir_ok | apply Coh.addDirSharer_ok | apply Coh.newDir_ok | apply Coh.takeDir_ok | apply Coh.freeDir_ok | apply Coh.putDir_ok
    | (with_reducible refine Coh.dropHolders_okE (by with_reducible assumption) ?_)
    | (with_reducible refine Coh.takeDir_okE (by with_reducible assumption) ?_)
    | extract_lets +onlyGivenNames z; first
      | (refine cut (Q := CohOk p z) ?_ ?_; (on_goal 2 => (intro hz; clear_value z; rename' z => w)); unfold z; clear z)
      | (refine cut (Q := CohOk p z.2.2) ?_ ?_; (on_goal 2 => (intro hz; clear_value z; rename' z => w)); unfold z; clear z)
      | (clear_value z; rename' z => w)
      | rename' z => w
    | split

theorem Coh.homeLocal_ok {c : Coh} (hc : CohOk p c) (a2 : State) (a3) : CohOk p (Coh.homeLocal c a2 a3) := by
  unfold Coh.homeLocal
  repeat' first
    | with_reducible assumption
    | intro _
    | with_reducible first | apply Coh.dropHome_ok | apply Coh.setTxn_ok | apply Coh.setTag_ok
    | extract_lets +onlyGivenNames z; first
      | (refine cut (Q := CohOk p z) ?_ ?_; (on_goal 2 => (intro hz; clear_value z; rename' z => w)); unfold z; clear z)
      | (clear_value z; rename' z => w)
      | rename' z => w
    | split

theorem Coh.homeFetch_ok {c : Coh} (hc : CohOk p c) (a2 : State) (a3) : CohOk p (Coh.homeFetch c a2 a3) := by
  unfold Coh.homeFetch
  repeat' first
    | with_reducible assumption
    | intro _
    | with_reducible first | apply Coh.queueMem_ok | apply Coh.queueSlot_ok | apply Coh.setHome_ok | apply Coh.woken_ok
    | extract_lets +onlyGivenNames z; first
      | (refine cut (Q := ∀ x0, CohOk p x0 → ∀ x1, CohOk p (z x0 x1)) ?_ ?_; (on_goal 2 => (intro hz; clear_value z; rename' z => w)); unfold z; clear z)
      | (clear_value z; rename' z => w)
      | rename' z => w
    | with_reducible apply_assumption -exfalso
    | split

theorem Coh.homeFinish_ok {c : Coh} (hc : CohOk p c) (a2 : State) (a3) : CohOk p (Coh.homeFinish c a2 a3) := by
  unfold Coh.homeFinish
  repeat' first
    | with_reducible assumption
    | intro _
    | with_reducible first | apply Coh.homeFetch_ok | apply Coh.homeLocal_ok | apply Coh.cleanWith_ok | apply Coh.consume_ok | apply Coh.toRequester_ok | apply Coh.writeBack_ok | apply Coh.readMem_ok | apply Coh.dropHome_ok | apply Coh.setHome_ok | apply Coh.sctr_ok
    | (with_reducible refine Coh.readMem_okE (by with_reducible assumption) ?_)
    | extract_lets +onlyGivenNames z; first
      | (refine cut (Q := CohOk p z.2) ?_ ?_; (on_goal 2 => (intro hz; clear_value z; rename' z => w)); unfold z; clear z)
      | (refine cut (Q := CohOk p z) ?_ ?_; (on_goal 2 => (intro hz; clear_value z; rename' z => w)); unfold z; clear z)
      | (clear_value z; rename' z => w)
      | rename' z => w
    | split

theorem Coh.homeProgress_ok {c : Coh} (hc : CohOk p c) (a2 : State) (a3) : CohOk p (Coh.homeProgress c a2 a3) := by
  unfold Coh.homeProgress
  repeat' first
    | with_reducible assumption
    | intro _
    | with_reducible first | apply Coh.homeFinish_ok | apply Coh.homeLocal_ok | apply Coh.toRequester_ok | apply Coh.soleTag_ok | apply Coh.dropHome_ok | apply Coh.setHome_ok | apply Coh.woken_ok
    | extract_lets +onlyGivenNames z; first
      | (refine cut (Q := CohOk p z) ?_ ?_; (on_goal 2 => (intro hz; clear_value z; rename' z => w)); unfold z; clear z)
      | (clear_value z; rename' z => w)
      | rename' z => w
    | split

theorem Coh.homeErr_ok {c : Coh} (hc : CohOk p c) (a2 : State) (a3 a4) : CohOk p (Coh.homeErr c a2 a3 a4) := by
  unfold Coh.homeErr
  repeat' first
    | with_reducible assumption
    | with_reducible first | apply Coh.protoErr_ok
    | extract_lets +onlyGivenNames z; first | (clear_value z; rename' z => w) | rename' z => w
    | split

theorem Coh.recvInvAck_ok {c : Coh} (hc : CohOk p c) (a2 : State) (a3) : CohOk p (Coh.recvInvAck c a2 a3) := by
  unfold Coh.recvInvAck
  repeat' first
    | with_reducible assumption
    | intro _
    | with_reducible first | apply Coh.homeErr_ok | apply Coh.setHome_ok | apply Coh.woken_ok
    | split

theorem Coh.recvRecallAck_ok {c : Coh} (hc : CohOk p c) (a2 : State) (a3 a4) : CohOk p (Coh.recvRecallAck c a2 a3 a4) := by
  unfold Coh.recvRecallAck
  repeat' first
    | with_reducible assumption
    | intro _
    | with_reducible first | apply Coh.homeErr_ok | apply Coh.setHome_ok | apply Coh.woken_ok
    | split

theorem Coh.takeDirty_ok {c : Coh} (hc : CohOk p c) (a2 a3 a4) : CohOk p (Coh.takeDirty c a2 a3 a4) := by
  unfold Coh.takeDirty
  repeat' first
    | with_reducible assumption
    | intro _
    | with_reducible first | apply Coh.writeBack_ok | apply Coh.setHome_ok | apply Coh.sctr_ok
    | extract_lets +onlyGivenNames z; first
      | (refine cut (Q := CohOk p z) ?_ ?_; (on_goal 2 => (intro hz; clear_value z; rename' z => w)); unfold z; clear z)
      | (clear_value z; rename' z => w)
      | rename' z => w
    | split

theorem Coh.recvRecallData_ok {c : Coh} (hc : CohOk p c) (a2 : State) (a3 a4) : CohOk p (Coh.recvRecallData c a2 a3 a4) := by
  unfold Coh.recvRecallData
  repeat' first
    | with_reducible assumption
    | intro _
    | with_reducible first | apply Coh.takeDirty_ok | apply Coh.homeErr_ok | apply Coh.arrive_ok | apply Coh.setHome_ok | apply Coh.woken_ok
    | (with_reducible refine Coh.arrive_okE (by with_reducible assumption) ?_)
    | extract_lets +onlyGivenNames z; first
      | (refine cut (Q := CohOk p z.2) ?_ ?_; (on_goal 2 => (intro hz; clear_value z; rename' z => w)); unfold z; clear z)
      | (clear_value z; rename' z => w)
      | rename' z => w
    | split

theorem Coh.recvFwdMiss_ok {c : Coh} (hc : CohOk p c) (a2 : State) (a3) : CohOk p (Coh.recvFwdMiss c a2 a3) := by
  unfold Coh.recvFwdMiss
  repeat' first
    | with_reducible assumption
    | intro _
    | with_reducible first | apply Coh.homeErr_ok | apply Coh.setHome_ok | apply Coh.sctr_ok | apply Coh.woken_ok
    | split

theorem Coh.recvCmpAck_ok {c : Coh} (hc : CohOk p c) (a2 : State) (a3) : CohOk p (Coh.recvCmpAck c a2 a3) := by
  unfold Coh.recvCmpAck
  repeat' first
    | with_reducible assumption
    | with_reducible first | apply Coh.homeErr_ok | apply Coh.dropHome_ok
    | split

theorem Coh.wbAck_ok {c : Coh} (hc : CohOk p c) (a2 : State) (a3 a4) : CohOk p (Coh.wbAck c a2 a3 a4) := by
  unfold Coh.wbAck
  repeat' first
    | with_reducible assumption
    | with_reducible first | apply Coh.sendNode_ok | apply Coh.sctr_ok

theorem Coh.fwbColumn_ok {c : Coh} (hc : CohOk p c) (a2 : State) (a3 a4 a5) : CohOk p (Coh.fwbColumn c a2 a3 a4 a5) := by
  unfold Coh.fwbColumn
  repeat' first
    | with_reducible assumption
    | with_reducible first | apply Coh.wbAck_ok | apply Coh.writeBack_ok | apply Coh.writeDir_ok | apply Coh.freeDir_ok | apply Coh.sctr_ok
    | extract_lets +onlyGivenNames z; first
      | (refine cut (Q := CohOk p z) ?_ ?_; (on_goal 2 => (intro hz; clear_value z; rename' z => w)); unfold z; clear z)
      | (clear_value z; rename' z => w)
      | rename' z => w
    | split

theorem Coh.recvFWb_ok {c : Coh} (hc : CohOk p c) (a2 : State) (a3 a4 a5) : CohOk p (Coh.recvFWb c a2 a3 a4 a5) := by
  unfold Coh.recvFWb
  repeat' first
    | with_reducible assumption
    | with_reducible first | apply Coh.fwbColumn_ok | apply Coh.wbAck_ok | apply Coh.takeDirty_ok | apply Coh.writeBack_ok | apply Coh.dropHome_ok | apply Coh.sctr_ok | apply Coh.woken_ok
    | extract_lets +onlyGivenNames z; first | (clear_value z; rename' z => w) | rename' z => w
    | split

theorem Coh.fevColumn_ok {c : Coh} (hc : CohOk p c) (a2 : State) (a3 a4) : CohOk p (Coh.fevColumn c a2 a3 a4) := by
  unfold Coh.fevColumn
  repeat' first
    | with_reducible assumption
    | with_reducible first | apply Coh.wbAck_ok | apply Coh.dropDirOwner_ok | apply Coh.writeDir_ok | apply Coh.putDir_ok
    | extract_lets +onlyGivenNames z; first | (clear_value z; rename' z => w) | rename' z => w
    | split

theorem Coh.recvFEv_ok {c : Coh} (hc : CohOk p c) (a2 : State) (a3) : CohOk p (Coh.recvFEv c a2 a3) := by
  unfold Coh.recvFEv
  repeat' first
    | with_reducible assumption
    | with_reducible first | apply Coh.fevColumn_ok
    | extract_lets +onlyGivenNames z; first | (clear_value z; rename' z => w) | rename' z => w
    | split

theorem Coh.recallSetStart_ok {c : Coh} (hc : CohOk p c) (a2 : State) (a3 a4) : CohOk p (Coh.recallSetStart c a2 a3 a4) := by
  unfold Coh.recallSetStart
  repeat' first
    | with_reducible assumption
    | intro _
    | with_reducible first | apply Coh.sendNode_ok | refine foldl_keeps (Q := fun x : Coh => CohOk p x) ?_ ?_
    | extract_lets +onlyGivenNames z; first
      | (refine cut (Q := CohOk p z) ?_ ?_; (on_goal 2 => (intro hz; clear_value z; rename' z => w)); unfold z; clear z)
      | (clear_value z; rename' z => w)
      | rename' z => w
    | with_reducible first | refine CohOk.of_mk ?_ rfl rfl rfl rfl rfl rfl

theorem Coh.recallSetEnd_ok {c : Coh} (hc : CohOk p c) (a2 : State) (a3) : CohOk p (Coh.recallSetEnd c a2 a3) := by
  unfold Coh.recallSetEnd
  repeat' first
    | with_reducible assumption
    | intro _
    | with_reducible first | apply Coh.soleTag_ok | apply Coh.emits_ok | refine foldl_keeps (Q := fun x : Coh => CohOk p x) ?_ ?_ | apply CohOk.setTags | apply CohOk.setPp | apply CohOk.setSnf | apply CohOk.setDir
    | extract_lets +onlyGivenNames z; first
      | (refine cut (Q := CohOk p z) ?_ ?_; (on_goal 2 => (intro hz; clear_value z; rename' z => w)); unfold z; clear z)
      | (clear_value z; rename' z => w)
      | rename' z => w
    | split
    | with_reducible first | refine CohOk.of_mk ?_ rfl rfl rfl rfl rfl rfl

theorem Coh.setRecallAck_ok {c : Coh} (hc : CohOk p c) (a2 a3 a4) : CohOk p (Coh.setRecallAck c a2 a3 a4) := by
  unfold Coh.setRecallAck
  repeat' first
    | with_reducible assumption
    | extract_lets +onlyGivenNames z; first | (clear_value z; rename' z => w) | rename' z => w
    | split
    | with_reducible first | refine CohOk.of_mk ?_ rfl rfl rfl rfl rfl rfl

theorem Coh.setRecallData_ok {c : Coh} (hc : CohOk p c) (a2 a3) (a4 a5) : CohOk p (Coh.setRecallData c a2 a3 a4 a5) := by
  unfold Coh.setRecallData
  repeat' first
    | with_reducible assumption
    | with_reducible first | apply Coh.writeBack_ok | apply Coh.arrive_ok
    | (with_reducible refine Coh.arrive_okE (by with_reducible assumption) ?_)
    | extract_lets +onlyGivenNames z; first
      | (refine cut (Q := CohOk p z.2) ?_ ?_; (on_goal 2 => (intro hz; clear_value z; rename' z => w)); unfold z; clear z)
      | (refine cut (Q := CohOk p z) ?_ ?_; (on_goal 2 => (intro hz; clear_value z; rename' z => w)); unfold z; clear z)
      | (clear_value z; rename' z => w)
      | rename' z => w
    | split
    | with_reducible first | refine CohOk.of_mk ?_ rfl rfl rfl rfl rfl rfl

end Sys2Proof.Machine
end

