-- ==== Sys2Proof/Laws/KeepCohNode.lean ====
section
/-! SUPPORT. What the operations of Machine/CohNode.lean keep (Laws/Keep.lean says what is kept). -/

set_option linter.all false

namespace Sys2Proof.Machine
open Sys2Proof

variable {p : Prop} {k : Kept}

theorem Coh.pointOf_ok {c : Coh} (hc : CohOk p c) (a2) : CohOk p (Coh.pointOf c a2) := by
  unfold Coh.pointOf
  repeat' first
    | with_reducible assumption
    | with_reducible first | apply Coh.emit_ok
    | split

theorem Coh.failReq_ok {c : Coh} (hc : CohOk p c) (a2 a3) : CohOk p (Coh.failReq c a2 a3) := by
  unfold Coh.failReq
  repeat' first
    | with_reducible assumption
    | with_reducible first | apply Coh.pointOf_ok | apply Coh.emit_ok
    | split

theorem Coh.prefetchNone_ok {c : Coh} (hc : CohOk p c) (a2) : CohOk p (Coh.prefetchNone c a2) := by
  unfold Coh.prefetchNone
  repeat' first
    | with_reducible assumption
    | with_reducible first | apply Coh.emit_ok
    | split

theorem Coh.endJoined_ok {c : Coh} (hc : CohOk p c) (a2) : CohOk p (Coh.endJoined c a2) := by
  unfold Coh.endJoined
  repeat' first
    | with_reducible assumption
    | intro _
    | with_reducible first | apply Coh.prefetchNone_ok | refine foldl_keeps (Q := fun x : Coh => CohOk p x) ?_ ?_

theorem Coh.storesDone_ok {c : Coh} (hc : CohOk p c) (a2 a3) : CohOk p (Coh.storesDone c a2 a3) := by
  unfold Coh.storesDone
  repeat' first
    | with_reducible assumption
    | intro _
    | with_reducible first | apply Coh.emit_ok | refine foldl_keeps (Q := fun x : Coh => CohOk p x) ?_ ?_
    | split

theorem Coh.failTxn_ok {c : Coh} (hc : CohOk p c) (a2 a3) : CohOk p (Coh.failTxn c a2 a3) := by
  unfold Coh.failTxn
  repeat' first
    | with_reducible assumption
    | intro _
    | with_reducible first | apply Coh.storesDone_ok | apply Coh.failReq_ok | apply Coh.dropPress_ok | apply Coh.dropTxn_ok | apply Coh.freeTag_ok | apply Coh.emits_ok | refine foldl_keeps (Q := fun x : Coh => CohOk p x) ?_ ?_
    | extract_lets +onlyGivenNames z; first
      | (refine cut (Q := CohOk p z) ?_ ?_; (on_goal 2 => (intro hz; clear_value z; rename' z => w)); unfold z; clear z)
      | (clear_value z; rename' z => w)
      | rename' z => w
    | split

theorem Coh.voidPress_ok {c : Coh} (hc : CohOk p c) (a2 : State) (a3) : CohOk p (Coh.voidPress c a2 a3) := by
  unfold Coh.voidPress
  repeat' first
    | with_reducible assumption
    | with_reducible first | apply Coh.storesDone_ok | apply Coh.dropPress_ok | apply Coh.freeTag_ok | apply Coh.emits_ok
    | extract_lets +onlyGivenNames z; first
      | (refine cut (Q := CohOk p z) ?_ ?_; (on_goal 2 => (intro hz; clear_value z; rename' z => w)); unfold z; clear z)
      | (clear_value z; rename' z => w)
      | rename' z => w
    | split

theorem Coh.dropNodeCopy_ok {c : Coh} (hc : CohOk p c) (a2 : State) (a3) : CohOk p (Coh.dropNodeCopy c a2 a3) := by
  unfold Coh.dropNodeCopy
  repeat' first
    | with_reducible assumption
    | intro _
    | with_reducible first | apply Coh.voidPress_ok | apply Coh.dropInstall_ok | apply Coh.clearSnf_ok | apply Coh.dropHeld_ok | apply Coh.setNode_ok | apply Coh.setTxn_ok | apply Coh.freeTag_ok
    | extract_lets +onlyGivenNames z; first
      | (refine cut (Q := CohOk p z) ?_ ?_; (on_goal 2 => (intro hz; clear_value z; rename' z => w)); unfold z; clear z)
      | (clear_value z; rename' z => w)
      | rename' z => w
    | split
    | with_reducible first | refine CohOk.of_mk ?_ rfl rfl rfl rfl rfl rfl

theorem Coh.toHomeNode_ok {c : Coh} (hc : CohOk p c) (a2 : State) (a3 a4) (a5 : Sys2Proof.Machine.StileHdr → Sys2Proof.Machine.StileHdr) (a6) : CohOk p (Coh.toHomeNode c a2 a3 a4 a5 a6) := by
  unfold Coh.toHomeNode
  repeat' first
    | with_reducible assumption
    | with_reducible first | apply Coh.sendNode_ok
    | with_reducible apply_assumption -exfalso

theorem Coh.ownerData_ok {c : Coh} (hc : CohOk p c) (a2 : State) (a3 a4) (a5 a6) (a7 a8) : CohOk p (Coh.ownerData c a2 a3 a4 a5 a6 a7 a8) := by
  unfold Coh.ownerData
  repeat' first
    | with_reducible assumption
    | with_reducible first | apply Coh.sendNode_ok

theorem Coh.answerI_ok {c : Coh} (hc : CohOk p c) (a2 : State) (a3 a4) : CohOk p (Coh.answerI c a2 a3 a4) := by
  unfold Coh.answerI
  repeat' first
    | with_reducible assumption
    | intro _
    | with_reducible first | apply Coh.toHomeNode_ok
    | split

theorem Coh.endNode_ok {c : Coh} (hc : CohOk p c) (a2) : CohOk p (Coh.endNode c a2) := by
  unfold Coh.endNode
  repeat' first
    | with_reducible assumption
    | with_reducible first | apply Coh.dropNode_ok | apply Coh.emit_ok
    | extract_lets +onlyGivenNames z; first
      | (refine cut (Q := CohOk p z) ?_ ?_; (on_goal 2 => (intro hz; clear_value z; rename' z => w)); unfold z; clear z)
      | (clear_value z; rename' z => w)
      | rename' z => w
    | split

theorem Coh.markAnswered_ok {c : Coh} (hc : CohOk p c) (a2) : CohOk p (Coh.markAnswered c a2) := by
  unfold Coh.markAnswered
  repeat' first
    | with_reducible assumption
    | intro _
    | with_reducible first | apply Coh.setNode_ok

theorem Coh.answerDone_ok {c : Coh} (hc : CohOk p c) (a2 : State) (a3 a4) (a5 a6) (a7 a8) (a9 a10) : CohOk p (Coh.answerDone c a2 a3 a4 a5 a6 a7 a8 a9 a10) := by
  unfold Coh.answerDone
  repeat' first
    | with_reducible assumption
    | intro _
    | with_reducible first | apply Coh.markAnswered_ok | apply Coh.endNode_ok | apply Coh.answerI_ok | apply Coh.ownerData_ok | apply Coh.toHomeNode_ok | apply Coh.dropNodeCopy_ok | apply Coh.startFlow_ok | apply Coh.lostData_ok | apply Coh.setNodeState_ok | apply Coh.queueSlot_ok | apply Coh.dropHamper_ok | apply Coh.setPress_ok | apply Coh.setNode_ok
    | extract_lets +onlyGivenNames z; first
      | (refine cut (Q := CohOk p z) ?_ ?_; (on_goal 2 => (intro hz; clear_value z; rename' z => w)); unfold z; clear z)
      | (clear_value z; rename' z => w)
      | rename' z => w
    | split

theorem Coh.answer_ok {c : Coh} (hc : CohOk p c) (a2 : State) (a3 a4) (a5 a6 a7) : CohOk p (Coh.answer c a2 a3 a4 a5 a6 a7) := by
  unfold Coh.answer
  repeat' first
    | with_reducible assumption
    | with_reducible first | apply Coh.answerDone_ok | apply Coh.startFlow_ok
    | extract_lets +onlyGivenNames z; first
      | (refine cut (Q := CohOk p z) ?_ ?_; (on_goal 2 => (intro hz; clear_value z; rename' z => w)); unfold z; clear z)
      | (clear_value z; rename' z => w)
      | rename' z => w
    | split
    | with_reducible first | refine CohOk.of_mk ?_ rfl rfl rfl rfl rfl rfl

theorem Coh.answerShared_ok {c : Coh} (hc : CohOk p c) (a2 : State) (a3 a4) : CohOk p (Coh.answerShared c a2 a3 a4) := by
  unfold Coh.answerShared
  repeat' first
    | with_reducible assumption
    | with_reducible first | apply Coh.answerI_ok | apply Coh.dropNodeCopy_ok | apply Coh.startFlow_ok
    | extract_lets +onlyGivenNames z; first | (clear_value z; rename' z => w) | rename' z => w
    | split

theorem Coh.snpErr_ok {c : Coh} (hc : CohOk p c) (a2 : State) (a3 a4 a5) : CohOk p (Coh.snpErr c a2 a3 a4 a5) := by
  unfold Coh.snpErr
  repeat' first
    | with_reducible assumption
    | with_reducible first | apply Coh.answerI_ok | apply Coh.protoErr_ok

theorem Coh.recvSnp_ok {c : Coh} (hc : CohOk p c) (a2 : State) (a3 a4) (a5 a6) : CohOk p (Coh.recvSnp c a2 a3 a4 a5 a6) := by
  unfold Coh.recvSnp
  repeat' first
    | with_reducible assumption
    | with_reducible first | apply Coh.snpErr_ok | apply Coh.answerShared_ok | apply Coh.answer_ok | apply Coh.markAnswered_ok | apply Coh.endNode_ok | apply Coh.answerI_ok
    | extract_lets +onlyGivenNames z; first | (clear_value z; rename' z => w) | rename' z => w
    | split

theorem Coh.recallSetAck_ok {c : Coh} (hc : CohOk p c) (a2 : State) (a3 a4) (a5 a6 a7) : CohOk p (Coh.recallSetAck c a2 a3 a4 a5 a6 a7) := by
  unfold Coh.recallSetAck
  repeat' first
    | with_reducible assumption
    | with_reducible first | apply Coh.sendNode_ok

theorem Coh.recallSetLine_ok {c : Coh} (hc : CohOk p c) (a2 : State) (a3 a4 a5 a6 a7) :
    CohOk p (Coh.recallSetLine c a2 a3 a4 a5 a6 a7).1 := by
  have hd : ∀ {c : Coh}, CohOk p c → CohOk p (c.dropNodeCopy a2 a5) := fun h => Coh.dropNodeCopy_ok h _ _
  unfold Coh.recallSetLine
  generalize c.gather a2 a5 a6 a7 none = g
  rcases g with ⟨cl, _ | _⟩ | ⟨sl, _ | _⟩ | _
  · exact hd hc
  · exact Coh.sendNode_ok (hd hc) _ _ _
  · exact hd hc
  · exact Coh.sendNode_ok (hd (Coh.readSlot_ok hc _ _)) _ _ _
  · show CohOk p (if _ then (_ : Coh × Nat) else _).1
    split
    · exact Coh.sendNode_ok (hd (Coh.lostData_ok hc _ _)) _ _ _
    · exact hd hc

theorem Coh.recallSetLine_okE {t y} {c : Coh} {a2 : State} {a3 a4 a5 a6 a7}
    (e : Coh.recallSetLine c a2 a3 a4 a5 a6 a7 = (t, y)) (hc : CohOk p c) : CohOk p t := by
  have := Coh.recallSetLine_ok hc a2 a3 a4 a5 a6 a7; rw [e] at this; exact this

theorem Coh.recvRecallSet_ok {c : Coh} (hc : CohOk p c) (a2 : State) (a3 a4) (a5 a6) : CohOk p (Coh.recvRecallSet c a2 a3 a4 a5 a6) := by
  unfold Coh.recvRecallSet
  repeat' first
    | with_reducible assumption
    | intro _
    | with_reducible first | apply Coh.recallSetLine_ok | apply Coh.recallSetAck_ok | apply Coh.putSnoop_ok | refine foldl_keeps (Q := fun x : (Coh × _) => CohOk p x.1) ?_ ?_ | refine foldl_keeps (Q := fun x : Coh => CohOk p x) ?_ ?_
    | (with_reducible refine Coh.recallSetLine_okE (by with_reducible assumption) ?_)
    | extract_lets +onlyGivenNames z; first
      | (refine cut (Q := CohOk p z.1) ?_ ?_; (on_goal 2 => (intro hz; clear_value z; rename' z => w)); unfold z; clear z)
      | (refine cut (Q := CohOk p z) ?_ ?_; (on_goal 2 => (intro hz; clear_value z; rename' z => w)); unfold z; clear z)
      | (clear_value z; rename' z => w)
      | rename' z => w
    | split
    | with_reducible first | refine CohOk.of_mk ?_ rfl rfl rfl rfl rfl rfl

theorem Coh.dropTrk_ok {c : Coh} (hc : CohOk p c) (a2) : CohOk p (Coh.dropTrk c a2) := by
  unfold Coh.dropTrk
  repeat' first
    | with_reducible assumption
    | with_reducible first | refine CohOk.of_mk ?_ rfl rfl rfl rfl rfl rfl

theorem Coh.nodeErr_ok {c : Coh} (hc : CohOk p c) (a2 : State) (a3 a4) : CohOk p (Coh.nodeErr c a2 a3 a4) := by
  unfold Coh.nodeErr
  repeat' first
    | with_reducible assumption
    | with_reducible first | apply Coh.protoErr_ok
    | extract_lets +onlyGivenNames z; first | (clear_value z; rename' z => w) | rename' z => w
    | split

theorem Coh.cmpAck_ok {c : Coh} (hc : CohOk p c) (a2 : State) (a3 a4 a5) : CohOk p (Coh.cmpAck c a2 a3 a4 a5) := by
  unfold Coh.cmpAck
  repeat' first
    | with_reducible assumption
    | intro _
    | with_reducible first | apply Coh.toHome_ok

theorem Coh.accept_ok {c : Coh} (hc : CohOk p c) (a2 a3) (a4 a5 a6) : CohOk p (Coh.accept c a2 a3 a4 a5 a6) := by
  unfold Coh.accept
  repeat' first
    | with_reducible assumption
    | intro _
    | with_reducible first | apply Coh.dropTrk_ok | apply Coh.setTxn_ok | apply Coh.woken_ok

theorem Coh.noteChain_ok {c : Coh} (hc : CohOk p c) (a2 : State) (a3) : CohOk p (Coh.noteChain c a2 a3) := by
  unfold Coh.noteChain
  repeat' first
    | with_reducible assumption
    | with_reducible first | apply Coh.emit_ok
    | extract_lets +onlyGivenNames z; first | (clear_value z; rename' z => w) | rename' z => w
    | split

theorem Coh.recvData_ok {c : Coh} (hc : CohOk p c) (a2 : State) (a3 a4) (a5 a6) (a7 a8) : CohOk p (Coh.recvData c a2 a3 a4 a5 a6 a7 a8) := by
  unfold Coh.recvData
  repeat' first
    | with_reducible assumption
    | intro _
    | with_reducible first | apply Coh.noteChain_ok | apply Coh.accept_ok | apply Coh.cmpAck_ok | apply Coh.nodeErr_ok | apply Coh.dropTrk_ok | apply Coh.homeErr_ok | apply Coh.arrive_ok | apply Coh.dropNode_ok | apply Coh.setNode_ok | apply Coh.setHome_ok | apply Coh.woken_ok
    | (with_reducible refine Coh.arrive_okE (by with_reducible assumption) ?_)
    | extract_lets +onlyGivenNames z; first
      | (refine cut (Q := CohOk p z.2) ?_ ?_; (on_goal 2 => (intro hz; clear_value z; rename' z => w)); unfold z; clear z)
      | (refine cut (Q := ∀ x0, CohOk p x0 → CohOk p (z x0)) ?_ ?_; (on_goal 2 => (intro hz; clear_value z; rename' z => w)); unfold z; clear z)
      | (clear_value z; rename' z => w)
      | rename' z => w
    | with_reducible apply_assumption -exfalso
    | split

theorem Coh.recvCmpLine_ok {c : Coh} (hc : CohOk p c) (a2 : State) (a3 a4 a5) : CohOk p (Coh.recvCmpLine c a2 a3 a4 a5) := by
  unfold Coh.recvCmpLine
  repeat' first
    | with_reducible assumption
    | intro _
    | with_reducible first | apply Coh.accept_ok | apply Coh.cmpAck_ok | apply Coh.nodeErr_ok | apply Coh.dropTrk_ok | apply Coh.failTxn_ok | apply Coh.setNodeState_ok | apply Coh.dropNode_ok | apply Coh.setNode_ok
    | extract_lets +onlyGivenNames z; first | (clear_value z; rename' z => w) | rename' z => w
    | split

theorem Coh.pressAcked_ok {c : Coh} (hc : CohOk p c) (a2 a3) : CohOk p (Coh.pressAcked c a2 a3) := by
  unfold Coh.pressAcked
  repeat' first
    | with_reducible assumption
    | intro _
    | with_reducible first | apply Coh.storesDone_ok | apply Coh.dropPress_ok | apply Coh.setPress_ok | apply Coh.sctr_ok | apply Coh.emits_ok
    | extract_lets +onlyGivenNames z; first
      | (refine cut (Q := CohOk p z) ?_ ?_; (on_goal 2 => (intro hz; clear_value z; rename' z => w)); unfold z; clear z)
      | (clear_value z; rename' z => w)
      | rename' z => w
    | split

theorem Coh.recvCmpOp_ok {c : Coh} (hc : CohOk p c) (a2 a3) (a4 a5 a6) : CohOk p (Coh.recvCmpOp c a2 a3 a4 a5 a6) := by
  unfold Coh.recvCmpOp
  repeat' first
    | with_reducible assumption
    | with_reducible first | apply Coh.pressAcked_ok | apply Coh.dropTrk_ok | apply Coh.pointOf_ok | apply Coh.emit_ok
    | extract_lets +onlyGivenNames z; first
      | (refine cut (Q := CohOk p z) ?_ ?_; (on_goal 2 => (intro hz; clear_value z; rename' z => w)); unfold z; clear z)
      | (clear_value z; rename' z => w)
      | rename' z => w
    | split

theorem Coh.endWb_ok {c : Coh} (hc : CohOk p c) (a2 : State) (a3) : CohOk p (Coh.endWb c a2 a3) := by
  unfold Coh.endWb
  repeat' first
    | with_reducible assumption
    | intro _
    | with_reducible first | apply Coh.pressAcked_ok | apply Coh.endNode_ok | apply Coh.tidySnf_ok | apply Coh.sendFEv_ok | apply Coh.setSnfOf_ok | apply Coh.setPress_ok | apply Coh.setTxn_ok
    | extract_lets +onlyGivenNames z; first
      | (refine cut (Q := CohOk p z) ?_ ?_; (on_goal 2 => (intro hz; clear_value z; rename' z => w)); unfold z; clear z)
      | (clear_value z; rename' z => w)
      | rename' z => w
    | split
    | with_reducible first | refine CohOk.of_mk ?_ rfl rfl rfl rfl rfl rfl

theorem Coh.recvWbAck_ok {c : Coh} (hc : CohOk p c) (a2 : State) (a3 a4) : CohOk p (Coh.recvWbAck c a2 a3 a4) := by
  unfold Coh.recvWbAck
  repeat' first
    | with_reducible assumption
    | intro _
    | with_reducible first | apply Coh.endWb_ok | apply Coh.pressAcked_ok | apply Coh.nodeErr_ok | apply Coh.endNode_ok | apply Coh.dropNode_ok | apply Coh.setNode_ok
    | split

theorem Coh.recvDecl_ok {c : Coh} (hc : CohOk p c) (a2 : State) (a3) : CohOk p (Coh.recvDecl c a2 a3) := by
  unfold Coh.recvDecl
  repeat' first
    | with_reducible assumption
    | with_reducible first | apply Coh.nodeErr_ok | apply Coh.dropTrk_ok | apply Coh.dropNode_ok | apply Coh.dropTxn_ok | apply Coh.freeTag_ok | apply Coh.emit_ok
    | extract_lets +onlyGivenNames z; first
      | (refine cut (Q := CohOk p z) ?_ ?_; (on_goal 2 => (intro hz; clear_value z; rename' z => w)); unfold z; clear z)
      | (clear_value z; rename' z => w)
      | rename' z => w
    | split
    | with_reducible first | refine CohOk.of_mk ?_ rfl rfl rfl rfl rfl rfl

end Sys2Proof.Machine
end

