-- ==== Sys2Proof/Laws/KeepCohPress.lean ====
section
/-! SUPPORT. What the operations of Machine/CohPress.lean keep (Laws/Keep.lean says what is kept). -/

set_option linter.all false

namespace Sys2Proof.Machine
open Sys2Proof

variable {p : Prop} {k : Kept}

theorem Coh.hamperGo_ok {c : Coh} (hc : CohOk p c) (a2 : State) (a3) : CohOk p (Coh.hamperGo c a2 a3) := by
  unfold Coh.hamperGo
  repeat' first
    | with_reducible assumption
    | intro _
    | with_reducible first | apply Coh.startFlow_ok | apply Coh.sendFWb_ok
    | extract_lets +onlyGivenNames z; first
      | (refine cut (Q := ∀ x0, CohOk p x0 → CohOk p (z x0)) ?_ ?_; (on_goal 2 => (intro hz; clear_value z; rename' z => w)); unfold z; clear z)
      | (clear_value z; rename' z => w)
      | rename' z => w
    | with_reducible apply_assumption -exfalso
    | split
    | with_reducible first | refine CohOk.of_mk ?_ rfl rfl rfl rfl rfl rfl

theorem Coh.hamperStart_ok {c : Coh} (hc : CohOk p c) (a2 : State) (a3) : CohOk p (Coh.hamperStart c a2 a3) := by
  unfold Coh.hamperStart
  repeat' first
    | with_reducible assumption
    | with_reducible first | apply Coh.hamperGo_ok
    | split

theorem Coh.hamperDone_ok {c : Coh} (hc : CohOk p c) (a2 : State) (a3) : CohOk p (Coh.hamperDone c a2 a3) := by
  unfold Coh.hamperDone
  repeat' first
    | with_reducible assumption
    | with_reducible first | apply Coh.writeBack_ok
    | extract_lets +onlyGivenNames z; first
      | (refine cut (Q := CohOk p z) ?_ ?_; (on_goal 2 => (intro hz; clear_value z; rename' z => w)); unfold z; clear z)
      | (clear_value z; rename' z => w)
      | rename' z => w
    | split
    | with_reducible first | refine CohOk.of_mk ?_ rfl rfl rfl rfl rfl rfl

theorem Coh.drainFWr_ok {c : Coh} (hc : CohOk p c) (a2 : State) (a3) : OptOk (CohOk p) (Coh.drainFWr c a2 a3) := by
  unfold Coh.drainFWr
  repeat' first
    | with_reducible assumption
    | intro _
    | with_reducible first | apply Coh.request_ok | exact OptOk.none | refine OptOk.some ?_
    | (with_reducible refine Coh.request_okE (by with_reducible assumption) ?_)
theorem Coh.drainFWr_okE {t} {c : Coh}  {a2 : State} {a3} (e : (Coh.drainFWr c a2 a3) = some t) (hc : CohOk p c) : CohOk p t := by
  have := Coh.drainFWr_ok hc a2 a3; rw [e] at this; exact this

theorem Coh.drainFWb_ok {c : Coh} (hc : CohOk p c) (a2 : State) (a3) : CohOk p (Coh.drainFWb c a2 a3) := by
  unfold Coh.drainFWb
  repeat' first
    | with_reducible assumption
    | with_reducible first | apply Coh.lostData_ok | apply Coh.sendFWb_ok
    | extract_lets +onlyGivenNames z; first
      | (refine cut (Q := CohOk p z) ?_ ?_; (on_goal 2 => (intro hz; clear_value z; rename' z => w)); unfold z; clear z)
      | (clear_value z; rename' z => w)
      | rename' z => w
    | split

theorem Coh.drainRead_ok {c : Coh} (hc : CohOk p c) (a2 : State) (a3) : OptOk (CohOk p) (Coh.drainRead c a2 a3) := by
  unfold Coh.drainRead
  repeat' first
    | with_reducible assumption
    | intro _
    | with_reducible first | apply Coh.queueMem_ok | apply Coh.setPress_ok | exact OptOk.none | refine OptOk.some ?_
    | extract_lets +onlyGivenNames z; first | (clear_value z; rename' z => w) | rename' z => w
    | split
theorem Coh.drainRead_okE {t} {c : Coh}  {a2 : State} {a3} (e : (Coh.drainRead c a2 a3) = some t) (hc : CohOk p c) : CohOk p t := by
  have := Coh.drainRead_ok hc a2 a3; rw [e] at this; exact this

theorem Coh.drainFetch_ok {c : Coh} (hc : CohOk p c) (a2 : State) (a3) : CohOk p (Coh.drainFetch c a2 a3) := by
  unfold Coh.drainFetch
  repeat' first
    | with_reducible assumption
    | intro _
    | with_reducible first | apply Coh.setPress_ok
    | extract_lets +onlyGivenNames z; first
      | (refine cut (Q := CohOk p z) ?_ ?_; (on_goal 2 => (intro hz; clear_value z; rename' z => w)); unfold z; clear z)
      | (clear_value z; rename' z => w)
      | rename' z => w
    | split
    | with_reducible first | refine CohOk.of_mk ?_ rfl rfl rfl rfl rfl rfl

theorem Coh.drainPlan_ok {c : Coh} (hc : CohOk p c) (a2 : State) (a3) : CohOk p (Coh.drainPlan c a2 a3) := by
  unfold Coh.drainPlan
  repeat' first
    | with_reducible assumption
    | intro _
    | with_reducible first | apply Coh.drainFetch_ok | apply Coh.drainRead_ok | apply Coh.drainFWb_ok | apply Coh.drainFWr_ok | apply Coh.allocSlot_ok | apply Coh.setPress_ok | apply Coh.checkRow_ok | apply Coh.setTag_ok | refine OptOk.getD (P := CohOk p) ?_ ?_
    | (with_reducible refine Coh.drainRead_okE (by with_reducible assumption) ?_)
    | (with_reducible refine Coh.drainFWr_okE (by with_reducible assumption) ?_)
    | (with_reducible refine Coh.allocSlot_okE (by with_reducible assumption) ?_)
    | extract_lets +onlyGivenNames z; first
      | (refine cut (Q := CohOk p z) ?_ ?_; (on_goal 2 => (intro hz; clear_value z; rename' z => w)); unfold z; clear z)
      | (refine cut (Q := ∀ x0, CohOk p x0 → ∀ x1, CohOk p (z x0 x1)) ?_ ?_; (on_goal 2 => (intro hz; clear_value z; rename' z => w)); unfold z; clear z)
      | (clear_value z; rename' z => w)
      | rename' z => w
    | with_reducible apply_assumption -exfalso
    | split

theorem Coh.drainStart_ok {c : Coh} (hc : CohOk p c) (a2 : State) (a3) : CohOk p (Coh.drainStart c a2 a3) := by
  unfold Coh.drainStart
  repeat' first
    | with_reducible assumption
    | with_reducible first | apply Coh.drainPlan_ok
    | split

theorem Coh.drainOldest_ok {c : Coh} (hc : CohOk p c) (a2 : State) (a3) : CohOk p (Coh.drainOldest c a2 a3) := by
  unfold Coh.drainOldest
  repeat' first
    | with_reducible assumption
    | with_reducible first | apply Coh.drainPlan_ok
    | split

theorem Coh.drainEnd_ok {c : Coh} (hc : CohOk p c) (a2) : CohOk p (Coh.drainEnd c a2) := by
  unfold Coh.drainEnd
  repeat' first
    | with_reducible assumption
    | with_reducible first | apply Coh.storesDone_ok | apply Coh.dropPress_ok | apply Coh.sctr_ok | apply Coh.emits_ok
    | extract_lets +onlyGivenNames z; first
      | (refine cut (Q := CohOk p z) ?_ ?_; (on_goal 2 => (intro hz; clear_value z; rename' z => w)); unfold z; clear z)
      | (clear_value z; rename' z => w)
      | rename' z => w
    | split

theorem Coh.drainBase_ok {c : Coh} (hc : CohOk p c) (a2 : State) (a3) : CohOk p (Coh.drainBase c a2 a3).2 := by
  unfold Coh.drainBase
  repeat' first
    | with_reducible assumption
    | with_reducible first | apply Coh.lostData_ok
    | split
theorem Coh.drainBase_okE {yl t} {c : Coh}  {a2 : State} {a3} (e : (Coh.drainBase c a2 a3) = (yl, t)) (hc : CohOk p c) : CohOk p t := by
  have := Coh.drainBase_ok hc a2 a3; rw [e] at this; exact this

theorem Coh.drainSlot_ok {c : Coh} (hc : CohOk p c) (a2 : State) (a3 a4 a5) : CohOk p (Coh.drainSlot c a2 a3 a4 a5) := by
  unfold Coh.drainSlot
  repeat' first
    | with_reducible assumption
    | intro _
    | with_reducible first | apply Coh.drainBase_ok | apply Coh.demandHit_ok | apply Coh.finishSlot_ok | apply Coh.clearNst_ok | apply Coh.readSlot_ok | apply Coh.writeSlot_ok | apply Coh.setTag_ok
    | (with_reducible refine Coh.drainBase_okE (by with_reducible assumption) ?_)
    | (with_reducible refine Coh.readSlot_okE (by with_reducible assumption) ?_)
    | extract_lets +onlyGivenNames z; first
      | (refine cut (Q := CohOk p z.2) ?_ ?_; (on_goal 2 => (intro hz; clear_value z; rename' z => w)); unfold z; clear z)
      | (refine cut (Q := CohOk p z) ?_ ?_; (on_goal 2 => (intro hz; clear_value z; rename' z => w)); unfold z; clear z)
      | (clear_value z; rename' z => w)
      | rename' z => w
    | split

theorem Coh.hintInstall_ok {c : Coh} (hc : CohOk p c) (a2 : State) (a3) : CohOk p (Coh.hintInstall c a2 a3) := by
  unfold Coh.hintInstall
  repeat' first
    | with_reducible assumption
    | with_reducible first | apply Coh.drainEnd_ok | apply Coh.writeBack_ok | apply Coh.finishSlot_ok | apply Coh.allocSlot_ok
    | (with_reducible refine Coh.allocSlot_okE (by with_reducible assumption) ?_)
    | extract_lets +onlyGivenNames z; first | (clear_value z; rename' z => w) | rename' z => w
    | split

theorem Coh.hintOffer_ok {c : Coh} (hc : CohOk p c) (a2 : State) (a3 a4) : CohOk p (Coh.hintOffer c a2 a3 a4) := by
  unfold Coh.hintOffer
  repeat' first
    | with_reducible assumption
    | with_reducible first | apply Coh.hintInstall_ok | apply Coh.takeSnf_ok | apply Coh.startFlow_ok | apply Coh.putSnf_ok
    | (with_reducible refine Coh.takeSnf_okE (by with_reducible assumption) ?_)
    | extract_lets +onlyGivenNames z; first | (clear_value z; rename' z => w) | rename' z => w
    | split

theorem Coh.pressUo_ok {c : Coh} (hc : CohOk p c) (a2 : State) (a3 a4) : CohOk p (Coh.pressUo c a2 a3 a4) := by
  unfold Coh.pressUo
  repeat' first
    | with_reducible assumption
    | intro _
    | with_reducible first | apply Coh.endJoined_ok | apply Coh.toHome_ok | apply Coh.dropTxn_ok | apply Coh.setPress_ok | apply Coh.emits_ok
    | split

theorem Coh.drainDone_ok {c : Coh} (hc : CohOk p c) (a2 : State) (a3) : CohOk p (Coh.drainDone c a2 a3) := by
  unfold Coh.drainDone
  repeat' first
    | with_reducible assumption
    | intro _
    | with_reducible first | apply Coh.pressUo_ok | apply Coh.hintOffer_ok | apply Coh.hintInstall_ok | apply Coh.drainSlot_ok | apply Coh.drainBase_ok | apply Coh.drainEnd_ok | apply Coh.drainPlan_ok | apply Coh.endJoined_ok | apply Coh.writeBack_ok | apply Coh.demandHit_ok | apply Coh.readSlot_ok | apply Coh.writeSlot_ok | apply Coh.dropTxn_ok | apply Coh.setPress_ok | apply Coh.checkRow_ok | apply Coh.setTag_ok
    | (with_reducible refine Coh.drainBase_okE (by with_reducible assumption) ?_)
    | (with_reducible refine Coh.readSlot_okE (by with_reducible assumption) ?_)
    | extract_lets +onlyGivenNames z; first
      | (refine cut (Q := CohOk p z) ?_ ?_; (on_goal 2 => (intro hz; clear_value z; rename' z => w)); unfold z; clear z)
      | (refine cut (Q := CohOk p z.2) ?_ ?_; (on_goal 2 => (intro hz; clear_value z; rename' z => w)); unfold z; clear z)
      | (clear_value z; rename' z => w)
      | rename' z => w
    | split

theorem Coh.mergeWb_ok {c : Coh} (hc : CohOk p c) (a2 : State) (a3 a4) (a5 a6 a7) : OptOk (CohOk p) (Coh.mergeWb c a2 a3 a4 a5 a6 a7) := by
  unfold Coh.mergeWb
  repeat' first
    | with_reducible assumption
    | intro _
    | with_reducible first | apply Coh.setPress_ok | apply Coh.sctr_ok | exact OptOk.none | refine OptOk.some ?_
    | extract_lets +onlyGivenNames z; first | (clear_value z; rename' z => w) | rename' z => w
    | split
    | with_reducible first | refine CohOk.of_mk ?_ rfl rfl rfl rfl rfl rfl
theorem Coh.mergeWb_okE {t} {c : Coh}  {a2 : State} {a3 a4} {a5 a6 a7} (e : (Coh.mergeWb c a2 a3 a4 a5 a6 a7) = some t) (hc : CohOk p c) : CohOk p t := by
  have := Coh.mergeWb_ok hc a2 a3 a4 a5 a6 a7; rw [e] at this; exact this

theorem Coh.passAgentWb_ok {c : Coh} (hc : CohOk p c) (a2 : State) (a3) : CohOk p (Coh.passAgentWb c a2 a3) := by
  unfold Coh.passAgentWb
  repeat' first
    | with_reducible assumption
    | with_reducible first | apply Coh.mergeWb_ok | apply Coh.drainOldest_ok | apply Coh.tidySnf_ok
    | (with_reducible refine Coh.mergeWb_okE (by with_reducible assumption) ?_)
    | extract_lets +onlyGivenNames z; first | (clear_value z; rename' z => w) | rename' z => w
    | split
    | with_reducible first | refine CohOk.of_mk ?_ rfl rfl rfl rfl rfl rfl

end Sys2Proof.Machine
end

