-- ==== Sys2Proof/Laws/KeepCohServe.lean ====
section
/-! SUPPORT. What the operations of Machine/CohServe.lean keep (Laws/Keep.lean says what is kept). -/

set_option linter.all false

namespace Sys2Proof.Machine
open Sys2Proof

variable {p : Prop} {k : Kept}

theorem Coh.noteRow_ok {c : Coh} (hc : CohOk p c) (a2 a3) (a4 a5) : CohOk p (Coh.noteRow c a2 a3 a4 a5) := by
  unfold Coh.noteRow
  repeat' first
    | with_reducible assumption
    | with_reducible first | apply Coh.emit_ok
    | split

theorem Coh.storeDone_ok {c : Coh} (hc : CohOk p c) (a2) : CohOk p (Coh.storeDone c a2) := by
  unfold Coh.storeDone
  repeat' first
    | with_reducible assumption
    | with_reducible first | apply Coh.emit_ok
    | split

theorem Coh.joinFill_ok {c : Coh} (hc : CohOk p c) (a2 a3) : CohOk p (Coh.joinFill c a2 a3) := by
  unfold Coh.joinFill
  repeat' first
    | with_reducible assumption
    | with_reducible first | apply Coh.emit_ok
    | split

theorem Coh.requeue_ok {c : Coh} (hc : CohOk p c) (a2) : CohOk p (Coh.requeue c a2) := by
  unfold Coh.requeue
  repeat' first
    | with_reducible assumption
    | with_reducible first | refine CohOk.of_mk ?_ rfl rfl rfl rfl rfl rfl

theorem Coh.retryTxn_ok {c : Coh} (hc : CohOk p c) (a2) : CohOk p (Coh.retryTxn c a2) := by
  unfold Coh.retryTxn
  repeat' first
    | with_reducible assumption
    | with_reducible first | apply Coh.freeTag_ok
    | extract_lets +onlyGivenNames z; first
      | (refine cut (Q := CohOk p z) ?_ ?_; (on_goal 2 => (intro hz; clear_value z; rename' z => w)); unfold z; clear z)
      | (clear_value z; rename' z => w)
      | rename' z => w
    | split
    | with_reducible first | refine CohOk.of_mk ?_ rfl rfl rfl rfl rfl rfl

theorem Coh.askHome_ok {c : Coh} (hc : CohOk p c) (a2 : State) (a3) : CohOk p (Coh.askHome c a2 a3) := by
  unfold Coh.askHome
  repeat' first
    | with_reducible assumption
    | intro _
    | with_reducible first | apply Coh.retryTxn_ok | apply Coh.addNodeTx_ok | apply Coh.request_ok | apply Coh.setTxn_ok
    | (with_reducible refine Coh.request_okE (by with_reducible assumption) ?_)
    | extract_lets +onlyGivenNames z; first | (clear_value z; rename' z => w) | rename' z => w
    | split

theorem Coh.askDirectory_ok {c : Coh} (hc : CohOk p c) (a2 : State) (a3) : CohOk p (Coh.askDirectory c a2 a3) := by
  unfold Coh.askDirectory
  repeat' first
    | with_reducible assumption
    | intro _
    | with_reducible first | apply Coh.retryTxn_ok | apply Coh.homeStart_ok | apply Coh.setTxn_ok
    | extract_lets +onlyGivenNames z; first
      | (refine cut (Q := ∀ x0, CohOk p x0 → CohOk p (z x0)) ?_ ?_; (on_goal 2 => (intro hz; clear_value z; rename' z => w)); unfold z; clear z)
      | (clear_value z; rename' z => w)
      | rename' z => w
    | with_reducible apply_assumption -exfalso
    | split
    | with_reducible first | refine CohOk.of_mk ?_ rfl rfl rfl rfl rfl rfl

theorem Coh.haveLine_ok {c : Coh} (hc : CohOk p c) (a2 a3) : CohOk p (Coh.haveLine c a2 a3) := by
  unfold Coh.haveLine
  repeat' first
    | with_reducible assumption
    | intro _
    | with_reducible first | apply Coh.setTxn_ok | apply Coh.woken_ok

theorem Coh.toAlu_ok {c : Coh} (hc : CohOk p c) (a2) : CohOk p (Coh.toAlu c a2) := by
  unfold Coh.toAlu
  repeat' first
    | with_reducible assumption
    | intro _
    | with_reducible first | apply Coh.setTxn_ok | apply Coh.woken_ok
    | extract_lets +onlyGivenNames z; first | (clear_value z; rename' z => w) | rename' z => w

theorem Coh.refetch_ok {c : Coh} (hc : CohOk p c) (a2 : State) (a3) : CohOk p (Coh.refetch c a2 a3) := by
  unfold Coh.refetch
  repeat' first
    | with_reducible assumption
    | with_reducible first | apply Coh.retryTxn_ok | apply Coh.startFlow_ok

theorem Coh.noData_ok {c : Coh} (hc : CohOk p c) (a2 : State) (a3) : CohOk p (Coh.noData c a2 a3) := by
  unfold Coh.noData
  repeat' first
    | with_reducible assumption
    | with_reducible first | apply Coh.refetch_ok | apply Coh.haveLine_ok | apply Coh.lostData_ok
    | split

theorem Coh.openFill_ok {c : Coh} (hc : CohOk p c) (a2 : State) (a3) : CohOk p (Coh.openFill c a2 a3) := by
  unfold Coh.openFill
  repeat' first
    | with_reducible assumption
    | intro _
    | with_reducible first | apply Coh.toAlu_ok | apply Coh.retryTxn_ok | apply Coh.allocSlot_ok | apply Coh.setTxn_ok | apply Coh.sctr_ok
    | (with_reducible refine Coh.allocSlot_okE (by with_reducible assumption) ?_)
    | extract_lets +onlyGivenNames z; first
      | (refine cut (Q := CohOk p z.2) ?_ ?_; (on_goal 2 => (intro hz; clear_value z; rename' z => w)); unfold z; clear z)
      | (clear_value z; rename' z => w)
      | rename' z => w
    | split

theorem Coh.fillMem_ok {c : Coh} (hc : CohOk p c) (a2 : State) (a3) : CohOk p (Coh.fillMem c a2 a3) := by
  unfold Coh.fillMem
  repeat' first
    | with_reducible assumption
    | intro _
    | with_reducible first | apply Coh.openFill_ok | apply Coh.queueMem_ok | apply Coh.setTxn_ok
    | extract_lets +onlyGivenNames z; first | (clear_value z; rename' z => w) | rename' z => w
    | split

theorem Coh.fetchLine_ok {c : Coh} (hc : CohOk p c) (a2 : State) (a3) : CohOk p (Coh.fetchLine c a2 a3) := by
  unfold Coh.fetchLine
  repeat' first
    | with_reducible assumption
    | intro _
    | with_reducible first | apply Coh.fillMem_ok | apply Coh.noData_ok | apply Coh.haveLine_ok | apply Coh.queueSlot_ok | apply Coh.setTxn_ok | apply Coh.woken_ok
    | extract_lets +onlyGivenNames z; first | (clear_value z; rename' z => w) | rename' z => w
    | split

theorem Coh.answered_ok {c : Coh} (hc : CohOk p c) (a2 : State) (a3 a4) : CohOk p (Coh.answered c a2 a3 a4) := by
  unfold Coh.answered
  repeat' first
    | with_reducible assumption
    | intro _
    | with_reducible first | apply Coh.setTxn_ok | apply Coh.freeTag_ok | apply Coh.woken_ok
    | extract_lets +onlyGivenNames z; first
      | (refine cut (Q := CohOk p z) ?_ ?_; (on_goal 2 => (intro hz; clear_value z; rename' z => w)); unfold z; clear z)
      | (clear_value z; rename' z => w)
      | rename' z => w
    | split

theorem Coh.serveJoined_ok {c : Coh} (hc : CohOk p c) (a2 a3) : CohOk p (Coh.serveJoined c a2 a3) := by
  unfold Coh.serveJoined
  repeat' first
    | with_reducible assumption
    | intro _
    | with_reducible first | apply Coh.prefetchNone_ok | apply Coh.pointOf_ok | apply Coh.emit_ok | refine foldl_keeps (Q := fun x : Coh => CohOk p x) ?_ ?_
    | extract_lets +onlyGivenNames z; first | (clear_value z; rename' z => w) | rename' z => w
    | split

theorem Coh.useOnce_ok {c : Coh} (hc : CohOk p c) (a2 : State) (a3 a4 a5) : CohOk p (Coh.useOnce c a2 a3 a4 a5) := by
  unfold Coh.useOnce
  repeat' first
    | with_reducible assumption
    | intro _
    | with_reducible first | apply Coh.serveJoined_ok | apply Coh.answered_ok | apply Coh.pointOf_ok | apply Coh.setTxn_ok | apply Coh.sctr_ok | apply Coh.emit_ok
    | extract_lets +onlyGivenNames z; first
      | (refine cut (Q := CohOk p z) ?_ ?_; (on_goal 2 => (intro hz; clear_value z; rename' z => w)); unfold z; clear z)
      | (clear_value z; rename' z => w)
      | rename' z => w
    | split

theorem Coh.grantAgent_ok {c : Coh} (hc : CohOk p c) (a2 : State) (a3 a4) : CohOk p (Coh.grantAgent c a2 a3 a4) := by
  unfold Coh.grantAgent
  repeat' first
    | with_reducible assumption
    | intro _
    | with_reducible first | apply Coh.useOnce_ok | apply Coh.serveJoined_ok | apply Coh.answered_ok | apply Coh.pointOf_ok | apply Coh.grantSnf_ok | apply Coh.takeSnf_ok | apply Coh.setTxn_ok | apply Coh.setTag_ok | apply Coh.sctr_ok | apply Coh.emit_ok
    | (with_reducible refine Coh.takeSnf_okE (by with_reducible assumption) ?_)
    | extract_lets +onlyGivenNames z; first
      | (refine cut (Q := CohOk p z.2) ?_ ?_; (on_goal 2 => (intro hz; clear_value z; rename' z => w)); unfold z; clear z)
      | (refine cut (Q := CohOk p z) ?_ ?_; (on_goal 2 => (intro hz; clear_value z; rename' z => w)); unfold z; clear z)
      | (clear_value z; rename' z => w)
      | rename' z => w
    | split

theorem Coh.answerRead_ok {c : Coh} (hc : CohOk p c) (a2 : State) (a3) : CohOk p (Coh.answerRead c a2 a3) := by
  unfold Coh.answerRead
  repeat' first
    | with_reducible assumption
    | with_reducible first | apply Coh.serveJoined_ok | apply Coh.answered_ok | apply Coh.pointOf_ok | apply Coh.sctr_ok | apply Coh.emit_ok
    | extract_lets +onlyGivenNames z; first
      | (refine cut (Q := CohOk p z) ?_ ?_; (on_goal 2 => (intro hz; clear_value z; rename' z => w)); unfold z; clear z)
      | (clear_value z; rename' z => w)
      | rename' z => w
    | split

theorem Coh.perform_ok {c : Coh} (hc : CohOk p c) (a2 : State) (a3) : CohOk p (Coh.perform c a2 a3) := by
  unfold Coh.perform
  repeat' first
    | with_reducible assumption
    | intro _
    | with_reducible first | apply Coh.answered_ok | apply Coh.pointOf_ok | apply Coh.dropHolders_ok | apply Coh.consume_ok | apply Coh.writeBack_ok | apply Coh.finishSlot_ok | apply Coh.sendNode_ok | apply Coh.writeSlot_ok | apply Coh.setTxn_ok | apply Coh.setTag_ok | apply Coh.sctr_ok | apply Coh.emit_ok
    | (with_reducible refine Coh.dropHolders_okE (by with_reducible assumption) ?_)
    | extract_lets +onlyGivenNames z; first
      | (refine cut (Q := CohOk p z) ?_ ?_; (on_goal 2 => (intro hz; clear_value z; rename' z => w)); unfold z; clear z)
      | (clear_value z; rename' z => w)
      | rename' z => w
    | split

theorem Coh.mntEnd_ok {c : Coh} (hc : CohOk p c) (a2) : CohOk p (Coh.mntEnd c a2) := by
  unfold Coh.mntEnd
  repeat' first
    | with_reducible assumption
    | with_reducible first | apply Coh.pointOf_ok | apply Coh.sctr_ok | apply Coh.emit_ok
    | extract_lets +onlyGivenNames z; first
      | (refine cut (Q := CohOk p z) ?_ ?_; (on_goal 2 => (intro hz; clear_value z; rename' z => w)); unfold z; clear z)
      | (clear_value z; rename' z => w)
      | rename' z => w
    | split

theorem Coh.sendOp_ok {c : Coh} (hc : CohOk p c) (a2 : State) (a3) : CohOk p (Coh.sendOp c a2 a3) := by
  unfold Coh.sendOp
  repeat' first
    | with_reducible assumption
    | intro _
    | with_reducible first | apply Coh.retryTxn_ok | apply Coh.request_ok | apply Coh.dropTxn_ok | apply Coh.sctr_ok
    | (with_reducible refine Coh.request_okE (by with_reducible assumption) ?_)
    | split

theorem Coh.cleanAway_ok {c : Coh} (hc : CohOk p c) (a2 : State) (a3 a4) : CohOk p (Coh.cleanAway c a2 a3 a4) := by
  unfold Coh.cleanAway
  repeat' first
    | with_reducible assumption
    | intro _
    | with_reducible first | apply Coh.sendOp_ok | apply Coh.tidySnf_ok | apply Coh.enterHamper_ok | apply Coh.readSlot_ok | apply Coh.writeSlot_ok | apply Coh.setTxn_ok | apply Coh.setTag_ok
    | (with_reducible refine Coh.readSlot_okE (by with_reducible assumption) ?_)
    | extract_lets +onlyGivenNames z; first
      | (refine cut (Q := CohOk p z.2) ?_ ?_; (on_goal 2 => (intro hz; clear_value z; rename' z => w)); unfold z; clear z)
      | (refine cut (Q := CohOk p z) ?_ ?_; (on_goal 2 => (intro hz; clear_value z; rename' z => w)); unfold z; clear z)
      | (clear_value z; rename' z => w)
      | rename' z => w
    | split

theorem Coh.invalHere_ok {c : Coh} (hc : CohOk p c) (a2 : State) (a3 a4) : CohOk p (Coh.invalHere c a2 a3 a4) := by
  unfold Coh.invalHere
  repeat' first
    | with_reducible assumption
    | with_reducible first | apply Coh.mntEnd_ok | apply Coh.dropHolders_ok | apply Coh.writeBack_ok | apply Coh.lostData_ok | apply Coh.leaveByFWb_ok | apply Coh.sendFEv_ok | apply Coh.clearSnf_ok | apply Coh.dropTxn_ok | apply Coh.sctr_ok
    | (with_reducible refine Coh.dropHolders_okE (by with_reducible assumption) ?_)
    | extract_lets +onlyGivenNames z; first
      | (refine cut (Q := CohOk p z.2.2) ?_ ?_; (on_goal 2 => (intro hz; clear_value z; rename' z => w)); unfold z; clear z)
      | (refine cut (Q := CohOk p z) ?_ ?_; (on_goal 2 => (intro hz; clear_value z; rename' z => w)); unfold z; clear z)
      | (clear_value z; rename' z => w)
      | rename' z => w
    | split

theorem Coh.maintain_ok {c : Coh} (hc : CohOk p c) (a2 : State) (a3) : CohOk p (Coh.maintain c a2 a3) := by
  unfold Coh.maintain
  repeat' first
    | with_reducible assumption
    | with_reducible first | apply Coh.invalHere_ok | apply Coh.cleanAway_ok | apply Coh.sendOp_ok | apply Coh.mntEnd_ok | apply Coh.cleanWith_ok | apply Coh.cleanTag_ok | apply Coh.dropHolders_ok | apply Coh.writeBack_ok | apply Coh.tidySnf_ok | apply Coh.clearSnf_ok | apply Coh.dropTxn_ok
    | (with_reducible refine Coh.dropHolders_okE (by with_reducible assumption) ?_)
    | extract_lets +onlyGivenNames z; first
      | (refine cut (Q := CohOk p z) ?_ ?_; (on_goal 2 => (intro hz; clear_value z; rename' z => w)); unfold z; clear z)
      | (refine cut (Q := CohOk p z.2.2) ?_ ?_; (on_goal 2 => (intro hz; clear_value z; rename' z => w)); unfold z; clear z)
      | (clear_value z; rename' z => w)
      | rename' z => w
    | split

theorem Coh.endPrefetch_ok {c : Coh} (hc : CohOk p c) (a2 : State) (a3) : CohOk p (Coh.endPrefetch c a2 a3) := by
  unfold Coh.endPrefetch
  repeat' first
    | with_reducible assumption
    | with_reducible first | apply Coh.serveJoined_ok | apply Coh.answered_ok | apply Coh.emit_ok
    | extract_lets +onlyGivenNames z; first
      | (refine cut (Q := CohOk p z) ?_ ?_; (on_goal 2 => (intro hz; clear_value z; rename' z => w)); unfold z; clear z)
      | (clear_value z; rename' z => w)
      | rename' z => w
    | split

theorem Coh.pressReady_ok {c : Coh} (hc : CohOk p c) (a2 : State) (a3) : CohOk p (Coh.pressReady c a2 a3) := by
  unfold Coh.pressReady
  repeat' first
    | with_reducible assumption
    | intro _
    | with_reducible first | apply Coh.setPress_ok | apply Coh.setTxn_ok
    | extract_lets +onlyGivenNames z; first
      | (refine cut (Q := CohOk p z) ?_ ?_; (on_goal 2 => (intro hz; clear_value z; rename' z => w)); unfold z; clear z)
      | (clear_value z; rename' z => w)
      | rename' z => w
    | split

theorem Coh.finish_ok {c : Coh} (hc : CohOk p c) (a2 : State) (a3) : CohOk p (Coh.finish c a2 a3) := by
  unfold Coh.finish
  repeat' first
    | with_reducible assumption
    | with_reducible first | apply Coh.pressReady_ok | apply Coh.endPrefetch_ok | apply Coh.maintain_ok | apply Coh.perform_ok | apply Coh.answerRead_ok | apply Coh.grantAgent_ok | apply Coh.retryTxn_ok
    | split

theorem Coh.sendAtomic_ok {c : Coh} (hc : CohOk p c) (a2 : State) (a3) : CohOk p (Coh.sendAtomic c a2 a3) := by
  unfold Coh.sendAtomic
  repeat' first
    | with_reducible assumption
    | intro _
    | with_reducible first | apply Coh.retryTxn_ok | apply Coh.request_ok | apply Coh.dropTxn_ok
    | (with_reducible refine Coh.request_okE (by with_reducible assumption) ?_)
    | extract_lets +onlyGivenNames z; first | (clear_value z; rename' z => w) | rename' z => w
    | split

theorem Coh.stage_ok {c : Coh} (hc : CohOk p c) (a2 : State) (a3) : CohOk p (Coh.stage c a2 a3) := by
  unfold Coh.stage
  repeat' first
    | with_reducible assumption
    | intro _
    | with_reducible first | apply Coh.sendAtomic_ok | apply Coh.finish_ok | apply Coh.fetchLine_ok | apply Coh.openFill_ok | apply Coh.haveLine_ok | apply Coh.askDirectory_ok | apply Coh.askHome_ok | apply Coh.dropHolders_ok | apply Coh.startFlow_ok | apply Coh.setTxn_ok | apply Coh.woken_ok
    | (with_reducible refine Coh.dropHolders_okE (by with_reducible assumption) ?_)
    | extract_lets +onlyGivenNames z; first
      | (refine cut (Q := CohOk p z) ?_ ?_; (on_goal 2 => (intro hz; clear_value z; rename' z => w)); unfold z; clear z)
      | (refine cut (Q := CohOk p z.2.2) ?_ ?_; (on_goal 2 => (intro hz; clear_value z; rename' z => w)); unfold z; clear z)
      | (clear_value z; rename' z => w)
      | rename' z => w
    | split

theorem Coh.endTxn_ok {c : Coh} (hc : CohOk p c) (a2 : State) (a3) : CohOk p (Coh.endTxn c a2 a3) := by
  unfold Coh.endTxn
  repeat' first
    | with_reducible assumption
    | with_reducible first | apply Coh.endJoined_ok | apply Coh.tidySnf_ok | apply Coh.sendFEv_ok | apply Coh.dropTxn_ok
    | extract_lets +onlyGivenNames z; first
      | (refine cut (Q := CohOk p z) ?_ ?_; (on_goal 2 => (intro hz; clear_value z; rename' z => w)); unfold z; clear z)
      | (clear_value z; rename' z => w)
      | rename' z => w
    | split

theorem Coh.advance_ok (a1 a2 a3) {c : Coh} (hc : CohOk p c) : CohOk p (Coh.advance a1 a2 a3 c) := by
  induction a3 generalizing c with
  | zero => exact hc
  | succ n ih =>
    unfold Coh.advance
    repeat' first
      | with_reducible assumption
      | with_reducible first | apply ih | apply Coh.stage_ok | apply Coh.endTxn_ok
      | split

theorem Coh.holdBack_ok {c : Coh} (hc : CohOk p c) (a2) : CohOk p (Coh.holdBack c a2) := by
  unfold Coh.holdBack
  repeat' first
    | with_reducible assumption
    | with_reducible first | apply Coh.requeue_ok | apply Coh.sctr_ok
    | extract_lets +onlyGivenNames z; first
      | (refine cut (Q := CohOk p z) ?_ ?_; (on_goal 2 => (intro hz; clear_value z; rename' z => w)); unfold z; clear z)
      | (clear_value z; rename' z => w)
      | rename' z => w
    | split

theorem Coh.wantDrain_ok {c : Coh} (hc : CohOk p c) (a2) : CohOk p (Coh.wantDrain c a2) := by
  unfold Coh.wantDrain
  repeat' first
    | with_reducible assumption
    | intro _
    | with_reducible first | apply Coh.setPress_ok

theorem Coh.serve_ok {c : Coh} (hc : CohOk p c) (a2) : CohOk p (Coh.serve c a2) := by
  unfold Coh.serve
  repeat' first
    | with_reducible assumption
    | with_reducible first | refine CohOk.of_mk ?_ rfl rfl rfl rfl rfl rfl

theorem Coh.servePress_ok {c : Coh} (hc : CohOk p c) (a2) : CohOk p (Coh.servePress c a2) := by
  unfold Coh.servePress
  repeat' first
    | with_reducible assumption
    | with_reducible first | refine CohOk.of_mk ?_ rfl rfl rfl rfl rfl rfl

theorem Coh.noteStore_ok {c : Coh} (hc : CohOk p c) (a2 a3 a4) : CohOk p (Coh.noteStore c a2 a3 a4) := by
  unfold Coh.noteStore
  repeat' first
    | with_reducible assumption
    | with_reducible first | apply Coh.emit_ok
    | extract_lets +onlyGivenNames z; first
      | (refine cut (Q := CohOk p z) ?_ ?_; (on_goal 2 => (intro hz; clear_value z; rename' z => w)); unfold z; clear z)
      | (clear_value z; rename' z => w)
      | rename' z => w
    | split

theorem Coh.newPress_ok {c : Coh} (hc : CohOk p c) (a2 : State) (a3) : CohOk p (Coh.newPress c a2 a3) := by
  unfold Coh.newPress
  repeat' first
    | with_reducible assumption
    | with_reducible first | apply Coh.noteStore_ok | apply Coh.servePress_ok | apply Coh.holdBack_ok | apply Coh.storeDone_ok | apply Coh.pointOf_ok | apply Coh.sctr_ok
    | extract_lets +onlyGivenNames z; first
      | (refine cut (Q := CohOk p z) ?_ ?_; (on_goal 2 => (intro hz; clear_value z; rename' z => w)); unfold z; clear z)
      | (clear_value z; rename' z => w)
      | rename' z => w
    | split
    | with_reducible first | refine CohOk.of_mk ?_ rfl rfl rfl rfl rfl rfl

theorem Coh.mergeStore_ok {c : Coh} (hc : CohOk p c) (a2 : State) (a3 a4) : CohOk p (Coh.mergeStore c a2 a3 a4) := by
  unfold Coh.mergeStore
  repeat' first
    | with_reducible assumption
    | intro _
    | with_reducible first | apply Coh.noteStore_ok | apply Coh.storeDone_ok | apply Coh.pointOf_ok | apply Coh.setPress_ok | apply Coh.sctr_ok
    | extract_lets +onlyGivenNames z; first
      | (refine cut (Q := CohOk p z) ?_ ?_; (on_goal 2 => (intro hz; clear_value z; rename' z => w)); unfold z; clear z)
      | (clear_value z; rename' z => w)
      | rename' z => w
    | split

theorem Coh.passStore_ok {c : Coh} (hc : CohOk p c) (a2 : State) (a3) : CohOk p (Coh.passStore c a2 a3) := by
  unfold Coh.passStore
  repeat' first
    | with_reducible assumption
    | with_reducible first | apply Coh.mergeStore_ok | apply Coh.newPress_ok | apply Coh.noteStore_ok | apply Coh.wantDrain_ok | apply Coh.holdBack_ok | apply Coh.storeDone_ok | apply Coh.drainOldest_ok | apply Coh.pointOf_ok
    | extract_lets +onlyGivenNames z; first | (clear_value z; rename' z => w) | rename' z => w
    | split

theorem Coh.passWrB_ok {c : Coh} (hc : CohOk p c) (a2 : State) (a3 a4) : CohOk p (Coh.passWrB c a2 a3 a4) := by
  unfold Coh.passWrB
  repeat' first
    | with_reducible assumption
    | intro _
    | with_reducible first | apply Coh.holdBack_ok | apply Coh.requeue_ok | apply Coh.noteRow_ok | apply Coh.mergeWb_ok | apply Coh.drainOldest_ok | apply Coh.pointOf_ok | apply Coh.tidySnf_ok | apply Coh.setSnfOf_ok | apply Coh.protoErr_ok | apply Coh.toHome_ok | apply Coh.setPress_ok | apply Coh.setTxn_ok | apply Coh.sctr_ok | apply Coh.woken_ok | apply Coh.emit_ok
    | (with_reducible refine Coh.mergeWb_okE (by with_reducible assumption) ?_)
    | extract_lets +onlyGivenNames z; first
      | (refine cut (Q := ∀ x0, CohOk p x0 → CohOk p (z x0)) ?_ ?_; (on_goal 2 => (intro hz; clear_value z; rename' z => w)); unfold z; clear z)
      | (refine cut (Q := CohOk p z) ?_ ?_; (on_goal 2 => (intro hz; clear_value z; rename' z => w)); unfold z; clear z)
      | (clear_value z; rename' z => w)
      | rename' z => w
    | with_reducible apply_assumption -exfalso
    | split

theorem Coh.passEvC_ok {c : Coh} (hc : CohOk p c) (a2 : State) (a3 a4) : CohOk p (Coh.passEvC c a2 a3 a4) := by
  unfold Coh.passEvC
  repeat' first
    | with_reducible assumption
    | intro _
    | with_reducible first | apply Coh.noteRow_ok | apply Coh.pointOf_ok | apply Coh.tidySnf_ok | apply Coh.setSnfOf_ok | apply Coh.protoErr_ok | apply Coh.emit_ok
    | extract_lets +onlyGivenNames z; first
      | (refine cut (Q := ∀ x0, CohOk p x0 → CohOk p (z x0)) ?_ ?_; (on_goal 2 => (intro hz; clear_value z; rename' z => w)); unfold z; clear z)
      | (clear_value z; rename' z => w)
      | rename' z => w
    | with_reducible apply_assumption -exfalso
    | split

theorem Coh.hitPass_ok {c : Coh} (hc : CohOk p c) (a2 : State) (a3 a4) : CohOk p (Coh.hitPass c a2 a3 a4) := by
  unfold Coh.hitPass
  repeat' first
    | with_reducible assumption
    | with_reducible first | apply Coh.demandHit_ok | apply Coh.sctr_ok
    | extract_lets +onlyGivenNames z; first
      | (refine cut (Q := CohOk p z) ?_ ?_; (on_goal 2 => (intro hz; clear_value z; rename' z => w)); unfold z; clear z)
      | (clear_value z; rename' z => w)
      | rename' z => w
    | split

theorem Coh.enter_ok {c : Coh} (hc : CohOk p c) (a2 : State) (a3 a4 a5) : CohOk p (Coh.enter c a2 a3 a4 a5) := by
  unfold Coh.enter
  repeat' first
    | with_reducible assumption
    | with_reducible first | apply Coh.hitPass_ok | apply Coh.serve_ok | apply Coh.noteRow_ok | apply Coh.protoErr_ok
    | extract_lets +onlyGivenNames z; first | (clear_value z; rename' z => w) | rename' z => w
    | split

theorem Coh.meetHamper_ok {c : Coh} (hc : CohOk p c) (a2 : State) (a3) : CohOk p (Coh.meetHamper c a2 a3) := by
  unfold Coh.meetHamper
  repeat' first
    | with_reducible assumption
    | with_reducible first | apply Coh.enter_ok | apply Coh.holdBack_ok | apply Coh.hamperGo_ok | apply Coh.reclaim_ok
    | (with_reducible refine Coh.reclaim_okE (by with_reducible assumption) ?_)
    | extract_lets +onlyGivenNames z; first | (clear_value z; rename' z => w) | rename' z => w
    | split

theorem Coh.passLocal_ok {c : Coh} (hc : CohOk p c) (a2 : State) (a3) : CohOk p (Coh.passLocal c a2 a3) := by
  unfold Coh.passLocal
  repeat' first
    | with_reducible assumption
    | with_reducible first | apply Coh.meetHamper_ok | apply Coh.wantDrain_ok | apply Coh.holdBack_ok
    | extract_lets +onlyGivenNames z; first | (clear_value z; rename' z => w) | rename' z => w
    | split

theorem Coh.passFatm_ok {c : Coh} (hc : CohOk p c) (a2 : State) (a3) : CohOk p (Coh.passFatm c a2 a3) := by
  unfold Coh.passFatm
  repeat' first
    | with_reducible assumption
    | with_reducible first | apply Coh.hitPass_ok | apply Coh.serve_ok | apply Coh.holdBack_ok | apply Coh.homeStart_ok | apply Coh.reclaim_ok
    | (with_reducible refine Coh.reclaim_okE (by with_reducible assumption) ?_)
    | extract_lets +onlyGivenNames z; first | (clear_value z; rename' z => w) | rename' z => w
    | split

theorem Coh.passHome_ok {c : Coh} (hc : CohOk p c) (a2 : State) (a3) : CohOk p (Coh.passHome c a2 a3) := by
  unfold Coh.passHome
  repeat' first
    | with_reducible assumption
    | with_reducible first | apply Coh.passFatm_ok | apply Coh.wantDrain_ok | apply Coh.holdBack_ok | apply Coh.hamperGo_ok | apply Coh.homeStart_ok
    | extract_lets +onlyGivenNames z; first | (clear_value z; rename' z => w) | rename' z => w
    | split

theorem Coh.passPrefetch_ok {c : Coh} (hc : CohOk p c) (a2 : State) (a3 a4) : CohOk p (Coh.passPrefetch c a2 a3 a4) := by
  unfold Coh.passPrefetch
  repeat' first
    | with_reducible assumption
    | intro _
    | with_reducible first | apply Coh.serve_ok | apply Coh.wantDrain_ok | apply Coh.holdBack_ok | apply Coh.prefetchNone_ok | apply Coh.reclaim_ok | apply Coh.victim_ok | apply Coh.setTxn_ok
    | (with_reducible refine Coh.reclaim_okE (by with_reducible assumption) ?_)
    | (with_reducible refine Coh.victim_okE (by with_reducible assumption) ?_)
    | extract_lets +onlyGivenNames z; first | (clear_value z; rename' z => w) | rename' z => w
    | split

theorem Coh.purgeStart_ok {c : Coh} (hc : CohOk p c) (a2 : State) (a3 a4) : CohOk p (Coh.purgeStart c a2 a3 a4) := by
  unfold Coh.purgeStart
  repeat' first
    | with_reducible assumption
    | intro _
    | with_reducible first | apply Coh.putSnoop_ok | refine foldl_keeps (Q := fun x : Coh => CohOk p x) ?_ ?_
    | extract_lets +onlyGivenNames z; first
      | (refine cut (Q := CohOk p z) ?_ ?_; (on_goal 2 => (intro hz; clear_value z; rename' z => w)); unfold z; clear z)
      | (clear_value z; rename' z => w)
      | rename' z => w
    | with_reducible first | refine CohOk.of_mk ?_ rfl rfl rfl rfl rfl rfl

theorem Coh.checkSets_ok {c : Coh} (hc : CohOk p c) (a2 : State) (a3) : CohOk p (Coh.checkSets c a2 a3) := by
  unfold Coh.checkSets
  repeat' first
    | with_reducible assumption
    | with_reducible first | apply Coh.purgeStart_ok | apply Coh.recallSetStart_ok
    | extract_lets +onlyGivenNames z; first
      | (refine cut (Q := CohOk p z) ?_ ?_; (on_goal 2 => (intro hz; clear_value z; rename' z => w)); unfold z; clear z)
      | (clear_value z; rename' z => w)
      | rename' z => w
    | split

theorem Coh.readRow_ok {c : Coh} (hc : CohOk p c) (a2 : State) (a3) : CohOk p (Coh.readRow c a2 a3) := by
  unfold Coh.readRow
  repeat' first
    | with_reducible assumption
    | with_reducible first | apply Coh.checkSets_ok | apply Coh.checkRow_ok

theorem Coh.takeSnp_ok {c : Coh} (hc : CohOk p c) (a2 : State) (a3 a4) (a5 a6) : CohOk p (Coh.takeSnp c a2 a3 a4 a5 a6) := by
  unfold Coh.takeSnp
  repeat' first
    | with_reducible assumption
    | with_reducible first | apply Coh.readRow_ok | apply Coh.recvSnp_ok
    | extract_lets +onlyGivenNames z; first
      | (refine cut (Q := CohOk p z) ?_ ?_; (on_goal 2 => (intro hz; clear_value z; rename' z => w)); unfold z; clear z)
      | (clear_value z; rename' z => w)
      | rename' z => w
    | split
    | with_reducible first | refine CohOk.of_mk ?_ rfl rfl rfl rfl rfl rfl

theorem Coh.snpNext_ok {c : Coh} (hc : CohOk p c) (a2 : State) : CohOk p (Coh.snpNext c a2) := by
  unfold Coh.snpNext
  repeat' first
    | with_reducible assumption
    | intro _
    | with_reducible first | apply Coh.takeSnp_ok | refine foldl_keeps (Q := fun x : Coh => CohOk p x) ?_ ?_
    | with_reducible first | refine CohOk.of_mk ?_ rfl rfl rfl rfl rfl rfl

theorem Coh.passEvict_ok {c : Coh} (hc : CohOk p c) (a2 : State) (a3) : CohOk p (Coh.passEvict c a2 a3) := by
  unfold Coh.passEvict
  repeat' first
    | with_reducible assumption
    | with_reducible first | apply Coh.recvFEv_ok | apply Coh.recvFWb_ok
    | extract_lets +onlyGivenNames z; first | (clear_value z; rename' z => w) | rename' z => w
    | split

theorem Coh.pass_ok {c : Coh} (hc : CohOk p c) (a2 : State) (a3) : CohOk p (Coh.pass c a2 a3) := by
  unfold Coh.pass
  repeat' first
    | with_reducible assumption
    | intro _
    | with_reducible first | apply Coh.passEvict_ok | apply Coh.readRow_ok | apply Coh.passPrefetch_ok | apply Coh.passHome_ok | apply Coh.passLocal_ok | apply Coh.passEvC_ok | apply Coh.passWrB_ok | apply Coh.passStore_ok | apply Coh.servePress_ok | apply Coh.holdBack_ok | apply Coh.joinFill_ok | apply Coh.noteRow_ok | apply Coh.setTxn_ok
    | extract_lets +onlyGivenNames z; first
      | (refine cut (Q := CohOk p z) ?_ ?_; (on_goal 2 => (intro hz; clear_value z; rename' z => w)); unfold z; clear z)
      | (clear_value z; rename' z => w)
      | rename' z => w
    | split

theorem Coh.snoopAnswered_ok {c : Coh} (hc : CohOk p c) (a2 a3) (a4 a5) : CohOk p (Coh.snoopAnswered c a2 a3 a4 a5) := by
  unfold Coh.snoopAnswered
  repeat' first
    | with_reducible assumption
    | intro _
    | with_reducible first | apply Coh.setSnfOf_ok | apply Coh.sctr_ok
    | extract_lets +onlyGivenNames z; first
      | (refine cut (Q := CohOk p z) ?_ ?_; (on_goal 2 => (intro hz; clear_value z; rename' z => w)); unfold z; clear z)
      | (clear_value z; rename' z => w)
      | rename' z => w
    | split
    | with_reducible first | refine CohOk.of_mk ?_ rfl rfl rfl rfl rfl rfl

theorem Coh.returned_ok {c : Coh} (hc : CohOk p c) (a2 : State) (a3 a4 a5) : CohOk p (Coh.returned c a2 a3 a4 a5) := by
  unfold Coh.returned
  repeat' first
    | with_reducible assumption
    | with_reducible first | apply Coh.leaveByFWb_ok | apply Coh.putHamper_ok | apply Coh.sctr_ok
    | split
    | with_reducible first | refine CohOk.of_mk ?_ rfl rfl rfl rfl rfl rfl

theorem Coh.purgeLine_ok {c : Coh} (hc : CohOk p c) (a2 : State) (a3 a4) (a5 a6) : CohOk p (Coh.purgeLine c a2 a3 a4 a5 a6) := by
  unfold Coh.purgeLine
  repeat' first
    | with_reducible assumption
    | with_reducible first | apply Coh.returned_ok | apply Coh.dropNodeCopy_ok | apply Coh.sendNode_ok
    | extract_lets +onlyGivenNames z; first
      | (refine cut (Q := CohOk p z) ?_ ?_; (on_goal 2 => (intro hz; clear_value z; rename' z => w)); unfold z; clear z)
      | (clear_value z; rename' z => w)
      | rename' z => w
    | split
    | with_reducible first | refine CohOk.of_mk ?_ rfl rfl rfl rfl rfl rfl

theorem Coh.emptySet_ok {c : Coh} (hc : CohOk p c) (a2 : State) (a3 a4) : CohOk p (Coh.emptySet c a2 a3 a4) := by
  unfold Coh.emptySet
  repeat' first
    | with_reducible assumption
    | intro _
    | with_reducible first | apply Coh.tidySnf_ok | apply Coh.putSnf_ok | refine foldl_keeps (Q := fun x : Coh => CohOk p x) ?_ ?_
    | extract_lets +onlyGivenNames z; first | (clear_value z; rename' z => w) | rename' z => w
    | split

theorem Coh.unlockSnf_ok {c : Coh} (hc : CohOk p c) (a2 a3) : CohOk p (Coh.unlockSnf c a2 a3) := by
  unfold Coh.unlockSnf
  repeat' first
    | with_reducible assumption
    | extract_lets +onlyGivenNames z; first | (clear_value z; rename' z => w) | rename' z => w
    | split
    | with_reducible first | refine CohOk.of_mk ?_ rfl rfl rfl rfl rfl rfl

theorem Coh.purgeEnd_ok {c : Coh} (hc : CohOk p c) (a2 : State) (a3 a4) : CohOk p (Coh.purgeEnd c a2 a3 a4) := by
  unfold Coh.purgeEnd
  repeat' first
    | with_reducible assumption
    | intro _
    | with_reducible first | apply Coh.unlockSnf_ok | apply Coh.emptySet_ok | apply Coh.emits_ok | refine foldl_keeps (Q := fun x : Coh => CohOk p x) ?_ ?_ | apply CohOk.setTags | apply CohOk.setPp | apply CohOk.setSnf | apply CohOk.setDir
    | extract_lets +onlyGivenNames z; first
      | (refine cut (Q := CohOk p z) ?_ ?_; (on_goal 2 => (intro hz; clear_value z; rename' z => w)); unfold z; clear z)
      | (clear_value z; rename' z => w)
      | rename' z => w
    | with_reducible first | refine CohOk.of_mk ?_ rfl rfl rfl rfl rfl rfl

theorem Coh.recallSetFinish_ok {c : Coh} (hc : CohOk p c) (a2 : State) (a3 a4) (a5 a6 a7) : CohOk p (Coh.recallSetFinish c a2 a3 a4 a5 a6 a7) := by
  unfold Coh.recallSetFinish
  repeat' first
    | with_reducible assumption
    | intro _
    | with_reducible first | apply Coh.unlockSnf_ok | apply Coh.emptySet_ok | apply Coh.recallSetLine_ok | apply Coh.recallSetAck_ok | refine foldl_keeps (Q := fun x : (Coh × _) => CohOk p x.1) ?_ ?_
    | (with_reducible refine Coh.recallSetLine_okE (by with_reducible assumption) ?_)
    | extract_lets +onlyGivenNames z; first
      | (refine cut (Q := CohOk p z.1) ?_ ?_; (on_goal 2 => (intro hz; clear_value z; rename' z => w)); unfold z; clear z)
      | (clear_value z; rename' z => w)
      | rename' z => w

theorem Coh.flowDone_ok {c : Coh} (hc : CohOk p c) (a2 : State) (a3) : CohOk p (Coh.flowDone c a2 a3) := by
  unfold Coh.flowDone
  repeat' first
    | with_reducible assumption
    | intro _
    | with_reducible first | apply Coh.recallSetFinish_ok | apply Coh.purgeEnd_ok | apply Coh.hintInstall_ok | apply Coh.drainEnd_ok | apply Coh.answerDone_ok | apply Coh.answerI_ok | apply Coh.dropNodeCopy_ok | apply Coh.dropFlow_ok | apply Coh.putSnoop_ok | apply Coh.tidySnf_ok | apply Coh.freedNst_ok | apply Coh.leaveByFWb_ok | apply Coh.putHamper_ok | apply Coh.sendFWb_ok | apply Coh.sendFEv_ok | apply Coh.setSnfOf_ok | apply Coh.writeSlot_ok | apply Coh.clearSnf_ok | apply Coh.setPress_ok | apply Coh.setHome_ok | apply Coh.setTxn_ok | apply Coh.freeTag_ok | apply Coh.setTag_ok | apply Coh.sctr_ok
    | extract_lets +onlyGivenNames z; first
      | (refine cut (Q := CohOk p z) ?_ ?_; (on_goal 2 => (intro hz; clear_value z; rename' z => w)); unfold z; clear z)
      | (clear_value z; rename' z => w)
      | rename' z => w
    | split
    | with_reducible first | refine CohOk.of_mk ?_ rfl rfl rfl rfl rfl rfl

theorem Coh.poison_ok {c : Coh} (hc : CohOk p c) (a2 : State) (a3 a4) : CohOk p (Coh.poison c a2 a3 a4) := by
  unfold Coh.poison
  repeat' first
    | with_reducible assumption
    | intro _
    | with_reducible first | apply Coh.voidPress_ok | apply Coh.writeBack_ok | apply Coh.leaveByFWb_ok | apply Coh.setSnfOf_ok | apply Coh.readSlot_ok | apply Coh.writeSlot_ok | apply Coh.dropHeld_ok | apply Coh.setTag_ok | apply Coh.sctr_ok | apply Coh.emit_ok
    | (with_reducible refine Coh.readSlot_okE (by with_reducible assumption) ?_)
    | extract_lets +onlyGivenNames z; first
      | (refine cut (Q := CohOk p z) ?_ ?_; (on_goal 2 => (intro hz; clear_value z; rename' z => w)); unfold z; clear z)
      | (refine cut (Q := CohOk p z.2) ?_ ?_; (on_goal 2 => (intro hz; clear_value z; rename' z => w)); unfold z; clear z)
      | (clear_value z; rename' z => w)
      | rename' z => w
    | split
    | with_reducible first | refine CohOk.of_mk ?_ rfl rfl rfl rfl rfl rfl

theorem Coh.poisonFor_ok {c : Coh} (hc : CohOk p c) (a2 : State) (a3) : CohOk p (Coh.poisonFor c a2 a3) := by
  unfold Coh.poisonFor
  repeat' first
    | with_reducible assumption
    | with_reducible first | apply Coh.poison_ok | apply Coh.retryTxn_ok
    | extract_lets +onlyGivenNames z; first
      | (refine cut (Q := CohOk p z) ?_ ?_; (on_goal 2 => (intro hz; clear_value z; rename' z => w)); unfold z; clear z)
      | (clear_value z; rename' z => w)
      | rename' z => w
    | split

theorem Coh.poisonSet_ok {c : Coh} (hc : CohOk p c) (a2 : State) (a3) : CohOk p (Coh.poisonSet c a2 a3) := by
  unfold Coh.poisonSet
  repeat' first
    | with_reducible assumption
    | intro _
    | with_reducible first | apply Coh.poison_ok | refine foldl_keeps (Q := fun x : Coh => CohOk p x) ?_ ?_
    | extract_lets +onlyGivenNames z; first | (clear_value z; rename' z => w) | rename' z => w
    | split

theorem Coh.deadSnoops_ok {c : Coh} (hc : CohOk p c) (a2 : State) : CohOk p (Coh.deadSnoops c a2) := by
  unfold Coh.deadSnoops
  repeat' first
    | with_reducible assumption
    | intro _
    | with_reducible first | apply Coh.poisonSet_ok | apply Coh.poisonFor_ok | apply Coh.snoopAnswered_ok | refine foldl_keeps (Q := fun x : Coh => CohOk p x) ?_ ?_
    | extract_lets +onlyGivenNames z; first
      | (refine cut (Q := CohOk p z) ?_ ?_; (on_goal 2 => (intro hz; clear_value z; rename' z => w)); unfold z; clear z)
      | (clear_value z; rename' z => w)
      | rename' z => w
    | split

theorem Coh.deadAcks_ok {c : Coh} (hc : CohOk p c) (a2 : State) : CohOk p (Coh.deadAcks c a2) := by
  unfold Coh.deadAcks
  repeat' first
    | with_reducible assumption
    | intro _
    | with_reducible first | apply Coh.releaseSnoops_ok | apply Coh.toHome_ok | refine foldl_keeps (Q := fun x : Coh => CohOk p x) ?_ ?_
    | extract_lets +onlyGivenNames z; first
      | (refine cut (Q := CohOk p z) ?_ ?_; (on_goal 2 => (intro hz; clear_value z; rename' z => w)); unfold z; clear z)
      | (clear_value z; rename' z => w)
      | rename' z => w
    | split
    | with_reducible first | refine CohOk.of_mk ?_ rfl rfl rfl rfl rfl rfl

theorem Coh.permGranted_ok {c : Coh} (hc : CohOk p c) (a2 : State) (a3) : CohOk p (Coh.permGranted c a2 a3) := by
  unfold Coh.permGranted
  repeat' first
    | with_reducible assumption
    | intro _
    | with_reducible first | apply Coh.pressUo_ok | apply Coh.endJoined_ok | apply Coh.tidySnf_ok | apply Coh.dropTxn_ok | apply Coh.setPress_ok | apply Coh.setTxn_ok | apply Coh.woken_ok | apply Coh.emits_ok
    | extract_lets +onlyGivenNames z; first
      | (refine cut (Q := ∀ x0, CohOk p x0 → ∀ x1, CohOk p (z x0 x1)) ?_ ?_; (on_goal 2 => (intro hz; clear_value z; rename' z => w)); unfold z; clear z)
      | (clear_value z; rename' z => w)
      | rename' z => w
    | with_reducible apply_assumption -exfalso
    | split

theorem Coh.deadAsHome_ok {c : Coh} (hc : CohOk p c) (a2 : State) : CohOk p (Coh.deadAsHome c a2) := by
  unfold Coh.deadAsHome
  repeat' first
    | with_reducible assumption
    | intro _
    | with_reducible first | apply Coh.writeBack_ok | apply Coh.readMem_ok | apply Coh.sctr_ok | refine foldl_keeps (Q := fun x : Coh => CohOk p x) ?_ ?_
    | (with_reducible refine Coh.readMem_okE (by with_reducible assumption) ?_)
    | extract_lets +onlyGivenNames z; first
      | (refine cut (Q := CohOk p z) ?_ ?_; (on_goal 2 => (intro hz; clear_value z; rename' z => w)); unfold z; clear z)
      | (refine cut (Q := CohOk p z.2) ?_ ?_; (on_goal 2 => (intro hz; clear_value z; rename' z => w)); unfold z; clear z)
      | (clear_value z; rename' z => w)
      | rename' z => w
    | split
    | with_reducible first | refine CohOk.of_mk ?_ rfl rfl rfl rfl rfl rfl

theorem Coh.deadDir_ok {c : Coh} (hc : CohOk p c) (a2 : State) : CohOk p (Coh.deadDir c a2) := by
  unfold Coh.deadDir
  repeat' first
    | with_reducible assumption
    | intro _
    | with_reducible first | apply Coh.writeBack_ok | apply Coh.dropDirOwner_ok | apply Coh.writeDir_ok | apply Coh.readMem_ok | apply Coh.sctr_ok | refine foldl_keeps (Q := fun x : Coh => CohOk p x) ?_ ?_
    | (with_reducible refine Coh.readMem_okE (by with_reducible assumption) ?_)
    | extract_lets +onlyGivenNames z; first
      | (refine cut (Q := CohOk p z) ?_ ?_; (on_goal 2 => (intro hz; clear_value z; rename' z => w)); unfold z; clear z)
      | (refine cut (Q := CohOk p z.2) ?_ ?_; (on_goal 2 => (intro hz; clear_value z; rename' z => w)); unfold z; clear z)
      | (clear_value z; rename' z => w)
      | rename' z => w
    | split

theorem Coh.deadReq_ok {c : Coh} (hc : CohOk p c) (a2) : CohOk p (Coh.deadReq c a2) := by
  unfold Coh.deadReq
  repeat' first
    | with_reducible assumption
    | intro _
    | with_reducible first | apply Coh.failReq_ok | apply Coh.pointOf_ok | apply Coh.setSnfOf_ok | apply Coh.emit_ok
    | split

theorem Coh.failOpen_ok {c : Coh} (hc : CohOk p c) (a2) : CohOk p (Coh.failOpen c a2) := by
  unfold Coh.failOpen
  repeat' first
    | with_reducible assumption
    | with_reducible first | apply Coh.failTxn_ok
    | split

theorem Coh.deadAsRequester_ok {c : Coh} (hc : CohOk p c) (a2 : State) : CohOk p (Coh.deadAsRequester c a2) := by
  unfold Coh.deadAsRequester
  repeat' first
    | with_reducible assumption
    | intro _
    | with_reducible first | apply Coh.failOpen_ok | apply Coh.deadReq_ok | apply Coh.pressAcked_ok | apply Coh.dropTrk_ok | apply Coh.endNode_ok | apply Coh.storesDone_ok | apply Coh.endJoined_ok | apply Coh.dropHamper_ok | apply Coh.dropPress_ok | apply Coh.dropTxn_ok | apply Coh.sctr_ok | apply Coh.emits_ok | refine foldl_keeps (Q := fun x : Coh => CohOk p x) ?_ ?_
    | extract_lets +onlyGivenNames z; first
      | (refine cut (Q := CohOk p z) ?_ ?_; (on_goal 2 => (intro hz; clear_value z; rename' z => w)); unfold z; clear z)
      | (clear_value z; rename' z => w)
      | rename' z => w
    | split
    | with_reducible first | refine CohOk.of_mk ?_ rfl rfl rfl rfl rfl rfl

theorem Coh.deadWalk_ok {c : Coh} (hc : CohOk p c) (a2 : State) : CohOk p (Coh.deadWalk c a2) := by
  unfold Coh.deadWalk
  repeat' first
    | with_reducible assumption
    | intro _
    | with_reducible first | apply Coh.dropNodeCopy_ok | apply Coh.startFlow_ok | apply Coh.sctr_ok | refine foldl_keeps (Q := fun x : Coh => CohOk p x) ?_ ?_
    | extract_lets +onlyGivenNames z; first | (clear_value z; rename' z => w) | rename' z => w
    | split

theorem Coh.deadNodes_ok {c : Coh} (hc : CohOk p c) (a2 : State) : CohOk p (Coh.deadNodes c a2) := by
  unfold Coh.deadNodes
  repeat' first
    | with_reducible assumption
    | with_reducible first | apply Coh.deadWalk_ok | apply Coh.deadAsRequester_ok | apply Coh.deadDir_ok | apply Coh.deadAsHome_ok
    | split

theorem Coh.passAll_ok {c : Coh} (hc : CohOk p c) (a1 : State) (a2 a3) : CohOk p (Coh.passAll a1 a2 a3 c) := by
  have he : ∀ {c : Coh} (_ : CohOk p c) (w : List Req), CohOk p { c with wait := w } := fun h _ =>
    ⟨fun hp => ⟨(h.wf hp).1, (h.wf hp).2, (h.wf hp).3, (h.wf hp).4, (h.wf hp).5, (h.wf hp).6⟩⟩
  induction a2 generalizing a3 c with
  | zero => exact he hc _
  | succ n ih =>
    unfold Coh.passAll
    dsimp only
    split
    · exact he hc _
    · split
      · exact ih (Coh.pass_ok hc _ _) _
      · exact he hc _

theorem Coh.round_ok {c : Coh} (hc : CohOk p c) (a2 : State) : CohOk p (Coh.round c a2) := by
  unfold Coh.round
  repeat' first
    | with_reducible assumption
    | intro _
    | with_reducible first | apply Coh.passAll_ok | apply Coh.deadNodes_ok | apply Coh.deadAcks_ok | apply Coh.deadSnoops_ok | apply Coh.flowDone_ok | apply Coh.snpNext_ok | apply Coh.advance_ok | apply Coh.recallSetEnd_ok | apply Coh.homeProgress_ok | apply Coh.hamperNext_ok | refine foldl_keeps (Q := fun x : Coh => CohOk p x) ?_ ?_
    | extract_lets +onlyGivenNames z; first
      | (refine cut (Q := CohOk p z) ?_ ?_; (on_goal 2 => (intro hz; clear_value z; rename' z => w)); unfold z; clear z)
      | (clear_value z; rename' z => w)
      | rename' z => w
    | split
    | with_reducible first | refine CohOk.of_mk ?_ rfl rfl rfl rfl rfl rfl

theorem Coh.settle_ok (a1 a2) {c : Coh} (hc : CohOk p c) : CohOk p (Coh.settle a1 a2 c) := by
  induction a2 generalizing c with
  | zero => exact hc
  | succ n ih =>
    unfold Coh.settle
    split
    · exact ih (Coh.round_ok hc _)
    · exact hc

theorem Coh.arriveReq_ok {c : Coh} (hc : CohOk p c) (a2 : State) (a3) : CohOk p (Coh.arriveReq c a2 a3) := by
  unfold Coh.arriveReq
  repeat' first
    | with_reducible assumption
    | with_reducible first | apply Coh.predict_ok
    | extract_lets +onlyGivenNames z; first
      | (refine cut (Q := CohOk p z) ?_ ?_; (on_goal 2 => (intro hz; clear_value z; rename' z => w)); unfold z; clear z)
      | (clear_value z; rename' z => w)
      | rename' z => w
    | split
    | with_reducible first | refine CohOk.of_mk ?_ rfl rfl rfl rfl rfl rfl

end Sys2Proof.Machine
end

