-- ==== Sys2Proof/Laws/KeepEffects.lean ====
section
/-! SUPPORT. What the operations of Machine/Effects.lean keep (Laws/Keep.lean says what is kept). -/

set_option linter.all false

namespace Sys2Proof.Machine
open Sys2Proof

variable {p : Prop} {k : Kept}

theorem State.pointReached_ok {s : State} (hs : Ok k s) (a2 a3) : Ok k (State.pointReached s a2 a3) := by
  unfold State.pointReached
  repeat' first
    | with_reducible assumption
    | intro _
    | with_reducible first | apply State.setPort_ok
    | extract_lets +onlyGivenNames z; first | (clear_value z; rename' z => w) | rename' z => w

theorem State.passDone_ok {s : State} (hs : Ok k s) (a2 a3 a4) : Ok k (State.passDone s a2 a3 a4) := by
  unfold State.passDone
  repeat' first
    | with_reducible assumption
    | intro _
    | with_reducible first | apply State.setPort_ok
    | split

theorem State.setDeadline_ok {s : State} (hs : Ok k s) (a2 a3 a4) : Ok k (State.setDeadline s a2 a3 a4) := by
  unfold State.setDeadline
  repeat' first
    | with_reducible assumption
    | with_reducible first | apply Ok.coh | apply Ok.mon | apply Ok.flash
    | extract_lets +onlyGivenNames z; first | (clear_value z; rename' z => w) | rename' z => w
    | split
    | with_reducible first | refine Ok.of_mk ?_ rfl rfl rfl rfl rfl ?_ ?_ ?_

theorem State.setRow_ok {s : State} (hs : Ok k s) (a2 a3) (a4 a5) : Ok k (State.setRow s a2 a3 a4 a5) := by
  unfold State.setRow
  repeat' first
    | with_reducible assumption
    | with_reducible first | apply State.setDeadline_ok | apply Ok.coh | apply Ok.mon | apply Ok.flash
    | split
    | with_reducible first | refine Ok.of_mk ?_ rfl rfl rfl rfl rfl ?_ ?_ ?_

theorem State.setChain_ok {s : State} (hs : Ok k s) (a2 a3) : Ok k (State.setChain s a2 a3) := by
  unfold State.setChain
  repeat' first
    | with_reducible assumption
    | with_reducible first | apply State.setDeadline_ok
    | split

theorem State.dropPromises_ok {s : State} (hs : Ok k s) (a2 : Sys2Proof.PromiseId → Bool) : Ok k (State.dropPromises s a2) := by
  unfold State.dropPromises
  repeat' first
    | with_reducible assumption
    | with_reducible first | apply Ok.coh | apply Ok.mon | apply Ok.flash
    | extract_lets +onlyGivenNames z; first | (clear_value z; rename' z => w) | rename' z => w
    | with_reducible apply_assumption -exfalso
    | with_reducible first | refine Ok.of_mk ?_ rfl rfl rfl rfl rfl ?_ ?_ ?_

theorem State.unpromise_ok {s : State} (hs : Ok k s) (a2 a3) : Ok k (State.unpromise s a2 a3) := by
  unfold State.unpromise
  repeat' first
    | with_reducible assumption
    | intro _
    | with_reducible first | apply State.dropPromises_ok | apply State.setPort_ok
    | split

theorem State.answer_ok {s : State} (hs : Ok k s) (a2 a3) : Ok k (State.answer s a2 a3) := by
  unfold State.answer
  repeat' first
    | with_reducible assumption
    | with_reducible first | apply State.respond_ok | apply State.crossAgent_ok
    | extract_lets +onlyGivenNames z; first
      | (refine cut (Q := Ok k z) ?_ ?_; (on_goal 2 => (intro hz; clear_value z; rename' z => w)); unfold z; clear z)
      | (clear_value z; rename' z => w)
      | rename' z => w
    | split

theorem State.servedBy_ok {s : State} (hs : Ok k s) (a2 a3 a4) : Ok k (State.servedBy s a2 a3 a4) := by
  unfold State.servedBy
  repeat' first
    | with_reducible assumption
    | intro _
    | with_reducible first | apply State.setPort_ok
    | split

theorem State.noteDemoted_ok {s : State} (hs : Ok k s) (a2) : Ok k (State.noteDemoted s a2) := by
  unfold State.noteDemoted
  repeat' first
    | with_reducible assumption
    | with_reducible first | apply State.raiseFirst_ok | apply State.count_ok

theorem State.takeBack_ok {s : State} (hs : Ok k s) (a1 a2 a3) : Ok k (State.takeBack a1 a2 a3 s) := by
  induction a3 generalizing s with
  | zero => exact hs
  | succ n ih =>
    unfold State.takeBack
    split
    · dsimp only
      refine ih ?_
      split
      · exact State.pointReached_ok (State.consumed_ok (State.setPort_ok hs _ _) _ _ _ _ _) _ _
      · exact State.setPort_ok hs _ _
    · exact hs

theorem State.spillData_ok {s : State} (hs : Ok k s) (a2 a3) (a4 a5 a6) : Ok k (State.spillData s a2 a3 a4 a5 a6) := by
  unfold State.spillData
  repeat' first
    | with_reducible assumption
    | intro _
    | with_reducible first | apply State.takeBack_ok | apply State.crossItem_ok | apply State.setPort_ok
    | extract_lets +onlyGivenNames z; first
      | (refine cut (Q := Ok k z) ?_ ?_; (on_goal 2 => (intro hz; clear_value z; rename' z => w)); unfold z; clear z)
      | (clear_value z; rename' z => w)
      | rename' z => w
    | split

theorem State.recordLine_ok {s : State} (hs : Ok k s) (a2 a3 a4) : Ok k (State.recordLine s a2 a3 a4) := by
  unfold State.recordLine
  repeat' first
    | with_reducible assumption
    | intro _
    | with_reducible first | apply State.count_ok | apply State.raise_ok | apply State.wb_ok | apply Ok.coh | apply Ok.mon | apply Ok.flash
    | extract_lets +onlyGivenNames z; first
      | (refine cut (Q := ∀ x0, Ok k (z x0)) ?_ ?_; (on_goal 2 => (intro hz; clear_value z; rename' z => w)); unfold z; clear z)
      | (clear_value z; rename' z => w)
      | rename' z => w
    | with_reducible apply_assumption -exfalso
    | split
    | with_reducible first | refine Ok.of_mk ?_ rfl rfl rfl rfl rfl ?_ ?_ ?_

theorem State.addCorrected_ok {s : State} (hs : Ok k s) (a2 a3) : Ok k (State.addCorrected s a2 a3) := by
  unfold State.addCorrected
  repeat' first
    | with_reducible assumption
    | with_reducible first | apply State.raise_ok | apply State.wb_ok | apply State.wf_ok | apply Ok.coh | apply Ok.mon | apply Ok.flash
    | extract_lets +onlyGivenNames z; first
      | (refine cut (Q := Ok k z) ?_ ?_; (on_goal 2 => (intro hz; clear_value z; rename' z => w)); unfold z; clear z)
      | (clear_value z; rename' z => w)
      | rename' z => w
    | split
    | with_reducible first | refine Ok.of_mk ?_ rfl rfl rfl rfl rfl ?_ ?_ ?_

theorem State.prefetchEnded_ok {s : State} (hs : Ok k s) (a2 a3) (a4 a5 a6) : Ok k (State.prefetchEnded s a2 a3 a4 a5 a6) := by
  unfold State.prefetchEnded
  repeat' first
    | with_reducible assumption
    | intro _
    | with_reducible first | apply State.dropPromises_ok | apply State.count_ok | apply State.setPort_ok
    | extract_lets +onlyGivenNames z; first
      | (refine cut (Q := Ok k z) ?_ ?_; (on_goal 2 => (intro hz; clear_value z; rename' z => w)); unfold z; clear z)
      | (clear_value z; rename' z => w)
      | rename' z => w
    | split

theorem applyFx_ok {s : State} (hs : Ok k s) (a2) : Ok k (applyFx s a2) := by
  unfold applyFx
  repeat' first
    | with_reducible assumption
    | intro _
    | with_reducible first | apply State.prefetchEnded_ok | apply State.addCorrected_ok | apply State.recordLine_ok | apply State.spillData_ok | apply State.noteDemoted_ok | apply State.answer_ok | apply State.unpromise_ok | apply State.dropPromises_ok | apply State.setChain_ok | apply State.setRow_ok | apply State.passDone_ok | apply State.pointReached_ok | apply State.sendFabric_ok | apply State.sendSnoop_ok | apply State.crossAgent_ok | apply State.count_ok | apply State.note_ok | apply State.raiseLog_ok | apply State.raise_ok | apply State.report_ok | apply State.setPort_ok | apply State.wr_ok | apply Ok.coh | apply Ok.mon | apply Ok.flash
    | extract_lets +onlyGivenNames z; first
      | (refine cut (Q := Ok k z) ?_ ?_; (on_goal 2 => (intro hz; clear_value z; rename' z => w)); unfold z; clear z)
      | (refine cut (Q := MonOk k.p z) ?_ ?_; (on_goal 2 => (intro hz; clear_value z; rename' z => w)); unfold z; clear z)
      | (clear_value z; rename' z => w)
      | rename' z => w
    | split
    | with_reducible first | refine Ok.of_mk ?_ rfl rfl rfl rfl rfl ?_ ?_ ?_ | refine MonOk.of_mk ?_ rfl rfl

theorem State.flushFx_ok {s : State} (hs : Ok k s) : Ok k (State.flushFx s) := by
  unfold State.flushFx
  repeat' first
    | with_reducible assumption
    | intro _
    | with_reducible first | apply applyFx_ok | refine foldl_keeps (Q := fun x : State => Ok k x) ?_ ?_ | apply Ok.coh | apply Ok.mon | apply Ok.flash
    | extract_lets +onlyGivenNames z; first
      | (refine cut (Q := CohOk k.p z) ?_ ?_; (on_goal 2 => (intro hz; clear_value z; rename' z => w)); unfold z; clear z)
      | (clear_value z; rename' z => w)
      | rename' z => w
    | with_reducible first | refine Ok.of_mk ?_ rfl rfl rfl rfl rfl ?_ ?_ ?_ | refine CohOk.of_mk ?_ rfl rfl rfl rfl rfl rfl

theorem Coh.retireSlot_ok {c : Coh} (hc : CohOk p c) (a2 : State) (a3) : CohOk p (Coh.retireSlot c a2 a3) := by
  unfold Coh.retireSlot
  repeat' first
    | with_reducible assumption
    | with_reducible first | apply Coh.evictSlot_ok | apply Coh.putTag_ok | apply Coh.sctr_ok | apply Coh.emits_ok
    | extract_lets +onlyGivenNames z; first
      | (refine cut (Q := CohOk p z) ?_ ?_; (on_goal 2 => (intro hz; clear_value z; rename' z => w)); unfold z; clear z)
      | (clear_value z; rename' z => w)
      | rename' z => w
    | split
    | with_reducible first | refine CohOk.of_mk ?_ rfl rfl rfl rfl rfl rfl

theorem Coh.retirePass_ok {c : Coh} (hc : CohOk p c) (a2 : State) : CohOk p (Coh.retirePass c a2) := by
  unfold Coh.retirePass
  repeat' first
    | with_reducible assumption
    | intro _
    | with_reducible first | apply Coh.retireSlot_ok | refine foldl_keeps (Q := fun x : Coh => CohOk p x) ?_ ?_

theorem Coh.stamp_ok {c : Coh} (hc : CohOk p c) (a2) : CohOk p (Coh.stamp c a2) := by
  unfold Coh.stamp
  repeat' first
    | with_reducible assumption
    | extract_lets +onlyGivenNames z; first | (clear_value z; rename' z => w) | rename' z => w
    | with_reducible first | refine CohOk.of_mk ?_ rfl rfl rfl rfl rfl rfl

theorem State.runCoh_ok {s : State} {a2 : Sys2Proof.Machine.Coh → Sys2Proof.Machine.Coh} (hs : Ok k s) (hf : ∀ c, CohOk k.p c → CohOk k.p (a2 c)) : Ok k (State.runCoh s a2) := by
  unfold State.runCoh
  repeat' first
    | with_reducible assumption
    | with_reducible first | apply Coh.stamp_ok | apply Coh.retirePass_ok | apply State.flushFx_ok | apply Coh.settle_ok | apply Ok.coh | apply Ok.mon | apply Ok.flash
    | with_reducible apply_assumption -exfalso
    | with_reducible first | refine Ok.of_mk ?_ rfl rfl rfl rfl rfl ?_ ?_ ?_

theorem State.arriveReq_ok {s : State} (hs : Ok k s) (a2) : Ok k (State.arriveReq s a2) := by
  unfold State.arriveReq
  repeat' first
    | with_reducible assumption
    | intro _
    | with_reducible first | apply State.runCoh_ok | apply Coh.arriveReq_ok

end Sys2Proof.Machine
end

