-- ==== Sys2Proof/Laws/KeepTime.lean ====
section
/-! SUPPORT. What the operations of Machine/Time.lean keep (Laws/Keep.lean says what is kept). -/

set_option linter.all false

namespace Sys2Proof.Machine
open Sys2Proof

variable {p : Prop} {k : Kept}

theorem State.setFab_ok {s : State} (hs : Ok k s) (a2 : Sys2Proof.Machine.Fabric → Sys2Proof.Machine.Fabric) : Ok k (State.setFab s a2) := by
  unfold State.setFab
  repeat' first
    | with_reducible assumption
    | with_reducible first | apply Ok.coh | apply Ok.mon | apply Ok.flash
    | with_reducible apply_assumption -exfalso
    | with_reducible first | refine Ok.of_mk ?_ rfl rfl rfl rfl rfl ?_ ?_ ?_

theorem State.tickTime_ok {s : State} (hs : Ok k s) : Ok { k with n := k.n + 1 } (State.tickTime s) := by
  have h1 : Ok { k with n := k.n + 1 } { s with fine := s.fine + 1, fab := s.fab.advance } :=
    ⟨hs.pending, congrArg (· + 1) hs.fine, hs.sent, hs.regs, hs.coh, hs.mon, hs.flash, hs.fuses⟩
  unfold State.tickTime
  generalize ({ s with fine := s.fine + 1, fab := s.fab.advance } : State) = t at h1
  dsimp only
  split
  · exact State.setFab_ok h1 _
  · exact h1

theorem State.dropSync_ok {s : State} (hs : Ok k s) : Ok k (State.dropSync s) := by
  unfold State.dropSync
  repeat' first
    | with_reducible assumption
    | intro _
    | with_reducible first | apply State.setFab_ok | apply State.raiseBare_ok | apply State.wb_ok | apply State.wf_ok
    | extract_lets +onlyGivenNames z; first
      | (refine cut (Q := Ok k z) ?_ ?_; (on_goal 2 => (intro hz; clear_value z; rename' z => w)); unfold z; clear z)
      | (clear_value z; rename' z => w)
      | rename' z => w
    | split

theorem State.stepTime_ok {s : State} (hs : Ok k s) (a2) : Ok k (State.stepTime s a2) := by
  unfold State.stepTime
  repeat' first
    | with_reducible assumption
    | intro _
    | with_reducible first | apply State.dropSync_ok | apply State.setFab_ok | apply State.count_ok | apply State.raiseBare_ok | apply State.wb_ok
    | extract_lets +onlyGivenNames z; first
      | (refine cut (Q := Ok k z) ?_ ?_; (on_goal 2 => (intro hz; clear_value z; rename' z => w)); unfold z; clear z)
      | (clear_value z; rename' z => w)
      | rename' z => w
    | split

theorem State.discipline_ok {s : State} (hs : Ok k s) (a2 a3 a4) : Ok k (State.discipline s a2 a3 a4) := by
  unfold State.discipline
  repeat' first
    | with_reducible assumption
    | intro _
    | with_reducible first | apply State.stepTime_ok | apply State.dropSync_ok | apply State.setFab_ok | apply State.raiseBare_ok | apply State.wb_ok | apply State.wf_ok
    | extract_lets +onlyGivenNames z; first
      | (refine cut (Q := Ok k z) ?_ ?_; (on_goal 2 => (intro hz; clear_value z; rename' z => w)); unfold z; clear z)
      | (clear_value z; rename' z => w)
      | rename' z => w
    | split

theorem State.startFabric_ok {s : State} (hs : Ok k s) : Ok k (State.startFabric s) := by
  unfold State.startFabric
  repeat' first
    | with_reducible assumption
    | intro _
    | with_reducible first | apply State.setFab_ok | apply State.wb_ok

theorem State.startRoot_ok {s : State} (hs : Ok k s) : Ok k (State.startRoot s) := by
  unfold State.startRoot
  repeat' first
    | with_reducible assumption
    | with_reducible first | apply State.startFabric_ok | apply State.wb_ok | apply State.wf_ok | apply Ok.coh | apply Ok.mon | apply Ok.flash
    | extract_lets +onlyGivenNames z; first | (clear_value z; rename' z => w) | rename' z => w
    | split
    | with_reducible first | refine Ok.of_mk ?_ rfl rfl rfl rfl rfl ?_ ?_ ?_

theorem State.stopFabric_ok {s : State} (hs : Ok k s) : Ok k (State.stopFabric s) := by
  unfold State.stopFabric
  repeat' first
    | with_reducible assumption
    | with_reducible first | apply State.wr_ok | apply Ok.coh | apply Ok.mon | apply Ok.flash
    | with_reducible first | refine Ok.of_mk ?_ rfl rfl rfl rfl rfl ?_ ?_ ?_

theorem opTimeExchange_ok {s : State} (hs : Ok k s) : Ok k (opTimeExchange s) := by
  unfold opTimeExchange
  repeat' first
    | with_reducible assumption
    | intro _
    | with_reducible first | apply State.dropSync_ok | apply State.setFab_ok | apply State.sendCtl_ok
    | extract_lets +onlyGivenNames z; first
      | (refine cut (Q := Ok k z) ?_ ?_; (on_goal 2 => (intro hz; clear_value z; rename' z => w)); unfold z; clear z)
      | (clear_value z; rename' z => w)
      | rename' z => w
    | split

theorem execTimeExchangeTimer_keeps (s) : Keeps (execTimeExchangeTimer s) s := by
  refine Keeps.next fun k hs => ?_
  repeat' first
    | with_reducible assumption
    | with_reducible first | apply opTimeExchange_ok

theorem opTimeRequest_ok {s : State} (hs : Ok k s) (a1 a2 a3) : Ok k (opTimeRequest a1 a2 a3 s) := by
  unfold opTimeRequest
  repeat' first
    | with_reducible assumption
    | with_reducible first | apply State.sendCtl_ok
    | split

theorem execTimeRequest_keeps (a1 a2 a3) (s) : Keeps (execTimeRequest a1 a2 a3 s) s := by
  refine Keeps.next fun k hs => ?_
  repeat' first
    | with_reducible assumption
    | with_reducible first | apply opTimeRequest_ok

theorem State.voidExchange_ok {s : State} (hs : Ok k s) (a2) : Ok k (State.voidExchange s a2) := by
  unfold State.voidExchange
  repeat' first
    | with_reducible assumption
    | intro _
    | with_reducible first | apply State.setFab_ok
    | split

theorem State.resent_ok {s : State} (hs : Ok k s) (a2 a3) : Ok k (State.resent s a2 a3) := by
  unfold State.resent
  repeat' first
    | with_reducible assumption
    | with_reducible first | apply State.voidExchange_ok
    | split

theorem opTimeAnswer_ok {s : State} (hs : Ok k s) (a1 a2) : Ok k (opTimeAnswer a1 a2 s) := by
  unfold opTimeAnswer
  repeat' first
    | with_reducible assumption
    | intro _
    | with_reducible first | apply State.startFabric_ok | apply State.discipline_ok | apply State.setFab_ok | apply State.count_ok
    | extract_lets +onlyGivenNames z; first
      | (refine cut (Q := Ok k z) ?_ ?_; (on_goal 2 => (intro hz; clear_value z; rename' z => w)); unfold z; clear z)
      | (clear_value z; rename' z => w)
      | rename' z => w
    | split

theorem execTimeAnswer_keeps (a1 a2) (s) : Keeps (execTimeAnswer a1 a2 s) s := by
  refine Keeps.next fun k hs => ?_
  repeat' first
    | with_reducible assumption
    | with_reducible first | apply opTimeAnswer_ok

theorem opPpsInEdge_ok {s : State} (hs : Ok k s) : Ok k (opPpsInEdge s) := by
  unfold opPpsInEdge
  repeat' first
    | with_reducible assumption
    | intro _
    | with_reducible first | apply State.discipline_ok | apply State.setFab_ok | apply State.count_ok
    | split

theorem execPpsInEdge_keeps (s) : Keeps (execPpsInEdge s) s := by
  refine Keeps.next fun k hs => ?_
  repeat' first
    | with_reducible assumption
    | with_reducible first | apply opPpsInEdge_ok

theorem opPpsLost_ok {s : State} (hs : Ok k s) : Ok k (opPpsLost s) := by
  unfold opPpsLost
  repeat' first
    | with_reducible assumption
    | intro _
    | with_reducible first | apply State.dropSync_ok | apply State.setFab_ok | apply State.raiseBare_ok | apply State.wb_ok
    | split

theorem execPpsLost_keeps (s) : Keeps (execPpsLost s) s := by
  refine Keeps.next fun k hs => ?_
  repeat' first
    | with_reducible assumption
    | with_reducible first | apply opPpsLost_ok

theorem opPpsOutBoundary_ok {s : State} (hs : Ok k s) : Ok k (opPpsOutBoundary s) := by
  unfold opPpsOutBoundary
  repeat' first
    | with_reducible assumption
    | intro _
    | with_reducible first | apply State.setFab_ok
    | split

theorem execPpsOutBoundary_keeps (s) : Keeps (execPpsOutBoundary s) s := by
  refine Keeps.next fun k hs => ?_
  repeat' first
    | with_reducible assumption
    | with_reducible first | apply opPpsOutBoundary_ok

end Sys2Proof.Machine
end

