-- ==== Sys2Proof/Laws/KeepPtu.lean ====
section
/-! SUPPORT. What the operations of Machine/Ptu.lean keep (Laws/Keep.lean says what is kept). -/

set_option linter.all false

namespace Sys2Proof.Machine
open Sys2Proof

variable {p : Prop} {k : Kept}

theorem State.setPtu_ok {s : State} (hs : Ok k s) (a2) (a3 : Sys2Proof.Machine.PtuSt → Sys2Proof.Machine.PtuSt) : Ok k (State.setPtu s a2 a3) := by
  unfold State.setPtu
  repeat' first
    | with_reducible assumption
    | intro _
    | with_reducible first | apply State.setPort_ok
    | with_reducible apply_assumption -exfalso

theorem State.lookup_ok {s : State} (hs : Ok k s) (a2 a3) : Ok k (State.lookup s a2 a3).2 := by
  unfold State.lookup
  repeat' first
    | with_reducible assumption
    | intro _
    | with_reducible first | apply State.setPtu_ok | apply applyFx_ok | apply State.count_ok
    | extract_lets +onlyGivenNames z; first
      | (refine cut (Q := Ok k z) ?_ ?_; (on_goal 2 => (intro hz; clear_value z; rename' z => w)); unfold z; clear z)
      | (clear_value z; rename' z => w)
      | rename' z => w
    | split
theorem State.lookup_okE {yl t} {s : State}  {a2 a3} (e : (State.lookup s a2 a3) = (yl, t)) (hs : Ok k s) : Ok k t := by
  have := State.lookup_ok hs a2 a3; rw [e] at this; exact this

theorem State.afterWalk_ok {s : State} (hs : Ok k s) (a2 a3 a4) : Ok k (State.afterWalk s a2 a3 a4) := by
  unfold State.afterWalk
  repeat' first
    | with_reducible assumption
    | intro _
    | with_reducible first | apply State.setPort_ok
    | extract_lets +onlyGivenNames z; first | (clear_value z; rename' z => w) | rename' z => w
    | split

theorem State.prefetchWalkEnd_ok {s : State} (hs : Ok k s) (a2 a3 a4) : Ok k (State.prefetchWalkEnd s a2 a3 a4) := by
  unfold State.prefetchWalkEnd
  repeat' first
    | with_reducible assumption
    | intro _
    | with_reducible first | apply State.count_ok | apply State.setPort_ok
    | extract_lets +onlyGivenNames z; first | (clear_value z; rename' z => w) | rename' z => w
    | split

theorem State.endWalk_ok {s : State} (hs : Ok k s) (a2 a3) (a4 a5) : Ok k (State.endWalk s a2 a3 a4 a5) := by
  unfold State.endWalk
  repeat' first
    | with_reducible assumption
    | intro _
    | with_reducible first | apply State.prefetchWalkEnd_ok | apply State.afterWalk_ok | apply State.setPtu_ok | apply State.count_ok
    | extract_lets +onlyGivenNames z; first
      | (refine cut (Q := Ok k z) ?_ ?_; (on_goal 2 => (intro hz; clear_value z; rename' z => w)); unfold z; clear z)
      | (clear_value z; rename' z => w)
      | rename' z => w
    | split

theorem State.readLevel_ok {s : State} (hs : Ok k s) (a2 a3 a4) : Ok k (State.readLevel s a2 a3 a4) := by
  unfold State.readLevel
  repeat' first
    | with_reducible assumption
    | intro _
    | with_reducible first | apply State.endWalk_ok | apply State.setPtu_ok | apply State.arriveReq_ok | apply State.crossItem_ok | apply State.addrError_ok | apply State.count_ok
    | extract_lets +onlyGivenNames z; first
      | (refine cut (Q := Ok k z) ?_ ?_; (on_goal 2 => (intro hz; clear_value z; rename' z => w)); unfold z; clear z)
      | (clear_value z; rename' z => w)
      | rename' z => w
    | split

theorem State.walkReads_ok {s : State} (hs : Ok k s) (a2) : Ok k (State.walkReads s a2) := by
  unfold State.walkReads
  repeat' first
    | with_reducible assumption
    | intro _
    | with_reducible first | apply State.readLevel_ok | refine foldl_keeps (Q := fun x : State => Ok k x) ?_ ?_
    | split

theorem State.startWalk_ok {s : State} (hs : Ok k s) (a2 a3 a4) : Ok k (State.startWalk s a2 a3 a4) := by
  unfold State.startWalk
  repeat' first
    | with_reducible assumption
    | intro _
    | with_reducible first | apply State.setPtu_ok | apply State.count_ok
    | extract_lets +onlyGivenNames z; first | (clear_value z; rename' z => w) | rename' z => w
    | split

theorem State.ceilingWalk_ok {s : State} (hs : Ok k s) (a2 a3) : Ok k (State.ceilingWalk s a2 a3) := by
  unfold State.ceilingWalk
  repeat' first
    | with_reducible assumption
    | with_reducible first | apply State.endWalk_ok
    | split

theorem State.speculate_ok {s : State} (hs : Ok k s) (a2 a3 a4) : Ok k (State.speculate s a2 a3 a4) := by
  unfold State.speculate
  repeat' first
    | with_reducible assumption
    | with_reducible first | apply State.startWalk_ok
    | extract_lets +onlyGivenNames z; first | (clear_value z; rename' z => w) | rename' z => w
    | split

theorem State.translateDemand_ok {s : State} (hs : Ok k s) (a2 a3) (a4 a5) : Ok k (State.translateDemand s a2 a3 a4 a5).2.2 := by
  unfold State.translateDemand
  repeat' first
    | with_reducible assumption
    | with_reducible first | apply State.speculate_ok | apply State.lookup_ok | apply State.count_ok
    | (with_reducible refine State.lookup_okE (by with_reducible assumption) ?_)
    | extract_lets +onlyGivenNames z; first
      | (refine cut (Q := Ok k z.2) ?_ ?_; (on_goal 2 => (intro hz; clear_value z; rename' z => w)); unfold z; clear z)
      | (refine cut (Q := Ok k z) ?_ ?_; (on_goal 2 => (intro hz; clear_value z; rename' z => w)); unfold z; clear z)
      | (clear_value z; rename' z => w)
      | rename' z => w
    | split
theorem State.translateDemand_okE {yl yrl t} {s : State}  {a2 a3} {a4 a5} (e : (State.translateDemand s a2 a3 a4 a5) = (yl, (yrl, t))) (hs : Ok k s) : Ok k t := by
  have := State.translateDemand_ok hs a2 a3 a4 a5; rw [e] at this; exact this

theorem State.recordFault_ok {s : State} (hs : Ok k s) (a2 a3) (a4 a5) (a6 a7 a8) : Ok k (State.recordFault s a2 a3 a4 a5 a6 a7 a8) := by
  unfold State.recordFault
  repeat' first
    | with_reducible assumption
    | with_reducible first | apply State.count_ok | apply State.raise_ok | apply State.wb_ok | apply State.wf_ok
    | extract_lets +onlyGivenNames z; first
      | (refine cut (Q := Ok k z) ?_ ?_; (on_goal 2 => (intro hz; clear_value z; rename' z => w)); unfold z; clear z)
      | (clear_value z; rename' z => w)
      | rename' z => w
    | split

theorem opPtuRootLo_ok {s : State} (hs : Ok k s) (a1 a2) : Ok k (opPtuRootLo a1 a2 s) := by
  unfold opPtuRootLo
  repeat' first
    | with_reducible assumption
    | with_reducible first | apply State.wf_ok
    | split

theorem opPtuRootHi_ok {s : State} (hs : Ok k s) (a1 a2) : Ok k (opPtuRootHi a1 a2 s) := by
  unfold opPtuRootHi
  repeat' first
    | with_reducible assumption
    | intro _
    | with_reducible first | apply State.setPtu_ok | apply State.wr_ok
    | extract_lets +onlyGivenNames z; first
      | (refine cut (Q := Ok k z) ?_ ?_; (on_goal 2 => (intro hz; clear_value z; rename' z => w)); unfold z; clear z)
      | (clear_value z; rename' z => w)
      | rename' z => w
    | split

theorem opPtuSeed_ok {s : State} (hs : Ok k s) (a1 a2) : Ok k (opPtuSeed a1 a2 s) := by
  unfold opPtuSeed
  repeat' first
    | with_reducible assumption
    | intro _
    | with_reducible first | apply State.setPtu_ok | apply State.wf_ok
    | split

theorem State.startInv_ok {s : State} (hs : Ok k s) (a2 a3) : Ok k (State.startInv s a2 a3) := by
  unfold State.startInv
  repeat' first
    | with_reducible assumption
    | intro _
    | with_reducible first | apply State.setPort_ok | apply State.wb_ok
    | extract_lets +onlyGivenNames z; first | (clear_value z; rename' z => w) | rename' z => w
    | split

theorem opTlbInvAddr_ok {s : State} (hs : Ok k s) (a1) : Ok k (opTlbInvAddr a1 s) := by
  unfold opTlbInvAddr
  repeat' first
    | with_reducible assumption
    | with_reducible first | apply State.startInv_ok

theorem opTlbInvCtx_ok {s : State} (hs : Ok k s) (a1) : Ok k (opTlbInvCtx a1 s) := by
  unfold opTlbInvCtx
  repeat' first
    | with_reducible assumption
    | with_reducible first | apply State.startInv_ok

theorem opTlbInvAll_ok {s : State} (hs : Ok k s) (a1) : Ok k (opTlbInvAll a1 s) := by
  unfold opTlbInvAll
  repeat' first
    | with_reducible assumption
    | with_reducible first | apply State.startInv_ok

theorem opTlbInvBad_ok {s : State} (hs : Ok k s) (a1) : Ok k (opTlbInvBad a1 s) := by
  unfold opTlbInvBad
  repeat' first
    | with_reducible assumption
    | with_reducible first | apply State.wb_ok
    | split

theorem opTlbInvComplete_ok {s : State} (hs : Ok k s) (a1) : Ok k (opTlbInvComplete a1 s) := by
  unfold opTlbInvComplete
  repeat' first
    | with_reducible assumption
    | with_reducible first | apply State.count_ok | apply State.raise_ok | apply State.wb_ok
    | extract_lets +onlyGivenNames z; first | (clear_value z; rename' z => w) | rename' z => w
    | split

theorem execPtuRootLoWrite_keeps (a1 a2) (s) : Keeps (execPtuRootLoWrite a1 a2 s) s := by
  refine Keeps.next fun k hs => ?_
  repeat' first
    | with_reducible assumption
    | intro _
    | with_reducible first | apply opPtuRootLo_ok | apply State.onReg_ok

theorem execPtuRootHiWrite_keeps (a1 a2) (s) : Keeps (execPtuRootHiWrite a1 a2 s) s := by
  refine Keeps.next fun k hs => ?_
  repeat' first
    | with_reducible assumption
    | intro _
    | with_reducible first | apply opPtuRootHi_ok | apply State.onReg_ok

theorem execPtuSeedWrite_keeps (a1 a2) (s) : Keeps (execPtuSeedWrite a1 a2 s) s := by
  refine Keeps.next fun k hs => ?_
  repeat' first
    | with_reducible assumption
    | intro _
    | with_reducible first | apply opPtuSeed_ok | apply State.onReg_ok

theorem execTlbInvByAddress_keeps (a1) (s) : Keeps (execTlbInvByAddress a1 s) s := by
  refine Keeps.next fun k hs => ?_
  repeat' first
    | with_reducible assumption
    | intro _
    | with_reducible first | apply opTlbInvAddr_ok | apply State.onReg_ok

theorem execTlbInvByContext_keeps (a1) (s) : Keeps (execTlbInvByContext a1 s) s := by
  refine Keeps.next fun k hs => ?_
  repeat' first
    | with_reducible assumption
    | intro _
    | with_reducible first | apply opTlbInvCtx_ok | apply State.onReg_ok

theorem execTlbInvAll_keeps (a1) (s) : Keeps (execTlbInvAll a1 s) s := by
  refine Keeps.next fun k hs => ?_
  repeat' first
    | with_reducible assumption
    | intro _
    | with_reducible first | apply opTlbInvAll_ok | apply State.onReg_ok

theorem execTlbInvComplete_keeps (a1) (s) : Keeps (execTlbInvComplete a1 s) s := by
  refine Keeps.next fun k hs => ?_
  repeat' first
    | with_reducible assumption
    | with_reducible first | apply opTlbInvComplete_ok

end Sys2Proof.Machine
end

