-- ==== Sys2Proof/Laws/KeepFills.lean ====
section
/-! SUPPORT. What the operations of Machine/Fills.lean keep (Laws/Keep.lean says what is kept). -/

set_option linter.all false

namespace Sys2Proof.Machine
open Sys2Proof

variable {p : Prop} {k : Kept}

theorem Coh.served_ok {c : Coh} (hc : CohOk p c) (a2 a3) : CohOk p (Coh.served c a2 a3) := by
  unfold Coh.served
  repeat' first
    | with_reducible assumption
    | intro _
    | with_reducible first | apply Coh.setTxn_ok | apply Coh.woken_ok
    | split

theorem Coh.delivered_ok {c : Coh} (hc : CohOk p c) (a2 : State) (a3 a4) (a5 a6) : CohOk p (Coh.delivered c a2 a3 a4 a5 a6) := by
  unfold Coh.delivered
  repeat' first
    | with_reducible assumption
    | intro _
    | with_reducible first | apply Coh.served_ok | apply Coh.toHomeNode_ok | apply Coh.sendNode_ok | apply Coh.setPress_ok | apply Coh.setHome_ok | apply Coh.woken_ok | apply Coh.emit_ok
    | split
    | with_reducible first | refine CohOk.of_mk ?_ rfl rfl rfl rfl rfl rfl

theorem Coh.setReadQ_ok {c : Coh} (hc : CohOk p c) (a2 a3) : CohOk p (Coh.setReadQ c a2 a3) := by
  unfold Coh.setReadQ
  repeat' first
    | with_reducible assumption
    | split
    | with_reducible first | refine CohOk.of_mk ?_ rfl rfl rfl rfl rfl rfl

theorem Coh.setOwed_ok {c : Coh} (hc : CohOk p c) (a2 a3) : CohOk p (Coh.setOwed c a2 a3) := by
  unfold Coh.setOwed
  repeat' first
    | with_reducible assumption
    | split
    | with_reducible first | refine CohOk.of_mk ?_ rfl rfl rfl rfl rfl rfl

theorem Coh.readDone_ok {c : Coh} (hc : CohOk p c) (a2 : State) (a3 a4) : CohOk p (Coh.readDone c a2 a3 a4) := by
  unfold Coh.readDone
  repeat' first
    | with_reducible assumption
    | with_reducible first | apply Coh.setOwed_ok | apply Coh.setReadQ_ok | apply Coh.delivered_ok | apply Coh.decodeAt_ok
    | (with_reducible refine Coh.decodeAt_okE (by with_reducible assumption) ?_)
    | extract_lets +onlyGivenNames z; first
      | (refine cut (Q := CohOk p z.2) ?_ ?_; (on_goal 2 => (intro hz; clear_value z; rename' z => w)); unfold z; clear z)
      | (refine cut (Q := CohOk p z) ?_ ?_; (on_goal 2 => (intro hz; clear_value z; rename' z => w)); unfold z; clear z)
      | (clear_value z; rename' z => w)
      | rename' z => w
    | split

theorem opMemoryReadDone_ok {s : State} (hs : Ok k s) (a1 a2) : Ok k (opMemoryReadDone a1 a2 s) := by
  unfold opMemoryReadDone
  repeat' first
    | with_reducible assumption
    | intro _
    | with_reducible first | apply Coh.readDone_ok | apply State.runCoh_ok
    | split

theorem opCmiReadDone_ok {s : State} (hs : Ok k s) (a1 a2) : Ok k (opCmiReadDone a1 a2 s) := by
  unfold opCmiReadDone
  repeat' first
    | with_reducible assumption
    | intro _
    | with_reducible first | apply Coh.readDone_ok | apply State.runCoh_ok

theorem execMemoryReadDone_keeps (a1 a2) (s) : Keeps (execMemoryReadDone a1 a2 s) s := by
  refine Keeps.next fun k hs => ?_
  repeat' first
    | with_reducible assumption
    | with_reducible first | apply opMemoryReadDone_ok

theorem execCmiReadDone_keeps (a1 a2) (s) : Keeps (execCmiReadDone a1 a2 s) s := by
  refine Keeps.next fun k hs => ?_
  repeat' first
    | with_reducible assumption
    | with_reducible first | apply opCmiReadDone_ok

theorem Coh.retire_ok {c : Coh} (hc : CohOk p c) (a2 : State) (a3 a4) : CohOk p (Coh.retire c a2 a3 a4) := by
  unfold Coh.retire
  repeat' first
    | with_reducible assumption
    | with_reducible first | apply Coh.sctr_ok | apply Coh.emits_ok
    | extract_lets +onlyGivenNames z; first | (clear_value z; rename' z => w) | rename' z => w
    | split
    | with_reducible first | refine CohOk.of_mk ?_ rfl rfl rfl rfl rfl rfl

theorem Coh.verifyDone_ok {c : Coh} (hc : CohOk p c) (a2 : State) (a3 a4) : CohOk p (Coh.verifyDone c a2 a3 a4) := by
  unfold Coh.verifyDone
  repeat' first
    | with_reducible assumption
    | with_reducible first | apply Coh.retire_ok | apply Coh.setOwed_ok | apply Coh.ctr_ok | apply Coh.emits_ok | apply Coh.emit_ok
    | extract_lets +onlyGivenNames z; first
      | (refine cut (Q := CohOk p z) ?_ ?_; (on_goal 2 => (intro hz; clear_value z; rename' z => w)); unfold z; clear z)
      | (clear_value z; rename' z => w)
      | rename' z => w
    | split

theorem opVerifyReadDone_ok {s : State} (hs : Ok k s) (a1 a2) : Ok k (opVerifyReadDone a1 a2 s) := by
  unfold opVerifyReadDone
  repeat' first
    | with_reducible assumption
    | intro _
    | with_reducible first | apply Coh.verifyDone_ok | apply State.runCoh_ok
    | extract_lets +onlyGivenNames z; first | (clear_value z; rename' z => w) | rename' z => w
    | split

theorem execVerifyReadDone_keeps (a1 a2) (s) : Keeps (execVerifyReadDone a1 a2 s) s := by
  refine Keeps.next fun k hs => ?_
  repeat' first
    | with_reducible assumption
    | with_reducible first | apply opVerifyReadDone_ok

theorem opFillDataArrival_ok {s : State} (hs : Ok k s) (a1) : Ok k (opFillDataArrival a1 s) := by
  unfold opFillDataArrival
  repeat' first
    | with_reducible assumption
    | intro _
    | with_reducible first | apply State.runCoh_ok | apply Coh.readRow_ok | apply Coh.setTxn_ok | apply Coh.woken_ok
    | split

theorem Coh.fillWritten_ok {c : Coh} (hc : CohOk p c) (a2 : State) (a3) : CohOk p (Coh.fillWritten c a2 a3) := by
  unfold Coh.fillWritten
  repeat' first
    | with_reducible assumption
    | intro _
    | with_reducible first | apply Coh.readRow_ok | apply Coh.endJoined_ok | apply Coh.finishSlot_ok | apply Coh.tidySnf_ok | apply Coh.putHamper_ok | apply Coh.clearNst_ok | apply Coh.setTxn_ok | apply Coh.woken_ok
    | extract_lets +onlyGivenNames z; first
      | (refine cut (Q := CohOk p z) ?_ ?_; (on_goal 2 => (intro hz; clear_value z; rename' z => w)); unfold z; clear z)
      | (clear_value z; rename' z => w)
      | rename' z => w
    | split

theorem opFillWriteAccepted_ok {s : State} (hs : Ok k s) (a1) : Ok k (opFillWriteAccepted a1 s) := by
  unfold opFillWriteAccepted
  repeat' first
    | with_reducible assumption
    | intro _
    | with_reducible first | apply Coh.fillWritten_ok | apply State.runCoh_ok | apply State.dropPromises_ok | apply Ok.coh
    | extract_lets +onlyGivenNames z; first
      | (refine cut (Q := Ok k z) ?_ ?_; (on_goal 2 => (intro hz; clear_value z; rename' z => w)); unfold z; clear z)
      | (clear_value z; rename' z => w)
      | rename' z => w
    | split

theorem execFillDataArrival_keeps (a1) (s) : Keeps (execFillDataArrival a1 s) s := by
  refine Keeps.next fun k hs => ?_
  repeat' first
    | with_reducible assumption
    | with_reducible first | apply opFillDataArrival_ok

theorem execFillWriteAccepted_keeps (a1) (s) : Keeps (execFillWriteAccepted a1 s) s := by
  refine Keeps.next fun k hs => ?_
  repeat' first
    | with_reducible assumption
    | with_reducible first | apply opFillWriteAccepted_ok

theorem opPressDrainStart_ok {s : State} (hs : Ok k s) (a1) : Ok k (opPressDrainStart a1 s) := by
  unfold opPressDrainStart
  repeat' first
    | with_reducible assumption
    | intro _
    | with_reducible first | apply State.runCoh_ok | apply Coh.readRow_ok | apply Coh.drainStart_ok | apply Coh.woken_ok
    | split

theorem opPressAge_ok {s : State} (hs : Ok k s) (a1) : Ok k (opPressAge a1 s) := by
  unfold opPressAge
  repeat' first
    | with_reducible assumption
    | intro _
    | with_reducible first | apply State.runCoh_ok | apply Coh.wantDrain_ok
    | split

theorem opPressDrainDone_ok {s : State} (hs : Ok k s) (a1) : Ok k (opPressDrainDone a1 s) := by
  unfold opPressDrainDone
  repeat' first
    | with_reducible assumption
    | intro _
    | with_reducible first | apply State.runCoh_ok | apply Coh.readRow_ok | apply Coh.drainDone_ok | apply Coh.woken_ok

theorem opPressPermission_ok {s : State} (hs : Ok k s) (a1) : Ok k (opPressPermission a1 s) := by
  unfold opPressPermission
  repeat' first
    | with_reducible assumption
    | intro _
    | with_reducible first | apply State.runCoh_ok | apply Coh.permGranted_ok | apply Coh.readRow_ok | apply Coh.woken_ok

theorem opHamperStart_ok {s : State} (hs : Ok k s) (a1) : Ok k (opHamperStart a1 s) := by
  unfold opHamperStart
  repeat' first
    | with_reducible assumption
    | intro _
    | with_reducible first | apply State.runCoh_ok | apply Coh.readRow_ok | apply Coh.hamperStart_ok | apply Coh.woken_ok
    | split

theorem opHamperDone_ok {s : State} (hs : Ok k s) (a1) : Ok k (opHamperDone a1 s) := by
  unfold opHamperDone
  repeat' first
    | with_reducible assumption
    | intro _
    | with_reducible first | apply State.runCoh_ok | apply Coh.readRow_ok | apply Coh.hamperDone_ok | apply Coh.woken_ok

theorem execPressAgeExpiry_keeps (a1) (s) : Keeps (execPressAgeExpiry a1 s) s := by
  refine Keeps.next fun k hs => ?_
  repeat' first
    | with_reducible assumption
    | with_reducible first | apply opPressAge_ok

theorem execPressDrainStart_keeps (a1) (s) : Keeps (execPressDrainStart a1 s) s := by
  refine Keeps.next fun k hs => ?_
  repeat' first
    | with_reducible assumption
    | with_reducible first | apply opPressDrainStart_ok

theorem execPressPermissionGranted_keeps (a1) (s) : Keeps (execPressPermissionGranted a1 s) s := by
  refine Keeps.next fun k hs => ?_
  repeat' first
    | with_reducible assumption
    | with_reducible first | apply opPressPermission_ok

theorem execHamperWritebackStart_keeps (a1) (s) : Keeps (execHamperWritebackStart a1 s) s := by
  refine Keeps.next fun k hs => ?_
  repeat' first
    | with_reducible assumption
    | with_reducible first | apply opHamperStart_ok

theorem execHamperWritebackDone_keeps (a1) (s) : Keeps (execHamperWritebackDone a1 s) s := by
  refine Keeps.next fun k hs => ?_
  repeat' first
    | with_reducible assumption
    | with_reducible first | apply opHamperDone_ok

theorem State.swath_ok {s : State} (hs : Ok k s) (a2 a3) (a4 a5) : Ok k (State.swath s a2 a3 a4 a5).2 := by
  unfold State.swath
  repeat' first
    | with_reducible assumption
    | intro _
    | with_reducible first | apply State.setPort_ok
    | extract_lets +onlyGivenNames z; first
      | (refine cut (Q := ∀ x0, Ok k (z x0)) ?_ ?_; (on_goal 2 => (intro hz; clear_value z; rename' z => w)); unfold z; clear z)
      | (clear_value z; rename' z => w)
      | rename' z => w
    | with_reducible apply_assumption -exfalso
    | split
theorem State.swath_okE {yl t} {s : State}  {a2 a3} {a4 a5} (e : (State.swath s a2 a3 a4 a5) = (yl, t)) (hs : Ok k s) : Ok k t := by
  have := State.swath_ok hs a2 a3 a4 a5; rw [e] at this; exact this

theorem State.swathOff_ok {s : State} (hs : Ok k s) : Ok k (State.swathOff s) := by
  unfold State.swathOff
  repeat' first
    | with_reducible assumption
    | intro _
    | with_reducible first | apply State.setPort_ok | refine foldl_keeps (Q := fun x : State => Ok k x) ?_ ?_
    | split

theorem opSwathIdle_ok {s : State} (hs : Ok k s) (a1 a2) : Ok k (opSwathIdle a1 a2 s) := by
  unfold opSwathIdle
  repeat' first
    | with_reducible assumption
    | intro _
    | with_reducible first | apply State.setPort_ok
    | split

theorem execSwathTrackerIdle_keeps (a1 a2) (s) : Keeps (execSwathTrackerIdle a1 a2 s) s := by
  refine Keeps.next fun k hs => ?_
  repeat' first
    | with_reducible assumption
    | with_reducible first | apply opSwathIdle_ok

end Sys2Proof.Machine
end

