-- ==== Sys2Proof/Laws/KeepFabric.lean ====
section
/-! SUPPORT. What the operations of Machine/Fabric.lean keep (Laws/Keep.lean says what is kept). -/

set_option linter.all false

namespace Sys2Proof.Machine
open Sys2Proof

variable {p : Prop} {k : Kept}

theorem State.arriveHome_ok {s : State} (hs : Ok k s) (a2 a3) : Ok k (State.arriveHome s a2 a3) := by
  unfold State.arriveHome
  repeat' first
    | with_reducible assumption
    | intro _
    | with_reducible first | apply State.arriveReq_ok | apply State.runCoh_ok | apply Coh.cmpStatus_ok | apply State.addrError_ok
    | split

theorem opFrds_ok {s : State} (hs : Ok k s) (a1) : Ok k (opFrds a1 s) := by
  unfold opFrds
  repeat' first
    | with_reducible assumption
    | with_reducible first | apply State.arriveHome_ok

theorem opFrdu_ok {s : State} (hs : Ok k s) (a1) : Ok k (opFrdu a1 s) := by
  unfold opFrdu
  repeat' first
    | with_reducible assumption
    | with_reducible first | apply State.arriveHome_ok

theorem opFupg_ok {s : State} (hs : Ok k s) (a1) : Ok k (opFupg a1 s) := by
  unfold opFupg
  repeat' first
    | with_reducible assumption
    | with_reducible first | apply State.arriveHome_ok

theorem opFrdc_ok {s : State} (hs : Ok k s) (a1) : Ok k (opFrdc a1 s) := by
  unfold opFrdc
  repeat' first
    | with_reducible assumption
    | with_reducible first | apply State.arriveHome_ok

theorem opFrdpf_ok {s : State} (hs : Ok k s) (a1) : Ok k (opFrdpf a1 s) := by
  unfold opFrdpf
  repeat' first
    | with_reducible assumption
    | with_reducible first | apply State.arriveHome_ok

theorem opFclean_ok {s : State} (hs : Ok k s) (a1) : Ok k (opFclean a1 s) := by
  unfold opFclean
  repeat' first
    | with_reducible assumption
    | with_reducible first | apply State.arriveHome_ok

theorem opFflush_ok {s : State} (hs : Ok k s) (a1) : Ok k (opFflush a1 s) := by
  unfold opFflush
  repeat' first
    | with_reducible assumption
    | with_reducible first | apply State.arriveHome_ok

theorem opFwr_ok {s : State} (hs : Ok k s) (a1 a2 a3) : Ok k (opFwr a1 a2 a3 s) := by
  unfold opFwr
  repeat' first
    | with_reducible assumption
    | with_reducible first | apply State.arriveHome_ok | apply Coh.arrive_ok | apply Ok.coh | apply Ok.mon | apply Ok.flash
    | (with_reducible refine Coh.arrive_okE (by with_reducible assumption) ?_)
    | extract_lets +onlyGivenNames z; first
      | (refine cut (Q := CohOk k.p z.2) ?_ ?_; (on_goal 2 => (intro hz; clear_value z; rename' z => w)); unfold z; clear z)
      | (clear_value z; rename' z => w)
      | rename' z => w
    | with_reducible first | refine Ok.of_mk ?_ rfl rfl rfl rfl rfl ?_ ?_ ?_

theorem opFatm_ok {s : State} (hs : Ok k s) (a1 a2) (a3 a4) (a5 a6) (a7 a8) : Ok k (opFatm a1 a2 a3 a4 a5 a6 a7 a8 s) := by
  unfold opFatm
  repeat' first
    | with_reducible assumption
    | with_reducible first | apply State.arriveHome_ok
    | extract_lets +onlyGivenNames z; first | (clear_value z; rename' z => w) | rename' z => w

theorem opFwb_ok {s : State} (hs : Ok k s) (a1 a2 a3) : Ok k (opFwb a1 a2 a3 s) := by
  unfold opFwb
  repeat' first
    | with_reducible assumption
    | with_reducible first | apply State.arriveReq_ok | apply Coh.arrive_ok | apply Ok.coh | apply Ok.mon | apply Ok.flash
    | (with_reducible refine Coh.arrive_okE (by with_reducible assumption) ?_)
    | extract_lets +onlyGivenNames z; first
      | (refine cut (Q := CohOk k.p z.2) ?_ ?_; (on_goal 2 => (intro hz; clear_value z; rename' z => w)); unfold z; clear z)
      | (clear_value z; rename' z => w)
      | rename' z => w
    | with_reducible first | refine Ok.of_mk ?_ rfl rfl rfl rfl rfl ?_ ?_ ?_

theorem opFev_ok {s : State} (hs : Ok k s) (a1) : Ok k (opFev a1 s) := by
  unfold opFev
  repeat' first
    | with_reducible assumption
    | with_reducible first | apply State.arriveReq_ok

theorem execFrds_keeps (a1) (s) : Keeps (execFrds a1 s) s := by
  refine Keeps.next fun k hs => ?_
  repeat' first
    | with_reducible assumption
    | with_reducible first | apply opFrds_ok

theorem execFrdu_keeps (a1) (s) : Keeps (execFrdu a1 s) s := by
  refine Keeps.next fun k hs => ?_
  repeat' first
    | with_reducible assumption
    | with_reducible first | apply opFrdu_ok

theorem execFupg_keeps (a1) (s) : Keeps (execFupg a1 s) s := by
  refine Keeps.next fun k hs => ?_
  repeat' first
    | with_reducible assumption
    | with_reducible first | apply opFupg_ok

theorem execFrdc_keeps (a1) (s) : Keeps (execFrdc a1 s) s := by
  refine Keeps.next fun k hs => ?_
  repeat' first
    | with_reducible assumption
    | with_reducible first | apply opFrdc_ok

theorem execFrdpf_keeps (a1) (s) : Keeps (execFrdpf a1 s) s := by
  refine Keeps.next fun k hs => ?_
  repeat' first
    | with_reducible assumption
    | with_reducible first | apply opFrdpf_ok

theorem execFwr_keeps (a1 a2 a3) (s) : Keeps (execFwr a1 a2 a3 s) s := by
  refine Keeps.next fun k hs => ?_
  repeat' first
    | with_reducible assumption
    | with_reducible first | apply opFwr_ok

theorem execFwb_keeps (a1 a2 a3) (s) : Keeps (execFwb a1 a2 a3 s) s := by
  refine Keeps.next fun k hs => ?_
  repeat' first
    | with_reducible assumption
    | with_reducible first | apply opFwb_ok

theorem execFev_keeps (a1) (s) : Keeps (execFev a1 s) s := by
  refine Keeps.next fun k hs => ?_
  repeat' first
    | with_reducible assumption
    | with_reducible first | apply opFev_ok

theorem execFatm_keeps (a1 a2 a3 a4 a5 a6 a7 a8) (s) : Keeps (execFatm a1 a2 a3 a4 a5 a6 a7 a8 s) s := by
  refine Keeps.next fun k hs => ?_
  repeat' first
    | with_reducible assumption
    | with_reducible first | apply opFatm_ok

theorem execFclean_keeps (a1) (s) : Keeps (execFclean a1 s) s := by
  refine Keeps.next fun k hs => ?_
  repeat' first
    | with_reducible assumption
    | with_reducible first | apply opFclean_ok

theorem execFflush_keeps (a1) (s) : Keeps (execFflush a1 s) s := by
  refine Keeps.next fun k hs => ?_
  repeat' first
    | with_reducible assumption
    | with_reducible first | apply opFflush_ok

theorem opSnp_ok {s : State} (hs : Ok k s) (a1 a2) (a3 a4) : Ok k (opSnp a1 a2 a3 a4 s) := by
  unfold opSnp
  repeat' first
    | with_reducible assumption
    | intro _
    | with_reducible first | apply State.runCoh_ok | apply Coh.takeSnp_ok | apply Coh.woken_ok

theorem opFfwds_ok {s : State} (hs : Ok k s) (a1 a2 a3) : Ok k (opFfwds a1 a2 a3 s) := by
  unfold opFfwds
  repeat' first
    | with_reducible assumption
    | with_reducible first | apply opSnp_ok

theorem opFfwdu_ok {s : State} (hs : Ok k s) (a1 a2 a3) : Ok k (opFfwdu a1 a2 a3 s) := by
  unfold opFfwdu
  repeat' first
    | with_reducible assumption
    | with_reducible first | apply opSnp_ok

theorem opFfwdc_ok {s : State} (hs : Ok k s) (a1 a2 a3) : Ok k (opFfwdc a1 a2 a3 s) := by
  unfold opFfwdc
  repeat' first
    | with_reducible assumption
    | with_reducible first | apply opSnp_ok

theorem opFinv_ok {s : State} (hs : Ok k s) (a1) : Ok k (opFinv a1 s) := by
  unfold opFinv
  repeat' first
    | with_reducible assumption
    | with_reducible first | apply opSnp_ok

theorem opFrecall_ok {s : State} (hs : Ok k s) (a1) : Ok k (opFrecall a1 s) := by
  unfold opFrecall
  repeat' first
    | with_reducible assumption
    | with_reducible first | apply opSnp_ok

theorem opFrecallset_ok {s : State} (hs : Ok k s) (a1 a2) (a3 a4) : Ok k (opFrecallset a1 a2 a3 a4 s) := by
  unfold opFrecallset
  repeat' first
    | with_reducible assumption
    | intro _
    | with_reducible first | apply State.runCoh_ok | apply Coh.readRow_ok | apply Coh.recvRecallSet_ok | apply Coh.woken_ok

theorem execFfwds_keeps (a1 a2 a3) (s) : Keeps (execFfwds a1 a2 a3 s) s := by
  refine Keeps.next fun k hs => ?_
  repeat' first
    | with_reducible assumption
    | with_reducible first | apply opFfwds_ok

theorem execFfwdu_keeps (a1 a2 a3) (s) : Keeps (execFfwdu a1 a2 a3 s) s := by
  refine Keeps.next fun k hs => ?_
  repeat' first
    | with_reducible assumption
    | with_reducible first | apply opFfwdu_ok

theorem execFfwdc_keeps (a1 a2 a3) (s) : Keeps (execFfwdc a1 a2 a3 s) s := by
  refine Keeps.next fun k hs => ?_
  repeat' first
    | with_reducible assumption
    | with_reducible first | apply opFfwdc_ok

theorem execFinv_keeps (a1) (s) : Keeps (execFinv a1 s) s := by
  refine Keeps.next fun k hs => ?_
  repeat' first
    | with_reducible assumption
    | with_reducible first | apply opFinv_ok

theorem execFrecall_keeps (a1) (s) : Keeps (execFrecall a1 s) s := by
  refine Keeps.next fun k hs => ?_
  repeat' first
    | with_reducible assumption
    | with_reducible first | apply opFrecall_ok

theorem execFrecallset_keeps (a1 a2 a3 a4) (s) : Keeps (execFrecallset a1 a2 a3 a4 s) s := by
  refine Keeps.next fun k hs => ?_
  repeat' first
    | with_reducible assumption
    | with_reducible first | apply opFrecallset_ok

theorem Coh.devAnswer_ok {c : Coh} (hc : CohOk p c) (a2 a3 a4) : CohOk p (Coh.devAnswer c a2 a3 a4) := by
  unfold Coh.devAnswer
  repeat' first
    | with_reducible assumption
    | with_reducible first | apply Coh.dropTrk_ok | apply Coh.pointOf_ok | apply Coh.emit_ok
    | extract_lets +onlyGivenNames z; first
      | (refine cut (Q := CohOk p z) ?_ ?_; (on_goal 2 => (intro hz; clear_value z; rename' z => w)); unfold z; clear z)
      | (clear_value z; rename' z => w)
      | rename' z => w
    | split

theorem State.response_ok {s : State} {a3 : Sys2Proof.Machine.Coh → Sys2Proof.Machine.Coh} (hs : Ok k s) (hf : ∀ c, CohOk k.p c → CohOk k.p (a3 c)) (a2) : Ok k (State.response s a2 a3) := by
  unfold State.response
  repeat' first
    | with_reducible assumption
    | intro _
    | with_reducible first | apply State.runCoh_ok | apply Coh.readRow_ok | apply Coh.woken_ok
    | with_reducible apply_assumption -exfalso

theorem opFdata_ok {s : State} (hs : Ok k s) (a1 a2) (a3 a4) (a5 a6 a7) : Ok k (opFdata a1 a2 a3 a4 a5 a6 a7 s) := by
  unfold opFdata
  repeat' first
    | with_reducible assumption
    | intro _
    | with_reducible first | apply State.response_ok | apply Coh.devAnswer_ok | apply State.runCoh_ok | apply Coh.recvData_ok | apply Coh.woken_ok | apply Ok.coh
    | split

theorem opFcmp_ok {s : State} (hs : Ok k s) (a1 a2) (a3 a4 a5) : Ok k (opFcmp a1 a2 a3 a4 a5 s) := by
  unfold opFcmp
  repeat' first
    | with_reducible assumption
    | intro _
    | with_reducible first | apply State.response_ok | apply Coh.devAnswer_ok | apply State.runCoh_ok | apply Coh.recvCmpOp_ok | apply Coh.recvCmpLine_ok | apply Coh.nodeErr_ok | apply Coh.woken_ok | apply Ok.coh
    | split

theorem opFrecalldata_ok {s : State} (hs : Ok k s) (a1 a2) : Ok k (opFrecalldata a1 a2 s) := by
  unfold opFrecalldata
  repeat' first
    | with_reducible assumption
    | intro _
    | with_reducible first | apply State.response_ok | apply Coh.setRecallData_ok | apply Coh.recvRecallData_ok
    | split

theorem opFrecallack_ok {s : State} (hs : Ok k s) (a1 a2) : Ok k (opFrecallack a1 a2 s) := by
  unfold opFrecallack
  repeat' first
    | with_reducible assumption
    | intro _
    | with_reducible first | apply State.response_ok | apply Coh.setRecallAck_ok | apply Coh.recvRecallAck_ok
    | split

theorem opFinvack_ok {s : State} (hs : Ok k s) (a1) : Ok k (opFinvack a1 s) := by
  unfold opFinvack
  repeat' first
    | with_reducible assumption
    | intro _
    | with_reducible first | apply State.response_ok | apply Coh.recvInvAck_ok

theorem opFfwdmiss_ok {s : State} (hs : Ok k s) (a1) : Ok k (opFfwdmiss a1 s) := by
  unfold opFfwdmiss
  repeat' first
    | with_reducible assumption
    | intro _
    | with_reducible first | apply State.response_ok | apply Coh.recvFwdMiss_ok

theorem opFwback_ok {s : State} (hs : Ok k s) (a1 a2) : Ok k (opFwback a1 a2 s) := by
  unfold opFwback
  repeat' first
    | with_reducible assumption
    | intro _
    | with_reducible first | apply State.response_ok | apply Coh.recvWbAck_ok

theorem opFdecl_ok {s : State} (hs : Ok k s) (a1) : Ok k (opFdecl a1 s) := by
  unfold opFdecl
  repeat' first
    | with_reducible assumption
    | intro _
    | with_reducible first | apply State.response_ok | apply Coh.recvDecl_ok

theorem opFcmpack_ok {s : State} (hs : Ok k s) (a1) : Ok k (opFcmpack a1 s) := by
  unfold opFcmpack
  repeat' first
    | with_reducible assumption
    | intro _
    | with_reducible first | apply State.response_ok | apply Coh.recvCmpAck_ok

theorem execFrecalldata_keeps (a1 a2) (s) : Keeps (execFrecalldata a1 a2 s) s := by
  refine Keeps.next fun k hs => ?_
  repeat' first
    | with_reducible assumption
    | with_reducible first | apply opFrecalldata_ok

theorem execFinvack_keeps (a1) (s) : Keeps (execFinvack a1 s) s := by
  refine Keeps.next fun k hs => ?_
  repeat' first
    | with_reducible assumption
    | with_reducible first | apply opFinvack_ok

theorem execFrecallack_keeps (a1 a2) (s) : Keeps (execFrecallack a1 a2 s) s := by
  refine Keeps.next fun k hs => ?_
  repeat' first
    | with_reducible assumption
    | with_reducible first | apply opFrecallack_ok

theorem execFfwdmiss_keeps (a1) (s) : Keeps (execFfwdmiss a1 s) s := by
  refine Keeps.next fun k hs => ?_
  repeat' first
    | with_reducible assumption
    | with_reducible first | apply opFfwdmiss_ok

theorem execFwback_keeps (a1 a2) (s) : Keeps (execFwback a1 a2 s) s := by
  refine Keeps.next fun k hs => ?_
  repeat' first
    | with_reducible assumption
    | with_reducible first | apply opFwback_ok

theorem execFdecl_keeps (a1) (s) : Keeps (execFdecl a1 s) s := by
  refine Keeps.next fun k hs => ?_
  repeat' first
    | with_reducible assumption
    | with_reducible first | apply opFdecl_ok

theorem execFcmpack_keeps (a1) (s) : Keeps (execFcmpack a1 s) s := by
  refine Keeps.next fun k hs => ?_
  repeat' first
    | with_reducible assumption
    | with_reducible first | apply opFcmpack_ok

theorem opStileForward_ok {s : State} (hs : Ok k s) (a1 a2) : Ok k (opStileForward a1 a2 s) := by
  unfold opStileForward
  repeat' first
    | with_reducible assumption
    | with_reducible first | apply State.routeStile_ok
    | (with_reducible refine State.routeStile_okE (by with_reducible assumption) ?_)
    | split

theorem opHopEscape_ok {s : State} (hs : Ok k s) (a1) : Ok k (opHopEscape a1 s) := by
  unfold opHopEscape
  repeat' first
    | with_reducible assumption
    | intro _
    | with_reducible first | apply State.pumpStile_ok | apply State.setStile_ok | apply State.count_ok | apply State.raise_ok
    | extract_lets +onlyGivenNames z; first
      | (refine cut (Q := Ok k z) ?_ ?_; (on_goal 2 => (intro hz; clear_value z; rename' z => w)); unfold z; clear z)
      | (clear_value z; rename' z => w)
      | rename' z => w
    | split

theorem execStileForward_keeps (a1 a2) (s) : Keeps (execStileForward a1 a2 s) s := by
  refine Keeps.next fun k hs => ?_
  repeat' first
    | with_reducible assumption
    | with_reducible first | apply opStileForward_ok

theorem execHopCreditEscape_keeps (a1) (s) : Keeps (execHopCreditEscape a1 s) s := by
  refine Keeps.next fun k hs => ?_
  repeat' first
    | with_reducible assumption
    | with_reducible first | apply opHopEscape_ok

end Sys2Proof.Machine
end

