-- ==== Sys2Proof/Laws/KeepAnswers.lean ====
section
/-! SUPPORT. What the operations of Machine/Answers.lean keep (Laws/Keep.lean says what is kept). -/

set_option linter.all false

namespace Sys2Proof.Machine
open Sys2Proof

variable {p : Prop} {k : Kept}

theorem State.portError_ok {s : State} (hs : Ok k s) (a2 a3 a4) : Ok k (State.portError s a2 a3 a4) := by
  unfold State.portError
  repeat' first
    | with_reducible assumption
    | with_reducible first | apply State.count_ok | apply State.raiseLog_ok

theorem opAckc_ok {s : State} (hs : Ok k s) (a1 a2) : Ok k (opAckc a1 a2 s) := by
  unfold opAckc
  repeat' first
    | with_reducible assumption
    | intro _
    | with_reducible first | apply State.portError_ok | apply State.runCoh_ok | apply Coh.releaseSnoops_ok | apply Coh.setTxn_ok | apply Coh.woken_ok | apply State.count_ok | apply Ok.coh
    | split

theorem execAckc_keeps (a1 a2) (s) : Keeps (execAckc a1 a2 s) s := by
  refine Keeps.next fun k hs => ?_
  repeat' first
    | with_reducible assumption
    | with_reducible first | apply opAckc_ok

theorem opSnoopAnswer_ok {s : State} (hs : Ok k s) (a1 a2) (a3 a4) (a5 a6 a7) : Ok k (opSnoopAnswer a1 a2 a3 a4 a5 a6 a7 s) := by
  unfold opSnoopAnswer
  repeat' first
    | with_reducible assumption
    | intro _
    | with_reducible first | apply State.portError_ok | apply State.runCoh_ok | apply Coh.purgeLine_ok | apply Coh.snoopAnswered_ok | apply Coh.woken_ok | apply State.cross_ok | apply State.count_ok | apply Ok.coh
    | extract_lets +onlyGivenNames z; first
      | (refine cut (Q := Ok k z) ?_ ?_; (on_goal 2 => (intro hz; clear_value z; rename' z => w)); unfold z; clear z)
      | (clear_value z; rename' z => w)
      | rename' z => w
    | split

theorem execSnoopAnswer_keeps (a1 a2 a3 a4 a5 a6 a7) (s) : Keeps (execSnoopAnswer a1 a2 a3 a4 a5 a6 a7 s) s := by
  refine Keeps.next fun k hs => ?_
  repeat' first
    | with_reducible assumption
    | with_reducible first | apply opSnoopAnswer_ok

theorem opSnoopWriteback_ok {s : State} (hs : Ok k s) (a1) : Ok k (opSnoopWriteback a1 s) := by
  unfold opSnoopWriteback
  repeat' first
    | with_reducible assumption
    | intro _
    | with_reducible first | apply State.runCoh_ok | apply Coh.passAgentWb_ok | apply Coh.woken_ok

theorem execSnoopDataWriteback_keeps (a1) (s) : Keeps (execSnoopDataWriteback a1 s) s := by
  refine Keeps.next fun k hs => ?_
  repeat' first
    | with_reducible assumption
    | with_reducible first | apply opSnoopWriteback_ok

theorem State.devReply_ok {s : State} (hs : Ok k s) (a2 a3) (a4 a5) (a6 a7) : Ok k (State.devReply s a2 a3 a4 a5 a6 a7) := by
  unfold State.devReply
  repeat' first
    | with_reducible assumption
    | with_reducible first | apply State.sendFabric_ok
    | extract_lets +onlyGivenNames z; first | (clear_value z; rename' z => w) | rename' z => w
    | split

theorem State.devEnd_ok {s : State} (hs : Ok k s) (a2 a3) (a4 a5) : Ok k (State.devEnd s a2 a3 a4 a5) := by
  unfold State.devEnd
  repeat' first
    | with_reducible assumption
    | with_reducible first | apply State.devReply_ok | apply State.answer_ok | apply State.pointReached_ok
    | extract_lets +onlyGivenNames z; first
      | (refine cut (Q := Ok k z) ?_ ?_; (on_goal 2 => (intro hz; clear_value z; rename' z => w)); unfold z; clear z)
      | (clear_value z; rename' z => w)
      | rename' z => w
    | split

theorem opDevAnswer_ok {s : State} (hs : Ok k s) (a1 a2) (a3 a4) : Ok k (opDevAnswer a1 a2 a3 a4 s) := by
  unfold opDevAnswer
  repeat' first
    | with_reducible assumption
    | intro _
    | with_reducible first | apply State.devEnd_ok | apply State.portError_ok | apply State.setPort_ok
    | split

theorem opDcmp_ok {s : State} (hs : Ok k s) (a1 a2 a3) : Ok k (opDcmp a1 a2 a3 s) := by
  unfold opDcmp
  repeat' first
    | with_reducible assumption
    | with_reducible first | apply opDevAnswer_ok

theorem opDdata_ok {s : State} (hs : Ok k s) (a1 a2) (a3 a4) : Ok k (opDdata a1 a2 a3 a4 s) := by
  unfold opDdata
  repeat' first
    | with_reducible assumption
    | with_reducible first | apply opDevAnswer_ok

theorem State.devGone_ok {s : State} (hs : Ok k s) (a2) : Ok k (State.devGone s a2) := by
  unfold State.devGone
  repeat' first
    | with_reducible assumption
    | intro _
    | with_reducible first | apply State.devEnd_ok | apply State.pointReached_ok | apply State.setPort_ok | refine foldl_keeps (Q := fun x : State => Ok k x) ?_ ?_
    | extract_lets +onlyGivenNames z; first
      | (refine cut (Q := ∀ x0, Ok k x0 → ∀ x1, Ok k (z x0 x1)) ?_ ?_; (on_goal 2 => (intro hz; clear_value z; rename' z => w)); unfold z; clear z)
      | (clear_value z; rename' z => w)
      | rename' z => w
    | with_reducible apply_assumption -exfalso
    | split

theorem opMmioDelivery_ok {s : State} (hs : Ok k s) (a1) : Ok k (opMmioDelivery a1 s) := by
  unfold opMmioDelivery
  repeat' first
    | with_reducible assumption
    | intro _
    | with_reducible first | apply State.devGone_ok | apply State.devEnd_ok | apply State.toAgent_ok | apply State.count_ok | apply State.setPort_ok
    | extract_lets +onlyGivenNames z; first
      | (refine cut (Q := Ok k z) ?_ ?_; (on_goal 2 => (intro hz; clear_value z; rename' z => w)); unfold z; clear z)
      | (clear_value z; rename' z => w)
      | rename' z => w
    | split

theorem State.declareDead_ok {s : State} (hs : Ok k s) (a2 a3) : Ok k (State.declareDead s a2 a3) := by
  unfold State.declareDead
  repeat' first
    | with_reducible assumption
    | intro _
    | with_reducible first | apply State.devEnd_ok | apply State.runCoh_ok | apply Coh.woken_ok | apply State.raiseBare_ok | apply State.setPort_ok | apply State.wf_ok | refine foldl_keeps (Q := fun x : State => Ok k x) ?_ ?_
    | extract_lets +onlyGivenNames z; first
      | (refine cut (Q := Ok k z) ?_ ?_; (on_goal 2 => (intro hz; clear_value z; rename' z => w)); unfold z; clear z)
      | (clear_value z; rename' z => w)
      | rename' z => w
    | split

theorem opSnoopTimeout_ok {s : State} (hs : Ok k s) (a1 a2) : Ok k (opSnoopTimeout a1 a2 s) := by
  unfold opSnoopTimeout
  repeat' first
    | with_reducible assumption
    | with_reducible first | apply State.declareDead_ok | apply Ok.coh
    | split

theorem opLinkRetrainTimeout_ok {s : State} (hs : Ok k s) (a1) : Ok k (opLinkRetrainTimeout a1 s) := by
  unfold opLinkRetrainTimeout
  repeat' first
    | with_reducible assumption
    | with_reducible first | apply State.declareDead_ok
    | split

theorem opDeadCtl_ok {s : State} (hs : Ok k s) (a1 a2) : Ok k (opDeadCtl a1 a2 s) := by
  unfold opDeadCtl
  repeat' first
    | with_reducible assumption
    | with_reducible first | apply State.declareDead_ok
    | split

theorem execSnoopTimeout_keeps (a1 a2) (s) : Keeps (execSnoopTimeout a1 a2 s) s := by
  refine Keeps.next fun k hs => ?_
  repeat' first
    | with_reducible assumption
    | with_reducible first | apply opSnoopTimeout_ok

theorem execLinkRetrainTimeout_keeps (a1) (s) : Keeps (execLinkRetrainTimeout a1 s) s := by
  refine Keeps.next fun k hs => ?_
  repeat' first
    | with_reducible assumption
    | with_reducible first | apply opLinkRetrainTimeout_ok

theorem execAgpDeadCtlDeclare_keeps (a1 a2) (s) : Keeps (execAgpDeadCtlDeclare a1 a2 s) s := by
  refine Keeps.next fun k hs => ?_
  repeat' first
    | with_reducible assumption
    | intro _
    | with_reducible first | apply opDeadCtl_ok | apply State.onReg_ok

theorem Coh.reclaimEntry_ok {c : Coh} (hc : CohOk p c) (a2 : State) (a3 a4) : CohOk p (Coh.reclaimEntry c a2 a3 a4) := by
  unfold Coh.reclaimEntry
  repeat' first
    | with_reducible assumption
    | with_reducible first | apply Coh.poison_ok | apply Coh.tidySnf_ok | apply Coh.putSnf_ok
    | extract_lets +onlyGivenNames z; first
      | (refine cut (Q := CohOk p z) ?_ ?_; (on_goal 2 => (intro hz; clear_value z; rename' z => w)); unfold z; clear z)
      | (clear_value z; rename' z => w)
      | rename' z => w
    | split

theorem opDeadAgentWalk_ok {s : State} (hs : Ok k s) (a1) : Ok k (opDeadAgentWalk a1 s) := by
  unfold opDeadAgentWalk
  repeat' first
    | with_reducible assumption
    | intro _
    | with_reducible first | apply Coh.reclaimEntry_ok | apply State.runCoh_ok | apply Coh.woken_ok | apply State.raise_ok | apply State.wb_ok | refine foldl_keeps (Q := fun x : Coh => CohOk k.p x) ?_ ?_ | apply Ok.coh
    | extract_lets +onlyGivenNames z; first
      | (refine cut (Q := Ok k z) ?_ ?_; (on_goal 2 => (intro hz; clear_value z; rename' z => w)); unfold z; clear z)
      | (clear_value z; rename' z => w)
      | rename' z => w
    | split

theorem execDeadAgentWalkDone_keeps (a1) (s) : Keeps (execDeadAgentWalkDone a1 s) s := by
  refine Keeps.next fun k hs => ?_
  repeat' first
    | with_reducible assumption
    | with_reducible first | apply opDeadAgentWalk_ok

theorem State.declareNode_ok {s : State} (hs : Ok k s) (a2) : Ok k (State.declareNode s a2) := by
  unfold State.declareNode
  repeat' first
    | with_reducible assumption
    | intro _
    | with_reducible first | apply State.runCoh_ok | apply Coh.woken_ok | apply State.raiseLog_ok | apply Ok.coh | apply Ok.mon | apply Ok.flash
    | extract_lets +onlyGivenNames z; first
      | (refine cut (Q := Ok k z) ?_ ?_; (on_goal 2 => (intro hz; clear_value z; rename' z => w)); unfold z; clear z)
      | (clear_value z; rename' z => w)
      | rename' z => w
    | split
    | with_reducible first | refine Ok.of_mk ?_ rfl rfl rfl rfl rfl ?_ ?_ ?_

theorem opNodeTimeout_ok {s : State} (hs : Ok k s) (a1 a2) : Ok k (opNodeTimeout a1 a2 s) := by
  unfold opNodeTimeout
  repeat' first
    | with_reducible assumption
    | with_reducible first | apply State.declareNode_ok | apply Ok.coh
    | extract_lets +onlyGivenNames z; first | (clear_value z; rename' z => w) | rename' z => w
    | split

theorem opGlbDeadCtl_ok {s : State} (hs : Ok k s) (a1) : Ok k (opGlbDeadCtl a1 s) := by
  unfold opGlbDeadCtl
  repeat' first
    | with_reducible assumption
    | with_reducible first | apply State.declareNode_ok
    | split

theorem opDeadNodeWalk_ok {s : State} (hs : Ok k s) (a1) : Ok k (opDeadNodeWalk a1 s) := by
  unfold opDeadNodeWalk
  repeat' first
    | with_reducible assumption
    | intro _
    | with_reducible first | apply State.runCoh_ok | apply Coh.woken_ok | apply State.raise_ok | apply Ok.coh | apply Ok.mon | apply Ok.flash
    | extract_lets +onlyGivenNames z; first
      | (refine cut (Q := Ok k z) ?_ ?_; (on_goal 2 => (intro hz; clear_value z; rename' z => w)); unfold z; clear z)
      | (clear_value z; rename' z => w)
      | rename' z => w
    | split
    | with_reducible first | refine Ok.of_mk ?_ rfl rfl rfl rfl rfl ?_ ?_ ?_

theorem execNodeTimeout_keeps (a1 a2) (s) : Keeps (execNodeTimeout a1 a2 s) s := by
  refine Keeps.next fun k hs => ?_
  repeat' first
    | with_reducible assumption
    | with_reducible first | apply opNodeTimeout_ok

theorem execGlbDeadCtlDeclare_keeps (a1) (s) : Keeps (execGlbDeadCtlDeclare a1 s) s := by
  refine Keeps.next fun k hs => ?_
  repeat' first
    | with_reducible assumption
    | intro _
    | with_reducible first | apply opGlbDeadCtl_ok | apply State.onReg_ok

theorem execDeadNodeWalkDone_keeps (a1) (s) : Keeps (execDeadNodeWalkDone a1 s) s := by
  refine Keeps.next fun k hs => ?_
  repeat' first
    | with_reducible assumption
    | with_reducible first | apply opDeadNodeWalk_ok

end Sys2Proof.Machine
end

