-- ==== Sys2Proof/Laws/KeepMnt.lean ====
section
/-! SUPPORT. What the operations of Machine/Mnt.lean keep (Laws/Keep.lean says what is kept). -/

set_option linter.all false

namespace Sys2Proof.Machine
open Sys2Proof

variable {p : Prop} {k : Kept}

theorem State.mntErr_ok {s : State} (hs : Ok k s) (a2) : Ok k (State.mntErr s a2) := by
  unfold State.mntErr
  repeat' first
    | with_reducible assumption
    | with_reducible first | apply State.raise_ok | apply State.wb_ok | apply State.wf_ok

theorem State.mntDone_ok {s : State} (hs : Ok k s) : Ok k (State.mntDone s) := by
  unfold State.mntDone
  repeat' first
    | with_reducible assumption
    | with_reducible first | apply State.raise_ok | apply State.wb_ok

theorem Coh.mntSlot_ok {c : Coh} (hc : CohOk p c) (a2 : State) (a3 a4) : OptOk (CohOk p) (Coh.mntSlot c a2 a3 a4) := by
  unfold Coh.mntSlot
  repeat' first
    | with_reducible assumption
    | intro _
    | with_reducible first | apply Coh.readSlot_ok | apply Coh.checkRow_ok | apply Coh.freeTag_ok | apply Coh.setTag_ok | apply Coh.sctr_ok | apply Coh.woken_ok | apply Coh.emit_ok | exact OptOk.none | refine OptOk.some ?_
    | (with_reducible refine Coh.readSlot_okE (by with_reducible assumption) ?_)
    | extract_lets +onlyGivenNames z; first
      | (refine cut (Q := CohOk p z) ?_ ?_; (on_goal 2 => (intro hz; clear_value z; rename' z => w)); unfold z; clear z)
      | (refine cut (Q := ∀ x0, CohOk p x0 → CohOk p (z x0)) ?_ ?_; (on_goal 2 => (intro hz; clear_value z; rename' z => w)); unfold z; clear z)
      | (refine cut (Q := CohOk p z.2) ?_ ?_; (on_goal 2 => (intro hz; clear_value z; rename' z => w)); unfold z; clear z)
      | (clear_value z; rename' z => w)
      | rename' z => w
    | with_reducible apply_assumption -exfalso
    | split
    | with_reducible first | refine CohOk.of_mk ?_ rfl rfl rfl rfl rfl rfl
theorem Coh.mntSlot_okE {t} {c : Coh}  {a2 : State} {a3 a4} (e : (Coh.mntSlot c a2 a3 a4) = some t) (hc : CohOk p c) : CohOk p t := by
  have := Coh.mntSlot_ok hc a2 a3 a4; rw [e] at this; exact this

theorem mntSweep_ok (a1 a2 a3 a4 a5) {c : Coh} (hc : CohOk p c) : CohOk p (mntSweep a1 a2 a3 a4 a5 c).2 := by
  induction a5 generalizing c with
  | nil => exact hc
  | cons x t ih =>
    unfold mntSweep
    split
    · next e => exact ih (Coh.mntSlot_okE e hc)
    · exact hc

theorem State.mntSets_ok {s : State} (hs : Ok k s) : Ok k (State.mntSets s) := by
  unfold State.mntSets
  repeat' first
    | with_reducible assumption
    | intro _
    | with_reducible first | apply mntSweep_ok | apply State.runCoh_ok | apply Ok.coh | apply Ok.mon | apply Ok.flash
    | (with_reducible refine mntSweep_okE (by with_reducible assumption) ?_)
    | extract_lets +onlyGivenNames z; first
      | (refine cut (Q := Ok k z) ?_ ?_; (on_goal 2 => (intro hz; clear_value z; rename' z => w)); unfold z; clear z)
      | (clear_value z; rename' z => w)
      | rename' z => w
    | with_reducible first | refine Ok.of_mk ?_ rfl rfl rfl rfl rfl ?_ ?_ ?_

theorem State.mntStart_ok {s : State} (hs : Ok k s) (a2 a3 a4) : Ok k (State.mntStart s a2 a3 a4) := by
  unfold State.mntStart
  repeat' first
    | with_reducible assumption
    | with_reducible first | apply State.mntSets_ok | apply State.mntDone_ok | apply State.mntErr_ok | apply State.raise_ok | apply State.wb_ok | apply State.wf_ok | apply Ok.coh | apply Ok.mon | apply Ok.flash
    | extract_lets +onlyGivenNames z; first
      | (refine cut (Q := Ok k z) ?_ ?_; (on_goal 2 => (intro hz; clear_value z; rename' z => w)); unfold z; clear z)
      | (clear_value z; rename' z => w)
      | rename' z => w
    | split
    | with_reducible first | refine Ok.of_mk ?_ rfl rfl rfl rfl rfl ?_ ?_ ?_

theorem opMntCleanAddr_ok {s : State} (hs : Ok k s) : Ok k (opMntCleanAddr s) := by
  unfold opMntCleanAddr
  repeat' first
    | with_reducible assumption
    | with_reducible first | apply State.mntStart_ok

theorem opMntFlushAddr_ok {s : State} (hs : Ok k s) : Ok k (opMntFlushAddr s) := by
  unfold opMntFlushAddr
  repeat' first
    | with_reducible assumption
    | with_reducible first | apply State.mntStart_ok

theorem opMntInvalAddr_ok {s : State} (hs : Ok k s) (a1) : Ok k (opMntInvalAddr a1 s) := by
  unfold opMntInvalAddr
  repeat' first
    | with_reducible assumption
    | with_reducible first | apply State.mntStart_ok

theorem opMntCleanSw_ok {s : State} (hs : Ok k s) : Ok k (opMntCleanSw s) := by
  unfold opMntCleanSw
  repeat' first
    | with_reducible assumption
    | with_reducible first | apply State.mntStart_ok

theorem opMntFlushSw_ok {s : State} (hs : Ok k s) : Ok k (opMntFlushSw s) := by
  unfold opMntFlushSw
  repeat' first
    | with_reducible assumption
    | with_reducible first | apply State.mntStart_ok

theorem opMntInvalSw_ok {s : State} (hs : Ok k s) : Ok k (opMntInvalSw s) := by
  unfold opMntInvalSw
  repeat' first
    | with_reducible assumption
    | with_reducible first | apply State.mntStart_ok

theorem opMntIssue_ok {s : State} (hs : Ok k s) : Ok k (opMntIssue s) := by
  unfold opMntIssue
  repeat' first
    | with_reducible assumption
    | with_reducible first | apply State.arriveReq_ok | apply Ok.coh | apply Ok.mon | apply Ok.flash
    | extract_lets +onlyGivenNames z; first | (clear_value z; rename' z => w) | rename' z => w
    | split
    | with_reducible first | refine Ok.of_mk ?_ rfl rfl rfl rfl rfl ?_ ?_ ?_

theorem opMntComplete_ok {s : State} (hs : Ok k s) : Ok k (opMntComplete s) := by
  unfold opMntComplete
  repeat' first
    | with_reducible assumption
    | with_reducible first | apply State.mntSets_ok | apply State.mntDone_ok
    | extract_lets +onlyGivenNames z; first
      | (refine cut (Q := Ok k z) ?_ ?_; (on_goal 2 => (intro hz; clear_value z; rename' z => w)); unfold z; clear z)
      | (clear_value z; rename' z => w)
      | rename' z => w
    | split

theorem execMntCleanAddr_keeps (s) : Keeps (execMntCleanAddr s) s := by
  refine Keeps.next fun k hs => ?_
  repeat' first
    | with_reducible assumption
    | intro _
    | with_reducible first | apply opMntCleanAddr_ok | apply State.onReg_ok

theorem execMntFlushAddr_keeps (s) : Keeps (execMntFlushAddr s) s := by
  refine Keeps.next fun k hs => ?_
  repeat' first
    | with_reducible assumption
    | intro _
    | with_reducible first | apply opMntFlushAddr_ok | apply State.onReg_ok

theorem execMntInvalAddr_keeps (a1) (s) : Keeps (execMntInvalAddr a1 s) s := by
  refine Keeps.next fun k hs => ?_
  repeat' first
    | with_reducible assumption
    | intro _
    | with_reducible first | apply opMntInvalAddr_ok | apply State.onReg_ok

theorem execMntCleanSw_keeps (s) : Keeps (execMntCleanSw s) s := by
  refine Keeps.next fun k hs => ?_
  repeat' first
    | with_reducible assumption
    | intro _
    | with_reducible first | apply opMntCleanSw_ok | apply State.onReg_ok

theorem execMntFlushSw_keeps (s) : Keeps (execMntFlushSw s) s := by
  refine Keeps.next fun k hs => ?_
  repeat' first
    | with_reducible assumption
    | intro _
    | with_reducible first | apply opMntFlushSw_ok | apply State.onReg_ok

theorem execMntInvalSw_keeps (s) : Keeps (execMntInvalSw s) s := by
  refine Keeps.next fun k hs => ?_
  repeat' first
    | with_reducible assumption
    | intro _
    | with_reducible first | apply opMntInvalSw_ok | apply State.onReg_ok

theorem execMntRangeLineIssue_keeps (s) : Keeps (execMntRangeLineIssue s) s := by
  refine Keeps.next fun k hs => ?_
  repeat' first
    | with_reducible assumption
    | with_reducible first | apply opMntIssue_ok

theorem execMntComplete_keeps (s) : Keeps (execMntComplete s) s := by
  refine Keeps.next fun k hs => ?_
  repeat' first
    | with_reducible assumption
    | with_reducible first | apply opMntComplete_ok

theorem State.setDraining_ok {s : State} (hs : Ok k s) (a2 a3 a4) : Ok k (State.setDraining s a2 a3 a4) := by
  unfold State.setDraining
  repeat' first
    | with_reducible assumption
    | with_reducible first | apply State.wr_ok

theorem State.wayWrite_ok {s : State} (hs : Ok k s) (a2 a3 a4) : Ok k (State.wayWrite s a2 a3 a4) := by
  unfold State.wayWrite
  repeat' first
    | with_reducible assumption
    | with_reducible first | apply State.setDraining_ok | apply State.wr_ok | apply Ok.coh | apply Ok.mon | apply Ok.flash
    | extract_lets +onlyGivenNames z; first | (clear_value z; rename' z => w) | rename' z => w
    | split
    | with_reducible first | refine Ok.of_mk ?_ rfl rfl rfl rfl rfl ?_ ?_ ?_

theorem opWayEn_ok {s : State} (hs : Ok k s) (a1 a2) : Ok k (opWayEn a1 a2 s) := by
  unfold opWayEn
  repeat' first
    | with_reducible assumption
    | intro _
    | with_reducible first | apply State.wayWrite_ok | refine foldl_keeps (Q := fun x : State => Ok k x) ?_ ?_

theorem Coh.drainVisit_ok {c : Coh} (hc : CohOk p c) (a2 : State) (a3) : OptOk (fun x => CohOk p x.1) (Coh.drainVisit c a2 a3) := by
  unfold Coh.drainVisit
  repeat' first
    | with_reducible assumption
    | with_reducible first | apply Coh.evictSlot_ok | apply Coh.checkRow_ok | apply Coh.woken_ok | exact OptOk.none | refine OptOk.some ?_
    | extract_lets +onlyGivenNames z; first
      | (refine cut (Q := CohOk p z) ?_ ?_; (on_goal 2 => (intro hz; clear_value z; rename' z => w)); unfold z; clear z)
      | (clear_value z; rename' z => w)
      | rename' z => w
    | split
theorem Coh.drainVisit_okE {t yr} {c : Coh}  {a2 : State} {a3} (e : (Coh.drainVisit c a2 a3) = some (t, yr)) (hc : CohOk p c) : CohOk p t := by
  have := Coh.drainVisit_ok hc a2 a3; rw [e] at this; exact this

theorem opWayVisit_ok {s : State} (hs : Ok k s) (a1 a2) : Ok k (opWayVisit a1 a2 s) := by
  unfold opWayVisit
  repeat' first
    | with_reducible assumption
    | intro _
    | with_reducible first | apply Coh.drainVisit_ok | apply State.runCoh_ok | apply Ok.coh | apply Ok.mon | apply Ok.flash
    | (with_reducible refine Coh.drainVisit_okE (by with_reducible assumption) ?_)
    | extract_lets +onlyGivenNames z; first
      | (refine cut (Q := Ok k z) ?_ ?_; (on_goal 2 => (intro hz; clear_value z; rename' z => w)); unfold z; clear z)
      | (clear_value z; rename' z => w)
      | rename' z => w
    | split
    | with_reducible first | refine Ok.of_mk ?_ rfl rfl rfl rfl rfl ?_ ?_ ?_

theorem opWayDone_ok {s : State} (hs : Ok k s) (a1 a2) : Ok k (opWayDone a1 a2 s) := by
  unfold opWayDone
  repeat' first
    | with_reducible assumption
    | with_reducible first | apply State.setDraining_ok | apply State.raise_ok | apply State.wb_ok | apply Ok.coh | apply Ok.mon | apply Ok.flash
    | split
    | with_reducible first | refine Ok.of_mk ?_ rfl rfl rfl rfl rfl ?_ ?_ ?_

theorem execSlcWayEnWrite_keeps (a1 a2) (s) : Keeps (execSlcWayEnWrite a1 a2 s) s := by
  refine Keeps.next fun k hs => ?_
  repeat' first
    | with_reducible assumption
    | intro _
    | with_reducible first | apply opWayEn_ok | apply State.onReg_ok

theorem execWayDrainVisit_keeps (a1 a2) (s) : Keeps (execWayDrainVisit a1 a2 s) s := by
  refine Keeps.next fun k hs => ?_
  repeat' first
    | with_reducible assumption
    | with_reducible first | apply opWayVisit_ok

theorem execWayDrainDone_keeps (a1 a2) (s) : Keeps (execWayDrainDone a1 a2 s) s := by
  refine Keeps.next fun k hs => ?_
  repeat' first
    | with_reducible assumption
    | with_reducible first | apply opWayDone_ok

theorem opCmiCtl_ok {s : State} (hs : Ok k s) (a1 a2) : Ok k (opCmiCtl a1 a2 s) := by
  unfold opCmiCtl
  repeat' first
    | with_reducible assumption
    | with_reducible first | apply State.raise_ok | apply State.wb_ok | apply Ok.coh | apply Ok.mon | apply Ok.flash
    | extract_lets +onlyGivenNames z; first
      | (refine cut (Q := Ok k z) ?_ ?_; (on_goal 2 => (intro hz; clear_value z; rename' z => w)); unfold z; clear z)
      | (clear_value z; rename' z => w)
      | rename' z => w
    | split
    | with_reducible first | refine Ok.of_mk ?_ rfl rfl rfl rfl rfl ?_ ?_ ?_

theorem opChannelDone_ok {s : State} (hs : Ok k s) (a1) : Ok k (opChannelDone a1 s) := by
  unfold opChannelDone
  repeat' first
    | with_reducible assumption
    | with_reducible first | apply State.raise_ok | apply State.wb_ok | apply Ok.coh | apply Ok.mon | apply Ok.flash
    | extract_lets +onlyGivenNames z; first | (clear_value z; rename' z => w) | rename' z => w
    | split
    | with_reducible first | refine Ok.of_mk ?_ rfl rfl rfl rfl rfl ?_ ?_ ?_

theorem opCmiTrained_ok {s : State} (hs : Ok k s) (a1 a2) : Ok k (opCmiTrained a1 a2 s) := by
  unfold opCmiTrained
  repeat' first
    | with_reducible assumption
    | intro _
    | with_reducible first | apply State.runCoh_ok | apply Coh.woken_ok | apply State.raise_ok | apply State.wb_ok
    | split

theorem execCmiCtlWrite_keeps (a1 a2) (s) : Keeps (execCmiCtlWrite a1 a2 s) s := by
  refine Keeps.next fun k hs => ?_
  repeat' first
    | with_reducible assumption
    | intro _
    | with_reducible first | apply opCmiCtl_ok | apply State.onReg_ok

theorem execChannelDisableDone_keeps (a1) (s) : Keeps (execChannelDisableDone a1 s) s := by
  refine Keeps.next fun k hs => ?_
  repeat' first
    | with_reducible assumption
    | with_reducible first | apply opChannelDone_ok

theorem execCmiTrainingDone_keeps (a1 a2) (s) : Keeps (execCmiTrainingDone a1 a2 s) s := by
  refine Keeps.next fun k hs => ?_
  repeat' first
    | with_reducible assumption
    | with_reducible first | apply opCmiTrained_ok

end Sys2Proof.Machine
end

