-- ==== Sys2Proof/Laws/KeepPromise.lean ====
section
/-! SUPPORT. What the operations of Machine/Promise.lean keep (Laws/Keep.lean says what is kept). -/

set_option linter.all false

namespace Sys2Proof.Machine
open Sys2Proof

variable {p : Prop} {k : Kept}

theorem State.noteMargin_ok {s : State} (hs : Ok k s) : Ok k (State.noteMargin s) := by
  unfold State.noteMargin
  repeat' first
    | with_reducible assumption
    | with_reducible first | apply Ok.coh | apply Ok.mon | apply Ok.flash
    | extract_lets +onlyGivenNames z; first | (clear_value z; rename' z => w) | rename' z => w
    | split
    | with_reducible first | refine Ok.of_mk ?_ rfl rfl rfl rfl rfl ?_ ?_ ?_

theorem State.floorsReached_ok {s : State} (hs : Ok k s) : Ok k (State.floorsReached s) := by
  unfold State.floorsReached
  repeat' first
    | with_reducible assumption
    | with_reducible first | apply Ok.coh | apply Ok.mon | apply Ok.flash
    | extract_lets +onlyGivenNames z; first | (clear_value z; rename' z => w) | rename' z => w
    | split
    | with_reducible first | refine Ok.of_mk ?_ rfl rfl rfl rfl rfl ?_ ?_ ?_

theorem State.restartHold_ok {s : State} (hs : Ok k s) : Ok k (State.restartHold s) := by
  unfold State.restartHold
  repeat' first
    | with_reducible assumption
    | with_reducible first | apply Ok.coh | apply Ok.mon | apply Ok.flash
    | extract_lets +onlyGivenNames z; first | (clear_value z; rename' z => w) | rename' z => w
    | with_reducible first | refine Ok.of_mk ?_ rfl rfl rfl rfl rfl ?_ ?_ ?_

theorem State.checkHold_ok {s : State} (hs : Ok k s) (a2) : Ok k (State.checkHold s a2) := by
  unfold State.checkHold
  repeat' first
    | with_reducible assumption
    | with_reducible first | apply State.restartHold_ok
    | split

theorem State.setVmon_ok {s : State} (hs : Ok k s) (a2 a3) : Ok k (State.setVmon s a2 a3) := by
  unfold State.setVmon
  repeat' first
    | with_reducible assumption
    | with_reducible first | apply State.checkHold_ok | apply State.floorsReached_ok | apply Ok.coh | apply Ok.mon | apply Ok.flash
    | extract_lets +onlyGivenNames z; first | (clear_value z; rename' z => w) | rename' z => w
    | with_reducible first | refine Ok.of_mk ?_ rfl rfl rfl rfl rfl ?_ ?_ ?_

theorem opPace_ok {s : State} (hs : Ok k s) (a1) : Ok k (opPace a1 s) := by
  unfold opPace
  repeat' first
    | with_reducible assumption
    | with_reducible first | apply State.checkHold_ok | apply Ok.coh | apply Ok.mon | apply Ok.flash
    | extract_lets +onlyGivenNames z; first | (clear_value z; rename' z => w) | rename' z => w
    | split
    | with_reducible first | refine Ok.of_mk ?_ rfl rfl rfl rfl rfl ?_ ?_ ?_

theorem execPaceReading_keeps (a1) (s) : Keeps (execPaceReading a1 s) s := by
  refine Keeps.next fun k hs => ?_
  repeat' first
    | with_reducible assumption
    | with_reducible first | apply opPace_ok

theorem State.addCredit_ok {s : State} (hs : Ok k s) (a2 a3) : Ok k (State.addCredit s a2 a3) := by
  unfold State.addCredit
  repeat' first
    | with_reducible assumption
    | intro _
    | with_reducible first | apply State.setPort_ok

theorem State.releaseAgent_ok {s : State} (hs : Ok k s) (a2 a3 a4) : Ok k (State.releaseAgent s a2 a3 a4) := by
  unfold State.releaseAgent
  repeat' first
    | with_reducible assumption
    | intro _
    | with_reducible first | apply State.addCredit_ok | apply State.sendCtl_ok | apply State.count_ok
    | extract_lets +onlyGivenNames z; first
      | (refine cut (Q := ∀ x0, Ok k x0 → Ok k (z x0)) ?_ ?_; (on_goal 2 => (intro hz; clear_value z; rename' z => w)); unfold z; clear z)
      | (clear_value z; rename' z => w)
      | rename' z => w
    | with_reducible apply_assumption -exfalso
    | split

theorem State.releaseDrill_ok {s : State} (hs : Ok k s) (a2 a3) : Ok k (State.releaseDrill s a2 a3) := by
  unfold State.releaseDrill
  repeat' first
    | with_reducible assumption
    | with_reducible first | apply State.addCredit_ok | apply State.count_ok
    | extract_lets +onlyGivenNames z; first | (clear_value z; rename' z => w) | rename' z => w
    | split

theorem State.releaseResow_ok {s : State} (hs : Ok k s) (a2) : Ok k (State.releaseResow s a2) := by
  unfold State.releaseResow
  repeat' first
    | with_reducible assumption
    | with_reducible first | apply Ok.coh | apply Ok.mon | apply Ok.flash
    | extract_lets +onlyGivenNames z; first | (clear_value z; rename' z => w) | rename' z => w
    | split
    | with_reducible first | refine Ok.of_mk ?_ rfl rfl rfl rfl rfl ?_ ?_ ?_

theorem opCreditRelease_ok {s : State} (hs : Ok k s) (a1 a2) (a3 a4) : Ok k (opCreditRelease a1 a2 a3 a4 s) := by
  unfold opCreditRelease
  repeat' first
    | with_reducible assumption
    | with_reducible first | apply State.releaseResow_ok | apply State.releaseDrill_ok | apply State.releaseAgent_ok
    | split

theorem execCreditRelease_keeps (a1 a2 a3 a4) (s) : Keeps (execCreditRelease a1 a2 a3 a4 s) s := by
  refine Keeps.next fun k hs => ?_
  repeat' first
    | with_reducible assumption
    | with_reducible first | apply opCreditRelease_ok

theorem State.enterFallback_ok {s : State} (hs : Ok k s) : Ok k (State.enterFallback s) := by
  unfold State.enterFallback
  repeat' first
    | with_reducible assumption
    | with_reducible first | apply State.raise_ok | apply State.wb_ok | apply Ok.coh | apply Ok.mon | apply Ok.flash
    | extract_lets +onlyGivenNames z; first
      | (refine cut (Q := Ok k z) ?_ ?_; (on_goal 2 => (intro hz; clear_value z; rename' z => w)); unfold z; clear z)
      | (clear_value z; rename' z => w)
      | rename' z => w
    | split
    | with_reducible first | refine Ok.of_mk ?_ rfl rfl rfl rfl rfl ?_ ?_ ?_

theorem State.breach_ok {s : State} (hs : Ok k s) (a2 a3) (a4 a5) (a6 a7) : Ok k (State.breach s a2 a3 a4 a5 a6 a7) := by
  unfold State.breach
  repeat' first
    | with_reducible assumption
    | with_reducible first | apply State.enterFallback_ok | apply State.raiseLog_ok | apply State.wr_ok | apply Ok.coh | apply Ok.mon | apply Ok.flash
    | extract_lets +onlyGivenNames z; first
      | (refine cut (Q := Ok k z) ?_ ?_; (on_goal 2 => (intro hz; clear_value z; rename' z => w)); unfold z; clear z)
      | (clear_value z; rename' z => w)
      | rename' z => w
    | split
    | with_reducible first | refine Ok.of_mk ?_ rfl rfl rfl rfl rfl ?_ ?_ ?_

theorem opBreach_ok {s : State} (hs : Ok k s) (a1) : Ok k (opBreach a1 s) := by
  unfold opBreach
  repeat' first
    | with_reducible assumption
    | with_reducible first | apply State.breach_ok | apply State.setVmon_ok | apply Ok.coh | apply Ok.mon | apply Ok.flash
    | extract_lets +onlyGivenNames z; first
      | (refine cut (Q := Ok k z) ?_ ?_; (on_goal 2 => (intro hz; clear_value z; rename' z => w)); unfold z; clear z)
      | (clear_value z; rename' z => w)
      | rename' z => w
    | split
    | with_reducible first | refine Ok.of_mk ?_ rfl rfl rfl rfl rfl ?_ ?_ ?_

theorem execBreachDetected_keeps (a1) (s) : Keeps (execBreachDetected a1 s) s := by
  refine Keeps.next fun k hs => ?_
  repeat' first
    | with_reducible assumption
    | with_reducible first | apply opBreach_ok

theorem opDeadline_ok {s : State} (hs : Ok k s) (a1) : Ok k (opDeadline a1 s) := by
  unfold opDeadline
  repeat' first
    | with_reducible assumption
    | with_reducible first | apply State.breach_ok | apply State.count_ok | apply Ok.coh | apply Ok.mon | apply Ok.flash
    | extract_lets +onlyGivenNames z; first
      | (refine cut (Q := Ok k z) ?_ ?_; (on_goal 2 => (intro hz; clear_value z; rename' z => w)); unfold z; clear z)
      | (clear_value z; rename' z => w)
      | rename' z => w
    | split
    | with_reducible first | refine Ok.of_mk ?_ rfl rfl rfl rfl rfl ?_ ?_ ?_

theorem execPromiseDeadline_keeps (a1) (s) : Keeps (execPromiseDeadline a1 s) s := by
  refine Keeps.next fun k hs => ?_
  repeat' first
    | with_reducible assumption
    | with_reducible first | apply opDeadline_ok

theorem State.leaveFallback_ok {s : State} (hs : Ok k s) : Ok k (State.leaveFallback s) := by
  unfold State.leaveFallback
  repeat' first
    | with_reducible assumption
    | with_reducible first | apply State.restartHold_ok | apply State.noteMargin_ok | apply State.raise_ok | apply State.wb_ok

theorem opAutoReturn_ok {s : State} (hs : Ok k s) : Ok k (opAutoReturn s) := by
  unfold opAutoReturn
  repeat' first
    | with_reducible assumption
    | with_reducible first | apply State.leaveFallback_ok
    | split

theorem execFallbackAutoReturn_keeps (s) : Keeps (execFallbackAutoReturn s) s := by
  refine Keeps.next fun k hs => ?_
  repeat' first
    | with_reducible assumption
    | with_reducible first | apply opAutoReturn_ok

theorem State.ceilingAgent_ok {s : State} (hs : Ok k s) (a2 a3) : Ok k (State.ceilingAgent s a2 a3) := by
  unfold State.ceilingAgent
  repeat' first
    | with_reducible assumption
    | intro _
    | with_reducible first | apply State.pointReached_ok | apply State.toAgent_ok | apply State.raiseFirst_ok | apply State.count_ok | apply State.setPort_ok
    | extract_lets +onlyGivenNames z; first
      | (refine cut (Q := Ok k z) ?_ ?_; (on_goal 2 => (intro hz; clear_value z; rename' z => w)); unfold z; clear z)
      | (clear_value z; rename' z => w)
      | rename' z => w
    | split

theorem Coh.dropPrefetch_ok {c : Coh} (hc : CohOk p c) (a2 a3) : CohOk p (Coh.dropPrefetch c a2 a3) := by
  unfold Coh.dropPrefetch
  repeat' first
    | with_reducible assumption
    | intro _
    | with_reducible first | apply Coh.setTxn_ok | apply Coh.freeTag_ok
    | extract_lets +onlyGivenNames z; first
      | (refine cut (Q := CohOk p z) ?_ ?_; (on_goal 2 => (intro hz; clear_value z; rename' z => w)); unfold z; clear z)
      | (clear_value z; rename' z => w)
      | rename' z => w
    | split
    | with_reducible first | refine CohOk.of_mk ?_ rfl rfl rfl rfl rfl rfl

theorem State.ceilingPrefetch_ok {s : State} (hs : Ok k s) (a2 a3) : Ok k (State.ceilingPrefetch s a2 a3) := by
  unfold State.ceilingPrefetch
  repeat' first
    | with_reducible assumption
    | intro _
    | with_reducible first | apply Coh.dropPrefetch_ok | apply State.runCoh_ok | apply Coh.woken_ok | apply State.count_ok | apply State.setPort_ok
    | extract_lets +onlyGivenNames z; first
      | (refine cut (Q := Ok k z) ?_ ?_; (on_goal 2 => (intro hz; clear_value z; rename' z => w)); unfold z; clear z)
      | (clear_value z; rename' z => w)
      | rename' z => w
    | split

theorem State.startSwitch_ok {s : State} (hs : Ok k s) (a2) : Ok k (State.startSwitch s a2) := by
  unfold State.startSwitch
  repeat' first
    | with_reducible assumption
    | with_reducible first | apply State.noteMargin_ok | apply State.wb_ok | apply State.wf_ok | apply Ok.coh | apply Ok.mon | apply Ok.flash
    | extract_lets +onlyGivenNames z; first
      | (refine cut (Q := Ok k z) ?_ ?_; (on_goal 2 => (intro hz; clear_value z; rename' z => w)); unfold z; clear z)
      | (clear_value z; rename' z => w)
      | rename' z => w
    | with_reducible first | refine Ok.of_mk ?_ rfl rfl rfl rfl rfl ?_ ?_ ?_

theorem State.requestMode_ok {s : State} (hs : Ok k s) (a2) : Ok k (State.requestMode s a2) := by
  unfold State.requestMode
  repeat' first
    | with_reducible assumption
    | with_reducible first | apply State.startSwitch_ok | apply State.wf_ok
    | split

theorem opPrmMode_ok {s : State} (hs : Ok k s) (a1) : Ok k (opPrmMode a1 s) := by
  unfold opPrmMode
  repeat' first
    | with_reducible assumption
    | with_reducible first | apply State.requestMode_ok | apply State.leaveFallback_ok | apply State.wb_ok
    | extract_lets +onlyGivenNames z; first
      | (refine cut (Q := Ok k z) ?_ ?_; (on_goal 2 => (intro hz; clear_value z; rename' z => w)); unfold z; clear z)
      | (clear_value z; rename' z => w)
      | rename' z => w
    | split

theorem execPrmModeWrite_keeps (a1) (s) : Keeps (execPrmModeWrite a1 s) s := by
  refine Keeps.next fun k hs => ?_
  repeat' first
    | with_reducible assumption
    | intro _
    | with_reducible first | apply opPrmMode_ok | apply State.onReg_ok

theorem State.takeMode_ok {s : State} (hs : Ok k s) : Ok k (State.takeMode s) := by
  unfold State.takeMode
  repeat' first
    | with_reducible assumption
    | with_reducible first | apply State.floorsReached_ok | apply State.noteMargin_ok | apply State.wb_ok | apply State.wf_ok | apply Ok.coh | apply Ok.mon | apply Ok.flash
    | extract_lets +onlyGivenNames z; first
      | (refine cut (Q := Ok k z) ?_ ?_; (on_goal 2 => (intro hz; clear_value z; rename' z => w)); unfold z; clear z)
      | (clear_value z; rename' z => w)
      | rename' z => w
    | split
    | with_reducible first | refine Ok.of_mk ?_ rfl rfl rfl rfl rfl ?_ ?_ ?_

theorem State.imageMode_ok {s : State} (hs : Ok k s) (a2) : Ok k (State.imageMode s a2) := by
  unfold State.imageMode
  repeat' first
    | with_reducible assumption
    | with_reducible first | apply State.takeMode_ok | apply State.wf_ok
    | split

theorem opModeSwitch_ok {s : State} (hs : Ok k s) : Ok k (opModeSwitch s) := by
  unfold opModeSwitch
  repeat' first
    | with_reducible assumption
    | with_reducible first | apply State.takeMode_ok | apply State.raise_ok
    | split

theorem execModeSwitchComplete_keeps (s) : Keeps (execModeSwitchComplete s) s := by
  refine Keeps.next fun k hs => ?_
  repeat' first
    | with_reducible assumption
    | with_reducible first | apply opModeSwitch_ok

end Sys2Proof.Machine
end

