-- ==== Sys2Proof/Laws/KeepDrill.lean ====
section
/-! SUPPORT. What the operations of Machine/Drill.lean keep (Laws/Keep.lean says what is kept). -/

set_option linter.all false

namespace Sys2Proof.Machine
open Sys2Proof

variable {p : Prop} {k : Kept}

theorem State.setDrill_ok {s : State} (hs : Ok k s) (a2) (a3 : Sys2Proof.Machine.DrillSt → Sys2Proof.Machine.DrillSt) : Ok k (State.setDrill s a2 a3) := by
  unfold State.setDrill
  repeat' first
    | with_reducible assumption
    | intro _
    | with_reducible first | apply State.setPort_ok
    | with_reducible apply_assumption -exfalso

theorem State.train_ok {s : State} (hs : Ok k s) (a2 a3) : Ok k (State.train s a2 a3) := by
  unfold State.train
  repeat' first
    | with_reducible assumption
    | intro _
    | with_reducible first | apply State.setDrill_ok | apply State.count_ok
    | extract_lets +onlyGivenNames z; first
      | (refine cut (Q := Ok k z) ?_ ?_; (on_goal 2 => (intro hz; clear_value z; rename' z => w)); unfold z; clear z)
      | (clear_value z; rename' z => w)
      | rename' z => w
    | split

theorem State.setTracker_ok {s : State} (hs : Ok k s) (a2 a3) (a4 : Sys2Proof.Machine.StreamTracker → Sys2Proof.Machine.StreamTracker) : Ok k (State.setTracker s a2 a3 a4) := by
  unfold State.setTracker
  repeat' first
    | with_reducible assumption
    | intro _
    | with_reducible first | apply State.setDrill_ok
    | with_reducible apply_assumption -exfalso

theorem State.popPend_ok {s : State} (hs : Ok k s) (a2 a3) : Ok k (State.popPend s a2 a3) := by
  unfold State.popPend
  repeat' first
    | with_reducible assumption
    | intro _
    | with_reducible first | apply State.setTracker_ok

theorem State.issueLine_ok {s : State} (hs : Ok k s) (a2 a3 a4) : OptOk (Ok k) (State.issueLine s a2 a3 a4) := by
  unfold State.issueLine
  repeat' first
    | with_reducible assumption
    | intro _
    | with_reducible first | apply State.popPend_ok | apply State.setTracker_ok | apply State.setDrill_ok | apply State.count_ok | apply State.setPort_ok | apply Ok.coh | apply Ok.mon | apply Ok.flash | exact OptOk.none | refine OptOk.some ?_
    | extract_lets +onlyGivenNames z; first
      | (refine cut (Q := ∀ x0, ∀ x1, ∀ x2, Ok k x2 → Ok k (z x0 x1 x2)) ?_ ?_; (on_goal 2 => (intro hz; clear_value z; rename' z => w)); unfold z; clear z)
      | (refine cut (Q := Ok k z) ?_ ?_; (on_goal 2 => (intro hz; clear_value z; rename' z => w)); unfold z; clear z)
      | (clear_value z; rename' z => w)
      | rename' z => w
    | with_reducible apply_assumption -exfalso
    | split
    | with_reducible first | refine Ok.of_mk ?_ rfl rfl rfl rfl rfl ?_ ?_ ?_
theorem State.issueLine_okE {t} {s : State}  {a2 a3 a4} (e : (State.issueLine s a2 a3 a4) = some t) (hs : Ok k s) : Ok k t := by
  have := State.issueLine_ok hs a2 a3 a4; rw [e] at this; exact this

theorem State.awaitWalk_ok {s : State} (hs : Ok k s) (a2 a3) : Ok k (State.awaitWalk s a2 a3) := by
  unfold State.awaitWalk
  repeat' first
    | with_reducible assumption
    | intro _
    | with_reducible first | apply State.setTracker_ok
    | extract_lets +onlyGivenNames z; first | (clear_value z; rename' z => w) | rename' z => w
    | split

theorem State.prefetchMiss_ok {s : State} (hs : Ok k s) (a2 a3 a4) : OptOk (Ok k) (State.prefetchMiss s a2 a3 a4) := by
  unfold State.prefetchMiss
  repeat' first
    | with_reducible assumption
    | with_reducible first | apply State.awaitWalk_ok | apply State.popPend_ok | apply State.startWalk_ok | apply State.count_ok | exact OptOk.none | refine OptOk.some ?_
    | split
theorem State.prefetchMiss_okE {t} {s : State}  {a2 a3 a4} (e : (State.prefetchMiss s a2 a3 a4) = some t) (hs : Ok k s) : Ok k t := by
  have := State.prefetchMiss_ok hs a2 a3 a4; rw [e] at this; exact this

theorem State.tryIssue_ok {s : State} (hs : Ok k s) (a2 a3) : OptOk (Ok k) (State.tryIssue s a2 a3) := by
  unfold State.tryIssue
  repeat' first
    | with_reducible assumption
    | with_reducible first | apply State.prefetchMiss_ok | apply State.issueLine_ok | apply State.popPend_ok | apply State.lookup_ok | apply State.count_ok | exact OptOk.none | refine OptOk.some ?_
    | (with_reducible refine State.prefetchMiss_okE (by with_reducible assumption) ?_)
    | (with_reducible refine State.issueLine_okE (by with_reducible assumption) ?_)
    | (with_reducible refine State.lookup_okE (by with_reducible assumption) ?_)
    | extract_lets +onlyGivenNames z; first
      | (refine cut (Q := Ok k z.2) ?_ ?_; (on_goal 2 => (intro hz; clear_value z; rename' z => w)); unfold z; clear z)
      | (clear_value z; rename' z => w)
      | rename' z => w
    | split
theorem State.tryIssue_okE {t} {s : State}  {a2 a3} (e : (State.tryIssue s a2 a3) = some t) (hs : Ok k s) : Ok k t := by
  have := State.tryIssue_ok hs a2 a3; rw [e] at this; exact this

theorem opDrillIssue_ok (a1) {s : State} (hs : Ok k s) : Ok k (opDrillIssue a1 s) := by
  unfold opDrillIssue
  split
  · exact hs
  · cases e : (s.issueOrder a1).findSome? (fun i => s.tryIssue a1 i) with
    | none => exact hs
    | some t =>
      obtain ⟨i, -, hi⟩ := List.exists_of_findSome?_eq_some e
      exact State.tryIssue_okE hi hs

theorem opPrefetchPass_ok {s : State} (hs : Ok k s) (a1) : Ok k (opPrefetchPass a1 s) := by
  unfold opPrefetchPass
  repeat' first
    | with_reducible assumption
    | intro _
    | with_reducible first | apply State.setDrill_ok | apply State.arriveReq_ok | apply State.crossItem_ok
    | extract_lets +onlyGivenNames z; first | (clear_value z; rename' z => w) | rename' z => w
    | split

theorem execPrefetchPass_keeps (a1) (s) : Keeps (execPrefetchPass a1 s) s := by
  refine Keeps.next fun k hs => ?_
  repeat' first
    | with_reducible assumption
    | with_reducible first | apply opPrefetchPass_ok

theorem opTrackerIdle_ok {s : State} (hs : Ok k s) (a1 a2) : Ok k (opTrackerIdle a1 a2 s) := by
  unfold opTrackerIdle
  repeat' first
    | with_reducible assumption
    | intro _
    | with_reducible first | apply State.setDrill_ok
    | split

theorem execDrillTrackerIdle_keeps (a1 a2) (s) : Keeps (execDrillTrackerIdle a1 a2 s) s := by
  refine Keeps.next fun k hs => ?_
  repeat' first
    | with_reducible assumption
    | with_reducible first | apply opTrackerIdle_ok

theorem State.setCap_ok {s : State} (hs : Ok k s) (a2) : Ok k (State.setCap s a2) := by
  unfold State.setCap
  repeat' first
    | with_reducible assumption
    | with_reducible first | apply State.raise_ok | apply State.wf_ok
    | extract_lets +onlyGivenNames z; first
      | (refine cut (Q := Ok k z) ?_ ?_; (on_goal 2 => (intro hz; clear_value z; rename' z => w)); unfold z; clear z)
      | (clear_value z; rename' z => w)
      | rename' z => w
    | split

theorem opAccInterval_ok {s : State} (hs : Ok k s) : Ok k (opAccInterval s) := by
  unfold opAccInterval
  repeat' first
    | with_reducible assumption
    | with_reducible first | apply State.setCap_ok | apply Ok.coh | apply Ok.mon | apply Ok.flash
    | split
    | with_reducible first | refine Ok.of_mk ?_ rfl rfl rfl rfl rfl ?_ ?_ ?_

theorem execDrillAccuracyInterval_keeps (s) : Keeps (execDrillAccuracyInterval s) s := by
  refine Keeps.next fun k hs => ?_
  repeat' first
    | with_reducible assumption
    | with_reducible first | apply opAccInterval_ok

theorem State.stopDrill_ok {s : State} (hs : Ok k s) (a2) : Ok k (State.stopDrill s a2) := by
  unfold State.stopDrill
  repeat' first
    | with_reducible assumption
    | intro _
    | with_reducible first | apply State.setPort_ok
    | extract_lets +onlyGivenNames z; first | (clear_value z; rename' z => w) | rename' z => w

theorem opDrlCfg_ok {s : State} (hs : Ok k s) (a1 a2) : Ok k (opDrlCfg a1 a2 s) := by
  unfold opDrlCfg
  repeat' first
    | with_reducible assumption
    | with_reducible first | apply State.stopDrill_ok | apply State.wrRw_ok
    | extract_lets +onlyGivenNames z; first
      | (refine cut (Q := Ok k z) ?_ ?_; (on_goal 2 => (intro hz; clear_value z; rename' z => w)); unfold z; clear z)
      | (clear_value z; rename' z => w)
      | rename' z => w
    | split

theorem opDrlCfg2_ok {s : State} (hs : Ok k s) (a1 a2) : Ok k (opDrlCfg2 a1 a2 s) := by
  unfold opDrlCfg2
  repeat' first
    | with_reducible assumption
    | intro _
    | with_reducible first | apply State.setPort_ok | apply State.wrRw_ok
    | extract_lets +onlyGivenNames z; first
      | (refine cut (Q := Ok k z) ?_ ?_; (on_goal 2 => (intro hz; clear_value z; rename' z => w)); unfold z; clear z)
      | (clear_value z; rename' z => w)
      | rename' z => w
    | split

theorem execDrlCfgWrite_keeps (a1 a2) (s) : Keeps (execDrlCfgWrite a1 a2 s) s := by
  refine Keeps.next fun k hs => ?_
  repeat' first
    | with_reducible assumption
    | intro _
    | with_reducible first | apply opDrlCfg_ok | apply State.onReg_ok

theorem opDrlAcc_ok {s : State} (hs : Ok k s) (a1) : Ok k (opDrlAcc a1 s) := by
  unfold opDrlAcc
  repeat' first
    | with_reducible assumption
    | with_reducible first | apply State.setCap_ok | apply State.wb_ok | apply State.wf_ok
    | extract_lets +onlyGivenNames z; first
      | (refine cut (Q := Ok k z) ?_ ?_; (on_goal 2 => (intro hz; clear_value z; rename' z => w)); unfold z; clear z)
      | (clear_value z; rename' z => w)
      | rename' z => w
    | split

theorem execDrlAccWrite_keeps (a1) (s) : Keeps (execDrlAccWrite a1 s) s := by
  refine Keeps.next fun k hs => ?_
  repeat' first
    | with_reducible assumption
    | intro _
    | with_reducible first | apply opDrlAcc_ok | apply State.onReg_ok

theorem opDecay_ok {s : State} (hs : Ok k s) : Ok k (opDecay s) := by
  unfold opDecay
  repeat' first
    | with_reducible assumption
    | with_reducible first | apply Ok.coh | apply Ok.mon | apply Ok.flash
    | extract_lets +onlyGivenNames z; first
      | (refine cut (Q := CohOk k.p z) ?_ ?_; (on_goal 2 => (intro hz; clear_value z; rename' z => w)); unfold z; clear z)
      | (clear_value z; rename' z => w)
      | rename' z => w
    | split
    | with_reducible first | refine Ok.of_mk ?_ rfl rfl rfl rfl rfl ?_ ?_ ?_ | refine CohOk.of_mk ?_ rfl rfl rfl rfl rfl rfl

theorem execContentionDecay_keeps (s) : Keeps (execContentionDecay s) s := by
  refine Keeps.next fun k hs => ?_
  repeat' first
    | with_reducible assumption
    | with_reducible first | apply opDecay_ok

end Sys2Proof.Machine
end

