-- ==== Sys2Proof/Laws/KeepDarner.lean ====
section
/-! SUPPORT. What the operations of Machine/Darner.lean keep (Laws/Keep.lean says what is kept). -/

set_option linter.all false

namespace Sys2Proof.Machine
open Sys2Proof

variable {p : Prop} {k : Kept}

theorem State.setDar_ok {s : State} (hs : Ok k s) (a2 : Sys2Proof.Machine.DarnerSt → Sys2Proof.Machine.DarnerSt) : Ok k (State.setDar s a2) := by
  unfold State.setDar
  repeat' first
    | with_reducible assumption
    | with_reducible first | apply Ok.coh | apply Ok.mon | apply Ok.flash
    | with_reducible apply_assumption -exfalso
    | with_reducible first | refine Ok.of_mk ?_ rfl rfl rfl rfl rfl ?_ ?_ ?_

theorem opDueTick_ok {s : State} (hs : Ok k s) (a1) : Ok k (opDueTick a1 s) := by
  unfold opDueTick
  repeat' first
    | with_reducible assumption
    | intro _
    | with_reducible first | apply State.setDar_ok | apply State.count_ok | apply State.raise_ok | apply State.wb_ok
    | extract_lets +onlyGivenNames z; first
      | (refine cut (Q := Ok k z) ?_ ?_; (on_goal 2 => (intro hz; clear_value z; rename' z => w)); unfold z; clear z)
      | (clear_value z; rename' z => w)
      | rename' z => w
    | split

theorem execDarnerDueTick_keeps (a1) (s) : Keeps (execDarnerDueTick a1 s) s := by
  refine Keeps.next fun k hs => ?_
  repeat' first
    | with_reducible assumption
    | with_reducible first | apply opDueTick_ok

theorem State.passEnd_ok {s : State} (hs : Ok k s) (a2) : Ok k (State.passEnd s a2) := by
  unfold State.passEnd
  repeat' first
    | with_reducible assumption
    | intro _
    | with_reducible first | apply State.setDar_ok | apply State.raise_ok | apply State.wb_ok
    | extract_lets +onlyGivenNames z; first | (clear_value z; rename' z => w) | rename' z => w
    | split

theorem Coh.visitRow_ok {c : Coh} (hc : CohOk p c) (a2 : State) (a3 a4 a5) : CohOk p (Coh.visitRow c a2 a3 a4 a5) := by
  unfold Coh.visitRow
  repeat' first
    | with_reducible assumption
    | with_reducible first | apply Coh.purgeStart_ok | apply Coh.recallSetStart_ok | apply Coh.checkRow_ok
    | extract_lets +onlyGivenNames z; first
      | (refine cut (Q := CohOk p z) ?_ ?_; (on_goal 2 => (intro hz; clear_value z; rename' z => w)); unfold z; clear z)
      | (clear_value z; rename' z => w)
      | rename' z => w
    | split

theorem Coh.visitSlot_ok {c : Coh} (hc : CohOk p c) (a2 : State) (a3) : CohOk p (Coh.visitSlot c a2 a3) := by
  unfold Coh.visitSlot
  repeat' first
    | with_reducible assumption
    | with_reducible first | apply Coh.visitRow_ok | apply Coh.queueSlot_ok | apply Coh.sctr_ok
    | extract_lets +onlyGivenNames z; first
      | (refine cut (Q := CohOk p z) ?_ ?_; (on_goal 2 => (intro hz; clear_value z; rename' z => w)); unfold z; clear z)
      | (clear_value z; rename' z => w)
      | rename' z => w
    | split

theorem opCacheVisit_ok {s : State} (hs : Ok k s) (a1) : Ok k (opCacheVisit a1 s) := by
  unfold opCacheVisit
  repeat' first
    | with_reducible assumption
    | intro _
    | with_reducible first | apply Coh.visitSlot_ok | apply State.passEnd_ok | apply State.setDar_ok | apply State.runCoh_ok | apply Coh.woken_ok
    | extract_lets +onlyGivenNames z; first
      | (refine cut (Q := Ok k z) ?_ ?_; (on_goal 2 => (intro hz; clear_value z; rename' z => w)); unfold z; clear z)
      | (clear_value z; rename' z => w)
      | rename' z => w
    | split

theorem execDarnerCacheVisit_keeps (a1) (s) : Keeps (execDarnerCacheVisit a1 s) s := by
  refine Keeps.next fun k hs => ?_
  repeat' first
    | with_reducible assumption
    | with_reducible first | apply opCacheVisit_ok

theorem opMemVisit_ok {s : State} (hs : Ok k s) (a1) : Ok k (opMemVisit a1 s) := by
  unfold opMemVisit
  repeat' first
    | with_reducible assumption
    | intro _
    | with_reducible first | apply State.passEnd_ok | apply State.setDar_ok | apply State.runCoh_ok | apply Coh.readRow_ok | apply Coh.queueMem_ok | apply Coh.woken_ok | apply State.count_ok
    | extract_lets +onlyGivenNames z; first
      | (refine cut (Q := Ok k z) ?_ ?_; (on_goal 2 => (intro hz; clear_value z; rename' z => w)); unfold z; clear z)
      | (clear_value z; rename' z => w)
      | rename' z => w
    | split

theorem execDarnerMemVisit_keeps (a1) (s) : Keeps (execDarnerMemVisit a1 s) s := by
  refine Keeps.next fun k hs => ?_
  repeat' first
    | with_reducible assumption
    | with_reducible first | apply opMemVisit_ok

theorem Coh.slotReport_ok {c : Coh} (hc : CohOk p c) (a2 : State) (a3) : CohOk p (Coh.slotReport c a2 a3) := by
  unfold Coh.slotReport
  repeat' first
    | with_reducible assumption
    | intro _
    | with_reducible first | apply Coh.readRow_ok | apply Coh.evictSlot_ok | apply Coh.setTag_ok | apply Coh.sctr_ok | apply Coh.emit_ok
    | extract_lets +onlyGivenNames z; first
      | (refine cut (Q := CohOk p z) ?_ ?_; (on_goal 2 => (intro hz; clear_value z; rename' z => w)); unfold z; clear z)
      | (clear_value z; rename' z => w)
      | rename' z => w
    | split
    | with_reducible first | refine CohOk.of_mk ?_ rfl rfl rfl rfl rfl rfl

theorem opScrubReport_ok {s : State} (hs : Ok k s) (a1) : Ok k (opScrubReport a1 s) := by
  unfold opScrubReport
  repeat' first
    | with_reducible assumption
    | intro _
    | with_reducible first | apply Coh.slotReport_ok | apply State.runCoh_ok | apply Coh.woken_ok

theorem execScrubUeReport_keeps (a1) (s) : Keeps (execScrubUeReport a1 s) s := by
  refine Keeps.next fun k hs => ?_
  repeat' first
    | with_reducible assumption
    | with_reducible first | apply opScrubReport_ok

theorem Coh.memReport_ok {c : Coh} (hc : CohOk p c) (a2 : State) (a3) : CohOk p (Coh.memReport c a2 a3) := by
  unfold Coh.memReport
  repeat' first
    | with_reducible assumption
    | with_reducible first | apply Coh.readRow_ok | apply Coh.readSlot_ok | apply Coh.writeMem_ok | apply Coh.ctr_ok | apply Coh.emit_ok
    | (with_reducible refine Coh.readSlot_okE (by with_reducible assumption) ?_)
    | extract_lets +onlyGivenNames z; first
      | (refine cut (Q := CohOk p z) ?_ ?_; (on_goal 2 => (intro hz; clear_value z; rename' z => w)); unfold z; clear z)
      | (refine cut (Q := CohOk p z.2) ?_ ?_; (on_goal 2 => (intro hz; clear_value z; rename' z => w)); unfold z; clear z)
      | (clear_value z; rename' z => w)
      | rename' z => w
    | split
    | with_reducible first | refine CohOk.of_mk ?_ rfl rfl rfl rfl rfl rfl

theorem opMemReport_ok {s : State} (hs : Ok k s) (a1) : Ok k (opMemReport a1 s) := by
  unfold opMemReport
  repeat' first
    | with_reducible assumption
    | intro _
    | with_reducible first | apply Coh.memReport_ok | apply State.runCoh_ok | apply Coh.woken_ok

theorem execMemUeReport_keeps (a1) (s) : Keeps (execMemUeReport a1 s) s := by
  refine Keeps.next fun k hs => ?_
  repeat' first
    | with_reducible assumption
    | with_reducible first | apply opMemReport_ok

theorem opRestartCache_ok {s : State} (hs : Ok k s) : Ok k (opRestartCache s) := by
  unfold opRestartCache
  repeat' first
    | with_reducible assumption
    | intro _
    | with_reducible first | apply State.setDar_ok

theorem opRestartMem_ok {s : State} (hs : Ok k s) : Ok k (opRestartMem s) := by
  unfold opRestartMem
  repeat' first
    | with_reducible assumption
    | intro _
    | with_reducible first | apply State.setDar_ok

theorem execDarnerRestartCache_keeps (s) : Keeps (execDarnerRestartCache s) s := by
  refine Keeps.next fun k hs => ?_
  repeat' first
    | with_reducible assumption
    | intro _
    | with_reducible first | apply opRestartCache_ok | apply State.onReg_ok

theorem execDarnerRestartMem_keeps (s) : Keeps (execDarnerRestartMem s) s := by
  refine Keeps.next fun k hs => ?_
  repeat' first
    | with_reducible assumption
    | intro _
    | with_reducible first | apply opRestartMem_ok | apply State.onReg_ok

theorem State.resetDue_ok {s : State} (hs : Ok k s) (a2) : Ok k (State.resetDue s a2) := by
  unfold State.resetDue
  repeat' first
    | with_reducible assumption
    | intro _
    | with_reducible first | apply State.setDar_ok
    | split

theorem opDarCtl_ok {s : State} (hs : Ok k s) (a1) : Ok k (opDarCtl a1 s) := by
  unfold opDarCtl
  repeat' first
    | with_reducible assumption
    | with_reducible first | apply State.resetDue_ok | apply opRestartMem_ok | apply opRestartCache_ok | apply State.wrRw_ok
    | extract_lets +onlyGivenNames z; first
      | (refine cut (Q := Ok k z) ?_ ?_; (on_goal 2 => (intro hz; clear_value z; rename' z => w)); unfold z; clear z)
      | (clear_value z; rename' z => w)
      | rename' z => w
    | split

theorem execDarCtlWrite_keeps (a1) (s) : Keeps (execDarCtlWrite a1 s) s := by
  refine Keeps.next fun k hs => ?_
  repeat' first
    | with_reducible assumption
    | intro _
    | with_reducible first | apply opDarCtl_ok | apply State.onReg_ok

theorem opListClear_ok {s : State} (hs : Ok k s) (a1 a2) : Ok k (opListClear a1 a2 s) := by
  unfold opListClear
  repeat' first
    | with_reducible assumption
    | intro _
    | with_reducible first | apply State.setDar_ok
    | split

theorem execRetirementListClear_keeps (a1 a2) (s) : Keeps (execRetirementListClear a1 a2 s) s := by
  refine Keeps.next fun k hs => ?_
  repeat' first
    | with_reducible assumption
    | intro _
    | with_reducible first | apply opListClear_ok | apply State.onReg_ok

theorem opUnretire_ok {s : State} (hs : Ok k s) (a1) : Ok k (opUnretire a1 s) := by
  unfold opUnretire
  repeat' first
    | with_reducible assumption
    | intro _
    | with_reducible first | apply State.runCoh_ok | apply Coh.freeTag_ok | apply Coh.woken_ok | refine foldl_keeps (Q := fun x : Coh => CohOk k.p x) ?_ ?_
    | split

theorem execUnretire_keeps (a1) (s) : Keeps (execUnretire a1 s) s := by
  refine Keeps.next fun k hs => ?_
  repeat' first
    | with_reducible assumption
    | intro _
    | with_reducible first | apply opUnretire_ok | apply State.onReg_ok

theorem opDarRetCtl_ok {s : State} (hs : Ok k s) (a1) : Ok k (opDarRetCtl a1 s) := by
  unfold opDarRetCtl
  repeat' first
    | with_reducible assumption
    | with_reducible first | apply opUnretire_ok | apply opListClear_ok | apply State.wrRw_ok
    | extract_lets +onlyGivenNames z; first
      | (refine cut (Q := Ok k z) ?_ ?_; (on_goal 2 => (intro hz; clear_value z; rename' z => w)); unfold z; clear z)
      | (clear_value z; rename' z => w)
      | rename' z => w
    | split

theorem State.newWindow_ok {s : State} (hs : Ok k s) (a2) : Ok k (State.newWindow s a2) := by
  unfold State.newWindow
  repeat' first
    | with_reducible assumption
    | intro _
    | with_reducible first | apply State.setDar_ok | apply State.wf_ok

theorem State.readEcs_ok {s : State} (hs : Ok k s) (a2 a3) : Ok k (State.readEcs s a2 a3) := by
  unfold State.readEcs
  repeat' first
    | with_reducible assumption
    | intro _
    | with_reducible first | apply State.setDar_ok | apply State.count_ok | apply State.raise_ok | apply State.wb_ok
    | extract_lets +onlyGivenNames z; first
      | (refine cut (Q := Ok k z) ?_ ?_; (on_goal 2 => (intro hz; clear_value z; rename' z => w)); unfold z; clear z)
      | (clear_value z; rename' z => w)
      | rename' z => w
    | split

theorem opWindowEnd_ok {s : State} (hs : Ok k s) (a1 a2) : Ok k (opWindowEnd a1 a2 s) := by
  unfold opWindowEnd
  repeat' first
    | with_reducible assumption
    | with_reducible first | apply State.readEcs_ok | apply State.newWindow_ok
    | extract_lets +onlyGivenNames z; first
      | (refine cut (Q := Ok k z) ?_ ?_; (on_goal 2 => (intro hz; clear_value z; rename' z => w)); unfold z; clear z)
      | (clear_value z; rename' z => w)
      | rename' z => w
    | split

theorem execThresholdWindowEnd_keeps (a1 a2) (s) : Keeps (execThresholdWindowEnd a1 a2 s) s := by
  refine Keeps.next fun k hs => ?_
  repeat' first
    | with_reducible assumption
    | with_reducible first | apply opWindowEnd_ok

theorem opDarThr_ok {s : State} (hs : Ok k s) (a1) : Ok k (opDarThr a1 s) := by
  unfold opDarThr
  repeat' first
    | with_reducible assumption
    | intro _
    | with_reducible first | apply State.newWindow_ok | apply State.wrRw_ok | refine foldl_keeps (Q := fun x : State => Ok k x) ?_ ?_

theorem execDarThrWinWrite_keeps (a1) (s) : Keeps (execDarThrWinWrite a1 s) s := by
  refine Keeps.next fun k hs => ?_
  repeat' first
    | with_reducible assumption
    | intro _
    | with_reducible first | apply opDarThr_ok | apply State.onReg_ok

end Sys2Proof.Machine
end

