-- ==== Sys2Proof/Laws/KeepOrder.lean ====
section
/-! SUPPORT. What the operations of Machine/Order.lean keep (Laws/Keep.lean says what is kept). -/

set_option linter.all false

namespace Sys2Proof.Machine
open Sys2Proof

variable {p : Prop} {k : Kept}

theorem State.setPwq_ok {s : State} (hs : Ok k s) (a2) (a3 : Sys2Proof.Machine.Pwq → Sys2Proof.Machine.Pwq) : Ok k (State.setPwq s a2 a3) := by
  unfold State.setPwq
  repeat' first
    | with_reducible assumption
    | intro _
    | with_reducible first | apply State.setPort_ok
    | with_reducible apply_assumption -exfalso

theorem State.pushPwq_ok {s : State} (hs : Ok k s) (a2 a3) : Ok k (State.pushPwq s a2 a3) := by
  unfold State.pushPwq
  repeat' first
    | with_reducible assumption
    | intro _
    | with_reducible first | apply State.setPwq_ok | apply State.count_ok | apply Monitor.greatest_ok | apply Ok.coh | apply Ok.mon | apply Ok.flash
    | extract_lets +onlyGivenNames z; first
      | (refine cut (Q := Ok k z) ?_ ?_; (on_goal 2 => (intro hz; clear_value z; rename' z => w)); unfold z; clear z)
      | (clear_value z; rename' z => w)
      | rename' z => w
    | with_reducible first | refine Ok.of_mk ?_ rfl rfl rfl rfl rfl ?_ ?_ ?_

theorem opOrderedVisible_ok {s : State} (hs : Ok k s) (a1 a2) : Ok k (opOrderedVisible a1 a2 s) := by
  unfold opOrderedVisible
  repeat' first
    | with_reducible assumption
    | intro _
    | with_reducible first | apply State.setPwq_ok

theorem execOrderedWriteVisible_keeps (a1 a2) (s) : Keeps (execOrderedWriteVisible a1 a2 s) s := by
  refine Keeps.next fun k hs => ?_
  repeat' first
    | with_reducible assumption
    | with_reducible first | apply opOrderedVisible_ok

theorem opPwqFlush_ok {s : State} (hs : Ok k s) (a1) : Ok k (opPwqFlush a1 s) := by
  unfold opPwqFlush
  repeat' first
    | with_reducible assumption
    | intro _
    | with_reducible first | apply State.setPwq_ok
    | extract_lets +onlyGivenNames z; first | (clear_value z; rename' z => w) | rename' z => w
    | split

theorem opFlushWrite_ok {s : State} (hs : Ok k s) (a1) : Ok k (opFlushWrite a1 s) := by
  unfold opFlushWrite
  repeat' first
    | with_reducible assumption
    | with_reducible first | apply opPwqFlush_ok
    | split

theorem execAgpPwqFlush_keeps (a1) (s) : Keeps (execAgpPwqFlush a1 s) s := by
  refine Keeps.next fun k hs => ?_
  repeat' first
    | with_reducible assumption
    | intro _
    | with_reducible first | apply opFlushWrite_ok | apply State.onReg_ok

theorem opPwqFlushDone_ok {s : State} (hs : Ok k s) (a1) : Ok k (opPwqFlushDone a1 s) := by
  unfold opPwqFlushDone
  repeat' first
    | with_reducible assumption
    | intro _
    | with_reducible first | apply State.setPwq_ok | apply State.raise_ok | apply State.wb_ok
    | split

theorem execPwqFlushDone_keeps (a1) (s) : Keeps (execPwqFlushDone a1 s) s := by
  refine Keeps.next fun k hs => ?_
  repeat' first
    | with_reducible assumption
    | with_reducible first | apply opPwqFlushDone_ok

theorem State.pwqHigh_ok {s : State} (hs : Ok k s) (a2 a3) : Ok k (State.pwqHigh s a2 a3) := by
  unfold State.pwqHigh
  repeat' first
    | with_reducible assumption
    | with_reducible first | apply State.raise_ok
    | extract_lets +onlyGivenNames z; first | (clear_value z; rename' z => w) | rename' z => w
    | split

theorem State.spillPwq_ok {s : State} (hs : Ok k s) (a2) : Ok k (State.spillPwq s a2) := by
  unfold State.spillPwq
  repeat' first
    | with_reducible assumption
    | intro _
    | with_reducible first | apply State.pwqHigh_ok | apply State.setPwq_ok | apply State.runCoh_ok | apply Coh.writeSlot_ok | apply State.crossItem_ok | apply State.count_ok | refine foldl_keeps (Q := fun x : State => Ok k x) ?_ ?_ | refine foldl_keeps (Q := fun x : Coh => CohOk k.p x) ?_ ?_
    | extract_lets +onlyGivenNames z; first
      | (refine cut (Q := ∀ x0, CohOk k.p x0 → ∀ x1, CohOk k.p (z x0 x1)) ?_ ?_; (on_goal 2 => (intro hz; clear_value z; rename' z => w)); unfold z; clear z)
      | (refine cut (Q := ∀ x0, Ok k x0 → ∀ x1, Ok k (z x0 x1)) ?_ ?_; (on_goal 2 => (intro hz; clear_value z; rename' z => w)); unfold z; clear z)
      | (refine cut (Q := Ok k z) ?_ ?_; (on_goal 2 => (intro hz; clear_value z; rename' z => w)); unfold z; clear z)
      | (clear_value z; rename' z => w)
      | rename' z => w
    | with_reducible apply_assumption -exfalso
    | split

theorem Coh.readSpill_ok {c : Coh} (hc : CohOk p c) (a2 : State) (a3 a4 a5) : CohOk p (Coh.readSpill c a2 a3 a4 a5) := by
  unfold Coh.readSpill
  repeat' first
    | with_reducible assumption
    | with_reducible first | apply Coh.queueSlot_ok
    | extract_lets +onlyGivenNames z; first | (clear_value z; rename' z => w) | rename' z => w

theorem State.refillPwq_ok {s : State} (hs : Ok k s) (a2) : Ok k (State.refillPwq s a2) := by
  unfold State.refillPwq
  repeat' first
    | with_reducible assumption
    | intro _
    | with_reducible first | apply Coh.readSpill_ok | apply State.setPwq_ok | apply State.runCoh_ok | apply State.crossItem_ok | apply State.count_ok | refine foldl_keeps (Q := fun x : State => Ok k x) ?_ ?_ | refine foldl_keeps (Q := fun x : Coh => CohOk k.p x) ?_ ?_
    | extract_lets +onlyGivenNames z; first
      | (refine cut (Q := Ok k z) ?_ ?_; (on_goal 2 => (intro hz; clear_value z; rename' z => w)); unfold z; clear z)
      | (refine cut (Q := ∀ x0, Ok k x0 → ∀ x1, Ok k (z x0 x1)) ?_ ?_; (on_goal 2 => (intro hz; clear_value z; rename' z => w)); unfold z; clear z)
      | (clear_value z; rename' z => w)
      | rename' z => w
    | with_reducible apply_assumption -exfalso
    | split

theorem State.takeCredit_ok {s : State} (hs : Ok k s) (a2 a3 a4) : Ok k (State.takeCredit s a2 a3 a4).2 := by
  unfold State.takeCredit
  repeat' first
    | with_reducible assumption
    | intro _
    | with_reducible first | apply State.setPort_ok
    | extract_lets +onlyGivenNames z; first | (clear_value z; rename' z => w) | rename' z => w
    | split
theorem State.takeCredit_okE {yl t} {s : State}  {a2 a3 a4} (e : (State.takeCredit s a2 a3 a4) = (yl, t)) (hs : Ok k s) : Ok k t := by
  have := State.takeCredit_ok hs a2 a3 a4; rw [e] at this; exact this

theorem State.answerFence_ok {s : State} (hs : Ok k s) (a2 a3) : Ok k (State.answerFence s a2 a3) := by
  unfold State.answerFence
  repeat' first
    | with_reducible assumption
    | intro _
    | with_reducible first | apply State.toAgent_ok | apply State.setPort_ok
    | extract_lets +onlyGivenNames z; first | (clear_value z; rename' z => w) | rename' z => w
    | split

theorem Coh.drainDev_ok {c : Coh} (hc : CohOk p c) (a2) : CohOk p (Coh.drainDev c a2) := by
  unfold Coh.drainDev
  repeat' first
    | with_reducible assumption
    | split
    | with_reducible first | refine CohOk.of_mk ?_ rfl rfl rfl rfl rfl rfl

theorem opFence_ok {s : State} (hs : Ok k s) (a1 a2) (a3 a4) : Ok k (opFence a1 a2 a3 a4 s) := by
  unfold opFence
  repeat' first
    | with_reducible assumption
    | intro _
    | with_reducible first | apply Coh.drainDev_ok | apply State.takeCredit_ok | apply opPwqFlush_ok | apply State.portError_ok | apply State.runCoh_ok | apply State.count_ok | apply State.setPort_ok
    | (with_reducible refine State.takeCredit_okE (by with_reducible assumption) ?_)
    | extract_lets +onlyGivenNames z; first
      | (refine cut (Q := Ok k z) ?_ ?_; (on_goal 2 => (intro hz; clear_value z; rename' z => w)); unfold z; clear z)
      | (clear_value z; rename' z => w)
      | rename' z => w
    | split

theorem execFencew_keeps (a1 a2 a3) (s) : Keeps (execFencew a1 a2 a3 s) s := by
  refine Keeps.next fun k hs => ?_
  repeat' first
    | with_reducible assumption
    | with_reducible first | apply opFence_ok

theorem execFencel_keeps (a1 a2 a3) (s) : Keeps (execFencel a1 a2 a3 s) s := by
  refine Keeps.next fun k hs => ?_
  repeat' first
    | with_reducible assumption
    | with_reducible first | apply opFence_ok

theorem execFenceg_keeps (a1 a2 a3) (s) : Keeps (execFenceg a1 a2 a3 s) s := by
  refine Keeps.next fun k hs => ?_
  repeat' first
    | with_reducible assumption
    | with_reducible first | apply opFence_ok

theorem opFenceDone_ok {s : State} (hs : Ok k s) (a1 a2) : Ok k (opFenceDone a1 a2 s) := by
  unfold opFenceDone
  repeat' first
    | with_reducible assumption
    | intro _
    | with_reducible first | apply State.answerFence_ok | apply State.setPort_ok
    | split

end Sys2Proof.Machine
end

