-- ==== Sys2Proof/Laws/KeepLinks.lean ====
section
/-! SUPPORT. What the operations of Machine/Links.lean keep (Laws/Keep.lean says what is kept). -/

set_option linter.all false

namespace Sys2Proof.Machine
open Sys2Proof

variable {p : Prop} {k : Kept}

theorem State.trainTo_ok {s : State} (hs : Ok k s) (a2 a3) : Ok k (State.trainTo s a2 a3) := by
  unfold State.trainTo
  repeat' first
    | with_reducible assumption
    | intro _
    | with_reducible first | apply State.emit_ok | apply State.setLinkState_ok | apply State.setLink_ok
    | extract_lets +onlyGivenNames z; first
      | (refine cut (Q := Ok k z) ?_ ?_; (on_goal 2 => (intro hz; clear_value z; rename' z => w)); unfold z; clear z)
      | (clear_value z; rename' z => w)
      | rename' z => w
    | split

theorem State.startTraining_ok {s : State} (hs : Ok k s) (a2) : Ok k (State.startTraining s a2) := by
  unfold State.startTraining
  repeat' first
    | with_reducible assumption
    | with_reducible first | apply State.trainTo_ok
    | split

theorem State.leaveActive_ok {s : State} (hs : Ok k s) (a2) : Ok k (State.leaveActive s a2) := by
  unfold State.leaveActive
  repeat' first
    | with_reducible assumption
    | intro _
    | with_reducible first | apply State.setLink_ok | apply State.raise_ok | apply State.wb_ok
    | extract_lets +onlyGivenNames z; first
      | (refine cut (Q := Ok k z) ?_ ?_; (on_goal 2 => (intro hz; clear_value z; rename' z => w)); unfold z; clear z)
      | (clear_value z; rename' z => w)
      | rename' z => w
    | split

theorem State.enterRetrain_ok {s : State} (hs : Ok k s) (a2) : Ok k (State.enterRetrain s a2) := by
  unfold State.enterRetrain
  repeat' first
    | with_reducible assumption
    | intro _
    | with_reducible first | apply State.leaveActive_ok | apply State.setLinkState_ok | apply State.setLink_ok | apply State.count_ok
    | split

theorem State.trainFail_ok {s : State} (hs : Ok k s) (a2 a3) : Ok k (State.trainFail s a2 a3) := by
  unfold State.trainFail
  repeat' first
    | with_reducible assumption
    | with_reducible first | apply State.trainTo_ok | apply State.setLinkCause_ok

theorem State.setLanes_ok {s : State} (hs : Ok k s) (a2 a3 a4) : Ok k (State.setLanes s a2 a3 a4) := by
  unfold State.setLanes
  repeat' first
    | with_reducible assumption
    | with_reducible first | apply State.wb_ok | apply State.wf_ok
    | split

theorem State.sendAck_ok {s : State} (hs : Ok k s) (a2) : Ok k (State.sendAck s a2) := by
  unfold State.sendAck
  repeat' first
    | with_reducible assumption
    | intro _
    | with_reducible first | apply State.sendCtl_ok | apply State.setLink_ok

theorem State.forgetBufs_ok {s : State} (hs : Ok k s) (a2) : Ok k (State.forgetBufs s a2) := by
  unfold State.forgetBufs
  repeat' first
    | with_reducible assumption
    | with_reducible first | apply Ok.coh | apply Ok.mon | apply Ok.flash
    | split
    | with_reducible first | refine Ok.of_mk ?_ rfl rfl rfl rfl rfl ?_ ?_ ?_

theorem State.afterPump_ok {s : State} (hs : Ok k s) (a2) : Ok k (State.afterPump s a2) := by
  unfold State.afterPump
  repeat' first
    | with_reducible assumption
    | with_reducible first | apply State.devGone_ok
    | split

theorem State.pumpSnoops_ok (a1 a2) {s : State} (hs : Ok k s) : Ok k (State.pumpSnoops a1 a2 s) := by
  induction a2 generalizing s with
  | zero => exact hs
  | succ n ih =>
    unfold State.pumpSnoops
    split
    · split
      · exact ih (State.toAgent_ok (State.setPort_ok hs _ _) _ _)
      · exact hs
    · exact hs

theorem State.linkUp_ok {s : State} (hs : Ok k s) (a2) : Ok k (State.linkUp s a2) := by
  unfold State.linkUp
  repeat' first
    | with_reducible assumption
    | intro _
    | with_reducible first | apply State.pumpSnoops_ok | apply State.afterPump_ok | apply State.forgetBufs_ok | apply State.resent_ok | apply State.pumpStile_ok | apply State.pumpLink_ok | apply State.setLinkState_ok | apply State.setLink_ok | apply State.setStile_ok
    | extract_lets +onlyGivenNames z; first
      | (refine cut (Q := Ok k z) ?_ ?_; (on_goal 2 => (intro hz; clear_value z; rename' z => w)); unfold z; clear z)
      | (clear_value z; rename' z => w)
      | rename' z => w
    | split

theorem State.linkResume_ok {s : State} (hs : Ok k s) (a2) : Ok k (State.linkResume s a2) := by
  unfold State.linkResume
  repeat' first
    | with_reducible assumption
    | intro _
    | with_reducible first | apply State.afterPump_ok | apply State.sendAck_ok | apply State.resent_ok | apply State.emit_ok | apply State.setLinkState_ok | apply State.setLink_ok
    | extract_lets +onlyGivenNames z; first
      | (refine cut (Q := Ok k z) ?_ ?_; (on_goal 2 => (intro hz; clear_value z; rename' z => w)); unfold z; clear z)
      | (clear_value z; rename' z => w)
      | rename' z => w
    | split

theorem opTrainStep_ok {s : State} (hs : Ok k s) (a1 a2) (a3 a4) : Ok k (opTrainStep a1 a2 a3 a4 s) := by
  unfold opTrainStep
  repeat' first
    | with_reducible assumption
    | intro _
    | with_reducible first | apply State.linkResume_ok | apply State.linkUp_ok | apply State.setLanes_ok | apply State.trainFail_ok | apply State.trainTo_ok | apply State.emit_ok | apply State.setLinkCause_ok | apply State.setLink_ok | apply Ok.coh | apply Ok.mon | apply Ok.flash
    | extract_lets +onlyGivenNames z; first | (clear_value z; rename' z => w) | rename' z => w
    | split
    | with_reducible first | refine Ok.of_mk ?_ rfl rfl rfl rfl rfl ?_ ?_ ?_

theorem execLinkTrainingStepDone_keeps (a1 a2 a3 a4) (s) : Keeps (execLinkTrainingStepDone a1 a2 a3 a4 s) s := by
  refine Keeps.next fun k hs => ?_
  repeat' first
    | with_reducible assumption
    | with_reducible first | apply opTrainStep_ok

theorem opDetectRetry_ok {s : State} (hs : Ok k s) (a1) : Ok k (opDetectRetry a1 s) := by
  unfold opDetectRetry
  repeat' first
    | with_reducible assumption
    | with_reducible first | apply State.trainTo_ok
    | extract_lets +onlyGivenNames z; first | (clear_value z; rename' z => w) | rename' z => w
    | split

theorem execLinkDetectRetry_keeps (a1) (s) : Keeps (execLinkDetectRetry a1 s) s := by
  refine Keeps.next fun k hs => ?_
  repeat' first
    | with_reducible assumption
    | with_reducible first | apply opDetectRetry_ok

theorem opParam_ok (a1 a2) {s : State} (hs : Ok k s) : Ok k (opParam a1 a2 s) := by
  have h1 : Ok k (s.setLink a1 (fun l => { l with paramOk := true })) := State.setLink_ok hs _ _
  unfold opParam
  dsimp only
  split
  · split
    · split
      · exact State.trainTo_ok (State.setLinkCause_ok hs _ _) _ _
      · exact State.trainFail_ok hs _ _
    · cases a1 with
      | stile l => exact State.wf_ok h1 _ _
      | port p =>
        dsimp only
        split
        · exact h1
        · exact State.setPort_ok h1 _ _
  · exact hs

theorem execParamSlot_keeps (a1 a2) (s) : Keeps (execParamSlot a1 a2 s) s := by
  refine Keeps.next fun k hs => ?_
  repeat' first
    | with_reducible assumption
    | with_reducible first | apply opParam_ok

theorem execBlockLockLost_keeps (a1) (s) : Keeps (execBlockLockLost a1 s) s := by
  refine Keeps.next fun k hs => ?_
  repeat' first
    | with_reducible assumption
    | with_reducible first | apply State.enterRetrain_ok

theorem opLinkCtl_ok {s : State} (hs : Ok k s) (a1 a2) : Ok k (opLinkCtl a1 a2 s) := by
  unfold opLinkCtl
  repeat' first
    | with_reducible assumption
    | with_reducible first | apply State.enterRetrain_ok
    | split

theorem execAgpLinkCtlRetrain_keeps (a1) (s) : Keeps (execAgpLinkCtlRetrain a1 s) s := by
  refine Keeps.next fun k hs => ?_
  repeat' first
    | with_reducible assumption
    | intro _
    | with_reducible first | apply opLinkCtl_ok | apply State.onReg_ok

theorem opAckTimer_ok {s : State} (hs : Ok k s) (a1) : Ok k (opAckTimer a1 s) := by
  unfold opAckTimer
  repeat' first
    | with_reducible assumption
    | with_reducible first | apply State.sendAck_ok
    | extract_lets +onlyGivenNames z; first | (clear_value z; rename' z => w) | rename' z => w
    | split

theorem execAckTimer_keeps (a1) (s) : Keeps (execAckTimer a1 s) s := by
  refine Keeps.next fun k hs => ?_
  repeat' first
    | with_reducible assumption
    | with_reducible first | apply opAckTimer_ok

theorem opAck_ok {s : State} (hs : Ok k s) (a1 a2) : Ok k (opAck a1 a2 s) := by
  unfold opAck
  repeat' first
    | with_reducible assumption
    | intro _
    | with_reducible first | apply State.afterPump_ok | apply State.pumpLink_ok | apply State.setLink_ok
    | split

theorem execAck_keeps (a1 a2) (s) : Keeps (execAck a1 a2 s) s := by
  refine Keeps.next fun k hs => ?_
  repeat' first
    | with_reducible assumption
    | with_reducible first | apply opAck_ok

theorem opNak_ok {s : State} (hs : Ok k s) (a1 a2) : Ok k (opNak a1 a2 s) := by
  unfold opNak
  repeat' first
    | with_reducible assumption
    | intro _
    | with_reducible first | apply State.enterRetrain_ok | apply State.resent_ok | apply applyFx_ok | apply State.emit_ok | apply State.setLink_ok | apply State.count_ok
    | extract_lets +onlyGivenNames z; first
      | (refine cut (Q := Ok k z) ?_ ?_; (on_goal 2 => (intro hz; clear_value z; rename' z => w)); unfold z; clear z)
      | (clear_value z; rename' z => w)
      | rename' z => w
    | split

theorem execNak_keeps (a1 a2) (s) : Keeps (execNak a1 a2 s) s := by
  refine Keeps.next fun k hs => ?_
  repeat' first
    | with_reducible assumption
    | with_reducible first | apply opNak_ok

theorem State.vccEntry_ok {s : State} (hs : Ok k s) (a1 a3) : Ok k (State.vccEntry a1 s a3) := by
  unfold State.vccEntry
  repeat' first
    | with_reducible assumption
    | intro _
    | with_reducible first | apply State.pumpSnoops_ok | apply State.setStile_ok | apply State.count_ok | apply State.setPort_ok
    | extract_lets +onlyGivenNames z; first
      | (refine cut (Q := Ok k z) ?_ ?_; (on_goal 2 => (intro hz; clear_value z; rename' z => w)); unfold z; clear z)
      | (clear_value z; rename' z => w)
      | rename' z => w
    | split

theorem opVcc_ok {s : State} (hs : Ok k s) (a1 a2) : Ok k (opVcc a1 a2 s) := by
  unfold opVcc
  repeat' first
    | with_reducible assumption
    | intro _
    | with_reducible first | apply State.vccEntry_ok | apply State.pumpStile_ok | refine foldl_keeps (Q := fun x : State => Ok k x) ?_ ?_
    | extract_lets +onlyGivenNames z; first
      | (refine cut (Q := Ok k z) ?_ ?_; (on_goal 2 => (intro hz; clear_value z; rename' z => w)); unfold z; clear z)
      | (clear_value z; rename' z => w)
      | rename' z => w
    | split

theorem execVcc_keeps (a1 a2) (s) : Keeps (execVcc a1 a2 s) s := by
  refine Keeps.next fun k hs => ?_
  repeat' first
    | with_reducible assumption
    | with_reducible first | apply opVcc_ok

theorem State.hdlCredits_ok {s : State} (hs : Ok k s) (a2 a3) : Ok k (State.hdlCredits s a2 a3) := by
  unfold State.hdlCredits
  repeat' first
    | with_reducible assumption
    | intro _
    | with_reducible first | apply State.setHdl_ok

theorem opBeat_ok {s : State} (hs : Ok k s) (a1 a2) : Ok k (opBeat a1 a2 s) := by
  unfold opBeat
  repeat' first
    | with_reducible assumption
    | intro _
    | with_reducible first | apply State.hdlCredits_ok | apply State.emit_ok | apply State.pumpHdl_ok | apply State.setHdl_ok | apply State.count_ok | refine foldl_keeps (Q := fun x : State => Ok k x) ?_ ?_
    | extract_lets +onlyGivenNames z; first
      | (refine cut (Q := Ok k z) ?_ ?_; (on_goal 2 => (intro hz; clear_value z; rename' z => w)); unfold z; clear z)
      | (clear_value z; rename' z => w)
      | rename' z => w
    | split

theorem execHeadlandBeat_keeps (a1 a2) (s) : Keeps (execHeadlandBeat a1 a2 s) s := by
  refine Keeps.next fun k hs => ?_
  repeat' first
    | with_reducible assumption
    | with_reducible first | apply opBeat_ok

theorem opStall_ok {s : State} (hs : Ok k s) (a1) : Ok k (opStall a1 s) := by
  unfold opStall
  repeat' first
    | with_reducible assumption
    | intro _
    | with_reducible first | apply State.setHdl_ok | apply State.count_ok | apply State.raise_ok | apply State.wb_ok | apply State.wf_ok
    | extract_lets +onlyGivenNames z; first
      | (refine cut (Q := Ok k z) ?_ ?_; (on_goal 2 => (intro hz; clear_value z; rename' z => w)); unfold z; clear z)
      | (clear_value z; rename' z => w)
      | rename' z => w

theorem execSublinkStall_keeps (a1) (s) : Keeps (execSublinkStall a1 s) s := by
  refine Keeps.next fun k hs => ?_
  repeat' first
    | with_reducible assumption
    | with_reducible first | apply opStall_ok

theorem opRefresh_ok {s : State} (hs : Ok k s) (a1) : Ok k (opRefresh a1 s) := by
  unfold opRefresh
  repeat' first
    | with_reducible assumption
    | with_reducible first | apply State.emit_ok | apply State.count_ok
    | split

theorem execDdr5Refresh_keeps (a1) (s) : Keeps (execDdr5Refresh a1 s) s := by
  refine Keeps.next fun k hs => ?_
  repeat' first
    | with_reducible assumption
    | with_reducible first | apply opRefresh_ok

theorem opTempPoll_ok {s : State} (hs : Ok k s) (a1 a2) : Ok k (opTempPoll a1 a2 s) := by
  unfold opTempPoll
  repeat' first
    | with_reducible assumption
    | with_reducible first | apply State.wb_ok
    | split

theorem execDdr5TempPoll_keeps (a1 a2) (s) : Keeps (execDdr5TempPoll a1 a2 s) s := by
  refine Keeps.next fun k hs => ?_
  repeat' first
    | with_reducible assumption
    | with_reducible first | apply opTempPoll_ok

theorem opHpprDone_ok {s : State} (hs : Ok k s) (a1) : Ok k (opHpprDone a1 s) := by
  unfold opHpprDone
  repeat' first
    | with_reducible assumption
    | with_reducible first | apply State.raise_ok | apply State.wb_ok
    | split

end Sys2Proof.Machine
end

