-- ==== Sys2Proof/Laws/KeepEvents.lean ====
section
/-! SUPPORT. What the operations of Machine/Events.lean keep (Laws/Keep.lean says what is kept). -/

set_option linter.all false

namespace Sys2Proof.Machine
open Sys2Proof

variable {p : Prop} {k : Kept}

theorem State.setMon_ok {s : State} {a2 : Sys2Proof.Machine.Monitor → Sys2Proof.Machine.Monitor} (hs : Ok k s) (hf : ∀ m, MonOk k.p m → MonOk k.p (a2 m)) : Ok k (State.setMon s a2) := by
  unfold State.setMon
  repeat' first
    | with_reducible assumption
    | with_reducible first | apply Ok.coh | apply Ok.mon | apply Ok.flash
    | with_reducible apply_assumption -exfalso
    | with_reducible first | refine Ok.of_mk ?_ rfl rfl rfl rfl rfl ?_ ?_ ?_

theorem Events.clearPend_routes (e : Events) (g v) : (e.clearPend g v).routes = e.routes := rfl

theorem State.setEv_ok {s : State} (hs : Ok k s) {f : Events → Events} (hf : ∀ e, (f e).routes = e.routes) :
    Ok k (State.setEv s f) :=
  ⟨hs.pending, hs.fine, hs.sent, hs.regs, hs.coh, ⟨fun hp => ⟨(hs.mon.wf hp).1, (hf _).symm ▸ (hs.mon.wf hp).2⟩⟩, hs.flash, hs.fuses⟩

theorem State.setLog_ok {s : State} (hs : Ok k s) (a2 : Sys2Proof.Machine.TroubleLog → Sys2Proof.Machine.TroubleLog) : Ok k (State.setLog s a2) := by
  unfold State.setLog
  repeat' first
    | with_reducible assumption
    | intro _
    | with_reducible first | apply State.setMon_ok
    | with_reducible apply_assumption -exfalso
    | with_reducible first | refine MonOk.of_mk ?_ rfl rfl

theorem State.spillEvents_ok {s : State} (hs : Ok k s) : Ok k (State.spillEvents s) := by
  unfold State.spillEvents
  repeat' first
    | with_reducible assumption
    | (intro _; first | with_reducible rfl | exact Events.settle_routes _ | exact Events.clearPend_routes _ _ _)
    | intro _
    | with_reducible first | apply State.setEv_ok | apply State.runCoh_ok | apply Coh.writeMem_ok | apply State.raise_ok | apply Ok.mon
    | extract_lets +onlyGivenNames z; first
      | (refine cut (Q := Ok k z) ?_ ?_; (on_goal 2 => (intro hz; clear_value z; rename' z => w)); unfold z; clear z)
      | (clear_value z; rename' z => w)
      | rename' z => w
    | split

theorem State.refillEvent_ok {s : State} (hs : Ok k s) (a1 a2 a4) : Ok k (State.refillEvent a1 a2 s a4) := by
  unfold State.refillEvent
  repeat' first
    | with_reducible assumption
    | (intro _; first | with_reducible rfl | exact Events.settle_routes _ | exact Events.clearPend_routes _ _ _)
    | intro _
    | with_reducible first | apply State.setEv_ok | apply State.consumed_ok
    | extract_lets +onlyGivenNames z; first | (clear_value z; rename' z => w) | rename' z => w
    | split

theorem State.refillEvents_ok {s : State} (hs : Ok k s) : Ok k (State.refillEvents s) := by
  unfold State.refillEvents
  repeat' first
    | with_reducible assumption
    | (intro _; first | with_reducible rfl | exact Events.settle_routes _ | exact Events.clearPend_routes _ _ _)
    | intro _
    | with_reducible first | apply State.refillEvent_ok | apply State.setEv_ok | apply State.runCoh_ok | apply Coh.readMem_ok | refine foldl_keeps (Q := fun x : State => Ok k x) ?_ ?_ | apply Ok.coh | apply Ok.mon | apply Ok.flash
    | (with_reducible refine Coh.readMem_okE (by with_reducible assumption) ?_)
    | extract_lets +onlyGivenNames z; first
      | (refine cut (Q := CohOk k.p z.2) ?_ ?_; (on_goal 2 => (intro hz; clear_value z; rename' z => w)); unfold z; clear z)
      | (refine cut (Q := Ok k z) ?_ ?_; (on_goal 2 => (intro hz; clear_value z; rename' z => w)); unfold z; clear z)
      | (clear_value z; rename' z => w)
      | rename' z => w
    | split
    | with_reducible first | refine Ok.of_mk ?_ rfl rfl rfl rfl rfl ?_ ?_ ?_

theorem opSpillWrite_ok {s : State} (hs : Ok k s) (a1) : Ok k (opSpillWrite a1 s) := by
  unfold opSpillWrite
  repeat' first
    | with_reducible assumption
    | with_reducible first | apply State.spillEvents_ok | apply State.spillPwq_ok
    | split

theorem execSpillBatchWrite_keeps (a1) (s) : Keeps (execSpillBatchWrite a1 s) s := by
  refine Keeps.next fun k hs => ?_
  repeat' first
    | with_reducible assumption
    | with_reducible first | apply opSpillWrite_ok

theorem opSpillRead_ok {s : State} (hs : Ok k s) (a1) : Ok k (opSpillRead a1 s) := by
  unfold opSpillRead
  repeat' first
    | with_reducible assumption
    | with_reducible first | apply State.refillEvents_ok | apply State.refillPwq_ok
    | split

theorem execSpillBatchRead_keeps (a1) (s) : Keeps (execSpillBatchRead a1 s) s := by
  refine Keeps.next fun k hs => ?_
  repeat' first
    | with_reducible assumption
    | with_reducible first | apply opSpillRead_ok

theorem opEvtFlush_ok {s : State} (hs : Ok k s) : Ok k (opEvtFlush s) := by
  unfold opEvtFlush
  repeat' first
    | with_reducible assumption
    | (intro _; first | with_reducible rfl | exact Events.settle_routes _ | exact Events.clearPend_routes _ _ _)
    | intro _
    | with_reducible first | apply State.setEv_ok

theorem execEvtQFlush_keeps (s) : Keeps (execEvtQFlush s) s := by
  refine Keeps.next fun k hs => ?_
  repeat' first
    | with_reducible assumption
    | intro _
    | with_reducible first | apply opEvtFlush_ok | apply State.onReg_ok

theorem State.popEvent_ok {s : State} (hs : Ok k s) : Ok k (State.popEvent s).2 := by
  unfold State.popEvent
  repeat' first
    | with_reducible assumption
    | (intro _; first | with_reducible rfl | exact Events.settle_routes _ | exact Events.clearPend_routes _ _ _)
    | intro _
    | with_reducible first | apply State.refillEvents_ok | apply State.setEv_ok | apply Ok.mon
    | extract_lets +onlyGivenNames z; first
      | (refine cut (Q := Ok k z) ?_ ?_; (on_goal 2 => (intro hz; clear_value z; rename' z => w)); unfold z; clear z)
      | (clear_value z; rename' z => w)
      | rename' z => w
    | split
theorem State.popEvent_okE {yl t} {s : State}  (e : (State.popEvent s) = (yl, t)) (hs : Ok k s) : Ok k t := by
  have := State.popEvent_ok hs; rw [e] at this; exact this

theorem State.setRoutes_ok {s : State} (hs : Ok k s) {f : Events → Events}
    (hf : ∀ e, Sparse.wf routeDefault e.routes = true → Sparse.wf routeDefault (f e).routes = true) : Ok k (State.setEv s f) :=
  ⟨hs.pending, hs.fine, hs.sent, hs.regs, hs.coh, ⟨fun hp => ⟨(hs.mon.wf hp).1, hf _ (hs.mon.wf hp).2⟩⟩, hs.flash, hs.fuses⟩

theorem opEvtRte_ok (a1) {s : State} (hs : Ok k s) : Ok k (opEvtRte a1 s) := by
  unfold opEvtRte
  dsimp only
  split
  · exact hs
  · exact State.setRoutes_ok hs (fun _ h => Sparse.set_wf _ _ h)

theorem execEvtRteWrite_keeps (a1) (s) : Keeps (execEvtRteWrite a1 s) s := by
  refine Keeps.next fun k hs => ?_
  repeat' first
    | with_reducible assumption
    | intro _
    | with_reducible first | apply opEvtRte_ok | apply State.onReg_ok

theorem opEvtSw_ok {s : State} (hs : Ok k s) (a1) : Ok k (opEvtSw a1 s) := by
  unfold opEvtSw
  repeat' first
    | with_reducible assumption
    | intro _
    | with_reducible first | apply State.raise_ok | refine foldl_keeps (Q := fun x : State => Ok k x) ?_ ?_

theorem execEvtSwWrite_keeps (a1) (s) : Keeps (execEvtSwWrite a1 s) s := by
  refine Keeps.next fun k hs => ?_
  repeat' first
    | with_reducible assumption
    | intro _
    | with_reducible first | apply opEvtSw_ok | apply State.onCore_ok

theorem opInband_ok {s : State} (hs : Ok k s) : Ok k (opInband s) := by
  unfold opInband
  repeat' first
    | with_reducible assumption
    | (intro _; first | with_reducible rfl | exact Events.settle_routes _ | exact Events.clearPend_routes _ _ _)
    | intro _
    | with_reducible first | apply State.setEv_ok | apply applyFx_ok | apply State.toAgent_ok | apply State.crossAgent_ok | apply State.count_ok | apply State.setPort_ok | apply Ok.mon
    | extract_lets +onlyGivenNames z; first
      | (refine cut (Q := Ok k z) ?_ ?_; (on_goal 2 => (intro hz; clear_value z; rename' z => w)); unfold z; clear z)
      | (clear_value z; rename' z => w)
      | rename' z => w
    | split

theorem execInbandEventSend_keeps (s) : Keeps (execInbandEventSend s) s := by
  refine Keeps.next fun k hs => ?_
  repeat' first
    | with_reducible assumption
    | with_reducible first | apply opInband_ok

theorem opLogRseq_ok {s : State} (hs : Ok k s) (a1) : Ok k (opLogRseq a1 s) := by
  unfold opLogRseq
  repeat' first
    | with_reducible assumption
    | intro _
    | with_reducible first | apply State.setLog_ok
    | split

theorem execLogRseqWrite_keeps (a1) (s) : Keeps (execLogRseqWrite a1 s) s := by
  refine Keeps.next fun k hs => ?_
  repeat' first
    | with_reducible assumption
    | intro _
    | with_reducible first | apply opLogRseq_ok | apply State.onCore_ok

theorem opLogMark_ok {s : State} (hs : Ok k s) : Ok k (opLogMark s) := by
  unfold opLogMark
  repeat' first
    | with_reducible assumption
    | intro _
    | with_reducible first | apply State.setLog_ok

theorem execLogMark_keeps (s) : Keeps (execLogMark s) s := by
  refine Keeps.next fun k hs => ?_
  repeat' first
    | with_reducible assumption
    | intro _
    | with_reducible first | apply opLogMark_ok | apply State.onCore_ok

theorem opLogRewind_ok {s : State} (hs : Ok k s) : Ok k (opLogRewind s) := by
  unfold opLogRewind
  repeat' first
    | with_reducible assumption
    | intro _
    | with_reducible first | apply State.setLog_ok | apply State.raise_ok | apply Ok.mon
    | split

theorem execLogRewind_keeps (s) : Keeps (execLogRewind s) s := by
  refine Keeps.next fun k hs => ?_
  repeat' first
    | with_reducible assumption
    | intro _
    | with_reducible first | apply opLogRewind_ok | apply State.onCore_ok

theorem State.readLog_ok {s : State} (hs : Ok k s) : Ok k (State.readLog s).2 := by
  unfold State.readLog
  repeat' first
    | with_reducible assumption
    | intro _
    | with_reducible first | apply State.setLog_ok | apply Ok.mon
    | extract_lets +onlyGivenNames z; first | (clear_value z; rename' z => w) | rename' z => w
    | split
theorem State.readLog_okE {yl t} {s : State}  (e : (State.readLog s) = (yl, t)) (hs : Ok k s) : Ok k t := by
  have := State.readLog_ok hs; rw [e] at this; exact this

theorem State.setMail_ok {s : State} (hs : Ok k s) (a2) (a3 : Sys2Proof.Machine.Mailbox → Sys2Proof.Machine.Mailbox) : Ok k (State.setMail s a2 a3) := by
  unfold State.setMail
  repeat' first
    | with_reducible assumption
    | with_reducible first | apply Ok.coh | apply Ok.mon | apply Ok.flash
    | with_reducible apply_assumption -exfalso
    | with_reducible first | refine Ok.of_mk ?_ rfl rfl rfl rfl rfl ?_ ?_ ?_

theorem State.mailError_ok {s : State} (hs : Ok k s) (a2 a3 a4) : Ok k (State.mailError s a2 a3 a4) := by
  unfold State.mailError
  repeat' first
    | with_reducible assumption
    | intro _
    | with_reducible first | apply State.setMail_ok | apply State.raiseLog_ok

theorem State.mailGo_ok {s : State} (hs : Ok k s) (a2 a3) : Ok k (State.mailGo s a2 a3) := by
  unfold State.mailGo
  repeat' first
    | with_reducible assumption
    | intro _
    | with_reducible first | apply State.mailError_ok | apply State.setMail_ok
    | extract_lets +onlyGivenNames z; first | (clear_value z; rename' z => w) | rename' z => w
    | split

theorem State.mailSel_ok {s : State} (hs : Ok k s) (a2 a3) : Ok k (State.mailSel s a2 a3) := by
  unfold State.mailSel
  repeat' first
    | with_reducible assumption
    | intro _
    | with_reducible first | apply State.setMail_ok

theorem opMail_ok {s : State} (hs : Ok k s) (a1 a2) : Ok k (opMail a1 a2 s) := by
  unfold opMail
  repeat' first
    | with_reducible assumption
    | with_reducible first | apply State.mailGo_ok
    | split

theorem opMailRead_ok {s : State} (hs : Ok k s) (a1) : Ok k (opMailRead a1 s) := by
  unfold opMailRead
  repeat' first
    | with_reducible assumption
    | with_reducible first | apply opMail_ok

theorem opMailWrite_ok {s : State} (hs : Ok k s) (a1) : Ok k (opMailWrite a1 s) := by
  unfold opMailWrite
  repeat' first
    | with_reducible assumption
    | with_reducible first | apply opMail_ok

theorem opMailPop_ok {s : State} (hs : Ok k s) (a1) : Ok k (opMailPop a1 s) := by
  unfold opMailPop
  repeat' first
    | with_reducible assumption
    | with_reducible first | apply opMail_ok

theorem execMbxRead_keeps (a1) (s) : Keeps (execMbxRead a1 s) s := by
  refine Keeps.next fun k hs => ?_
  repeat' first
    | with_reducible assumption
    | intro _
    | with_reducible first | apply opMailRead_ok | apply State.onCore_ok

theorem execMbxWrite_keeps (a1) (s) : Keeps (execMbxWrite a1 s) s := by
  refine Keeps.next fun k hs => ?_
  repeat' first
    | with_reducible assumption
    | intro _
    | with_reducible first | apply opMailWrite_ok | apply State.onCore_ok

theorem execMbxPop_keeps (a1) (s) : Keeps (execMbxPop a1 s) s := by
  refine Keeps.next fun k hs => ?_
  repeat' first
    | with_reducible assumption
    | intro _
    | with_reducible first | apply opMailPop_ok | apply State.onCore_ok

theorem State.capture_ok {s : State} (hs : Ok k s) (a2) : Ok k (State.capture s a2).2 := by
  unfold State.capture
  repeat' first
    | with_reducible assumption
    | intro _
    | with_reducible first | apply State.readLog_ok | apply State.popEvent_ok | apply State.setMon_ok | apply Ok.coh | apply Ok.mon
    | (with_reducible refine State.readLog_okE (by with_reducible assumption) ?_)
    | (with_reducible refine State.popEvent_okE (by with_reducible assumption) ?_)
    | extract_lets +onlyGivenNames z; first
      | (refine cut (Q := Ok k z.2) ?_ ?_; (on_goal 2 => (intro hz; clear_value z; rename' z => w)); unfold z; clear z)
      | (clear_value z; rename' z => w)
      | rename' z => w
    | split
    | with_reducible first | refine MonOk.of_mk ?_ rfl rfl
theorem State.capture_okE {yl t} {s : State}  {a2} (e : (State.capture s a2) = (yl, t)) (hs : Ok k s) : Ok k t := by
  have := State.capture_ok hs a2; rw [e] at this; exact this

theorem State.mailDone_ok {s : State} (hs : Ok k s) (a2) : Ok k (State.mailDone s a2) := by
  unfold State.mailDone
  repeat' first
    | with_reducible assumption
    | intro _
    | with_reducible first | apply State.capture_ok | apply State.setMail_ok | apply State.setMon_ok | apply Monitor.setCtr_ok
    | (with_reducible refine State.capture_okE (by with_reducible assumption) ?_)
    | extract_lets +onlyGivenNames z; first
      | (refine cut (Q := Ok k z.2) ?_ ?_; (on_goal 2 => (intro hz; clear_value z; rename' z => w)); unfold z; clear z)
      | (clear_value z; rename' z => w)
      | rename' z => w
    | split

theorem State.mailAbandon_ok {s : State} (hs : Ok k s) (a2) : Ok k (State.mailAbandon s a2) := by
  unfold State.mailAbandon
  repeat' first
    | with_reducible assumption
    | intro _
    | with_reducible first | apply State.mailError_ok | apply State.setMail_ok
    | extract_lets +onlyGivenNames z; first | (clear_value z; rename' z => w) | rename' z => w
    | split

end Sys2Proof.Machine
end

