-- ==== Sys2Proof/Laws/KeepImage.lean ====
section
/-! SUPPORT. What the operations of Machine/Image.lean keep (Laws/Keep.lean says what is kept). -/

set_option linter.all false

namespace Sys2Proof.Machine
open Sys2Proof

variable {p : Prop} {k : Kept}

theorem State.applyPair_ok {s : State} (hs : Ok k s) (a2) : Ok k (State.applyPair s a2) := by
  unfold State.applyPair
  repeat' first
    | with_reducible assumption
    | with_reducible first | apply opEvtRte_ok | apply opPtuSeed_ok | apply opPtuRootHi_ok | apply State.wr_ok
    | extract_lets +onlyGivenNames z; first
      | (refine cut (Q := Ok k z) ?_ ?_; (on_goal 2 => (intro hz; clear_value z; rename' z => w)); unfold z; clear z)
      | (clear_value z; rename' z => w)
      | rename' z => w
    | split

theorem State.setImg_ok {s : State} (hs : Ok k s) (a2 : Sys2Proof.Machine.ImageSetup → Sys2Proof.Machine.ImageSetup) : Ok k (State.setImg s a2) := by
  unfold State.setImg
  repeat' first
    | with_reducible assumption
    | with_reducible first | apply Ok.coh | apply Ok.mon | apply Ok.flash
    | with_reducible apply_assumption -exfalso
    | with_reducible first | refine Ok.of_mk ?_ rfl rfl rfl rfl rfl ?_ ?_ ?_

theorem State.applyRecord_ok {s : State} (hs : Ok k s) (a2) : Ok k (State.applyRecord s a2) := by
  unfold State.applyRecord
  dsimp only
  split
  case h_3 =>
    exact State.setRoutes_ok hs (fun e he => foldl_keeps (Q := fun x => Sparse.wf routeDefault x = true) he
      (fun _ _ hx => Sparse.set_wf _ _ hx))
  all_goals first
    | exact State.setImg_ok hs _
    | exact hs

theorem State.withImage_ok {s : State} (hs : Ok k s) (a2 a3) : Ok k (State.withImage s a2 a3) := by
  unfold State.withImage
  repeat' first
    | with_reducible assumption
    | intro _
    | with_reducible first | apply State.applyRecord_ok | apply State.setImg_ok | apply State.applyPair_ok | refine foldl_keeps (Q := fun x : State => Ok k x) ?_ ?_

end Sys2Proof.Machine
end

