-- ==== Sys2Proof/Laws/KeepBoot.lean ====
section
/-! SUPPORT. What the operations of Machine/Boot.lean keep (Laws/Keep.lean says what is kept). -/

set_option linter.all false

namespace Sys2Proof.Machine
open Sys2Proof

variable {p : Prop} {k : Kept}

theorem State.setBoot_ok {s : State} (hs : Ok k s) (a2 : Sys2Proof.Machine.Boot → Sys2Proof.Machine.Boot) : Ok k (State.setBoot s a2) := by
  unfold State.setBoot
  repeat' first
    | with_reducible assumption
    | with_reducible first | apply Ok.coh | apply Ok.mon | apply Ok.flash
    | with_reducible apply_assumption -exfalso
    | with_reducible first | refine Ok.of_mk ?_ rfl rfl rfl rfl rfl ?_ ?_ ?_

theorem State.setPwr_ok {s : State} (hs : Ok k s) (a2 : Sys2Proof.Machine.Power → Sys2Proof.Machine.Power) : Ok k (State.setPwr s a2) := by
  unfold State.setPwr
  repeat' first
    | with_reducible assumption
    | with_reducible first | apply Ok.coh | apply Ok.mon | apply Ok.flash
    | with_reducible apply_assumption -exfalso
    | with_reducible first | refine Ok.of_mk ?_ rfl rfl rfl rfl rfl ?_ ?_ ?_

theorem State.setSes_ok {s : State} (hs : Ok k s) (a2 : Sys2Proof.Machine.Sessions → Sys2Proof.Machine.Sessions) : Ok k (State.setSes s a2) := by
  unfold State.setSes
  repeat' first
    | with_reducible assumption
    | with_reducible first | apply Ok.coh | apply Ok.mon | apply Ok.flash
    | with_reducible apply_assumption -exfalso
    | with_reducible first | refine Ok.of_mk ?_ rfl rfl rfl rfl rfl ?_ ?_ ?_

theorem State.setSession_ok {s : State} (hs : Ok k s) (a2) (a3 : Sys2Proof.Machine.Session → Sys2Proof.Machine.Session) : Ok k (State.setSession s a2 a3) := by
  unfold State.setSession
  repeat' first
    | with_reducible assumption
    | intro _
    | with_reducible first | apply State.setSes_ok
    | with_reducible apply_assumption -exfalso
    | split

theorem State.closeSession_ok {s : State} (hs : Ok k s) (a2) : Ok k (State.closeSession s a2) := by
  unfold State.closeSession
  repeat' first
    | with_reducible assumption
    | intro _
    | with_reducible first | apply State.setSession_ok | apply State.raiseBare_ok | apply Ok.coh | apply Ok.mon | apply Ok.flash
    | extract_lets +onlyGivenNames z; first
      | (refine cut (Q := Ok k z) ?_ ?_; (on_goal 2 => (intro hz; clear_value z; rename' z => w)); unfold z; clear z)
      | (refine cut (Q := FlashOk k.p z) ?_ ?_; (on_goal 2 => (intro hz; clear_value z; rename' z => w)); unfold z; clear z)
      | (clear_value z; rename' z => w)
      | rename' z => w
    | split
    | with_reducible first | refine Ok.of_mk ?_ rfl rfl rfl rfl rfl ?_ ?_ ?_ | refine FlashOk.of_mk ?_ rfl

theorem CohOk.reset_stores {c : Coh} (h : CohOk p c) : CohOk p { Coh.reset with ddr := c.ddr, sram := c.sram } :=
  ⟨fun hp => ⟨rfl, rfl, rfl, rfl, (h.wf hp).5, (h.wf hp).6⟩⟩

theorem State.coreReset_ok {s : State} (hs : Ok k s) : Ok k (State.coreReset s) := by
  unfold State.coreReset
  extract_lets live x1 x2 x3 x4 r
  have hr : Ok k r := by
    refine ⟨hs.pending, hs.fine, hs.sent, ?_, CohOk.reset_stores hs.coh, ⟨fun hp => ⟨?_, rfl⟩⟩, ⟨hs.flash.wf⟩, hs.fuses⟩
    · exact fun hp => Sparse.filter_wf _ (hs.regs hp)
    · exact Sparse.filter_wf _ (hs.mon.wf hp).1
  exact State.wr_ok hr _ _

theorem State.drawn_ok {s : State} (hs : Ok k s) : Ok k (State.drawn s) := by
  unfold State.drawn
  repeat' first
    | with_reducible assumption
    | with_reducible first | apply Ok.coh | apply Ok.mon | apply Ok.flash
    | with_reducible first | refine Ok.of_mk ?_ rfl rfl rfl rfl rfl ?_ ?_ ?_

theorem State.startVddc_ok {s : State} (hs : Ok k s) : Ok k (State.startVddc s) := by
  unfold State.startVddc
  repeat' first
    | with_reducible assumption
    | intro _
    | with_reducible first | apply State.drawn_ok | apply State.setPwr_ok | apply State.setVmon_ok | apply State.emit_ok
    | extract_lets +onlyGivenNames z; first
      | (refine cut (Q := Ok k z) ?_ ?_; (on_goal 2 => (intro hz; clear_value z; rename' z => w)); unfold z; clear z)
      | (clear_value z; rename' z => w)
      | rename' z => w

theorem State.bootFrom2_ok {s : State} (hs : Ok k s) : Ok k (State.bootFrom2 s) := by
  unfold State.bootFrom2
  repeat' first
    | with_reducible assumption
    | with_reducible first | apply State.startVddc_ok | apply State.coreReset_ok | apply State.closeSession_ok | apply State.count_ok | apply State.wf_ok
    | extract_lets +onlyGivenNames z; first
      | (refine cut (Q := Ok k z) ?_ ?_; (on_goal 2 => (intro hz; clear_value z; rename' z => w)); unfold z; clear z)
      | (clear_value z; rename' z => w)
      | rename' z => w

theorem State.discovered_ok {s : State} (hs : Ok k s) (a2) : Ok k (State.discovered s a2) := by
  unfold State.discovered
  repeat' first
    | with_reducible assumption
    | with_reducible first | apply Ok.coh | apply Ok.mon | apply Ok.flash
    | extract_lets +onlyGivenNames z; first
      | (refine cut (Q := FlashOk k.p z) ?_ ?_; (on_goal 2 => (intro hz; clear_value z; rename' z => w)); unfold z; clear z)
      | (clear_value z; rename' z => w)
      | rename' z => w
    | with_reducible first | refine Ok.of_mk ?_ rfl rfl rfl rfl rfl ?_ ?_ ?_ | refine FlashOk.of_mk ?_ rfl

theorem State.checkLog_ok {s : State} (hs : Ok k s) : Ok k (State.checkLog s) := by
  unfold State.checkLog
  repeat' first
    | with_reducible assumption
    | with_reducible first | apply State.raiseLog_ok | apply Ok.mon
    | split

theorem State.powerUp_ok {s : State} (hs : Ok k s) (a2) : Ok k (State.powerUp s a2) := by
  unfold State.powerUp
  repeat' first
    | with_reducible assumption
    | with_reducible first | apply State.checkLog_ok | apply State.discovered_ok | apply State.bootFrom2_ok

theorem opPowerOn_ok {s : State} (hs : Ok k s) (a1) : Ok k (opPowerOn a1 s) := by
  unfold opPowerOn
  repeat' first
    | with_reducible assumption
    | intro _
    | with_reducible first | apply State.powerUp_ok | apply State.setPwr_ok
    | split

theorem execPowerOnReset_keeps (a1) (s) : Keeps (execPowerOnReset a1 s) s := by
  refine Keeps.next fun k hs => ?_
  repeat' first
    | with_reducible assumption
    | with_reducible first | apply opPowerOn_ok

theorem opPinReset_ok {s : State} (hs : Ok k s) (a1) : Ok k (opPinReset a1 s) := by
  unfold opPinReset
  repeat' first
    | with_reducible assumption
    | with_reducible first | apply State.discovered_ok | apply State.bootFrom2_ok
    | split

theorem execPinReset_keeps (a1) (s) : Keeps (execPinReset a1 s) s := by
  refine Keeps.next fun k hs => ?_
  repeat' first
    | with_reducible assumption
    | with_reducible first | apply opPinReset_ok

theorem State.applyImage_ok {s : State} (hs : Ok k s) (a2 a3 a4) : Ok k (State.applyImage s a2 a3 a4) := by
  unfold State.applyImage
  repeat' first
    | with_reducible assumption
    | intro _
    | with_reducible first | apply State.setPwr_ok | apply State.setBoot_ok | apply State.withImage_ok | apply State.startTraining_ok | apply State.imageMode_ok | apply State.startRoot_ok | apply State.wb_ok | apply State.wf_ok | apply State.wr_ok | refine foldl_keeps (Q := fun x : State => Ok k x) ?_ ?_
    | extract_lets +onlyGivenNames z; first
      | (refine cut (Q := Ok k z) ?_ ?_; (on_goal 2 => (intro hz; clear_value z; rename' z => w)); unfold z; clear z)
      | (clear_value z; rename' z => w)
      | rename' z => w

theorem State.safeState_ok {r t : State} (hr : Ok k r) (ht : Ok k t) (ses prm pwr) : Ok k { r with
    mon := { r.mon with ev := { r.mon.ev with pend := t.mon.ev.pend }, ctr := t.mon.ctr, seen := t.mon.seen }
    ses := ses, flash := t.flash, prm := prm, pwr := pwr } :=
  ⟨hr.pending, hr.fine, hr.sent, hr.regs, hr.coh, ⟨fun hp => ⟨(ht.mon.wf hp).1, (hr.mon.wf hp).2⟩⟩, ht.flash, hr.fuses⟩

theorem State.enterSafe_ok {s : State} (hs : Ok k s) : Ok k (State.enterSafe s) := by
  unfold State.enterSafe
  extract_lets s1 s2 r tfail a b x1 x2 x3 x4 x5 r1 r2 r3
  have h1 : Ok k s1 := by
    unfold s1
    split
    · exact hs
    · exact State.closeSession_ok hs _
  have h2 : Ok k s2 := State.closeSession_ok h1 _
  have hr1 : Ok k r1 := State.safeState_ok (State.coreReset_ok h2) h2 _ _ _
  clear_value r1
  have hr2 : Ok k r2 := State.wf_ok (State.wr_ok (State.wr_ok hr1 _ _) _ _) _ _
  clear_value r2
  have hr3 : Ok k r3 := State.wf_ok (State.wf_ok (State.wb_ok hr2 _ _) _ _) _ _
  exact State.raiseLog_ok (State.count_ok hr3 _ _) _ _ _

theorem State.slotFailed_ok {s : State} (hs : Ok k s) (a2) : Ok k (State.slotFailed s a2) := by
  unfold State.slotFailed
  repeat' first
    | with_reducible assumption
    | with_reducible first | apply State.raiseBare_ok
    | split

theorem opSlotValidated_ok {s : State} (hs : Ok k s) (a1) : Ok k (opSlotValidated a1 s) := by
  unfold opSlotValidated
  repeat' first
    | with_reducible assumption
    | with_reducible first | apply State.slotFailed_ok | apply State.enterSafe_ok | apply State.applyImage_ok | apply State.count_ok | apply State.raiseBare_ok | apply State.wf_ok
    | extract_lets +onlyGivenNames z; first
      | (refine cut (Q := Ok k z) ?_ ?_; (on_goal 2 => (intro hz; clear_value z; rename' z => w)); unfold z; clear z)
      | (clear_value z; rename' z => w)
      | rename' z => w
    | split

theorem execSlotValidated_keeps (a1) (s) : Keeps (execSlotValidated a1 s) s := by
  refine Keeps.next fun k hs => ?_
  repeat' first
    | with_reducible assumption
    | with_reducible first | apply opSlotValidated_ok

theorem opDdrTrained_ok {s : State} (hs : Ok k s) (a1 a2) : Ok k (opDdrTrained a1 a2 s) := by
  unfold opDdrTrained
  repeat' first
    | with_reducible assumption
    | intro _
    | with_reducible first | apply State.enterSafe_ok | apply State.setBoot_ok | apply State.raise_ok | apply State.wb_ok | apply State.wf_ok
    | extract_lets +onlyGivenNames z; first
      | (refine cut (Q := Ok k z) ?_ ?_; (on_goal 2 => (intro hz; clear_value z; rename' z => w)); unfold z; clear z)
      | (clear_value z; rename' z => w)
      | rename' z => w
    | split

theorem execDdr5TrainingDone_keeps (a1 a2) (s) : Keeps (execDdr5TrainingDone a1 a2 s) s := by
  refine Keeps.next fun k hs => ?_
  repeat' first
    | with_reducible assumption
    | with_reducible first | apply opDdrTrained_ok

theorem CohOk.lostDdr {c : Coh} (h : CohOk p c) : CohOk p { c with ddr := Vector.replicate 2 [] } :=
  ⟨fun hp => ⟨(h.wf hp).1, (h.wf hp).2, (h.wf hp).3, (h.wf hp).4, empty_ddr, (h.wf hp).6⟩⟩

theorem opMeminit_ok {s : State} (hs : Ok k s) : Ok k (opMeminit s) := by
  unfold opMeminit
  split
  · have h : Ok k { s with coh := { s.coh with ddr := Vector.replicate 2 [] } } :=
      ⟨hs.pending, hs.fine, hs.sent, hs.regs, CohOk.lostDdr hs.coh, hs.mon, hs.flash, hs.fuses⟩
    exact State.wb_ok (State.setBoot_ok h _) _ _
  · exact hs

theorem execMeminitDone_keeps (s) : Keeps (execMeminitDone s) s := by
  refine Keeps.next fun k hs => ?_
  repeat' first
    | with_reducible assumption
    | with_reducible first | apply opMeminit_ok

theorem State.startRunning_ok {s : State} (hs : Ok k s) : Ok k (State.startRunning s) := by
  unfold State.startRunning
  repeat' first
    | with_reducible assumption
    | (intro _; first | with_reducible rfl | exact Events.settle_routes _ | exact Events.clearPend_routes _ _ _)
    | intro _
    | with_reducible first | apply State.setBoot_ok | apply State.setEv_ok | apply State.wf_ok | apply Ok.coh | apply Ok.mon | apply Ok.flash
    | extract_lets +onlyGivenNames z; first
      | (refine cut (Q := Ok k z) ?_ ?_; (on_goal 2 => (intro hz; clear_value z; rename' z => w)); unfold z; clear z)
      | (clear_value z; rename' z => w)
      | rename' z => w
    | with_reducible first | refine Ok.of_mk ?_ rfl rfl rfl rfl rfl ?_ ?_ ?_

theorem opRunEntered_ok {s : State} (hs : Ok k s) : Ok k (opRunEntered s) := by
  unfold opRunEntered
  repeat' first
    | with_reducible assumption
    | with_reducible first | apply State.startRunning_ok
    | split

theorem execRunEntered_keeps (s) : Keeps (execRunEntered s) s := by
  refine Keeps.next fun k hs => ?_
  repeat' first
    | with_reducible assumption
    | with_reducible first | apply opRunEntered_ok

end Sys2Proof.Machine
end

