-- ==== Sys2Proof/Laws/KeepCalendar.lean ====
section
/-! SUPPORT. What the operations of Machine/Calendar.lean keep (Laws/Keep.lean says what is kept). -/

set_option linter.all false

namespace Sys2Proof.Machine
open Sys2Proof

variable {p : Prop} {k : Kept}

theorem State.enter_ok {s : State} (hs : Ok k s) (a2) : Ok k (State.enter s a2) := by
  unfold State.enter
  repeat' first
    | with_reducible assumption
    | intro _
    | with_reducible first | apply State.setPwr_ok | apply State.wf_ok

theorem State.commandVddc_ok {s : State} (hs : Ok k s) (a2 a3) : Ok k (State.commandVddc s a2 a3) := by
  unfold State.commandVddc
  repeat' first
    | with_reducible assumption
    | intro _
    | with_reducible first | apply State.setPwr_ok | apply State.emit_ok
    | split

theorem State.commandBoth_ok {s : State} (hs : Ok k s) (a2) : Ok k (State.commandBoth s a2) := by
  unfold State.commandBoth
  repeat' first
    | with_reducible assumption
    | with_reducible first | apply State.commandVddc_ok

theorem opRest_ok {s : State} (hs : Ok k s) : Ok k (opRest s) := by
  unfold opRest
  repeat' first
    | with_reducible assumption
    | intro _
    | with_reducible first | apply State.enter_ok | apply State.runCoh_ok | apply State.wb_ok
    | split
    | with_reducible first | refine CohOk.of_mk ?_ rfl rfl rfl rfl rfl rfl

theorem execPwrRestWrite_keeps (s) : Keeps (execPwrRestWrite s) s := by
  refine Keeps.next fun k hs => ?_
  repeat' first
    | with_reducible assumption
    | intro _
    | with_reducible first | apply opRest_ok | apply State.onReg_ok

theorem State.selfRefresh_ok {s : State} (hs : Ok k s) (a2) : Ok k (State.selfRefresh s a2) := by
  unfold State.selfRefresh
  repeat' first
    | with_reducible assumption
    | intro _
    | with_reducible first | apply State.emit_ok | refine foldl_keeps (Q := fun x : State => Ok k x) ?_ ?_

theorem State.restExit_ok {s : State} (hs : Ok k s) (a2) : Ok k (State.restExit s a2) := by
  unfold State.restExit
  repeat' first
    | with_reducible assumption
    | with_reducible first | apply State.commandBoth_ok | apply State.enter_ok | apply State.wf_ok

theorem opRestEntered_ok {s : State} (hs : Ok k s) : Ok k (opRestEntered s) := by
  unfold opRestEntered
  repeat' first
    | with_reducible assumption
    | intro _
    | with_reducible first | apply State.restExit_ok | apply State.selfRefresh_ok | apply State.commandBoth_ok | apply State.enter_ok | apply State.setPwr_ok | apply State.count_ok | apply State.raiseBare_ok | apply Ok.coh
    | extract_lets +onlyGivenNames z; first
      | (refine cut (Q := Ok k z) ?_ ?_; (on_goal 2 => (intro hz; clear_value z; rename' z => w)); unfold z; clear z)
      | (clear_value z; rename' z => w)
      | rename' z => w
    | split

theorem execRestEntered_keeps (s) : Keeps (execRestEntered s) s := by
  refine Keeps.next fun k hs => ?_
  repeat' first
    | with_reducible assumption
    | with_reducible first | apply opRestEntered_ok

theorem opRestCause_ok {s : State} (hs : Ok k s) (a1) : Ok k (opRestCause a1 s) := by
  unfold opRestCause
  repeat' first
    | with_reducible assumption
    | intro _
    | with_reducible first | apply State.restExit_ok | apply State.setPwr_ok
    | split

theorem execRestExitCause_keeps (a1) (s) : Keeps (execRestExitCause a1 s) s := by
  refine Keeps.next fun k hs => ?_
  repeat' first
    | with_reducible assumption
    | with_reducible first | apply opRestCause_ok

theorem opRestDone_ok {s : State} (hs : Ok k s) : Ok k (opRestDone s) := by
  unfold opRestDone
  repeat' first
    | with_reducible assumption
    | intro _
    | with_reducible first | apply State.selfRefresh_ok | apply State.enter_ok | apply State.enterRetrain_ok | apply State.raiseBare_ok | apply State.wb_ok | refine foldl_keeps (Q := fun x : State => Ok k x) ?_ ?_
    | extract_lets +onlyGivenNames z; first
      | (refine cut (Q := Ok k z) ?_ ?_; (on_goal 2 => (intro hz; clear_value z; rename' z => w)); unfold z; clear z)
      | (clear_value z; rename' z => w)
      | rename' z => w
    | split

theorem execRestExitDone_keeps (s) : Keeps (execRestExitDone s) s := by
  refine Keeps.next fun k hs => ?_
  repeat' first
    | with_reducible assumption
    | with_reducible first | apply opRestDone_ok

theorem State.fallow_ok {s : State} (hs : Ok k s) : Ok k (State.fallow s) := by
  unfold State.fallow
  repeat' first
    | with_reducible assumption
    | intro _
    | with_reducible first | apply State.enter_ok | apply State.setPwr_ok | apply State.count_ok | apply State.raiseBare_ok | apply State.wb_ok | apply State.wf_ok
    | extract_lets +onlyGivenNames z; first | (clear_value z; rename' z => w) | rename' z => w
    | split

theorem opFallow_ok {s : State} (hs : Ok k s) (a1) : Ok k (opFallow a1 s) := by
  unfold opFallow
  repeat' first
    | with_reducible assumption
    | intro _
    | with_reducible first | apply State.fallow_ok | apply State.onReg_ok
    | split

theorem execFallowRequest_keeps (a1) (s) : Keeps (execFallowRequest a1 s) s := by
  refine Keeps.next fun k hs => ?_
  repeat' first
    | with_reducible assumption
    | with_reducible first | apply opFallow_ok

theorem State.startWake_ok {s : State} (hs : Ok k s) (a2) : Ok k (State.startWake s a2) := by
  unfold State.startWake
  repeat' first
    | with_reducible assumption
    | intro _
    | with_reducible first | apply State.enter_ok | apply State.setPwr_ok | apply State.wf_ok

theorem State.wakeSource_ok {s : State} (hs : Ok k s) (a2) : Ok k (State.wakeSource s a2) := by
  unfold State.wakeSource
  repeat' first
    | with_reducible assumption
    | intro _
    | with_reducible first | apply State.startWake_ok | apply State.setPwr_ok
    | split

theorem opWakeN_ok {s : State} (hs : Ok k s) : Ok k (opWakeN s) := by
  unfold opWakeN
  repeat' first
    | with_reducible assumption
    | with_reducible first | apply State.wakeSource_ok | apply opRestCause_ok
    | split

theorem execWakeNFall_keeps (s) : Keeps (execWakeNFall s) s := by
  refine Keeps.next fun k hs => ?_
  repeat' first
    | with_reducible assumption
    | with_reducible first | apply opWakeN_ok

theorem opSlpN_ok {s : State} (hs : Ok k s) (a1) : Ok k (opSlpN a1 s) := by
  unfold opSlpN
  repeat' first
    | with_reducible assumption
    | with_reducible first | apply State.wakeSource_ok | apply State.fallow_ok
    | split

theorem execSlpNEdge_keeps (a1) (s) : Keeps (execSlpNEdge a1 s) s := by
  refine Keeps.next fun k hs => ?_
  repeat' first
    | with_reducible assumption
    | with_reducible first | apply opSlpN_ok

theorem State.setCal_ok {s : State} (hs : Ok k s) (a2 : Sys2Proof.Machine.Calendar → Sys2Proof.Machine.Calendar) : Ok k (State.setCal s a2) := by
  unfold State.setCal
  repeat' first
    | with_reducible assumption
    | with_reducible first | apply Ok.coh | apply Ok.mon | apply Ok.flash
    | with_reducible apply_assumption -exfalso
    | with_reducible first | refine Ok.of_mk ?_ rfl rfl rfl rfl rfl ?_ ?_ ?_

theorem State.alarm_ok {s : State} (hs : Ok k s) : Ok k (State.alarm s) := by
  unfold State.alarm
  repeat' first
    | with_reducible assumption
    | with_reducible first | apply State.wakeSource_ok | apply opRestCause_ok
    | split

theorem opCalTick_ok {s : State} (hs : Ok k s) : Ok k (opCalTick s) := by
  unfold opCalTick
  repeat' first
    | with_reducible assumption
    | intro _
    | with_reducible first | apply State.alarm_ok | apply State.setCal_ok
    | extract_lets +onlyGivenNames z; first
      | (refine cut (Q := Ok k z) ?_ ?_; (on_goal 2 => (intro hz; clear_value z; rename' z => w)); unfold z; clear z)
      | (clear_value z; rename' z => w)
      | rename' z => w
    | split

theorem execCalendarTick_keeps (s) : Keeps (execCalendarTick s) s := by
  refine Keeps.next fun k hs => ?_
  repeat' first
    | with_reducible assumption
    | with_reducible first | apply opCalTick_ok

theorem opCalTrim_ok {s : State} (hs : Ok k s) (a1) : Ok k (opCalTrim a1 s) := by
  unfold opCalTrim
  repeat' first
    | with_reducible assumption
    | intro _
    | with_reducible first | apply State.setCal_ok
    | split

theorem execCalendarTrimUpdate_keeps (a1) (s) : Keeps (execCalendarTrimUpdate a1 s) s := by
  refine Keeps.next fun k hs => ?_
  repeat' first
    | with_reducible assumption
    | with_reducible first | apply opCalTrim_ok

theorem opCrystal_ok {s : State} (hs : Ok k s) : Ok k (opCrystal s) := by
  unfold opCrystal
  repeat' first
    | with_reducible assumption
    | intro _
    | with_reducible first | apply State.setCal_ok | apply State.raiseBare_ok | apply State.wb_ok
    | split

theorem execCrystalFault_keeps (s) : Keeps (execCrystalFault s) s := by
  refine Keeps.next fun k hs => ?_
  repeat' first
    | with_reducible assumption
    | with_reducible first | apply opCrystal_ok

theorem opRtcLoad_ok {s : State} (hs : Ok k s) : Ok k (opRtcLoad s) := by
  unfold opRtcLoad
  repeat' first
    | with_reducible assumption
    | intro _
    | with_reducible first | apply State.setCal_ok

theorem execRtcLoad_keeps (s) : Keeps (execRtcLoad s) s := by
  refine Keeps.next fun k hs => ?_
  repeat' first
    | with_reducible assumption
    | intro _
    | with_reducible first | apply opRtcLoad_ok | apply State.onCore_ok

end Sys2Proof.Machine
end

