-- ==== Sys2Proof/Laws/KeepPower.lean ====
section
/-! SUPPORT. What the operations of Machine/Power.lean keep (Laws/Keep.lean says what is kept). -/

set_option linter.all false

namespace Sys2Proof.Machine
open Sys2Proof

variable {p : Prop} {k : Kept}

theorem State.seedCapture_ok {s : State} (hs : Ok k s) : Ok k (State.seedCapture s) := by
  unfold State.seedCapture
  repeat' first
    | with_reducible assumption
    | intro _
    | with_reducible first | apply State.runCoh_ok | apply Coh.writeMem_ok | apply State.crossItem_ok | apply State.count_ok | apply State.raiseBare_ok | apply State.wb_ok | apply State.wf_ok | refine foldl_keeps (Q := fun x : State => Ok k x) ?_ ?_ | refine foldl_keeps (Q := fun x : Coh => CohOk k.p x) ?_ ?_ | apply Ok.coh | apply Ok.mon | apply Ok.flash
    | extract_lets +onlyGivenNames z; first
      | (refine cut (Q := Ok k z) ?_ ?_; (on_goal 2 => (intro hz; clear_value z; rename' z => w)); unfold z; clear z)
      | (clear_value z; rename' z => w)
      | rename' z => w
    | split
    | with_reducible first | refine Ok.of_mk ?_ rfl rfl rfl rfl rfl ?_ ?_ ?_

theorem Coh.fallowWalk_ok {c : Coh} (hc : CohOk p c) (a2 : State) : CohOk p (Coh.fallowWalk c a2) := by
  unfold Coh.fallowWalk
  repeat' first
    | with_reducible assumption
    | intro _
    | with_reducible first | apply Coh.readRow_ok | apply Coh.startFlow_ok | refine foldl_keeps (Q := fun x : Coh => CohOk p x) ?_ ?_
    | extract_lets +onlyGivenNames z; first
      | (refine cut (Q := CohOk p z) ?_ ?_; (on_goal 2 => (intro hz; clear_value z; rename' z => w)); unfold z; clear z)
      | (clear_value z; rename' z => w)
      | rename' z => w
    | split

theorem Coh.flushSlot_ok {c : Coh} (hc : CohOk p c) (a2 : State) (a3) : CohOk p (Coh.flushSlot c a2 a3) := by
  unfold Coh.flushSlot
  repeat' first
    | with_reducible assumption
    | intro _
    | with_reducible first | apply Coh.readSlot_ok | apply Coh.writeMem_ok | apply Coh.setTag_ok
    | (with_reducible refine Coh.readSlot_okE (by with_reducible assumption) ?_)
    | extract_lets +onlyGivenNames z; first
      | (refine cut (Q := CohOk p z.2) ?_ ?_; (on_goal 2 => (intro hz; clear_value z; rename' z => w)); unfold z; clear z)
      | (clear_value z; rename' z => w)
      | rename' z => w

theorem Coh.flushPress_ok {c : Coh} (hc : CohOk p c) (a2 : State) (a3) : CohOk p (Coh.flushPress c a2 a3) := by
  unfold Coh.flushPress
  repeat' first
    | with_reducible assumption
    | with_reducible first | apply Coh.readMem_ok | apply Coh.writeMem_ok | apply Coh.dropPress_ok | apply Coh.freeTag_ok | apply Coh.emits_ok
    | (with_reducible refine Coh.readMem_okE (by with_reducible assumption) ?_)
    | extract_lets +onlyGivenNames z; first
      | (refine cut (Q := CohOk p z.2) ?_ ?_; (on_goal 2 => (intro hz; clear_value z; rename' z => w)); unfold z; clear z)
      | (refine cut (Q := CohOk p z) ?_ ?_; (on_goal 2 => (intro hz; clear_value z; rename' z => w)); unfold z; clear z)
      | (clear_value z; rename' z => w)
      | rename' z => w
    | split

theorem Coh.flushAll_ok {c : Coh} (hc : CohOk p c) (a2 : State) : CohOk p (Coh.flushAll c a2) := by
  unfold Coh.flushAll
  repeat' first
    | with_reducible assumption
    | intro _
    | with_reducible first | apply Coh.flushPress_ok | apply Coh.flushSlot_ok | apply Coh.writeMem_ok | refine foldl_keeps (Q := fun x : Coh => CohOk p x) ?_ ?_
    | extract_lets +onlyGivenNames z; first
      | (refine cut (Q := CohOk p z) ?_ ?_; (on_goal 2 => (intro hz; clear_value z; rename' z => w)); unfold z; clear z)
      | (clear_value z; rename' z => w)
      | rename' z => w
    | split
    | with_reducible first | refine CohOk.of_mk ?_ rfl rfl rfl rfl rfl rfl

theorem State.storeWake_ok {s : State} (hs : Ok k s) : Ok k (State.storeWake s) := by
  unfold State.storeWake
  repeat' first
    | with_reducible assumption
    | intro _
    | with_reducible first | apply State.setPwr_ok
    | extract_lets +onlyGivenNames z; first | (clear_value z; rename' z => w) | rename' z => w

theorem State.toStep_ok {s : State} (hs : Ok k s) (a2) : Ok k (State.toStep s a2) := by
  unfold State.toStep
  repeat' first
    | with_reducible assumption
    | intro _
    | with_reducible first | apply State.setPwr_ok

theorem opFallowStep_ok {s : State} (hs : Ok k s) : Ok k (opFallowStep s) := by
  unfold opFallowStep
  repeat' first
    | with_reducible assumption
    | intro _
    | with_reducible first | apply State.toStep_ok | apply State.storeWake_ok | apply Coh.flushAll_ok | apply Coh.fallowWalk_ok | apply State.seedCapture_ok | apply State.runCoh_ok | apply Coh.woken_ok | apply Ok.coh
    | split

theorem execFallowEntryStep_keeps (s) : Keeps (execFallowEntryStep s) s := by
  refine Keeps.next fun k hs => ?_
  repeat' first
    | with_reducible assumption
    | with_reducible first | apply opFallowStep_ok

theorem CohOk.lostStores {c : Coh} (h : CohOk p c) (a b : Bool) : CohOk p { c with
    ddr := if a then c.ddr else Vector.replicate 2 [], sram := if b then c.sram else Vector.replicate 8 [] } := by
  refine ⟨fun hp => ⟨(h.wf hp).1, (h.wf hp).2, (h.wf hp).3, (h.wf hp).4, ?_, ?_⟩⟩
  · cases a
    · exact empty_ddr
    · exact (h.wf hp).5
  · cases b
    · exact empty_sram
    · exact (h.wf hp).6

theorem State.coreLost_ok {s : State} (hs : Ok k s) (a2 a3 a4) : Ok k (State.coreLost s a2 a3 a4) := by
  have h1 : Ok k ((s.closeSession .i3c).closeSession .inband).coreReset :=
    State.coreReset_ok (State.closeSession_ok (State.closeSession_ok hs _) _)
  unfold State.coreLost
  extract_lets s1
  exact ⟨h1.pending, h1.fine, h1.sent, h1.regs, CohOk.lostStores h1.coh _ _, h1.mon, h1.flash, h1.fuses⟩

theorem State.goKeep_ok {s : State} (hs : Ok k s) : Ok k (State.goKeep s) := by
  have h1 : Ok k (s.coreLost .keep false false) := State.coreLost_ok hs _ _ _
  unfold State.goKeep
  exact ⟨h1.pending, h1.fine, h1.sent, fun hp => Sparse.filter_wf _ (h1.regs hp), h1.coh, h1.mon, h1.flash, h1.fuses⟩

theorem State.goOff_ok {s : State} (hs : Ok k s) : Ok k (State.goOff s) := by
  unfold State.goOff
  exact ⟨hs.pending, hs.fine, hs.sent, fun _ => rfl,
    ⟨fun _ => ⟨rfl, rfl, rfl, rfl, empty_ddr, empty_sram⟩⟩, ⟨fun _ => ⟨rfl, rfl⟩⟩, ⟨hs.flash.wf⟩, hs.fuses⟩

theorem opFallowEntered_ok {s : State} (hs : Ok k s) : Ok k (opFallowEntered s) := by
  unfold opFallowEntered
  repeat' first
    | with_reducible assumption
    | intro _
    | with_reducible first | apply State.goKeep_ok | apply State.coreLost_ok | apply State.startWake_ok | apply State.selfRefresh_ok | apply State.setPwr_ok | apply State.emit_ok
    | extract_lets +onlyGivenNames z; first
      | (refine cut (Q := Ok k z) ?_ ?_; (on_goal 2 => (intro hz; clear_value z; rename' z => w)); unfold z; clear z)
      | (clear_value z; rename' z => w)
      | rename' z => w
    | split

theorem execFallowEntered_keeps (s) : Keeps (execFallowEntered s) s := by
  refine Keeps.next fun k hs => ?_
  repeat' first
    | with_reducible assumption
    | with_reducible first | apply opFallowEntered_ok

theorem State.wakeAsBoot_ok {s : State} (hs : Ok k s) : Ok k (State.wakeAsBoot s) := by
  unfold State.wakeAsBoot
  repeat' first
    | with_reducible assumption
    | intro _
    | with_reducible first | apply State.selfRefresh_ok | apply State.enter_ok | apply State.setPwr_ok | apply State.count_ok | apply State.wb_ok | apply State.wf_ok
    | extract_lets +onlyGivenNames z; first
      | (refine cut (Q := Ok k z) ?_ ?_; (on_goal 2 => (intro hz; clear_value z; rename' z => w)); unfold z; clear z)
      | (clear_value z; rename' z => w)
      | rename' z => w

theorem State.wakeHub_ok {s : State} (hs : Ok k s) (a2) : Ok k (State.wakeHub s a2) := by
  unfold State.wakeHub
  repeat' first
    | with_reducible assumption
    | with_reducible first | apply State.startVddc_ok | apply State.emit_ok | apply State.wb_ok | apply State.wf_ok
    | extract_lets +onlyGivenNames z; first
      | (refine cut (Q := Ok k z) ?_ ?_; (on_goal 2 => (intro hz; clear_value z; rename' z => w)); unfold z; clear z)
      | (clear_value z; rename' z => w)
      | rename' z => w

theorem State.wakeRecords_ok {s : State} (hs : Ok k s) (a2) : Ok k (State.wakeRecords s a2) := by
  unfold State.wakeRecords
  repeat' first
    | with_reducible assumption
    | intro _
    | with_reducible first | apply State.wakeAsBoot_ok | apply State.toStep_ok | apply State.applyImage_ok | apply State.setBoot_ok
    | split

theorem opWakeStep_ok {s : State} (hs : Ok k s) : Ok k (opWakeStep s) := by
  unfold opWakeStep
  repeat' first
    | with_reducible assumption
    | intro _
    | with_reducible first | apply State.wakeRecords_ok | apply State.wakeHub_ok | apply State.wakeAsBoot_ok | apply State.toStep_ok | apply State.selfRefresh_ok | apply State.wb_ok | refine foldl_keeps (Q := fun x : State => Ok k x) ?_ ?_
    | split

theorem execWakeStep_keeps (s) : Keeps (execWakeStep s) s := by
  refine Keeps.next fun k hs => ?_
  repeat' first
    | with_reducible assumption
    | with_reducible first | apply opWakeStep_ok

theorem opWakeComplete_ok {s : State} (hs : Ok k s) : Ok k (opWakeComplete s) := by
  unfold opWakeComplete
  repeat' first
    | with_reducible assumption
    | intro _
    | with_reducible first | apply State.enter_ok | apply State.startRunning_ok | apply State.setPwr_ok | apply State.count_ok | apply State.raiseBare_ok | apply State.wb_ok | apply Ok.coh | apply Ok.mon | apply Ok.flash
    | extract_lets +onlyGivenNames z; first
      | (refine cut (Q := Ok k z) ?_ ?_; (on_goal 2 => (intro hz; clear_value z; rename' z => w)); unfold z; clear z)
      | (clear_value z; rename' z => w)
      | rename' z => w
    | split
    | with_reducible first | refine Ok.of_mk ?_ rfl rfl rfl rfl rfl ?_ ?_ ?_

theorem execWakeComplete_keeps (s) : Keeps (execWakeComplete s) s := by
  refine Keeps.next fun k hs => ?_
  repeat' first
    | with_reducible assumption
    | with_reducible first | apply opWakeComplete_ok

theorem State.seedFetch_ok {s : State} (hs : Ok k s) (a2) : Ok k (State.seedFetch s a2).2 := by
  unfold State.seedFetch
  repeat' first
    | with_reducible assumption
    | intro _
    | with_reducible first | apply State.runCoh_ok | apply Coh.readMem_ok | apply Ok.coh | apply Ok.mon | apply Ok.flash
    | (with_reducible refine Coh.readMem_okE (by with_reducible assumption) ?_)
    | extract_lets +onlyGivenNames z; first
      | (refine cut (Q := CohOk k.p z.2) ?_ ?_; (on_goal 2 => (intro hz; clear_value z; rename' z => w)); unfold z; clear z)
      | (clear_value z; rename' z => w)
      | rename' z => w
    | split
    | with_reducible first | refine Ok.of_mk ?_ rfl rfl rfl rfl rfl ?_ ?_ ?_
theorem State.seedFetch_okE {yl t} {s : State}  {a2} (e : (State.seedFetch s a2) = (yl, t)) (hs : Ok k s) : Ok k t := by
  have := State.seedFetch_ok hs a2; rw [e] at this; exact this

theorem State.resow_ok {s : State} (hs : Ok k s) (a2 a3 a4) : Ok k (State.resow s a2 a3 a4) := by
  unfold State.resow
  repeat' first
    | with_reducible assumption
    | intro _
    | with_reducible first | apply State.setPwr_ok | apply State.arriveReq_ok | apply State.crossItem_ok | apply Ok.coh | apply Ok.mon | apply Ok.flash
    | extract_lets +onlyGivenNames z; first
      | (refine cut (Q := Ok k z) ?_ ?_; (on_goal 2 => (intro hz; clear_value z; rename' z => w)); unfold z; clear z)
      | (clear_value z; rename' z => w)
      | rename' z => w
    | split
    | with_reducible first | refine Ok.of_mk ?_ rfl rfl rfl rfl rfl ?_ ?_ ?_

theorem opResow_ok {s : State} (hs : Ok k s) : Ok k (opResow s) := by
  unfold opResow
  repeat' first
    | with_reducible assumption
    | intro _
    | with_reducible first | apply State.resow_ok | apply State.seedFetch_ok | apply State.setPwr_ok | apply State.consumed_ok | apply State.count_ok
    | (with_reducible refine State.seedFetch_okE (by with_reducible assumption) ?_)
    | extract_lets +onlyGivenNames z; first
      | (refine cut (Q := Ok k z.2) ?_ ?_; (on_goal 2 => (intro hz; clear_value z; rename' z => w)); unfold z; clear z)
      | (refine cut (Q := ∀ x0, Ok k x0 → Ok k (z x0)) ?_ ?_; (on_goal 2 => (intro hz; clear_value z; rename' z => w)); unfold z; clear z)
      | (clear_value z; rename' z => w)
      | rename' z => w
    | with_reducible apply_assumption -exfalso
    | split

theorem execResowReadIssue_keeps (s) : Keeps (execResowReadIssue s) s := by
  refine Keeps.next fun k hs => ?_
  repeat' first
    | with_reducible assumption
    | with_reducible first | apply opResow_ok

theorem State.endResow_ok {s : State} (hs : Ok k s) : Ok k (State.endResow s) := by
  unfold State.endResow
  repeat' first
    | with_reducible assumption
    | with_reducible first | apply State.wb_ok | apply Ok.coh | apply Ok.mon | apply Ok.flash
    | extract_lets +onlyGivenNames z; first
      | (refine cut (Q := Ok k z) ?_ ?_; (on_goal 2 => (intro hz; clear_value z; rename' z => w)); unfold z; clear z)
      | (clear_value z; rename' z => w)
      | rename' z => w
    | with_reducible first | refine Ok.of_mk ?_ rfl rfl rfl rfl rfl ?_ ?_ ?_

theorem opResowDone_ok {s : State} (hs : Ok k s) : Ok k (opResowDone s) := by
  unfold opResowDone
  repeat' first
    | with_reducible assumption
    | with_reducible first | apply State.endResow_ok | apply State.raiseBare_ok | apply State.wb_ok
    | split

theorem execResowingDone_keeps (s) : Keeps (execResowingDone s) s := by
  refine Keeps.next fun k hs => ?_
  repeat' first
    | with_reducible assumption
    | with_reducible first | apply opResowDone_ok

theorem opSeedCfg_ok {s : State} (hs : Ok k s) (a1) : Ok k (opSeedCfg a1 s) := by
  unfold opSeedCfg
  repeat' first
    | with_reducible assumption
    | with_reducible first | apply State.endResow_ok | apply State.wrRw_ok
    | extract_lets +onlyGivenNames z; first
      | (refine cut (Q := Ok k z) ?_ ?_; (on_goal 2 => (intro hz; clear_value z; rename' z => w)); unfold z; clear z)
      | (clear_value z; rename' z => w)
      | rename' z => w
    | split

theorem execPwrSeedCfgWrite_keeps (a1) (s) : Keeps (execPwrSeedCfgWrite a1 s) s := by
  refine Keeps.next fun k hs => ?_
  repeat' first
    | with_reducible assumption
    | intro _
    | with_reducible first | apply opSeedCfg_ok | apply State.onReg_ok

theorem State.vinLow_ok {s : State} (hs : Ok k s) : Ok k (State.vinLow s) := by
  unfold State.vinLow
  repeat' first
    | with_reducible assumption
    | with_reducible first | apply State.raiseBare_ok | apply State.wb_ok
    | split

theorem State.vinGone_ok {s : State} (hs : Ok k s) : Ok k (State.vinGone s) := by
  unfold State.vinGone
  repeat' first
    | with_reducible assumption
    | intro _
    | with_reducible first | apply State.goOff_ok | apply State.goKeep_ok | apply State.setPwr_ok | apply State.raiseBare_ok | apply State.wb_ok
    | extract_lets +onlyGivenNames z; first
      | (refine cut (Q := Ok k z) ?_ ?_; (on_goal 2 => (intro hz; clear_value z; rename' z => w)); unfold z; clear z)
      | (clear_value z; rename' z => w)
      | rename' z => w
    | split

theorem opVinFall_ok {s : State} (hs : Ok k s) (a1) : Ok k (opVinFall a1 s) := by
  unfold opVinFall
  repeat' first
    | with_reducible assumption
    | with_reducible first | apply State.vinGone_ok | apply State.vinLow_ok
    | split

theorem execVinFall_keeps (a1) (s) : Keeps (execVinFall a1 s) s := by
  refine Keeps.next fun k hs => ?_
  repeat' first
    | with_reducible assumption
    | with_reducible first | apply opVinFall_ok

theorem opVinRise_ok {s : State} (hs : Ok k s) (a1) : Ok k (opVinRise a1 s) := by
  unfold opVinRise
  repeat' first
    | with_reducible assumption
    | intro _
    | with_reducible first | apply State.powerUp_ok | apply State.setPwr_ok | apply State.wb_ok
    | extract_lets +onlyGivenNames z; first
      | (refine cut (Q := Ok k z) ?_ ?_; (on_goal 2 => (intro hz; clear_value z; rename' z => w)); unfold z; clear z)
      | (clear_value z; rename' z => w)
      | rename' z => w
    | split

theorem execVinRise_keeps (a1) (s) : Keeps (execVinRise a1 s) s := by
  refine Keeps.next fun k hs => ?_
  repeat' first
    | with_reducible assumption
    | with_reducible first | apply opVinRise_ok

theorem opVbakLow_ok {s : State} (hs : Ok k s) : Ok k (opVbakLow s) := by
  unfold opVbakLow
  repeat' first
    | with_reducible assumption
    | with_reducible first | apply State.raiseBare_ok | apply State.wb_ok
    | split

theorem execVbakLow_keeps (s) : Keeps (execVbakLow s) s := by
  refine Keeps.next fun k hs => ?_
  repeat' first
    | with_reducible assumption
    | with_reducible first | apply opVbakLow_ok

theorem opVbakPresent_ok {s : State} (hs : Ok k s) : Ok k (opVbakPresent s) := by
  unfold opVbakPresent
  repeat' first
    | with_reducible assumption
    | intro _
    | with_reducible first | apply State.setPwr_ok | apply State.wb_ok
    | extract_lets +onlyGivenNames z; first
      | (refine cut (Q := Ok k z) ?_ ?_; (on_goal 2 => (intro hz; clear_value z; rename' z => w)); unfold z; clear z)
      | (clear_value z; rename' z => w)
      | rename' z => w
    | split

theorem execVbakPresent_keeps (s) : Keeps (execVbakPresent s) s := by
  refine Keeps.next fun k hs => ?_
  repeat' first
    | with_reducible assumption
    | with_reducible first | apply opVbakPresent_ok

theorem opVbakLost_ok {s : State} (hs : Ok k s) : Ok k (opVbakLost s) := by
  unfold opVbakLost
  repeat' first
    | with_reducible assumption
    | intro _
    | with_reducible first | apply State.goOff_ok | apply State.setPwr_ok
    | split

theorem execVbakLost_keeps (s) : Keeps (execVbakLost s) s := by
  refine Keeps.next fun k hs => ?_
  repeat' first
    | with_reducible assumption
    | with_reducible first | apply opVbakLost_ok

theorem opRailsGood_ok {s : State} (hs : Ok k s) : Ok k (opRailsGood s) := by
  unfold opRailsGood
  repeat' first
    | with_reducible assumption
    | intro _
    | with_reducible first | apply State.bootFrom2_ok | apply State.setPwr_ok
    | split

theorem execMainRailsGood_keeps (s) : Keeps (execMainRailsGood s) s := by
  refine Keeps.next fun k hs => ?_
  repeat' first
    | with_reducible assumption
    | with_reducible first | apply opRailsGood_ok

theorem opRailLost_ok {s : State} (hs : Ok k s) (a1) : Ok k (opRailLost a1 s) := by
  unfold opRailLost
  repeat' first
    | with_reducible assumption
    | intro _
    | with_reducible first | apply State.coreLost_ok | apply State.setPwr_ok | apply State.note_ok
    | extract_lets +onlyGivenNames z; first
      | (refine cut (Q := Ok k z) ?_ ?_; (on_goal 2 => (intro hz; clear_value z; rename' z => w)); unfold z; clear z)
      | (clear_value z; rename' z => w)
      | rename' z => w
    | split

theorem execMainRailLost_keeps (a1) (s) : Keeps (execMainRailLost a1 s) s := by
  refine Keeps.next fun k hs => ?_
  repeat' first
    | with_reducible assumption
    | with_reducible first | apply opRailLost_ok

theorem State.adaptDie_ok {s : State} (hs : Ok k s) (a2 a3 a4) : Ok k (State.adaptDie s a2 a3 a4) := by
  unfold State.adaptDie
  repeat' first
    | with_reducible assumption
    | intro _
    | with_reducible first | apply State.commandVddc_ok | apply State.setPwr_ok
    | extract_lets +onlyGivenNames z; first | (clear_value z; rename' z => w) | rename' z => w
    | split

theorem State.pollStatus_ok {s : State} (hs : Ok k s) (a2 a3) : Ok k (State.pollStatus s a2 a3) := by
  unfold State.pollStatus
  repeat' first
    | with_reducible assumption
    | with_reducible first | apply State.raiseBare_ok | apply State.wb_ok | apply State.wf_ok
    | split

theorem opAdaptive_ok {s : State} (hs : Ok k s) (a1 a2) (a3 a4) (a5 a6 a7) : Ok k (opAdaptive a1 a2 a3 a4 a5 a6 a7 s) := by
  unfold opAdaptive
  repeat' first
    | with_reducible assumption
    | with_reducible first | apply State.pollStatus_ok | apply State.adaptDie_ok | apply State.setVmon_ok | apply State.count_ok | apply State.raiseBare_ok | apply State.wb_ok
    | extract_lets +onlyGivenNames z; first
      | (refine cut (Q := Ok k z) ?_ ?_; (on_goal 2 => (intro hz; clear_value z; rename' z => w)); unfold z; clear z)
      | (clear_value z; rename' z => w)
      | rename' z => w
    | split

theorem execAdaptiveVddcUpdate_keeps (a1 a2 a3 a4 a5 a6 a7) (s) : Keeps (execAdaptiveVddcUpdate a1 a2 a3 a4 a5 a6 a7 s) s := by
  refine Keeps.next fun k hs => ?_
  repeat' first
    | with_reducible assumption
    | with_reducible first | apply opAdaptive_ok

theorem opPmbStat_ok {s : State} (hs : Ok k s) (a1) : Ok k (opPmbStat a1 s) := by
  unfold opPmbStat
  repeat' first
    | with_reducible assumption
    | with_reducible first | apply State.wr_ok

theorem execPmbStatWrite_keeps (a1) (s) : Keeps (execPmbStatWrite a1 s) s := by
  refine Keeps.next fun k hs => ?_
  repeat' first
    | with_reducible assumption
    | intro _
    | with_reducible first | apply opPmbStat_ok | apply State.onCore_ok

theorem State.warn_ok {s : State} (hs : Ok k s) (a2 a3) (a4 a5) : Ok k (State.warn s a2 a3 a4 a5) := by
  unfold State.warn
  repeat' first
    | with_reducible assumption
    | with_reducible first | apply State.raiseBare_ok | apply State.wb_ok | apply State.wf_ok
    | extract_lets +onlyGivenNames z; first
      | (refine cut (Q := Ok k z) ?_ ?_; (on_goal 2 => (intro hz; clear_value z; rename' z => w)); unfold z; clear z)
      | (clear_value z; rename' z => w)
      | rename' z => w
    | split

theorem State.hotter_ok {s : State} (hs : Ok k s) (a2 a3) (a4 a5) : Ok k (State.hotter s a2 a3 a4 a5) := by
  unfold State.hotter
  repeat' first
    | with_reducible assumption
    | with_reducible first | apply State.raiseBare_ok | apply State.wb_ok
    | split

theorem State.cooling_ok {s : State} (hs : Ok k s) (a2) : Ok k (State.cooling s a2) := by
  unfold State.cooling
  repeat' first
    | with_reducible assumption
    | intro _
    | with_reducible first | apply State.setPwr_ok
    | split

theorem State.trip_ok {s : State} (hs : Ok k s) : Ok k (State.trip s) := by
  unfold State.trip
  repeat' first
    | with_reducible assumption
    | with_reducible first | apply State.coreLost_ok | apply State.count_ok | apply State.note_ok

theorem opThermal_ok {s : State} (hs : Ok k s) (a1 a2) : Ok k (opThermal a1 a2 s) := by
  unfold opThermal
  repeat' first
    | with_reducible assumption
    | with_reducible first | apply State.trip_ok | apply State.cooling_ok | apply State.hotter_ok | apply State.warn_ok
    | extract_lets +onlyGivenNames z; first
      | (refine cut (Q := Ok k z) ?_ ?_; (on_goal 2 => (intro hz; clear_value z; rename' z => w)); unfold z; clear z)
      | (clear_value z; rename' z => w)
      | rename' z => w
    | split

theorem execThermalReading_keeps (a1 a2) (s) : Keeps (execThermalReading a1 a2 s) s := by
  refine Keeps.next fun k hs => ?_
  repeat' first
    | with_reducible assumption
    | with_reducible first | apply opThermal_ok

theorem opRelease_ok {s : State} (hs : Ok k s) : Ok k (opRelease s) := by
  unfold opRelease
  repeat' first
    | with_reducible assumption
    | with_reducible first | apply State.wb_ok
    | split

theorem execThrottleRelease_keeps (s) : Keeps (execThrottleRelease s) s := by
  refine Keeps.next fun k hs => ?_
  repeat' first
    | with_reducible assumption
    | with_reducible first | apply opRelease_ok

theorem opTrip_ok {s : State} (hs : Ok k s) : Ok k (opTrip s) := by
  unfold opTrip
  repeat' first
    | with_reducible assumption
    | with_reducible first | apply State.trip_ok
    | split

theorem execThermalTrip_keeps (s) : Keeps (execThermalTrip s) s := by
  refine Keeps.next fun k hs => ?_
  repeat' first
    | with_reducible assumption
    | with_reducible first | apply opTrip_ok

theorem opTripRecovery_ok {s : State} (hs : Ok k s) (a1) : Ok k (opTripRecovery a1 s) := by
  unfold opTripRecovery
  repeat' first
    | with_reducible assumption
    | with_reducible first | apply State.discovered_ok | apply State.bootFrom2_ok | apply State.wb_ok
    | split

theorem execTripRecovery_keeps (a1) (s) : Keeps (execTripRecovery a1 s) s := by
  refine Keeps.next fun k hs => ?_
  repeat' first
    | with_reducible assumption
    | with_reducible first | apply opTripRecovery_ok

end Sys2Proof.Machine
end

