-- ==== Sys2Proof/Laws/KeepCsr.lean ====
section
/-! SUPPORT. What the operations of Machine/Csr.lean keep (Laws/Keep.lean says what is kept). -/

set_option linter.all false

namespace Sys2Proof.Machine
open Sys2Proof

variable {p : Prop} {k : Kept}

theorem State.w1c_ok {s : State} (hs : Ok k s) (a2 a3) : Ok k (State.w1c s a2 a3) := by
  unfold State.w1c
  repeat' first
    | with_reducible assumption
    | with_reducible first | apply State.wr_ok
    | split

theorem State.plain_ok {s : State} (hs : Ok k s) (a2 a3) : Ok k (State.plain s a2 a3) := by
  unfold State.plain
  repeat' first
    | with_reducible assumption
    | with_reducible first | apply State.w1c_ok | apply State.wrRw_ok

theorem State.mailWrite_ok {s : State} (hs : Ok k s) (a2 a3) : Ok k (State.mailWrite s a2 a3) := by
  unfold State.mailWrite
  repeat' first
    | with_reducible assumption
    | intro _
    | with_reducible first | apply State.mailSel_ok | apply State.mailGo_ok | apply State.setMail_ok
    | extract_lets +onlyGivenNames z; first
      | (refine cut (Q := Ok k z) ?_ ?_; (on_goal 2 => (intro hz; clear_value z; rename' z => w)); unfold z; clear z)
      | (clear_value z; rename' z => w)
      | rename' z => w
    | split

theorem State.queueW1c_ok {s : State} (hs : Ok k s) (a2) : Ok k (State.queueW1c s a2) := by
  unfold State.queueW1c
  repeat' first
    | with_reducible assumption
    | (intro _; first | with_reducible rfl | exact Events.settle_routes _ | exact Events.clearPend_routes _ _ _)
    | intro _
    | with_reducible first | apply State.setEv_ok

theorem State.logCtl_ok {s : State} (hs : Ok k s) (a2) : Ok k (State.logCtl s a2) := by
  unfold State.logCtl
  repeat' first
    | with_reducible assumption
    | with_reducible first | apply opLogRewind_ok | apply opLogMark_ok
    | split

theorem State.logW1c_ok {s : State} (hs : Ok k s) (a2) : Ok k (State.logW1c s a2) := by
  unfold State.logW1c
  repeat' first
    | with_reducible assumption
    | intro _
    | with_reducible first | apply State.setLog_ok

theorem State.rtcCtl_ok {s : State} (hs : Ok k s) (a2) : Ok k (State.rtcCtl s a2) := by
  unfold State.rtcCtl
  repeat' first
    | with_reducible assumption
    | with_reducible first | apply State.plain_ok | apply opRtcLoad_ok
    | extract_lets +onlyGivenNames z; first
      | (refine cut (Q := Ok k z) ?_ ?_; (on_goal 2 => (intro hz; clear_value z; rename' z => w)); unfold z; clear z)
      | (clear_value z; rename' z => w)
      | rename' z => w
    | split

theorem State.pwrCtl_ok {s : State} (hs : Ok k s) (a2) : Ok k (State.pwrCtl s a2) := by
  unfold State.pwrCtl
  repeat' first
    | with_reducible assumption
    | with_reducible first | apply State.fallow_ok | apply opRest_ok | apply State.wb_ok | apply State.wr_ok
    | extract_lets +onlyGivenNames z; first
      | (refine cut (Q := Ok k z) ?_ ?_; (on_goal 2 => (intro hz; clear_value z; rename' z => w)); unfold z; clear z)
      | (clear_value z; rename' z => w)
      | rename' z => w
    | split

theorem State.mntCtl_ok {s : State} (hs : Ok k s) (a2) : Ok k (State.mntCtl s a2) := by
  unfold State.mntCtl
  repeat' first
    | with_reducible assumption
    | with_reducible first | apply State.mntStart_ok | apply State.wrRw_ok
    | extract_lets +onlyGivenNames z; first
      | (refine cut (Q := Ok k z) ?_ ?_; (on_goal 2 => (intro hz; clear_value z; rename' z => w)); unfold z; clear z)
      | (clear_value z; rename' z => w)
      | rename' z => w
    | split

theorem State.sesSubmit_ok {s : State} (hs : Ok k s) : Ok k (State.sesSubmit s) := by
  unfold State.sesSubmit
  repeat' first
    | with_reducible assumption
    | intro _
    | with_reducible first | apply State.setSes_ok
    | split

theorem State.globalWrite_ok {s : State} (hs : Ok k s) (a2 a3) : Ok k (State.globalWrite s a2 a3) := by
  unfold State.globalWrite
  repeat' first
    | with_reducible assumption
    | (intro _; first | with_reducible rfl | exact Events.settle_routes _ | exact Events.clearPend_routes _ _ _)
    | intro _
    | with_reducible first | apply State.sesSubmit_ok | apply State.mntCtl_ok | apply State.pwrCtl_ok | apply State.rtcCtl_ok | apply State.logW1c_ok | apply State.logCtl_ok | apply State.queueW1c_ok | apply State.mailWrite_ok | apply State.plain_ok | apply opPmbStat_ok | apply opSeedCfg_ok | apply State.setSes_ok | apply opLogRseq_ok | apply opEvtSw_ok | apply opEvtRte_ok | apply opEvtFlush_ok | apply State.setEv_ok | apply opDarThr_ok | apply opDarRetCtl_ok | apply opDarCtl_ok | apply opDrlAcc_ok | apply opPrmMode_ok | apply State.noteMargin_ok | apply opGlbDeadCtl_ok | apply State.swathOff_ok | apply State.wr_ok
    | split

theorem State.invCtl_ok {s : State} (hs : Ok k s) (a2 a3) : Ok k (State.invCtl s a2 a3) := by
  unfold State.invCtl
  repeat' first
    | with_reducible assumption
    | with_reducible first | apply opTlbInvBad_ok | apply opTlbInvAll_ok | apply opTlbInvCtx_ok | apply opTlbInvAddr_ok | apply State.wrRw_ok
    | extract_lets +onlyGivenNames z; first
      | (refine cut (Q := Ok k z) ?_ ?_; (on_goal 2 => (intro hz; clear_value z; rename' z => w)); unfold z; clear z)
      | (clear_value z; rename' z => w)
      | rename' z => w
    | split

theorem State.portWrite_ok {s : State} (hs : Ok k s) (a2 a3) (a4 a5) : Ok k (State.portWrite s a2 a3 a4 a5) := by
  unfold State.portWrite
  repeat' first
    | with_reducible assumption
    | with_reducible first | apply State.invCtl_ok | apply State.plain_ok | apply opLinkCtl_ok | apply opFlushWrite_ok | apply opDrlCfg2_ok | apply opDrlCfg_ok | apply opDeadCtl_ok | apply opPtuSeed_ok | apply opPtuRootHi_ok | apply opPtuRootLo_ok
    | split

theorem State.csrWriteRun_ok {s : State} (hs : Ok k s) (a2 a3) : Ok k (State.csrWriteRun s a2 a3) := by
  unfold State.csrWriteRun
  repeat' first
    | with_reducible assumption
    | with_reducible first | apply State.portWrite_ok | apply State.globalWrite_ok | apply State.plain_ok | apply opCmiCtl_ok | apply opWayEn_ok
    | split

theorem State.csrWriteSafe_ok {s : State} (hs : Ok k s) (a2 a3) : Ok k (State.csrWriteSafe s a2 a3) := by
  unfold State.csrWriteSafe
  repeat' first
    | with_reducible assumption
    | with_reducible first | apply State.csrWriteRun_ok | apply State.w1c_ok
    | split

theorem State.csrWrite_ok {s : State} (hs : Ok k s) (a2 a3) : Ok k (State.csrWrite s a2 a3) := by
  unfold State.csrWrite
  repeat' first
    | with_reducible assumption
    | with_reducible first | apply State.csrWriteSafe_ok | apply State.csrWriteRun_ok
    | split

theorem State.csrOutside_ok {s : State} (hs : Ok k s) (a2 a3) : Ok k (State.csrOutside s a2 a3) := by
  unfold State.csrOutside
  repeat' first
    | with_reducible assumption
    | with_reducible first | apply State.addrError_ok

theorem State.csrReadAccess_ok {s : State} (hs : Ok k s) (a2 a3) (a4 a5) : Ok k (State.csrReadAccess s a2 a3 a4 a5).2.2 := by
  unfold State.csrReadAccess
  repeat' first
    | with_reducible assumption
    | with_reducible first | apply State.csrOutside_ok | apply State.raiseLog_ok
    | split
theorem State.csrReadAccess_okE {yl yrl t} {s : State}  {a2 a3} {a4 a5} (e : (State.csrReadAccess s a2 a3 a4 a5) = (yl, (yrl, t))) (hs : Ok k s) : Ok k t := by
  have := State.csrReadAccess_ok hs a2 a3 a4 a5; rw [e] at this; exact this

theorem State.csrWriteAccess_ok {s : State} (hs : Ok k s) (a2 a3) (a4 a5 a6) : Ok k (State.csrWriteAccess s a2 a3 a4 a5 a6).2 := by
  unfold State.csrWriteAccess
  repeat' first
    | with_reducible assumption
    | intro _
    | with_reducible first | apply State.csrOutside_ok | apply State.csrWrite_ok | apply State.consumed_ok | apply State.raiseLog_ok | refine foldl_keeps (Q := fun x : State => Ok k x) ?_ ?_
    | extract_lets +onlyGivenNames z; first | (clear_value z; rename' z => w) | rename' z => w
    | split
theorem State.csrWriteAccess_okE {yl t} {s : State}  {a2 a3} {a4 a5 a6} (e : (State.csrWriteAccess s a2 a3 a4 a5 a6) = (yl, t)) (hs : Ok k s) : Ok k t := by
  have := State.csrWriteAccess_ok hs a2 a3 a4 a5 a6; rw [e] at this; exact this

end Sys2Proof.Machine
end

