-- ==== Sys2Proof/Laws/KeepSessions.lean ====
section
/-! SUPPORT. What the operations of Machine/Sessions.lean keep (Laws/Keep.lean says what is kept). -/

set_option linter.all false

namespace Sys2Proof.Machine
open Sys2Proof

variable {p : Prop} {k : Kept}

theorem State.deliver_ok {s : State} (hs : Ok k s) (a2 a3) : Ok k (State.deliver s a2 a3) := by
  unfold State.deliver
  repeat' first
    | with_reducible assumption
    | intro _
    | with_reducible first | apply State.setSes_ok | apply State.emit_ok | apply State.wr_ok | refine foldl_keeps (Q := fun x : State => Ok k x) ?_ ?_
    | extract_lets +onlyGivenNames z; first
      | (refine cut (Q := Ok k z) ?_ ?_; (on_goal 2 => (intro hz; clear_value z; rename' z => w)); unfold z; clear z)
      | (clear_value z; rename' z => w)
      | rename' z => w
    | split

theorem State.deny_ok {s : State} (hs : Ok k s) (a2 a3) : Ok k (State.deny s a2 a3) := by
  unfold State.deny
  repeat' first
    | with_reducible assumption
    | with_reducible first | apply State.deliver_ok

theorem State.performed_ok {s : State} (hs : Ok k s) (a2 a3) (a4 a5 a6) : Ok k (State.performed s a2 a3 a4 a5 a6) := by
  unfold State.performed
  repeat' first
    | with_reducible assumption
    | intro _
    | with_reducible first | apply State.deliver_ok | apply State.setSession_ok | apply State.count_ok
    | extract_lets +onlyGivenNames z; first | (clear_value z; rename' z => w) | rename' z => w
    | split

theorem State.done_ok {s : State} (hs : Ok k s) (a2 a3) : Ok k (State.done s a2 a3) := by
  unfold State.done
  repeat' first
    | with_reducible assumption
    | with_reducible first | apply State.performed_ok

theorem State.failedAuth_ok {s : State} (hs : Ok k s) (a2) : Ok k (State.failedAuth s a2) := by
  unfold State.failedAuth
  repeat' first
    | with_reducible assumption
    | intro _
    | with_reducible first | apply State.setSession_ok | apply State.count_ok | apply State.raiseBare_ok
    | extract_lets +onlyGivenNames z; first
      | (refine cut (Q := Ok k z) ?_ ?_; (on_goal 2 => (intro hz; clear_value z; rename' z => w)); unfold z; clear z)
      | (clear_value z; rename' z => w)
      | rename' z => w
    | split

theorem State.sesOpen_ok {s : State} (hs : Ok k s) (a2) : Ok k (State.sesOpen s a2) := by
  unfold State.sesOpen
  repeat' first
    | with_reducible assumption
    | intro _
    | with_reducible first | apply State.deliver_ok | apply State.drawn_ok | apply State.setSession_ok
    | extract_lets +onlyGivenNames z; first | (clear_value z; rename' z => w) | rename' z => w
    | split

theorem State.sesAuth_ok {s : State} (hs : Ok k s) (a2) : Ok k (State.sesAuth s a2) := by
  unfold State.sesAuth
  repeat' first
    | with_reducible assumption
    | intro _
    | with_reducible first | apply State.failedAuth_ok | apply State.deliver_ok | apply State.setSession_ok | apply State.count_ok | apply State.raiseBare_ok
    | extract_lets +onlyGivenNames z; first
      | (refine cut (Q := Ok k z) ?_ ?_; (on_goal 2 => (intro hz; clear_value z; rename' z => w)); unfold z; clear z)
      | (clear_value z; rename' z => w)
      | rename' z => w
    | split

theorem State.cmdCsrRd_ok {s : State} (hs : Ok k s) (a2) : Ok k (State.cmdCsrRd s a2) := by
  unfold State.cmdCsrRd
  repeat' first
    | with_reducible assumption
    | intro _
    | with_reducible first | apply State.done_ok | apply State.performed_ok | apply State.csrReadAccess_ok | refine foldl_keeps (Q := fun x : (_ × (_ × State)) => Ok k x.2.2) ?_ ?_
    | (with_reducible refine State.csrReadAccess_okE (by with_reducible assumption) ?_)
    | extract_lets +onlyGivenNames z; first
      | (refine cut (Q := ∀ x0, Ok k x0.2.2 → ∀ x1, Ok k (z x0 x1).2.2) ?_ ?_; (on_goal 2 => (intro hz; clear_value z; rename' z => w)); unfold z; clear z)
      | (refine cut (Q := Ok k z.2.2) ?_ ?_; (on_goal 2 => (intro hz; clear_value z; rename' z => w)); unfold z; clear z)
      | (refine cut (Q := Ok k z.2.2) ?_ ?_; (on_goal 2 => (intro hz; clear_value z; rename' z => w)); unfold z; clear z)
      | (clear_value z; rename' z => w)
      | rename' z => w
    | with_reducible apply_assumption -exfalso
    | split

theorem State.cmdCsrWr_ok {s : State} (hs : Ok k s) (a2) : Ok k (State.cmdCsrWr s a2) := by
  unfold State.cmdCsrWr
  repeat' first
    | with_reducible assumption
    | with_reducible first | apply State.done_ok | apply State.csrOutside_ok | apply State.csrWrite_ok | apply State.raiseLog_ok
    | extract_lets +onlyGivenNames z; first | (clear_value z; rename' z => w) | rename' z => w
    | split

theorem State.cmdMbx_ok {s : State} (hs : Ok k s) (a2) : Ok k (State.cmdMbx s a2) := by
  unfold State.cmdMbx
  repeat' first
    | with_reducible assumption
    | intro _
    | with_reducible first | apply State.done_ok | apply State.mailSel_ok | apply State.mailGo_ok | apply State.setMail_ok
    | extract_lets +onlyGivenNames z; first
      | (refine cut (Q := Ok k z) ?_ ?_; (on_goal 2 => (intro hz; clear_value z; rename' z => w)); unfold z; clear z)
      | (clear_value z; rename' z => w)
      | rename' z => w
    | split

theorem State.readLogs_ok (a1 a2) {s : State} (hs : Ok k s) : Ok k (State.readLogs a1 a2 s).2 := by
  induction a1 generalizing a2 s with
  | zero => exact hs
  | succ n ih =>
    unfold State.readLogs
    split
    · next e => exact ih _ (State.readLog_okE e hs)
    · next e => exact State.readLog_okE e hs

theorem State.cmdLogRd_ok {s : State} (hs : Ok k s) (a2) : Ok k (State.cmdLogRd s a2) := by
  unfold State.cmdLogRd
  repeat' first
    | with_reducible assumption
    | with_reducible first | apply State.readLogs_ok | apply State.done_ok
    | (with_reducible refine State.readLogs_okE (by with_reducible assumption) ?_)
    | extract_lets +onlyGivenNames z; first
      | (refine cut (Q := Ok k z.2) ?_ ?_; (on_goal 2 => (intro hz; clear_value z; rename' z => w)); unfold z; clear z)
      | (clear_value z; rename' z => w)
      | rename' z => w

theorem State.cmdCalGet_ok {s : State} (hs : Ok k s) (a2) : Ok k (State.cmdCalGet s a2) := by
  unfold State.cmdCalGet
  repeat' first
    | with_reducible assumption
    | with_reducible first | apply State.done_ok

theorem State.cmdCalSet_ok {s : State} (hs : Ok k s) (a2) : Ok k (State.cmdCalSet s a2) := by
  unfold State.cmdCalSet
  repeat' first
    | with_reducible assumption
    | intro _
    | with_reducible first | apply State.done_ok | apply State.setCal_ok

theorem State.cmdMode_ok {s : State} (hs : Ok k s) (a2) : Ok k (State.cmdMode s a2) := by
  unfold State.cmdMode
  repeat' first
    | with_reducible assumption
    | with_reducible first | apply State.done_ok | apply State.requestMode_ok
    | split

theorem State.cmdPpr_ok {s : State} (hs : Ok k s) (a2) : Ok k (State.cmdPpr s a2) := by
  unfold State.cmdPpr
  repeat' first
    | with_reducible assumption
    | intro _
    | with_reducible first | apply State.setSes_ok | apply State.emit_ok | apply State.wb_ok
    | extract_lets +onlyGivenNames z; first | (clear_value z; rename' z => w) | rename' z => w

theorem State.cmdFlash_ok {s : State} (hs : Ok k s) (a2 a3) : Ok k (State.cmdFlash s a2 a3) := by
  unfold State.cmdFlash
  repeat' first
    | with_reducible assumption
    | with_reducible first | apply State.deny_ok | apply Ok.coh | apply Ok.mon | apply Ok.flash
    | extract_lets +onlyGivenNames z; first
      | (refine cut (Q := FlashOk k.p z) ?_ ?_; (on_goal 2 => (intro hz; clear_value z; rename' z => w)); unfold z; clear z)
      | (clear_value z; rename' z => w)
      | rename' z => w
    | split
    | with_reducible first | refine Ok.of_mk ?_ rfl rfl rfl rfl rfl ?_ ?_ ?_ | refine FlashOk.of_mk ?_ rfl

theorem State.cmdImgErase_ok {s : State} (hs : Ok k s) (a2) : Ok k (State.cmdImgErase s a2) := by
  unfold State.cmdImgErase
  repeat' first
    | with_reducible assumption
    | with_reducible first | apply State.cmdFlash_ok

theorem State.cmdImgWrite_ok {s : State} (hs : Ok k s) (a2) : Ok k (State.cmdImgWrite s a2) := by
  unfold State.cmdImgWrite
  repeat' first
    | with_reducible assumption
    | with_reducible first | apply State.cmdFlash_ok

theorem State.cmdImgRead_ok {s : State} (hs : Ok k s) (a2) : Ok k (State.cmdImgRead s a2) := by
  unfold State.cmdImgRead
  repeat' first
    | with_reducible assumption
    | with_reducible first | apply State.done_ok | apply Ok.flash
    | extract_lets +onlyGivenNames z; first | (clear_value z; rename' z => w) | rename' z => w

theorem State.cmdImgCheck_ok {s : State} (hs : Ok k s) (a2) : Ok k (State.cmdImgCheck s a2) := by
  unfold State.cmdImgCheck
  repeat' first
    | with_reducible assumption
    | with_reducible first | apply Ok.coh | apply Ok.mon | apply Ok.flash
    | extract_lets +onlyGivenNames z; first
      | (refine cut (Q := FlashOk k.p z) ?_ ?_; (on_goal 2 => (intro hz; clear_value z; rename' z => w)); unfold z; clear z)
      | (clear_value z; rename' z => w)
      | rename' z => w
    | with_reducible first | refine Ok.of_mk ?_ rfl rfl rfl rfl rfl ?_ ?_ ?_ | refine FlashOk.of_mk ?_ rfl

theorem State.cmdReset_ok {s : State} (hs : Ok k s) (a2) : Ok k (State.cmdReset s a2) := by
  unfold State.cmdReset
  repeat' first
    | with_reducible assumption
    | with_reducible first | apply State.done_ok | apply State.bootFrom2_ok

theorem FusesKept.program {f g : Fuses} (h : FusesKept f g) (v : BitVec 256) :
    (g.pkhSet = false → FusesKept f { g with pkhSet := true, pkh := v }) ∧
    (g.rkeySet = false → FusesKept f { g with rkeySet := true, rkey := v }) := by
  constructor
  · intro hg
    exact ⟨h.variant, fun hp => absurd (h.pkh hp).1 (by simp [hg]), h.rkey⟩
  · intro hg
    exact ⟨h.variant, h.pkh, fun hp => absurd (h.rkey hp).1 (by simp [hg])⟩

theorem State.cmdFuse_ok {s : State} (hs : Ok k s) (a2) : Ok k (State.cmdFuse s a2) := by
  unfold State.cmdFuse
  dsimp only
  split
  · split
    · exact State.deny_ok hs _ _
    · next h =>
      refine State.done_ok ?_ _ _
      exact ⟨hs.pending, hs.fine, hs.sent, hs.regs, hs.coh, hs.mon, hs.flash,
        (FusesKept.program hs.fuses _).1 (by simpa using h)⟩
  · split
    · exact State.deny_ok hs _ _
    · next h =>
      refine State.done_ok ?_ _ _
      exact ⟨hs.pending, hs.fine, hs.sent, hs.regs, hs.coh, hs.mon, hs.flash,
        (FusesKept.program hs.fuses _).2 (by simpa using h)⟩

theorem State.cmdClose_ok {s : State} (hs : Ok k s) (a2) : Ok k (State.cmdClose s a2) := by
  unfold State.cmdClose
  repeat' first
    | with_reducible assumption
    | with_reducible first | apply State.done_ok | apply State.closeSession_ok

theorem State.perform_ok {s : State} (hs : Ok k s) (a2) : Ok k (State.perform s a2) := by
  unfold State.perform
  repeat' first
    | with_reducible assumption
    | with_reducible first | apply State.cmdClose_ok | apply State.cmdFuse_ok | apply State.cmdReset_ok | apply State.cmdImgCheck_ok | apply State.cmdImgRead_ok | apply State.cmdImgWrite_ok | apply State.cmdImgErase_ok | apply State.cmdPpr_ok | apply State.cmdMode_ok | apply State.cmdCalSet_ok | apply State.cmdCalGet_ok | apply State.cmdLogRd_ok | apply State.cmdMbx_ok | apply State.cmdCsrWr_ok | apply State.cmdCsrRd_ok | apply State.deny_ok
    | split

theorem State.orphan_ok {s : State} (hs : Ok k s) (a2) : Ok k (State.orphan s a2) := by
  unfold State.orphan
  repeat' first
    | with_reducible assumption
    | with_reducible first | apply State.deliver_ok | apply State.drawn_ok

theorem State.sesCommand_ok {s : State} (hs : Ok k s) (a2) : Ok k (State.sesCommand s a2) := by
  unfold State.sesCommand
  repeat' first
    | with_reducible assumption
    | with_reducible first | apply State.orphan_ok | apply State.perform_ok | apply State.failedAuth_ok | apply State.deny_ok | apply State.deliver_ok | apply State.closeSession_ok
    | extract_lets +onlyGivenNames z; first | (clear_value z; rename' z => w) | rename' z => w
    | split

theorem State.sesFrame_ok {s : State} (hs : Ok k s) (a2) : Ok k (State.sesFrame s a2) := by
  unfold State.sesFrame
  repeat' first
    | with_reducible assumption
    | with_reducible first | apply State.sesCommand_ok | apply State.sesAuth_ok | apply State.sesOpen_ok
    | split

theorem State.pumpSes_ok (a1) {s : State} (hs : Ok k s) : Ok k (State.pumpSes a1 s) := by
  induction a1 generalizing s with
  | zero => exact hs
  | succ n ih =>
    unfold State.pumpSes
    split
    · exact hs
    · split
      · exact hs
      · exact ih (State.sesFrame_ok (State.setSes_ok hs _) _)

theorem State.runSes_ok {s : State} (hs : Ok k s) : Ok k (State.runSes s) := by
  unfold State.runSes
  repeat' first
    | with_reducible assumption
    | with_reducible first | apply State.pumpSes_ok

theorem opSession_ok {s : State} (hs : Ok k s) (a1) : Ok k (opSession a1 s) := by
  unfold opSession
  repeat' first
    | with_reducible assumption
    | intro _
    | with_reducible first | apply State.runSes_ok | apply State.setSes_ok
    | split

theorem opSesGo_ok {s : State} (hs : Ok k s) : Ok k (opSesGo s) := by
  unfold opSesGo
  repeat' first
    | with_reducible assumption
    | with_reducible first | apply State.runSes_ok | apply State.sesSubmit_ok
    | split

theorem opSesOpen_ok {s : State} (hs : Ok k s) (a1 a2 a3) : Ok k (opSesOpen a1 a2 a3 s) := by
  unfold opSesOpen
  repeat' first
    | with_reducible assumption
    | with_reducible first | apply opSession_ok

theorem opSesAuth_ok {s : State} (hs : Ok k s) (a1 a2) : Ok k (opSesAuth a1 a2 s) := by
  unfold opSesAuth
  repeat' first
    | with_reducible assumption
    | with_reducible first | apply opSession_ok

theorem opSesClose_ok {s : State} (hs : Ok k s) (a1) : Ok k (opSesClose a1 s) := by
  unfold opSesClose
  repeat' first
    | with_reducible assumption
    | with_reducible first | apply opSession_ok

theorem opCsrRd_ok {s : State} (hs : Ok k s) (a1 a2 a3) : Ok k (opCsrRd a1 a2 a3 s) := by
  unfold opCsrRd
  repeat' first
    | with_reducible assumption
    | with_reducible first | apply opSession_ok

theorem opCsrWr_ok {s : State} (hs : Ok k s) (a1 a2 a3) : Ok k (opCsrWr a1 a2 a3 s) := by
  unfold opCsrWr
  repeat' first
    | with_reducible assumption
    | with_reducible first | apply opSession_ok

theorem opMbx_ok {s : State} (hs : Ok k s) (a1 a2) (a3 a4 a5) : Ok k (opMbx a1 a2 a3 a4 a5 s) := by
  unfold opMbx
  repeat' first
    | with_reducible assumption
    | with_reducible first | apply opSession_ok

theorem opLogRd_ok {s : State} (hs : Ok k s) (a1 a2) : Ok k (opLogRd a1 a2 s) := by
  unfold opLogRd
  repeat' first
    | with_reducible assumption
    | with_reducible first | apply opSession_ok

theorem opCalGet_ok {s : State} (hs : Ok k s) (a1) : Ok k (opCalGet a1 s) := by
  unfold opCalGet
  repeat' first
    | with_reducible assumption
    | with_reducible first | apply opSession_ok

theorem opCalSet_ok {s : State} (hs : Ok k s) (a1 a2) : Ok k (opCalSet a1 a2 s) := by
  unfold opCalSet
  repeat' first
    | with_reducible assumption
    | with_reducible first | apply opSession_ok

theorem opMode_ok {s : State} (hs : Ok k s) (a1 a2) : Ok k (opMode a1 a2 s) := by
  unfold opMode
  repeat' first
    | with_reducible assumption
    | with_reducible first | apply opSession_ok

theorem opPpr_ok {s : State} (hs : Ok k s) (a1 a2 a3) : Ok k (opPpr a1 a2 a3 s) := by
  unfold opPpr
  repeat' first
    | with_reducible assumption
    | with_reducible first | apply opSession_ok

theorem opImgErase_ok {s : State} (hs : Ok k s) (a1 a2) : Ok k (opImgErase a1 a2 s) := by
  unfold opImgErase
  repeat' first
    | with_reducible assumption
    | with_reducible first | apply opSession_ok

theorem opImgWrite_ok {s : State} (hs : Ok k s) (a1 a2) (a3 a4) : Ok k (opImgWrite a1 a2 a3 a4 s) := by
  unfold opImgWrite
  repeat' first
    | with_reducible assumption
    | with_reducible first | apply opSession_ok

theorem opImgRead_ok {s : State} (hs : Ok k s) (a1 a2) (a3 a4) : Ok k (opImgRead a1 a2 a3 a4 s) := by
  unfold opImgRead
  repeat' first
    | with_reducible assumption
    | with_reducible first | apply opSession_ok

theorem opImgCheck_ok {s : State} (hs : Ok k s) (a1 a2) : Ok k (opImgCheck a1 a2 s) := by
  unfold opImgCheck
  repeat' first
    | with_reducible assumption
    | with_reducible first | apply opSession_ok

theorem opReset_ok {s : State} (hs : Ok k s) (a1) : Ok k (opReset a1 s) := by
  unfold opReset
  repeat' first
    | with_reducible assumption
    | with_reducible first | apply opSession_ok

theorem opFuse_ok {s : State} (hs : Ok k s) (a1 a2 a3) : Ok k (opFuse a1 a2 a3 s) := by
  unfold opFuse
  repeat' first
    | with_reducible assumption
    | with_reducible first | apply opSession_ok

theorem execSesGo_keeps (s) : Keeps (execSesGo s) s := by
  refine Keeps.next fun k hs => ?_
  repeat' first
    | with_reducible assumption
    | with_reducible first | apply opSesGo_ok

theorem execSesOpen_keeps (a1 a2 a3) (s) : Keeps (execSesOpen a1 a2 a3 s) s := by
  refine Keeps.next fun k hs => ?_
  repeat' first
    | with_reducible assumption
    | with_reducible first | apply opSesOpen_ok

theorem execSesAuth_keeps (a1 a2) (s) : Keeps (execSesAuth a1 a2 s) s := by
  refine Keeps.next fun k hs => ?_
  repeat' first
    | with_reducible assumption
    | with_reducible first | apply opSesAuth_ok

theorem execSesClose_keeps (a1) (s) : Keeps (execSesClose a1 s) s := by
  refine Keeps.next fun k hs => ?_
  repeat' first
    | with_reducible assumption
    | with_reducible first | apply opSesClose_ok

theorem execCsrRd_keeps (a1 a2 a3) (s) : Keeps (execCsrRd a1 a2 a3 s) s := by
  refine Keeps.next fun k hs => ?_
  repeat' first
    | with_reducible assumption
    | with_reducible first | apply opCsrRd_ok

theorem execCsrWr_keeps (a1 a2 a3) (s) : Keeps (execCsrWr a1 a2 a3 s) s := by
  refine Keeps.next fun k hs => ?_
  repeat' first
    | with_reducible assumption
    | with_reducible first | apply opCsrWr_ok

theorem execMbx_keeps (a1 a2 a3 a4 a5) (s) : Keeps (execMbx a1 a2 a3 a4 a5 s) s := by
  refine Keeps.next fun k hs => ?_
  repeat' first
    | with_reducible assumption
    | with_reducible first | apply opMbx_ok

theorem execLogRd_keeps (a1 a2) (s) : Keeps (execLogRd a1 a2 s) s := by
  refine Keeps.next fun k hs => ?_
  repeat' first
    | with_reducible assumption
    | with_reducible first | apply opLogRd_ok

theorem execCalGet_keeps (a1) (s) : Keeps (execCalGet a1 s) s := by
  refine Keeps.next fun k hs => ?_
  repeat' first
    | with_reducible assumption
    | with_reducible first | apply opCalGet_ok

theorem execCalSet_keeps (a1 a2) (s) : Keeps (execCalSet a1 a2 s) s := by
  refine Keeps.next fun k hs => ?_
  repeat' first
    | with_reducible assumption
    | with_reducible first | apply opCalSet_ok

theorem execMode_keeps (a1 a2) (s) : Keeps (execMode a1 a2 s) s := by
  refine Keeps.next fun k hs => ?_
  repeat' first
    | with_reducible assumption
    | with_reducible first | apply opMode_ok

theorem execPpr_keeps (a1 a2 a3) (s) : Keeps (execPpr a1 a2 a3 s) s := by
  refine Keeps.next fun k hs => ?_
  repeat' first
    | with_reducible assumption
    | with_reducible first | apply opPpr_ok

theorem execImgErase_keeps (a1 a2) (s) : Keeps (execImgErase a1 a2 s) s := by
  refine Keeps.next fun k hs => ?_
  repeat' first
    | with_reducible assumption
    | with_reducible first | apply opImgErase_ok

theorem execImgWrite_keeps (a1 a2 a3 a4) (s) : Keeps (execImgWrite a1 a2 a3 a4 s) s := by
  refine Keeps.next fun k hs => ?_
  repeat' first
    | with_reducible assumption
    | with_reducible first | apply opImgWrite_ok

theorem execImgRead_keeps (a1 a2 a3 a4) (s) : Keeps (execImgRead a1 a2 a3 a4 s) s := by
  refine Keeps.next fun k hs => ?_
  repeat' first
    | with_reducible assumption
    | with_reducible first | apply opImgRead_ok

theorem execImgCheck_keeps (a1 a2) (s) : Keeps (execImgCheck a1 a2 s) s := by
  refine Keeps.next fun k hs => ?_
  repeat' first
    | with_reducible assumption
    | with_reducible first | apply opImgCheck_ok

theorem execResetCmd_keeps (a1) (s) : Keeps (execResetCmd a1 s) s := by
  refine Keeps.next fun k hs => ?_
  repeat' first
    | with_reducible assumption
    | with_reducible first | apply opReset_ok

theorem execFuse_keeps (a1 a2 a3) (s) : Keeps (execFuse a1 a2 a3 s) s := by
  refine Keeps.next fun k hs => ?_
  repeat' first
    | with_reducible assumption
    | with_reducible first | apply opFuse_ok

theorem Flash.put_ok {f : Flash} (hf : FlashOk p f) (a2 a3) : FlashOk p (Flash.put f a2 a3) :=
  ⟨fun hp => Sparse.set_wf _ _ (hf.wf hp)⟩

theorem Flash.eraseSlot_ok {f : Flash} (hf : FlashOk p f) (a2) : FlashOk p (Flash.eraseSlot f a2) :=
  ⟨fun hp => Sparse.filter_wf _ (hf.wf hp)⟩

theorem Flash.program_ok {f : Flash} (hf : FlashOk p f) (a2 a3) : FlashOk p (Flash.program f a2 a3) := by
  induction a3 generalizing f a2 with
  | nil => exact hf
  | cons b t ih => exact ih (Flash.put_ok hf _ _) _

theorem State.reprov_ok {s : State} {f : Flash} (hs : Ok k s) (hf : FlashOk p f) : Ok k (State.reprov s f) := by
  unfold State.reprov
  repeat' first
    | with_reducible assumption
    | with_reducible first | apply State.raiseBare_ok | apply State.wb_ok | apply Ok.flash
    | split

theorem opFlashDone_ok {s : State} (hs : Ok k s) : Ok k (opFlashDone s) := by
  unfold opFlashDone
  repeat' first
    | with_reducible assumption
    | with_reducible first | apply State.reprov_ok | apply Flash.program_ok | apply Flash.eraseSlot_ok | apply State.runSes_ok | apply State.performed_ok | apply State.count_ok | apply Ok.coh | apply Ok.mon | apply Ok.flash
    | extract_lets +onlyGivenNames z; first
      | (refine cut (Q := Ok k z) ?_ ?_; (on_goal 2 => (intro hz; clear_value z; rename' z => w)); unfold z; clear z)
      | (refine cut (Q := FlashOk k.p z) ?_ ?_; (on_goal 2 => (intro hz; clear_value z; rename' z => w)); unfold z; clear z)
      | (clear_value z; rename' z => w)
      | rename' z => w
    | split
    | with_reducible first | refine Ok.of_mk ?_ rfl rfl rfl rfl rfl ?_ ?_ ?_ | refine FlashOk.of_mk ?_ rfl

theorem execFlashOperationDone_keeps (s) : Keeps (execFlashOperationDone s) s := by
  refine Keeps.next fun k hs => ?_
  repeat' first
    | with_reducible assumption
    | with_reducible first | apply opFlashDone_ok

theorem State.mailReply_ok {s : State} (hs : Ok k s) : Ok k (State.mailReply s) := by
  unfold State.mailReply
  repeat' first
    | with_reducible assumption
    | intro _
    | with_reducible first | apply State.runSes_ok | apply State.performed_ok | apply State.setMail_ok
    | extract_lets +onlyGivenNames z; first | (clear_value z; rename' z => w) | rename' z => w
    | split

theorem opMailDone_ok {s : State} (hs : Ok k s) (a1) : Ok k (opMailDone a1 s) := by
  unfold opMailDone
  repeat' first
    | with_reducible assumption
    | with_reducible first | apply State.mailReply_ok | apply State.mailDone_ok

theorem opMailTimeout_ok {s : State} (hs : Ok k s) (a1) : Ok k (opMailTimeout a1 s) := by
  unfold opMailTimeout
  repeat' first
    | with_reducible assumption
    | with_reducible first | apply State.mailReply_ok | apply State.mailAbandon_ok

theorem execMbxCaptureDone_keeps (a1) (s) : Keeps (execMbxCaptureDone a1 s) s := by
  refine Keeps.next fun k hs => ?_
  repeat' first
    | with_reducible assumption
    | with_reducible first | apply opMailDone_ok

theorem execMbxTimeout_keeps (a1) (s) : Keeps (execMbxTimeout a1 s) s := by
  refine Keeps.next fun k hs => ?_
  repeat' first
    | with_reducible assumption
    | with_reducible first | apply opMailTimeout_ok

theorem opHpprEnd_ok {s : State} (hs : Ok k s) (a1) : Ok k (opHpprEnd a1 s) := by
  unfold opHpprEnd
  repeat' first
    | with_reducible assumption
    | intro _
    | with_reducible first | apply State.runSes_ok | apply State.performed_ok | apply State.setSes_ok | apply opHpprDone_ok
    | extract_lets +onlyGivenNames z; first
      | (refine cut (Q := Ok k z) ?_ ?_; (on_goal 2 => (intro hz; clear_value z; rename' z => w)); unfold z; clear z)
      | (clear_value z; rename' z => w)
      | rename' z => w
    | split

theorem execHpprDone_keeps (a1) (s) : Keeps (execHpprDone a1 s) s := by
  refine Keeps.next fun k hs => ?_
  repeat' first
    | with_reducible assumption
    | with_reducible first | apply opHpprEnd_ok

theorem opLockoutExpiry_ok {s : State} (hs : Ok k s) (a1) : Ok k (opLockoutExpiry a1 s) := by
  unfold opLockoutExpiry
  repeat' first
    | with_reducible assumption
    | intro _
    | with_reducible first | apply State.setSession_ok
    | split

theorem execLockoutExpiry_keeps (a1) (s) : Keeps (execLockoutExpiry a1 s) s := by
  refine Keeps.next fun k hs => ?_
  repeat' first
    | with_reducible assumption
    | with_reducible first | apply opLockoutExpiry_ok

theorem opIdle_ok {s : State} (hs : Ok k s) (a1) : Ok k (opIdle a1 s) := by
  unfold opIdle
  repeat' first
    | with_reducible assumption
    | with_reducible first | apply State.closeSession_ok
    | extract_lets +onlyGivenNames z; first | (clear_value z; rename' z => w) | rename' z => w
    | split

theorem execSessionIdleTimeout_keeps (a1) (s) : Keeps (execSessionIdleTimeout a1 s) s := by
  refine Keeps.next fun k hs => ?_
  repeat' first
    | with_reducible assumption
    | with_reducible first | apply opIdle_ok

theorem opEntdaa_ok {s : State} (hs : Ok k s) (a1) : Ok k (opEntdaa a1 s) := by
  unfold opEntdaa
  repeat' first
    | with_reducible assumption
    | intro _
    | with_reducible first | apply State.setSes_ok
    | split

theorem opEnec_ok {s : State} (hs : Ok k s) : Ok k (opEnec s) := by
  unfold opEnec
  repeat' first
    | with_reducible assumption
    | intro _
    | with_reducible first | apply State.setSes_ok
    | split

theorem execEntdaa_keeps (a1) (s) : Keeps (execEntdaa a1 s) s := by
  refine Keeps.next fun k hs => ?_
  repeat' first
    | with_reducible assumption
    | with_reducible first | apply opEntdaa_ok

theorem execEnec_keeps (s) : Keeps (execEnec s) s := by
  refine Keeps.next fun k hs => ?_
  repeat' first
    | with_reducible assumption
    | with_reducible first | apply opEnec_ok

theorem opCsrWrite_ok {s : State} (hs : Ok k s) (a1 a2) : Ok k (opCsrWrite a1 a2 s) := by
  unfold opCsrWrite
  repeat' first
    | with_reducible assumption
    | with_reducible first | apply State.runSes_ok | apply State.csrOutside_ok | apply State.csrWrite_ok | apply State.raiseLog_ok
    | extract_lets +onlyGivenNames z; first | (clear_value z; rename' z => w) | rename' z => w
    | split

theorem execCsrWrite_keeps (a1 a2) (s) : Keeps (execCsrWrite a1 a2 s) s := by
  refine Keeps.next fun k hs => ?_
  repeat' first
    | with_reducible assumption
    | with_reducible first | apply opCsrWrite_ok

end Sys2Proof.Machine
end

