-- ==== Sys2Proof/Laws/KeepFront.lean ====
section
/-! SUPPORT. What the operations of Machine/Front.lean keep (Laws/Keep.lean says what is kept). -/

set_option linter.all false

namespace Sys2Proof.Machine
open Sys2Proof

variable {p : Prop} {k : Kept}

theorem State.dropFront_ok {s : State} (hs : Ok k s) (a2 a3) : Ok k (State.dropFront s a2 a3) := by
  unfold State.dropFront
  repeat' first
    | with_reducible assumption
    | intro _
    | with_reducible first | apply State.setPort_ok

theorem State.setFront_ok {s : State} (hs : Ok k s) (a2 a3) (a4 : Sys2Proof.Machine.FrontReq → Sys2Proof.Machine.FrontReq) : Ok k (State.setFront s a2 a3 a4) := by
  unfold State.setFront
  repeat' first
    | with_reducible assumption
    | intro _
    | with_reducible first | apply State.setPort_ok
    | with_reducible apply_assumption -exfalso

theorem State.asP2_ok {s : State} (hs : Ok k s) (a2 a3 a4) : Ok k (State.asP2 s a2 a3 a4) := by
  unfold State.asP2
  repeat' first
    | with_reducible assumption
    | intro _
    | with_reducible first | apply State.unpromise_ok | apply State.dropPromises_ok
    | split

theorem State.refuseReq_ok {s : State} (hs : Ok k s) (a2 a3) (a4 a5 a6) : Ok k (State.refuseReq s a2 a3 a4 a5 a6) := by
  unfold State.refuseReq
  repeat' first
    | with_reducible assumption
    | with_reducible first | apply State.asP2_ok | apply State.answer_ok | apply State.pointReached_ok
    | extract_lets +onlyGivenNames z; first
      | (refine cut (Q := Ok k z) ?_ ?_; (on_goal 2 => (intro hz; clear_value z; rename' z => w)); unfold z; clear z)
      | (clear_value z; rename' z => w)
      | rename' z => w
    | split

theorem State.refuse_ok {s : State} (hs : Ok k s) (a2 a3) (a4 a5) : Ok k (State.refuse s a2 a3 a4 a5) := by
  unfold State.refuse
  repeat' first
    | with_reducible assumption
    | with_reducible first | apply State.refuseReq_ok | apply State.dropFront_ok

theorem State.refuseAddr_ok {s : State} (hs : Ok k s) (a2 a3 a4) : Ok k (State.refuseAddr s a2 a3 a4) := by
  unfold State.refuseAddr
  repeat' first
    | with_reducible assumption
    | with_reducible first | apply State.refuse_ok | apply State.addrError_ok

theorem State.trainLater_ok {s : State} (hs : Ok k s) (a2 a3 a4) : Ok k (State.trainLater s a2 a3 a4) := by
  unfold State.trainLater
  repeat' first
    | with_reducible assumption
    | intro _
    | with_reducible first | apply State.setDrill_ok
    | extract_lets +onlyGivenNames z; first | (clear_value z; rename' z => w) | rename' z => w
    | split

theorem State.drainTraining_ok {s : State} (hs : Ok k s) (a1 a2) : Ok k (State.drainTraining a1 a2 s) := by
  induction a2 generalizing s with
  | zero => exact hs
  | succ n ih =>
    unfold State.drainTraining
    split
    · exact hs
    · split
      · exact hs
      · dsimp only
        refine ih ?_
        split
        · exact State.train_ok (State.setDrill_ok hs _ _) _ _
        · exact State.setDrill_ok hs _ _

theorem State.trainKnown_ok {s : State} (hs : Ok k s) (a2 a3 a4) : Ok k (State.trainKnown s a2 a3 a4) := by
  unfold State.trainKnown
  repeat' first
    | with_reducible assumption
    | intro _
    | with_reducible first | apply State.drainTraining_ok | apply State.setDrill_ok
    | extract_lets +onlyGivenNames z; first
      | (refine cut (Q := Ok k z) ?_ ?_; (on_goal 2 => (intro hz; clear_value z; rename' z => w)); unfold z; clear z)
      | (clear_value z; rename' z => w)
      | rename' z => w
    | split

theorem State.enqueue_ok {s : State} (hs : Ok k s) (a2 a3 a4) : Ok k (State.enqueue s a2 a3 a4) := by
  unfold State.enqueue
  repeat' first
    | with_reducible assumption
    | intro _
    | with_reducible first | apply State.trainLater_ok | apply State.setPort_ok | apply Ok.coh | apply Ok.mon | apply Ok.flash
    | extract_lets +onlyGivenNames z; first
      | (refine cut (Q := Ok k z) ?_ ?_; (on_goal 2 => (intro hz; clear_value z; rename' z => w)); unfold z; clear z)
      | (clear_value z; rename' z => w)
      | rename' z => w
    | split
    | with_reducible first | refine Ok.of_mk ?_ rfl rfl rfl rfl rfl ?_ ?_ ?_

theorem State.leave_ok {s : State} (hs : Ok k s) (a2 a3) (a4 a5) : Ok k (State.leave s a2 a3 a4 a5) := by
  unfold State.leave
  repeat' first
    | with_reducible assumption
    | intro _
    | with_reducible first | apply State.dropFront_ok | apply State.setPort_ok | apply Ok.coh | apply Ok.mon | apply Ok.flash
    | extract_lets +onlyGivenNames z; first
      | (refine cut (Q := Ok k z) ?_ ?_; (on_goal 2 => (intro hz; clear_value z; rename' z => w)); unfold z; clear z)
      | (clear_value z; rename' z => w)
      | rename' z => w
    | split
    | with_reducible first | refine Ok.of_mk ?_ rfl rfl rfl rfl rfl ?_ ?_ ?_

theorem State.sendTo_ok {s : State} (hs : Ok k s) (a2 a3) (a4 a5 a6) : Ok k (State.sendTo s a2 a3 a4 a5 a6) := by
  unfold State.sendTo
  repeat' first
    | with_reducible assumption
    | with_reducible first | apply State.servedBy_ok | apply State.cross_ok
    | extract_lets +onlyGivenNames z; first | (clear_value z; rename' z => w) | rename' z => w
    | split

theorem State.remoteDev_ok {s : State} (hs : Ok k s) (a2 a3) (a4 a5) : OptOk (Ok k) (State.remoteDev s a2 a3 a4 a5) := by
  unfold State.remoteDev
  repeat' first
    | with_reducible assumption
    | intro _
    | with_reducible first | apply State.refuseReq_ok | apply State.runCoh_ok | apply State.passDone_ok | apply Coh.request_ok | apply Ok.coh | exact OptOk.none | refine OptOk.some ?_
    | (with_reducible refine Coh.request_okE (by with_reducible assumption) ?_)
    | extract_lets +onlyGivenNames z; first | (clear_value z; rename' z => w) | rename' z => w
    | split
theorem State.remoteDev_okE {t} {s : State}  {a2 a3} {a4 a5} (e : (State.remoteDev s a2 a3 a4 a5) = some t) (hs : Ok k s) : Ok k t := by
  have := State.remoteDev_ok hs a2 a3 a4 a5; rw [e] at this; exact this

theorem State.ownCsr_ok {s : State} (hs : Ok k s) (a2 a3) (a4 a5 a6) : Ok k (State.ownCsr s a2 a3 a4 a5 a6) := by
  unfold State.ownCsr
  repeat' first
    | with_reducible assumption
    | with_reducible first | apply State.sendTo_ok | apply State.runSes_ok | apply State.csrWriteAccess_ok | apply State.csrReadAccess_ok | apply State.answer_ok | apply State.passDone_ok | apply State.pointReached_ok
    | (with_reducible refine State.csrWriteAccess_okE (by with_reducible assumption) ?_)
    | (with_reducible refine State.csrReadAccess_okE (by with_reducible assumption) ?_)
    | extract_lets +onlyGivenNames z; first
      | (refine cut (Q := Ok k z) ?_ ?_; (on_goal 2 => (intro hz; clear_value z; rename' z => w)); unfold z; clear z)
      | (refine cut (Q := Ok k z.2.2) ?_ ?_; (on_goal 2 => (intro hz; clear_value z; rename' z => w)); unfold z; clear z)
      | (refine cut (Q := Ok k z.2) ?_ ?_; (on_goal 2 => (intro hz; clear_value z; rename' z => w)); unfold z; clear z)
      | (clear_value z; rename' z => w)
      | rename' z => w
    | split

theorem State.ownMmio_ok {s : State} (hs : Ok k s) (a2 a3) (a4 a5 a6) : Ok k (State.ownMmio s a2 a3 a4 a5 a6) := by
  unfold State.ownMmio
  repeat' first
    | with_reducible assumption
    | intro _
    | with_reducible first | apply State.sendTo_ok | apply State.refuseReq_ok | apply State.passDone_ok | apply State.addrError_ok | apply State.setPort_ok
    | extract_lets +onlyGivenNames z; first | (clear_value z; rename' z => w) | rename' z => w
    | split

theorem State.toDev_ok {s : State} (hs : Ok k s) (a2 a3) (a4 a5) : OptOk (Ok k) (State.toDev s a2 a3 a4 a5) := by
  unfold State.toDev
  repeat' first
    | with_reducible assumption
    | with_reducible first | apply State.ownMmio_ok | apply State.ownCsr_ok | apply State.remoteDev_ok | exact OptOk.none | refine OptOk.some ?_
    | (with_reducible refine State.remoteDev_okE (by with_reducible assumption) ?_)
    | split
theorem State.toDev_okE {t} {s : State}  {a2 a3} {a4 a5} (e : (State.toDev s a2 a3 a4 a5) = some t) (hs : Ok k s) : Ok k t := by
  have := State.toDev_ok hs a2 a3 a4 a5; rw [e] at this; exact this

theorem State.toPwq_ok {s : State} (hs : Ok k s) (a2 a3) (a4 a5) : Ok k (State.toPwq s a2 a3 a4 a5) := by
  unfold State.toPwq
  repeat' first
    | with_reducible assumption
    | with_reducible first | apply State.pushPwq_ok

theorem State.toMemory_ok {s : State} (hs : Ok k s) (a2 a3) (a4 a5) : Ok k (State.toMemory s a2 a3 a4 a5) := by
  unfold State.toMemory
  repeat' first
    | with_reducible assumption
    | with_reducible first | apply State.toPwq_ok | apply State.sendTo_ok | apply State.leave_ok | apply State.refuseAddr_ok | apply State.refuse_ok | apply State.swath_ok | apply State.arriveReq_ok
    | (with_reducible refine State.swath_okE (by with_reducible assumption) ?_)
    | extract_lets +onlyGivenNames z; first
      | (refine cut (Q := Ok k z.2) ?_ ?_; (on_goal 2 => (intro hz; clear_value z; rename' z => w)); unfold z; clear z)
      | (refine cut (Q := Ok k z) ?_ ?_; (on_goal 2 => (intro hz; clear_value z; rename' z => w)); unfold z; clear z)
      | (clear_value z; rename' z => w)
      | rename' z => w
    | split

theorem State.route_ok {s : State} (hs : Ok k s) (a2 a3) (a4 a5) : OptOk (Ok k) (State.route s a2 a3 a4 a5) := by
  unfold State.route
  repeat' first
    | with_reducible assumption
    | intro _
    | with_reducible first | apply State.toMemory_ok | apply State.toPwq_ok | apply State.toDev_ok | apply State.leave_ok | apply State.refuseAddr_ok | apply State.refuse_ok | exact OptOk.none | refine OptOk.some ?_
    | (with_reducible refine State.toDev_okE (by with_reducible assumption) ?_)
    | extract_lets +onlyGivenNames z; first
      | (refine cut (Q := ∀ x0, OptOk (Ok k) (z x0)) ?_ ?_; (on_goal 2 => (intro hz; clear_value z; rename' z => w)); unfold z; clear z)
      | (refine cut (Q := Ok k z) ?_ ?_; (on_goal 2 => (intro hz; clear_value z; rename' z => w)); unfold z; clear z)
      | (clear_value z; rename' z => w)
      | rename' z => w
    | with_reducible apply_assumption -exfalso
    | split
theorem State.route_okE {t} {s : State}  {a2 a3} {a4 a5} (e : (State.route s a2 a3 a4 a5) = some t) (hs : Ok k s) : Ok k t := by
  have := State.route_ok hs a2 a3 a4 a5; rw [e] at this; exact this

theorem State.faulted_ok {s : State} (hs : Ok k s) (a2 a3) (a4 a5) : Ok k (State.faulted s a2 a3 a4 a5) := by
  unfold State.faulted
  repeat' first
    | with_reducible assumption
    | with_reducible first | apply State.refuseAddr_ok | apply State.refuse_ok | apply State.recordFault_ok
    | extract_lets +onlyGivenNames z; first | (clear_value z; rename' z => w) | rename' z => w
    | split

theorem State.lookupFront_ok {s : State} (hs : Ok k s) (a2 a3 a4) : Ok k (State.lookupFront s a2 a3 a4) := by
  unfold State.lookupFront
  repeat' first
    | with_reducible assumption
    | intro _
    | with_reducible first | apply State.setFront_ok | apply State.translateDemand_ok | apply State.startWalk_ok
    | (with_reducible refine State.translateDemand_okE (by with_reducible assumption) ?_)
    | extract_lets +onlyGivenNames z; first
      | (refine cut (Q := Ok k z.2.2) ?_ ?_; (on_goal 2 => (intro hz; clear_value z; rename' z => w)); unfold z; clear z)
      | (refine cut (Q := Ok k z) ?_ ?_; (on_goal 2 => (intro hz; clear_value z; rename' z => w)); unfold z; clear z)
      | (clear_value z; rename' z => w)
      | rename' z => w
    | split

theorem State.translateFront_ok {s : State} (hs : Ok k s) (a2 a3) : Ok k (State.translateFront s a2 a3) := by
  unfold State.translateFront
  repeat' first
    | with_reducible assumption
    | with_reducible first | apply State.lookupFront_ok
    | split

theorem State.settleFront_ok {s : State} (hs : Ok k s) (a2 a3) : Ok k (State.settleFront s a2 a3) := by
  unfold State.settleFront
  repeat' first
    | with_reducible assumption
    | intro _
    | with_reducible first | apply State.trainKnown_ok | apply State.asP2_ok | apply State.setFront_ok
    | extract_lets +onlyGivenNames z; first
      | (refine cut (Q := Ok k z) ?_ ?_; (on_goal 2 => (intro hz; clear_value z; rename' z => w)); unfold z; clear z)
      | (clear_value z; rename' z => w)
      | rename' z => w
    | split

theorem State.noteFenced_ok {s : State} (hs : Ok k s) (a2 a3) : Ok k (State.noteFenced s a2 a3) := by
  unfold State.noteFenced
  repeat' first
    | with_reducible assumption
    | intro _
    | with_reducible first | apply State.setFront_ok | apply State.count_ok
    | split

theorem State.goOn_ok {s : State} (hs : Ok k s) (a2 a3) : Ok k (State.goOn s a2 a3) := by
  unfold State.goOn
  repeat' first
    | with_reducible assumption
    | with_reducible first | apply State.faulted_ok | apply State.route_ok | refine OptOk.getD (P := Ok k) ?_ ?_
    | (with_reducible refine State.route_okE (by with_reducible assumption) ?_)
    | split

theorem State.frontOne_ok {s : State} (hs : Ok k s) (a1 a3) : Ok k (State.frontOne a1 s a3) := by
  unfold State.frontOne
  repeat' first
    | with_reducible assumption
    | with_reducible first | apply State.goOn_ok | apply State.noteFenced_ok | apply State.settleFront_ok | apply State.translateFront_ok
    | extract_lets +onlyGivenNames z; first
      | (refine cut (Q := Ok k z) ?_ ?_; (on_goal 2 => (intro hz; clear_value z; rename' z => w)); unfold z; clear z)
      | (clear_value z; rename' z => w)
      | rename' z => w
    | split

theorem State.frontPass_ok {s : State} (hs : Ok k s) (a1 a2) : Ok k (State.frontPass a1 a2 s) := by
  induction a2 generalizing s with
  | zero => exact hs
  | succ n ih =>
    have h1 : ∀ l, Ok k (List.foldl (State.frontOne a1) s l) := fun l =>
      foldl_keeps (Q := fun x => Ok k x) hs (fun x a h => State.frontOne_ok h _ _)
    unfold State.frontPass
    dsimp only
    split
    · exact ih (State.walkReads_ok (h1 _) _)
    · exact h1 _

theorem State.frontScan_ok {s : State} (hs : Ok k s) (a1) : Ok k (State.frontScan a1 s) := by
  unfold State.frontScan
  repeat' first
    | with_reducible assumption
    | with_reducible first | apply State.frontPass_ok

theorem State.frontAll_ok {s : State} (hs : Ok k s) : Ok k (State.frontAll s) := by
  unfold State.frontAll
  repeat' first
    | with_reducible assumption
    | intro _
    | with_reducible first | apply State.frontScan_ok | refine foldl_keeps (Q := fun x : State => Ok k x) ?_ ?_

theorem opArrive_ok {s : State} (hs : Ok k s) (a1 a2) : Ok k (opArrive a1 a2 s) := by
  unfold opArrive
  repeat' first
    | with_reducible assumption
    | with_reducible first | apply State.frontScan_ok | apply State.enqueue_ok | apply State.refuseAddr_ok | apply State.takeCredit_ok | apply State.portError_ok | apply State.count_ok | apply State.wb_ok
    | (with_reducible refine State.takeCredit_okE (by with_reducible assumption) ?_)
    | extract_lets +onlyGivenNames z; first
      | (refine cut (Q := Ok k z) ?_ ?_; (on_goal 2 => (intro hz; clear_value z; rename' z => w)); unfold z; clear z)
      | (refine cut (Q := Ok k z.2) ?_ ?_; (on_goal 2 => (intro hz; clear_value z; rename' z => w)); unfold z; clear z)
      | (clear_value z; rename' z => w)
      | rename' z => w
    | split

theorem opRds_ok {s : State} (hs : Ok k s) (a1) : Ok k (opRds a1 s) := by
  unfold opRds
  repeat' first
    | with_reducible assumption
    | with_reducible first | apply opArrive_ok

theorem opRdu_ok {s : State} (hs : Ok k s) (a1) : Ok k (opRdu a1 s) := by
  unfold opRdu
  repeat' first
    | with_reducible assumption
    | with_reducible first | apply opArrive_ok

theorem opUpg_ok {s : State} (hs : Ok k s) (a1) : Ok k (opUpg a1 s) := by
  unfold opUpg
  repeat' first
    | with_reducible assumption
    | with_reducible first | apply opArrive_ok

theorem opRd_ok {s : State} (hs : Ok k s) (a1) : Ok k (opRd a1 s) := by
  unfold opRd
  repeat' first
    | with_reducible assumption
    | with_reducible first | apply opArrive_ok

theorem opRdc_ok {s : State} (hs : Ok k s) (a1 a2) : Ok k (opRdc a1 a2 s) := by
  unfold opRdc
  repeat' first
    | with_reducible assumption
    | with_reducible first | apply opArrive_ok
    | extract_lets +onlyGivenNames z; first | (clear_value z; rename' z => w) | rename' z => w

theorem opWrp_ok {s : State} (hs : Ok k s) (a1 a2) (a3 a4) : Ok k (opWrp a1 a2 a3 a4 s) := by
  unfold opWrp
  repeat' first
    | with_reducible assumption
    | with_reducible first | apply opArrive_ok
    | extract_lets +onlyGivenNames z; first | (clear_value z; rename' z => w) | rename' z => w

theorem opWrn_ok {s : State} (hs : Ok k s) (a1 a2) : Ok k (opWrn a1 a2 s) := by
  unfold opWrn
  repeat' first
    | with_reducible assumption
    | with_reducible first | apply opArrive_ok
    | extract_lets +onlyGivenNames z; first | (clear_value z; rename' z => w) | rename' z => w

theorem opWrb_ok {s : State} (hs : Ok k s) (a1 a2) : Ok k (opWrb a1 a2 s) := by
  unfold opWrb
  repeat' first
    | with_reducible assumption
    | with_reducible first | apply opArrive_ok
    | extract_lets +onlyGivenNames z; first | (clear_value z; rename' z => w) | rename' z => w

theorem opEvc_ok {s : State} (hs : Ok k s) (a1) : Ok k (opEvc a1 s) := by
  unfold opEvc
  repeat' first
    | with_reducible assumption
    | with_reducible first | apply opArrive_ok

theorem opWrh_ok {s : State} (hs : Ok k s) (a1 a2 a3) : Ok k (opWrh a1 a2 a3 s) := by
  unfold opWrh
  repeat' first
    | with_reducible assumption
    | with_reducible first | apply opArrive_ok
    | extract_lets +onlyGivenNames z; first | (clear_value z; rename' z => w) | rename' z => w

theorem opAtm_ok {s : State} (hs : Ok k s) (a1 a2) (a3 a4) (a5 a6) : Ok k (opAtm a1 a2 a3 a4 a5 a6 s) := by
  unfold opAtm
  repeat' first
    | with_reducible assumption
    | with_reducible first | apply opArrive_ok
    | extract_lets +onlyGivenNames z; first | (clear_value z; rename' z => w) | rename' z => w

theorem opMclean_ok {s : State} (hs : Ok k s) (a1) : Ok k (opMclean a1 s) := by
  unfold opMclean
  repeat' first
    | with_reducible assumption
    | with_reducible first | apply opArrive_ok

theorem opMflush_ok {s : State} (hs : Ok k s) (a1) : Ok k (opMflush a1 s) := by
  unfold opMflush
  repeat' first
    | with_reducible assumption
    | with_reducible first | apply opArrive_ok

theorem execRds_keeps (a1) (s) : Keeps (execRds a1 s) s := by
  refine Keeps.next fun k hs => ?_
  repeat' first
    | with_reducible assumption
    | with_reducible first | apply opRds_ok

theorem execRdu_keeps (a1) (s) : Keeps (execRdu a1 s) s := by
  refine Keeps.next fun k hs => ?_
  repeat' first
    | with_reducible assumption
    | with_reducible first | apply opRdu_ok

theorem execUpg_keeps (a1) (s) : Keeps (execUpg a1 s) s := by
  refine Keeps.next fun k hs => ?_
  repeat' first
    | with_reducible assumption
    | with_reducible first | apply opUpg_ok

theorem execRd_keeps (a1) (s) : Keeps (execRd a1 s) s := by
  refine Keeps.next fun k hs => ?_
  repeat' first
    | with_reducible assumption
    | with_reducible first | apply opRd_ok

theorem execRdc_keeps (a1 a2) (s) : Keeps (execRdc a1 a2 s) s := by
  refine Keeps.next fun k hs => ?_
  repeat' first
    | with_reducible assumption
    | with_reducible first | apply opRdc_ok

theorem execWrp_keeps (a1 a2 a3 a4) (s) : Keeps (execWrp a1 a2 a3 a4 s) s := by
  refine Keeps.next fun k hs => ?_
  repeat' first
    | with_reducible assumption
    | with_reducible first | apply opWrp_ok

theorem execWrn_keeps (a1 a2) (s) : Keeps (execWrn a1 a2 s) s := by
  refine Keeps.next fun k hs => ?_
  repeat' first
    | with_reducible assumption
    | with_reducible first | apply opWrn_ok

theorem execWrb_keeps (a1 a2) (s) : Keeps (execWrb a1 a2 s) s := by
  refine Keeps.next fun k hs => ?_
  repeat' first
    | with_reducible assumption
    | with_reducible first | apply opWrb_ok

theorem execEvc_keeps (a1) (s) : Keeps (execEvc a1 s) s := by
  refine Keeps.next fun k hs => ?_
  repeat' first
    | with_reducible assumption
    | with_reducible first | apply opEvc_ok

theorem execWrh_keeps (a1 a2 a3) (s) : Keeps (execWrh a1 a2 a3 s) s := by
  refine Keeps.next fun k hs => ?_
  repeat' first
    | with_reducible assumption
    | with_reducible first | apply opWrh_ok

theorem execAtm_keeps (a1 a2 a3 a4 a5 a6) (s) : Keeps (execAtm a1 a2 a3 a4 a5 a6 s) s := by
  refine Keeps.next fun k hs => ?_
  repeat' first
    | with_reducible assumption
    | with_reducible first | apply opAtm_ok

theorem execMclean_keeps (a1) (s) : Keeps (execMclean a1 s) s := by
  refine Keeps.next fun k hs => ?_
  repeat' first
    | with_reducible assumption
    | with_reducible first | apply opMclean_ok

theorem execMflush_keeps (a1) (s) : Keeps (execMflush a1 s) s := by
  refine Keeps.next fun k hs => ?_
  repeat' first
    | with_reducible assumption
    | with_reducible first | apply opMflush_ok

theorem State.walkGot_ok {s : State} (hs : Ok k s) (a2 a3) (a4 a5) (a6 a7) : Ok k (State.walkGot s a2 a3 a4 a5 a6 a7) := by
  unfold State.walkGot
  repeat' first
    | with_reducible assumption
    | intro _
    | with_reducible first | apply State.endWalk_ok | apply State.setPtu_ok | apply State.consumed_ok
    | extract_lets +onlyGivenNames z; first | (clear_value z; rename' z => w) | rename' z => w
    | split

theorem opWalkRead_ok {s : State} (hs : Ok k s) (a1 a2) : Ok k (opWalkRead a1 a2 s) := by
  unfold opWalkRead
  repeat' first
    | with_reducible assumption
    | with_reducible first | apply State.walkGot_ok | apply State.frontScan_ok
    | split

theorem execWalkDescriptorRead_keeps (a1 a2) (s) : Keeps (execWalkDescriptorRead a1 a2 s) s := by
  refine Keeps.next fun k hs => ?_
  repeat' first
    | with_reducible assumption
    | with_reducible first | apply opWalkRead_ok

theorem State.devRefuse_ok {s : State} (hs : Ok k s) (a2 a3) (a4 a5) : Ok k (State.devRefuse s a2 a3 a4 a5) := by
  unfold State.devRefuse
  repeat' first
    | with_reducible assumption
    | with_reducible first | apply State.devReply_ok | apply State.addrError_ok
    | extract_lets +onlyGivenNames z; first
      | (refine cut (Q := Ok k z) ?_ ?_; (on_goal 2 => (intro hz; clear_value z; rename' z => w)); unfold z; clear z)
      | (clear_value z; rename' z => w)
      | rename' z => w
    | split

theorem State.nodeMmio_ok {s : State} (hs : Ok k s) (a2 a3) (a4 a5) (a6 a7) : Ok k (State.nodeMmio s a2 a3 a4 a5 a6 a7) := by
  unfold State.nodeMmio
  repeat' first
    | with_reducible assumption
    | intro _
    | with_reducible first | apply State.devRefuse_ok | apply State.setPort_ok
    | extract_lets +onlyGivenNames z; first | (clear_value z; rename' z => w) | rename' z => w
    | split

theorem opFdevrd_ok {s : State} (hs : Ok k s) (a1 a2 a3) : Ok k (opFdevrd a1 a2 a3 s) := by
  unfold opFdevrd
  repeat' first
    | with_reducible assumption
    | with_reducible first | apply State.nodeMmio_ok | apply State.devRefuse_ok | apply State.csrReadAccess_ok | apply State.devReply_ok
    | (with_reducible refine State.csrReadAccess_okE (by with_reducible assumption) ?_)
    | extract_lets +onlyGivenNames z; first
      | (refine cut (Q := Ok k z.2.2) ?_ ?_; (on_goal 2 => (intro hz; clear_value z; rename' z => w)); unfold z; clear z)
      | (clear_value z; rename' z => w)
      | rename' z => w
    | split

theorem opFdevwr_ok {s : State} (hs : Ok k s) (a1 a2) (a3 a4) : Ok k (opFdevwr a1 a2 a3 a4 s) := by
  unfold opFdevwr
  repeat' first
    | with_reducible assumption
    | with_reducible first | apply State.nodeMmio_ok | apply State.devRefuse_ok | apply State.runSes_ok | apply State.csrWriteAccess_ok | apply State.devReply_ok
    | (with_reducible refine State.csrWriteAccess_okE (by with_reducible assumption) ?_)
    | extract_lets +onlyGivenNames z; first
      | (refine cut (Q := Ok k z.2) ?_ ?_; (on_goal 2 => (intro hz; clear_value z; rename' z => w)); unfold z; clear z)
      | (clear_value z; rename' z => w)
      | rename' z => w
    | split

theorem execFdevrd_keeps (a1 a2 a3) (s) : Keeps (execFdevrd a1 a2 a3 s) s := by
  refine Keeps.next fun k hs => ?_
  repeat' first
    | with_reducible assumption
    | with_reducible first | apply opFdevrd_ok

theorem execFdevwr_keeps (a1 a2 a3 a4) (s) : Keeps (execFdevwr a1 a2 a3 a4 s) s := by
  refine Keeps.next fun k hs => ?_
  repeat' first
    | with_reducible assumption
    | with_reducible first | apply opFdevwr_ok

theorem State.issuePwq_ok {s : State} (hs : Ok k s) (a2 a3) : OptOk (Ok k) (State.issuePwq s a2 a3) := by
  unfold State.issuePwq
  repeat' first
    | with_reducible assumption
    | intro _
    | with_reducible first | apply State.toDev_ok | apply State.sendTo_ok | apply State.setPwq_ok | apply State.arriveReq_ok | exact OptOk.none | refine OptOk.some ?_
    | (with_reducible refine State.toDev_okE (by with_reducible assumption) ?_)
    | extract_lets +onlyGivenNames z; first
      | (refine cut (Q := Ok k z) ?_ ?_; (on_goal 2 => (intro hz; clear_value z; rename' z => w)); unfold z; clear z)
      | (clear_value z; rename' z => w)
      | rename' z => w
    | split
theorem State.issuePwq_okE {t} {s : State}  {a2 a3} (e : (State.issuePwq s a2 a3) = some t) (hs : Ok k s) : Ok k t := by
  have := State.issuePwq_ok hs a2 a3; rw [e] at this; exact this

theorem opPwqIssue_ok {s : State} (hs : Ok k s) (a1) : Ok k (opPwqIssue a1 s) := by
  unfold opPwqIssue
  cases e : (s.pwq a1).head.findSome? (fun x => if s.mayIssue a1 x then s.issuePwq a1 x else none) with
  | none => exact hs
  | some t =>
    obtain ⟨x, -, hx⟩ := List.exists_of_findSome?_eq_some e
    split at hx
    · exact State.issuePwq_okE hx hs
    · cases hx

theorem opCeiling_ok {s : State} (hs : Ok k s) (a1) : Ok k (opCeiling a1 s) := by
  unfold opCeiling
  repeat' first
    | with_reducible assumption
    | with_reducible first | apply State.frontScan_ok | apply State.ceilingPrefetch_ok | apply State.ceilingAgent_ok | apply State.ceilingWalk_ok
    | split

theorem execCeilingExpiry_keeps (a1) (s) : Keeps (execCeilingExpiry a1 s) s := by
  refine Keeps.next fun k hs => ?_
  repeat' first
    | with_reducible assumption
    | with_reducible first | apply opCeiling_ok

theorem execDrillIssue_keeps (a1) (s) : Keeps (execDrillIssue a1 s) s := by
  refine Keeps.next fun k hs => ?_
  repeat' first
    | with_reducible assumption
    | with_reducible first | apply State.frontScan_ok | apply opDrillIssue_ok

theorem execFenceComplete_keeps (a1 a2) (s) : Keeps (execFenceComplete a1 a2 s) s := by
  refine Keeps.next fun k hs => ?_
  repeat' first
    | with_reducible assumption
    | with_reducible first | apply State.frontScan_ok | apply opFenceDone_ok

theorem execPwqIssue_keeps (a1) (s) : Keeps (execPwqIssue a1 s) s := by
  refine Keeps.next fun k hs => ?_
  repeat' first
    | with_reducible assumption
    | with_reducible first | apply opPwqIssue_ok | apply State.frontScan_ok

theorem execDcmp_keeps (a1 a2 a3) (s) : Keeps (execDcmp a1 a2 a3 s) s := by
  refine Keeps.next fun k hs => ?_
  repeat' first
    | with_reducible assumption
    | with_reducible first | apply State.frontAll_ok | apply opDcmp_ok

theorem execDdata_keeps (a1 a2 a3 a4) (s) : Keeps (execDdata a1 a2 a3 a4 s) s := by
  refine Keeps.next fun k hs => ?_
  repeat' first
    | with_reducible assumption
    | with_reducible first | apply State.frontAll_ok | apply opDdata_ok

theorem execMmioDelivery_keeps (a1) (s) : Keeps (execMmioDelivery a1 s) s := by
  refine Keeps.next fun k hs => ?_
  repeat' first
    | with_reducible assumption
    | with_reducible first | apply State.frontAll_ok | apply opMmioDelivery_ok

theorem execFdata_keeps (a1 a2 a3 a4 a5 a6 a7) (s) : Keeps (execFdata a1 a2 a3 a4 a5 a6 a7 s) s := by
  refine Keeps.next fun k hs => ?_
  repeat' first
    | with_reducible assumption
    | with_reducible first | apply State.frontAll_ok | apply opFdata_ok

theorem execFcmp_keeps (a1 a2 a3 a4 a5) (s) : Keeps (execFcmp a1 a2 a3 a4 a5 s) s := by
  refine Keeps.next fun k hs => ?_
  repeat' first
    | with_reducible assumption
    | with_reducible first | apply State.frontAll_ok | apply opFcmp_ok

theorem execPressDrainDone_keeps (a1) (s) : Keeps (execPressDrainDone a1 s) s := by
  refine Keeps.next fun k hs => ?_
  repeat' first
    | with_reducible assumption
    | with_reducible first | apply State.frontAll_ok | apply opPressDrainDone_ok

end Sys2Proof.Machine
end

