-- ==== Sys2Proof/Laws/KeepFlit.lean ====
section
/-! SUPPORT. What the operations of Machine/Flit.lean keep (Laws/Keep.lean says what is kept). -/

set_option linter.all false

namespace Sys2Proof.Machine
open Sys2Proof

variable {p : Prop} {k : Kept}

theorem State.cmpPay_ok {s : State} (hs : Ok k s) (a2) : Ok k (State.cmpPay s a2).2 := by
  unfold State.cmpPay
  repeat' first
    | with_reducible assumption
    | with_reducible first | apply Ok.coh | apply Ok.mon | apply Ok.flash
    | split
    | with_reducible first | refine Ok.of_mk ?_ rfl rfl rfl rfl rfl ?_ ?_ ?_
theorem State.cmpPay_okE {yl t} {s : State}  {a2} (e : (State.cmpPay s a2) = (yl, t)) (hs : Ok k s) : Ok k t := by
  have := State.cmpPay_ok hs a2; rw [e] at this; exact this

theorem State.payOf_ok {s : State} (hs : Ok k s) (a2 a3) : Ok k (State.payOf s a2 a3).2 := by
  unfold State.payOf
  repeat' first
    | with_reducible assumption
    | with_reducible first | apply State.cmpPay_ok
    | (with_reducible refine State.cmpPay_okE (by with_reducible assumption) ?_)
    | split
theorem State.payOf_okE {yl t} {s : State}  {a2 a3} (e : (State.payOf s a2 a3) = (yl, t)) (hs : Ok k s) : Ok k t := by
  have := State.payOf_ok hs a2 a3; rw [e] at this; exact this

theorem State.badFence_ok {s : State} (hs : Ok k s) (a2 a3) : Ok k (State.badFence s a2 a3) := by
  unfold State.badFence
  repeat' first
    | with_reducible assumption
    | with_reducible first | apply State.answerFence_ok | apply State.takeCredit_ok | apply State.portError_ok | apply State.addrError_ok
    | (with_reducible refine State.takeCredit_okE (by with_reducible assumption) ?_)
    | split

theorem State.agentPacket_ok {s : State} (hs : Ok k s) (a2 a3 a4) : Ok k (State.agentPacket s a2 a3 a4) := by
  unfold State.agentPacket
  repeat' first
    | with_reducible assumption
    | intro _
    | with_reducible first | apply State.badFence_ok | apply opMflush_ok | apply opMclean_ok | apply opAtm_ok | apply opWrh_ok | apply opEvc_ok | apply opWrb_ok | apply opWrn_ok | apply opWrp_ok | apply opRdc_ok | apply opRd_ok | apply opUpg_ok | apply opRdu_ok | apply opRds_ok | apply opFence_ok | apply opDdata_ok | apply opDcmp_ok | apply opSnoopAnswer_ok | apply opAckc_ok | apply State.portError_ok | exact OptOk.none | refine OptOk.some ?_
    | exact OptOk.elim (P := fun x => None) (x := _) (by assumption) (by first | assumption | rfl)
    | extract_lets +onlyGivenNames z; first
      | (refine cut (Q := ∀ x0, Ok k (z x0)) ?_ ?_; (on_goal 2 => (intro hz; clear_value z; rename' z => w)); unfold z; clear z)
      | (clear_value z; rename' z => w)
      | rename' z => w
    | with_reducible apply_assumption -exfalso
    | split

theorem State.fabricPacket_ok {s : State} (hs : Ok k s) (a2 a3) : Ok k (State.fabricPacket s a2 a3) := by
  unfold State.fabricPacket
  repeat' first
    | with_reducible assumption
    | with_reducible first | apply opFdevwr_ok | apply opFdevrd_ok | apply opFcmpack_ok | apply opFdecl_ok | apply opFwback_ok | apply opFfwdmiss_ok | apply opFinvack_ok | apply opFrecallack_ok | apply opFrecalldata_ok | apply opFcmp_ok | apply opFdata_ok | apply opFrecallset_ok | apply opFrecall_ok | apply opFinv_ok | apply opFfwdc_ok | apply opFfwdu_ok | apply opFfwds_ok | apply opFev_ok | apply opFwb_ok | apply opFatm_ok | apply opFwr_ok | apply opFflush_ok | apply opFclean_ok | apply opFrdpf_ok | apply opFrdc_ok | apply opFupg_ok | apply opFrdu_ok | apply opFrds_ok | apply Ok.coh | apply Ok.mon | apply Ok.flash
    | extract_lets +onlyGivenNames z; first | (clear_value z; rename' z => w) | rename' z => w
    | split
    | with_reducible first | refine Ok.of_mk ?_ rfl rfl rfl rfl rfl ?_ ?_ ?_

theorem State.packet_ok {s : State} (hs : Ok k s) (a2 a3 a4) : Ok k (State.packet s a2 a3 a4) := by
  unfold State.packet
  repeat' first
    | with_reducible assumption
    | with_reducible first | apply State.fabricPacket_ok | apply State.agentPacket_ok | apply opStileForward_ok | apply State.returnBuf_ok | apply State.crossStile_ok
    | extract_lets +onlyGivenNames z; first | (clear_value z; rename' z => w) | rename' z => w
    | split

theorem State.ctlReceived_ok {s : State} (hs : Ok k s) (a2 a3) : Ok k (State.ctlReceived s a2 a3) := by
  unfold State.ctlReceived
  repeat' first
    | with_reducible assumption
    | with_reducible first | apply State.drawn_ok | apply opVcc_ok | apply opNak_ok | apply opAck_ok | apply opParam_ok | apply opTimeAnswer_ok | apply opTimeRequest_ok | apply State.count_ok
    | extract_lets +onlyGivenNames z; first
      | (refine cut (Q := Ok k z) ?_ ?_; (on_goal 2 => (intro hz; clear_value z; rename' z => w)); unfold z; clear z)
      | (clear_value z; rename' z => w)
      | rename' z => w
    | split

theorem State.badHeader_ok {s : State} (hs : Ok k s) (a2 a3) : Ok k (State.badHeader s a2 a3) := by
  unfold State.badHeader
  repeat' first
    | with_reducible assumption
    | with_reducible first | apply State.portError_ok | apply State.raiseLog_ok
    | split

theorem State.startTransit_ok {s : State} (hs : Ok k s) (a2 a3 a4) : Ok k (State.startTransit s a2 a3 a4) := by
  unfold State.startTransit
  repeat' first
    | with_reducible assumption
    | intro _
    | with_reducible first | apply State.routeStile_ok | apply State.setLink_ok
    | (with_reducible refine State.routeStile_okE (by with_reducible assumption) ?_)
    | extract_lets +onlyGivenNames z; first
      | (refine cut (Q := Ok k z.2) ?_ ?_; (on_goal 2 => (intro hz; clear_value z; rename' z => w)); unfold z; clear z)
      | (clear_value z; rename' z => w)
      | rename' z => w
    | split

theorem State.headerReceived_ok {s : State} (hs : Ok k s) (a2 a3) : Ok k (State.headerReceived s a2 a3) := by
  unfold State.headerReceived
  repeat' first
    | with_reducible assumption
    | intro _
    | with_reducible first | apply State.startTransit_ok | apply State.badHeader_ok | apply State.packet_ok | apply State.payOf_ok | apply State.setLink_ok
    | (with_reducible refine State.payOf_okE (by with_reducible assumption) ?_)
    | extract_lets +onlyGivenNames z; first
      | (refine cut (Q := Ok k z.2) ?_ ?_; (on_goal 2 => (intro hz; clear_value z; rename' z => w)); unfold z; clear z)
      | (refine cut (Q := Ok k z) ?_ ?_; (on_goal 2 => (intro hz; clear_value z; rename' z => w)); unfold z; clear z)
      | (clear_value z; rename' z => w)
      | rename' z => w
    | split

theorem State.payloadReceived_ok {s : State} (hs : Ok k s) (a2 a3) : Ok k (State.payloadReceived s a2 a3) := by
  unfold State.payloadReceived
  repeat' first
    | with_reducible assumption
    | intro _
    | with_reducible first | apply State.packet_ok | apply State.transitSlot_ok | apply State.setLink_ok
    | extract_lets +onlyGivenNames z; first
      | (refine cut (Q := Ok k z) ?_ ?_; (on_goal 2 => (intro hz; clear_value z; rename' z => w)); unfold z; clear z)
      | (clear_value z; rename' z => w)
      | rename' z => w
    | split

theorem State.slotReceived_ok {s : State} (hs : Ok k s) (a1 a3) : Ok k (State.slotReceived a1 s a3) := by
  unfold State.slotReceived
  repeat' first
    | with_reducible assumption
    | with_reducible first | apply State.payloadReceived_ok | apply State.headerReceived_ok | apply State.ctlReceived_ok
    | split

theorem State.goodFlit_ok {s : State} (hs : Ok k s) (a2) : Ok k (State.goodFlit s a2) := by
  unfold State.goodFlit
  repeat' first
    | with_reducible assumption
    | intro _
    | with_reducible first | apply State.sendAck_ok | apply State.setLink_ok | apply State.count_ok
    | extract_lets +onlyGivenNames z; first
      | (refine cut (Q := Ok k z) ?_ ?_; (on_goal 2 => (intro hz; clear_value z; rename' z => w)); unfold z; clear z)
      | (clear_value z; rename' z => w)
      | rename' z => w
    | split

theorem State.badFlit_ok {s : State} (hs : Ok k s) (a2) : Ok k (State.badFlit s a2) := by
  unfold State.badFlit
  repeat' first
    | with_reducible assumption
    | intro _
    | with_reducible first | apply State.voidExchange_ok | apply State.sendCtl_ok | apply State.setLink_ok | apply State.count_ok
    | split

theorem opFlit_ok {s : State} (hs : Ok k s) (a1 a2 a3) : Ok k (opFlit a1 a2 a3 s) := by
  unfold opFlit
  repeat' first
    | with_reducible assumption
    | intro _
    | with_reducible first | apply State.badFlit_ok | apply State.goodFlit_ok | apply State.slotReceived_ok | apply State.frontAll_ok | refine foldl_keeps (Q := fun x : State => Ok k x) ?_ ?_
    | split

theorem execFlitReceived_keeps (a1 a2 a3) (s) : Keeps (execFlitReceived a1 a2 a3 s) s := by
  refine Keeps.next fun k hs => ?_
  repeat' first
    | with_reducible assumption
    | with_reducible first | apply opFlit_ok

end Sys2Proof.Machine
end

