-- ==== Sys2Proof/Laws/KeepTick.lean ====
section
/-! SUPPORT. What the operations of Machine/Tick.lean keep (Laws/Keep.lean says what is kept). -/

set_option linter.all false

namespace Sys2Proof.Machine
open Sys2Proof

variable {p : Prop} {k : Kept}

theorem State.tick_ok {s : State} (hs : Ok k s) : Ok { k with n := k.n + 1 } (State.tick s) :=
  State.frontAll_ok (State.tickTime_ok hs)

end Sys2Proof.Machine
end

