-- ==== Sys2Proof/Laws/Complete.lean ====
section
/-! SUPPORT. From what every operation keeps to the terms of claims: the frame of a command, and the invariant. -/

namespace Sys2Proof.Machine
open Sys2Proof

/-- What a state itself keeps. -/
theorem Ok.self (s : State) (p : Prop) (h : p → Inv s) : Ok ⟨p, s.pending, s.fine, s.sent, s.fuses⟩ s where
  pending := rfl
  fine := rfl
  sent := List.prefix_refl _
  regs hp := (h hp).2.1
  coh := ⟨fun hp => ⟨(h hp).2.2.1.1, (h hp).2.2.1.2.1, (h hp).2.2.1.2.2.1, (h hp).2.2.1.2.2.2, (h hp).1.1, (h hp).1.2⟩⟩
  mon := ⟨fun hp => ⟨(h hp).2.2.2.1, (h hp).2.2.2.2.1⟩⟩
  flash := ⟨fun hp => (h hp).2.2.2.2.2⟩
  fuses := ⟨rfl, fun h => ⟨h, rfl⟩, fun h => ⟨h, rfl⟩⟩

theorem Ok.inv {k : Kept} {s : State} (h : Ok k s) (hp : k.p) : Inv s :=
  ⟨⟨(h.coh.wf hp).ddr, (h.coh.wf hp).sram⟩, h.regs hp, ⟨(h.coh.wf hp).tags, (h.coh.wf hp).pp, (h.coh.wf hp).snf, (h.coh.wf hp).dir⟩,
    (h.mon.wf hp).1, (h.mon.wf hp).2, h.flash.wf hp⟩

theorem Ok.steady {p : Prop} {s t : State} (h : Ok ⟨p, s.pending, s.fine, s.sent, s.fuses⟩ t) : Steady s t :=
  ⟨h.pending, h.fine, h.sent, h.fuses.variant, h.fuses.pkh, h.fuses.rkey⟩

/-- What a completing command keeps, in the terms of claims. -/
theorem Keeps.completes {o : Host.Outcome State Fault Refusal} {s : State} (h : Keeps o s) :
    Completes o (fun t => Steady s t ∧ (Inv s → Inv t)) := by
  obtain ⟨t, e, k⟩ := h
  exact ⟨t, e, (k _ (Ok.self s False False.elim)).steady, fun hi => (k _ (Ok.self s True fun _ => hi)).inv trivial⟩

/-- A command of which it is known what it keeps, and what state it answers. -/
theorem Keeps.does {c : Instr} {s t : State} {P : State → Prop} (h : Keeps (exec c s) s) (e : exec c s = .next t) (hp : P t) :
    Does c s P := by
  obtain ⟨t', e', k⟩ := h
  rw [e] at e'
  cases e'
  exact ⟨t, e, (k _ (Ok.self s False False.elim)).steady, hp⟩

end Sys2Proof.Machine
end

