-- ==== Sys2Proof/Laws/Quiet.lean ====
section
/-! SUPPORT. What the coherence engine does when it has no work of its own: one request passes, or nothing at all happens. -/

namespace Sys2Proof.Machine
open Sys2Proof

/-- The lists that `Coh.quiet` looks at, one by one. -/
theorem Coh.quiet_lists {c : Coh} (h : c.quiet = true) :
    c.wait = [] ∧ c.txns = [] ∧ c.nodeTx = [] ∧ c.homeTx = [] ∧ c.setRecalls = [] ∧ c.flows = [] ∧ c.snoops = [] ∧
      c.agentWbs = [] ∧ c.outTrks = [] ∧ c.hamperWait = [] ∧ c.snpWait = [] := by
  simp only [Coh.quiet, Bool.and_eq_true, List.isEmpty_iff] at h
  obtain ⟨⟨⟨⟨⟨⟨⟨⟨⟨⟨⟨⟨⟨⟨⟨⟨h1, h2⟩, h3⟩, h4⟩, h5⟩, h6⟩, h7⟩, h8⟩, h9⟩, -⟩, -⟩, -⟩, -⟩, -⟩, -⟩, h10⟩, h11⟩ := h
  exact ⟨h1, h2, h3, h4, h5, h6, h7, h8, h9, h10, h11⟩

/-- A round over engine lists that hold nothing but waiting requests passes those, by rank. -/
theorem Coh.round_waits (c : Coh) (e : State) (h2 : c.txns = []) (h4 : c.homeTx = []) (h5 : c.setRecalls = [])
    (h6 : c.flows = []) (h7 : c.snoops = []) (h8 : c.hamperWait = []) (h9 : c.snpWait = []) (hd : e.deadNodes = []) :
    c.round e = Coh.passAll e c.wait.length c.wait { c with wake := false, wait := [] } := by
  have a : (({ c with wake := false } : Coh).deadNodes e) = { c with wake := false } := by
    unfold Coh.deadNodes; rw [hd]; rfl
  have b : (({ c with wake := false } : Coh).deadAcks e) = { c with wake := false } := by
    unfold Coh.deadAcks; simp [h2, h7]
  have d : (({ c with wake := false } : Coh).deadSnoops e) = { c with wake := false } := by
    unfold Coh.deadSnoops; simp [h7]
  have g : (({ c with wake := false } : Coh).hamperNext e) = { c with wake := false } := by
    unfold Coh.hamperNext; simp [h8]
  have k : (({ c with wake := false } : Coh).snpNext e) = { c with wake := false } := by
    unfold Coh.snpNext; cases c; cases h9; rfl
  have l6 : ({ c with wake := false } : Coh).flows = [] := h6
  have l4 : ({ c with wake := false } : Coh).homeTx = [] := h4
  have l5 : ({ c with wake := false } : Coh).setRecalls = [] := h5
  have l2 : ({ c with wake := false } : Coh).txns = [] := h2
  show _ = Coh.passAll e ({ c with wake := false } : Coh).wait.length ({ c with wake := false } : Coh).wait
    { ({ c with wake := false } : Coh) with wait := [] }
  unfold Coh.round
  generalize ({ c with wake := false } : Coh) = x at *
  simp only [a, b, d, l6, List.foldl_nil, g, k, l4, l5, l2]

/-- A round of an idle engine only goes back to sleep. -/
theorem Coh.round_quiet (c : Coh) (e : State) (h : c.quiet = true) (hd : e.deadNodes = []) :
    c.round e = { c with wake := false } := by
  obtain ⟨h1, h2, h3, h4, h5, h6, h7, h8, h9, h10, h11⟩ := Coh.quiet_lists h
  rw [Coh.round_waits c e h2 h4 h5 h6 h7 h10 h11 hd, h1]
  cases c; cases h1; rfl

theorem Coh.settle_asleep (e : State) (n : Nat) (c : Coh) (h : c.wake = false) : Coh.settle e n c = c := by
  cases n with
  | zero => rfl
  | succ n => rw [Coh.settle, h]; rfl

/-- Settling an idle engine only puts it to sleep. -/
theorem Coh.settle_quiet (e : State) (n : Nat) (c : Coh) (h : c.quiet = true) (hd : e.deadNodes = []) :
    Coh.settle e (n + 1) c = { c with wake := false } := by
  rw [Coh.settle]
  split
  · rw [Coh.round_quiet c e h hd, Coh.settle_asleep _ _ _ rfl]
  · rename_i hw
    cases c; simp at hw; subst hw; rfl

/-- Training of the contention predictor touches nothing else. -/
theorem Coh.predict_eq (c : Coh) (l : LineAddr) : c.predict l = { c with hot := (c.predict l).hot } := by
  unfold Coh.predict; dsimp only; split
  · rfl
  · split
    · rfl
    · split <;> rfl

/-- What an engine holds when a request has arrived and is about to pass. -/
def Coh.arriving (c : Coh) (e : State) (r : Req) : Coh :=
  let c1 := if r.op = ReqOp.atm ∧ e.isHome r.line then c.predict r.line else c
  { c1 with nextOrder := c1.nextOrder + 1, wake := false }

/-- A single waiting request passes. -/
theorem Coh.passAll_one (e : State) (r : Req) (c : Coh) : Coh.passAll e 1 [r] c = c.pass e r := by
  unfold Coh.passAll
  simp only [List.any_cons, List.any_nil, lt_irrefl, decide_false, Bool.and_false, Bool.or_self, Bool.not_false,
    List.filter_cons_of_pos, List.filter_nil, List.foldl_nil, takeFirst, beq_self_eq_true, if_true]
  unfold Coh.passAll
  simp

/-- A request that arrives at an idle engine passes at once, with the engine to itself. -/
theorem Coh.settle_arrive (e : State) (n : Nat) (c : Coh) (r : Req) (h : c.quiet = true) (hd : e.deadNodes = []) :
    Coh.settle e (n + 1) (c.arriveReq e r) = Coh.settle e n ((c.arriving e r).pass e { r with order := c.nextOrder }) := by
  obtain ⟨h1, h2, h3, h4, h5, h6, h7, h8, h9, h10, h11⟩ := Coh.quiet_lists h
  have hp : c.arriveReq e r = { c.arriving e r with wait := [{ r with order := c.nextOrder }], wake := true } := by
    unfold Coh.arriveReq Coh.arriving
    dsimp only
    split
    · rw [Coh.predict_eq]; generalize (c.predict r.line).hot = y; cases c; cases h1; rfl
    · cases c; cases h1; rfl
  have hl : ∀ {x : Coh}, x = c.arriving e r → x.wait = [] ∧ x.txns = [] ∧ x.homeTx = [] ∧ x.setRecalls = [] ∧ x.flows = [] ∧
      x.snoops = [] ∧ x.hamperWait = [] ∧ x.snpWait = [] ∧ x.wake = false := by
    rintro x rfl
    unfold Coh.arriving
    dsimp only
    split
    · rw [Coh.predict_eq]; exact ⟨h1, h2, h4, h5, h6, h7, h10, h11, rfl⟩
    · exact ⟨h1, h2, h4, h5, h6, h7, h10, h11, rfl⟩
  obtain ⟨a1, a2, a3, a4, a5, a6, a7, a8, a9⟩ := hl rfl
  rw [Coh.settle, hp, if_pos rfl, Coh.round_waits _ e (by exact a2) (by exact a3) (by exact a4) (by exact a5) (by exact a6)
    (by exact a7) (by exact a8) hd]
  show Coh.settle e n (Coh.passAll e 1 [_] _) = _
  rw [Coh.passAll_one]
  congr 2
  generalize c.arriving e r = x at *
  cases x
  cases a1
  cases a9
  rfl

/-- The passes that end a run, on an engine with nothing to retire, to time or to report. -/
theorem State.runCoh_of_settle (s : State) (f : Coh → Coh) (c : Coh) (hs : Coh.settle s settleRounds (f s.coh) = c)
    (hr : c.retiring = []) (hh : c.homeTx = []) (hn : c.nodeTx = []) (ht : c.setRecalls = []) (hf : c.fx = []) :
    s.runCoh f = { s with coh := c } := by
  unfold State.runCoh
  have a : c.retirePass s = c := by unfold Coh.retirePass; rw [hr]; rfl
  have b : c.stamp s.fine = c := by
    unfold Coh.stamp; dsimp only; rw [hh, hn, ht]; cases c; cases hh; cases hn; cases ht; rfl
  rw [hs, a, b]
  unfold State.flushFx
  dsimp only
  rw [hf]
  cases c; cases hf; rfl

/-- A change of the engine that leaves it idle happens, and nothing else does. -/
theorem State.runCoh_quiet (s : State) (f : Coh → Coh) (h : (f s.coh).quiet = true) (hr : (f s.coh).retiring = [])
    (hf : (f s.coh).fx = []) (hd : s.deadNodes = []) : s.runCoh f = { s with coh := { f s.coh with wake := false } } := by
  obtain ⟨h1, h2, h3, h4, h5, h6, h7, h8, h9, h10, h11⟩ := Coh.quiet_lists h
  exact State.runCoh_of_settle s f _ (Coh.settle_quiet s _ _ h hd) hr h4 h3 h5 hf

end Sys2Proof.Machine
end

