-- ==== Sys2Proof/Laws/State.lean ====
section
/-! SUPPORT. One lemma per field per update of the state: what each named update sets, and what it leaves alone. -/

namespace Sys2Proof.Machine
open Sys2Proof

@[simp] theorem State.wr_pending (s : State) (o : Nat) (v : Word) : (s.wr o v).pending = s.pending := rfl
@[simp] theorem State.wr_fuses (s : State) (o : Nat) (v : Word) : (s.wr o v).fuses = s.fuses := rfl
@[simp] theorem State.wr_regs (s : State) (o : Nat) (v : Word) : (s.wr o v).regs = Sparse.set regReset s.regs o v := rfl
@[simp] theorem State.wr_img (s : State) (o : Nat) (v : Word) : (s.wr o v).img = s.img := rfl
@[simp] theorem State.wr_boot (s : State) (o : Nat) (v : Word) : (s.wr o v).boot = s.boot := rfl
@[simp] theorem State.wr_flash (s : State) (o : Nat) (v : Word) : (s.wr o v).flash = s.flash := rfl
@[simp] theorem State.wr_mon (s : State) (o : Nat) (v : Word) : (s.wr o v).mon = s.mon := rfl
@[simp] theorem State.wr_mbx (s : State) (o : Nat) (v : Word) : (s.wr o v).mbx = s.mbx := rfl
@[simp] theorem State.wr_fine (s : State) (o : Nat) (v : Word) : (s.wr o v).fine = s.fine := rfl
@[simp] theorem State.wr_prm (s : State) (o : Nat) (v : Word) : (s.wr o v).prm = s.prm := rfl
@[simp] theorem State.wr_ports (s : State) (o : Nat) (v : Word) : (s.wr o v).ports = s.ports := rfl
@[simp] theorem State.wr_links (s : State) (o : Nat) (v : Word) : (s.wr o v).links = s.links := rfl
@[simp] theorem State.wr_hdl (s : State) (o : Nat) (v : Word) : (s.wr o v).hdl = s.hdl := rfl
@[simp] theorem State.wr_coh (s : State) (o : Nat) (v : Word) : (s.wr o v).coh = s.coh := rfl
@[simp] theorem State.wr_mnt (s : State) (o : Nat) (v : Word) : (s.wr o v).mnt = s.mnt := rfl
@[simp] theorem State.wr_drains (s : State) (o : Nat) (v : Word) : (s.wr o v).drains = s.drains := rfl
@[simp] theorem State.wr_dar (s : State) (o : Nat) (v : Word) : (s.wr o v).dar = s.dar := rfl
@[simp] theorem State.wr_accU (s : State) (o : Nat) (v : Word) : (s.wr o v).accU = s.accU := rfl
@[simp] theorem State.wr_accV (s : State) (o : Nat) (v : Word) : (s.wr o v).accV = s.accV := rfl
@[simp] theorem State.wr_accAt (s : State) (o : Nat) (v : Word) : (s.wr o v).accAt = s.accAt := rfl
@[simp] theorem State.wr_decayAt (s : State) (o : Nat) (v : Word) : (s.wr o v).decayAt = s.decayAt := rfl
@[simp] theorem State.wr_deadNodes (s : State) (o : Nat) (v : Word) : (s.wr o v).deadNodes = s.deadNodes := rfl
@[simp] theorem State.wr_deadWalks (s : State) (o : Nat) (v : Word) : (s.wr o v).deadWalks = s.deadWalks := rfl
@[simp] theorem State.wr_ses (s : State) (o : Nat) (v : Word) : (s.wr o v).ses = s.ses := rfl
@[simp] theorem State.wr_cal (s : State) (o : Nat) (v : Word) : (s.wr o v).cal = s.cal := rfl
@[simp] theorem State.wr_fab (s : State) (o : Nat) (v : Word) : (s.wr o v).fab = s.fab := rfl
@[simp] theorem State.wr_pwr (s : State) (o : Nat) (v : Word) : (s.wr o v).pwr = s.pwr := rfl
@[simp] theorem State.wr_sent (s : State) (o : Nat) (v : Word) : (s.wr o v).sent = s.sent := rfl
@[simp] theorem State.wr_freeCtr (s : State) (o : Nat) (v : Word) : (s.wr o v).freeCtr = s.freeCtr := rfl

@[simp] theorem State.report_pending (s : State) (o : List Occ) : (s.report o).pending = s.pending := rfl
@[simp] theorem State.report_fuses (s : State) (o : List Occ) : (s.report o).fuses = s.fuses := rfl
@[simp] theorem State.report_regs (s : State) (o : List Occ) : (s.report o).regs = s.regs := rfl
@[simp] theorem State.report_img (s : State) (o : List Occ) : (s.report o).img = s.img := rfl
@[simp] theorem State.report_boot (s : State) (o : List Occ) : (s.report o).boot = s.boot := rfl
@[simp] theorem State.report_flash (s : State) (o : List Occ) : (s.report o).flash = s.flash := rfl
@[simp] theorem State.report_mon (s : State) (o : List Occ) : (s.report o).mon = Monitor.run s.monEnv (64 * o.length + 64) o s.mon := rfl
@[simp] theorem State.report_mbx (s : State) (o : List Occ) : (s.report o).mbx = s.mbx := rfl
@[simp] theorem State.report_fine (s : State) (o : List Occ) : (s.report o).fine = s.fine := rfl
@[simp] theorem State.report_prm (s : State) (o : List Occ) : (s.report o).prm = s.prm := rfl
@[simp] theorem State.report_ports (s : State) (o : List Occ) : (s.report o).ports = s.ports := rfl
@[simp] theorem State.report_links (s : State) (o : List Occ) : (s.report o).links = s.links := rfl
@[simp] theorem State.report_hdl (s : State) (o : List Occ) : (s.report o).hdl = s.hdl := rfl
@[simp] theorem State.report_coh (s : State) (o : List Occ) : (s.report o).coh = s.coh := rfl
@[simp] theorem State.report_mnt (s : State) (o : List Occ) : (s.report o).mnt = s.mnt := rfl
@[simp] theorem State.report_drains (s : State) (o : List Occ) : (s.report o).drains = s.drains := rfl
@[simp] theorem State.report_dar (s : State) (o : List Occ) : (s.report o).dar = s.dar := rfl
@[simp] theorem State.report_accU (s : State) (o : List Occ) : (s.report o).accU = s.accU := rfl
@[simp] theorem State.report_accV (s : State) (o : List Occ) : (s.report o).accV = s.accV := rfl
@[simp] theorem State.report_accAt (s : State) (o : List Occ) : (s.report o).accAt = s.accAt := rfl
@[simp] theorem State.report_decayAt (s : State) (o : List Occ) : (s.report o).decayAt = s.decayAt := rfl
@[simp] theorem State.report_deadNodes (s : State) (o : List Occ) : (s.report o).deadNodes = s.deadNodes := rfl
@[simp] theorem State.report_deadWalks (s : State) (o : List Occ) : (s.report o).deadWalks = s.deadWalks := rfl
@[simp] theorem State.report_ses (s : State) (o : List Occ) : (s.report o).ses = s.ses := rfl
@[simp] theorem State.report_cal (s : State) (o : List Occ) : (s.report o).cal = s.cal := rfl
@[simp] theorem State.report_fab (s : State) (o : List Occ) : (s.report o).fab = s.fab := rfl
@[simp] theorem State.report_pwr (s : State) (o : List Occ) : (s.report o).pwr = s.pwr := rfl
@[simp] theorem State.report_sent (s : State) (o : List Occ) : (s.report o).sent = s.sent := rfl
@[simp] theorem State.report_freeCtr (s : State) (o : List Occ) : (s.report o).freeCtr = s.freeCtr := rfl

@[simp] theorem State.emit_pending (s : State) (m : Sent) : (s.emit m).pending = s.pending := rfl
@[simp] theorem State.emit_fuses (s : State) (m : Sent) : (s.emit m).fuses = s.fuses := rfl
@[simp] theorem State.emit_regs (s : State) (m : Sent) : (s.emit m).regs = s.regs := rfl
@[simp] theorem State.emit_img (s : State) (m : Sent) : (s.emit m).img = s.img := rfl
@[simp] theorem State.emit_boot (s : State) (m : Sent) : (s.emit m).boot = s.boot := rfl
@[simp] theorem State.emit_flash (s : State) (m : Sent) : (s.emit m).flash = s.flash := rfl
@[simp] theorem State.emit_mon (s : State) (m : Sent) : (s.emit m).mon = s.mon := rfl
@[simp] theorem State.emit_mbx (s : State) (m : Sent) : (s.emit m).mbx = s.mbx := rfl
@[simp] theorem State.emit_fine (s : State) (m : Sent) : (s.emit m).fine = s.fine := rfl
@[simp] theorem State.emit_prm (s : State) (m : Sent) : (s.emit m).prm = s.prm := rfl
@[simp] theorem State.emit_ports (s : State) (m : Sent) : (s.emit m).ports = s.ports := rfl
@[simp] theorem State.emit_links (s : State) (m : Sent) : (s.emit m).links = s.links := rfl
@[simp] theorem State.emit_hdl (s : State) (m : Sent) : (s.emit m).hdl = s.hdl := rfl
@[simp] theorem State.emit_coh (s : State) (m : Sent) : (s.emit m).coh = s.coh := rfl
@[simp] theorem State.emit_mnt (s : State) (m : Sent) : (s.emit m).mnt = s.mnt := rfl
@[simp] theorem State.emit_drains (s : State) (m : Sent) : (s.emit m).drains = s.drains := rfl
@[simp] theorem State.emit_dar (s : State) (m : Sent) : (s.emit m).dar = s.dar := rfl
@[simp] theorem State.emit_accU (s : State) (m : Sent) : (s.emit m).accU = s.accU := rfl
@[simp] theorem State.emit_accV (s : State) (m : Sent) : (s.emit m).accV = s.accV := rfl
@[simp] theorem State.emit_accAt (s : State) (m : Sent) : (s.emit m).accAt = s.accAt := rfl
@[simp] theorem State.emit_decayAt (s : State) (m : Sent) : (s.emit m).decayAt = s.decayAt := rfl
@[simp] theorem State.emit_deadNodes (s : State) (m : Sent) : (s.emit m).deadNodes = s.deadNodes := rfl
@[simp] theorem State.emit_deadWalks (s : State) (m : Sent) : (s.emit m).deadWalks = s.deadWalks := rfl
@[simp] theorem State.emit_ses (s : State) (m : Sent) : (s.emit m).ses = s.ses := rfl
@[simp] theorem State.emit_cal (s : State) (m : Sent) : (s.emit m).cal = s.cal := rfl
@[simp] theorem State.emit_fab (s : State) (m : Sent) : (s.emit m).fab = s.fab := rfl
@[simp] theorem State.emit_pwr (s : State) (m : Sent) : (s.emit m).pwr = s.pwr := rfl
@[simp] theorem State.emit_sent (s : State) (m : Sent) : (s.emit m).sent = s.sent ++ [m] := rfl
@[simp] theorem State.emit_freeCtr (s : State) (m : Sent) : (s.emit m).freeCtr = s.freeCtr := rfl

@[simp] theorem State.setPort_pending (s : State) (p : Port) (f : PortSt → PortSt) : (s.setPort p f).pending = s.pending := rfl
@[simp] theorem State.setPort_fuses (s : State) (p : Port) (f : PortSt → PortSt) : (s.setPort p f).fuses = s.fuses := rfl
@[simp] theorem State.setPort_regs (s : State) (p : Port) (f : PortSt → PortSt) : (s.setPort p f).regs = s.regs := rfl
@[simp] theorem State.setPort_img (s : State) (p : Port) (f : PortSt → PortSt) : (s.setPort p f).img = s.img := rfl
@[simp] theorem State.setPort_boot (s : State) (p : Port) (f : PortSt → PortSt) : (s.setPort p f).boot = s.boot := rfl
@[simp] theorem State.setPort_flash (s : State) (p : Port) (f : PortSt → PortSt) : (s.setPort p f).flash = s.flash := rfl
@[simp] theorem State.setPort_mon (s : State) (p : Port) (f : PortSt → PortSt) : (s.setPort p f).mon = s.mon := rfl
@[simp] theorem State.setPort_mbx (s : State) (p : Port) (f : PortSt → PortSt) : (s.setPort p f).mbx = s.mbx := rfl
@[simp] theorem State.setPort_fine (s : State) (p : Port) (f : PortSt → PortSt) : (s.setPort p f).fine = s.fine := rfl
@[simp] theorem State.setPort_prm (s : State) (p : Port) (f : PortSt → PortSt) : (s.setPort p f).prm = s.prm := rfl
@[simp] theorem State.setPort_ports (s : State) (p : Port) (f : PortSt → PortSt) : (s.setPort p f).ports = vmod s.ports p f := rfl
@[simp] theorem State.setPort_links (s : State) (p : Port) (f : PortSt → PortSt) : (s.setPort p f).links = s.links := rfl
@[simp] theorem State.setPort_hdl (s : State) (p : Port) (f : PortSt → PortSt) : (s.setPort p f).hdl = s.hdl := rfl
@[simp] theorem State.setPort_coh (s : State) (p : Port) (f : PortSt → PortSt) : (s.setPort p f).coh = s.coh := rfl
@[simp] theorem State.setPort_mnt (s : State) (p : Port) (f : PortSt → PortSt) : (s.setPort p f).mnt = s.mnt := rfl
@[simp] theorem State.setPort_drains (s : State) (p : Port) (f : PortSt → PortSt) : (s.setPort p f).drains = s.drains := rfl
@[simp] theorem State.setPort_dar (s : State) (p : Port) (f : PortSt → PortSt) : (s.setPort p f).dar = s.dar := rfl
@[simp] theorem State.setPort_accU (s : State) (p : Port) (f : PortSt → PortSt) : (s.setPort p f).accU = s.accU := rfl
@[simp] theorem State.setPort_accV (s : State) (p : Port) (f : PortSt → PortSt) : (s.setPort p f).accV = s.accV := rfl
@[simp] theorem State.setPort_accAt (s : State) (p : Port) (f : PortSt → PortSt) : (s.setPort p f).accAt = s.accAt := rfl
@[simp] theorem State.setPort_decayAt (s : State) (p : Port) (f : PortSt → PortSt) : (s.setPort p f).decayAt = s.decayAt := rfl
@[simp] theorem State.setPort_deadNodes (s : State) (p : Port) (f : PortSt → PortSt) : (s.setPort p f).deadNodes = s.deadNodes := rfl
@[simp] theorem State.setPort_deadWalks (s : State) (p : Port) (f : PortSt → PortSt) : (s.setPort p f).deadWalks = s.deadWalks := rfl
@[simp] theorem State.setPort_ses (s : State) (p : Port) (f : PortSt → PortSt) : (s.setPort p f).ses = s.ses := rfl
@[simp] theorem State.setPort_cal (s : State) (p : Port) (f : PortSt → PortSt) : (s.setPort p f).cal = s.cal := rfl
@[simp] theorem State.setPort_fab (s : State) (p : Port) (f : PortSt → PortSt) : (s.setPort p f).fab = s.fab := rfl
@[simp] theorem State.setPort_pwr (s : State) (p : Port) (f : PortSt → PortSt) : (s.setPort p f).pwr = s.pwr := rfl
@[simp] theorem State.setPort_sent (s : State) (p : Port) (f : PortSt → PortSt) : (s.setPort p f).sent = s.sent := rfl
@[simp] theorem State.setPort_freeCtr (s : State) (p : Port) (f : PortSt → PortSt) : (s.setPort p f).freeCtr = s.freeCtr := rfl

@[simp] theorem State.setStile_pending (s : State) (l : LinkNo) (f : StileSt → StileSt) : (s.setStile l f).pending = s.pending := rfl
@[simp] theorem State.setStile_fuses (s : State) (l : LinkNo) (f : StileSt → StileSt) : (s.setStile l f).fuses = s.fuses := rfl
@[simp] theorem State.setStile_regs (s : State) (l : LinkNo) (f : StileSt → StileSt) : (s.setStile l f).regs = s.regs := rfl
@[simp] theorem State.setStile_img (s : State) (l : LinkNo) (f : StileSt → StileSt) : (s.setStile l f).img = s.img := rfl
@[simp] theorem State.setStile_boot (s : State) (l : LinkNo) (f : StileSt → StileSt) : (s.setStile l f).boot = s.boot := rfl
@[simp] theorem State.setStile_flash (s : State) (l : LinkNo) (f : StileSt → StileSt) : (s.setStile l f).flash = s.flash := rfl
@[simp] theorem State.setStile_mon (s : State) (l : LinkNo) (f : StileSt → StileSt) : (s.setStile l f).mon = s.mon := rfl
@[simp] theorem State.setStile_mbx (s : State) (l : LinkNo) (f : StileSt → StileSt) : (s.setStile l f).mbx = s.mbx := rfl
@[simp] theorem State.setStile_fine (s : State) (l : LinkNo) (f : StileSt → StileSt) : (s.setStile l f).fine = s.fine := rfl
@[simp] theorem State.setStile_prm (s : State) (l : LinkNo) (f : StileSt → StileSt) : (s.setStile l f).prm = s.prm := rfl
@[simp] theorem State.setStile_ports (s : State) (l : LinkNo) (f : StileSt → StileSt) : (s.setStile l f).ports = s.ports := rfl
@[simp] theorem State.setStile_links (s : State) (l : LinkNo) (f : StileSt → StileSt) : (s.setStile l f).links = vmod s.links l f := rfl
@[simp] theorem State.setStile_hdl (s : State) (l : LinkNo) (f : StileSt → StileSt) : (s.setStile l f).hdl = s.hdl := rfl
@[simp] theorem State.setStile_coh (s : State) (l : LinkNo) (f : StileSt → StileSt) : (s.setStile l f).coh = s.coh := rfl
@[simp] theorem State.setStile_mnt (s : State) (l : LinkNo) (f : StileSt → StileSt) : (s.setStile l f).mnt = s.mnt := rfl
@[simp] theorem State.setStile_drains (s : State) (l : LinkNo) (f : StileSt → StileSt) : (s.setStile l f).drains = s.drains := rfl
@[simp] theorem State.setStile_dar (s : State) (l : LinkNo) (f : StileSt → StileSt) : (s.setStile l f).dar = s.dar := rfl
@[simp] theorem State.setStile_accU (s : State) (l : LinkNo) (f : StileSt → StileSt) : (s.setStile l f).accU = s.accU := rfl
@[simp] theorem State.setStile_accV (s : State) (l : LinkNo) (f : StileSt → StileSt) : (s.setStile l f).accV = s.accV := rfl
@[simp] theorem State.setStile_accAt (s : State) (l : LinkNo) (f : StileSt → StileSt) : (s.setStile l f).accAt = s.accAt := rfl
@[simp] theorem State.setStile_decayAt (s : State) (l : LinkNo) (f : StileSt → StileSt) : (s.setStile l f).decayAt = s.decayAt := rfl
@[simp] theorem State.setStile_deadNodes (s : State) (l : LinkNo) (f : StileSt → StileSt) : (s.setStile l f).deadNodes = s.deadNodes := rfl
@[simp] theorem State.setStile_deadWalks (s : State) (l : LinkNo) (f : StileSt → StileSt) : (s.setStile l f).deadWalks = s.deadWalks := rfl
@[simp] theorem State.setStile_ses (s : State) (l : LinkNo) (f : StileSt → StileSt) : (s.setStile l f).ses = s.ses := rfl
@[simp] theorem State.setStile_cal (s : State) (l : LinkNo) (f : StileSt → StileSt) : (s.setStile l f).cal = s.cal := rfl
@[simp] theorem State.setStile_fab (s : State) (l : LinkNo) (f : StileSt → StileSt) : (s.setStile l f).fab = s.fab := rfl
@[simp] theorem State.setStile_pwr (s : State) (l : LinkNo) (f : StileSt → StileSt) : (s.setStile l f).pwr = s.pwr := rfl
@[simp] theorem State.setStile_sent (s : State) (l : LinkNo) (f : StileSt → StileSt) : (s.setStile l f).sent = s.sent := rfl
@[simp] theorem State.setStile_freeCtr (s : State) (l : LinkNo) (f : StileSt → StileSt) : (s.setStile l f).freeCtr = s.freeCtr := rfl

@[simp] theorem State.setBoot_pending (s : State) (f : Boot → Boot) : (s.setBoot f).pending = s.pending := rfl
@[simp] theorem State.setBoot_fuses (s : State) (f : Boot → Boot) : (s.setBoot f).fuses = s.fuses := rfl
@[simp] theorem State.setBoot_regs (s : State) (f : Boot → Boot) : (s.setBoot f).regs = s.regs := rfl
@[simp] theorem State.setBoot_img (s : State) (f : Boot → Boot) : (s.setBoot f).img = s.img := rfl
@[simp] theorem State.setBoot_boot (s : State) (f : Boot → Boot) : (s.setBoot f).boot = f s.boot := rfl
@[simp] theorem State.setBoot_flash (s : State) (f : Boot → Boot) : (s.setBoot f).flash = s.flash := rfl
@[simp] theorem State.setBoot_mon (s : State) (f : Boot → Boot) : (s.setBoot f).mon = s.mon := rfl
@[simp] theorem State.setBoot_mbx (s : State) (f : Boot → Boot) : (s.setBoot f).mbx = s.mbx := rfl
@[simp] theorem State.setBoot_fine (s : State) (f : Boot → Boot) : (s.setBoot f).fine = s.fine := rfl
@[simp] theorem State.setBoot_prm (s : State) (f : Boot → Boot) : (s.setBoot f).prm = s.prm := rfl
@[simp] theorem State.setBoot_ports (s : State) (f : Boot → Boot) : (s.setBoot f).ports = s.ports := rfl
@[simp] theorem State.setBoot_links (s : State) (f : Boot → Boot) : (s.setBoot f).links = s.links := rfl
@[simp] theorem State.setBoot_hdl (s : State) (f : Boot → Boot) : (s.setBoot f).hdl = s.hdl := rfl
@[simp] theorem State.setBoot_coh (s : State) (f : Boot → Boot) : (s.setBoot f).coh = s.coh := rfl
@[simp] theorem State.setBoot_mnt (s : State) (f : Boot → Boot) : (s.setBoot f).mnt = s.mnt := rfl
@[simp] theorem State.setBoot_drains (s : State) (f : Boot → Boot) : (s.setBoot f).drains = s.drains := rfl
@[simp] theorem State.setBoot_dar (s : State) (f : Boot → Boot) : (s.setBoot f).dar = s.dar := rfl
@[simp] theorem State.setBoot_accU (s : State) (f : Boot → Boot) : (s.setBoot f).accU = s.accU := rfl
@[simp] theorem State.setBoot_accV (s : State) (f : Boot → Boot) : (s.setBoot f).accV = s.accV := rfl
@[simp] theorem State.setBoot_accAt (s : State) (f : Boot → Boot) : (s.setBoot f).accAt = s.accAt := rfl
@[simp] theorem State.setBoot_decayAt (s : State) (f : Boot → Boot) : (s.setBoot f).decayAt = s.decayAt := rfl
@[simp] theorem State.setBoot_deadNodes (s : State) (f : Boot → Boot) : (s.setBoot f).deadNodes = s.deadNodes := rfl
@[simp] theorem State.setBoot_deadWalks (s : State) (f : Boot → Boot) : (s.setBoot f).deadWalks = s.deadWalks := rfl
@[simp] theorem State.setBoot_ses (s : State) (f : Boot → Boot) : (s.setBoot f).ses = s.ses := rfl
@[simp] theorem State.setBoot_cal (s : State) (f : Boot → Boot) : (s.setBoot f).cal = s.cal := rfl
@[simp] theorem State.setBoot_fab (s : State) (f : Boot → Boot) : (s.setBoot f).fab = s.fab := rfl
@[simp] theorem State.setBoot_pwr (s : State) (f : Boot → Boot) : (s.setBoot f).pwr = s.pwr := rfl
@[simp] theorem State.setBoot_sent (s : State) (f : Boot → Boot) : (s.setBoot f).sent = s.sent := rfl
@[simp] theorem State.setBoot_freeCtr (s : State) (f : Boot → Boot) : (s.setBoot f).freeCtr = s.freeCtr := rfl

@[simp] theorem State.setPwr_pending (s : State) (f : Power → Power) : (s.setPwr f).pending = s.pending := rfl
@[simp] theorem State.setPwr_fuses (s : State) (f : Power → Power) : (s.setPwr f).fuses = s.fuses := rfl
@[simp] theorem State.setPwr_regs (s : State) (f : Power → Power) : (s.setPwr f).regs = s.regs := rfl
@[simp] theorem State.setPwr_img (s : State) (f : Power → Power) : (s.setPwr f).img = s.img := rfl
@[simp] theorem State.setPwr_boot (s : State) (f : Power → Power) : (s.setPwr f).boot = s.boot := rfl
@[simp] theorem State.setPwr_flash (s : State) (f : Power → Power) : (s.setPwr f).flash = s.flash := rfl
@[simp] theorem State.setPwr_mon (s : State) (f : Power → Power) : (s.setPwr f).mon = s.mon := rfl
@[simp] theorem State.setPwr_mbx (s : State) (f : Power → Power) : (s.setPwr f).mbx = s.mbx := rfl
@[simp] theorem State.setPwr_fine (s : State) (f : Power → Power) : (s.setPwr f).fine = s.fine := rfl
@[simp] theorem State.setPwr_prm (s : State) (f : Power → Power) : (s.setPwr f).prm = s.prm := rfl
@[simp] theorem State.setPwr_ports (s : State) (f : Power → Power) : (s.setPwr f).ports = s.ports := rfl
@[simp] theorem State.setPwr_links (s : State) (f : Power → Power) : (s.setPwr f).links = s.links := rfl
@[simp] theorem State.setPwr_hdl (s : State) (f : Power → Power) : (s.setPwr f).hdl = s.hdl := rfl
@[simp] theorem State.setPwr_coh (s : State) (f : Power → Power) : (s.setPwr f).coh = s.coh := rfl
@[simp] theorem State.setPwr_mnt (s : State) (f : Power → Power) : (s.setPwr f).mnt = s.mnt := rfl
@[simp] theorem State.setPwr_drains (s : State) (f : Power → Power) : (s.setPwr f).drains = s.drains := rfl
@[simp] theorem State.setPwr_dar (s : State) (f : Power → Power) : (s.setPwr f).dar = s.dar := rfl
@[simp] theorem State.setPwr_accU (s : State) (f : Power → Power) : (s.setPwr f).accU = s.accU := rfl
@[simp] theorem State.setPwr_accV (s : State) (f : Power → Power) : (s.setPwr f).accV = s.accV := rfl
@[simp] theorem State.setPwr_accAt (s : State) (f : Power → Power) : (s.setPwr f).accAt = s.accAt := rfl
@[simp] theorem State.setPwr_decayAt (s : State) (f : Power → Power) : (s.setPwr f).decayAt = s.decayAt := rfl
@[simp] theorem State.setPwr_deadNodes (s : State) (f : Power → Power) : (s.setPwr f).deadNodes = s.deadNodes := rfl
@[simp] theorem State.setPwr_deadWalks (s : State) (f : Power → Power) : (s.setPwr f).deadWalks = s.deadWalks := rfl
@[simp] theorem State.setPwr_ses (s : State) (f : Power → Power) : (s.setPwr f).ses = s.ses := rfl
@[simp] theorem State.setPwr_cal (s : State) (f : Power → Power) : (s.setPwr f).cal = s.cal := rfl
@[simp] theorem State.setPwr_fab (s : State) (f : Power → Power) : (s.setPwr f).fab = s.fab := rfl
@[simp] theorem State.setPwr_pwr (s : State) (f : Power → Power) : (s.setPwr f).pwr = f s.pwr := rfl
@[simp] theorem State.setPwr_sent (s : State) (f : Power → Power) : (s.setPwr f).sent = s.sent := rfl
@[simp] theorem State.setPwr_freeCtr (s : State) (f : Power → Power) : (s.setPwr f).freeCtr = s.freeCtr := rfl

@[simp] theorem State.setSes_pending (s : State) (f : Sessions → Sessions) : (s.setSes f).pending = s.pending := rfl
@[simp] theorem State.setSes_fuses (s : State) (f : Sessions → Sessions) : (s.setSes f).fuses = s.fuses := rfl
@[simp] theorem State.setSes_regs (s : State) (f : Sessions → Sessions) : (s.setSes f).regs = s.regs := rfl
@[simp] theorem State.setSes_img (s : State) (f : Sessions → Sessions) : (s.setSes f).img = s.img := rfl
@[simp] theorem State.setSes_boot (s : State) (f : Sessions → Sessions) : (s.setSes f).boot = s.boot := rfl
@[simp] theorem State.setSes_flash (s : State) (f : Sessions → Sessions) : (s.setSes f).flash = s.flash := rfl
@[simp] theorem State.setSes_mon (s : State) (f : Sessions → Sessions) : (s.setSes f).mon = s.mon := rfl
@[simp] theorem State.setSes_mbx (s : State) (f : Sessions → Sessions) : (s.setSes f).mbx = s.mbx := rfl
@[simp] theorem State.setSes_fine (s : State) (f : Sessions → Sessions) : (s.setSes f).fine = s.fine := rfl
@[simp] theorem State.setSes_prm (s : State) (f : Sessions → Sessions) : (s.setSes f).prm = s.prm := rfl
@[simp] theorem State.setSes_ports (s : State) (f : Sessions → Sessions) : (s.setSes f).ports = s.ports := rfl
@[simp] theorem State.setSes_links (s : State) (f : Sessions → Sessions) : (s.setSes f).links = s.links := rfl
@[simp] theorem State.setSes_hdl (s : State) (f : Sessions → Sessions) : (s.setSes f).hdl = s.hdl := rfl
@[simp] theorem State.setSes_coh (s : State) (f : Sessions → Sessions) : (s.setSes f).coh = s.coh := rfl
@[simp] theorem State.setSes_mnt (s : State) (f : Sessions → Sessions) : (s.setSes f).mnt = s.mnt := rfl
@[simp] theorem State.setSes_drains (s : State) (f : Sessions → Sessions) : (s.setSes f).drains = s.drains := rfl
@[simp] theorem State.setSes_dar (s : State) (f : Sessions → Sessions) : (s.setSes f).dar = s.dar := rfl
@[simp] theorem State.setSes_accU (s : State) (f : Sessions → Sessions) : (s.setSes f).accU = s.accU := rfl
@[simp] theorem State.setSes_accV (s : State) (f : Sessions → Sessions) : (s.setSes f).accV = s.accV := rfl
@[simp] theorem State.setSes_accAt (s : State) (f : Sessions → Sessions) : (s.setSes f).accAt = s.accAt := rfl
@[simp] theorem State.setSes_decayAt (s : State) (f : Sessions → Sessions) : (s.setSes f).decayAt = s.decayAt := rfl
@[simp] theorem State.setSes_deadNodes (s : State) (f : Sessions → Sessions) : (s.setSes f).deadNodes = s.deadNodes := rfl
@[simp] theorem State.setSes_deadWalks (s : State) (f : Sessions → Sessions) : (s.setSes f).deadWalks = s.deadWalks := rfl
@[simp] theorem State.setSes_ses (s : State) (f : Sessions → Sessions) : (s.setSes f).ses = f s.ses := rfl
@[simp] theorem State.setSes_cal (s : State) (f : Sessions → Sessions) : (s.setSes f).cal = s.cal := rfl
@[simp] theorem State.setSes_fab (s : State) (f : Sessions → Sessions) : (s.setSes f).fab = s.fab := rfl
@[simp] theorem State.setSes_pwr (s : State) (f : Sessions → Sessions) : (s.setSes f).pwr = s.pwr := rfl
@[simp] theorem State.setSes_sent (s : State) (f : Sessions → Sessions) : (s.setSes f).sent = s.sent := rfl
@[simp] theorem State.setSes_freeCtr (s : State) (f : Sessions → Sessions) : (s.setSes f).freeCtr = s.freeCtr := rfl

@[simp] theorem State.setMon_pending (s : State) (f : Monitor → Monitor) : (s.setMon f).pending = s.pending := rfl
@[simp] theorem State.setMon_fuses (s : State) (f : Monitor → Monitor) : (s.setMon f).fuses = s.fuses := rfl
@[simp] theorem State.setMon_regs (s : State) (f : Monitor → Monitor) : (s.setMon f).regs = s.regs := rfl
@[simp] theorem State.setMon_img (s : State) (f : Monitor → Monitor) : (s.setMon f).img = s.img := rfl
@[simp] theorem State.setMon_boot (s : State) (f : Monitor → Monitor) : (s.setMon f).boot = s.boot := rfl
@[simp] theorem State.setMon_flash (s : State) (f : Monitor → Monitor) : (s.setMon f).flash = s.flash := rfl
@[simp] theorem State.setMon_mon (s : State) (f : Monitor → Monitor) : (s.setMon f).mon = f s.mon := rfl
@[simp] theorem State.setMon_mbx (s : State) (f : Monitor → Monitor) : (s.setMon f).mbx = s.mbx := rfl
@[simp] theorem State.setMon_fine (s : State) (f : Monitor → Monitor) : (s.setMon f).fine = s.fine := rfl
@[simp] theorem State.setMon_prm (s : State) (f : Monitor → Monitor) : (s.setMon f).prm = s.prm := rfl
@[simp] theorem State.setMon_ports (s : State) (f : Monitor → Monitor) : (s.setMon f).ports = s.ports := rfl
@[simp] theorem State.setMon_links (s : State) (f : Monitor → Monitor) : (s.setMon f).links = s.links := rfl
@[simp] theorem State.setMon_hdl (s : State) (f : Monitor → Monitor) : (s.setMon f).hdl = s.hdl := rfl
@[simp] theorem State.setMon_coh (s : State) (f : Monitor → Monitor) : (s.setMon f).coh = s.coh := rfl
@[simp] theorem State.setMon_mnt (s : State) (f : Monitor → Monitor) : (s.setMon f).mnt = s.mnt := rfl
@[simp] theorem State.setMon_drains (s : State) (f : Monitor → Monitor) : (s.setMon f).drains = s.drains := rfl
@[simp] theorem State.setMon_dar (s : State) (f : Monitor → Monitor) : (s.setMon f).dar = s.dar := rfl
@[simp] theorem State.setMon_accU (s : State) (f : Monitor → Monitor) : (s.setMon f).accU = s.accU := rfl
@[simp] theorem State.setMon_accV (s : State) (f : Monitor → Monitor) : (s.setMon f).accV = s.accV := rfl
@[simp] theorem State.setMon_accAt (s : State) (f : Monitor → Monitor) : (s.setMon f).accAt = s.accAt := rfl
@[simp] theorem State.setMon_decayAt (s : State) (f : Monitor → Monitor) : (s.setMon f).decayAt = s.decayAt := rfl
@[simp] theorem State.setMon_deadNodes (s : State) (f : Monitor → Monitor) : (s.setMon f).deadNodes = s.deadNodes := rfl
@[simp] theorem State.setMon_deadWalks (s : State) (f : Monitor → Monitor) : (s.setMon f).deadWalks = s.deadWalks := rfl
@[simp] theorem State.setMon_ses (s : State) (f : Monitor → Monitor) : (s.setMon f).ses = s.ses := rfl
@[simp] theorem State.setMon_cal (s : State) (f : Monitor → Monitor) : (s.setMon f).cal = s.cal := rfl
@[simp] theorem State.setMon_fab (s : State) (f : Monitor → Monitor) : (s.setMon f).fab = s.fab := rfl
@[simp] theorem State.setMon_pwr (s : State) (f : Monitor → Monitor) : (s.setMon f).pwr = s.pwr := rfl
@[simp] theorem State.setMon_sent (s : State) (f : Monitor → Monitor) : (s.setMon f).sent = s.sent := rfl
@[simp] theorem State.setMon_freeCtr (s : State) (f : Monitor → Monitor) : (s.setMon f).freeCtr = s.freeCtr := rfl

@[simp] theorem State.setMail_pending (s : State) (m : Fin 4) (f : Mailbox → Mailbox) : (s.setMail m f).pending = s.pending := rfl
@[simp] theorem State.setMail_fuses (s : State) (m : Fin 4) (f : Mailbox → Mailbox) : (s.setMail m f).fuses = s.fuses := rfl
@[simp] theorem State.setMail_regs (s : State) (m : Fin 4) (f : Mailbox → Mailbox) : (s.setMail m f).regs = s.regs := rfl
@[simp] theorem State.setMail_img (s : State) (m : Fin 4) (f : Mailbox → Mailbox) : (s.setMail m f).img = s.img := rfl
@[simp] theorem State.setMail_boot (s : State) (m : Fin 4) (f : Mailbox → Mailbox) : (s.setMail m f).boot = s.boot := rfl
@[simp] theorem State.setMail_flash (s : State) (m : Fin 4) (f : Mailbox → Mailbox) : (s.setMail m f).flash = s.flash := rfl
@[simp] theorem State.setMail_mon (s : State) (m : Fin 4) (f : Mailbox → Mailbox) : (s.setMail m f).mon = s.mon := rfl
@[simp] theorem State.setMail_mbx (s : State) (m : Fin 4) (f : Mailbox → Mailbox) : (s.setMail m f).mbx = vmod s.mbx m f := rfl
@[simp] theorem State.setMail_fine (s : State) (m : Fin 4) (f : Mailbox → Mailbox) : (s.setMail m f).fine = s.fine := rfl
@[simp] theorem State.setMail_prm (s : State) (m : Fin 4) (f : Mailbox → Mailbox) : (s.setMail m f).prm = s.prm := rfl
@[simp] theorem State.setMail_ports (s : State) (m : Fin 4) (f : Mailbox → Mailbox) : (s.setMail m f).ports = s.ports := rfl
@[simp] theorem State.setMail_links (s : State) (m : Fin 4) (f : Mailbox → Mailbox) : (s.setMail m f).links = s.links := rfl
@[simp] theorem State.setMail_hdl (s : State) (m : Fin 4) (f : Mailbox → Mailbox) : (s.setMail m f).hdl = s.hdl := rfl
@[simp] theorem State.setMail_coh (s : State) (m : Fin 4) (f : Mailbox → Mailbox) : (s.setMail m f).coh = s.coh := rfl
@[simp] theorem State.setMail_mnt (s : State) (m : Fin 4) (f : Mailbox → Mailbox) : (s.setMail m f).mnt = s.mnt := rfl
@[simp] theorem State.setMail_drains (s : State) (m : Fin 4) (f : Mailbox → Mailbox) : (s.setMail m f).drains = s.drains := rfl
@[simp] theorem State.setMail_dar (s : State) (m : Fin 4) (f : Mailbox → Mailbox) : (s.setMail m f).dar = s.dar := rfl
@[simp] theorem State.setMail_accU (s : State) (m : Fin 4) (f : Mailbox → Mailbox) : (s.setMail m f).accU = s.accU := rfl
@[simp] theorem State.setMail_accV (s : State) (m : Fin 4) (f : Mailbox → Mailbox) : (s.setMail m f).accV = s.accV := rfl
@[simp] theorem State.setMail_accAt (s : State) (m : Fin 4) (f : Mailbox → Mailbox) : (s.setMail m f).accAt = s.accAt := rfl
@[simp] theorem State.setMail_decayAt (s : State) (m : Fin 4) (f : Mailbox → Mailbox) : (s.setMail m f).decayAt = s.decayAt := rfl
@[simp] theorem State.setMail_deadNodes (s : State) (m : Fin 4) (f : Mailbox → Mailbox) : (s.setMail m f).deadNodes = s.deadNodes := rfl
@[simp] theorem State.setMail_deadWalks (s : State) (m : Fin 4) (f : Mailbox → Mailbox) : (s.setMail m f).deadWalks = s.deadWalks := rfl
@[simp] theorem State.setMail_ses (s : State) (m : Fin 4) (f : Mailbox → Mailbox) : (s.setMail m f).ses = s.ses := rfl
@[simp] theorem State.setMail_cal (s : State) (m : Fin 4) (f : Mailbox → Mailbox) : (s.setMail m f).cal = s.cal := rfl
@[simp] theorem State.setMail_fab (s : State) (m : Fin 4) (f : Mailbox → Mailbox) : (s.setMail m f).fab = s.fab := rfl
@[simp] theorem State.setMail_pwr (s : State) (m : Fin 4) (f : Mailbox → Mailbox) : (s.setMail m f).pwr = s.pwr := rfl
@[simp] theorem State.setMail_sent (s : State) (m : Fin 4) (f : Mailbox → Mailbox) : (s.setMail m f).sent = s.sent := rfl
@[simp] theorem State.setMail_freeCtr (s : State) (m : Fin 4) (f : Mailbox → Mailbox) : (s.setMail m f).freeCtr = s.freeCtr := rfl

@[simp] theorem State.setImg_pending (s : State) (f : ImageSetup → ImageSetup) : (s.setImg f).pending = s.pending := rfl
@[simp] theorem State.setImg_fuses (s : State) (f : ImageSetup → ImageSetup) : (s.setImg f).fuses = s.fuses := rfl
@[simp] theorem State.setImg_regs (s : State) (f : ImageSetup → ImageSetup) : (s.setImg f).regs = s.regs := rfl
@[simp] theorem State.setImg_img (s : State) (f : ImageSetup → ImageSetup) : (s.setImg f).img = f s.img := rfl
@[simp] theorem State.setImg_boot (s : State) (f : ImageSetup → ImageSetup) : (s.setImg f).boot = s.boot := rfl
@[simp] theorem State.setImg_flash (s : State) (f : ImageSetup → ImageSetup) : (s.setImg f).flash = s.flash := rfl
@[simp] theorem State.setImg_mon (s : State) (f : ImageSetup → ImageSetup) : (s.setImg f).mon = s.mon := rfl
@[simp] theorem State.setImg_mbx (s : State) (f : ImageSetup → ImageSetup) : (s.setImg f).mbx = s.mbx := rfl
@[simp] theorem State.setImg_fine (s : State) (f : ImageSetup → ImageSetup) : (s.setImg f).fine = s.fine := rfl
@[simp] theorem State.setImg_prm (s : State) (f : ImageSetup → ImageSetup) : (s.setImg f).prm = s.prm := rfl
@[simp] theorem State.setImg_ports (s : State) (f : ImageSetup → ImageSetup) : (s.setImg f).ports = s.ports := rfl
@[simp] theorem State.setImg_links (s : State) (f : ImageSetup → ImageSetup) : (s.setImg f).links = s.links := rfl
@[simp] theorem State.setImg_hdl (s : State) (f : ImageSetup → ImageSetup) : (s.setImg f).hdl = s.hdl := rfl
@[simp] theorem State.setImg_coh (s : State) (f : ImageSetup → ImageSetup) : (s.setImg f).coh = s.coh := rfl
@[simp] theorem State.setImg_mnt (s : State) (f : ImageSetup → ImageSetup) : (s.setImg f).mnt = s.mnt := rfl
@[simp] theorem State.setImg_drains (s : State) (f : ImageSetup → ImageSetup) : (s.setImg f).drains = s.drains := rfl
@[simp] theorem State.setImg_dar (s : State) (f : ImageSetup → ImageSetup) : (s.setImg f).dar = s.dar := rfl
@[simp] theorem State.setImg_accU (s : State) (f : ImageSetup → ImageSetup) : (s.setImg f).accU = s.accU := rfl
@[simp] theorem State.setImg_accV (s : State) (f : ImageSetup → ImageSetup) : (s.setImg f).accV = s.accV := rfl
@[simp] theorem State.setImg_accAt (s : State) (f : ImageSetup → ImageSetup) : (s.setImg f).accAt = s.accAt := rfl
@[simp] theorem State.setImg_decayAt (s : State) (f : ImageSetup → ImageSetup) : (s.setImg f).decayAt = s.decayAt := rfl
@[simp] theorem State.setImg_deadNodes (s : State) (f : ImageSetup → ImageSetup) : (s.setImg f).deadNodes = s.deadNodes := rfl
@[simp] theorem State.setImg_deadWalks (s : State) (f : ImageSetup → ImageSetup) : (s.setImg f).deadWalks = s.deadWalks := rfl
@[simp] theorem State.setImg_ses (s : State) (f : ImageSetup → ImageSetup) : (s.setImg f).ses = s.ses := rfl
@[simp] theorem State.setImg_cal (s : State) (f : ImageSetup → ImageSetup) : (s.setImg f).cal = s.cal := rfl
@[simp] theorem State.setImg_fab (s : State) (f : ImageSetup → ImageSetup) : (s.setImg f).fab = s.fab := rfl
@[simp] theorem State.setImg_pwr (s : State) (f : ImageSetup → ImageSetup) : (s.setImg f).pwr = s.pwr := rfl
@[simp] theorem State.setImg_sent (s : State) (f : ImageSetup → ImageSetup) : (s.setImg f).sent = s.sent := rfl
@[simp] theorem State.setImg_freeCtr (s : State) (f : ImageSetup → ImageSetup) : (s.setImg f).freeCtr = s.freeCtr := rfl

@[simp] theorem State.setHdl_pending (s : State) (f : HeadlandSt → HeadlandSt) : (s.setHdl f).pending = s.pending := rfl
@[simp] theorem State.setHdl_fuses (s : State) (f : HeadlandSt → HeadlandSt) : (s.setHdl f).fuses = s.fuses := rfl
@[simp] theorem State.setHdl_regs (s : State) (f : HeadlandSt → HeadlandSt) : (s.setHdl f).regs = s.regs := rfl
@[simp] theorem State.setHdl_img (s : State) (f : HeadlandSt → HeadlandSt) : (s.setHdl f).img = s.img := rfl
@[simp] theorem State.setHdl_boot (s : State) (f : HeadlandSt → HeadlandSt) : (s.setHdl f).boot = s.boot := rfl
@[simp] theorem State.setHdl_flash (s : State) (f : HeadlandSt → HeadlandSt) : (s.setHdl f).flash = s.flash := rfl
@[simp] theorem State.setHdl_mon (s : State) (f : HeadlandSt → HeadlandSt) : (s.setHdl f).mon = s.mon := rfl
@[simp] theorem State.setHdl_mbx (s : State) (f : HeadlandSt → HeadlandSt) : (s.setHdl f).mbx = s.mbx := rfl
@[simp] theorem State.setHdl_fine (s : State) (f : HeadlandSt → HeadlandSt) : (s.setHdl f).fine = s.fine := rfl
@[simp] theorem State.setHdl_prm (s : State) (f : HeadlandSt → HeadlandSt) : (s.setHdl f).prm = s.prm := rfl
@[simp] theorem State.setHdl_ports (s : State) (f : HeadlandSt → HeadlandSt) : (s.setHdl f).ports = s.ports := rfl
@[simp] theorem State.setHdl_links (s : State) (f : HeadlandSt → HeadlandSt) : (s.setHdl f).links = s.links := rfl
@[simp] theorem State.setHdl_hdl (s : State) (f : HeadlandSt → HeadlandSt) : (s.setHdl f).hdl = f s.hdl := rfl
@[simp] theorem State.setHdl_coh (s : State) (f : HeadlandSt → HeadlandSt) : (s.setHdl f).coh = s.coh := rfl
@[simp] theorem State.setHdl_mnt (s : State) (f : HeadlandSt → HeadlandSt) : (s.setHdl f).mnt = s.mnt := rfl
@[simp] theorem State.setHdl_drains (s : State) (f : HeadlandSt → HeadlandSt) : (s.setHdl f).drains = s.drains := rfl
@[simp] theorem State.setHdl_dar (s : State) (f : HeadlandSt → HeadlandSt) : (s.setHdl f).dar = s.dar := rfl
@[simp] theorem State.setHdl_accU (s : State) (f : HeadlandSt → HeadlandSt) : (s.setHdl f).accU = s.accU := rfl
@[simp] theorem State.setHdl_accV (s : State) (f : HeadlandSt → HeadlandSt) : (s.setHdl f).accV = s.accV := rfl
@[simp] theorem State.setHdl_accAt (s : State) (f : HeadlandSt → HeadlandSt) : (s.setHdl f).accAt = s.accAt := rfl
@[simp] theorem State.setHdl_decayAt (s : State) (f : HeadlandSt → HeadlandSt) : (s.setHdl f).decayAt = s.decayAt := rfl
@[simp] theorem State.setHdl_deadNodes (s : State) (f : HeadlandSt → HeadlandSt) : (s.setHdl f).deadNodes = s.deadNodes := rfl
@[simp] theorem State.setHdl_deadWalks (s : State) (f : HeadlandSt → HeadlandSt) : (s.setHdl f).deadWalks = s.deadWalks := rfl
@[simp] theorem State.setHdl_ses (s : State) (f : HeadlandSt → HeadlandSt) : (s.setHdl f).ses = s.ses := rfl
@[simp] theorem State.setHdl_cal (s : State) (f : HeadlandSt → HeadlandSt) : (s.setHdl f).cal = s.cal := rfl
@[simp] theorem State.setHdl_fab (s : State) (f : HeadlandSt → HeadlandSt) : (s.setHdl f).fab = s.fab := rfl
@[simp] theorem State.setHdl_pwr (s : State) (f : HeadlandSt → HeadlandSt) : (s.setHdl f).pwr = s.pwr := rfl
@[simp] theorem State.setHdl_sent (s : State) (f : HeadlandSt → HeadlandSt) : (s.setHdl f).sent = s.sent := rfl
@[simp] theorem State.setHdl_freeCtr (s : State) (f : HeadlandSt → HeadlandSt) : (s.setHdl f).freeCtr = s.freeCtr := rfl

@[simp] theorem State.setDar_pending (s : State) (f : DarnerSt → DarnerSt) : (s.setDar f).pending = s.pending := rfl
@[simp] theorem State.setDar_fuses (s : State) (f : DarnerSt → DarnerSt) : (s.setDar f).fuses = s.fuses := rfl
@[simp] theorem State.setDar_regs (s : State) (f : DarnerSt → DarnerSt) : (s.setDar f).regs = s.regs := rfl
@[simp] theorem State.setDar_img (s : State) (f : DarnerSt → DarnerSt) : (s.setDar f).img = s.img := rfl
@[simp] theorem State.setDar_boot (s : State) (f : DarnerSt → DarnerSt) : (s.setDar f).boot = s.boot := rfl
@[simp] theorem State.setDar_flash (s : State) (f : DarnerSt → DarnerSt) : (s.setDar f).flash = s.flash := rfl
@[simp] theorem State.setDar_mon (s : State) (f : DarnerSt → DarnerSt) : (s.setDar f).mon = s.mon := rfl
@[simp] theorem State.setDar_mbx (s : State) (f : DarnerSt → DarnerSt) : (s.setDar f).mbx = s.mbx := rfl
@[simp] theorem State.setDar_fine (s : State) (f : DarnerSt → DarnerSt) : (s.setDar f).fine = s.fine := rfl
@[simp] theorem State.setDar_prm (s : State) (f : DarnerSt → DarnerSt) : (s.setDar f).prm = s.prm := rfl
@[simp] theorem State.setDar_ports (s : State) (f : DarnerSt → DarnerSt) : (s.setDar f).ports = s.ports := rfl
@[simp] theorem State.setDar_links (s : State) (f : DarnerSt → DarnerSt) : (s.setDar f).links = s.links := rfl
@[simp] theorem State.setDar_hdl (s : State) (f : DarnerSt → DarnerSt) : (s.setDar f).hdl = s.hdl := rfl
@[simp] theorem State.setDar_coh (s : State) (f : DarnerSt → DarnerSt) : (s.setDar f).coh = s.coh := rfl
@[simp] theorem State.setDar_mnt (s : State) (f : DarnerSt → DarnerSt) : (s.setDar f).mnt = s.mnt := rfl
@[simp] theorem State.setDar_drains (s : State) (f : DarnerSt → DarnerSt) : (s.setDar f).drains = s.drains := rfl
@[simp] theorem State.setDar_dar (s : State) (f : DarnerSt → DarnerSt) : (s.setDar f).dar = f s.dar := rfl
@[simp] theorem State.setDar_accU (s : State) (f : DarnerSt → DarnerSt) : (s.setDar f).accU = s.accU := rfl
@[simp] theorem State.setDar_accV (s : State) (f : DarnerSt → DarnerSt) : (s.setDar f).accV = s.accV := rfl
@[simp] theorem State.setDar_accAt (s : State) (f : DarnerSt → DarnerSt) : (s.setDar f).accAt = s.accAt := rfl
@[simp] theorem State.setDar_decayAt (s : State) (f : DarnerSt → DarnerSt) : (s.setDar f).decayAt = s.decayAt := rfl
@[simp] theorem State.setDar_deadNodes (s : State) (f : DarnerSt → DarnerSt) : (s.setDar f).deadNodes = s.deadNodes := rfl
@[simp] theorem State.setDar_deadWalks (s : State) (f : DarnerSt → DarnerSt) : (s.setDar f).deadWalks = s.deadWalks := rfl
@[simp] theorem State.setDar_ses (s : State) (f : DarnerSt → DarnerSt) : (s.setDar f).ses = s.ses := rfl
@[simp] theorem State.setDar_cal (s : State) (f : DarnerSt → DarnerSt) : (s.setDar f).cal = s.cal := rfl
@[simp] theorem State.setDar_fab (s : State) (f : DarnerSt → DarnerSt) : (s.setDar f).fab = s.fab := rfl
@[simp] theorem State.setDar_pwr (s : State) (f : DarnerSt → DarnerSt) : (s.setDar f).pwr = s.pwr := rfl
@[simp] theorem State.setDar_sent (s : State) (f : DarnerSt → DarnerSt) : (s.setDar f).sent = s.sent := rfl
@[simp] theorem State.setDar_freeCtr (s : State) (f : DarnerSt → DarnerSt) : (s.setDar f).freeCtr = s.freeCtr := rfl

@[simp] theorem State.setFab_pending (s : State) (f : Fabric → Fabric) : (s.setFab f).pending = s.pending := rfl
@[simp] theorem State.setFab_fuses (s : State) (f : Fabric → Fabric) : (s.setFab f).fuses = s.fuses := rfl
@[simp] theorem State.setFab_regs (s : State) (f : Fabric → Fabric) : (s.setFab f).regs = s.regs := rfl
@[simp] theorem State.setFab_img (s : State) (f : Fabric → Fabric) : (s.setFab f).img = s.img := rfl
@[simp] theorem State.setFab_boot (s : State) (f : Fabric → Fabric) : (s.setFab f).boot = s.boot := rfl
@[simp] theorem State.setFab_flash (s : State) (f : Fabric → Fabric) : (s.setFab f).flash = s.flash := rfl
@[simp] theorem State.setFab_mon (s : State) (f : Fabric → Fabric) : (s.setFab f).mon = s.mon := rfl
@[simp] theorem State.setFab_mbx (s : State) (f : Fabric → Fabric) : (s.setFab f).mbx = s.mbx := rfl
@[simp] theorem State.setFab_fine (s : State) (f : Fabric → Fabric) : (s.setFab f).fine = s.fine := rfl
@[simp] theorem State.setFab_prm (s : State) (f : Fabric → Fabric) : (s.setFab f).prm = s.prm := rfl
@[simp] theorem State.setFab_ports (s : State) (f : Fabric → Fabric) : (s.setFab f).ports = s.ports := rfl
@[simp] theorem State.setFab_links (s : State) (f : Fabric → Fabric) : (s.setFab f).links = s.links := rfl
@[simp] theorem State.setFab_hdl (s : State) (f : Fabric → Fabric) : (s.setFab f).hdl = s.hdl := rfl
@[simp] theorem State.setFab_coh (s : State) (f : Fabric → Fabric) : (s.setFab f).coh = s.coh := rfl
@[simp] theorem State.setFab_mnt (s : State) (f : Fabric → Fabric) : (s.setFab f).mnt = s.mnt := rfl
@[simp] theorem State.setFab_drains (s : State) (f : Fabric → Fabric) : (s.setFab f).drains = s.drains := rfl
@[simp] theorem State.setFab_dar (s : State) (f : Fabric → Fabric) : (s.setFab f).dar = s.dar := rfl
@[simp] theorem State.setFab_accU (s : State) (f : Fabric → Fabric) : (s.setFab f).accU = s.accU := rfl
@[simp] theorem State.setFab_accV (s : State) (f : Fabric → Fabric) : (s.setFab f).accV = s.accV := rfl
@[simp] theorem State.setFab_accAt (s : State) (f : Fabric → Fabric) : (s.setFab f).accAt = s.accAt := rfl
@[simp] theorem State.setFab_decayAt (s : State) (f : Fabric → Fabric) : (s.setFab f).decayAt = s.decayAt := rfl
@[simp] theorem State.setFab_deadNodes (s : State) (f : Fabric → Fabric) : (s.setFab f).deadNodes = s.deadNodes := rfl
@[simp] theorem State.setFab_deadWalks (s : State) (f : Fabric → Fabric) : (s.setFab f).deadWalks = s.deadWalks := rfl
@[simp] theorem State.setFab_ses (s : State) (f : Fabric → Fabric) : (s.setFab f).ses = s.ses := rfl
@[simp] theorem State.setFab_cal (s : State) (f : Fabric → Fabric) : (s.setFab f).cal = s.cal := rfl
@[simp] theorem State.setFab_fab (s : State) (f : Fabric → Fabric) : (s.setFab f).fab = f s.fab := rfl
@[simp] theorem State.setFab_pwr (s : State) (f : Fabric → Fabric) : (s.setFab f).pwr = s.pwr := rfl
@[simp] theorem State.setFab_sent (s : State) (f : Fabric → Fabric) : (s.setFab f).sent = s.sent := rfl
@[simp] theorem State.setFab_freeCtr (s : State) (f : Fabric → Fabric) : (s.setFab f).freeCtr = s.freeCtr := rfl

@[simp] theorem State.setCal_pending (s : State) (f : Calendar → Calendar) : (s.setCal f).pending = s.pending := rfl
@[simp] theorem State.setCal_fuses (s : State) (f : Calendar → Calendar) : (s.setCal f).fuses = s.fuses := rfl
@[simp] theorem State.setCal_regs (s : State) (f : Calendar → Calendar) : (s.setCal f).regs = s.regs := rfl
@[simp] theorem State.setCal_img (s : State) (f : Calendar → Calendar) : (s.setCal f).img = s.img := rfl
@[simp] theorem State.setCal_boot (s : State) (f : Calendar → Calendar) : (s.setCal f).boot = s.boot := rfl
@[simp] theorem State.setCal_flash (s : State) (f : Calendar → Calendar) : (s.setCal f).flash = s.flash := rfl
@[simp] theorem State.setCal_mon (s : State) (f : Calendar → Calendar) : (s.setCal f).mon = s.mon := rfl
@[simp] theorem State.setCal_mbx (s : State) (f : Calendar → Calendar) : (s.setCal f).mbx = s.mbx := rfl
@[simp] theorem State.setCal_fine (s : State) (f : Calendar → Calendar) : (s.setCal f).fine = s.fine := rfl
@[simp] theorem State.setCal_prm (s : State) (f : Calendar → Calendar) : (s.setCal f).prm = s.prm := rfl
@[simp] theorem State.setCal_ports (s : State) (f : Calendar → Calendar) : (s.setCal f).ports = s.ports := rfl
@[simp] theorem State.setCal_links (s : State) (f : Calendar → Calendar) : (s.setCal f).links = s.links := rfl
@[simp] theorem State.setCal_hdl (s : State) (f : Calendar → Calendar) : (s.setCal f).hdl = s.hdl := rfl
@[simp] theorem State.setCal_coh (s : State) (f : Calendar → Calendar) : (s.setCal f).coh = s.coh := rfl
@[simp] theorem State.setCal_mnt (s : State) (f : Calendar → Calendar) : (s.setCal f).mnt = s.mnt := rfl
@[simp] theorem State.setCal_drains (s : State) (f : Calendar → Calendar) : (s.setCal f).drains = s.drains := rfl
@[simp] theorem State.setCal_dar (s : State) (f : Calendar → Calendar) : (s.setCal f).dar = s.dar := rfl
@[simp] theorem State.setCal_accU (s : State) (f : Calendar → Calendar) : (s.setCal f).accU = s.accU := rfl
@[simp] theorem State.setCal_accV (s : State) (f : Calendar → Calendar) : (s.setCal f).accV = s.accV := rfl
@[simp] theorem State.setCal_accAt (s : State) (f : Calendar → Calendar) : (s.setCal f).accAt = s.accAt := rfl
@[simp] theorem State.setCal_decayAt (s : State) (f : Calendar → Calendar) : (s.setCal f).decayAt = s.decayAt := rfl
@[simp] theorem State.setCal_deadNodes (s : State) (f : Calendar → Calendar) : (s.setCal f).deadNodes = s.deadNodes := rfl
@[simp] theorem State.setCal_deadWalks (s : State) (f : Calendar → Calendar) : (s.setCal f).deadWalks = s.deadWalks := rfl
@[simp] theorem State.setCal_ses (s : State) (f : Calendar → Calendar) : (s.setCal f).ses = s.ses := rfl
@[simp] theorem State.setCal_cal (s : State) (f : Calendar → Calendar) : (s.setCal f).cal = f s.cal := rfl
@[simp] theorem State.setCal_fab (s : State) (f : Calendar → Calendar) : (s.setCal f).fab = s.fab := rfl
@[simp] theorem State.setCal_pwr (s : State) (f : Calendar → Calendar) : (s.setCal f).pwr = s.pwr := rfl
@[simp] theorem State.setCal_sent (s : State) (f : Calendar → Calendar) : (s.setCal f).sent = s.sent := rfl
@[simp] theorem State.setCal_freeCtr (s : State) (f : Calendar → Calendar) : (s.setCal f).freeCtr = s.freeCtr := rfl

@[simp] theorem State.wf_pending (s : State) (f : RField) (v : Nat) : (s.wf f v).pending = s.pending := rfl
@[simp] theorem State.wf_fuses (s : State) (f : RField) (v : Nat) : (s.wf f v).fuses = s.fuses := rfl
@[simp] theorem State.wf_regs (s : State) (f : RField) (v : Nat) : (s.wf f v).regs = Sparse.set regReset s.regs f.off (setFld (s.rg f.off) f.lo f.width v) := rfl
@[simp] theorem State.wf_img (s : State) (f : RField) (v : Nat) : (s.wf f v).img = s.img := rfl
@[simp] theorem State.wf_boot (s : State) (f : RField) (v : Nat) : (s.wf f v).boot = s.boot := rfl
@[simp] theorem State.wf_flash (s : State) (f : RField) (v : Nat) : (s.wf f v).flash = s.flash := rfl
@[simp] theorem State.wf_mon (s : State) (f : RField) (v : Nat) : (s.wf f v).mon = s.mon := rfl
@[simp] theorem State.wf_mbx (s : State) (f : RField) (v : Nat) : (s.wf f v).mbx = s.mbx := rfl
@[simp] theorem State.wf_fine (s : State) (f : RField) (v : Nat) : (s.wf f v).fine = s.fine := rfl
@[simp] theorem State.wf_prm (s : State) (f : RField) (v : Nat) : (s.wf f v).prm = s.prm := rfl
@[simp] theorem State.wf_ports (s : State) (f : RField) (v : Nat) : (s.wf f v).ports = s.ports := rfl
@[simp] theorem State.wf_links (s : State) (f : RField) (v : Nat) : (s.wf f v).links = s.links := rfl
@[simp] theorem State.wf_hdl (s : State) (f : RField) (v : Nat) : (s.wf f v).hdl = s.hdl := rfl
@[simp] theorem State.wf_coh (s : State) (f : RField) (v : Nat) : (s.wf f v).coh = s.coh := rfl
@[simp] theorem State.wf_mnt (s : State) (f : RField) (v : Nat) : (s.wf f v).mnt = s.mnt := rfl
@[simp] theorem State.wf_drains (s : State) (f : RField) (v : Nat) : (s.wf f v).drains = s.drains := rfl
@[simp] theorem State.wf_dar (s : State) (f : RField) (v : Nat) : (s.wf f v).dar = s.dar := rfl
@[simp] theorem State.wf_accU (s : State) (f : RField) (v : Nat) : (s.wf f v).accU = s.accU := rfl
@[simp] theorem State.wf_accV (s : State) (f : RField) (v : Nat) : (s.wf f v).accV = s.accV := rfl
@[simp] theorem State.wf_accAt (s : State) (f : RField) (v : Nat) : (s.wf f v).accAt = s.accAt := rfl
@[simp] theorem State.wf_decayAt (s : State) (f : RField) (v : Nat) : (s.wf f v).decayAt = s.decayAt := rfl
@[simp] theorem State.wf_deadNodes (s : State) (f : RField) (v : Nat) : (s.wf f v).deadNodes = s.deadNodes := rfl
@[simp] theorem State.wf_deadWalks (s : State) (f : RField) (v : Nat) : (s.wf f v).deadWalks = s.deadWalks := rfl
@[simp] theorem State.wf_ses (s : State) (f : RField) (v : Nat) : (s.wf f v).ses = s.ses := rfl
@[simp] theorem State.wf_cal (s : State) (f : RField) (v : Nat) : (s.wf f v).cal = s.cal := rfl
@[simp] theorem State.wf_fab (s : State) (f : RField) (v : Nat) : (s.wf f v).fab = s.fab := rfl
@[simp] theorem State.wf_pwr (s : State) (f : RField) (v : Nat) : (s.wf f v).pwr = s.pwr := rfl
@[simp] theorem State.wf_sent (s : State) (f : RField) (v : Nat) : (s.wf f v).sent = s.sent := rfl
@[simp] theorem State.wf_freeCtr (s : State) (f : RField) (v : Nat) : (s.wf f v).freeCtr = s.freeCtr := rfl

@[simp] theorem State.wb_pending (s : State) (f : RField) (b : Bool) : (s.wb f b).pending = s.pending := rfl
@[simp] theorem State.wb_fuses (s : State) (f : RField) (b : Bool) : (s.wb f b).fuses = s.fuses := rfl
@[simp] theorem State.wb_regs (s : State) (f : RField) (b : Bool) : (s.wb f b).regs = Sparse.set regReset s.regs f.off (setFld (s.rg f.off) f.lo f.width b.toNat) := rfl
@[simp] theorem State.wb_img (s : State) (f : RField) (b : Bool) : (s.wb f b).img = s.img := rfl
@[simp] theorem State.wb_boot (s : State) (f : RField) (b : Bool) : (s.wb f b).boot = s.boot := rfl
@[simp] theorem State.wb_flash (s : State) (f : RField) (b : Bool) : (s.wb f b).flash = s.flash := rfl
@[simp] theorem State.wb_mon (s : State) (f : RField) (b : Bool) : (s.wb f b).mon = s.mon := rfl
@[simp] theorem State.wb_mbx (s : State) (f : RField) (b : Bool) : (s.wb f b).mbx = s.mbx := rfl
@[simp] theorem State.wb_fine (s : State) (f : RField) (b : Bool) : (s.wb f b).fine = s.fine := rfl
@[simp] theorem State.wb_prm (s : State) (f : RField) (b : Bool) : (s.wb f b).prm = s.prm := rfl
@[simp] theorem State.wb_ports (s : State) (f : RField) (b : Bool) : (s.wb f b).ports = s.ports := rfl
@[simp] theorem State.wb_links (s : State) (f : RField) (b : Bool) : (s.wb f b).links = s.links := rfl
@[simp] theorem State.wb_hdl (s : State) (f : RField) (b : Bool) : (s.wb f b).hdl = s.hdl := rfl
@[simp] theorem State.wb_coh (s : State) (f : RField) (b : Bool) : (s.wb f b).coh = s.coh := rfl
@[simp] theorem State.wb_mnt (s : State) (f : RField) (b : Bool) : (s.wb f b).mnt = s.mnt := rfl
@[simp] theorem State.wb_drains (s : State) (f : RField) (b : Bool) : (s.wb f b).drains = s.drains := rfl
@[simp] theorem State.wb_dar (s : State) (f : RField) (b : Bool) : (s.wb f b).dar = s.dar := rfl
@[simp] theorem State.wb_accU (s : State) (f : RField) (b : Bool) : (s.wb f b).accU = s.accU := rfl
@[simp] theorem State.wb_accV (s : State) (f : RField) (b : Bool) : (s.wb f b).accV = s.accV := rfl
@[simp] theorem State.wb_accAt (s : State) (f : RField) (b : Bool) : (s.wb f b).accAt = s.accAt := rfl
@[simp] theorem State.wb_decayAt (s : State) (f : RField) (b : Bool) : (s.wb f b).decayAt = s.decayAt := rfl
@[simp] theorem State.wb_deadNodes (s : State) (f : RField) (b : Bool) : (s.wb f b).deadNodes = s.deadNodes := rfl
@[simp] theorem State.wb_deadWalks (s : State) (f : RField) (b : Bool) : (s.wb f b).deadWalks = s.deadWalks := rfl
@[simp] theorem State.wb_ses (s : State) (f : RField) (b : Bool) : (s.wb f b).ses = s.ses := rfl
@[simp] theorem State.wb_cal (s : State) (f : RField) (b : Bool) : (s.wb f b).cal = s.cal := rfl
@[simp] theorem State.wb_fab (s : State) (f : RField) (b : Bool) : (s.wb f b).fab = s.fab := rfl
@[simp] theorem State.wb_pwr (s : State) (f : RField) (b : Bool) : (s.wb f b).pwr = s.pwr := rfl
@[simp] theorem State.wb_sent (s : State) (f : RField) (b : Bool) : (s.wb f b).sent = s.sent := rfl
@[simp] theorem State.wb_freeCtr (s : State) (f : RField) (b : Bool) : (s.wb f b).freeCtr = s.freeCtr := rfl

@[simp] theorem State.raise_pending (s : State) (e u : Nat) : (s.raise e u).pending = s.pending := rfl
@[simp] theorem State.raise_fuses (s : State) (e u : Nat) : (s.raise e u).fuses = s.fuses := rfl
@[simp] theorem State.raise_regs (s : State) (e u : Nat) : (s.raise e u).regs = s.regs := rfl
@[simp] theorem State.raise_img (s : State) (e u : Nat) : (s.raise e u).img = s.img := rfl
@[simp] theorem State.raise_boot (s : State) (e u : Nat) : (s.raise e u).boot = s.boot := rfl
@[simp] theorem State.raise_flash (s : State) (e u : Nat) : (s.raise e u).flash = s.flash := rfl
@[simp] theorem State.raise_mbx (s : State) (e u : Nat) : (s.raise e u).mbx = s.mbx := rfl
@[simp] theorem State.raise_fine (s : State) (e u : Nat) : (s.raise e u).fine = s.fine := rfl
@[simp] theorem State.raise_prm (s : State) (e u : Nat) : (s.raise e u).prm = s.prm := rfl
@[simp] theorem State.raise_ports (s : State) (e u : Nat) : (s.raise e u).ports = s.ports := rfl
@[simp] theorem State.raise_links (s : State) (e u : Nat) : (s.raise e u).links = s.links := rfl
@[simp] theorem State.raise_hdl (s : State) (e u : Nat) : (s.raise e u).hdl = s.hdl := rfl
@[simp] theorem State.raise_coh (s : State) (e u : Nat) : (s.raise e u).coh = s.coh := rfl
@[simp] theorem State.raise_mnt (s : State) (e u : Nat) : (s.raise e u).mnt = s.mnt := rfl
@[simp] theorem State.raise_drains (s : State) (e u : Nat) : (s.raise e u).drains = s.drains := rfl
@[simp] theorem State.raise_dar (s : State) (e u : Nat) : (s.raise e u).dar = s.dar := rfl
@[simp] theorem State.raise_accU (s : State) (e u : Nat) : (s.raise e u).accU = s.accU := rfl
@[simp] theorem State.raise_accV (s : State) (e u : Nat) : (s.raise e u).accV = s.accV := rfl
@[simp] theorem State.raise_accAt (s : State) (e u : Nat) : (s.raise e u).accAt = s.accAt := rfl
@[simp] theorem State.raise_decayAt (s : State) (e u : Nat) : (s.raise e u).decayAt = s.decayAt := rfl
@[simp] theorem State.raise_deadNodes (s : State) (e u : Nat) : (s.raise e u).deadNodes = s.deadNodes := rfl
@[simp] theorem State.raise_deadWalks (s : State) (e u : Nat) : (s.raise e u).deadWalks = s.deadWalks := rfl
@[simp] theorem State.raise_ses (s : State) (e u : Nat) : (s.raise e u).ses = s.ses := rfl
@[simp] theorem State.raise_cal (s : State) (e u : Nat) : (s.raise e u).cal = s.cal := rfl
@[simp] theorem State.raise_fab (s : State) (e u : Nat) : (s.raise e u).fab = s.fab := rfl
@[simp] theorem State.raise_pwr (s : State) (e u : Nat) : (s.raise e u).pwr = s.pwr := rfl
@[simp] theorem State.raise_sent (s : State) (e u : Nat) : (s.raise e u).sent = s.sent := rfl
@[simp] theorem State.raise_freeCtr (s : State) (e u : Nat) : (s.raise e u).freeCtr = s.freeCtr := rfl

@[simp] theorem State.raiseLog_pending (s : State) (e u : Nat) (d : BitVec 128) : (s.raiseLog e u d).pending = s.pending := rfl
@[simp] theorem State.raiseLog_fuses (s : State) (e u : Nat) (d : BitVec 128) : (s.raiseLog e u d).fuses = s.fuses := rfl
@[simp] theorem State.raiseLog_regs (s : State) (e u : Nat) (d : BitVec 128) : (s.raiseLog e u d).regs = s.regs := rfl
@[simp] theorem State.raiseLog_img (s : State) (e u : Nat) (d : BitVec 128) : (s.raiseLog e u d).img = s.img := rfl
@[simp] theorem State.raiseLog_boot (s : State) (e u : Nat) (d : BitVec 128) : (s.raiseLog e u d).boot = s.boot := rfl
@[simp] theorem State.raiseLog_flash (s : State) (e u : Nat) (d : BitVec 128) : (s.raiseLog e u d).flash = s.flash := rfl
@[simp] theorem State.raiseLog_mbx (s : State) (e u : Nat) (d : BitVec 128) : (s.raiseLog e u d).mbx = s.mbx := rfl
@[simp] theorem State.raiseLog_fine (s : State) (e u : Nat) (d : BitVec 128) : (s.raiseLog e u d).fine = s.fine := rfl
@[simp] theorem State.raiseLog_prm (s : State) (e u : Nat) (d : BitVec 128) : (s.raiseLog e u d).prm = s.prm := rfl
@[simp] theorem State.raiseLog_ports (s : State) (e u : Nat) (d : BitVec 128) : (s.raiseLog e u d).ports = s.ports := rfl
@[simp] theorem State.raiseLog_links (s : State) (e u : Nat) (d : BitVec 128) : (s.raiseLog e u d).links = s.links := rfl
@[simp] theorem State.raiseLog_hdl (s : State) (e u : Nat) (d : BitVec 128) : (s.raiseLog e u d).hdl = s.hdl := rfl
@[simp] theorem State.raiseLog_coh (s : State) (e u : Nat) (d : BitVec 128) : (s.raiseLog e u d).coh = s.coh := rfl
@[simp] theorem State.raiseLog_mnt (s : State) (e u : Nat) (d : BitVec 128) : (s.raiseLog e u d).mnt = s.mnt := rfl
@[simp] theorem State.raiseLog_drains (s : State) (e u : Nat) (d : BitVec 128) : (s.raiseLog e u d).drains = s.drains := rfl
@[simp] theorem State.raiseLog_dar (s : State) (e u : Nat) (d : BitVec 128) : (s.raiseLog e u d).dar = s.dar := rfl
@[simp] theorem State.raiseLog_accU (s : State) (e u : Nat) (d : BitVec 128) : (s.raiseLog e u d).accU = s.accU := rfl
@[simp] theorem State.raiseLog_accV (s : State) (e u : Nat) (d : BitVec 128) : (s.raiseLog e u d).accV = s.accV := rfl
@[simp] theorem State.raiseLog_accAt (s : State) (e u : Nat) (d : BitVec 128) : (s.raiseLog e u d).accAt = s.accAt := rfl
@[simp] theorem State.raiseLog_decayAt (s : State) (e u : Nat) (d : BitVec 128) : (s.raiseLog e u d).decayAt = s.decayAt := rfl
@[simp] theorem State.raiseLog_deadNodes (s : State) (e u : Nat) (d : BitVec 128) : (s.raiseLog e u d).deadNodes = s.deadNodes := rfl
@[simp] theorem State.raiseLog_deadWalks (s : State) (e u : Nat) (d : BitVec 128) : (s.raiseLog e u d).deadWalks = s.deadWalks := rfl
@[simp] theorem State.raiseLog_ses (s : State) (e u : Nat) (d : BitVec 128) : (s.raiseLog e u d).ses = s.ses := rfl
@[simp] theorem State.raiseLog_cal (s : State) (e u : Nat) (d : BitVec 128) : (s.raiseLog e u d).cal = s.cal := rfl
@[simp] theorem State.raiseLog_fab (s : State) (e u : Nat) (d : BitVec 128) : (s.raiseLog e u d).fab = s.fab := rfl
@[simp] theorem State.raiseLog_pwr (s : State) (e u : Nat) (d : BitVec 128) : (s.raiseLog e u d).pwr = s.pwr := rfl
@[simp] theorem State.raiseLog_sent (s : State) (e u : Nat) (d : BitVec 128) : (s.raiseLog e u d).sent = s.sent := rfl
@[simp] theorem State.raiseLog_freeCtr (s : State) (e u : Nat) (d : BitVec 128) : (s.raiseLog e u d).freeCtr = s.freeCtr := rfl

@[simp] theorem State.note_pending (s : State) (e u : Nat) (d : BitVec 128) : (s.note e u d).pending = s.pending := rfl
@[simp] theorem State.note_fuses (s : State) (e u : Nat) (d : BitVec 128) : (s.note e u d).fuses = s.fuses := rfl
@[simp] theorem State.note_regs (s : State) (e u : Nat) (d : BitVec 128) : (s.note e u d).regs = s.regs := rfl
@[simp] theorem State.note_img (s : State) (e u : Nat) (d : BitVec 128) : (s.note e u d).img = s.img := rfl
@[simp] theorem State.note_boot (s : State) (e u : Nat) (d : BitVec 128) : (s.note e u d).boot = s.boot := rfl
@[simp] theorem State.note_flash (s : State) (e u : Nat) (d : BitVec 128) : (s.note e u d).flash = s.flash := rfl
@[simp] theorem State.note_mbx (s : State) (e u : Nat) (d : BitVec 128) : (s.note e u d).mbx = s.mbx := rfl
@[simp] theorem State.note_fine (s : State) (e u : Nat) (d : BitVec 128) : (s.note e u d).fine = s.fine := rfl
@[simp] theorem State.note_prm (s : State) (e u : Nat) (d : BitVec 128) : (s.note e u d).prm = s.prm := rfl
@[simp] theorem State.note_ports (s : State) (e u : Nat) (d : BitVec 128) : (s.note e u d).ports = s.ports := rfl
@[simp] theorem State.note_links (s : State) (e u : Nat) (d : BitVec 128) : (s.note e u d).links = s.links := rfl
@[simp] theorem State.note_hdl (s : State) (e u : Nat) (d : BitVec 128) : (s.note e u d).hdl = s.hdl := rfl
@[simp] theorem State.note_coh (s : State) (e u : Nat) (d : BitVec 128) : (s.note e u d).coh = s.coh := rfl
@[simp] theorem State.note_mnt (s : State) (e u : Nat) (d : BitVec 128) : (s.note e u d).mnt = s.mnt := rfl
@[simp] theorem State.note_drains (s : State) (e u : Nat) (d : BitVec 128) : (s.note e u d).drains = s.drains := rfl
@[simp] theorem State.note_dar (s : State) (e u : Nat) (d : BitVec 128) : (s.note e u d).dar = s.dar := rfl
@[simp] theorem State.note_accU (s : State) (e u : Nat) (d : BitVec 128) : (s.note e u d).accU = s.accU := rfl
@[simp] theorem State.note_accV (s : State) (e u : Nat) (d : BitVec 128) : (s.note e u d).accV = s.accV := rfl
@[simp] theorem State.note_accAt (s : State) (e u : Nat) (d : BitVec 128) : (s.note e u d).accAt = s.accAt := rfl
@[simp] theorem State.note_decayAt (s : State) (e u : Nat) (d : BitVec 128) : (s.note e u d).decayAt = s.decayAt := rfl
@[simp] theorem State.note_deadNodes (s : State) (e u : Nat) (d : BitVec 128) : (s.note e u d).deadNodes = s.deadNodes := rfl
@[simp] theorem State.note_deadWalks (s : State) (e u : Nat) (d : BitVec 128) : (s.note e u d).deadWalks = s.deadWalks := rfl
@[simp] theorem State.note_ses (s : State) (e u : Nat) (d : BitVec 128) : (s.note e u d).ses = s.ses := rfl
@[simp] theorem State.note_cal (s : State) (e u : Nat) (d : BitVec 128) : (s.note e u d).cal = s.cal := rfl
@[simp] theorem State.note_fab (s : State) (e u : Nat) (d : BitVec 128) : (s.note e u d).fab = s.fab := rfl
@[simp] theorem State.note_pwr (s : State) (e u : Nat) (d : BitVec 128) : (s.note e u d).pwr = s.pwr := rfl
@[simp] theorem State.note_sent (s : State) (e u : Nat) (d : BitVec 128) : (s.note e u d).sent = s.sent := rfl
@[simp] theorem State.note_freeCtr (s : State) (e u : Nat) (d : BitVec 128) : (s.note e u d).freeCtr = s.freeCtr := rfl

@[simp] theorem State.count_pending (s : State) (c n : Nat) : (s.count c n).pending = s.pending := by unfold State.count; split <;> rfl
@[simp] theorem State.count_fuses (s : State) (c n : Nat) : (s.count c n).fuses = s.fuses := by unfold State.count; split <;> rfl
@[simp] theorem State.count_regs (s : State) (c n : Nat) : (s.count c n).regs = s.regs := by unfold State.count; split <;> rfl
@[simp] theorem State.count_img (s : State) (c n : Nat) : (s.count c n).img = s.img := by unfold State.count; split <;> rfl
@[simp] theorem State.count_boot (s : State) (c n : Nat) : (s.count c n).boot = s.boot := by unfold State.count; split <;> rfl
@[simp] theorem State.count_flash (s : State) (c n : Nat) : (s.count c n).flash = s.flash := by unfold State.count; split <;> rfl
@[simp] theorem State.count_mbx (s : State) (c n : Nat) : (s.count c n).mbx = s.mbx := by unfold State.count; split <;> rfl
@[simp] theorem State.count_fine (s : State) (c n : Nat) : (s.count c n).fine = s.fine := by unfold State.count; split <;> rfl
@[simp] theorem State.count_prm (s : State) (c n : Nat) : (s.count c n).prm = s.prm := by unfold State.count; split <;> rfl
@[simp] theorem State.count_ports (s : State) (c n : Nat) : (s.count c n).ports = s.ports := by unfold State.count; split <;> rfl
@[simp] theorem State.count_links (s : State) (c n : Nat) : (s.count c n).links = s.links := by unfold State.count; split <;> rfl
@[simp] theorem State.count_hdl (s : State) (c n : Nat) : (s.count c n).hdl = s.hdl := by unfold State.count; split <;> rfl
@[simp] theorem State.count_coh (s : State) (c n : Nat) : (s.count c n).coh = s.coh := by unfold State.count; split <;> rfl
@[simp] theorem State.count_mnt (s : State) (c n : Nat) : (s.count c n).mnt = s.mnt := by unfold State.count; split <;> rfl
@[simp] theorem State.count_drains (s : State) (c n : Nat) : (s.count c n).drains = s.drains := by unfold State.count; split <;> rfl
@[simp] theorem State.count_dar (s : State) (c n : Nat) : (s.count c n).dar = s.dar := by unfold State.count; split <;> rfl
@[simp] theorem State.count_accU (s : State) (c n : Nat) : (s.count c n).accU = s.accU := by unfold State.count; split <;> rfl
@[simp] theorem State.count_accV (s : State) (c n : Nat) : (s.count c n).accV = s.accV := by unfold State.count; split <;> rfl
@[simp] theorem State.count_accAt (s : State) (c n : Nat) : (s.count c n).accAt = s.accAt := by unfold State.count; split <;> rfl
@[simp] theorem State.count_decayAt (s : State) (c n : Nat) : (s.count c n).decayAt = s.decayAt := by unfold State.count; split <;> rfl
@[simp] theorem State.count_deadNodes (s : State) (c n : Nat) : (s.count c n).deadNodes = s.deadNodes := by unfold State.count; split <;> rfl
@[simp] theorem State.count_deadWalks (s : State) (c n : Nat) : (s.count c n).deadWalks = s.deadWalks := by unfold State.count; split <;> rfl
@[simp] theorem State.count_ses (s : State) (c n : Nat) : (s.count c n).ses = s.ses := by unfold State.count; split <;> rfl
@[simp] theorem State.count_cal (s : State) (c n : Nat) : (s.count c n).cal = s.cal := by unfold State.count; split <;> rfl
@[simp] theorem State.count_fab (s : State) (c n : Nat) : (s.count c n).fab = s.fab := by unfold State.count; split <;> rfl
@[simp] theorem State.count_pwr (s : State) (c n : Nat) : (s.count c n).pwr = s.pwr := by unfold State.count; split <;> rfl
@[simp] theorem State.count_sent (s : State) (c n : Nat) : (s.count c n).sent = s.sent := by unfold State.count; split <;> rfl
@[simp] theorem State.count_freeCtr (s : State) (c n : Nat) : (s.count c n).freeCtr = s.freeCtr := by unfold State.count; split <;> rfl

@[simp] theorem State.drawn_pending (s : State) : (s.drawn).pending = s.pending := rfl
@[simp] theorem State.drawn_fuses (s : State) : (s.drawn).fuses = s.fuses := rfl
@[simp] theorem State.drawn_regs (s : State) : (s.drawn).regs = s.regs := rfl
@[simp] theorem State.drawn_img (s : State) : (s.drawn).img = s.img := rfl
@[simp] theorem State.drawn_boot (s : State) : (s.drawn).boot = s.boot := rfl
@[simp] theorem State.drawn_flash (s : State) : (s.drawn).flash = s.flash := rfl
@[simp] theorem State.drawn_mon (s : State) : (s.drawn).mon = s.mon := rfl
@[simp] theorem State.drawn_mbx (s : State) : (s.drawn).mbx = s.mbx := rfl
@[simp] theorem State.drawn_fine (s : State) : (s.drawn).fine = s.fine := rfl
@[simp] theorem State.drawn_prm (s : State) : (s.drawn).prm = s.prm := rfl
@[simp] theorem State.drawn_ports (s : State) : (s.drawn).ports = s.ports := rfl
@[simp] theorem State.drawn_links (s : State) : (s.drawn).links = s.links := rfl
@[simp] theorem State.drawn_hdl (s : State) : (s.drawn).hdl = s.hdl := rfl
@[simp] theorem State.drawn_coh (s : State) : (s.drawn).coh = s.coh := rfl
@[simp] theorem State.drawn_mnt (s : State) : (s.drawn).mnt = s.mnt := rfl
@[simp] theorem State.drawn_drains (s : State) : (s.drawn).drains = s.drains := rfl
@[simp] theorem State.drawn_dar (s : State) : (s.drawn).dar = s.dar := rfl
@[simp] theorem State.drawn_accU (s : State) : (s.drawn).accU = s.accU := rfl
@[simp] theorem State.drawn_accV (s : State) : (s.drawn).accV = s.accV := rfl
@[simp] theorem State.drawn_accAt (s : State) : (s.drawn).accAt = s.accAt := rfl
@[simp] theorem State.drawn_decayAt (s : State) : (s.drawn).decayAt = s.decayAt := rfl
@[simp] theorem State.drawn_deadNodes (s : State) : (s.drawn).deadNodes = s.deadNodes := rfl
@[simp] theorem State.drawn_deadWalks (s : State) : (s.drawn).deadWalks = s.deadWalks := rfl
@[simp] theorem State.drawn_ses (s : State) : (s.drawn).ses = s.ses := rfl
@[simp] theorem State.drawn_cal (s : State) : (s.drawn).cal = s.cal := rfl
@[simp] theorem State.drawn_fab (s : State) : (s.drawn).fab = s.fab := rfl
@[simp] theorem State.drawn_pwr (s : State) : (s.drawn).pwr = s.pwr := rfl
@[simp] theorem State.drawn_sent (s : State) : (s.drawn).sent = s.sent := rfl
@[simp] theorem State.drawn_freeCtr (s : State) : (s.drawn).freeCtr = s.freeCtr + 1 := rfl

end Sys2Proof.Machine
end

