-- ==== Sys2Proof/Laws/Regs.lean ====
section
/-! SUPPORT. Register fields and the register store: a read after a write. -/

namespace Sys2Proof.Machine
open Sys2Proof

theorem testBit_mask (lo width i : Nat) :
    ((2 ^ width - 1) <<< lo).testBit i = (decide (lo ≤ i) && decide (i < lo + width)) := by
  rw [Nat.testBit_shiftLeft, Nat.testBit_two_pow_sub_one]
  by_cases h : lo ≤ i
  · have : (i - lo < width) ↔ (i < lo + width) := by omega
    simp [h, this]
  · simp [h]

/-- A bit of a register after one of its fields is replaced. -/
theorem getLsbD_setFld (w : Word) (lo width v i : Nat) :
    (setFld w lo width v).getLsbD i =
      if lo ≤ i ∧ i < lo + width then (decide (i < 32) && v.testBit (i - lo)) else w.getLsbD i := by
  unfold setFld fldMask
  rw [BitVec.getLsbD_or, BitVec.getLsbD_and, BitVec.getLsbD_and, BitVec.getLsbD_not, BitVec.getLsbD_ofNat,
    BitVec.getLsbD_ofNat, testBit_mask, Nat.testBit_shiftLeft]
  by_cases h1 : lo ≤ i <;> by_cases h2 : i < lo + width <;> by_cases h3 : i < 32 <;> simp [h1, h2, h3]
  all_goals first
    | rfl
    | (exact (BitVec.getLsbD_of_ge w i (by omega)).symm)
    | (rw [BitVec.getLsbD_of_ge w i (by omega)])

theorem testBit_fld (w : Word) (lo width i : Nat) :
    (fld w lo width).testBit i = (decide (i < width) && w.getLsbD (lo + i)) := by
  unfold fld
  rw [Nat.testBit_mod_two_pow, Nat.testBit_shiftRight]; rfl

/-- The field that was written reads as the value, cut to the field's width. -/
theorem fld_setFld (w : Word) (lo width v : Nat) (h : lo + width ≤ 32) :
    fld (setFld w lo width v) lo width = v % 2 ^ width := by
  apply Nat.eq_of_testBit_eq
  intro i
  rw [testBit_fld, getLsbD_setFld, Nat.testBit_mod_two_pow]
  by_cases hi : i < width
  · have h1 : lo ≤ lo + i ∧ lo + i < lo + width := by omega
    have h2 : lo + i < 32 := by omega
    simp [hi, h2]
  · simp [hi]

/-- A field that does not meet the one written keeps its value. -/
theorem fld_setFld_disjoint (w : Word) (lo width v lo' width' : Nat) (h : lo' + width' ≤ lo ∨ lo + width ≤ lo') :
    fld (setFld w lo width v) lo' width' = fld w lo' width' := by
  apply Nat.eq_of_testBit_eq
  intro i
  rw [testBit_fld, testBit_fld, getLsbD_setFld]
  by_cases hi : i < width'
  · rw [if_neg (by omega)]
  · simp [hi]

/-- A register after a write: the value at the offset written, and what stood there at any other. -/
theorem State.rg_wr {s : State} (h : Sparse.wf regReset s.regs = true) (o v o') :
    (s.wr o v).rg o' = if o = o' then v else s.rg o' := Sparse.get_set o o' v h

theorem State.rg_wr_same {s : State} (h : Sparse.wf regReset s.regs = true) (o v) : (s.wr o v).rg o = v := by
  rw [State.rg_wr h, if_pos rfl]

theorem State.rg_wr_other {s : State} (h : Sparse.wf regReset s.regs = true) {o o'} (v) (hne : o ≠ o') :
    (s.wr o v).rg o' = s.rg o' := by
  rw [State.rg_wr h, if_neg hne]

theorem State.wr_regs_wf {s : State} (h : Sparse.wf regReset s.regs = true) (o v) :
    Sparse.wf regReset (s.wr o v).regs = true := Sparse.set_wf o v h

/-- What is reported leaves every register as it was. -/
@[simp] theorem State.rg_report (s : State) (l o) : (s.report l).rg o = s.rg o := rfl
@[simp] theorem State.rg_raise (s : State) (e u o) : (s.raise e u).rg o = s.rg o := rfl
@[simp] theorem State.rg_raiseLog (s : State) (e u d o) : (s.raiseLog e u d).rg o = s.rg o := rfl
@[simp] theorem State.rg_raiseBare (s : State) (e u o) : (s.raiseBare e u).rg o = s.rg o := rfl
@[simp] theorem State.rg_note (s : State) (e u d o) : (s.note e u d).rg o = s.rg o := rfl
@[simp] theorem State.rg_count (s : State) (c n o) : (s.count c n).rg o = s.rg o := by
  unfold State.count; split <;> rfl
@[simp] theorem State.rf_raise (s : State) (e u f) : (s.raise e u).rf f = s.rf f := rfl
@[simp] theorem State.rf_raiseLog (s : State) (e u d f) : (s.raiseLog e u d).rf f = s.rf f := rfl
@[simp] theorem State.rf_raiseBare (s : State) (e u f) : (s.raiseBare e u).rf f = s.rf f := rfl

/-- A field after a write of the same field, of another field of its register, or of another register. -/
theorem State.rf_wf_same {s : State} (h : Sparse.wf regReset s.regs = true) (f : RField) (v) (hf : f.lo + f.width ≤ 32) :
    (s.wf f v).rf f = v % 2 ^ f.width := by
  unfold State.rf State.wf
  rw [State.rg_wr_same h, fld_setFld _ _ _ _ hf]

theorem State.rf_wf_field {s : State} (h : Sparse.wf regReset s.regs = true) (f g : RField) (v)
    (hg : g.lo + g.width ≤ f.lo ∨ f.lo + f.width ≤ g.lo) : (s.wf f v).rf g = s.rf g := by
  unfold State.rf State.wf
  rw [State.rg_wr h]
  split
  · next e => rw [fld_setFld_disjoint _ _ _ _ _ _ hg, e]
  · rfl

theorem State.rg_wf_other {s : State} (h : Sparse.wf regReset s.regs = true) (f : RField) (v o) (ho : f.off ≠ o) :
    (s.wf f v).rg o = s.rg o := State.rg_wr_other h _ ho

theorem State.rg_wb_other {s : State} (h : Sparse.wf regReset s.regs = true) (f : RField) (b o) (ho : f.off ≠ o) :
    (s.wb f b).rg o = s.rg o := State.rg_wr_other h _ ho

theorem State.wf_regs_wf {s : State} (h : Sparse.wf regReset s.regs = true) (f v) :
    Sparse.wf regReset (s.wf f v).regs = true := State.wr_regs_wf h _ _

theorem State.wb_regs_wf {s : State} (h : Sparse.wf regReset s.regs = true) (f b) :
    Sparse.wf regReset (s.wb f b).regs = true := State.wr_regs_wf h _ _

theorem State.rb_wb_same {s : State} (h : Sparse.wf regReset s.regs = true) (f : RField) (b) (hf : f.lo + f.width ≤ 32)
    (hw : f.width = 1) : (s.wb f b).rb f = b := by
  unfold State.rb State.wb
  rw [State.rf_wf_same h f _ hf, hw]
  cases b <;> rfl

theorem State.rb_wb_field {s : State} (h : Sparse.wf regReset s.regs = true) (f g : RField) (b)
    (hg : g.lo + g.width ≤ f.lo ∨ f.lo + f.width ≤ g.lo) : (s.wb f b).rb g = s.rb g := by
  unfold State.rb State.wb
  rw [State.rf_wf_field h f g _ hg]

end Sys2Proof.Machine
end

