-- ==== Sys2Proof/Laws/Report.lean ====
section
/-! SUPPORT. What a report does to the pending bits: it sets the bit of every source raised, and clears none (R387). -/

namespace Sys2Proof.Machine
open Sys2Proof

theorem Events.settle_pend (e : Events) : (Events.settle e).pend = e.pend := by
  unfold Events.settle; split <;> rfl

/-- A raising ORs the bit of its source into the pending bits; a reserved source has none. -/
theorem Monitor.raise_pend (m : Monitor) (e : MonEnv) (ev unit : Nat) (seq : Word) :
    (m.raise e ev unit seq).1.ev.pend = if evReserved ev then m.ev.pend else m.ev.pend ||| BitVec.ofNat 288 (2 ^ ev) := by
  unfold Monitor.raise
  split
  · rfl
  · dsimp only
    split
    · rfl
    · dsimp only
      repeat' first
        | rfl
        | rw [Events.settle_pend]
        | split

theorem Monitor.occ_pend_mono (m : Monitor) (e : MonEnv) (o : Occ) (i : Nat) (h : m.ev.pend.getLsbD i = true) :
    (m.occ e o).1.ev.pend.getLsbD i = true := by
  cases o with
  | raise ev unit seq =>
    show (m.raise e ev unit seq).1.ev.pend.getLsbD i = true
    rw [Monitor.raise_pend]
    split
    · exact h
    · rw [BitVec.getLsbD_or, h, Bool.true_or]
  | log ev unit raised detail => exact h
  | count sel n =>
    show (m.count sel n).1.ev.pend.getLsbD i = true
    unfold Monitor.count
    dsimp only
    split
    · exact h
    · split <;> exact h

/-- No report clears a pending bit. -/
theorem Monitor.run_pend_mono (e : MonEnv) (i : Nat) :
    ∀ (n : Nat) (l : List Occ) (m : Monitor), m.ev.pend.getLsbD i = true → (Monitor.run e n l m).ev.pend.getLsbD i = true
  | 0, _, _, h => by simpa [Monitor.run] using h
  | _ + 1, [], _, h => by simpa [Monitor.run] using h
  | n + 1, o :: t, m, h => by
    unfold Monitor.run
    exact Monitor.run_pend_mono e i n _ _ (Monitor.occ_pend_mono m e o i h)

/-- A source that is raised is pending afterwards. -/
theorem State.raise_pend (s : State) (ev unit : Nat) (h : evReserved ev = false) :
    (s.raise ev unit).mon.ev.pend.getLsbD ev = true := by
  have hlt : ev < 288 := by
    by_contra hc
    simp [evReserved] at h
    omega
  show (Monitor.run s.monEnv (64 * 1 + 63 + 1) [.raise ev unit noSeq] s.mon).ev.pend.getLsbD ev = true
  unfold Monitor.run
  apply Monitor.run_pend_mono
  show (s.mon.raise s.monEnv ev unit noSeq).1.ev.pend.getLsbD ev = true
  rw [Monitor.raise_pend, if_neg (by simp [h]), BitVec.getLsbD_or, BitVec.getLsbD_ofNat]
  simp [hlt]

/-- A source that is raised with a log entry is pending afterwards. -/
theorem State.raiseLog_pend (s : State) (ev unit : Nat) (d : BitVec 128) (h : evReserved ev = false) :
    (s.raiseLog ev unit d).mon.ev.pend.getLsbD ev = true := by
  have hlt : ev < 288 := by
    by_contra hc
    simp [evReserved] at h
    omega
  show (Monitor.run s.monEnv (64 * 1 + 62 + 1 + 1) [.log ev unit true d] s.mon).ev.pend.getLsbD ev = true
  unfold Monitor.run
  dsimp only
  rw [show (s.mon.occ s.monEnv (.log ev unit true d)).2 ++ [] = .raise ev unit s.mon.log.wseq ::
    ((s.mon.occ s.monEnv (.log ev unit true d)).2 ++ []).tail from rfl]
  unfold Monitor.run
  apply Monitor.run_pend_mono
  show (Monitor.raise _ s.monEnv ev unit s.mon.log.wseq).1.ev.pend.getLsbD ev = true
  rw [Monitor.raise_pend, if_neg (by simp [h]), BitVec.getLsbD_or, BitVec.getLsbD_ofNat]
  simp [hlt]

theorem State.raiseBare_pend (s : State) (ev unit : Nat) (h : evReserved ev = false) :
    (s.raiseBare ev unit).mon.ev.pend.getLsbD ev = true := State.raiseLog_pend s ev unit _ h

theorem State.report_pend_mono (s : State) (o : List Occ) (i : Nat) (h : s.mon.ev.pend.getLsbD i = true) :
    (s.report o).mon.ev.pend.getLsbD i = true := Monitor.run_pend_mono _ i _ _ _ h

theorem State.count_pend_mono (s : State) (c n i : Nat) (h : s.mon.ev.pend.getLsbD i = true) :
    (s.count c n).mon.ev.pend.getLsbD i = true := by
  unfold State.count; split
  · exact h
  · exact State.report_pend_mono _ _ _ h

end Sys2Proof.Machine
end

