-- ==== Sys2Proof/WellFormed.lean ====
section
/-! DEFINITION. Which commands are well formed: operands that the table of commands cannot carry are refused here. The
machine's meanings are total and do not depend on it. -/

namespace Sys2Proof

/-- A promise class is P0, P1 or P2 (R55); no credit of a class 0b11 exists. Requests may carry 0b11 (Table 11.2). -/
def clsOk (c : BitVec 2) : Bool := c.toNat < 3

/-- Loads are whole percents (R174). -/
def PaceSample.wf (r : PaceSample) : Bool :=
  r.chanLoad.toList.all (fun x => decide (x ≤ 100)) && r.memLoad.toList.all (fun x => decide (x ≤ 100))

/-- A flash reports a size and a clock (R403). -/
def FlashInfo.wf (f : FlashInfo) : Bool := decide (0 < f.clockMHz) && decide (0 < f.size)

def flashOk : Option FlashInfo → Bool
  | none => true
  | some f => f.wf

/-- Well-formed commands. -/
def Instr.wf : Instr → Bool
  | .powerOnReset f => flashOk f
  | .pinReset f => flashOk f
  | .vinRise f => flashOk f
  | .tripRecovery f => flashOk f
  | .paceReading r => r.wf
  | .creditRelease _ _ c _ => clsOk c
  -- a frame's payload is at most 256 bytes (R416): slot, offset and up to 251 bytes
  | .imgWrite _ _ _ b => decide (b.length ≤ 251)
  | _ => true

end Sys2Proof
end

