-- ==== Sys2Proof/Tests/Slice0.lean ====
section
/-! SUPPORT. Tests of the model: ill-formed commands are refused, the worked examples of the spec come out as the spec
gives them, single commands do what their rules say, and every obligation has a witness of its hypotheses. -/

namespace Sys2Proof.Tests
open Sys2Proof Sys2Proof.Machine

set_option maxRecDepth 100000
set_option exponentiation.threshold 2000

/-! ### Ill-formed commands -/

def badFlash : FlashInfo := { mode := .m111, clockMHz := 0, size := 8, erase4K := true, page256 := true }
def goodFlash : FlashInfo := { mode := .m111, clockMHz := 50, size := 8, erase4K := true, page256 := true }
def sample (load : Nat) (now : BitVec 10) : PaceSample :=
  { islands := Vector.replicate 34 now, sublinks := Vector.replicate 16 now, chanLoad := Vector.replicate 8 load,
    memLoad := Vector.replicate 2 20 }
def frame0 : Frame := { tr := .i3c, seq := 7, mac := 0 }

theorem test_wf_flash : (Instr.powerOnReset (some badFlash)).wf = false ∧ (Instr.pinReset (some badFlash)).wf = false ∧
    (Instr.vinRise (some badFlash)).wf = false ∧ (Instr.tripRecovery (some badFlash)).wf = false ∧
    (Instr.powerOnReset (some goodFlash)).wf = true ∧ (Instr.powerOnReset none).wf = true := by decide
theorem test_wf_pace : (Instr.paceReading (sample 101 5)).wf = false ∧ (Instr.paceReading (sample 100 5)).wf = true := by decide
theorem test_wf_class : (Instr.creditRelease .agent 0 3 0).wf = false ∧ (Instr.creditRelease .agent 0 2 0).wf = true := by decide
theorem test_wf_frame : (Instr.imgWrite frame0 0 0 (List.replicate 252 0)).wf = false ∧
    (Instr.imgWrite frame0 0 0 (List.replicate 251 0)).wf = true := by decide
theorem test_no_word : decodeTableWord 32 7 = none := by decide

/-! ### The worked examples of the spec -/

/-- Examples of 01_placement.md and 03_cache_organisation.md: one address, its node, die, slice, channel, set, tag and
place in memory. -/
def exampleSa : SysAddr := 0x5581234567880

theorem test_example_placement : nodeOf exampleSa = 171 ∧ coordOf 171 0 = 3 ∧ coordOf 171 1 = 5 ∧ coordOf 171 2 = 2 ∧
    spaceOf exampleSa = .memory ∧ dieBit (lineOf exampleSa) = false ∧
    memIndex (lineOf exampleSa) = 0x12345678 := by decide
theorem test_example_slot : (sliceOf (lineOf exampleSa)).val = 10 ∧ chanOf false 10 = 2 ∧
    setIdx 8192 (lineOf exampleSa) = 0x567 ∧ tagOf 8192 (lineOf exampleSa) = 0x2AC091A := by decide
theorem test_example_line_of_tag : lineOfTag 8192 10 0x567 0x2AC091A = lineOf exampleSa := by decide
/-- The flip of STATE bit 0 of 03_cache_organisation.md. -/
theorem test_example_tag_code : tagH 27 = 34 := by decide
/-- 10_integrity.md: the codeword of two information bits, and its decoding with one and with two errors. -/
theorem test_example_codeword : encodeWord 3 false = 0x0B320000000000000003 := by decide
theorem test_example_one_error : decodeWord 0x0B320000000000000001 = .corrected 0x0B320000000000000003 := by decide
theorem test_example_two_errors : decodeWord 0x0B320000000000000011 = .corrected 0x0B320000000000000003 := by decide
/-- 12_registers_events.md: the address of SLC_PACE of S20 on node 3, and a mailbox selector. -/
theorem test_example_csr : csrAddr 3 0x01140040 = 0x1FFFF1140040 ∧ csrBlock 0x01140040 = some (.slice, 20, 0x40) := by decide
theorem test_example_selector : selKind 0x00018A01 = 1 ∧ selInst 0x00018A01 = 10 ∧ selIndex 0x00018A01 = 6 := by decide
/-- 13_startup_sessions_time.md: CSR_RD of GLB_ID and its reply. -/
theorem test_example_session : (cmdFrame { frame0 with seq := 1 } 0x10 (leBytes 4 0 ++ [1])).head =
      [0x10, 0, 5, 0, 1, 0, 0, 0, 0, 0, 0, 0, 1] ∧
    replyHead 0x10 0 1 (leBytes 4 (State.reset.csrRead 0).toNat) = [0x10, 0, 4, 0, 1, 0, 0, 0, 0x69, 0x11, 0x21, 0x51] := by decide
/-- 14_power.md: 0.80 V with EXP −9, and the address of a seed record. -/
theorem test_example_vout : voutWord 800 (-9) = 0x19A := by decide
theorem test_example_seed_line : lineOf 0x0001234567880 = 0x2468ACF1 % 2 ^ 45 := by decide
/-- 06_coherence.md: a full set of pointers becomes coarse. -/
theorem test_example_sharers :
    let e : DirEntry := { dirFree with st := dSH, sharers := ((((({ dirFree with st := dSH } : DirEntry).addSharer 5).1.addSharer 17).1.addSharer
      130).1.addSharer 301).1.sharers }
    (e.addSharer 402).1.fmt = true ∧ (e.addSharer 402).1.sharers = 0x0004002000010005 := by decide
/-- FIPS 180-4's example, and the check value of CRC-32C. -/
theorem test_sha256 : sha256 [0x61, 0x62, 0x63] =
    beBytes 32 0xba7816bf8f01cfea414140de5dae2223b00361a396177a9cb410ff61f20015ad := by decide
theorem test_crc32c : crc32c [0x31, 0x32, 0x33, 0x34, 0x35, 0x36, 0x37, 0x38, 0x39] = 0xE3069283 := by decide

/-! ### States -/

/-- Node 0 of a fabric of two nodes in X, in RUN: A0 and A1 with caching agents, A3 and A4 with non-caching ones, links L0 and
L1, every channel and both memories trained, 4 GiB behind each port, all of it WBA. -/
def demo : State :=
  let s := { State.reset with
    img := { ImageSetup.reset with kinds := #v[.caching, .caching, .off, .nonCaching, .nonCaching, .off],
                                   regions := [{ base := 0, size := 42, policy := pWBA, valid := true }] }
    boot := { State.reset.boot with running := true }
    fine := 100000000000 }
  let s := s.wf F.IMG_STAT.STAGE 8
  let s := s.wr Reg.GLB_NODE 0x200
  let s := s.wf F.GLB_MEMMAP.PORT_CAP 1
  let s := [0, 1, 3, 4].foldl (fun s (p : Port) => s.wf (F.AGP_LINK_STAT.STATE p) stActive) s
  let s := [0, 1].foldl (fun s (l : LinkNo) => s.wf (F.STL_LINK_STAT.STATE l) stActive) s
  let s := (fins 8).foldl (fun s (c : ChanNo) => (s.wb (F.CMI_CTL.EN c) true).wb (F.CMI_STAT.TRAINED c) true) s
  (fins 2).foldl (fun s (m : MemNo) => s.wb (F.MEM_STAT.TRAINED m) true) s

def coh (s : State) (f : Coh → Coh) : State := { s with coh := f s.coh }
def port0 (f : PortSt → PortSt) : State := demo.setPort 0 f
def port3 (f : PortSt → PortSt) : State := demo.setPort 3 f
def pw (st : PState) (step : Nat) : State := { demo with pwr := { demo.pwr with st := st, step := step } }

/-- A line of node 0, and its slot in way 3. -/
def lineA : LineAddr := 0x1234
def keyA : Nat := slotKey (sliceOf lineA).val (setIdx 2048 lineA) 3
/-- The line in its slot, in a state. -/
def inCache (s : State) (st : BitVec 3) : State :=
  coh s (fun c => { (c.putTag keyA (mkTag (tagOf 2048 lineA) st 2 false false)).writeSlot s keyA 12345 with fx := [], wake := false })
def req (src : ReqSrc) (op : ReqOp) (tag : Tag) : Req := { src := src, op := op, line := lineA, tag := tag, point := 3 }
def hdr1 : FabHdr := { src := 1, rqn := 1, rtrk := 5, htrk := 6, bounded := false, line := lineA }
/-- A tag in use at A0. -/
def busy9 (s : State) : State := s.setPort 0 (fun x => { x with
  tags := [{ tag := 9, at_ := 0, ceiling := false, ended := false, point := 3 }], points := [{ id := 3, isWrite := false }] })

/-- What a command leaves. -/
def after (o : Host.Outcome State Fault Refusal) (p : State → Bool) : Bool :=
  match o with
  | .next t => p t
  | _ => false

/-! ### Single commands -/

/-- R373: a misaligned register write raises EV001 and writes nothing. -/
theorem test_csr_misaligned : after (exec (.csrWrite 0x1300001 5) demo) (fun t => t.mon.ev.pend.getLsbD 1 && t.regs == demo.regs) := by
  decide
/-- R393: bit 3 of EVT_SW raises EV259. -/
theorem test_event_software : after (exec (.evtSwWrite 8) demo) (fun t => t.mon.ev.pend == BitVec.ofNat 288 (2 ^ 259)) := by decide
/-- R388: the route of the source that INDEX names. -/
theorem test_event_route : after (exec (.evtRteWrite 0x1F) (demo.wf F.EVT_RTE_IDX.INDEX 42)) (fun t =>
    t.mon.ev.route 42 == 0x1F && t.mon.ev.route 41 == demo.mon.ev.route 41) := by decide
/-- R83, Table 2.10: with no promise in flight a switch starts at once and completes. -/
theorem test_mode_switch : after (exec (.prmModeWrite 8) demo) (fun t => t.switching && t.curMode == 1) ∧
    after (exec .modeSwitchComplete ((demo.wb F.GLB_PRM_MODE.SWITCHING true).wf F.GLB_PRM_MODE.REQ_MODE 2)) (fun t =>
      t.curMode == 2 && !t.switching) := by decide
/-- R423: a tick of 512,000,000,000 / 2^24 ns. -/
theorem test_calendar_tick : after (exec .calendarTick { demo with cal := { demo.cal with sec := 1, ns := 999990000 } }) (fun t =>
    t.cal.sec == 2 && t.cal.ns == 20517 && t.cal.frac == 9699328) := by decide
/-- R441: FALLOW is refused where the fabric has more than one node. -/
theorem test_fallow_refused : after (exec (.fallowRequest .csr) (demo.wb F.PWR_CTL.SLP_EN true)) (fun t =>
    t.rb F.PWR_STAT.REFUSED && t.rf F.PWR_STAT.CAUSE == 1 && t.pwr.st == .run) := by decide
/-- R454: 135 °C trips the device. -/
theorem test_trip : after (exec (.thermalReading 100 540) demo) (fun t => t.pwr.st == .trip && !t.mainEn) := by decide
/-- R346: a VCC slot of class 0 returns device request buffers. -/
theorem test_vcc : after (exec (.vcc (.port 3) 0x50) demo) (fun t => (t.port 3).dreqCred == (demo.port 3).dreqCred + 5) := by decide
/-- R234, Table 7.3: a node without the line answers FInv with FInvAck. -/
theorem test_finv : after (exec (.finv hdr1) demo) (fun t => (t.sent.filter (fun x => !isBeat x)).length == 1) := by decide
/-- R250: WrB of a line that no entry names is answered with WbCmp. -/
theorem test_wrb : after (exec (.wrb { port := 0, cls := 2, tag := 9, ch := 0, addr := 0x91A00 } { bytes := 5, poison := 0 }) demo)
    (fun t => t.sent.filter (fun x => !isBeat x) == [.agent 0 { opc := opWbCmp, tag := 9 }]) := by decide

/-! ### Witnesses: each obligation's hypotheses are met, clause by clause -/

theorem witness_StepRunsFront : ({ demo with pending := [.rtcLoad, .enec] } : State).pending = .rtcLoad :: [.enec] := by decide
theorem witness_StepIdles : demo.pending = [] ∧ Inv demo ∧ Still demo := by decide
theorem witness_StepKeepsInv : Inv demo ∧ after (step demo) (fun _ => true) ∧
    after (step { demo with pending := [.evtSwWrite 1] }) (fun _ => true) := by decide
theorem witness_StepKeepsFuses : after (step { demo with fuses := { pkhSet := true, pkh := 5 } }) (fun t => t.fuses.pkh == 5) := by
  decide
theorem witness_EveryCommandCompletes : Inv demo := by decide
theorem witness_NodeIdHoldsCoordinates : 7 < 8 ∧ 0 < 8 ∧ 5 < 8 ∧ nodeOf (BitVec.ofNat 52 (2 ^ 43 * 327)) = 7 + 8 * 0 + 64 * 5 ∧
    ((BitVec.ofNat 52 (2 ^ 43 * 327)).extractLsb' 43 3).toNat = 7 ∧ ((BitVec.ofNat 52 (2 ^ 43 * 327)).extractLsb' 46 3).toNat = 0 ∧
    ((BitVec.ofNat 52 (2 ^ 43 * 327)).extractLsb' 49 3).toNat = 5 := by decide
theorem witness_ListedLinesAreRecovered : 511 < 512 ∧ 2 ^ 35 - 1 < 2 ^ 35 ∧ lineHome (BitVec.ofNat 45 (511 * 2 ^ 36 + 5)) = 511 := by
  decide
def stopped : State := (demo.wr (Reg.SLC_WAY_EN 5) 0x6).wr (Reg.SLC_WAY_STAT 5) 0xFFF9
theorem witness_WaysSetAgain : Inv stopped ∧ Serving stopped ∧ bit (stopped.rg (Reg.SLC_WAY_EN (5 : SliceNo))) (3 : Fin 16).val = false ∧
    bit (stopped.rg (Reg.SLC_WAY_STAT (5 : SliceNo))) (3 : Fin 16).val = true ∧ bit 0xE (3 : Fin 16).val = true ∧
    bit 0x6 (3 : Fin 16).val = false := by decide
def pkt (b : Bool) : StilePkt := { hdr := stileHdr { opc := 5, dst := 1, src := 2, line := 77, bounded := b }, payload := .none }
def late : StileWait := { pkt := pkt true, since := 4, size := 1 }
def best : StileWait := { pkt := pkt false, since := 4, size := 1 }
def queued (l : List StileWait) : State := demo.setStile 0 (fun x => { x with wait := l, cred := Vector.replicate 10 0, bcred := 0 })
theorem witness_BoundedPacketsEscape : ((queued [best, late, late]).stile 0).wait = [best] ++ late :: [late] ∧
    (∀ x ∈ [best], hdrB x.pkt.hdr = false ∨ (queued [best, late, late]).fine < x.since + 1000) ∧ hdrB late.pkt.hdr = true ∧
    late.since + 1000 ≤ (queued [best, late, late]).fine := by decide
theorem witness_MemoryReadsBack : (∀ m : MemNo, Memory.wf ((demo.coh.writeMem 5 7).ddr.get m) = true) ∧
    lineHome lineA = lineHome (lineA + 1) := by decide

def rhdr (p : Port) : ReqHdr := { port := p, cls := 2, tag := 9, ch := BitVec.ofNat 3 (demo.chanOfLine lineA).val, addr := saOf lineA }
theorem witness_RequestsReachTheirSlice : Unheld demo 0 9 ∧ demo.caching 0 = true ∧ spaceOf (rhdr 0).addr = .memory ∧
    demo.addrBad (rhdr 0).addr = false ∧ demo.policyOf (rhdr 0).addr = pWBA ∧
    (rhdr 0).ch.toNat = (demo.chanOfLine (lineOf (rhdr 0).addr)).val ∧ aligned (rhdr 0).addr.toNat (7 : BitVec 3).toNat = true ∧
    (atomicSizes (0 : BitVec 4).toNat).contains (3 : BitVec 3).toNat = true ∧
    Unheld demo 3 9 ∧ saOf lineA = BitVec.ofNat 9 demo.node ++ ((rhdr 3).addr.setWidth 48).setWidth 43 ∧ demo.kind 3 = .nonCaching ∧
    demo.translated 3 = false ∧ ((rhdr 3).addr.setWidth 48).toNat < 2 ^ 43 ∧ demo.homeServes hdr1.line = true := by decide
def served : State := busy9 (inCache demo tE)
theorem witness_SliceServesRequests : Inv served ∧ Idle served ∧ served.coh.wake = false ∧ served.isHome lineA = true ∧
    Sound served lineA ∧ Clear served (.port 0) ∧ served.coh.blocked lineA = false ∧ served.coh.pressOf lineA = none ∧
    served.coh.hamperOf lineA = none ∧ served.coh.snfOf lineA = none ∧ served.coh.dirOf lineA = none ∧ served.accepts 0 = true ∧
    served.tagEnded 0 9 = false ∧ served.coh.hitSlot served lineA = some keyA ∧ (served.coh.tag keyA).st = tE ∧
    (255 : ByteMask) ≠ 0 ∧ served.policy lineA = pWBA ∧ (served.coh.pressIn (sliceOf lineA).val).length < 32 := by decide

def fence7 : FenceSt := { id := 7, kind := .w, tag := 0, nb := false, waits := [] }
theorem witness_FencesWait : demo.takes 0 = true ∧ Idle demo ∧ demo.tagHeld 0 9 = false ∧ (∀ x ∈ demo.coh.press, x.policy ≠ pDEV) ∧
    (port3 (fun x => { x with fences := [fence7] })).takes 3 = true ∧
    ((port3 (fun x => { x with fences := [fence7] })).port 3).fences = fence7 :: [] ∧ fence7.tag = 0 ∧ fence7.waits = [] ∧
    ((port3 (fun x => { x with fences := [fence7] })).port 3).front = [] ∧
    ((port3 (fun x => { x with fences := [fence7] })).ptu 3).anyDue = false ∧
    Clear (port3 (fun x => { x with fences := [fence7] })) (.port 3) := by decide
def ordered (strm : BitVec 4) (id : Nat) : PwqEntry := { strm := strm, addr := saOf (lineA + BitVec.ofNat 45 id), cl := 5, mask := 255, id := id, divert := false }
def pwq3 : State := port3 (fun x => { x with pwq := { x.pwq with head := [ordered 1 2, ordered 2 3, ordered 2 9], busy := [(1, 1)] } })
def eventRec : EvEntry := { time := 1, event := 3, unit := 1, flags := 0, logSeq := 3 }
def evQueue (tail mid : Nat) : State := { demo with mon := { demo.mon with ev := { demo.mon.ev with
  tail := List.replicate tail eventRec, midCount := mid, midAt := 65530 } } }
def owner3 : State := demo.wr Reg.GLB_MMIO_OWN0 0xFFFFF3FF
/-- An ordered write to window 2, which A3 owns. -/
def toWindow : PwqEntry := { ordered 2 3 with addr := 0x60000000000 + 2 * 2 ^ 36 + 640 }
def pwqDev : State := owner3.setPort 3 (fun x => { x with pwq := { x.pwq with head := [ordered 1 2, toWindow], busy := [(1, 1)] } })
theorem witness_OrderedWritesAndSpills_issue : Inv pwq3 ∧ Serving pwq3 ∧ pwq3.kind 3 = .nonCaching ∧ pwq3.pwr.st ≠ .fallowEntry ∧
    (pwq3.pwq 3).head.find? (fun x => pwq3.mayIssue 3 x) = some (ordered 2 3) ∧ spaceOf (ordered 2 3).addr = .memory ∧
    Inv pwqDev ∧ (pwqDev.pwq 3).head.find? (fun x => pwqDev.mayIssue 3 x) = some toWindow ∧ spaceOf toWindow.addr = .mmio 2 ∧
    nodeOf toWindow.addr = pwqDev.node ∧ pwqDev.windowStat 2 = 0 := by decide
def flushed : State := port3 (fun x => { x with pwq := { x.pwq with flush := some [] } })
theorem witness_OrderedWritesAndSpills_flush : Inv flushed ∧ (flushed.pwq 3).flush = some [] := by decide
theorem witness_OrderedWritesAndSpills_write : Inv (evQueue 12 65528) ∧ Idle (evQueue 12 65528) ∧
    12 ≤ (evQueue 12 65528).mon.ev.tail.length ∧ (evQueue 12 65528).mon.ev.midCount + 8 ≤ 65536 ∧
    0 < (evQueue 12 65528).mon.ev.midCount := by decide
theorem witness_OrderedWritesAndSpills_read : Inv (evQueue 0 9) ∧ Idle (evQueue 0 9) ∧
    (let l := (evQueue 0 9).evLine (evQueue 0 9).mon.ev.midAt
     let r := (evQueue 0 9).coh.readMem (evQueue 0 9) l
     r = (r.1, (evQueue 0 9).coh.ctr (ctrSel 4 (memOf l) 0x10)) ∧ linePoison r.1 = 0) ∧
    8 < (evQueue 0 9).mon.ev.midCount ∧ (evQueue 0 9).mon.ev.head.length ≤ 8 := by decide
def spilled : State := (demo.wf F.GLB_SPILL_CFG.A3_MIB 1).setPort 3 (fun x => { x with pwq := { x.pwq with
  midIds := [4, 5], tail := List.replicate 24 (ordered 1 2) } })
theorem witness_OrderedWritesAndSpills_spill : Inv spilled ∧ Idle spilled ∧ 24 ≤ (spilled.pwq 3).tail.length ∧
    (spilled.pwq 3).midIds ≠ [] ∧ (spilled.pwq 3).midIds.length + 8 ≤ spilled.pwqShare 3 ∧
    (spilled.pwq 3).midIds.drop (spilled.pwq 3).back.length ≠ [] ∧
    (spilled.pwq 3).head.length + (spilled.pwq 3).back.length ≤ 24 := by decide

def devReq (k : DevKind) : DevReq :=
  { src := .agent 0 9 3, kind := k, window := 2, addr := 0x44, sz := 2, data := { bytes := 7, mask := 3, poison := 0 }, tag := 1 }
def devWait (k : DevKind) : State := (busy9 demo).setPort 3 (fun x => { x with dreqQ := [devReq k], dreqCred := 2 })
def devDead : State := (devWait .dRd).wb (F.AGP_DEAD_CTL.DEAD 3) true
def devOut (k : DevKind) : State := (busy9 demo).setPort 3 (fun x => { x with dreqOut := [devReq k] })
def nodeReq : DevReq := { devReq .dWrN with src := .node 1 5 }
def windowHdr : FabHdr := { hdr1 with line := BitVec.ofNat 45 (0x60000000000 / 128 + 2 * 2 ^ 29 + 5) }
theorem witness_DeviceRequestsAreServed_deliver : ∀ k ∈ [DevKind.dRd, .dWrP], Still (devWait k) ∧
    ((devWait k).port 3).dreqQ = devReq k :: [] ∧ (devWait k).dead 3 = false ∧ (devWait k).portActive 3 = true ∧
    (devWait k).accepts 3 = true ∧ 0 < ((devWait k).port 3).dreqCred ∧ Clear (devWait k) (.port 3) ∧
    ((devWait k).port 3).devLeft = [] ∧ (∀ x ∈ ((devWait k).port 3).dreqOut, x.tag ≠ ((devWait k).port 3).devTag) ∧
    (devReq k).kind = k ∧ (devReq k).src = .agent 0 9 3 := by decide
theorem witness_DeviceRequestsAreServed_dead : Still devDead ∧ (devDead.port 3).dreqQ = devReq .dRd :: [] ∧ devDead.dead 3 = true ∧
    (devReq .dRd).src = .agent 0 9 3 ∧ (devReq .dRd).kind ≠ .dWrP ∧ devDead.accepts 0 = true ∧ devDead.tagEnded 0 9 = false ∧
    Clear devDead (.port 0) := by decide
theorem witness_DeviceRequestsAreServed :
    (∀ k ∈ [DevKind.dRd, .dWrN], Still (devOut k) ∧ Clear (devOut k) (.port 0) ∧ (devReq k).kind = k ∧
      takeFirst (fun (x : DevReq) => x.tag == (devReq k).tag) ((devOut k).port 3).dreqOut = some (devReq k, []) ∧
      (devReq k).src = .agent 0 9 3 ∧ (devOut k).accepts 0 = true ∧ (devOut k).tagEnded 0 9 = false) ∧
    Still (port3 (fun x => { x with dreqOut := [nodeReq] })) ∧ takeFirst (fun (x : DevReq) => x.tag == nodeReq.tag)
      ((port3 (fun x => { x with dreqOut := [nodeReq] })).port 3).dreqOut = some (nodeReq, []) ∧ nodeReq.src = .node 1 5 ∧
    nodeReq.kind = .dWrN ∧
    nodeOf (saOf windowHdr.line ||| (0 : BitVec 7).setWidth 52) = owner3.node ∧
    spaceOf (saOf windowHdr.line ||| (0 : BitVec 7).setWidth 52) = .mmio 2 ∧ owner3.ownerOf (2 : BitVec 4).toNat = (3 : Port).val ∧
    owner3.kind 3 ≠ .off ∧ owner3.dead 3 = false ∧ Still owner3 := by decide

def ackTxn : Txn := { req := req (.agent 0) .rdS 7, phase := .done, ackPending := true }
def acked : State := coh demo (fun c => { c with txns := [ackTxn] })
theorem witness_AgentsAnswer_ack : Inv acked ∧ acked.deadNodes = [] ∧ acked.coh.retiring = [] ∧ acked.coh.fx = [] ∧
    ({ acked.coh with txns := [] } : Coh).quiet = true ∧ acked.coh.txns = [ackTxn] ∧ ackTxn.phase = .done ∧
    ackTxn.writePending = false ∧ ackTxn.ackPending = true ∧ ackTxn.req.src = .agent 0 ∧ ackTxn.req.tag = 7 := by decide
def snoopTo (p : Port) : Snoop := { port := p, tag := 4, opc := opSnpU, line := lineA, flow := 1, since := 5 }
def flow1 : Flow := { id := 1, line := lineA, kind := .serve, await := 2 }
def snooping : State := coh demo (fun c => { c with snoops := [snoopTo 0, snoopTo 1], flows := [flow1] })
theorem witness_AgentsAnswer_snoop : Inv snooping ∧ snooping.deadNodes = [] ∧ snooping.coh.retiring = [] ∧ snooping.coh.fx = [] ∧
    ({ snooping.coh with flows := [], snoops := [] } : Coh).quiet = true ∧ snooping.coh.snoops = [snoopTo 0, snoopTo 1] ∧
    snooping.coh.flows = [flow1] ∧ (snoopTo 0).flow = flow1.id ∧ flow1.await = 2 ∧ (snoopTo 0).deferred = false ∧
    (snoopTo 0).opc ≠ opSnpP ∧ (snoopTo 0).opc ≠ opSnpH ∧ (snoopTo 1).port ≠ (snoopTo 0).port ∧
    snooping.dead (snoopTo 1).port = false := by decide
theorem witness_AgentsAnswer_kind : ∀ a b c, flow1.kind ≠ .hint a b c := by intro a b c h; cases h
def givenBack : AgentWb := { line := lineA, cl := 5, port := 0 }
def giving : State := coh demo (fun c => { c with agentWbs := [givenBack] })
theorem witness_AgentsAnswer_data : Inv giving ∧ giving.deadNodes = [] ∧ giving.coh.retiring = [] ∧ giving.coh.fx = [] ∧
    ({ giving.coh with agentWbs := [] } : Coh).quiet = true ∧ giving.coh.agentWbs = [givenBack] ∧
    giving.coh.pressOf givenBack.line = none ∧ (giving.coh.pressIn (sliceOf givenBack.line).val).length < 32 := by decide
theorem witness_AgentsAnswer_errors : Inv demo ∧ demo.coh.ackTxn 0 7 = none ∧ demo.coh.snoopBy 0 7 = none := by decide

def overdue : State := coh demo (fun c => { c with snoops := [snoopTo 0], flows := [flow1] })
theorem witness_AgentsDie_snoop : Inv overdue ∧ overdue.kind 0 ≠ .off ∧ overdue.dead 0 = false ∧
    overdue.coh.snoopBy 0 4 = some (snoopTo 0) ∧
    (snoopTo 0).since + max 1 (overdue.rf (F.AGP_DEAD_CFG.SNP_T (0 : Port))) * 256 ≤ overdue.fine := by decide
def linkOut : State := port3 (fun x => { x with link := { x.link with leftAt := some 5 } })
theorem witness_AgentsDie_declare : Inv linkOut ∧ linkOut.kind 3 ≠ .off ∧ linkOut.dead 3 = false ∧ Idle linkOut ∧
    (linkOut.port 3).dreqOut = [] ∧ (linkOut.port 3).dreqQ = [] ∧ Serving linkOut ∧ bit 0xC30100 8 = true ∧
    fld 0xC30100 16 8 = 0xC3 ∧ (linkOut.port 3).link.leftAt = some 5 ∧
    5 + max 1 (linkOut.rf (F.AGP_DEAD_CFG.LINK_T (3 : Port))) * 64000 ≤ linkOut.fine := by decide
def deadPort : State := demo.wb (F.AGP_DEAD_CTL.DEAD 3) true
theorem witness_AgentsDie_reclaimed : Inv deadPort ∧ deadPort.dead 3 = true ∧
    deadPort.rb (F.AGP_DEAD_CTL.RECLAIMED (3 : Port)) = false ∧ Idle deadPort ∧ deadPort.coh.naming 3 = [] ∧
    (deadPort.port 3).front = [] := by decide
def recalling : State := coh demo (fun c => { c with homeTx := [{
  line := lineA, ts := .hr, req := req (.node 1 0 false) .rdS 0, invs := [1], since := some 5 }] })
def cut : State := demo.wf (F.STL_LINK_STAT.STATE 0) stFail
theorem witness_NodesDie_die : Inv demo ∧ (1 : NodeId).toNat ≠ demo.node ∧ demo.inFabric (1 : NodeId).toNat = true ∧
    demo.deadNodes.contains (1 : NodeId).toNat = false ∧ Serving demo ∧ bit 0x1C30001 24 = true ∧ fld 0x1C30001 16 8 = 0xC3 ∧
    fld 0x1C30001 0 9 = (1 : NodeId).toNat := by decide
theorem witness_NodesDie_route : Inv cut ∧ cut.noRoute (1 : NodeId).toNat = true ∧ cut.deadNodes.contains 1 = false ∧
    Inv recalling ∧ 5 ∈ recalling.coh.awaiting recalling 1 ∧
    5 + max 1 (recalling.rf F.GLB_COH_TMO.NODE_T) * 10000 ≤ recalling.fine := by decide
def walking : State := { demo with deadNodes := [1], deadWalks := [1] }
theorem witness_NodesDie_walk : Inv walking ∧ walking.deadWalks = [(1 : NodeId).toNat] ∧ walking.coh.deadLines walking 1 = [] ∧
    walking.coh.quiet = true ∧ walking.coh.retiring = [] ∧ walking.coh.fx = [] ∧ walking.coh.dir = [] ∧ walking.coh.press = [] ∧
    walking.coh.hamper = [] := by decide

def dirKeyA : Nat := dirKey (sliceOf lineA) (dirSetIdx lineA) 2
def owned1 : State := coh demo (fun c => { c.writeDir demo dirKeyA { dirFree with tag := dirTagOf lineA, st := dEX, owner := 1 } with
  fx := [], wake := false })
theorem witness_FabricAnswersWithoutCopy : Idle demo ∧ Sound demo hdr1.line ∧ demo.coh.setLocked hdr1.line = false ∧
    demo.coh.nodeState demo hdr1.line = tI ∧ Sound demo (BitVec.ofNat 45 ((0 : SliceNo).val + 32 * (5 : BitVec 11).toNat)) ∧
    demo.coh.hamperOf hdr1.line = none ∧ demo.coh.blocked hdr1.line = false ∧
    demo.coh.setLines demo hdr1.src 0 (5 : BitVec 11).toNat = [] ∧ demo.coh.dirKeyOf hdr1.line = none ∧
    Idle owned1 ∧ Inv owned1 ∧ Sound owned1 hdr1.line ∧ owned1.coh.setLocked hdr1.line = false ∧
    owned1.coh.hamperOf hdr1.line = none ∧ owned1.coh.blocked hdr1.line = false ∧ owned1.coh.dirKeyOf hdr1.line = some dirKeyA ∧ (owned1.coh.dirAt dirKeyA).st = dEX ∧
    (owned1.coh.dirAt dirKeyA).owner = hdr1.src := by decide
def homeTx (ts : HomeTs) : HomeTx := { line := lineA, ts := ts, req := req (.node 1 0 false) .rdS 0, snooping := true, invs := [1],
                                       recalls := [1] }
def homeOf (x : HomeTx) : State := coh demo (fun c => { c with homeTx := [x] })
def forwarded : HomeTx := { homeTx .hf with fwdTo := some 1 }
def confirmed : HomeTx := { homeTx .hc with snooping := false }
theorem witness_FabricAnswersAreTaken_home : (∀ x ∈ [homeTx .ha, forwarded, confirmed], (homeOf x).deadNodes = [] ∧
      (homeOf x).coh.retiring = [] ∧ (homeOf x).coh.fx = [] ∧ ({ (homeOf x).coh with homeTx := [] } : Coh).quiet = true ∧
      (homeOf x).coh.homeTx = [x] ∧ x.line = hdr1.line ∧ Sound (homeOf x) hdr1.line) ∧
    (homeTx .ha).snooping = true ∧ hdr1.src ∈ (homeTx .ha).invs ∧ hdr1.src ∈ (homeTx .ha).recalls ∧ hdr1.src ∉ (homeTx .ha).taken ∧
    hdr1.src ∉ (homeTx .ha).due ∧ hdr1.src ∉ (homeTx .ha).early ∧
    forwarded.snooping = true ∧ forwarded.fwdTo = some hdr1.src ∧ forwarded.missed = false ∧ confirmed.ts = .hc ∧
    reqNodeId (homeOf confirmed) confirmed.req = hdr1.src ∧ confirmed.req.remote = true := by decide
def writingBack : State := coh demo (fun c => { c with nodeTx := [{ line := lineA, ts := .wb }] })
def dropped : Txn := { req := req (.drill 0) .prefetch 0, phase := .fabric }
def outTrk (r : Req) (u : TrkUse) : OutTrk := { rtrk := 5, dst := 1, since := 0, req := r, use := u, unit := false }
def prefetching : State := coh demo (fun c => { c with
  nodeTx := [{ line := lineA, ts := .ip }], txns := [dropped], outTrks := [outTrk dropped.req .line] })
def devTrk : OutTrk := outTrk { req (.agent 0) .rdC 9 with sz := 2, off := 8 } .dev
def accessing : State := coh (busy9 demo) (fun c => { c with outTrks := [devTrk] })
theorem witness_FabricAnswersAreTaken_writeback : writingBack.deadNodes = [] ∧ writingBack.coh.retiring = [] ∧
    writingBack.coh.fx = [] ∧ ({ writingBack.coh with nodeTx := [] } : Coh).quiet = true ∧
    writingBack.coh.nodeTx = [{ line := hdr1.line, ts := .wb, keepSt := 0, mnt := false }] ∧
    Sound writingBack hdr1.line ∧ writingBack.coh.pressOf hdr1.line = none := by decide
theorem witness_FabricAnswersAreTaken_decline : prefetching.deadNodes = [] ∧ prefetching.coh.retiring = [] ∧
    prefetching.coh.fx = [] ∧ Sound prefetching hdr1.line ∧ ({ prefetching.coh with nodeTx := [], txns := [], outTrks := [] } : Coh).quiet = true ∧
    prefetching.coh.nodeTx = [{ line := hdr1.line, ts := .ip }] ∧ prefetching.coh.txns = [dropped] ∧
    prefetching.coh.outTrks = [outTrk dropped.req .line] ∧ (outTrk dropped.req .line).rtrk = hdr1.rtrk ∧
    dropped.req.line = hdr1.line ∧ dropped.req.src = .drill 0 ∧ dropped.slot = none ∧ dropped.joined = [] := by decide
theorem witness_FabricAnswersAreTaken_access : accessing.deadNodes = [] ∧ accessing.coh.retiring = [] ∧ accessing.coh.fx = [] ∧
    ({ accessing.coh with outTrks := [] } : Coh).quiet = true ∧ accessing.coh.outTrks = [devTrk] ∧ devTrk.rtrk = hdr1.rtrk ∧
    devTrk.use = .dev ∧ devTrk.req.src = .agent 0 ∧ devTrk.req.posted = false ∧ accessing.accepts 0 = true ∧
    accessing.tagEnded 0 devTrk.req.tag = false ∧ Sound accessing hdr1.line ∧ Still accessing ∧ Clear accessing (.port 0) := by decide
/-- A packet for node 1, on its way through node 0. -/
theorem witness_PacketsMoveOn : demo.nextHop (pkt false).hdr = some (0, 0) ∧ hdrDst (pkt false).hdr ≠ demo.node ∧
    Clear demo (.stile 1) ∧ Clear demo (.stile (linkOf 0 0)) ∧ (demo.stile (linkOf 0 0)).wait = [] ∧
    (demo.stile (linkOf 0 0)).cur = none ∧
    (let dl := ((some (1 / 2) == some 0 && hdrDl (pkt false).hdr) || demo.crossesDateline 0 0)
     let k' : StilePkt := { pkt false with hdr := setHdr (pkt false).hdr 62 1 dl.toNat }
     (demo.stile (linkOf 0 0)).room { pkt := k', since := demo.fine, size := pktSlots k' } = true) := by decide

def pendRead (k : Nat) (c : Cont) : PendRead := { key := k, line := lineA, cont := c, cls := 0 }
def readTxn : Txn := { req := { req (.agent 0) .rdC 9 with sz := 2, off := 4 }, phase := .mem, tracker := true }
def reading : State := coh (busy9 demo) (fun c => { c with
  memQ := vset c.memQ (memOf lineA) [pendRead (memIndex lineA) .serve], txns := [readTxn] })
theorem witness_ReadsReturn_memory : Inv reading ∧ reading.deadNodes = [] ∧ reading.coh.retiring = [] ∧ reading.coh.fx = [] ∧
    reading.rb (F.MEM_STAT.PPR_BUSY (memOf lineA)) = false ∧
    ({ reading.coh with memQ := vset reading.coh.memQ (memOf lineA) [], txns := [] } : Coh).quiet = true ∧
    reading.coh.memQ.get (memOf lineA) = [pendRead (memIndex lineA) .serve] ∧ reading.coh.txns = [readTxn] ∧
    readTxn.req.line = (pendRead (memIndex lineA) .serve).line ∧
    (pendRead (memIndex lineA) .serve).captured = none ∧ readTxn.phase = .mem ∧ readTxn.tracker = true := by decide
def chanA : ChanNo := demo.chan (slotSlice keyA)
def scrubbing : State := coh (inCache demo tE) (fun c => { c with cmiQ := vset c.cmiQ chanA [pendRead keyA .scrub] })
theorem witness_ReadsReturn_channel : Inv scrubbing ∧ scrubbing.deadNodes = [] ∧ scrubbing.coh.retiring = [] ∧
    scrubbing.coh.fx = [] ∧ ({ scrubbing.coh with cmiQ := vset scrubbing.coh.cmiQ chanA [] } : Coh).quiet = true ∧
    scrubbing.coh.cmiQ.get chanA = [pendRead keyA .scrub] ∧ scrubbing.chan (slotSlice (pendRead keyA .scrub).key) = chanA ∧
    (pendRead keyA .scrub).captured = none := by decide
def verifyA : Verify := { key := keyA, line := lineA, cl := encodeLine 99 0 }
def verifying : State := coh demo (fun c => { c with cmiVerify := vset c.cmiVerify chanA [verifyA] })
theorem witness_ReadsReturn_verify : Inv verifying ∧ verifying.deadNodes = [] ∧ verifying.coh.retiring = [] ∧
    verifying.coh.fx = [] ∧ ({ verifying.coh with cmiVerify := vset verifying.coh.cmiVerify chanA [] } : Coh).quiet = true ∧
    verifying.coh.cmiVerify.get chanA = [verifyA] ∧ verifying.rb F.DAR_CTL.RETIRE_EN = false := by decide
def arrived : Txn := { readTxn with phase := .arrived, permitted := true, snooped := true, data := some (encodeLine 77 0) }
def filling : State := coh (busy9 demo) (fun c => { c with txns := [arrived] })
theorem witness_FillsEnd_data : Inv filling ∧ filling.deadNodes = [] ∧ filling.coh.retiring = [] ∧ filling.coh.fx = [] ∧
    ({ filling.coh with txns := [] } : Coh).quiet = true ∧ filling.coh.txns = [arrived] ∧ arrived.req.line = lineA ∧
    arrived.data = some (encodeLine 77 0) ∧ filling.isHome lineA = true ∧ arrived.req.src = .agent 0 ∧ arrived.req.op = .rdC ∧
    arrived.phase = .arrived ∧ arrived.permitted = true ∧ arrived.snooped = true ∧ arrived.dirty = false ∧ arrived.joined = [] ∧
    arrived.slot = none ∧ Sound filling lineA ∧ filling.accepts 0 = true ∧ filling.tagEnded 0 arrived.req.tag = false ∧
    Clear filling (.port 0) := by decide
def written : Txn := { readTxn with phase := .done, writePending := true, slot := some keyA, install := tE,
                                    data := some (encodeLine 77 0) }
def accepting : State := coh (inCache demo tF) (fun c => { c with txns := [written] })
theorem witness_FillsEnd_write : Inv accepting ∧ accepting.deadNodes = [] ∧ accepting.coh.retiring = [] ∧ accepting.coh.fx = [] ∧
    ({ accepting.coh with txns := [] } : Coh).quiet = true ∧ accepting.coh.txns = [written] ∧ written.req.line = lineA ∧
    written.data = some (encodeLine 77 0) ∧ accepting.isHome lineA = true ∧ written.phase = .done ∧ written.writePending = true ∧
    written.slot = some keyA ∧ written.ackPending = false ∧ written.joined = [] ∧ Sound accepting lineA ∧
    (accepting.coh.tag keyA).st = tF ∧ (accepting.coh.tag keyA).tag = tagOf accepting.sets lineA := by decide

def entry : PressEntry := { line := lineA, cl := encodeLine 55 0, mask := fullMask, policy := pWBA, port := .agent 0, cls := 2,
                            born := 4, st := .owned, wanted := true }
def draining : PressEntry := { entry with st := .draining, drain := .cache keyA }
def permitted : PressEntry := { entry with st := .pending, permReady := true }
def pressing (s : State) (x : PressEntry) : State := coh s (fun c => { c with press := [x] })
theorem witness_PressAndHamperDrain_start : let s := pressing (inCache demo tE) entry
    Inv s ∧ Idle s ∧ Sound s entry.line ∧ s.coh.press = [entry] ∧ s.coh.drainReady s entry = true ∧ entry.policy = pWBA ∧ entry.hint = none ∧
    s.isHome entry.line = true ∧ s.coh.hitSlot s entry.line = some keyA ∧
    max 1 (s.rf F.GLB_PRESS_CFG.AGE) * 16 ≤ s.fine - entry.born := by decide
theorem witness_PressAndHamperDrain_done : let s := pressing (inCache demo tM) draining
    Inv s ∧ Idle s ∧ Sound s draining.line ∧ s.coh.press = [draining] ∧ Still s ∧ draining.st = .draining ∧
    draining.drain = .cache keyA ∧ draining.fill = false ∧ s.coh.slotStands s keyA draining.line = true ∧ (s.coh.tag keyA).st ≠ tF ∧
    draining.mask = fullMask ∧ s.coh.anyHamper draining.line = none := by decide
def granted : Txn := { req := { req .press .rdU 0 with point := 0 }, phase := .done }
def granting : State := coh (pressing (inCache demo tE) permitted) (fun c => { c with txns := [granted] })
theorem witness_PressAndHamperDrain_permission : Inv granting ∧ granting.deadNodes = [] ∧ granting.coh.retiring = [] ∧
    granting.coh.fx = [] ∧ granting.coh.press = [permitted] ∧ ({ granting.coh with txns := [] } : Coh).quiet = true ∧
    granting.coh.txns = [granted] ∧ granted.req.line = permitted.line ∧ granted.req.src = .press ∧ granted.phase = .done ∧
    granted.uo = false ∧ permitted.st = .pending ∧ permitted.permReady = true ∧ granting.coh.permits granting granted.req = true ∧
    granting.coh.snfOf permitted.line = none ∧ Sound granting permitted.line := by decide
def held (w : Bool) : HamperEntry := { line := lineA, cl := 5, st := tM, writing := w }
def swath2 : SwathTracker := { last := 3, dir := none, exp := none, count := 1, matched := 5, order := 0 }
def swathing : State := port0 (fun x => { x with swath := x.swath.set 2 (some swath2) })
theorem witness_PressAndHamperDrain_hamper : (∀ w : Bool, let s := coh demo (fun c => { c with hamper := [held w] })
      Inv s ∧ Idle s ∧ s.coh.hamper = [held w] ∧ s.isHome (held w).line = true ∧ Sound s (held w).line ∧ (held w).writing = w) ∧
    Inv swathing ∧ (swathing.port 0).swath.get 2 = some swath2 ∧
    max 1 (swathing.rf F.GLB_SWATH_CFG.IDLE) * 256 ≤ swathing.fine - swath2.matched := by decide

def ranged (n : Nat) : State := (demo.wf F.GLB_MNT_LEN.LINES n).wf F.GLB_MNT_ADDR_LO.SA_LO 64
def badRange : State := (ranged 5).wf F.GLB_MNT_ADDR_HI.SA_HI 0x7FFFFFF
theorem witness_MaintenanceByAddress_start : Inv (ranged 5) ∧ Serving (ranged 5) ∧ (ranged 5).rb F.GLB_MNT_STAT.BUSY = false ∧
    (ranged 5).refusing = false ∧ 0 < (ranged 5).rf F.GLB_MNT_LEN.LINES ∧ (ranged 5).rangeOk 64 5 = true ∧
    (ranged 5).rf F.GLB_MNT_ADDR_HI.SA_HI * 2 ^ 25 + (ranged 5).rf F.GLB_MNT_ADDR_LO.SA_LO = 64 := by decide
theorem witness_MaintenanceByAddress_ends : Inv (ranged 0) ∧ Serving (ranged 0) ∧ (ranged 0).rf F.GLB_MNT_LEN.LINES = 0 ∧
    Inv badRange ∧ Serving badRange ∧ 0 < badRange.rf F.GLB_MNT_LEN.LINES ∧
    badRange.rangeOk (badRange.rf F.GLB_MNT_ADDR_HI.SA_HI * 2 ^ 25 + 64) 5 = false ∧
    Inv ((ranged 5).wb F.GLB_MNT_STAT.BUSY true) ∧ Serving ((ranged 5).wb F.GLB_MNT_STAT.BUSY true) ∧
    ((ranged 5).wb F.GLB_MNT_STAT.BUSY true).rb F.GLB_MNT_STAT.BUSY = true := by decide
def maintaining (n : Nat) : State := { demo.wb F.GLB_MNT_STAT.BUSY true with mnt := { op := 1, next := 64, left := n } }
theorem witness_MaintenanceByAddress_lines : (∀ n ∈ [0, 5], Inv (maintaining n) ∧ (maintaining n).rb F.GLB_MNT_STAT.BUSY = true ∧
      (maintaining n).mnt.sw = false ∧ (maintaining n).mnt.left = n ∧ (maintaining n).mnt.inFlight = [] ∧
      (maintaining n).mnt.sets = []) := by decide
def atSlot (s : State) : State :=
  ((s.wf F.GLB_MNT_SW.SLICE (sliceOf lineA).val).wf F.GLB_MNT_SW.SET (setIdx 2048 lineA)).wf F.GLB_MNT_SW.WAY 3
theorem witness_MaintenanceBySetWay : ∀ st ∈ [tS, tE, tM], let s := atSlot (inCache demo st)
    Inv s ∧ Serving s ∧ Idle s ∧ s.rb F.GLB_MNT_STAT.BUSY = false ∧ s.refusing = false ∧ bit (s.rg Reg.GLB_MNT_SW) 31 = false ∧
    s.rf F.GLB_MNT_SW.SET < s.sets ∧ slotKey (s.rf F.GLB_MNT_SW.SLICE) (s.rf F.GLB_MNT_SW.SET) (s.rf F.GLB_MNT_SW.WAY) = keyA ∧
    s.coh.checkRow (s.rf F.GLB_MNT_SW.SLICE) (s.rf F.GLB_MNT_SW.SET) = s.coh ∧
    s.isSpill keyA = false ∧ s.coh.lockedLine (s.coh.slotLineAddr s keyA) = false ∧
    s.coh.drainingInto (s.coh.slotLineAddr s keyA) = false ∧ (s.coh.tag keyA).st = st ∧
    s.coh.hamperFull (slotSlice keyA) = false := by decide

def drainA (n : Nat) : WayDrain := { slice := sliceOf lineA, way := 3, next := n, lines := [], chan := false }
def drainWalk (s : State) (n : Nat) : State := { s with drains := [drainA n] }
theorem witness_WaysAndChannelsSwitch_write : Inv demo ∧ Serving demo ∧ demo.refusing = false ∧
    bit (demo.rg (Reg.SLC_WAY_EN (5 : SliceNo))) (15 : Fin 16).val = true ∧ bit 0x7FFF (15 : Fin 16).val = false := by decide
theorem witness_WaysAndChannelsSwitch_visit : ∀ s ∈ [demo, inCache demo tE], let n := setIdx 2048 lineA
    Inv (drainWalk s n) ∧ (drainWalk s n).drains.find? (fun d => isDrain (sliceOf lineA) 3 d && decide (d.next < (drainWalk s n).sets)) =
      some (drainA n) ∧ Idle (drainWalk s n) ∧
    (drainWalk s n).coh.checkRow (sliceOf lineA).val (drainA n).next = (drainWalk s n).coh ∧
    ((((drainWalk s n).coh.tag keyA).st = tI ∧ (drainWalk s n).isSpill keyA = false) ∨
      (((drainWalk s n).coh.tag keyA).st = tE ∧ (drainWalk s n).isSpill keyA = false ∧ (drainWalk s n).isHome lineA = true ∧
        (drainWalk s n).coh.slotLineAddr s keyA = lineA ∧ (drainWalk s n).coh.lockedLine lineA = false ∧
        (drainWalk s n).coh.drainingInto lineA = false)) := by decide
theorem witness_WaysAndChannelsSwitch_done : Inv (drainWalk demo 2048) ∧
    (drainWalk demo 2048).drains.find? (fun d => isDrain (sliceOf lineA) 3 d && !d.chan) = some (drainA 2048) ∧
    (drainWalk demo 2048).drainEnded (drainA 2048) = true := by decide
def closing : State := { demo.wb (F.CMI_CTL.DRAINING chanA) true with drains := [{ drainA 2048 with chan := true }] }
theorem witness_WaysAndChannelsSwitch_channel : demo.rb (F.CMI_CTL.EN chanA) = true ∧ bit 0 0 = false ∧ demo.rb (F.CMI_CTL.DRAINING chanA) = false ∧
    demo.rf F.GLB_SPILL_CFG.SIZE_MIB = 0 ∧ (demo.wf F.GLB_SPILL_CFG.SIZE_MIB 4).rf F.GLB_SPILL_CFG.SIZE_MIB ≠ 0 ∧
    (demo.wf F.GLB_SPILL_CFG.SIZE_MIB 4).rb (F.CMI_CTL.EN chanA) = true ∧ Inv (demo.wf F.GLB_SPILL_CFG.SIZE_MIB 4) ∧
    Inv closing ∧ closing.rb (F.CMI_CTL.DRAINING chanA) = true ∧ Idle closing ∧
    (∀ d ∈ closing.drains, d.chan = true → closing.chan d.slice.val = chanA → closing.drainEnded d = true) := by decide
def untrained : State := demo.wb (F.CMI_STAT.TRAINED chanA) false
theorem witness_WaysAndChannelsSwitch_training : Inv untrained ∧ untrained.rb (F.CMI_CTL.EN chanA) = true ∧
    untrained.rb (F.CMI_STAT.TRAINED chanA) = false ∧ untrained.rb (F.CMI_CTL.DRAINING chanA) = false ∧ untrained.channels.contains chanA = true ∧ Idle untrained := by decide

def pace250 : PaceMon := { now := 250, hist := List.replicate 16 250, admits := [250] }
def paced : State := { demo with prm := { demo.prm with vmon := #v[900, 900], mons := Vector.replicate 36 pace250 } }
theorem witness_PaceAndCredits_reading : demo.coreOn = true ∧ demo.pwr.st ≠ .rest := by decide
def pooled : State := ((paced.wf (F.AGP_CRD_CFG.P2_MAX (1 : Port)) 2).wf (F.AGP_CRD_CFG.P0_PER_CH (1 : Port)) 4).wf
  (F.AGP_CRD_CFG.P1_PER_CH (1 : Port)) 4
theorem witness_PaceAndCredits_release : pooled.releasing = true ∧ pooled.accepts 1 = true ∧ pooled.portActive 1 = true ∧
    Clear pooled (.port 1) ∧ pooled.tagFree 1 = true ∧ pooled.caching 1 = true ∧ (pooled.port 1).credits = [] ∧
    0 < pooled.rf (F.AGP_CRD_CFG.P2_MAX (1 : Port)) ∧ pooled.channels.contains 3 = true ∧
    0 < pooled.rf (F.AGP_CRD_CFG.P0_PER_CH (1 : Port)) ∧ 0 < pooled.rf (F.AGP_CRD_CFG.P1_PER_CH (1 : Port)) ∧
    pooled.creditOk (dieOfPort 1) 0 [3] = true ∧ pooled.creditOk (dieOfPort 1) 1 [3] = true := by decide
def promised (floor : Nat) (d : BitVec 16) : Promise :=
  { id := .agent 0 7, p1 := false, deadline := some d, issued := 0, floor := floor, remote := false, overrun := false }
def promising : State := { paced with prm := { paced.prm with inFlight := [promised 150 (deadlineAt 100000000000)] } }
theorem witness_BreachesFallBack : Inv promising ∧ 500 < 5 * (promising.setVmon 0 500).floorInFlight ∧
    promising.prm.inFlight.find? (fun q => q.id == .agent 0 7 && q.due promising.fine) =
      some (promised 150 (deadlineAt 100000000000)) := by decide
def fallen : State := (paced.wb F.GLB_PRM_MODE.FALLBACK true).wb F.GLB_PRM_MODE.AUTO_RETURN true
def ceilinged : TagUse := { tag := 5, at_ := 9, ceiling := true, ended := false, point := 3 }
def waiting : State := paced.setPort 0 (fun x => { x with tags := [ceilinged] })
theorem witness_FallbackEndsModesSwitch_fallback : Inv fallen ∧ fallen.fallback = true ∧
    fallen.rb F.GLB_PRM_MODE.AUTO_RETURN = true ∧ fallen.troubled = false ∧
    fallen.prm.breachFree + max 1 (fallen.rf F.GLB_PRM_CFG.HOLD) * 64000 ≤ fallen.fine ∧ Inv waiting ∧
    (waiting.port 0).tags.find? (fun x => x.tag == ceilinged.tag && !x.ended) = some ceilinged ∧ ceilinged.ceiling = true ∧
    ceilinged.at_ + 10000 ≤ waiting.fine ∧ waiting.accepts 0 = true ∧ Clear waiting (.port 0) ∧
    (∀ x ∈ (waiting.port 0).tags, x.tag = ceilinged.tag → x.answered = false) ∧ waiting.rb F.GLB_PRM_STAT.CEILING = false := by decide
def switching : State := demo.wb F.GLB_PRM_MODE.SWITCHING true
theorem witness_FallbackEndsModesSwitch_switch : Inv demo ∧ Serving demo ∧ demo.switching = false ∧ demo.fallback = false ∧
    fld 8 2 2 ≠ 3 ∧ fld 8 2 2 ≠ demo.curMode ∧ Inv switching ∧ switching.switching = true ∧ switching.prm.swAwait = [] := by decide

def pend : PendLine := { addr := 104, made := 1 }
def stream : StreamTracker := { last := 100, stride := some 1, conf := 3, dist := 4, ahead := 104, matched := 5, order := 1, pend := [pend] }
def drillCredit (c : Nat) : Credit := { kind := .drill, cls := 2, ch := BitVec.ofNat 3 c, mode := 1, floor := 0, promise := false }
def drilling : State := (demo.wb (F.DRL_CFG.EN 0) true).setPort 0 (fun x => { x with
  credits := [drillCredit (demo.chanOfLine 104).val]
  drill := { x.drill with trackers := x.drill.trackers.set 5 (some stream), issued := [104] } })
theorem witness_PrefetchesRun_issue : drilling.drilling 0 = true ∧ drilling.boot.running = true ∧ drilling.pwr.st = .run ∧
    drilling.caching 0 = true ∧ (drilling.port 0).front = [] ∧ (drilling.ptu 0).anyDue = false ∧
    drilling.issueOrder 0 = 5 :: [] ∧ (drilling.drill 0).trackers.get 5 = some stream ∧ stream.pend = pend :: [] ∧
    pend.walk = none ∧ pend.sa = none ∧ drilling.rf (F.DRL_CFG2.CRD (0 : Port)) ≠ 0 ∧
    nodeOf (saOf (BitVec.ofNat 45 pend.addr.toNat)) = drilling.node ∧
    takeFirst (fun c => c.kind == .drill && c.ch.toNat == (drilling.chanOfLine (BitVec.ofNat 45 pend.addr.toNat)).val)
      (drilling.port 0).credits = some (drillCredit (demo.chanOfLine 104).val, []) := by decide
theorem witness_PrefetchesRun_pass : (drilling.drill 0).issued = 104 :: [] ∧
    stream.matched + max 1 (drilling.rf (F.DRL_CFG2.IDLE (0 : Port))) * 256 < drilling.fine := by decide
theorem witness_PrefetchesRun_control : Inv demo ∧ Serving demo ∧ demo.accAt + max 1 (demo.rf F.DRL_ACC.INTERVAL) * 1000 ≤ demo.fine ∧
    bit 1 0 = true ∧ bit 0 0 = false ∧ demo.rf F.GLB_ATOM_CFG.DECAY ≠ 0 ∧
    demo.decayAt + demo.rf F.GLB_ATOM_CFG.DECAY * 1000 ≤ demo.fine := by decide
/-- CAP falls where no prefetch is useful, and rises where all are. -/
theorem witness_PrefetchesRun_cap : nextCap true 16 1 200 16 < 16 ∧ 8 < nextCap true 8 200 1 16 := by decide

def mapped : State := demo.setPtu 3 (fun x => { x with
  tlb := x.tlb.set 4 ({ TlbEntry.empty with v := true, ctx := 3, vpn := 5, r := true } : TlbEntry).sealed })
def invBusy : State := mapped.wb (F.PTU_INV_STAT.BUSY 3) true
theorem witness_TranslationRegisters : Inv mapped ∧ Serving mapped ∧ mapped.kind 3 = .nonCaching ∧ mapped.invRefused 3 = false ∧
    Inv invBusy ∧ Serving invBusy ∧ invBusy.kind 3 = .nonCaching ∧ invBusy.invRefused 3 = true ∧
    invBusy.rb (F.PTU_INV_STAT.BUSY (3 : Port)) = true ∧ (invBusy.ptu 3).invWaits = [] ∧
    (∀ w ∈ (invBusy.ptu 3).walks, w.marked = false) := by decide
def descWalk (d : BitVec 64) : Walk := { pa := 0x123456, level := 3, table := 0x4000, ctx := 3, marked := false, due := false, got := some (0, d, false) }
def walked (d : BitVec 64) : State := mapped.setPtu 3 (fun x => x.setWalk (.demand 1) (some (descWalk d)))
theorem witness_WalksEnd (d : BitVec 64) : ((walked d).port 3).front = [] ∧
    ((walked d).ptu 3).anyDue = false ∧ ((walked d).ptu 3).walk (.demand 1) = some (descWalk d) ∧ (descWalk d).got = some (0, d, false) := ⟨rfl, rfl, rfl, rfl⟩
def isLeaf : Desc → Bool
  | .leaf e => e.vpn == 0x123 && e.oa == 7
  | _ => false
def isBad : Desc → Bool
  | .bad c => c == 1
  | _ => false
def isPointer : Desc → Bool
  | .pointer a => a == 0x5000
  | _ => false
theorem witness_WalksEnd_descriptors : isLeaf (readDesc 0x7003 3 0x123456 3 0) = true ∧ isBad (readDesc 0 3 0x123456 3 0) = true ∧
    isPointer (readDesc 0x5001 1 0x123456 3 0) = true := by decide

def darning (due : Nat) : State := { (paced.wb F.DAR_CTL.CACHE_EN true).wb F.DAR_CTL.MEM_EN true with
  dar := { demo.dar with due := Vector.replicate 34 due } }
theorem witness_ScrubVisits_due : ∀ n ∈ [15, 16], ∀ w ∈ [Walker.cache 0, .mem 1], Inv (darning n) ∧
    (darning n).darnerOn (decide (32 ≤ (walkerIdx w).val)) = true ∧
    (darning n).dar.dueAt.get (walkerIdx w) ≤ (darning n).fine ∧ (darning n).dar.due.get (walkerIdx w) = n := by decide
theorem witness_ScrubVisits_visit : Inv (darning 5) ∧ (darning 5).darnerOn false = true ∧ (darning 5).darnerOn true = true ∧
    (darning 5).dar.due.get (walkerIdx (.cache 31)) ≠ 0 ∧
    (darning 5).visitOk 0 ((darning 5).chan (31 : SliceNo).val) = true ∧ (darning 5).dar.due.get (walkerIdx (.mem 1)) ≠ 0 ∧
    (darning 5).visitOk 1 ((darning 5).chanOfLine (lineOfMem (darning 5).node 1 ((darning 5).dar.memPos.get 1))) = true := by decide
def slotReport (s : State) : State := coh s (fun c => { c with slotReports := [(keyA, lineA)] })
def memReport (first : Bool) (s : State) : State := coh s (fun c => { c with memReports := [(memIndex lineA, lineA, first)] })
theorem witness_ScrubReports_slot : ∀ st ∈ [tE, tM], let s := slotReport (inCache demo st)
    let c : Coh := { s.coh with slotReports := [] }
    Inv s ∧ s.deadNodes = [] ∧ s.coh.retiring = [] ∧ s.coh.fx = [] ∧ s.coh.slotReports = [(keyA, lineA)] ∧
    slotSlice keyA = (sliceOf lineA).val ∧ c.quiet = true ∧ c.lockedLine lineA = false ∧
    c.readRow s lineA = c ∧ s.isSpill keyA = false ∧ c.slotLineAddr s keyA = lineA ∧
    s.isHome lineA = true ∧ (c.tag keyA).st = st := by decide
theorem witness_ScrubReports_memory : ∀ x ∈ [(demo, none), (inCache (demo.wb F.DAR_CTL.REPAIR_EN true) tE, some keyA)],
    ∀ first : Bool, let s := memReport first x.1
    let c : Coh := { s.coh with memReports := [] }
    Inv s ∧ s.deadNodes = [] ∧ s.coh.retiring = [] ∧ s.coh.fx = [] ∧ s.coh.memReports = [(memIndex lineA, lineA, first)] ∧
    c.quiet = true ∧ c.lockedLine lineA = false ∧ c.readRow s lineA = c ∧
    c.hitSlot s lineA = x.2 ∧ (x.2 = some keyA → s.rb F.DAR_CTL.REPAIR_EN = true ∧ (c.tag keyA).st = tE ∧
      (c.tag keyA).poison = false) := by decide
theorem witness_ScrubControl : Inv (darning 5) ∧ Serving (darning 5) ∧ bit 1 0 ≠ demo.rb F.DAR_CTL.CACHE_EN ∧ bit 2 8 = false ∧
    Idle (inCache demo tT) ∧ Inv (inCache demo tT) ∧ Serving (inCache demo tT) ∧
    demo.dar.winAt.get (Fin.ofNat 10 (3 : ChanNo).val) + demo.window ≤ demo.fine ∧
    demo.dar.winAt.get (Fin.ofNat 10 (8 + (1 : MemNo).val)) + demo.window ≤ demo.fine ∧
    (∃ x ∈ [1, 300], demo.rf F.DAR_THR.ECS_THR ≤ x) ∧ demo.rb (F.MEM_STAT.TRAINED (1 : MemNo)) = true := by decide

def linkIn (u : LinkUnit) (st : Nat) (f : LinkSt → LinkSt) : State := (demo.setLinkState u st).setLink u f
theorem witness_LinksTrain_steps : ∀ u ∈ [LinkUnit.port 0, .stile 0], (∀ st ∈ [stDetect, stLock, stOrder, stEqual, stFail],
      Inv (linkIn u st id) ∧ (linkIn u st id).linkState u = st) ∧
    ((linkIn u stDetect id).linkSt u).since + 1000000 ≤ (linkIn u stDetect id).fine ∧
    ((linkIn u stFail id).linkSt u).since + 10000000 ≤ (linkIn u stFail id).fine := by decide
theorem witness_LinksTrain_param : ∀ u ∈ [LinkUnit.port 0, .stile 0], let s := linkIn u stParam (fun l => { l with paramOk := true })
    Inv s ∧ s.linkState u = stParam ∧ (s.linkSt u).paramOk = true := by decide
def nakked (u : LinkUnit) : State := linkIn u stActive (fun l => { l with replay := [(0, 5), (1, 6), (2, 7)], nakSeq := 1, nakCount := 3 })
theorem witness_LinksTrain_retrain : (∀ u ∈ [LinkUnit.port 0, .stile 0], Inv (nakked u) ∧ (nakked u).linkState u = stActive ∧
      ((nakked u).linkSt u).replay.any (fun f => f.1 == 1) = true ∧ ((nakked u).linkSt u).nakSeq = 1 ∧
      ((nakked u).linkSt u).nakCount = 3) ∧
    Serving demo ∧ demo.portActive 0 = true := by decide
theorem witness_ParamIsChecked : ∀ u ∈ [LinkUnit.port 0, .stile 0], Inv (linkIn u stParam id) ∧ (linkIn u stParam id).linkState u = stParam ∧
    (2 : BitVec 128).extractLsb' 0 4 ≠ 1 ∧ (0x11 : BitVec 128).extractLsb' 0 4 = 1 ∧ (0x11 : BitVec 128).extractLsb' 4 2 = 1 ∧
    (0x21 : BitVec 128).extractLsb' 4 2 ≠ 1 ∧ (linkIn u stParam id).caching 0 = true ∧ (linkIn u stParam id).caching 3 = false ∧
    ((1 + 2 ^ 39 : BitVec 128).extractLsb' 39 3).toNat = oppositeLink 0 ∧ ((1 : BitVec 128).extractLsb' 39 3).toNat ≠ oppositeLink 0 := by
  decide
def owing (u : LinkUnit) : State := linkIn u stActive (fun l => { l with
  replay := [(0, 5), (1, 6), (2, 7)], unacked := 2, unackedAt := 5, rxSeq := 9 })
theorem witness_RetryKeepsOrder : ∀ u ∈ [LinkUnit.port 0, .stile 0], (owing u).linkState u = stActive ∧
    0 < ((owing u).linkSt u).unacked ∧ ((owing u).linkSt u).unackedAt + 64 ≤ (owing u).fine ∧
    ((owing u).linkSt u).replay.any (fun f => f.1 == 1) = true ∧ ((owing u).linkSt u).nakCount = 0 ∧
    ((owing u).linkSt u).nakSent = false ∧ Clear (owing u) u ∧ (∀ p : Port, ((owing u).port p).devLeft = []) ∧
    demo.linkState u = stActive ∧ Still demo ∧
    (demo.linkSt u).unacked = 0 ∧ (demo.linkSt u).rxLeft = 0 := by decide
theorem witness_RetryKeepsOrder_crc : flitCrc 5 9 ≠ 0 ∧ flitCrc 5 9 ≠ flitCrc 5 8 := by decide
theorem witness_RetryKeepsOrder_credits : demo.linkState (.port 0) = stActive ∧ (demo.port 0).snpWait = [] ∧
    demo.linkState (.stile 0) = stActive ∧ (demo.stile 0).wait = [] := by decide
theorem witness_HeadlandBeats : Inv demo ∧ (∀ d : Fin 2, demo.hdl.tx.get d = []) ∧ demo.hdl.stalled = 0 ∧
    (HdlUnit.port 0).die = (HdlUnit.port 1).die ∧ (HdlUnit.port 0).die ≠ (HdlUnit.port 3).die ∧
    (hdlBeats 5 (hdlRoute false 2 1 (.port 0) (.port 3)) (some 7) none).length ≤ (demo.hdl.cred.get (hdlDir true)).get 2 ∧
    (HdlUnit.port 3).die = 1 ∧ demo.hdl.rx.get (hdlDir true) = [] ∧ packetBeats 0 = 1 ∧ routeClass (beatRoute 0) < 5 := by decide

theorem witness_CsrWriteByFieldType : Inv demo ∧ Serving demo ∧ demo.ses.waiting = [] ∧ (0x1300044 : BitVec 26).toNat % 4 = 0 ∧
    csrBlock (0x1300044 : BitVec 26).toNat = some (.memory, 0, 0x44) ∧ (regRow (0x1300044 : BitVec 26).toNat).isSome = true ∧
    csrBlock (0x1000044 : BitVec 26).toNat = some (.slice, 0, 0x44) ∧ (regRow (0x1000044 : BitVec 26).toNat).isSome = true ∧
    demo.coreOn = true ∧ (0x1300001 : BitVec 26).toNat % 4 ≠ 0 ∧ (0x1600000 : BitVec 26).toNat % 4 = 0 ∧
    csrBlock (0x1600000 : BitVec 26).toNat = none := by decide
def messages : State := (({ demo with mon := { demo.mon with ev := { demo.mon.ev with inb := [(5, 77), (6, 88)] } } }.wb F.EVT_INB.EN
  true).wf F.EVT_INB.PORT 1).setPort 1 (fun x => { x with evtCred := 2 })
theorem witness_EventRegisters : Inv demo ∧ Serving demo ∧ (demo.wf F.EVT_RTE_IDX.INDEX 287).rf F.EVT_RTE_IDX.INDEX < 288 ∧
    Inv (demo.wf F.EVT_RTE_IDX.INDEX 287) ∧ Serving (demo.wf F.EVT_RTE_IDX.INDEX 287) ∧ messages.mon.ev.inb = (5, 77) :: [(6, 88)] ∧
    messages.inbOk = true ∧ 0 < (messages.port (Fin.ofNat 6 (messages.rf F.EVT_INB.PORT))).evtCred ∧
    Clear messages (.port (Fin.ofNat 6 (messages.rf F.EVT_INB.PORT))) := by decide
def logEntry (n : Word) : LogEntry := { time := 0, seq := n, event := 3, unit := 0, flags := 0, detail := 4 }
def logged (marked : Bool) : State := { demo with mon := { demo.mon with log := { demo.mon.log with
  entries := [logEntry 0, logEntry 1, logEntry 2], wseq := 3, rseq := 1, mark := 2, markValid := marked } } }
theorem witness_LogCursor : (logged true).coreOn = true ∧ (logged true).mon.log.markValid = true ∧
    (logged false).mon.log.markValid = false ∧
    ((3 : Word) - (logged true).mon.log.oldest).toNat ≤ (logged true).mon.log.entries.length ∧
    (logged true).mon.log.entries.length < ((4 : Word) - (logged true).mon.log.oldest).toNat := by decide
def mailbox (f : Mailbox → Mailbox) : State := (fins 4).foldl (fun s m => s.setMail m f) demo
theorem witness_MailboxOperations_go : ∀ op < 3, (0 : Fin 4) ≠ 3 ∧ (mailbox (fun m => { m with sel := if op = 2 then 0x10 else 1 })).coreOn = true ∧
    (op < 2 → (mailbox (fun m => { m with sel := 1 })).goError 0 op = 0) ∧
    (mailbox (fun m => { m with sel := 0xFF })).goError 0 op ≠ 0 := by decide
def selEvent : Word := 0x00018A01
def mailOp (op : BitVec 2) : State := mailbox (fun m => { m with busy := true, lop := op, lsel := selEvent, data := Vector.replicate 8 9 })
theorem witness_MailboxOperations_ends : Inv (mailOp 1) ∧ Inv (mailOp 0) ∧ ((mailOp 1).mail 3).waiter = none ∧
    ((mailOp 1).mail 0).busy = true ∧ ((mailOp 1).mail 0).lop = 1 ∧ ((mailOp 0).mail 3).waiter = none ∧
    ((mailOp 0).mail 0).busy = true ∧ ((mailOp 0).mail 0).lop = 0 ∧ selKind ((mailOp 0).mail 0).lsel < 0x10 ∧
    ((mailOp 0).mail 0).selWritten = false ∧ ((mailOp 0).mail 0).started + 10000 ≤ (mailOp 0).fine := by decide

/-! A MAC of 16 bytes is the number a frame carries. -/

theorem leBytes_zero (n : Nat) (x : Nat) : (leBytes n x).length = n := by simp [leBytes]
theorem leBytes_leNat (l : List Byte) : leBytes l.length (leNat l) = l := by
  induction l with
  | nil => rfl
  | cons b t ih =>
    have e : leNat (b :: t) = b.toNat + 256 * leNat t := rfl
    have hb := b.isLt
    simp only [leBytes, List.length_cons, List.range_succ_eq_map, List.map_cons, List.map_map, e, Nat.mul_zero, Nat.shiftRight_zero]
    congr 1
    · apply BitVec.eq_of_toNat_eq
      simp only [BitVec.toNat_ofNat]
      omega
    · refine Eq.trans ?_ ih
      simp only [leBytes]
      apply List.map_congr_left
      intro i _
      have : (b.toNat + 256 * leNat t) >>> (8 * (i + 1)) = leNat t >>> (8 * i) := by
        rw [show 8 * (i + 1) = 8 + 8 * i by omega, Nat.shiftRight_add]
        congr 1
        rw [Nat.shiftRight_eq_div_pow]
        omega
      simp only [Function.comp, Nat.succ_eq_add_one, this]
theorem leNat_lt (l : List Byte) : leNat l < 256 ^ l.length := by
  induction l with
  | nil => simp [leNat]
  | cons b t ih =>
    have e : leNat (b :: t) = b.toNat + 256 * leNat t := rfl
    have hb := b.isLt
    rw [e, List.length_cons, Nat.pow_succ]
    omega
theorem shaBlock_length (h w : List (BitVec 32)) (hh : h.length = 8) : (shaBlock h w).length = 8 := by
  simp [shaBlock, ShaVars.toList, hh]
theorem shaBlocks_length (n : Nat) (m : List Byte) (h : List (BitVec 32)) (hh : h.length = 8) : (shaBlocks n m h).length = 8 := by
  induction n generalizing m h with
  | zero => exact hh
  | succ n ih => exact ih _ _ (shaBlock_length _ _ hh)
theorem sha256_length (m : List Byte) : (sha256 m).length = 32 := by
  have h := shaBlocks_length ((shaPad m).length / 64) (shaPad m) shaInit rfl
  simp only [sha256, List.length_flatMap, beBytes, List.length_reverse, leBytes_zero, List.map_const', List.sum_replicate, h]
  rfl
theorem macOf_length (k : BitVec 256) (l : List Byte) : (macOf k l).length = 16 := by
  simp [macOf, hmac, sha256_length]
theorem mac_number (k : BitVec 256) (l : List Byte) : leBytes 16 (BitVec.ofNat 128 (leNat (macOf k l))).toNat = macOf k l := by
  have h := leNat_lt (macOf k l)
  rw [macOf_length] at h
  have e : (BitVec.ofNat 128 (leNat (macOf k l))).toNat = leNat (macOf k l) := by
    rw [BitVec.toNat_ofNat]
    exact Nat.mod_eq_of_lt (lt_of_lt_of_le h (by norm_num))
  have g := leBytes_leNat (macOf k l)
  rw [macOf_length] at g
  rw [e, g]

/-- A session of level 3 over I3C, and a command under it with its MAC. -/
def opened (s : State) : State := { s with ses := { s.ses with i3c := { s.ses.i3c with
  isOpen := true, level := 3, ks := 12345, lastSeq := 6 } } }
def cmd (opc : Byte) (l : List Byte) : Frame :=
  { frame0 with mac := BitVec.ofNat 128 (leNat (macOf 12345 (cmdFrame frame0 opc l).head)) }
/-- The engine performs a command that carries its MAC. -/
theorem accepted (opc : Byte) (l : List Byte) (h : ∀ n ∈ minLevel (cmdFrame (cmd opc l) opc l), n ≤ 3) :
    Accepted (opened demo) (cmd opc l) opc l := by
  refine ⟨rfl, rfl, rfl, rfl, ?_, rfl, h⟩
  exact mac_number _ _
def keyed : State := { demo with img := { demo.img with keys := #v[5, 6, 7] } }
def challenged (fails : Nat) : State := { keyed with ses := { keyed.ses with i3c := { keyed.ses.i3c with
  chal := some (1, 11, 13), fails := fails } } }
theorem witness_SessionsOpen_open : keyed.coreOn = true ∧ keyed.sesWorking = false ∧ keyed.ses.waiting = [] ∧
    (keyed.ses.get .i3c).lockEnd = none ∧ (keyed.ses.get .i3c).isOpen = false ∧ (1 : Byte).toNat ≤ 3 ∧
    keyed.levelOpen .i3c (1 : Byte).toNat = true ∧ ((challenged 0).ses.get .i3c).chal = some (1, 11, 13) ∧
    ((challenged 3).ses.get .i3c).chal = some (1, 11, 13) ∧ 3 ≤ ((challenged 3).ses.get .i3c).fails ∧
    (challenged 3).sesWorking = false ∧ (challenged 3).ses.waiting = [] := by decide
/-- A MAC that is right and one that is not. -/
theorem witness_SessionsOpen_auth :
    let want := hmac (keyBytes ((keyed.levelKey 1).getD 0)) (authBytes 0x31 13 11 1 .i3c keyed.node)
    want = leBytes 32 (BitVec.ofNat 256 (leNat want)).toNat ∧ want ≠ leBytes 32 (0 : BitVec 256).toNat := by decide
def lockedOut : State := { demo with ses := { demo.ses with i3c := { demo.ses.i3c with lockEnd := some 5 } } }
theorem witness_SessionsOpen_end : lockedOut.coreOn = true ∧ lockedOut.sesWorking = false ∧ lockedOut.ses.waiting = [] ∧
    (lockedOut.ses.get .i3c).lockEnd = some 5 ∧ 5 ≤ lockedOut.fine ∧ (opened demo).sesWorking = false ∧
    ((opened demo).ses.get .i3c).isOpen = true ∧ ((opened demo).ses.get .i3c).lastAt + 60000000000 ≤ (opened demo).fine := by decide
theorem witness_SessionReads_csr : Accepted (opened demo) (cmd 0x10 (leBytes 4 (0x100 : Word).toNat ++ [2])) 0x10
      (leBytes 4 (0x100 : Word).toNat ++ [2]) ∧
    (∀ i < (2 : Byte).toNat, ((0x100 : Word).toNat + 4 * i) % 4 = 0 ∧ csrBlock ((0x100 : Word).toNat + 4 * i) ≠ none) :=
  ⟨accepted _ _ (by decide), by decide⟩
theorem witness_SessionReads_log : Accepted (opened demo) (cmd 0x13 [8]) 0x13 [8] ∧
    ctrVal (ctrGet (opened demo).mon (startCtr 6)) < ctrMax := ⟨accepted _ _ (by decide), by decide⟩
theorem witness_SessionReads_calendar : Accepted (opened demo) (cmd 0x14 []) 0x14 [] := accepted _ _ (by decide)
theorem witness_SessionReads_image : Accepted (opened demo) (cmd 0x32 (1 :: leBytes 4 (0xFFFF0 : Word).toNat ++ [16])) 0x32
      (1 :: leBytes 4 (0xFFFF0 : Word).toNat ++ [16]) ∧ (0xFFFF0 : Word).toNat + (16 : Byte).toNat ≤ slotSize :=
  ⟨accepted _ _ (by decide), by decide⟩
theorem witness_SessionActs_close : Inv (opened demo) ∧ Accepted (opened demo) (cmd 3 []) 0x03 [] ∧
    Accepted (opened demo) (cmd 0x40 []) 0x40 [] := ⟨by decide, accepted _ _ (by decide), accepted _ _ (by decide)⟩
def csrPayload : List Byte := leBytes 4 (0x1300040 : Word).toNat ++ leBytes 4 (5 : Word).toNat
theorem witness_SessionActs_csr : Accepted (opened demo) (cmd 0x11 csrPayload) 0x11 csrPayload ∧
    csrBlock (0x1300040 : Word).toNat = some (.memory, 0, 0x40) ∧ (regRow (0x1300040 : Word).toNat).isSome = true ∧
    (opened demo).rb F.IMG_STAT.SAFE = false := ⟨accepted _ _ (by decide), by decide⟩
def mbxPayload (op : Byte) : List Byte := leBytes 4 (selEvent : Word).toNat ++ [op] ++ leBytes 4 (5 : Word).toNat ++ leBytes 4 (6 : Word).toNat
theorem witness_SessionActs_mailbox : Accepted (opened demo) (cmd 0x12 (mbxPayload 0)) 0x12 (mbxPayload 0) ∧
    Accepted (opened demo) (cmd 0x12 (mbxPayload 1)) 0x12 (mbxPayload 1) ∧
    ((opened demo).mail 3).busy = false ∧ selKind selEvent < 8 ∧ 0 < selKind selEvent ∧
    (opened demo).kindInsts (selKind selEvent) = some 32 ∧ selInst selEvent < 32 ∧
    (opened demo).indexOk (selKind selEvent) (selIndex selEvent) = true :=
  ⟨accepted _ _ (by decide), accepted _ _ (by decide), by decide⟩
theorem witness_SessionActs_set : Accepted (opened demo) (cmd 0x15 (leBytes 8 (77 : BitVec 64).toNat)) 0x15 (leBytes 8 (77 : BitVec 64).toNat) ∧
    Accepted (opened demo) (cmd 0x20 [2]) 0x20 [2] := ⟨accepted _ _ (by decide), accepted _ _ (by decide)⟩
theorem witness_SessionActs_fuse : Accepted (opened demo) (cmd 0x41 (0 :: leBytes 32 (99 : BitVec 256).toNat)) 0x41
      (0 :: leBytes 32 (99 : BitVec 256).toNat) ∧
    Accepted (opened demo) (cmd 0x41 (1 :: leBytes 32 (99 : BitVec 256).toNat)) 0x41 (1 :: leBytes 32 (99 : BitVec 256).toNat) ∧
    (opened demo).fuses.pkhSet = false ∧ (opened demo).fuses.rkeySet = false :=
  ⟨accepted _ _ (by decide), accepted _ _ (by decide), by decide⟩
def repairing : State := demo.wb (F.MEM_STAT.PPR_BUSY (1 : MemNo)) true
theorem witness_SessionWorks_repair : Accepted (opened demo) (cmd 0x21 (1 :: leBytes 4 (5 : Word).toNat)) 0x21
      (1 :: leBytes 4 (5 : Word).toNat) ∧ Inv (opened demo) ∧ (5 : Word).toNat * 128 < (opened demo).portCap ∧ Inv repairing ∧
    repairing.rb (F.MEM_STAT.PPR_BUSY (1 : MemNo)) = true ∧ repairing.ses.ppr = none := ⟨accepted _ _ (by decide), by decide⟩
def writePayload : List Byte := 1 :: leBytes 4 (0xFFFFE : Word).toNat ++ [1, 2]
theorem witness_SessionWorks_flash : Accepted (opened demo) (cmd 0x30 [1]) 0x30 [1] ∧
    Accepted (opened demo) (cmd 0x31 writePayload) 0x31 writePayload ∧ Accepted (opened demo) (cmd 0x33 [0]) 0x33 [0] ∧
    (opened demo).flash.lockBy = none ∧ (0xFFFFE : Word).toNat + 2 ≤ slotSize :=
  ⟨accepted _ _ (by decide), accepted _ _ (by decide), accepted _ _ (by decide), by decide⟩
def flashing (o : FlashOp) (busy : Bool) : State := { demo with
  flash := { demo.flash with op := some o }, ses := { demo.ses with busy := busy } }
theorem witness_SessionWorks_ends : Inv (flashing (.erase .i3c 6 .b) true) ∧ (flashing (.erase .i3c 6 .b) true).ses.waiting = [] ∧
    (flashing (.erase .i3c 6 .b) true).flash.op = some (.erase .i3c 6 .b) ∧
    (flashing (.write .i3c 6 .a 3 [1]) false).flash.op = some (.write .i3c 6 .a 3 [1]) ∧
    (flashing (.erase .i3c 6 .b) true).coreOn = true ∧ (flashing (.erase .i3c 6 .b) true).ses.busy = true ∧
    (flashing (.erase .i3c 6 .b) true).sesWorking = true ∧ (flashing (.write .i3c 6 .a 3 [1]) false).ses.busy = false ∧
    (flashing (.write .i3c 6 .a 3 [1]) false).sesWorking = true := by decide

theorem witness_ResetsRestart : Inv (pw .off 0) ∧ (pw .off 0).pwr.st = .off ∧ Inv demo ∧ demo.coreOn = true ∧
    demo.pwr.waitRails = false ∧ demo.pwr.railsGood = true := by decide
def booting (stage : Nat) : State := ((demo.wb (F.MEM_STAT.TRAINED 0) false).wb (F.MEM_STAT.TRAINED 1) false).wf F.IMG_STAT.STAGE stage
theorem witness_SlotsAreTried_fails : Inv (booting 3) ∧ Inv (booting 4) ∧ (booting 3).coreOn = true ∧ (booting 4).coreOn = true ∧
    (booting 3).rf F.IMG_STAT.STAGE = 3 ∧ ((booting 3).validate .a demo.img.kinds).2 = none ∧
    (booting 4).rf F.IMG_STAT.STAGE = 4 ∧ ((booting 4).validate .b demo.img.kinds).2 = none := by decide
/-- An unsigned image of three records in slot A: registers for 32 GiB behind each port and a cache of 256 MiB, memory timing,
END. -/
def record (type : Nat) (p : List Byte) : List Byte :=
  let h := leBytes 2 type ++ leBytes 2 0 ++ leBytes 4 p.length ++ p
  h ++ leBytes 4 (crc32c h).toNat
def imageBody : List Byte :=
  let rs := record 1 (leBytes 4 0x8 ++ leBytes 4 8 ++ leBytes 4 0x140 ++ leBytes 4 1) ++ record 5 (List.replicate 128 0) ++
    record 0xFFFF []
  let h := leBytes 4 0x494C4E52 ++ leBytes 2 1 ++ leBytes 2 2 ++ leBytes 4 7 ++ leBytes 4 (64 + rs.length) ++ leBytes 2 0x0512 ++
    leBytes 2 3 ++ leBytes 4 0
  h ++ leBytes 4 (crc32c h).toNat ++ leBytes 4 0 ++ rs
def slotA : State := { booting 3 with flash := {
  bytes := (((imageBody ++ sha256 imageBody).zipIdx.map (fun x => (x.2, x.1))).filter (fun x => x.2 != 0xFF#8))
  info := some goodFlash } }
theorem witness_SlotsAreTried_passes : (slotA.validate .a (Vector.replicate 6 .off)).2.isSome = true := by decide +kernel
theorem witness_SlotsAreTried_inv : Sparse.wf (fun _ => 0xFF#8) slotA.flash.bytes = true ∧ slotA.coreOn = true ∧
    slotA.rf F.IMG_STAT.STAGE = 3 := by decide +kernel
def tried : State := { booting 6 with boot := { demo.boot with tries := #v[1, 1] } }
theorem witness_MemoryTrainingEnds_training : Inv (booting 6) ∧ (booting 6).coreOn = true ∧ (booting 6).rf F.IMG_STAT.STAGE = 6 ∧
    (booting 6).pwr.st = .run ∧ (booting 6).rb (F.MEM_STAT.TRAINED (1 : MemNo)) = false ∧ (booting 6).boot.tries.get 1 = 0 ∧
    Inv tried ∧ tried.coreOn = true ∧ tried.rf F.IMG_STAT.STAGE = 6 ∧ tried.rb (F.MEM_STAT.TRAINED (1 : MemNo)) = false ∧
    1 ≤ tried.boot.tries.get 1 := by decide
def clearing : State := { booting 7 with boot := { demo.boot with meminit := true } }
theorem witness_MemoryTrainingEnds_end : Inv clearing ∧ clearing.rf F.IMG_STAT.STAGE = 7 ∧ clearing.boot.meminit = true ∧
    Inv (demo.wf F.IMG_STAT.STAGE 7) ∧ (demo.wf F.IMG_STAT.STAGE 7).coreOn = true ∧ demo.pwr.st = .run ∧
    (demo.wf F.IMG_STAT.STAGE 7).rb (F.MEM_STAT.TRAINED 0) = true ∧ (demo.wf F.IMG_STAT.STAGE 7).rb (F.MEM_STAT.TRAINED 1) = true ∧
    demo.boot.meminit = false ∧ (demo.wf F.IMG_STAT.STAGE 7).rf F.IMG_STAT.STAGE = 7 := by decide

def exchanging (t : Nat) : State := (demo.wf F.TIM_CFG.ROOT_NODE 1).setFab (fun f => { f with
  running := true, t1 := some 7, lastExch := 5, t := t, xseq := 3 })
def answer3 : BitVec 128 := 7
theorem witness_FabricTime_exchange : (exchanging 1000).isRoot = false ∧ 6 ≤ (exchanging 1000).rf F.IMG_STAT.STAGE ∧
    (exchanging 1000).rf F.IMG_STAT.STAGE ≠ 9 ∧ (exchanging 1000).fab.lastExch + 1000000 ≤ (exchanging 1000).fine ∧
    (exchanging 1000).parentLink = some 0 ∧ (exchanging 1000).linkActive 0 = true ∧ (exchanging 1000).fab.running = true ∧
    bodyKind 0 = 0 ∧ (exchanging 1000).fab.t1 = some 7 ∧ bodyKind answer3 = 1 ∧ bodySeq answer3 = (exchanging 1000).fab.xseq ∧
    Clear (exchanging 1000) (.stile 0) ∧ (exchanging 1000).linkActive 5 = false := by decide
/-- A small offset, which trims, and a large one, which steps. -/
theorem witness_FabricTime_offset :
    (exchangeOffset 7 (bodyT2 answer3) (bodyRes answer3) 1000).natAbs ≤ 32000 ∧
    32000 < (exchangeOffset 7 (bodyT2 answer3) (bodyRes answer3) 1000000).natAbs := by decide
def rooted : State := ((demo.wb F.TIM_CFG.ROOT true).wb F.TIM_CFG.PPS_EN true).setFab (fun f => { f with running := true, t := 33 })
theorem witness_FabricTime_pulse : Inv rooted ∧ rooted.ppsUsed = true ∧ rooted.fab.holdover = false ∧
    rooted.fab.ppsAt + 1500000000 ≤ rooted.fine ∧ rooted.fab.running = true ∧ rooted.fab.ppsOut = false ∧
    rooted.fab.t % fabSecond < 64 := by decide
def calendar (load : Option (BitVec 64)) : State := { demo with cal := { demo.cal with
  alarmed := true, load := load, sec := 2 ^ 34 - 1, ns := 999990000, frac := 2 ^ 24 - 1 } }
theorem witness_CalendarRuns : Inv (calendar none) ∧ (calendar none).pwr.st ≠ .off ∧ (calendar none).cal.load = none ∧
    (calendar none).cal.alarmed = true ∧ Inv (calendar (some 77)) ∧ (calendar (some 77)).pwr.st ≠ .off ∧
    (calendar (some 77)).cal.alarmed = true ∧ demo.pwr.vin = true ∧ demo.cal.stopped = false ∧
    demo.cal.lastTick + 1000000 ≤ demo.fine ∧ demo.coreOn = true := by decide
theorem witness_CalendarRuns_load : (calendar (some 77)).cal.load = some 77 := rfl

def enabled (s : State) : State := ((s.wb F.PWR_CTL.WAKE_EN true).wb F.PWR_CTL.SLP_EN true).wb F.PWR_CTL.ALARM_EN true
def resting : State := { enabled (pw .restExit 0) with prm := paced.prm }
theorem witness_RestAndFallow_rest : Inv demo ∧ Serving demo ∧ demo.boot.running = true ∧ demo.pwr.st = .run ∧
    Inv (pw .restEntry 0) ∧ (pw .restEntry 0).pwr.st = .restEntry ∧ (pw .restEntry 0).quiet = true ∧ (pw .restEntry 0).coh.press = [] ∧
    (pw .restEntry 0).pwr.heldRest = none ∧ Inv (enabled (pw .rest 0)) ∧ (enabled (pw .rest 0)).pwr.st = .rest := by decide
theorem witness_RestAndFallow_exit : (∀ c ∈ [RestCause.lane, .wakeN, .alarm, .i3c], (enabled (pw .rest 0)).restEnabled c = true) ∧
    Inv resting ∧ resting.pwr.st = .restExit ∧ resting.restReady = true ∧ (enabled (pw .rest 0)).rb F.PWR_CTL.WAKE_EN = true := by decide
def alone : State := enabled (demo.wr Reg.GLB_NODE 0)
theorem witness_RestAndFallow_request : Inv alone ∧ Serving alone ∧ alone.rb F.PWR_CTL.SLP_EN = true ∧ alone.fallowCause = 0 ∧
    alone.coreOn = true ∧ Inv (enabled demo) ∧ Serving (enabled demo) ∧ (enabled demo).rb F.PWR_CTL.SLP_EN = true ∧
    (enabled demo).fallowCause ≠ 0 := by decide
theorem witness_RestAndFallow_entry : (∀ n ∈ [2, 3, 4, 5, 6, 7, 8], Inv (pw .fallowEntry n) ∧ (pw .fallowEntry n).pwr.st = .fallowEntry ∧
      (pw .fallowEntry n).pwr.step = n ∧ (pw .fallowEntry n).quiet = true ∧ (pw .fallowEntry n).opsQuiet = true ∧
      (pw .fallowEntry n).coh.named = [] ∧ Idle (pw .fallowEntry n) ∧ (pw .fallowEntry n).pwr.vin = true) ∧
    Inv (enabled (pw .fallow 0)) ∧ (enabled (pw .fallow 0)).pwr.st = .fallow ∧ (enabled (pw .fallow 0)).rb F.PWR_CTL.SLP_EN = true ∧
    (enabled (pw .fallow 0)).rb F.PWR_CTL.WAKE_EN = true := by decide
/-- Step 4 with one line that an agent holds, step 5 with and without a seed list, step 6 with one modified line. -/
def heldKey : Nat := snfKey 3 4 5
def holding : State := coh (pw .fallowEntry 4) (fun c =>
  c.putSnf heldKey { tag := 7, ast := 2, pres := 1, nst := 2, ownp := 0, ref := false, par := 0 })
theorem witness_RestAndFallow_snoop : Inv holding ∧ holding.pwr.st = .fallowEntry ∧ holding.pwr.step = 4 ∧ Idle holding ∧
    holding.coh.named = [heldKey] ∧ (holding.coh.snfAt heldKey).ports = [0] ∧ holding.accepts 0 = true ∧
    Sound holding (snfLine heldKey (holding.coh.snfAt heldKey)) := by decide
theorem witness_RestAndFallow_lines : ((pw .fallowEntry 5).wf F.PWR_SEED_CFG.SEED_MAX 0).seedMax = 0 ∧
    (inCache (pw .fallowEntry 5) tE).seedMax ≠ 0 ∧ Idle (inCache (pw .fallowEntry 5) tE) ∧ Inv (inCache (pw .fallowEntry 5) tE) ∧
    (inCache (pw .fallowEntry 5) tE).pwr.step = 5 ∧ Inv (inCache (pw .fallowEntry 6) tM) ∧ Idle (inCache (pw .fallowEntry 6) tM) ∧
    (inCache (pw .fallowEntry 6) tM).coh.hamper = [] ∧ (inCache (pw .fallowEntry 6) tM).coh.press = [] ∧
    ((inCache (pw .fallowEntry 6) tM).coh.tags.filter (fun y => isMod y.2.st)).map Prod.fst = [keyA] := by decide
def kept : WakeStore := { digest := 3, pos := Vector.replicate 32 5, memPos := Vector.replicate 2 7, seedCount := 3, seedValid := true,
                          slotB := false, kinds := demo.img.kinds }
def waking (n : Nat) : State := { demo with pwr := { demo.pwr with st := .wake, step := n, wakeStore := some kept } }
theorem witness_RestAndFallow_wake : ∀ n ∈ [3, 4, 5, 6, 7, 8], Inv (waking n) ∧ (waking n).pwr.st = .wake ∧ (waking n).pwr.step = n ∧
    (waking n).pwr.wakeStore = some kept ∧ (waking n).pwr.railsGood = true ∧
    kept.seedCount < 2 ^ 17 ∧ (waking n).wakeBytes kept = none := by decide
/-- The wake with the image in slot A: its digest is that of the wake store, or another. -/
def imageDigest : BitVec 256 := ((parseImage (imageBody ++ sha256 imageBody)).map (fun im => keyOf (sha256 im.body))).getD 0
def wakingA (n : Nat) (d : BitVec 256) : State := { waking n with
  flash := slotA.flash, pwr := { (waking n).pwr with wakeStore := some { kept with digest := d } } }
def wakes (s : State) (d : BitVec 256) : Bool :=
  match (s.wakeBytes { kept with digest := d }).bind parseImage with
  | some im => keyOf (sha256 im.body) == d
  | none => false
theorem witness_RestAndFallow_image : ((wakingA 5 3).wakeBytes kept).isSome = true ∧ wakes (wakingA 6 imageDigest) imageDigest = true ∧
    (((wakingA 6 3).wakeBytes kept).bind parseImage).isSome = true ∧ wakes (wakingA 6 3) 3 = false := by decide +kernel
theorem witness_RestAndFallow_image_state (n : Nat) (d : BitVec 256) : (wakingA n d).pwr.st = .wake ∧ (wakingA n d).pwr.step = n ∧
    (wakingA n d).pwr.wakeStore = some { kept with digest := d } := ⟨rfl, rfl, rfl⟩
def resowing (next : Nat) : State := { (demo.wb F.PWR_SEED_STAT.RESOWING true).wf F.PWR_SEED_STAT.SEED_COUNT 20 with
  pwr := { demo.pwr with resowNext := next }, prm := { demo.prm with
    resow := (List.range 8).map (fun c => { kind := .resow, cls := 2, ch := BitVec.ofNat 3 c, mode := 1, floor := 0, promise := false }) } }
theorem witness_Resowing : Inv (resowing 5) ∧ (resowing 5).rb F.PWR_SEED_STAT.RESOWING = true ∧ (resowing 5).pwr.st = .run ∧
    (resowing 5).pwr.resowNext < (resowing 5).rf F.PWR_SEED_STAT.SEED_COUNT ∧
    (∃ c ∈ (resowing 5).prm.resow, c.ch.toNat = ((resowing 5).chanOfLine (BitVec.ofNat 45
      ((wordData (lineWord ((resowing 5).seedFetch 5).1 (5 % 16))).toNat % 2 ^ 36))).val) ∧
    Inv (resowing 20) ∧ (resowing 20).rf F.PWR_SEED_STAT.SEED_COUNT ≤ (resowing 20).pwr.resowNext ∧ (resowing 20).pwr.resowOut = 0 ∧
    Serving (resowing 20) ∧ (0 : Word).getLsbD 12 = false := by decide
def powered (st : PState) (vin vbak : Bool) : State := { demo with pwr := { demo.pwr with st := st, vin := vin, vbak := vbak } }
theorem witness_SuppliesFailAndReturn : Inv demo ∧ demo.pwr.vin = true ∧ demo.rb F.PWR_STAT.VIN_LOW = false ∧
    Inv (powered .fallow true true) ∧ (powered .fallow true true).pwr.st = .fallow ∧ Inv (powered .run true false) ∧
    (powered .run true false).pwr.vbak = false ∧ Inv (powered .keep false true) ∧ Inv (powered .off false false) ∧
    (powered .keep false true).pwr.st = .keep ∧ (powered .off false false).pwr.vin = false := by decide
def railWait : State := { demo with pwr := { demo.pwr with waitRails := true } }
theorem witness_SuppliesFailAndReturn_rails : Inv railWait ∧ railWait.pwr.waitRails = true ∧ demo.coreOn = true ∧
    demo.pwr.waitRails = false := by decide
def throttled : State := { demo with pwr := { demo.pwr with throttleSince := some 4 } }
theorem witness_TemperatureAndVoltage_limits : demo.coreOn = true ∧ (540 : Int) ≤ max 100 540 ∧ max (539 : Int) 100 < 540 ∧
    demo.limitOf F.PWR_THERM_CFG.THROT ≤ max 539 100 ∧ demo.limitOf F.PWR_THERM_CFG.CRIT ≤ max 539 100 ∧ Inv throttled ∧
    throttled.pwr.throttleSince = some 4 ∧ 4 + 1000000 ≤ throttled.fine ∧ Inv (pw .trip 0) ∧ (pw .trip 0).pwr.st = .trip := by decide
theorem witness_TemperatureAndVoltage_update : Inv (demo.wf F.GLB_PRM_MODE.CUR_MODE 2) ∧
    (demo.wf F.GLB_PRM_MODE.CUR_MODE 2).coreOn = true ∧ (demo.wf F.GLB_PRM_MODE.CUR_MODE 2).adapting = true ∧
    (demo.wf F.GLB_PRM_MODE.CUR_MODE 2).throttling = false ∧ (demo.wf F.GLB_PRM_MODE.CUR_MODE 2).curMode ≠ 1 := by decide

end Sys2Proof.Tests
end

section
/-! PROOFS. The node ID of a system address and its three coordinates (R24): the coordinates are the three base-8 digits of the node
ID, and each digit is a field of three address bits. -/

namespace Sys2Proof.Machine

theorem nodeOf_lt (sa : SysAddr) : nodeOf sa < 512 := (sa.extractLsb' 43 9).isLt

/-- Coordinate `d` of an address's node lies in the three bits from bit 43 + 3d up. -/
theorem extractLsb'_toNat_eq_coordOf (sa : SysAddr) (d : Nat) (hd : d < 3) :
    (sa.extractLsb' (43 + 3 * d) 3).toNat = coordOf (nodeOf sa) d := by
  simp only [coordOf, nodeOf, BitVec.extractLsb'_toNat, Nat.shiftRight_eq_div_pow]
  match d, hd with
  | 0, _ | 1, _ | 2, _ => omega

theorem coordOf_nodeId_zero {x : Nat} (y z : Nat) (hx : x < 8) : coordOf (x + 8 * y + 64 * z) 0 = x := by
  unfold coordOf; omega

theorem coordOf_nodeId_one {x y : Nat} (z : Nat) (hx : x < 8) (hy : y < 8) : coordOf (x + 8 * y + 64 * z) 1 = y := by
  unfold coordOf; omega

theorem coordOf_nodeId_two {x y z : Nat} (hx : x < 8) (hy : y < 8) (hz : z < 8) : coordOf (x + 8 * y + 64 * z) 2 = z := by
  unfold coordOf; omega

theorem nodeId_of_coordOf {n : Nat} (hn : n < 512) : coordOf n 0 + 8 * coordOf n 1 + 64 * coordOf n 2 = n := by
  unfold coordOf; omega

/-- Settles O8: the address bits are the node ID's coordinates, a node ID below 512 is composed of its coordinates, and a node ID
composed of coordinates below 8 gives them back. -/
theorem nodeIdHoldsCoordinates : Obligations.NodeIdHoldsCoordinates := by
  intro sa x y z hx hy hz
  have coordX := coordOf_nodeId_zero y z hx
  have coordY := coordOf_nodeId_one z hx hy
  have coordZ := coordOf_nodeId_two hx hy hz
  have bitsX := extractLsb'_toNat_eq_coordOf sa 0 (by decide)
  have bitsY := extractLsb'_toNat_eq_coordOf sa 1 (by decide)
  have bitsZ := extractLsb'_toNat_eq_coordOf sa 2 (by decide)
  refine ⟨?_, coordX, coordY, coordZ⟩
  rw [bitsX, bitsY, bitsZ]
  constructor
  · intro hnode
    rw [hnode]
    exact ⟨coordX, coordY, coordZ⟩
  · rintro ⟨rfl, rfl, rfl⟩
    exact (nodeId_of_coordOf (nodeOf_lt sa)).symm

end Sys2Proof.Machine
end

section
/-! PROOFS. A write of SLC_WAY_EN (R158, R159): it acts on the sixteen ways of a slice one after another, and the act on one way
leaves every other way of that slice as it was. So what becomes of a way is decided by its own bit. -/

namespace Sys2Proof.Machine

/-! ### One way of a slice: its enable bit, its DRAINING bit, its walks -/

/-- `t` holds way `w` of slice `sl` as `s` does, and the caches as they are in `s`. -/
structure SameWay (sl : SliceNo) (w : Fin 16) (s t : State) : Prop where
  registers : Inv.registers t
  enabled : bit (t.rg (Reg.SLC_WAY_EN sl)) w = bit (s.rg (Reg.SLC_WAY_EN sl)) w
  draining : bit (t.rg (Reg.SLC_WAY_STAT sl)) w = bit (s.rg (Reg.SLC_WAY_STAT sl)) w
  walks : t.drains.filter (isDrain sl w) = s.drains.filter (isDrain sl w)
  coh : t.coh = s.coh

theorem SameWay.refl (sl : SliceNo) (w : Fin 16) {s : State} (h : Inv.registers s) : SameWay sl w s s :=
  ⟨h, rfl, rfl, rfl, rfl⟩

theorem SameWay.trans {sl : SliceNo} {w : Fin 16} {s t u : State} (h : SameWay sl w s t) (h' : SameWay sl w t u) :
    SameWay sl w s u :=
  ⟨h'.registers, h'.enabled.trans h.enabled, h'.draining.trans h.draining, h'.walks.trans h.walks, h'.coh.trans h.coh⟩

theorem mem_walks {sl : SliceNo} {w : Fin 16} {s : State} {d : WayDrain} :
    d ∈ s.drains.filter (isDrain sl w) ↔ d ∈ s.drains ∧ d.slice = sl ∧ d.way = w := by
  simp [isDrain]

/-! ### What one bit of the write does to its way -/

/-- The walks with the way's enable bit and its DRAINING bit put to given values. -/
def State.putWay (s : State) (sl : SliceNo) (way : Fin 16) (en dr : Bool) (walks : List WayDrain) : State :=
  (({ s with drains := walks } : State).wr (Reg.SLC_WAY_EN sl) (setFld (s.rg (Reg.SLC_WAY_EN sl)) way 1 en.toNat)).setDraining
    sl way dr

theorem wayEnReg_ne_wayStatReg (sl : SliceNo) : Reg.SLC_WAY_EN sl ≠ Reg.SLC_WAY_STAT sl := by
  unfold Reg.SLC_WAY_EN Reg.SLC_WAY_STAT; omega

theorem bit_setFld_bit (r : Word) (way i : Fin 16) (b : Bool) :
    bit (setFld r way 1 b.toNat) i = if i = way then b else bit r i := by
  unfold bit
  rw [getLsbD_setFld]
  by_cases hi : i = way
  · subst hi
    have : i.val < 32 := by omega
    cases b <;> simp [this]
  · have : ¬(way.val ≤ i.val ∧ i.val < way.val + 1) := fun h => hi (Fin.ext (by omega))
    rw [if_neg this, if_neg hi]

section putWay
variable {s : State} (h : Inv.registers s) (sl : SliceNo) (way i : Fin 16) (en dr : Bool) (walks : List WayDrain)
include h

theorem State.putWay_registers : Inv.registers (s.putWay sl way en dr walks) :=
  State.wr_regs_wf (State.wr_regs_wf (s := { s with drains := walks }) h _ _) _ _

theorem State.putWay_enabled : bit ((s.putWay sl way en dr walks).rg (Reg.SLC_WAY_EN sl)) i =
    if i = way then en else bit (s.rg (Reg.SLC_WAY_EN sl)) i := by
  have hreg : Inv.registers ({ s with drains := walks } : State) := h
  unfold State.putWay State.setDraining
  rw [State.rg_wr_other (State.wr_regs_wf hreg _ _) _ (wayEnReg_ne_wayStatReg sl).symm, State.rg_wr_same hreg, bit_setFld_bit]

theorem State.putWay_draining : bit ((s.putWay sl way en dr walks).rg (Reg.SLC_WAY_STAT sl)) i =
    if i = way then dr else bit (s.rg (Reg.SLC_WAY_STAT sl)) i := by
  have hreg : Inv.registers ({ s with drains := walks } : State) := h
  unfold State.putWay State.setDraining
  rw [State.rg_wr_same (State.wr_regs_wf hreg _ _), bit_setFld_bit, State.rg_wr_other hreg _ (wayEnReg_ne_wayStatReg sl)]
  rfl

/-- Another way is as it was, where its walks are. -/
theorem State.putWay_sameWay_of_ne (hne : i ≠ way) (hwalks : walks.filter (isDrain sl i) = s.drains.filter (isDrain sl i)) :
    SameWay sl i s (s.putWay sl way en dr walks) where
  registers := State.putWay_registers h ..
  enabled := by rw [State.putWay_enabled h, if_neg hne]
  draining := by rw [State.putWay_draining h, if_neg hne]
  walks := hwalks
  coh := rfl

end putWay

/-- The walk of a way that its own clearing started, not a channel's disabling. -/
def isOwnDrain (sl : SliceNo) (way : Fin 16) (d : WayDrain) : Bool := !d.chan && d.slice == sl && d.way == way

theorem isOwnDrain_eq_false_of_isDrain {sl : SliceNo} {way w : Fin 16} {d : WayDrain} (hne : w ≠ way)
    (hd : isDrain sl w d = true) : isOwnDrain sl way d = false := by
  have hway : d.way = w := by simpa using (Bool.and_eq_true_iff.mp hd).2
  simp [isOwnDrain, hway, hne]

/-- A bit written as it stands does nothing. -/
theorem State.wayWrite_of_bit_eq {s : State} {sl : SliceNo} {way : Fin 16} {on : Bool}
    (h : bit (s.rg (Reg.SLC_WAY_EN sl)) way = on) : s.wayWrite sl way on = s := by
  subst h
  unfold State.wayWrite
  cases bit (s.rg (Reg.SLC_WAY_EN sl)) way <;> rfl

/-- A cleared bit that is set enables the way and ends its own walk. -/
theorem State.wayWrite_set {s : State} {sl : SliceNo} {way : Fin 16} (h : bit (s.rg (Reg.SLC_WAY_EN sl)) way = false) :
    s.wayWrite sl way true = s.putWay sl way true false (s.drains.filter (fun d => !isOwnDrain sl way d)) := by
  unfold State.wayWrite
  rw [h]
  rfl

/-- A set bit that is cleared disables the way and starts its walk, unless such writes are refused. -/
theorem State.wayWrite_clear {s : State} {sl : SliceNo} {way : Fin 16} (h : bit (s.rg (Reg.SLC_WAY_EN sl)) way = true) :
    s.wayWrite sl way false = if s.refusing then s else
      s.putWay sl way false true (s.drains ++ [{ slice := sl, way := way, next := 0, lines := [], chan := false }]) := by
  unfold State.wayWrite
  rw [h]
  rfl

/-- All that one bit of the write can do: nothing, or put its way and keep the walks of every other way. -/
theorem State.wayWrite_cases (s : State) (sl : SliceNo) (way : Fin 16) (on : Bool) :
    s.wayWrite sl way on = s ∨ ∃ en dr walks, s.wayWrite sl way on = s.putWay sl way en dr walks ∧
      ∀ w ≠ way, walks.filter (isDrain sl w) = s.drains.filter (isDrain sl w) := by
  cases hen : bit (s.rg (Reg.SLC_WAY_EN sl)) way <;> cases on
  case false.false => exact .inl (State.wayWrite_of_bit_eq hen)
  case true.true => exact .inl (State.wayWrite_of_bit_eq hen)
  case false.true =>
    refine .inr ⟨_, _, _, State.wayWrite_set hen, fun w hne => ?_⟩
    rw [List.filter_filter]
    refine List.filter_congr fun d _ => ?_
    cases hd : isDrain sl w d
    · rfl
    · simp [isOwnDrain_eq_false_of_isDrain hne hd]
  case true.false =>
    rw [State.wayWrite_clear hen]
    split
    · exact .inl rfl
    · exact .inr ⟨_, _, _, rfl, fun w hne => by simp [isDrain, hne.symm]⟩

theorem State.wayWrite_registers {s : State} (h : Inv.registers s) (sl : SliceNo) (way : Fin 16) (on : Bool) :
    Inv.registers (s.wayWrite sl way on) := by
  obtain hself | ⟨en, dr, walks, hput, -⟩ := s.wayWrite_cases sl way on
  · rwa [hself]
  · rw [hput]; exact State.putWay_registers h sl way en dr walks

/-- The act on one way leaves every other way of the slice as it was. -/
theorem State.wayWrite_sameWay_of_ne {s : State} (h : Inv.registers s) (sl : SliceNo) {way w : Fin 16} (hne : w ≠ way)
    (on : Bool) : SameWay sl w s (s.wayWrite sl way on) := by
  obtain hself | ⟨en, dr, walks, hput, hwalks⟩ := s.wayWrite_cases sl way on
  · rw [hself]; exact .refl sl w h
  · rw [hput]; exact State.putWay_sameWay_of_ne h sl way w en dr walks hne (hwalks w hne)

/-! ### The whole write -/

/-- Acts on ways of a list leave a way that is not in the list as it was. -/
theorem foldl_wayWrite_sameWay (sl : SliceNo) (v : Word) {w : Fin 16} {ways : List (Fin 16)} (hw : w ∉ ways) {s : State}
    (h : Inv.registers s) : SameWay sl w s (ways.foldl (fun s i => s.wayWrite sl i (bit v i)) s) := by
  induction ways generalizing s with
  | nil => exact .refl sl w h
  | cons i ways ih =>
    have hhead := State.wayWrite_sameWay_of_ne h sl (List.ne_of_not_mem_cons hw) (bit v i)
    exact hhead.trans (ih (List.not_mem_of_not_mem_cons hw) hhead.registers)

/-- For one way the write is the act of its own bit: the acts before it and the acts after it leave the way as it was. -/
theorem opWayEn_on_way (sl : SliceNo) (v : Word) (w : Fin 16) {s : State} (h : Inv.registers s) :
    ∃ before, SameWay sl w s before ∧ SameWay sl w (before.wayWrite sl w (bit v w)) (opWayEn sl v s) := by
  obtain ⟨pre, post, hsplit⟩ := List.append_of_mem (List.mem_finRange w)
  have hnodup : (pre ++ w :: post).Nodup := hsplit ▸ List.nodup_finRange 16
  obtain ⟨hpost, -⟩ := List.nodup_cons.mp hnodup.of_append_right
  have hpre : w ∉ pre := fun hmem => List.disjoint_of_nodup_append hnodup hmem List.mem_cons_self
  have hbefore := foldl_wayWrite_sameWay sl v hpre h
  refine ⟨_, hbefore, ?_⟩
  unfold opWayEn fins
  rw [hsplit, List.foldl_append, List.foldl_cons]
  exact foldl_wayWrite_sameWay sl v hpost (State.wayWrite_registers hbefore.registers sl w _)

theorem State.onReg_of_serving {s : State} (h : Serving s) (f : State → State) : s.onReg f = f s := by
  obtain ⟨hcore, hsafe⟩ := h
  rw [State.onReg, hcore, hsafe]; rfl

/-- Where the register window is served, the command answers the state that the write gives. -/
theorem slcWayEnWrite_does {s : State} (hs : Serving s) {sl : SliceNo} {v : Word} {P : State → Prop} (hp : P (opWayEn sl v s)) :
    Does (.slcWayEnWrite sl v) s P :=
  Keeps.does (c := .slcWayEnWrite sl v) (execSlcWayEnWrite_keeps sl v s)
    (congrArg Host.Outcome.next (State.onReg_of_serving hs _)) hp

/-- R159: the write that sets the bit ends the way's own walk; a walk that belongs to a channel's disabling may go on. -/
theorem opWayEn_set {s : State} (h : Inv.registers s) {sl : SliceNo} {v : Word} {w : Fin 16}
    (hen : bit (s.rg (Reg.SLC_WAY_EN sl)) w = false) (hv : bit v w = true) :
    let t := opWayEn sl v s
    (∀ d ∈ t.drains, d.slice = sl → d.way = w → d.chan = true) ∧ t.wayEnabled sl w = true ∧
      bit (t.rg (Reg.SLC_WAY_STAT sl)) w = false ∧ t.coh = s.coh := by
  obtain ⟨before, hbefore, hafter⟩ := opWayEn_on_way sl v w h
  have hset := State.wayWrite_set (hbefore.enabled.trans hen)
  rw [hv, hset] at hafter
  refine ⟨fun d hd hsl hw => ?_, ?_, ?_, hafter.coh.trans hbefore.coh⟩
  · have hwalk := mem_walks.mpr ⟨hd, hsl, hw⟩
    rw [hafter.walks] at hwalk
    have hkept : isOwnDrain sl w d = false := by
      simpa using (List.mem_filter.mp (mem_walks.mp hwalk).1).2
    simpa [isOwnDrain, hsl, hw] using hkept
  · exact hafter.enabled.trans (by rw [State.putWay_enabled hbefore.registers, if_pos rfl])
  · exact hafter.draining.trans (by rw [State.putWay_draining hbefore.registers, if_pos rfl])

/-- R159: a bit that is written as it stands has no effect on its way. -/
theorem opWayEn_sameWay_of_bit_eq {s : State} (h : Inv.registers s) {sl : SliceNo} {v : Word} {w : Fin 16}
    (hv : bit (s.rg (Reg.SLC_WAY_EN sl)) w = bit v w) : SameWay sl w s (opWayEn sl v s) := by
  obtain ⟨before, hbefore, hafter⟩ := opWayEn_on_way sl v w h
  rw [State.wayWrite_of_bit_eq (hbefore.enabled.trans hv)] at hafter
  exact hbefore.trans hafter

/-- Settles O10: the acts on the other ways leave the way as it was, so a cleared bit that is set ends the way's own walk, and one
that is written 0 again leaves the way as it was. -/
theorem waysSetAgain : Obligations.WaysSetAgain := by
  intro s sl v w hinv hs hen
  obtain ⟨-, hreg, -⟩ := hinv
  refine ⟨fun _ hv => slcWayEnWrite_does hs ?_, fun hv => slcWayEnWrite_does hs ?_⟩
  · obtain ⟨hwalks, henabled, hdraining, hcoh⟩ := opWayEn_set hreg hen hv
    exact ⟨hwalks, henabled, hdraining, congrArg Coh.tags hcoh⟩
  · have hsame := opWayEn_sameWay_of_bit_eq hreg (hen.trans hv.symm)
    exact ⟨hsame.enabled.trans hen, hsame.draining, hsame.walks, hsame.coh⟩

end Sys2Proof.Machine
end

section
/-! PROOFS. The system address of a listed line (R333). A line is its address without bit 7, which its home and its index give (R42),
and its home die (R39), which gives bit 7: so two lines of one node are the same when they agree on port and index. -/

namespace Sys2Proof.Machine

/-! ### The system address of a line -/

theorem getLsbD_saOf (l : LineAddr) {j : Nat} (hj : 7 ≤ j) : (saOf l).getLsbD j = sab l j := by
  rw [saOf, BitVec.getLsbD_append, if_neg (Nat.not_lt.mpr hj), sab]

@[simp] theorem lineOf_saOf (l : LineAddr) : lineOf (saOf l) = l :=
  BitVec.extractLsb'_append_eq_left

theorem saOf_toNat (l : LineAddr) : (saOf l).toNat = l.toNat * 2 ^ 7 := by
  rw [saOf, BitVec.toNat_append, BitVec.toNat_zero, Nat.or_zero, Nat.shiftLeft_eq]

theorem extractLsb'_saOf_lineHome (l : LineAddr) : ((saOf l).extractLsb' 43 9).toNat = lineHome l := by
  rw [BitVec.extractLsb'_toNat, saOf_toNat, Nat.shiftRight_eq_div_pow, lineHome]
  omega

theorem extractLsb'_saOf_memIndex (l : LineAddr) : ((saOf l).extractLsb' 8 35).toNat = memIndex l := by
  rw [BitVec.extractLsb'_toNat, saOf_toNat, Nat.shiftRight_eq_div_pow, memIndex]
  omega

/-! ### A line without its bit 7, and its home die -/

theorem half_eq_lineHome_memIndex (l : LineAddr) : l.toNat / 2 = 2 ^ 35 * lineHome l + memIndex l := by
  unfold lineHome memIndex
  omega

/-- The bits above bit 7 that R39 gathers in the home die. -/
def highParity (l : LineAddr) : Bool := xorBits l [13, 19, 25, 31, 37]

theorem dieBit_eq_xor_highParity (l : LineAddr) : dieBit l = (sab l 7 ^^ highParity l) := by
  simp [dieBit, highParity, xorBits]

theorem sab_eq_of_half_eq {l l' : LineAddr} (h : l.toNat / 2 = l'.toNat / 2) {j : Nat} (hj : 7 < j) : sab l j = sab l' j := by
  obtain ⟨k, rfl⟩ := Nat.exists_eq_add_of_lt hj
  have hbit : 7 + k + 1 - 7 = k + 1 := by omega
  simp only [sab, hbit, BitVec.getLsbD, Nat.testBit_succ, h]

theorem highParity_eq_of_half_eq {l l' : LineAddr} (h : l.toNat / 2 = l'.toNat / 2) : highParity l = highParity l' := by
  simp only [highParity, xorBits, List.foldl_cons, List.foldl_nil]
  rw [sab_eq_of_half_eq h (j := 13) (by decide), sab_eq_of_half_eq h (j := 19) (by decide),
    sab_eq_of_half_eq h (j := 25) (by decide), sab_eq_of_half_eq h (j := 31) (by decide),
    sab_eq_of_half_eq h (j := 37) (by decide)]

theorem sab_seven (l : LineAddr) : sab l 7 = decide (l.toNat % 2 = 1) :=
  Nat.testBit_zero _

/-- R42: bit 7 may be left out of the port-local address, for the home die and the other bits give it. -/
theorem line_eq_of_half_eq_of_dieBit_eq {l l' : LineAddr} (hhalf : l.toNat / 2 = l'.toNat / 2) (hdie : dieBit l = dieBit l') :
    l = l' := by
  rw [dieBit_eq_xor_highParity, dieBit_eq_xor_highParity, highParity_eq_of_half_eq hhalf, Bool.xor_left_inj, sab_seven, sab_seven,
    decide_eq_decide] at hdie
  exact BitVec.eq_of_toNat_eq (by omega)

theorem memOf_beq_one (l : LineAddr) : (memOf l == 1) = dieBit l := by
  unfold memOf
  cases dieBit l <;> rfl

theorem memOf_eq_of_dieBit {l : LineAddr} {m : MemNo} (h : dieBit l = (m == 1)) : memOf l = m := by
  rw [memOf, h]
  match m with
  | 0 | 1 => rfl

/-! ### The line recovered from a node, a port and an index -/

/-- The line of a home and an index that has 0 in bit 7. -/
def evenLine (node i : Nat) : LineAddr := BitVec.ofNat 45 (2 ^ 36 * node + 2 * i)

/-- Bit 7 of the recovered address, as R333 works it out. -/
def recoveredBit (node i : Nat) (m : MemNo) : Bool := (m == 1) ^^ highParity (evenLine node i)

section
variable {node i : Nat} (m : MemNo) (hnode : node < 512) (hi : i < 2 ^ 35)
include hnode hi

theorem evenLine_toNat : (evenLine node i).toNat = 2 ^ 1 * (2 ^ 35 * node + i) := by
  rw [evenLine, BitVec.toNat_ofNat]
  omega

/-- A port's line is its even line with the recovered bit in bit 7. -/
theorem lineOfMem_toNat : (lineOfMem node m i).toNat = 2 ^ 1 * (2 ^ 35 * node + i) + (recoveredBit node i m).toNat := by
  have hbit : ((BitVec.ofBool (recoveredBit node i m)).setWidth 45).toNat = (recoveredBit node i m).toNat := by
    cases recoveredBit node i m <;> rfl
  calc (lineOfMem node m i).toNat
      = ((evenLine node i) ||| (BitVec.ofBool (recoveredBit node i m)).setWidth 45).toNat := by
        rw [recoveredBit, ← Bool.bne_eq_xor]; rfl
    _ = 2 ^ 1 * (2 ^ 35 * node + i) ||| (recoveredBit node i m).toNat := by
        rw [BitVec.toNat_or, evenLine_toNat hnode hi, hbit]
    _ = 2 ^ 1 * (2 ^ 35 * node + i) + (recoveredBit node i m).toNat :=
        (Nat.two_pow_add_eq_or_of_lt (Bool.toNat_lt _) _).symm

theorem lineOfMem_half : (lineOfMem node m i).toNat / 2 = 2 ^ 35 * node + i := by
  have hbit := Bool.toNat_lt (recoveredBit node i m)
  rw [lineOfMem_toNat m hnode hi]
  omega

theorem lineHome_lineOfMem : lineHome (lineOfMem node m i) = node := by
  have hhalf := lineOfMem_half m hnode hi
  unfold lineHome
  omega

theorem memIndex_lineOfMem : memIndex (lineOfMem node m i) = i := by
  rw [memIndex, lineOfMem_half m hnode hi]
  omega

/-- The recovered bit 7 puts the line on the port's own die: the bits above bit 7 cancel in R39's sum. -/
theorem dieBit_lineOfMem : dieBit (lineOfMem node m i) = (m == 1) := by
  have hhigh : highParity (lineOfMem node m i) = highParity (evenLine node i) := by
    apply highParity_eq_of_half_eq
    rw [lineOfMem_half m hnode hi, evenLine_toNat hnode hi]
    omega
  have hlow : sab (lineOfMem node m i) 7 = recoveredBit node i m := by
    rw [sab_seven, lineOfMem_toNat m hnode hi, pow_one, Nat.mul_add_mod]
    cases recoveredBit node i m <;> rfl
  rw [dieBit_eq_xor_highParity, hhigh, hlow, recoveredBit, Bool.xor_assoc, Bool.xor_self, Bool.xor_false]

theorem memOf_lineOfMem : memOf (lineOfMem node m i) = m :=
  memOf_eq_of_dieBit (dieBit_lineOfMem m hnode hi)

end

theorem lineHome_lt (l : LineAddr) : lineHome l < 512 := by
  unfold lineHome
  omega

theorem memIndex_lt (l : LineAddr) : memIndex l < 2 ^ 35 := Nat.mod_lt _ (by decide)

theorem lineOfMem_memOf_memIndex (l : LineAddr) : lineOfMem (lineHome l) (memOf l) (memIndex l) = l := by
  apply line_eq_of_half_eq_of_dieBit_eq
  · rw [lineOfMem_half _ (lineHome_lt l) (memIndex_lt l), half_eq_lineHome_memIndex]
  · rw [dieBit_lineOfMem _ (lineHome_lt l) (memIndex_lt l), memOf_beq_one]

/-- R39 read as an equation for bit 7 of a line's system address. -/
theorem getLsbD_saOf_seven (l : LineAddr) : (saOf l).getLsbD 7 = (dieBit l ^^ (saOf l).getLsbD 13 ^^ (saOf l).getLsbD 19 ^^
    (saOf l).getLsbD 25 ^^ (saOf l).getLsbD 31 ^^ (saOf l).getLsbD 37) := by
  have hhigh : highParity l = (sab l 13 ^^ sab l 19 ^^ sab l 25 ^^ sab l 31 ^^ sab l 37) := by
    simp [highParity, xorBits]
  have hseven : sab l 7 = (dieBit l ^^ highParity l) := by
    rw [dieBit_eq_xor_highParity, Bool.xor_assoc, Bool.xor_self, Bool.xor_false]
  simpa only [getLsbD_saOf, Nat.reduceLeDiff, hhigh, Bool.xor_assoc] using hseven

/-- Settles O9: the bits of the recovered address are its line's home, index and home die, which are the operands it was recovered
from; and a line is fixed by these three. -/
theorem listedLinesAreRecovered : Obligations.ListedLinesAreRecovered := by
  intro node i n hnode hi
  refine ⟨?_, ?_, ?_, ?_, ?_, ?_⟩
  · rw [extractLsb'_saOf_lineHome, lineHome_lineOfMem n hnode hi]
  · rw [extractLsb'_saOf_memIndex, memIndex_lineOfMem n hnode hi]
  · rw [getLsbD_saOf_seven, dieBit_lineOfMem n hnode hi]
  · rw [lineOf_saOf, memOf_lineOfMem n hnode hi]
  · rw [lineOf_saOf, memIndex_lineOfMem n hnode hi]
  · rintro l rfl
    exact lineOfMem_memOf_memIndex l

end Sys2Proof.Machine
end

section
/-! PROOFS. A packet at the arbiter of a link (R354 to R356): it waits there, is handed to the transmitter, or has been sent, and
nothing that the arbiter does loses it. A bounded packet that has waited 1 µs is such a packet, under its new header. -/

namespace Sys2Proof.Machine

/-! ### A field of a header -/

theorem getLsbD_setHdr (x : BitVec 160) (lo width v i : Nat) :
    (setHdr x lo width v).getLsbD i =
      if lo ≤ i ∧ i < lo + width then (decide (i < 160) && v.testBit (i - lo)) else x.getLsbD i := by
  unfold setHdr
  rw [BitVec.getLsbD_or, BitVec.getLsbD_and, BitVec.getLsbD_and, BitVec.getLsbD_not, BitVec.getLsbD_ofNat, BitVec.getLsbD_ofNat,
    testBit_mask, Nat.testBit_shiftLeft]
  by_cases hlt : i < 160
  · by_cases hlo : lo ≤ i <;> by_cases hhi : i < lo + width <;> simp [hlt, hlo, hhi]
  · simp [hlt, BitVec.getLsbD_of_ge x i (by omega)]

/-! ### Lists -/

theorem perm_of_takeFirst {α : Type} {p : α → Bool} {x : α} {l rest : List α} (h : takeFirst p l = some (x, rest)) :
    l.Perm (x :: rest) := by
  induction l generalizing rest with
  | nil => cases h
  | cons y l ih =>
    unfold takeFirst at h
    split at h
    · cases h; exact .refl _
    · obtain ⟨⟨x', rest'⟩, htake, heq⟩ := Option.map_eq_some_iff.mp h
      cases heq
      exact ((ih htake).cons y).trans (.swap _ _ _)

theorem modFirst_append_cons {α : Type} {p : α → Bool} {f : α → α} {pre : List α} {x : α} (post : List α)
    (hpre : ∀ y ∈ pre, p y = false) (hx : p x = true) : modFirst p f (pre ++ x :: post) = pre ++ f x :: post := by
  induction pre with
  | nil => simp [modFirst, hx]
  | cons y pre ih =>
    have hy := hpre y List.mem_cons_self
    simp [modFirst, hy, ih fun z hz => hpre z (List.mem_cons_of_mem y hz)]

/-! ### The parts of a link -/

@[simp] theorem State.stile_setStile (s : State) (l : LinkNo) (f : StileSt → StileSt) :
    (s.setStile l f).stile l = f (s.stile l) := by
  rw [State.stile, State.setStile_links, vget_vmod, if_pos rfl]; rfl

theorem State.stile_setStile_of_ne (s : State) {j l : LinkNo} (hne : j ≠ l) (f : StileSt → StileSt) :
    (s.setStile j f).stile l = s.stile l := by
  rw [State.stile, State.setStile_links, vget_vmod, if_neg hne]; rfl

@[simp] theorem State.stile_count (s : State) (c n : Nat) (l : LinkNo) : (s.count c n).stile l = s.stile l := by
  rw [State.stile, State.count_links]; rfl

@[simp] theorem State.setLink_sent (s : State) (u : LinkUnit) (f : LinkSt → LinkSt) : (s.setLink u f).sent = s.sent := by
  cases u <;> rfl

@[simp] theorem State.setLink_mon (s : State) (u : LinkUnit) (f : LinkSt → LinkSt) : (s.setLink u f).mon = s.mon := by
  cases u <;> rfl

/-- The retry state of a unit is that of a link, or no part of it. -/
theorem State.stile_setLink (s : State) (u : LinkUnit) (f : LinkSt → LinkSt) (l : LinkNo) :
    (s.setLink u f).stile l = if u = .stile l then { s.stile l with link := f (s.stile l).link } else s.stile l := by
  cases u with
  | port p => rfl
  | stile j =>
    by_cases hjl : j = l
    · subst hjl
      rw [if_pos rfl]; exact s.stile_setStile j _
    · rw [if_neg (by simpa using hjl)]; exact s.stile_setStile_of_ne hjl _

/-! ### What leaves the device -/

theorem State.freeTag_frame (s : State) (p : Port) (tag : Tag) :
    (s.freeTag p tag).sent = s.sent ∧ (s.freeTag p tag).links = s.links ∧ (s.freeTag p tag).mon = s.mon := by
  unfold State.freeTag
  split <;> exact ⟨rfl, rfl, rfl⟩

/-- A record that leaves is put at the end of what was sent; links and status stay. -/
theorem State.left_frame (s : State) (x : Sent) :
    (s.left x).sent = s.sent ++ [x] ∧ (s.left x).links = s.links ∧ (s.left x).mon = s.mon := by
  cases x with
  | agent p m =>
    unfold State.left
    dsimp only
    split_ifs
    · exact State.freeTag_frame (s.emit _) p m.tag
    · exact ⟨rfl, rfl, rfl⟩
    · exact ⟨rfl, rfl, rfl⟩
  | _ => exact ⟨rfl, rfl, rfl⟩

theorem State.foldl_left_frame (gone : List Sent) (s : State) :
    (gone.foldl State.left s).sent = s.sent ++ gone ∧ (gone.foldl State.left s).links = s.links ∧
      (gone.foldl State.left s).mon = s.mon := by
  induction gone generalizing s with
  | nil => simp
  | cons x gone ih =>
    obtain ⟨hsent, hlinks, hmon⟩ := s.left_frame x
    simpa [hsent, hlinks, hmon] using ih (s.left x)

/-- Flits are formed of the oldest slots that wait (R338). -/
theorem LinkSt.pump_txSlots_suffix (n : Nat) (x : LinkSt) : (LinkSt.pump n x).txSlots <:+ x.txSlots := by
  induction n generalizing x with
  | zero => exact List.suffix_refl _
  | succ n ih =>
    unfold LinkSt.pump
    split
    · exact List.suffix_refl _
    · exact (ih _).trans (List.drop_suffix 3 x.txSlots)

theorem LinkSt.pump_txLater (n : Nat) (x : LinkSt) : (LinkSt.pump n x).txLater = x.txLater := by
  induction n generalizing x with
  | zero => rfl
  | succ n ih =>
    unfold LinkSt.pump
    split
    · rfl
    · exact ih _

/-! ### Where a packet of a link is -/

/-- The packet has been sent, waits at the arbiter of its link, or is with the transmitter, which keeps it with its last slot. -/
def State.Carries (s : State) (l : LinkNo) (k : StilePkt) : Prop :=
  .stile l k ∈ s.sent ∨ (∃ x ∈ (s.stile l).wait ++ (s.stile l).cur.toList, x.pkt = k) ∨
    ∃ x ∈ (s.stile l).link.txSlots ++ (s.stile l).link.txLater, x.last = some (.stile l k)

/-- Every packet of the link that `s` carries, `t` carries too; every source pending in `s` is pending in `t`. -/
structure Onward (l : LinkNo) (s t : State) : Prop where
  carries : ∀ k, s.Carries l k → t.Carries l k
  raised : ∀ ev, Raised s ev → Raised t ev

theorem Onward.refl (l : LinkNo) (s : State) : Onward l s s := ⟨fun _ h => h, fun _ h => h⟩

theorem Onward.trans {l : LinkNo} {s t u : State} (h : Onward l s t) (h' : Onward l t u) : Onward l s u :=
  ⟨fun k hk => h'.carries k (h.carries k hk), fun ev hev => h'.raised ev (h.raised ev hev)⟩

theorem State.Carries.congr {s t : State} {l : LinkNo} {k : StilePkt} (h : s.Carries l k) (hsent : t.sent = s.sent)
    (hstile : t.stile l = s.stile l) : t.Carries l k := by
  rwa [State.Carries, hsent, hstile]

theorem State.onward_count (l : LinkNo) (s : State) (c n : Nat) : Onward l s (s.count c n) where
  carries _ h := h.congr (s.count_sent c n) (s.stile_count c n l)
  raised ev h := s.count_pend_mono c n ev h

/-- Slots that the transmitter of the link holds may change their places; none may be lost. -/
theorem State.onward_setLink (l : LinkNo) (s : State) (u : LinkUnit) {f : LinkSt → LinkSt}
    (hf : ∀ x, ∀ y ∈ x.txSlots ++ x.txLater, y ∈ (f x).txSlots ++ (f x).txLater) : Onward l s (s.setLink u f) where
  carries k h := by
    rw [State.Carries, State.setLink_sent, State.stile_setLink]
    split
    · obtain hsent | hwait | ⟨y, hy, hlast⟩ := h
      · exact .inl hsent
      · exact .inr (.inl hwait)
      · exact .inr (.inr ⟨y, hf _ y hy, hlast⟩)
    · exact h
  raised ev h := by rwa [Raised, State.setLink_mon]

/-- A slot that leaves takes the packet that it ends with it; the other slots stay with the transmitter. -/
theorem State.onward_pumpLink (l : LinkNo) (s : State) (u : LinkUnit) : Onward l s (s.pumpLink u) := by
  unfold State.pumpLink
  split
  case isFalse => exact .refl l s
  case isTrue =>
    extract_lets x x' gone
    obtain ⟨hsent, hlinks, hmon⟩ := State.foldl_left_frame gone
      ((s.setLink u fun _ => x').count (linkCtr u 0) (x'.replay.length - x.replay.length))
    rw [State.count_sent, State.setLink_sent] at hsent
    rw [State.count_links] at hlinks
    refine ⟨fun k h => ?_, fun ev h => ?_⟩
    · have hstile := (congrArg (fun v => v.get l) hlinks).trans (s.stile_setLink u (fun _ => x') l)
      rw [State.Carries, hsent, State.stile, hstile]
      split
      case isFalse => exact h.imp_left (List.mem_append_left _)
      case isTrue hu =>
        subst hu
        obtain hold | hwait | ⟨y, hy, hlast⟩ := h
        · exact .inl (List.mem_append_left _ hold)
        · exact .inr (.inl hwait)
        · have hkept : x'.txSlots = x.txSlots.drop (x.txSlots.length - x'.txSlots.length) :=
            List.suffix_iff_eq_drop.mp (LinkSt.pump_txSlots_suffix _ x)
          have hlater : x'.txLater = x.txLater := LinkSt.pump_txLater _ x
          rw [← List.take_append_drop (x.txSlots.length - x'.txSlots.length) (s.stile l).link.txSlots, List.append_assoc,
            List.mem_append] at hy
          obtain hgone | hstays := hy
          · exact .inl (List.mem_append_right _ (List.mem_filterMap.mpr ⟨y, hgone, hlast⟩))
          · refine .inr (.inr ⟨y, ?_, hlast⟩)
            rwa [hlater, hkept]
    · rw [Raised, hmon]
      exact State.count_pend_mono _ _ _ ev (by rwa [State.setLink_mon])

theorem State.onward_transmitSlots (l : LinkNo) (s : State) (u : LinkUnit) (slots : List TxSlot) :
    Onward l s (s.transmitSlots u slots) := by
  refine (s.onward_setLink l u fun x y hy => ?_).trans (State.onward_pumpLink l _ u)
  split <;> simp only [List.mem_append] at hy ⊢ <;> tauto

theorem State.onward_transmitPart (l : LinkNo) (s : State) (u : LinkUnit) (slots : List TxSlot) (last : Bool) :
    Onward l s (s.transmitPart u slots last) := by
  refine (s.onward_setLink l u fun x y hy => ?_).trans (State.onward_pumpLink l _ u)
  split <;> simp only [List.mem_append] at hy ⊢ <;> tauto

/-- A packet whose last slot is handed to the transmitter is carried. -/
theorem State.carries_transmitSlots (s : State) {l : LinkNo} {k : StilePkt} {slots : List TxSlot} {y : TxSlot} (hy : y ∈ slots)
    (hlast : y.last = some (.stile l k)) : (s.transmitSlots (.stile l) slots).Carries l k := by
  refine (State.onward_pumpLink l _ _).carries k (.inr (.inr ⟨y, ?_, hlast⟩))
  rw [State.stile_setLink, if_pos rfl]
  dsimp only
  split <;> simp [hy]

theorem State.onward_returnBuf (l : LinkNo) (s : State) (b : Option (LinkNo × BitVec 3 × Bool × Nat)) :
    Onward l s (s.returnBuf b) := by
  cases b with
  | none => exact .refl l s
  | some b => exact s.onward_transmitSlots l _ _

/-! ### The arbiter -/

/-- A packet that waits, and the others that wait with it. -/
def StileSt.Splits (x : StileSt) (r : StileWait × List StileWait) : Prop := x.wait.Perm (r.1 :: r.2)

/-- The arbiter picks one of the packets that wait and leaves the others, and it picks none while one is going out. -/
theorem StileSt.pick_eq_some {x : StileSt} {r : StileWait × List StileWait} (h : x.pick = some r) : x.cur = none ∧ x.Splits r := by
  unfold StileSt.pick at h
  split at h
  · cases h
  next hcur =>
    refine ⟨by simpa using hcur, ?_⟩
    extract_lets first at h
    have hfirst : ∀ q, OptOk x.Splits (first q) := fun q => by
      unfold first
      split
      · next htake => exact iteInduction (fun _ => perm_of_takeFirst htake) fun _ => .none
      · exact .none
    clear_value first
    split at h
    · next hbounded =>
      cases h
      exact (hfirst _).elim hbounded
    · refine (foldl_keeps OptOk.none fun a i ha => ?_ : OptOk x.Splits _).elim h
      cases a with
      | none => exact hfirst fun p => !hdrB p.hdr && (pktVc p).val == (x.rr + 1 + i) % 10
      | some r => exact ha

theorem exists_last_txOf (x : Sent) {slots : List (BitVec 160)} (h : slots ≠ []) : ∃ y ∈ txOf x slots, y.last = some x := by
  induction slots with
  | nil => exact absurd rfl h
  | cons a slots ih =>
    cases slots with
    | nil => exact ⟨_, List.mem_cons_self, rfl⟩
    | cons b slots =>
      obtain ⟨y, hy, hlast⟩ := ih (List.cons_ne_nil b slots)
      exact ⟨y, List.mem_cons_of_mem _ hy, hlast⟩

/-- The arbiter takes the packet that it picked out of the queue, and keeps it while its slots still arrive (R355). -/
def State.takePicked (s : State) (l : LinkNo) (w : StileWait) (rest : List StileWait) : State :=
  s.setStile l (fun x => { x.spend w with wait := rest, cur := if w.open_.isSome then some w else none })

/-- A whole packet that was picked is the only one that the link does not carry until the transmitter has it. -/
theorem State.carries_takePicked {s : State} {l : LinkNo} {w : StileWait} {rest : List StileWait} {k : StilePkt}
    (hpick : (s.stile l).pick = some (w, rest)) (h : s.Carries l k) :
    (s.takePicked l w rest).Carries l k ∨ w.open_ = none ∧ w.pkt = k := by
  obtain ⟨hcur, hperm⟩ := StileSt.pick_eq_some hpick
  have hlink : ((s.stile l).spend w).link = (s.stile l).link := by
    unfold StileSt.spend; split <;> rfl
  rw [State.Carries, State.takePicked, State.setStile_sent, State.stile_setStile]
  obtain hsent | ⟨x, hx, rfl⟩ | hslot := h
  · exact .inl (.inl hsent)
  · rw [hcur, Option.toList_none, List.append_nil, hperm.mem_iff, List.mem_cons] at hx
    obtain rfl | hrest := hx
    · cases hopen : x.open_ with
      | none => exact .inr ⟨rfl, rfl⟩
      | some j => exact .inl (.inr (.inl ⟨x, by simp, rfl⟩))
    · exact .inl (.inr (.inl ⟨x, List.mem_append_left _ hrest, rfl⟩))
  · exact .inl (.inr (.inr (by rwa [hlink])))

/-- A whole packet that was picked goes to the transmitter. -/
theorem State.onward_takePicked_transmitSlots {s t : State} {l : LinkNo} {w : StileWait} {rest : List StileWait}
    (hpick : (s.stile l).pick = some (w, rest)) (ht : Onward l (s.takePicked l w rest) t) :
    Onward l s (t.transmitSlots (.stile l) (w.slots l)) where
  carries k h := by
    obtain hrest | ⟨hopen, rfl⟩ := State.carries_takePicked hpick h
    · exact (t.onward_transmitSlots l _ _).carries k (ht.carries k hrest)
    · obtain ⟨y, hy, hlast⟩ := exists_last_txOf (.stile l w.pkt) (List.cons_ne_nil w.pkt.hdr (payloadSlots w.pkt.payload))
      refine t.carries_transmitSlots (y := y) ?_ hlast
      rw [StileWait.slots, hopen]
      exact hy
  raised ev h := (t.onward_transmitSlots l _ _).raised ev (ht.raised ev h)

/-- R355: while the arbiter sends what waits, every packet of its link is carried on. -/
theorem State.onward_pumpStile (l : LinkNo) (n : Nat) (s : State) : Onward l s (State.pumpStile l n s) := by
  induction n generalizing s with
  | zero => exact .refl l s
  | succ n ih =>
    unfold State.pumpStile
    split
    · exact .refl l s
    · next w rest hpick =>
      extract_lets part s1 s2
      have hcount : Onward l (s.takePicked l w rest) s2 := by
        unfold s2
        split
        · exact s1.onward_count l _ 1
        · exact .refl l s1
      split
      · next hpart =>
        refine .trans ⟨fun k h => hcount.carries k ?_, hcount.raised⟩ (s2.onward_transmitPart l _ _ false)
        obtain hrest | ⟨hopen, -⟩ := State.carries_takePicked hpick h
        · exact hrest
        · simp [part, hopen] at hpart
      · exact (State.onward_takePicked_transmitSlots hpick hcount).trans ((State.onward_returnBuf l _ w.buf).trans (ih _))

/-! ### The escape of a bounded packet -/

/-- A bounded packet that has waited 1 µs. -/
def State.late (s : State) (w : StileWait) : Bool := hdrB w.pkt.hdr && decide (w.since + 1000 ≤ s.fine)

/-- The packet with its B bit cleared. -/
def StileWait.unbounded (w : StileWait) : StileWait := { w with pkt := { w.pkt with hdr := setHdr w.pkt.hdr 55 1 0 } }

/-- The oldest late packet of the link has escaped, in its place of the queue, and is counted and reported. -/
def State.escaped (s : State) (l : LinkNo) : State :=
  ((s.setStile l fun x => { x with wait := modFirst s.late StileWait.unbounded x.wait }).count (ctrSel 5 l 9)).raise 178 (unitLink l)

theorem opHopEscape_of_late {s : State} {l : LinkNo} (h : ∃ w ∈ (s.stile l).wait, s.late w = true) :
    opHopEscape l s = State.pumpStile l ((s.escaped l).stile l).wait.length (s.escaped l) :=
  if_pos (List.any_eq_true.mpr h)

theorem State.wait_escaped (s : State) (l : LinkNo) :
    ((s.escaped l).stile l).wait = modFirst s.late StileWait.unbounded (s.stile l).wait :=
  congrArg StileSt.wait ((State.stile_count _ _ _ l).trans (s.stile_setStile l _))

theorem State.raised_escaped (s : State) (l : LinkNo) : Raised (s.escaped l) 178 := State.raise_pend _ 178 _ (by decide)

/-- Settles O11: the escape leaves the packet in its place of the queue with B cleared and raises EV178, and what the arbiter then does
carries the packet on and clears no source. -/
theorem boundedPacketsEscape : Obligations.BoundedPacketsEscape := by
  intro s l pre post w hwait hpre hbounded hsince
  have hlate : s.late w = true := by simp [State.late, hbounded, hsince]
  have hearlier : ∀ x ∈ pre, s.late x = false := fun x hx => by
    obtain h | h := hpre x hx <;> simp [State.late, h]
  have hescape := opHopEscape_of_late (l := l) ⟨w, by simp [hwait], hlate⟩
  have hwaits : w.unbounded ∈ ((s.escaped l).stile l).wait := by
    simp [State.wait_escaped, hwait, modFirst_append_cons post hearlier hlate]
  have honward := State.onward_pumpStile l ((s.escaped l).stile l).wait.length (s.escaped l)
  refine ⟨?_, fun i hi => ?_, Keeps.does (execHopCreditEscape_keeps l s) (congrArg Host.Outcome.next hescape) ⟨?_, ?_⟩⟩
  · rw [hdrB, getLsbD_setHdr, if_pos (by omega)]; rfl
  · rw [getLsbD_setHdr, if_neg (by omega)]
  · exact honward.raised 178 (s.raised_escaped l)
  · exact honward.carries _ (.inr (.inl ⟨w.unbounded, List.mem_append_left _ hwaits, rfl⟩))

end Sys2Proof.Machine
end

section
/-! PROOFS. One step: every command completes and keeps the frame that Laws/Keep.lean names, and so does the ns that passes on an
empty queue. The statements about the step itself follow. -/

namespace Sys2Proof.Machine

/-- Every command completes, and its next state keeps all that the state kept. -/
theorem exec_keeps : ∀ (c : Instr) (s : State), Keeps (exec c s) s
  | .powerOnReset _, s => execPowerOnReset_keeps _ s
  | .pinReset _, s => execPinReset_keeps _ s
  | .slotValidated _, s => execSlotValidated_keeps _ s
  | .ddr5TrainingDone _ _, s => execDdr5TrainingDone_keeps _ _ s
  | .meminitDone, s => execMeminitDone_keeps s
  | .runEntered, s => execRunEntered_keeps s
  | .cmiTrainingDone _ _, s => execCmiTrainingDone_keeps _ _ s
  | .linkTrainingStepDone _ _ _ _, s => execLinkTrainingStepDone_keeps _ _ _ _ s
  | .linkDetectRetry _, s => execLinkDetectRetry_keeps _ s
  | .paramSlot _ _, s => execParamSlot_keeps _ _ s
  | .flitReceived _ _ _, s => execFlitReceived_keeps _ _ _ s
  | .ackTimer _, s => execAckTimer_keeps _ s
  | .ack _ _, s => execAck_keeps _ _ s
  | .nak _ _, s => execNak_keeps _ _ s
  | .blockLockLost _, s => execBlockLockLost_keeps _ s
  | .linkRetrainTimeout _, s => execLinkRetrainTimeout_keeps _ s
  | .vcc _ _, s => execVcc_keeps _ _ s
  | .timeExchangeTimer, s => execTimeExchangeTimer_keeps s
  | .timeRequest _ _ _, s => execTimeRequest_keeps _ _ _ s
  | .timeAnswer _ _, s => execTimeAnswer_keeps _ _ s
  | .ppsInEdge, s => execPpsInEdge_keeps s
  | .ppsLost, s => execPpsLost_keeps s
  | .ppsOutBoundary, s => execPpsOutBoundary_keeps s
  | .calendarTick, s => execCalendarTick_keeps s
  | .calendarTrimUpdate _, s => execCalendarTrimUpdate_keeps _ s
  | .crystalFault, s => execCrystalFault_keeps s
  | .paceReading _, s => execPaceReading_keeps _ s
  | .creditRelease _ _ _ _, s => execCreditRelease_keeps _ _ _ _ s
  | .breachDetected _, s => execBreachDetected_keeps _ s
  | .promiseDeadline _, s => execPromiseDeadline_keeps _ s
  | .fallbackAutoReturn, s => execFallbackAutoReturn_keeps s
  | .ceilingExpiry _, s => execCeilingExpiry_keeps _ s
  | .prmModeWrite _, s => execPrmModeWrite_keeps _ s
  | .modeSwitchComplete, s => execModeSwitchComplete_keeps s
  | .rds _, s => execRds_keeps _ s
  | .rdu _, s => execRdu_keeps _ s
  | .upg _, s => execUpg_keeps _ s
  | .rd _, s => execRd_keeps _ s
  | .rdc _ _, s => execRdc_keeps _ _ s
  | .wrp _ _ _ _, s => execWrp_keeps _ _ _ _ s
  | .wrn _ _, s => execWrn_keeps _ _ s
  | .wrb _ _, s => execWrb_keeps _ _ s
  | .evc _, s => execEvc_keeps _ s
  | .wrh _ _ _, s => execWrh_keeps _ _ _ s
  | .atm _ _ _ _ _ _, s => execAtm_keeps _ _ _ _ _ _ s
  | .mclean _, s => execMclean_keeps _ s
  | .mflush _, s => execMflush_keeps _ s
  | .fencew _ _ _, s => execFencew_keeps _ _ _ s
  | .fencel _ _ _, s => execFencel_keeps _ _ _ s
  | .fenceg _ _ _, s => execFenceg_keeps _ _ _ s
  | .fenceComplete _ _, s => execFenceComplete_keeps _ _ s
  | .ackc _ _, s => execAckc_keeps _ _ s
  | .snoopAnswer _ _ _ _ _ _ _, s => execSnoopAnswer_keeps _ _ _ _ _ _ _ s
  | .snoopDataWriteback _, s => execSnoopDataWriteback_keeps _ s
  | .dcmp _ _ _, s => execDcmp_keeps _ _ _ s
  | .ddata _ _ _ _, s => execDdata_keeps _ _ _ _ s
  | .mmioDelivery _, s => execMmioDelivery_keeps _ s
  | .frds _, s => execFrds_keeps _ s
  | .frdu _, s => execFrdu_keeps _ s
  | .fupg _, s => execFupg_keeps _ s
  | .frdc _, s => execFrdc_keeps _ s
  | .frdpf _, s => execFrdpf_keeps _ s
  | .fwr _ _ _, s => execFwr_keeps _ _ _ s
  | .fwb _ _ _, s => execFwb_keeps _ _ _ s
  | .fev _, s => execFev_keeps _ s
  | .fatm _ _ _ _ _ _ _ _, s => execFatm_keeps _ _ _ _ _ _ _ _ s
  | .fclean _, s => execFclean_keeps _ s
  | .fflush _, s => execFflush_keeps _ s
  | .fdevrd _ _ _, s => execFdevrd_keeps _ _ _ s
  | .fdevwr _ _ _ _, s => execFdevwr_keeps _ _ _ _ s
  | .ffwds _ _ _, s => execFfwds_keeps _ _ _ s
  | .ffwdu _ _ _, s => execFfwdu_keeps _ _ _ s
  | .ffwdc _ _ _, s => execFfwdc_keeps _ _ _ s
  | .finv _, s => execFinv_keeps _ s
  | .frecall _, s => execFrecall_keeps _ s
  | .frecallset _ _ _ _, s => execFrecallset_keeps _ _ _ _ s
  | .fdata _ _ _ _ _ _ _, s => execFdata_keeps _ _ _ _ _ _ _ s
  | .frecalldata _ _, s => execFrecalldata_keeps _ _ s
  | .fcmp _ _ _ _ _, s => execFcmp_keeps _ _ _ _ _ s
  | .finvack _, s => execFinvack_keeps _ s
  | .frecallack _ _, s => execFrecallack_keeps _ _ s
  | .ffwdmiss _, s => execFfwdmiss_keeps _ s
  | .fwback _ _, s => execFwback_keeps _ _ s
  | .fdecl _, s => execFdecl_keeps _ s
  | .fcmpack _, s => execFcmpack_keeps _ s
  | .stileForward _ _, s => execStileForward_keeps _ _ s
  | .hopCreditEscape _, s => execHopCreditEscape_keeps _ s
  | .headlandBeat _ _, s => execHeadlandBeat_keeps _ _ s
  | .sublinkStall _, s => execSublinkStall_keeps _ s
  | .memoryReadDone _ _, s => execMemoryReadDone_keeps _ _ s
  | .cmiReadDone _ _, s => execCmiReadDone_keeps _ _ s
  | .verifyReadDone _ _, s => execVerifyReadDone_keeps _ _ s
  | .fillDataArrival _, s => execFillDataArrival_keeps _ s
  | .fillWriteAccepted _, s => execFillWriteAccepted_keeps _ s
  | .pressDrainStart _, s => execPressDrainStart_keeps _ s
  | .pressAgeExpiry _, s => execPressAgeExpiry_keeps _ s
  | .pressDrainDone _, s => execPressDrainDone_keeps _ s
  | .pressPermissionGranted _, s => execPressPermissionGranted_keeps _ s
  | .swathTrackerIdle _ _, s => execSwathTrackerIdle_keeps _ _ s
  | .hamperWritebackStart _, s => execHamperWritebackStart_keeps _ s
  | .hamperWritebackDone _, s => execHamperWritebackDone_keeps _ s
  | .mntCleanAddr, s => execMntCleanAddr_keeps s
  | .mntFlushAddr, s => execMntFlushAddr_keeps s
  | .mntInvalAddr _, s => execMntInvalAddr_keeps _ s
  | .mntCleanSw, s => execMntCleanSw_keeps s
  | .mntFlushSw, s => execMntFlushSw_keeps s
  | .mntInvalSw, s => execMntInvalSw_keeps s
  | .mntRangeLineIssue, s => execMntRangeLineIssue_keeps s
  | .mntComplete, s => execMntComplete_keeps s
  | .slcWayEnWrite _ _, s => execSlcWayEnWrite_keeps _ _ s
  | .wayDrainVisit _ _, s => execWayDrainVisit_keeps _ _ s
  | .wayDrainDone _ _, s => execWayDrainDone_keeps _ _ s
  | .cmiCtlWrite _ _, s => execCmiCtlWrite_keeps _ _ s
  | .channelDisableDone _, s => execChannelDisableDone_keeps _ s
  | .drillIssue _, s => execDrillIssue_keeps _ s
  | .prefetchPass _, s => execPrefetchPass_keeps _ s
  | .drillTrackerIdle _ _, s => execDrillTrackerIdle_keeps _ _ s
  | .drillAccuracyInterval, s => execDrillAccuracyInterval_keeps s
  | .drlCfgWrite _ _, s => execDrlCfgWrite_keeps _ _ s
  | .drlAccWrite _, s => execDrlAccWrite_keeps _ s
  | .contentionDecay, s => execContentionDecay_keeps s
  | .snoopTimeout _ _, s => execSnoopTimeout_keeps _ _ s
  | .agpDeadCtlDeclare _ _, s => execAgpDeadCtlDeclare_keeps _ _ s
  | .deadAgentWalkDone _, s => execDeadAgentWalkDone_keeps _ s
  | .nodeTimeout _ _, s => execNodeTimeout_keeps _ _ s
  | .glbDeadCtlDeclare _, s => execGlbDeadCtlDeclare_keeps _ s
  | .deadNodeWalkDone _, s => execDeadNodeWalkDone_keeps _ s
  | .pwqIssue _, s => execPwqIssue_keeps _ s
  | .orderedWriteVisible _ _, s => execOrderedWriteVisible_keeps _ _ s
  | .spillBatchWrite _, s => execSpillBatchWrite_keeps _ s
  | .spillBatchRead _, s => execSpillBatchRead_keeps _ s
  | .agpPwqFlush _, s => execAgpPwqFlush_keeps _ s
  | .pwqFlushDone _, s => execPwqFlushDone_keeps _ s
  | .walkDescriptorRead _ _, s => execWalkDescriptorRead_keeps _ _ s
  | .ptuRootLoWrite _ _, s => execPtuRootLoWrite_keeps _ _ s
  | .ptuRootHiWrite _ _, s => execPtuRootHiWrite_keeps _ _ s
  | .ptuSeedWrite _ _, s => execPtuSeedWrite_keeps _ _ s
  | .tlbInvByAddress _, s => execTlbInvByAddress_keeps _ s
  | .tlbInvByContext _, s => execTlbInvByContext_keeps _ s
  | .tlbInvAll _, s => execTlbInvAll_keeps _ s
  | .tlbInvComplete _, s => execTlbInvComplete_keeps _ s
  | .darnerCacheVisit _, s => execDarnerCacheVisit_keeps _ s
  | .darnerMemVisit _, s => execDarnerMemVisit_keeps _ s
  | .darnerDueTick _, s => execDarnerDueTick_keeps _ s
  | .scrubUeReport _, s => execScrubUeReport_keeps _ s
  | .memUeReport _, s => execMemUeReport_keeps _ s
  | .darCtlWrite _, s => execDarCtlWrite_keeps _ s
  | .darnerRestartCache, s => execDarnerRestartCache_keeps s
  | .darnerRestartMem, s => execDarnerRestartMem_keeps s
  | .retirementListClear _ _, s => execRetirementListClear_keeps _ _ s
  | .unretire _, s => execUnretire_keeps _ s
  | .thresholdWindowEnd _ _, s => execThresholdWindowEnd_keeps _ _ s
  | .darThrWinWrite _, s => execDarThrWinWrite_keeps _ s
  | .ddr5Refresh _, s => execDdr5Refresh_keeps _ s
  | .ddr5TempPoll _ _, s => execDdr5TempPoll_keeps _ _ s
  | .hpprDone _, s => execHpprDone_keeps _ s
  | .agpLinkCtlRetrain _, s => execAgpLinkCtlRetrain_keeps _ s
  | .mbxRead _, s => execMbxRead_keeps _ s
  | .mbxWrite _, s => execMbxWrite_keeps _ s
  | .mbxPop _, s => execMbxPop_keeps _ s
  | .mbxCaptureDone _, s => execMbxCaptureDone_keeps _ s
  | .mbxTimeout _, s => execMbxTimeout_keeps _ s
  | .inbandEventSend, s => execInbandEventSend_keeps s
  | .evtRteWrite _, s => execEvtRteWrite_keeps _ s
  | .evtSwWrite _, s => execEvtSwWrite_keeps _ s
  | .evtQFlush, s => execEvtQFlush_keeps s
  | .logRseqWrite _, s => execLogRseqWrite_keeps _ s
  | .logMark, s => execLogMark_keeps s
  | .logRewind, s => execLogRewind_keeps s
  | .csrWrite _ _, s => execCsrWrite_keeps _ _ s
  | .sesGo, s => execSesGo_keeps s
  | .sesOpen _ _ _, s => execSesOpen_keeps _ _ _ s
  | .sesAuth _ _, s => execSesAuth_keeps _ _ s
  | .lockoutExpiry _, s => execLockoutExpiry_keeps _ s
  | .sessionIdleTimeout _, s => execSessionIdleTimeout_keeps _ s
  | .sesClose _, s => execSesClose_keeps _ s
  | .csrRd _ _ _, s => execCsrRd_keeps _ _ _ s
  | .csrWr _ _ _, s => execCsrWr_keeps _ _ _ s
  | .mbx _ _ _ _ _, s => execMbx_keeps _ _ _ _ _ s
  | .logRd _ _, s => execLogRd_keeps _ _ s
  | .calGet _, s => execCalGet_keeps _ s
  | .calSet _ _, s => execCalSet_keeps _ _ s
  | .mode _ _, s => execMode_keeps _ _ s
  | .ppr _ _ _, s => execPpr_keeps _ _ _ s
  | .imgErase _ _, s => execImgErase_keeps _ _ s
  | .imgWrite _ _ _ _, s => execImgWrite_keeps _ _ _ _ s
  | .imgRead _ _ _ _, s => execImgRead_keeps _ _ _ _ s
  | .imgCheck _ _, s => execImgCheck_keeps _ _ s
  | .resetCmd _, s => execResetCmd_keeps _ s
  | .fuse _ _ _, s => execFuse_keeps _ _ _ s
  | .flashOperationDone, s => execFlashOperationDone_keeps s
  | .rtcLoad, s => execRtcLoad_keeps s
  | .pwrRestWrite, s => execPwrRestWrite_keeps s
  | .restEntered, s => execRestEntered_keeps s
  | .restExitCause _, s => execRestExitCause_keeps _ s
  | .restExitDone, s => execRestExitDone_keeps s
  | .fallowRequest _, s => execFallowRequest_keeps _ s
  | .fallowEntryStep, s => execFallowEntryStep_keeps s
  | .fallowEntered, s => execFallowEntered_keeps s
  | .wakeNFall, s => execWakeNFall_keeps s
  | .slpNEdge _, s => execSlpNEdge_keeps _ s
  | .wakeStep, s => execWakeStep_keeps s
  | .wakeComplete, s => execWakeComplete_keeps s
  | .resowReadIssue, s => execResowReadIssue_keeps s
  | .resowingDone, s => execResowingDone_keeps s
  | .pwrSeedCfgWrite _, s => execPwrSeedCfgWrite_keeps _ s
  | .vinFall _, s => execVinFall_keeps _ s
  | .vinRise _, s => execVinRise_keeps _ s
  | .vbakLow, s => execVbakLow_keeps s
  | .mainRailsGood, s => execMainRailsGood_keeps s
  | .mainRailLost _, s => execMainRailLost_keeps _ s
  | .adaptiveVddcUpdate _ _ _ _ _ _ _, s => execAdaptiveVddcUpdate_keeps _ _ _ _ _ _ _ s
  | .pmbStatWrite _, s => execPmbStatWrite_keeps _ s
  | .thermalReading _ _, s => execThermalReading_keeps _ _ s
  | .throttleRelease, s => execThrottleRelease_keeps s
  | .thermalTrip, s => execThermalTrip_keeps s
  | .tripRecovery _, s => execTripRecovery_keeps _ s
  | .vbakPresent, s => execVbakPresent_keeps s
  | .vbakLost, s => execVbakLost_keeps s
  | .entdaa _, s => execEntdaa_keeps _ s
  | .enec, s => execEnec_keeps s

/-- A command of which it is known what state it answers. -/
theorem Does.of_exec {c : Instr} {s t : State} {P : State → Prop} (h : exec c s = .next t) (hp : P t) : Does c s P :=
  (exec_keeps c s).does h hp

/-- Settles O7: what every command keeps, in the terms of claims. -/
theorem everyCommandCompletes : Obligations.EveryCommandCompletes := fun c s => (exec_keeps c s).completes

/-- Settles O1: the queue's front and rest are the two operands of the step. -/
theorem stepRunsFront : Obligations.StepRunsFront := by
  intro c s rest hpending
  unfold step
  rw [hpending]

theorem step_of_idle {s : State} (h : s.pending = []) : step s = .next s.tick := by
  unfold step
  rw [h]

/-! ### The step keeps the invariant and the fuses -/

/-- What `s` keeps of itself is kept by its tick, at the next ns. -/
theorem State.tick_keeps (s : State) :
    Ok ⟨Inv s, s.pending, s.fine + 1, s.sent, s.fuses⟩ s.tick := State.tick_ok (Ok.self s (Inv s) id)

theorem Ok.fusesStay {k : Kept} {t : State} (h : Ok k t) : FusesStay k.f t.fuses :=
  ⟨h.fuses.variant, h.fuses.pkh, h.fuses.rkey⟩

/-- What a command keeps of the state that it runs on, which is the state before the step without the queue's front. -/
theorem exec_rest_keeps {c : Instr} {s t : State} {rest : List Instr} (h : exec c { s with pending := rest } = .next t) :
    Ok ⟨Inv s, rest, s.fine, s.sent, s.fuses⟩ t := by
  obtain ⟨u, hu, hok⟩ := exec_keeps c { s with pending := rest }
  obtain rfl := Host.Outcome.next.inj (hu.symm.trans h)
  have hfront : Inv s → Inv { s with pending := rest } := fun ⟨hmem, hreg, harr, hstat⟩ => ⟨hmem, hreg, harr, hstat⟩
  exact hok _ (Ok.self { s with pending := rest } (Inv s) hfront)

/-- A step that answers keeps the invariant, the fuses and what was sent: it is a tick, or a command with the queue's rest. -/
theorem step_keeps {s t : State} (h : step s = .next t) : ∃ q n, Ok ⟨Inv s, q, n, s.sent, s.fuses⟩ t := by
  cases hpending : s.pending with
  | nil =>
    obtain rfl := Host.Outcome.next.inj ((step_of_idle hpending).symm.trans h)
    exact ⟨_, _, s.tick_keeps⟩
  | cons c rest => exact ⟨_, _, exec_rest_keeps ((stepRunsFront c s rest hpending).symm.trans h)⟩

/-- Settles O5: by what a step keeps. -/
theorem stepKeepsInv : Obligations.StepKeepsInv := by
  intro s t hinv hstep
  obtain ⟨q, n, hok⟩ := step_keeps hstep
  exact hok.inv hinv

/-- Settles O6: by what a step keeps. -/
theorem stepKeepsFuses : Obligations.StepKeepsFuses := by
  intro s t hstep
  obtain ⟨q, n, hok⟩ := step_keeps hstep
  exact ⟨hok.fusesStay, hok.sent⟩

/-! ### An empty queue: what waits at a front end may reach the sessions' engine

A held register write lets the engine perform the session commands that wait (R421), and FUSE is one of them (R418). -/

/-- FUSE of the key hash, with the first sequence number of a session and its MAC under the session key 0. -/
def waitingFuse : SesFrame :=
  { tr := .i3c, opc := 0x41, stat := 0, len := 33, seq := 1, payload := 0 :: leBytes 32 99,
    mac := 73441935120504714252815234546722310241 }

/-- A posted store to a register of the own node, translated and held by nothing. -/
def heldStore : FrontReq :=
  { req := { op := .store, cls := 2, tag := 0, ch := 0, addr := csrAddr 0 0x40, posted := true }
    id := 0, at_ := 0, tr := .ready (csrAddr 0 0x40) none, credit := none }

/-- The state after reset with a session of level 2 open, FUSE waiting there, and the store at the front end of port 0. -/
def fuseWaits : State :=
  ({ State.reset with ses := { State.reset.ses with
    i3c := { isOpen := true, level := 2 }, waiting := [waitingFuse] } } : State).setPort 0 (fun x => { x with front := [heldStore] })

theorem fuseWaits_tick_pkhSet : fuseWaits.tick.fuses.pkhSet = true := by decide +kernel

/-- Refutes O2: in the ns that passes the held store reaches the register path, and the FUSE command that waits programs the key
hash; the fuses do not stay. -/
theorem not_stepIdles : ¬ Obligations.StepIdles := by
  intro h
  obtain ⟨t, hstep, -, -, -, hfuses, -⟩ := h fuseWaits rfl
  obtain rfl := Host.Outcome.next.inj ((step_of_idle rfl).symm.trans hstep)
  exact absurd ((congrArg Fuses.pkhSet hfuses).symm.trans fuseWaits_tick_pkhSet) (by decide)

/-! ### Reset -/

/-- Settles O3. -/
theorem resetInv : Obligations.ResetInv := by
  unfold Obligations.ResetInv
  decide

/-- Settles O4. -/
theorem resetValues : Obligations.ResetValues := by
  unfold Obligations.ResetValues
  decide +kernel

end Sys2Proof.Machine
end

section
/-! PROOFS. The codeword stores behind the memory ports and the channels: a line put at an index reads back, and every other line reads
as before (R309, R316). -/

namespace Sys2Proof.Machine

/-! ### A line is its sixteen codewords -/

/-- The words of `f` below `n`, laid side by side. -/
theorem getLsbD_foldl_words (f : Nat → Codeword) (n i : Nat) (hi : i < 1280) :
    ((List.range n).foldl (fun (a : CodeLine) n => a ||| ((f n).setWidth 1280 <<< (80 * n))) 0).getLsbD i =
      (decide (i < 80 * n) && (f (i / 80)).getLsbD (i % 80)) := by
  induction n with
  | zero => simp
  | succ n ih =>
    rw [List.range_succ, List.foldl_append, List.foldl_cons, List.foldl_nil, BitVec.getLsbD_or, ih, BitVec.getLsbD_shiftLeft,
      BitVec.getLsbD_setWidth, decide_eq_true hi]
    obtain hlt | hword | hge : i < 80 * n ∨ (i / 80 = n ∧ 80 * n ≤ i ∧ i < 80 * (n + 1)) ∨ 80 * (n + 1) ≤ i := by omega
    · simp [hlt, show i < 80 * (n + 1) by omega]
    · obtain ⟨hn, hle, hlt⟩ := hword
      have hsub : i - 80 * n = i % 80 := by omega
      simp [hn, hlt, hsub, Nat.not_lt.mpr hle, show i % 80 < 1280 by omega]
    · have hbit : (f n).getLsbD (i - 80 * n) = false := BitVec.getLsbD_of_ge _ _ (by omega)
      simp [hbit, show ¬ i < 80 * n by omega, Nat.not_lt.mpr hge]

theorem getLsbD_mkLine (f : Nat → Codeword) (i : Nat) (hi : i < 1280) :
    (mkLine f).getLsbD i = (f (i / 80)).getLsbD (i % 80) := by
  rw [mkLine, getLsbD_foldl_words f 16 i hi, decide_eq_true (by omega), Bool.true_and]

theorem mkLine_congr {f g : Nat → Codeword} (h : ∀ n < 16, f n = g n) : mkLine f = mkLine g := by
  apply BitVec.eq_of_getLsbD_eq
  intro i hi
  rw [getLsbD_mkLine f i hi, getLsbD_mkLine g i hi, h (i / 80) (by omega)]

@[simp] theorem mkLine_lineWord (c : CodeLine) : mkLine (lineWord c) = c := by
  apply BitVec.eq_of_getLsbD_eq
  intro i hi
  rw [getLsbD_mkLine _ i hi, lineWord, BitVec.getLsbD_extractLsb', Nat.div_add_mod, decide_eq_true (Nat.mod_lt i (by decide)),
    Bool.true_and]

/-! ### A store of codewords -/

/-- Codeword `k` after the first `n` words of a line have been put at index `i`. -/
theorem get_foldl_put {m : List (Nat × Codeword)} (h : Memory.wf m = true) (i : Nat) (c : CodeLine) (n k : Nat) :
    Sparse.get (fun _ => 0) ((List.range n).foldl (fun m n => Sparse.set (fun _ => 0) m (16 * i + n) (lineWord c n)) m) k =
      if 16 * i ≤ k ∧ k < 16 * i + n then lineWord c (k - 16 * i) else Sparse.get (fun _ => 0) m k := by
  induction n with
  | zero => rw [if_neg (by omega)]; rfl
  | succ n ih =>
    have hwf := foldl_keeps (Q := fun m => Memory.wf m = true) (l := List.range n)
      (f := fun m n => Sparse.set (fun _ => 0) m (16 * i + n) (lineWord c n)) h (fun _ _ hx => Sparse.set_wf _ _ hx)
    rw [List.range_succ, List.foldl_append, List.foldl_cons, List.foldl_nil, Sparse.get_set _ _ _ hwf, ih]
    by_cases hk : 16 * i + n = k
    · rw [if_pos hk, if_pos (by omega), ← hk, Nat.add_sub_cancel_left]
    · rw [if_neg hk]
      exact if_congr (by omega) rfl rfl

/-- A line after a write: the line written at the index written, and what stood there at any other. -/
theorem getLine_putLine {m : List (Nat × Codeword)} (h : Memory.wf m = true) (i j : Nat) (c : CodeLine) :
    getLine (putLine m i c) j = if i = j then c else getLine m j := by
  by_cases hij : i = j
  · subst hij
    rw [if_pos rfl, getLine, ← mkLine_lineWord c]
    refine mkLine_congr fun n hn => ?_
    rw [putLine, get_foldl_put h, if_pos (by omega), Nat.add_sub_cancel_left, mkLine_lineWord]
  · rw [if_neg hij, getLine, getLine]
    refine mkLine_congr fun n hn => ?_
    rw [putLine, get_foldl_put h, if_neg (by omega)]

/-! ### Memory ports -/

/-- Counting on the engine's account leaves its stores and lists alone. -/
theorem Coh.ctr_eq (c : Coh) (sel n : Nat) : c.ctr sel n = { c with fx := (c.ctr sel n).fx } := by
  unfold Coh.ctr
  split <;> rfl

theorem Coh.writeMem_ddr (c : Coh) (l : LineAddr) (cl : CodeLine) :
    (c.writeMem l cl).ddr = vmod c.ddr (memOf l) (fun d => putLine d (memIndex l) cl) := by
  rw [Coh.writeMem, Coh.ctr_eq]

/-- A line of a memory after a write of a line. -/
theorem Coh.rawMem_writeMem {c : Coh} (h : ∀ m : MemNo, Memory.wf (c.ddr.get m) = true) (l : LineAddr) (cl : CodeLine) (m : MemNo)
    (i : Nat) : (c.writeMem l cl).rawMem m i = if memOf l = m ∧ memIndex l = i then cl else c.rawMem m i := by
  rw [Coh.rawMem, Coh.writeMem_ddr, vget_vmod]
  by_cases hm : memOf l = m
  · subst hm
    rw [if_pos rfl, getLine_putLine (h _)]
    simp only [true_and]
    rfl
  · simp only [hm, if_false, false_and]
    rfl

/-- A line is fixed by its home, its memory port and its index (R333). -/
theorem line_ext {l l' : LineAddr} (hhome : lineHome l = lineHome l') (hmem : memOf l = memOf l') (hidx : memIndex l = memIndex l') :
    l = l' := by
  rw [← lineOfMem_memOf_memIndex l, ← lineOfMem_memOf_memIndex l', hhome, hmem, hidx]

/-- Settles O12: a line of a node is fixed by the port and the index under which it is stored. -/
theorem memoryReadsBack : Obligations.MemoryReadsBack := by
  intro c l l' cl hwf hhome
  refine ⟨?_, fun m => ?_⟩
  · rw [Coh.rawMem_writeMem hwf]
    exact if_congr ⟨fun ⟨hmem, hidx⟩ => line_ext hhome hmem hidx, fun h => h ▸ ⟨rfl, rfl⟩⟩ rfl rfl
  · rw [Coh.writeMem_ddr]
    exact vmod_all (P := fun m => Memory.wf m = true) hwf _ (fun h => putLine_wf h _ _) m

end Sys2Proof.Machine
end

section
/-! PROOFS. A port or link in ACTIVE with nothing before it sends a packet at once (R338, R340): its slots become flits of the replay
buffer, the flits are counted, and the packet has left. -/

namespace Sys2Proof.Machine

/-! ### What a command is about -/

theorem State.onCore_of_coreOn {s : State} (h : s.coreOn = true) (f : State → State) : s.onCore f = f s := by
  rw [State.onCore, h]; rfl

theorem vmod_vmod {α : Type} {n : Nat} (v : Vector α n) (i : Fin n) (f g : α → α) :
    vmod (vmod v i f) i g = vmod v i (fun x => g (f x)) := by
  ext j hj
  show (vmod (vmod v i f) i g).get ⟨j, hj⟩ = (vmod v i (fun x => g (f x))).get ⟨j, hj⟩
  simp only [vget_vmod, if_true]
  split <;> rfl

/-- Two updates of one port are one. -/
theorem State.setPort_setPort (s : State) (p : Port) (f g : PortSt → PortSt) :
    (s.setPort p f).setPort p g = s.setPort p (fun x => g (f x)) := by
  unfold State.setPort
  rw [vmod_vmod]

theorem State.setStile_setStile (s : State) (l : LinkNo) (f g : StileSt → StileSt) :
    (s.setStile l f).setStile l g = s.setStile l (fun x => g (f x)) := by
  unfold State.setStile
  rw [vmod_vmod]

theorem State.setLink_setLink (s : State) (u : LinkUnit) (f g : LinkSt → LinkSt) :
    (s.setLink u f).setLink u g = s.setLink u (fun x => g (f x)) := by
  cases u with
  | port p => exact State.setPort_setPort s p _ _
  | stile l => exact State.setStile_setStile s l _ _

@[simp] theorem State.port_setPort (s : State) (p : Port) (f : PortSt → PortSt) : (s.setPort p f).port p = f (s.port p) := by
  rw [State.port, State.setPort_ports, vget_vmod, if_pos rfl]; rfl

theorem State.port_setPort_of_ne (s : State) {p q : Port} (hne : p ≠ q) (f : PortSt → PortSt) :
    (s.setPort p f).port q = s.port q := by
  rw [State.port, State.setPort_ports, vget_vmod, if_neg hne]; rfl

@[simp] theorem State.linkSt_setLink (s : State) (u : LinkUnit) (f : LinkSt → LinkSt) :
    (s.setLink u f).linkSt u = f (s.linkSt u) := by
  cases u with
  | port p => exact congrArg PortSt.link (s.port_setPort p _)
  | stile l => exact congrArg StileSt.link (s.stile_setStile l _)

@[simp] theorem State.setLink_regs (s : State) (u : LinkUnit) (f : LinkSt → LinkSt) : (s.setLink u f).regs = s.regs := by
  cases u <;> rfl

/-- A field is read from the registers alone. -/
theorem State.rf_congr {s t : State} (h : t.regs = s.regs) (f : RField) : t.rf f = s.rf f :=
  congrArg (fun r => fld (Sparse.get regReset r f.off) f.lo f.width) h

theorem State.rb_congr {s t : State} (h : t.regs = s.regs) (f : RField) : t.rb f = s.rb f :=
  congrArg (· != 0) (State.rf_congr h f)

/-- The training state of a unit is in its registers. -/
theorem State.linkState_congr {s t : State} (h : t.regs = s.regs) (u : LinkUnit) : t.linkState u = s.linkState u := by
  cases u <;> exact congrArg (fun r => fld (Sparse.get regReset r _) _ _) h

/-- A count changes the status alone, and clears no pending source. -/
theorem State.count_eq (s : State) (c n : Nat) :
    ∃ m : Monitor, s.count c n = { s with mon := m } ∧ ∀ ev, s.mon.ev.pend.getLsbD ev = true → m.ev.pend.getLsbD ev = true := by
  refine ⟨(s.count c n).mon, ?_, fun ev h => State.count_pend_mono s c n ev h⟩
  unfold State.count
  split <;> rfl

/-! ### The transmitter -/

/-- Flits that whole packets of `n` slots need. -/
def flitsFor (n : Nat) : Nat := (n + 2) / 3

/-- All waiting slots become flits where the replay buffer has room for them. -/
theorem LinkSt.pump_of_room {n : Nat} {x : LinkSt} (hopen : x.txOpen = false) (hn : x.txSlots.length ≤ n)
    (hroom : x.replay.length + flitsFor x.txSlots.length ≤ 256) :
    LinkSt.pump n x = { x with replay := (LinkSt.pump n x).replay, txSeq := (LinkSt.pump n x).txSeq, txSlots := [] } := by
  induction n generalizing x with
  | zero =>
    have hnil : x.txSlots = [] := List.eq_nil_of_length_eq_zero (by omega)
    rw [LinkSt.pump, ← hnil]
  | succ n ih =>
    by_cases hnil : x.txSlots = []
    · have hstop : LinkSt.pump (n + 1) x = x := by
        unfold LinkSt.pump
        rw [hnil]; rfl
      rw [hstop, ← hnil]
    · have hpos : 0 < x.txSlots.length := List.length_pos_of_ne_nil hnil
      unfold flitsFor at hroom
      rw [LinkSt.pump, if_neg (by simp [hnil, hopen]; omega)]
      have hnext := ih (x := { x with
        replay := x.replay ++ [(x.txSeq, flitOf ((x.txSlots.take 3).map TxSlot.slot) x.txSeq)]
        txSlots := x.txSlots.drop 3
        txSeq := x.txSeq + 1 }) hopen (by simp only [List.length_drop]; omega)
        (by simp only [flitsFor, List.length_drop, List.length_append, List.length_singleton]; omega)
      exact hnext

theorem txOf_length (x : Sent) : ∀ slots : List (BitVec 160), (txOf x slots).length = slots.length
  | [] => rfl
  | [_] => rfl
  | _ :: b :: l => congrArg (· + 1) (txOf_length x (b :: l))

/-- A packet leaves with its last slot, and with no other. -/
theorem txOf_filterMap_last (x : Sent) : ∀ {slots : List (BitVec 160)}, slots ≠ [] → (txOf x slots).filterMap TxSlot.last = [x]
  | [], h => absurd rfl h
  | [_], _ => rfl
  | _ :: b :: l, _ => (List.filterMap_cons_none rfl).trans (txOf_filterMap_last x (List.cons_ne_nil b l))

/-- A unit's transmitter with new flits in its replay buffer. -/
def LinkSt.sentOff (x y : LinkSt) : Prop := y = { x with replay := y.replay, txSeq := y.txSeq }

/-- The state in which a record has left through a unit: status and the unit's transmitter have changed as well. -/
def State.passed (s : State) (u : LinkUnit) (y : LinkSt) (m : Monitor) (x : Sent) : State :=
  (({ s with mon := m } : State).setLink u (fun _ => y)).left x

/-- No source pending in `s` is cleared in the status `m`. -/
def State.MonAfter (s : State) (m : Monitor) : Prop := ∀ ev, s.mon.ev.pend.getLsbD ev = true → m.ev.pend.getLsbD ev = true

/-- The flits of what waits join the replay buffer. -/
theorem LinkSt.pump_replay_length {n : Nat} {x : LinkSt} (hopen : x.txOpen = false) (hn : x.txSlots.length ≤ n)
    (hroom : x.replay.length + flitsFor x.txSlots.length ≤ 256) :
    (LinkSt.pump n x).replay.length = x.replay.length + flitsFor x.txSlots.length := by
  induction n generalizing x with
  | zero => simp [LinkSt.pump, List.eq_nil_of_length_eq_zero (Nat.le_zero.mp hn), flitsFor]
  | succ n ih =>
    by_cases hnil : x.txSlots = []
    · simp [LinkSt.pump, hnil, flitsFor]
    · have hpos : 0 < x.txSlots.length := List.length_pos_of_ne_nil hnil
      unfold flitsFor at hroom
      rw [LinkSt.pump, if_neg (by simp [hnil, hopen]; omega)]
      have hnext := ih (x := { x with
        replay := x.replay ++ [(x.txSeq, flitOf ((x.txSlots.take 3).map TxSlot.slot) x.txSeq)]
        txSlots := x.txSlots.drop 3
        txSeq := x.txSeq + 1 }) hopen (by simp only [List.length_drop]; omega)
        (by simp only [flitsFor, List.length_drop, List.length_append, List.length_singleton]; omega)
      refine hnext.trans ?_
      simp only [flitsFor, List.length_drop, List.length_append, List.length_singleton]
      omega

/-- R338, R340: a unit in ACTIVE where nothing waits sends a packet at once, when the replay buffer has room for its flits. -/
theorem State.transmit_of_room {s : State} {u : LinkUnit} (hactive : s.linkState u = stActive) (hempty : (s.linkSt u).txSlots = [])
    (hopen : (s.linkSt u).txOpen = false) {slots : List (BitVec 160)} (hne : slots ≠ [])
    (hlen : (s.linkSt u).replay.length + flitsFor slots.length ≤ 256) (x : Sent) :
    ∃ y m, s.transmit u slots x = s.passed u y m x ∧ (s.linkSt u).sentOff y ∧ s.MonAfter m ∧
      y.replay.length = (s.linkSt u).replay.length + flitsFor slots.length := by
  let joined : LinkSt := { s.linkSt u with txSlots := txOf x slots }
  have hroom : joined.replay.length + flitsFor joined.txSlots.length ≤ 256 := by
    show (s.linkSt u).replay.length + flitsFor (txOf x slots).length ≤ 256
    rw [txOf_length]
    exact hlen
  have hpump := LinkSt.pump_of_room (x := joined) hopen (le_refl _) hroom
  have hjoin : (s.setLink u (fun l => if l.txOpen then { l with txLater := l.txLater ++ txOf x slots }
      else { l with txSlots := l.txSlots ++ txOf x slots })).linkSt u = joined := by
    rw [State.linkSt_setLink, if_neg (by simp [hopen]), hempty, List.nil_append]
  have hstate : (s.setLink u (fun l => if l.txOpen then { l with txLater := l.txLater ++ txOf x slots }
      else { l with txSlots := l.txSlots ++ txOf x slots })).linkState u = stActive := by
    rw [State.linkState_congr (State.setLink_regs s u _), hactive]
  have hgone : (LinkSt.pump joined.txSlots.length joined).txSlots = [] := congrArg LinkSt.txSlots hpump
  unfold State.transmit State.transmitSlots State.pumpLink
  rw [if_pos hstate, hjoin]
  dsimp only
  rw [hgone, State.setLink_setLink, List.length_nil, Nat.sub_zero, List.take_length, txOf_filterMap_last x hne, List.foldl_cons,
    List.foldl_nil]
  obtain ⟨m, hm, hmono⟩ := State.count_eq (s.setLink u (fun _ => LinkSt.pump joined.txSlots.length joined)) (linkCtr u 0)
    ((LinkSt.pump joined.txSlots.length joined).replay.length - joined.replay.length)
  refine ⟨LinkSt.pump joined.txSlots.length joined, m, ?_, ?_, fun ev hev => hmono ev (by rwa [State.setLink_mon]), ?_⟩
  · rw [hm, State.passed]
    cases u <;> rfl
  · rw [LinkSt.sentOff, hpump, ← hempty]
  · rw [LinkSt.pump_replay_length (x := joined) hopen (le_refl _) hroom]
    exact congrArg (fun n => (s.linkSt u).replay.length + flitsFor n) (txOf_length x slots)

/-- A clear unit sends a packet at once. -/
theorem State.transmit_of_clear {s : State} {u : LinkUnit} (h : Clear s u) {slots : List (BitVec 160)} (hne : slots ≠ [])
    (hlen : slots.length ≤ 24) (x : Sent) :
    ∃ y m, s.transmit u slots x = s.passed u y m x ∧ (s.linkSt u).sentOff y ∧ s.MonAfter m := by
  obtain ⟨hactive, hempty, hopen, hreplay⟩ := h
  obtain ⟨y, m, hsend, hoff, hmon, -⟩ := State.transmit_of_room hactive hempty hopen hne (by unfold flitsFor; omega) x
  exact ⟨y, m, hsend, hoff, hmon⟩

/-- Whether a unit is clear is in the registers and in its transmitter. -/
theorem clear_congr {s t : State} {u : LinkUnit} (h : Clear s u) (hregs : t.regs = s.regs) (hlink : t.linkSt u = s.linkSt u) :
    Clear t u := by
  unfold Clear
  rw [State.linkState_congr hregs, hlink]
  exact h

/-- A clear unit sends a link-control slot at once. -/
theorem State.sendCtl_of_clear {s : State} {u : LinkUnit} (h : Clear s u) (c : CtlSlot) :
    ∃ y m, s.sendCtl u c = s.passed u y m (.ctl u c) ∧ (s.linkSt u).sentOff y ∧ s.MonAfter m :=
  State.transmit_of_clear h (List.cons_ne_nil _ _) (by simp) _

theorem agentSlots_length_le (m : AgentMsg) : (agentSlots m).length ≤ 9 := by
  unfold agentSlots slotsOf
  dsimp only
  split_ifs <;> simp only [List.length_cons, List.length_map, List.length_range, List.length_nil] <;> decide

theorem payloadSlots_length_le (d : FabPayload) : (payloadSlots d).length ≤ 9 := by
  cases d <;> simp only [payloadSlots, slotsOf, List.length_map, List.length_range, List.length_nil] <;> decide

/-- The account of a marked delivery changes the status alone. -/
theorem State.markedDelivery_eq (s : State) (p : Port) (m : AgentMsg) :
    ∃ n : Monitor, s.markedDelivery p m = { s with mon := n } ∧ s.MonAfter n := by
  unfold State.markedDelivery
  split
  · exact ⟨s.mon, rfl, fun _ h => h⟩
  · obtain ⟨n, hn, hmono⟩ := s.count_eq (ctrMarked p) 1
    rw [hn]
    dsimp only
    split
    · exact ⟨n, rfl, hmono⟩
    · exact ⟨_, rfl, fun ev h => State.report_pend_mono _ _ ev (hmono ev h)⟩

/-- A clear port whose agent is not dead sends a packet to the agent at once. -/
theorem State.toAgent_of_clear {s : State} {p : Port} (hacc : s.accepts p = true) (h : Clear s (.port p)) (m : AgentMsg) :
    ∃ y n, s.toAgent p m = s.passed (.port p) y n (.agent p m) ∧ (s.port p).link.sentOff y ∧ s.MonAfter n := by
  obtain ⟨n, hn, hmono⟩ := s.markedDelivery_eq p m
  have hclear : Clear ({ s with mon := n } : State) (.port p) := h
  obtain ⟨y, n', hsend, hoff, hmono'⟩ := State.transmit_of_clear hclear (slots := agentSlots m) (List.cons_ne_nil _ _)
    ((agentSlots_length_le m).trans (by decide)) (.agent p m)
  refine ⟨y, n', ?_, hoff, fun ev hev => hmono' ev (hmono ev hev)⟩
  rw [State.toAgent, if_pos hacc, hn, hsend]
  rfl

end Sys2Proof.Machine
end

section
/-! PROOFS. Events, the trouble log's cursor and the mailboxes (R380 to R400): each operation changes the status or a mailbox alone. -/

namespace Sys2Proof.Machine

/-! ### Beats of the Headland -/

/-- A state whose Headland has changed and that has sent more records. -/
def State.onHdl (s : State) (h : HeadlandSt) (l : List Sent) : State := { s with hdl := h, sent := s.sent ++ l }

theorem State.onHdl_self (s : State) : s.onHdl s.hdl [] = s := by
  rw [State.onHdl, List.append_nil]

theorem State.pumpHdl_eq (toE : Bool) (n : Nat) (s : State) :
    ∃ h l, State.pumpHdl toE n s = s.onHdl h l ∧ ∀ x ∈ l, isBeat x = true := by
  induction n generalizing s with
  | zero => exact ⟨s.hdl, [], s.onHdl_self.symm, by simp⟩
  | succ n ih =>
    rw [State.pumpHdl]
    split
    · exact ⟨s.hdl, [], s.onHdl_self.symm, by simp⟩
    · split
      · exact ⟨s.hdl, [], s.onHdl_self.symm, by simp⟩
      · next x rest _ =>
        obtain ⟨h, l, heq, hbeats⟩ := ih _
        refine ⟨h, x.beats.map (fun b => .headland toE b) ++ l, ?_, fun y hy => ?_⟩
        · rw [heq, State.onHdl, State.onHdl, ← List.append_assoc]; rfl
        · obtain hmine | hlater := List.mem_append.mp hy
          · obtain ⟨b, -, rfl⟩ := List.mem_map.mp hmine
            rfl
          · exact hbeats y hlater

/-- What crosses the Headland puts beats there and changes nothing else (R21). -/
theorem State.cross_eq (s : State) (a b : HdlUnit) (stile : Bool) (vcl : Fin 5) (cls : BitVec 2) (x : BitVec 160)
    (line : Option CodeLine) (mask : Option ByteMask) :
    ∃ h l, s.cross a b stile vcl cls x line mask = s.onHdl h l ∧ ∀ y ∈ l, isBeat y = true := by
  unfold State.cross
  split
  · obtain ⟨h, l, heq, hbeats⟩ := State.pumpHdl_eq (b.die == 1) _ _
    exact ⟨h, l, heq, hbeats⟩
  · exact ⟨s.hdl, [], s.onHdl_self.symm, by simp⟩

/-- Beats that go out before a record do not show in what the device sends. -/
theorem sends_of_beats {s t : State} {l : List Sent} {x : Sent} (hsent : t.sent = s.sent ++ l ++ [x])
    (hbeats : ∀ y ∈ l, isBeat y = true) (hx : isBeat x = false) : Sends s t [x] := by
  have hnone : l.filter (fun y => !isBeat y) = [] := List.filter_eq_nil_iff.mpr fun y hy => by simp [hbeats y hy]
  rw [Sends, hsent, List.filter_append, List.filter_append, hnone, List.append_nil]
  simp [hx]

/-! ### What a report leaves pending -/

theorem evReserved_software {b : Nat} (h : b < 32) : evReserved (256 + b) = false := by
  simp [evReserved]
  omega

/-- Raising a list of sources changes the status alone, and leaves each of them pending. -/
theorem foldl_raise (g : Nat → Nat) (u : Nat) (l : List Nat) (hl : ∀ b ∈ l, evReserved (g b) = false) (s : State) :
    let t := l.foldl (fun (s : State) b => s.raise (g b) u) s
    t = { s with mon := t.mon } ∧ (∀ ev, Raised s ev → Raised t ev) ∧ ∀ b ∈ l, Raised t (g b) := by
  induction l generalizing s with
  | nil => exact ⟨rfl, fun _ h => h, by simp⟩
  | cons b l ih =>
    obtain ⟨heq, hmono, hall⟩ := ih (fun c hc => hl c (List.mem_cons_of_mem _ hc)) (s.raise (g b) u)
    refine ⟨heq, fun ev h => hmono ev (s.report_pend_mono _ ev h), fun c hc => ?_⟩
    obtain rfl | hc := List.mem_cons.mp hc
    · exact hmono _ (s.raise_pend _ u (hl c List.mem_cons_self))
    · exact hall c hc

/-! ### Routes, software events, the queue (R388, R391 to R393) -/

theorem opEvtRte_route {s : State} (h : Inv.status s) {v : Word} (hidx : s.rf F.EVT_RTE_IDX.INDEX < 288) (n : Nat) :
    (opEvtRte v s).mon.ev.route n = if s.rf F.EVT_RTE_IDX.INDEX = n then v.extractLsb' 0 5 else s.mon.ev.route n := by
  obtain ⟨-, hroutes, -⟩ := h
  unfold opEvtRte
  dsimp only
  rw [if_neg (by omega)]
  exact Sparse.get_set _ n _ hroutes

/-- A route written is the only change. -/
theorem opEvtRte_eq (v : Word) (s : State) :
    opEvtRte v s = { s with mon := { s.mon with ev := { s.mon.ev with routes := (opEvtRte v s).mon.ev.routes } } } := by
  unfold opEvtRte
  dsimp only
  split <;> rfl

theorem opEvtSw_raises (v : Word) (s : State) :
    (∀ b < 32, v.getLsbD b = true → Raised (opEvtSw v s) (256 + b)) ∧ opEvtSw v s = { s with mon := (opEvtSw v s).mon } := by
  obtain ⟨heq, -, hall⟩ := foldl_raise (256 + ·) unitRegs ((List.range 32).filter (fun b => bit v b))
    (fun b hb => evReserved_software (List.mem_range.mp (List.mem_of_mem_filter hb))) s
  exact ⟨fun b hb hv => hall b (List.mem_filter.mpr ⟨List.mem_range.mpr hb, hv⟩), heq⟩

/-! ### In-band messages (R390) -/

/-- A packet that is no response and no store of a device request leaves the port's tags alone. -/
theorem State.left_agent {m : AgentMsg} (hresp : m.isResponse = false) (hwr : ¬(m.opc = opDWrP ∨ m.opc = opDWrN)) (s : State)
    (p : Port) : s.left (.agent p m) = s.emit (.agent p m) := by
  unfold State.left
  simp only [hresp, if_neg hwr]
  rfl

theorem State.inbOk_accepts {s : State} (h : s.inbOk = true) : s.accepts (Fin.ofNat 6 (s.rf F.EVT_INB.PORT)) = true := by
  simp only [State.inbOk, Bool.and_eq_true] at h
  obtain ⟨-, ⟨hkind, -⟩, hdead⟩ := h
  rw [State.accepts, hkind, hdead]; rfl

/-- The state in which a message is on its way to its port: it waits no more, and a buffer of the agent is taken. -/
def State.inbandTaken (s : State) (p : Port) (rest : List (Nat × BitVec 64)) (h : HeadlandSt) (l : List Sent) : State :=
  ((s.setEv (fun e => { e with inb := rest })).onHdl h l).setPort p (fun x => { x with evtCred := x.evtCred - 1 })

theorem State.port_inbandTaken (s : State) (p : Port) (rest : List (Nat × BitVec 64)) (h : HeadlandSt) (l : List Sent) :
    (s.inbandTaken p rest h l).port p = { s.port p with evtCred := (s.port p).evtCred - 1 } := State.port_setPort _ _ _

/-- The oldest message that waits is given to its port, over the Headland. -/
theorem opInband_eq {s : State} {m : Nat × BitVec 64} {rest : List (Nat × BitVec 64)} (hwait : s.mon.ev.inb = m :: rest)
    (hok : s.inbOk = true) {p : Port} (hp : p = Fin.ofNat 6 (s.rf F.EVT_INB.PORT)) (hcred : 0 < (s.port p).evtCred) :
    ∃ h l, opInband s = (s.inbandTaken p rest h l).toAgent p { opc := opEvMsg, addr := BitVec.ofNat 52 m.1, time := m.2 } ∧
      ∀ y ∈ l, isBeat y = true := by
  obtain ⟨h, l, hcross, hbeats⟩ := State.cross_eq (s.setEv (fun e => { e with inb := rest })) (.regs 0) (.port p) false 4 2
    (agentHdr { opc := opEvMsg, addr := BitVec.ofNat 52 m.1, time := m.2 }) none none
  refine ⟨h, l, ?_, hbeats⟩
  unfold opInband
  rw [hwait]
  dsimp only
  rw [hok, ← hp, if_neg (by decide), if_neg (by omega), State.inbandTaken, ← hcross]
  rfl

theorem opInband_of_clear {s : State} {m : Nat × BitVec 64} {rest : List (Nat × BitVec 64)} (hwait : s.mon.ev.inb = m :: rest)
    (hok : s.inbOk = true) {p : Port} (hp : p = Fin.ofNat 6 (s.rf F.EVT_INB.PORT)) (hcred : 0 < (s.port p).evtCred)
    (hclear : Clear s (.port p)) :
    let t := opInband s
    (t.port p).evtCred = (s.port p).evtCred - 1 ∧
      Sends s t [.agent p { opc := opEvMsg, addr := BitVec.ofNat 52 m.1, time := m.2 }] ∧
      t = { s with ports := t.ports, mon := t.mon, sent := t.sent, hdl := t.hdl } := by
  obtain ⟨h, l, heq, hbeats⟩ := opInband_eq hwait hok hp hcred
  have hport := s.port_inbandTaken p rest h l
  have hlink : (s.inbandTaken p rest h l).linkSt (.port p) = s.linkSt (.port p) := by
    rw [State.linkSt, hport]; rfl
  have hclear' := clear_congr hclear (t := s.inbandTaken p rest h l) rfl hlink
  have hacc : s.accepts p = true := hp ▸ State.inbOk_accepts hok
  obtain ⟨y, n, hsend, -, -⟩ := State.toAgent_of_clear (s := s.inbandTaken p rest h l) hacc hclear'
    { opc := opEvMsg, addr := BitVec.ofNat 52 m.1, time := m.2 }
  rw [heq, hsend, State.passed, State.left_agent rfl (show ¬(opEvMsg = opDWrP ∨ opEvMsg = opDWrN) by decide)]
  refine ⟨?_, sends_of_beats rfl hbeats rfl, rfl⟩
  have hset := State.port_setPort ({ s.inbandTaken p rest h l with mon := n } : State) p (fun x => { x with link := y })
  have hcred' := congrArg PortSt.evtCred hset
  rw [show ({ s.inbandTaken p rest h l with mon := n } : State).port p = (s.inbandTaken p rest h l).port p from rfl, hport] at hcred'
  exact hcred'

/-- Settles O44. -/
theorem eventRegisters : Obligations.EventRegisters := by
  refine ⟨fun s hinv => ⟨fun v hs hidx => ?_, fun v hon => ?_, fun hs => ?_⟩, fun s m rest hwait hok => ?_⟩
  · obtain ⟨-, -, -, hstat⟩ := hinv
    refine Does.of_exec (congrArg Host.Outcome.next (State.onReg_of_serving hs (opEvtRte v))) ⟨?_, fun n hn => ?_, opEvtRte_eq v s⟩
    · rw [opEvtRte_route hstat hidx, if_pos rfl]
    · rw [opEvtRte_route hstat hidx, if_neg (Ne.symm hn)]
  · exact Does.of_exec (congrArg Host.Outcome.next (State.onCore_of_coreOn hon (opEvtSw v))) (opEvtSw_raises v s)
  · exact Does.of_exec (congrArg Host.Outcome.next (State.onReg_of_serving hs opEvtFlush)) ⟨rfl, rfl, rfl, rfl, rfl, rfl⟩
  · intro p hcred hclear
    exact Does.of_exec rfl (opInband_of_clear hwait hok rfl hcred hclear)

/-! ### The trouble log's cursor (R397, R399) -/

/-- An occurrence leaves the cursor at the oldest entry, and the error of a rewind set: a log that loses its oldest entry takes the
cursor along (R398). -/
def TroubleLog.Rewound (l : TroubleLog) : Prop := l.rseq = l.oldest ∧ l.rewindErr = true

theorem Monitor.raise_log (m : Monitor) (e : MonEnv) (ev unit : Nat) (seq : Word) : (m.raise e ev unit seq).1.log = m.log := by
  unfold Monitor.raise
  split
  · rfl
  · dsimp only
    split <;> rfl

theorem Monitor.count_log (m : Monitor) (sel n : Nat) : (m.count sel n).1.log = m.log := by
  unfold Monitor.count
  dsimp only
  split
  · rfl
  · split <;> rfl

theorem Monitor.rewound_write {m : Monitor} (h : m.log.Rewound) (e : MonEnv) (ev unit : Nat) (raised : Bool) (d : BitVec 128) :
    (m.write e ev unit raised d).1.log.Rewound := by
  obtain ⟨hseq, herr⟩ := h
  unfold Monitor.write
  by_cases hlost : 2048 ≤ m.log.entries.length
  · simp only [ge_iff_le, hlost, if_true, decide_true, Bool.true_and, hseq, beq_self_eq_true]
    split <;> exact ⟨rfl, herr⟩
  · simp only [ge_iff_le, hlost, if_false, decide_false, Bool.false_and, Bool.false_eq_true]
    refine ⟨hseq.trans ?_, herr⟩
    simp only [TroubleLog.oldest, List.length_append, List.length_singleton, BitVec.ofNat_add]
    bv_omega

theorem Monitor.rewound_occ {m : Monitor} (h : m.log.Rewound) (e : MonEnv) (o : Occ) : (m.occ e o).1.log.Rewound := by
  cases o with
  | raise ev unit seq => exact (m.raise_log e ev unit seq).symm ▸ h
  | log ev unit raised d => exact Monitor.rewound_write h e ev unit raised d
  | count sel n => exact (m.count_log sel n).symm ▸ h

theorem Monitor.rewound_run (e : MonEnv) :
    ∀ (n : Nat) (l : List Occ) (m : Monitor), m.log.Rewound → (Monitor.run e n l m).log.Rewound
  | 0, _, _, h => by simpa [Monitor.run] using h
  | _ + 1, [], _, h => by simpa [Monitor.run] using h
  | n + 1, o :: _, _, h => by
    unfold Monitor.run
    exact Monitor.rewound_run e n _ _ (Monitor.rewound_occ h e o)

/-- R399: a rewind without a mark goes to the oldest entry, and is an error. -/
theorem opLogRewind_without_mark {s : State} (h : s.mon.log.markValid = false) :
    let t := opLogRewind s
    t.mon.log.Rewound ∧ Raised t 6 ∧ t = { s with mon := t.mon } := by
  unfold opLogRewind
  rw [if_neg (by simp [h])]
  exact ⟨Monitor.rewound_run _ _ _ _ ⟨rfl, rfl⟩, State.raise_pend _ 6 _ (by decide), rfl⟩

/-- Settles O45. -/
theorem logCursor : Obligations.LogCursor := by
  intro s hon
  refine ⟨fun v => ?_, ?_, fun hmark => ?_, fun hmark => ?_⟩
  · refine Does.of_exec (congrArg Host.Outcome.next (State.onCore_of_coreOn hon (opLogRseq v))) ⟨fun h => ?_, fun h => ?_, rfl⟩
    · exact if_pos h
    · exact if_neg (by omega)
  · exact Does.of_exec (congrArg Host.Outcome.next (State.onCore_of_coreOn hon opLogMark)) rfl
  · refine Does.of_exec (congrArg Host.Outcome.next (State.onCore_of_coreOn hon opLogRewind)) ?_
    rw [opLogRewind, if_pos hmark]
    rfl
  · obtain ⟨⟨hseq, herr⟩, hraised, heq⟩ := opLogRewind_without_mark hmark
    exact Does.of_exec (congrArg Host.Outcome.next (State.onCore_of_coreOn hon opLogRewind)) ⟨hseq, herr, hraised, heq⟩

/-! ### The mailboxes (R380 to R386) -/

@[simp] theorem State.mail_setMail (s : State) (m : Fin 4) (f : Mailbox → Mailbox) : (s.setMail m f).mail m = f (s.mail m) := by
  rw [State.mail, State.setMail_mbx, vget_vmod, if_pos rfl]; rfl

/-- An update of one mailbox that keeps the command waiting for it keeps the waiting command of every mailbox. -/
theorem State.mail_setMail_waiter (s : State) (m n : Fin 4) {f : Mailbox → Mailbox} (hf : ∀ x, (f x).waiter = x.waiter) :
    ((s.setMail m f).mail n).waiter = (s.mail n).waiter := by
  rw [State.mail, State.setMail_mbx, vget_vmod]
  split
  · next h => rw [hf, h]; rfl
  · rfl

/-- No session command waits for mailbox 3: nothing is answered. -/
theorem State.mailReply_of_no_waiter {s : State} (h : (s.mail 3).waiter = none) : s.mailReply = s := by
  unfold State.mailReply
  dsimp only
  rw [h]

theorem State.mailGo_accepted {s : State} {m : Fin 4} {op : Nat} (h : s.goError m op = 0) :
    s.mailGo m op = s.setMail m (fun x => { x with
      lsel := x.sel, lop := BitVec.ofNat 2 op, busy := true, valid := false, empty := false, selWritten := false, started := s.fine }) := by
  unfold State.mailGo
  exact if_neg (not_not.mpr h)

theorem State.mailGo_refused {s : State} {m : Fin 4} {op : Nat} (h : s.goError m op ≠ 0) :
    s.mailGo m op = s.mailError m (s.goError m op) (s.mail m).sel := by
  unfold State.mailGo
  exact if_pos h

/-- An operation that is refused or given up sets ERR with its code and raises EV004 (R381). -/
theorem State.mailError_spec (s : State) (m : Fin 4) {code : Nat} (hcode : code < 16) (sel : Word) :
    let t := s.mailError m code sel
    (t.mail m).err = true ∧ (t.mail m).code.toNat = code ∧ (t.mail m).busy = (s.mail m).busy ∧ Raised t 4 ∧
      t = { s with mbx := t.mbx, mon := t.mon } := by
  have hmail : (s.mailError m code sel).mail m = { s.mail m with err := true, code := BitVec.ofNat 4 code } := s.mail_setMail m _
  refine ⟨?_, ?_, ?_, State.raiseLog_pend _ 4 _ _ (by decide), rfl⟩ <;> rw [hmail]
  exact Nat.mod_eq_of_lt hcode

theorem State.mailError_waiter (s : State) (m : Fin 4) (code : Nat) (sel : Word) (n : Fin 4) :
    ((s.mailError m code sel).mail n).waiter = (s.mail n).waiter :=
  State.mail_setMail_waiter s m n (f := fun x => { x with err := true, code := BitVec.ofNat 4 code }) (fun _ => rfl)

theorem State.goError_lt (s : State) (m : Fin 4) (op : Nat) : s.goError m op < 16 := by
  unfold State.goError
  dsimp only
  split
  · decide
  split
  · decide
  split
  · decide
  · split_ifs <;> decide

/-- A GO of a mailbox of software. -/
theorem mailGo_does {s : State} (m : Fin 4) {op : Nat} (hop : op < 3) {c : Instr} (hc : exec c s = .next (s.mailGo m op)) :
    (s.goError m op = 0 → Does c s (fun t => (t.mail m).busy = true ∧ (t.mail m).lsel = (s.mail m).sel ∧
      (t.mail m).lop.toNat = op ∧ (t.mail m).valid = false ∧ (t.mail m).empty = false ∧ t = { s with mbx := t.mbx })) ∧
    (s.goError m op ≠ 0 → Does c s (fun t => (t.mail m).err = true ∧ (t.mail m).code.toNat = s.goError m op ∧
      (t.mail m).busy = (s.mail m).busy ∧ Raised t 4 ∧ t = { s with mbx := t.mbx, mon := t.mon })) := by
  refine ⟨fun h => Does.of_exec hc ?_, fun h => Does.of_exec hc ?_⟩
  · rw [State.mailGo_accepted h, State.mail_setMail]
    exact ⟨rfl, rfl, Nat.mod_eq_of_lt (by omega), rfl, rfl, rfl⟩
  · rw [State.mailGo_refused h]
    exact s.mailError_spec m (s.goError_lt m op) _

/-- The end of a write: the counter that the latched selector names holds the value, and every other counter its own. -/
theorem State.mailDone_write {s : State} (h : Inv.status s) {m : Fin 4} (hbusy : (s.mail m).busy = true) (hop : (s.mail m).lop = 1) :
    let x := s.mail m
    let sel := ctrSel (selKind x.lsel) (selInst x.lsel) (selIndex x.lsel)
    let t := s.mailDone m
    (t.mail m).busy = false ∧ (t.mail 3).waiter = (s.mail 3).waiter ∧
      (ctrVal (ctrGet t.mon sel) = ((x.data.get 0).toNat + 2 ^ 32 * (x.data.get 1).toNat) % 2 ^ 48) ∧
      (∀ k, k ≠ sel → ctrGet t.mon k = ctrGet s.mon k) ∧ t = { s with mbx := t.mbx, mon := t.mon } := by
  intro x sel
  let c : BitVec 49 := BitVec.ofNat 49 ((x.data.get 0).toNat + 2 ^ 32 * ((x.data.get 1).toNat % 2 ^ 17))
  have hdone : s.mailDone m = (s.setMon (fun k => k.setCtr sel c)).setMail m (fun x => { x with busy := false }) := by
    unfold State.mailDone
    dsimp only
    rw [if_neg (by simp [hbusy]), if_pos hop]
  have hget : ∀ k, ctrGet (s.mailDone m).mon k = if sel = k then c else ctrGet s.mon k := fun k => by
    rw [hdone]
    exact Sparse.get_set sel k c h.1
  dsimp only
  refine ⟨?_, ?_, ?_, fun k hk => ?_, ?_⟩
  · rw [hdone, State.mail_setMail]
  · rw [hdone]
    exact State.mail_setMail_waiter (s.setMon (fun k => k.setCtr sel c)) m 3 (fun _ => rfl)
  · rw [hget, if_pos rfl, ctrVal, BitVec.toNat_ofNat]
    omega
  · rw [hget, if_neg (Ne.symm hk)]
  · rw [hdone]; rfl

/-- The end of a read of a counter: the mailbox shows the counter's value, which stays. -/
theorem State.mailDone_read {s : State} {m : Fin 4} (hbusy : (s.mail m).busy = true) (hop : (s.mail m).lop = 0)
    (hkind : selKind (s.mail m).lsel < 0x10) (hsel : (s.mail m).selWritten = false) :
    let x := s.mail m
    let sel := ctrSel (selKind x.lsel) (selInst x.lsel) (selIndex x.lsel)
    let t := s.mailDone m
    (t.mail m).busy = false ∧ (t.mail 3).waiter = (s.mail 3).waiter ∧ (t.mail m).valid = true ∧
      (t.mail m).data.get 0 = (ctrGet s.mon sel).setWidth 32 ∧
      (t.mail m).data.get 1 = ((ctrGet s.mon sel).extractLsb' 32 17).setWidth 32 ∧ t.mon.ctr = s.mon.ctr := by
  intro x sel
  let shown : Vector Word 8 := Vector.ofFn (fun i => (wordsOf 2 (ctrGet s.mon sel).toNat).getD i.val 0)
  let read := s.setMon (fun m => { m with seen := m.seen.filter (fun n => n != sel) })
  have hcapture : s.capture x.lsel = (some (wordsOf 2 (ctrGet s.mon sel).toNat), read) := by
    unfold State.capture
    dsimp only
    rw [if_pos hkind]
  have hdone : s.mailDone m = read.setMail m (fun x => { x with busy := false, valid := !x.selWritten, data := shown }) := by
    unfold State.mailDone
    dsimp only
    rw [if_neg (by simp [hbusy]), if_neg (by rw [hop]; decide), hcapture]
  dsimp only
  rw [hdone, State.mail_setMail]
  refine ⟨rfl, State.mail_setMail_waiter read m 3 (fun _ => rfl), ?_, ?_, ?_, rfl⟩
  · show (!x.selWritten) = true
    rw [hsel]; rfl
  · show BitVec.ofNat 32 ((ctrGet s.mon sel).toNat >>> (32 * 0)) = _
    bv_omega
  · show BitVec.ofNat 32 ((ctrGet s.mon sel).toNat >>> (32 * 1)) = _
    apply BitVec.eq_of_toNat_eq
    rw [BitVec.toNat_setWidth, BitVec.extractLsb'_toNat, BitVec.toNat_ofNat, Nat.mod_eq_of_lt (a := _ >>> 32 % 2 ^ 17)]
    · have hlt := (ctrGet s.mon sel).isLt
      rw [Nat.shiftRight_eq_div_pow]
      omega
    · omega

/-- Settles O46. -/
theorem mailboxOperations : Obligations.MailboxOperations := by
  refine ⟨fun s m hon hm => ?_, fun s m hinv hwaiter hbusy => ⟨fun hop => ?_, fun hop hkind hsel => ?_, fun hlate => ?_⟩⟩
  · have hgo : ∀ op, s.onCore (opMail m op) = s.mailGo m op := fun op => by
      rw [State.onCore_of_coreOn hon, opMail, if_neg hm]
    intro go op hop
    refine mailGo_does m hop ?_
    match op, hop with
    | 0, _ => exact congrArg Host.Outcome.next (hgo 0)
    | 1, _ => exact congrArg Host.Outcome.next (hgo 1)
    | 2, _ => exact congrArg Host.Outcome.next (hgo 2)
  · obtain ⟨-, -, -, hstat⟩ := hinv
    obtain ⟨hbusy', hwaiter', hval, hother, heq⟩ := State.mailDone_write hstat hbusy hop
    exact Does.of_exec (congrArg Host.Outcome.next (State.mailReply_of_no_waiter (hwaiter'.trans hwaiter)))
      ⟨hbusy', hval, hother, heq⟩
  · obtain ⟨hbusy', hwaiter', hrest⟩ := State.mailDone_read hbusy hop hkind hsel
    exact Does.of_exec (congrArg Host.Outcome.next (State.mailReply_of_no_waiter (hwaiter'.trans hwaiter))) ⟨hbusy', hrest⟩
  · let given := s.setMail m (fun x => { x with busy := false })
    have hgive : s.mailAbandon m = given.mailError m 7 (s.mail m).lsel := by
      unfold State.mailAbandon
      exact if_pos ⟨hbusy, hlate⟩
    have hgiven : (given.mail 3).waiter = (s.mail 3).waiter := State.mail_setMail_waiter s m 3 (fun _ => rfl)
    have hwaiter' : ((given.mailError m 7 (s.mail m).lsel).mail 3).waiter = none :=
      (given.mailError_waiter m 7 _ 3).trans (hgiven.trans hwaiter)
    obtain ⟨herr, hcode, hbusy', hraised, heq⟩ := given.mailError_spec m (code := 7) (by decide) (s.mail m).lsel
    refine Does.of_exec (t := given.mailError m 7 (s.mail m).lsel)
      (congrArg Host.Outcome.next ((congrArg State.mailReply hgive).trans (State.mailReply_of_no_waiter hwaiter')))
      ⟨?_, herr, BitVec.eq_of_toNat_eq hcode, hraised, heq⟩
    rw [hbusy', State.mail_setMail]

end Sys2Proof.Machine
end

section
/-! PROOFS. The calendar (R423 to R425) and fabric time (R426 to R431). -/

namespace Sys2Proof.Machine

/-! ### The calendar -/

/-- A moment of the calendar in steps of 2^-24 ns. -/
def Calendar.steps (c : Calendar) : Nat := (c.sec * 1000000000 + c.ns) * 2 ^ 24 + c.frac

/-- A tick adds INC, and the calendar wraps at 2^34 s. -/
theorem Calendar.steps_next {c : Calendar} (h : c.load = none) :
    c.next.steps = (c.steps + c.inc) % (2 ^ 34 * 1000000000 * 2 ^ 24) ∧ c.next.ns < 1000000000 := by
  unfold Calendar.next Calendar.steps
  rw [h]
  dsimp only
  omega

theorem opCalTick_of_alarmed {s : State} (hoff : s.pwr.st ≠ .off) (halarm : s.cal.alarmed = true) :
    opCalTick s = s.setCal (fun c => { c.next with
      lastTick := s.fine, stopped := false, alarmed := (s.cal.next).sec % 2 ^ 32 == s.rf F.PWR_ALARM.SEC }) := by
  unfold opCalTick
  rw [if_neg (by simpa using hoff), halarm]
  simp only [Bool.not_true, Bool.and_false, Bool.false_eq_true, if_false]

/-- Settles O55. -/
theorem calendarRuns : Obligations.CalendarRuns := by
  intro s hinv hoff
  refine ⟨fun hload halarm => ?_, fun v hload halarm => ?_, fun q => ?_, fun hvin hstop hlate => ?_, fun hon => ?_⟩
  · obtain ⟨hsteps, hns⟩ := Calendar.steps_next hload
    exact Does.of_exec (congrArg Host.Outcome.next (opCalTick_of_alarmed hoff halarm)) ⟨hsteps, hns, rfl⟩
  · have hnext : s.cal.next = { s.cal with load := none, sec := v.toNat / 2 ^ 30, ns := v.toNat % 2 ^ 30, frac := 0 } := by
      unfold Calendar.next
      rw [hload]
    refine Does.of_exec (congrArg Host.Outcome.next (opCalTick_of_alarmed hoff halarm)) ⟨?_, ?_, ?_, ?_, rfl⟩ <;>
      simp only [State.setCal, hnext]
  · refine Does.of_exec (congrArg Host.Outcome.next (if_neg (by simpa using hoff))) rfl
  · obtain ⟨-, hreg, -⟩ := hinv
    refine Does.of_exec (congrArg Host.Outcome.next (if_pos (by simp [hvin, hstop, hlate]))) ⟨rfl, rfl, rfl, ?_, ?_, rfl⟩
    · exact State.rb_wb_same (s := s.setCal (fun c => { c with stopped := true })) hreg F.RTC_CTL.FAULT true (by decide) rfl
    · exact State.raiseBare_pend _ 236 _ (by decide)
  · exact Does.of_exec (congrArg Host.Outcome.next (State.onCore_of_coreOn hon opRtcLoad)) rfl

/-! ### What the discipline of fabric time changes (R428) -/

/-- Nothing but fabric time, registers and status changes. -/
def State.OnlyTime (s t : State) : Prop := ∃ f r m, t = { s with fab := f, regs := r, mon := m }

theorem State.OnlyTime.trans {s t u : State} : s.OnlyTime t → t.OnlyTime u → s.OnlyTime u := by
  rintro ⟨-, -, -, rfl⟩ ⟨f, r, m, rfl⟩
  exact ⟨f, r, m, rfl⟩

theorem State.OnlyTime.eq {s t : State} : s.OnlyTime t → t = { s with fab := t.fab, regs := t.regs, mon := t.mon } := by
  rintro ⟨f, r, m, rfl⟩
  rfl

theorem State.onlyTime_count (s : State) (c n : Nat) : s.OnlyTime (s.count c n) := by
  obtain ⟨m, hm, -⟩ := s.count_eq c n
  exact ⟨s.fab, s.regs, m, hm⟩

theorem State.dropSync_spec (s : State) : s.OnlyTime s.dropSync ∧ s.dropSync.fab = { s.fab with good := 0 } := by
  unfold State.dropSync
  dsimp only
  split
  · exact ⟨⟨_, _, _, rfl⟩, rfl⟩
  · exact ⟨⟨_, _, _, rfl⟩, rfl⟩

theorem State.dropSync_raised (s : State) {ev : Nat} (h : Raised s ev) : Raised s.dropSync ev := by
  unfold State.dropSync
  dsimp only
  split
  · exact State.report_pend_mono _ _ ev h
  · exact h

/-- Only SYNC and STRATUM fall. -/
theorem State.dropSync_rb (s : State) (h : Inv.registers s) (f : RField) (hf : f.lo + f.width ≤ 1 ∨ 6 ≤ f.lo) :
    s.dropSync.rb f = s.rb f := by
  have hstratum : (s.wf F.TIM_STAT.STRATUM 0xF).rb f = s.rb f := by
    rw [State.rb, State.rf_wf_field h _ _ _ (hf.imp (fun h => h.trans (by decide)) id)]; rfl
  unfold State.dropSync
  dsimp only
  split
  · have hsync := State.rb_wb_field (State.wf_regs_wf h F.TIM_STAT.STRATUM 0xF) F.TIM_STAT.SYNC f false
      (hf.imp id (fun h => le_trans (by decide) h))
    exact (State.rb_congr rfl f).trans (hsync.trans hstratum)
  · exact (State.rb_congr rfl f).trans hstratum

theorem State.stepTime_spec (s : State) (theta : Int) : s.OnlyTime (s.stepTime theta) ∧
    (s.stepTime theta).fab = { s.fab with t := (((s.fab.t : Int) + theta) % (fabWrap : Int)).toNat, stepped := true, good := 0 } := by
  unfold State.stepTime
  extract_lets first s1 s2
  have hcount : s.OnlyTime s2 := State.OnlyTime.trans ⟨_, _, _, rfl⟩ (s1.onlyTime_count _ _)
  have hfab : s2.fab = s1.fab := State.count_fab s1 _ _
  split
  · obtain ⟨honly, hdrop⟩ := s2.dropSync_spec
    exact ⟨hcount.trans honly, hdrop.trans (congrArg (fun f : Fabric => { f with good := 0 }) hfab)⟩
  · obtain ⟨honly, hdrop⟩ := (s2.raiseBare 237 unitTime).dropSync_spec
    exact ⟨hcount.trans (State.OnlyTime.trans ⟨_, _, _, rfl⟩ honly), hdrop.trans (congrArg (fun f : Fabric => { f with good := 0 }) hfab)⟩

/-- An offset above 1 µs steps the time, another one trims its rate; the offset is kept, and there is no holdover. -/
structure State.Disciplined (s : State) (theta period : Int) (t : State) : Prop where
  only : s.OnlyTime t
  offset : t.fab.theta = theta
  holdover : t.fab.holdover = false
  t1 : t.fab.t1 = s.fab.t1
  ppsAt : t.fab.ppsAt = s.fab.ppsAt
  step : 32000 < theta.natAbs → t.fab.t = (((s.fab.t : Int) + theta) % (fabWrap : Int)).toNat
  trim : theta.natAbs ≤ 32000 → t.fab.t = s.fab.t ∧ t.fab.trim = theta * 1000000000 / (32 * 16 * period)

theorem State.disciplined_discipline (s : State) (theta period : Int) (parent : Option Nat) :
    s.Disciplined theta period (s.discipline theta period parent) := by
  unfold State.discipline
  extract_lets s0 s1 good s2 up
  split
  · next hstep =>
    obtain ⟨honly, hfab⟩ := s0.stepTime_spec theta
    refine ⟨State.OnlyTime.trans ⟨_, _, _, rfl⟩ honly, ?_, ?_, ?_, ?_, fun _ => ?_, fun h => absurd h (by omega)⟩ <;> rw [hfab] <;> rfl
  · next hstep =>
    have htrimmed : ∀ t, s1.OnlyTime t → (∃ g, t.fab = { s1.fab with good := g }) → s.Disciplined theta period t := by
      rintro t honly ⟨g, hfab⟩
      refine ⟨State.OnlyTime.trans ⟨_, _, _, rfl⟩ honly, ?_, ?_, ?_, ?_, fun h => absurd h hstep, fun _ => ⟨?_, ?_⟩⟩ <;> rw [hfab] <;> rfl
    have hgood : s2.fab = { s1.fab with good := good } := rfl
    have hs2 : s1.OnlyTime s2 := ⟨_, _, _, rfl⟩
    clear_value s2
    split
    · obtain ⟨honly, hfab⟩ := s1.dropSync_spec
      exact htrimmed _ honly ⟨_, hfab⟩
    · split
      · exact htrimmed _ (hs2.trans ⟨_, _, _, rfl⟩) ⟨good, hgood⟩
      · split
        · exact htrimmed _ (hs2.trans ⟨_, _, _, rfl⟩) ⟨good, hgood⟩
        · exact htrimmed _ hs2 ⟨good, hgood⟩

/-! ### The exchange with the parent (R427) -/

/-- A link-control slot goes out on a clear link: links, status and what was sent change. -/
theorem State.sendCtl_stile_of_clear {s : State} {l : LinkNo} (h : Clear s (.stile l)) (c : CtlSlot) :
    let t := s.sendCtl (.stile l) c
    t.sent = s.sent ++ [.ctl (.stile l) c] ∧ t = { s with links := t.links, mon := t.mon, sent := t.sent } := by
  obtain ⟨y, m, hsend, -, -⟩ := State.sendCtl_of_clear h c
  rw [hsend]
  exact ⟨rfl, rfl⟩

theorem State.linkActive_of_clear {s : State} {l : LinkNo} (h : Clear s (.stile l)) : s.linkActive l = true := by
  obtain ⟨hactive, -⟩ := h
  exact beq_iff_eq.mpr hactive

/-- The answer to the exchange in progress, while fabric time runs. -/
theorem opTimeAnswer_eq {s : State} {l : LinkNo} {body : BitVec 128} {t1 : Nat} (ht1 : s.fab.t1 = some t1) (hroot : s.isRoot = false)
    (hparent : s.parentLink = some l) (hactive : s.linkActive l = true) (hkind : bodyKind body = 1) (hseq : bodySeq body = s.fab.xseq)
    (hrun : s.fab.running = true) :
    ∃ u, s.OnlyTime u ∧ u.fab = { s.fab with t1 := none } ∧ opTimeAnswer l body s =
      u.discipline (exchangeOffset t1 (bodyT2 body) (bodyRes body) s.fab.t) 1000000 (some (bodyStratum body)) := by
  have hfab := State.count_fab (s.setFab (fun f => { f with t1 := none })) (ctrSel 7 0 0x68) 1
  refine ⟨(s.setFab (fun f => { f with t1 := none })).count (ctrSel 7 0 0x68),
    State.OnlyTime.trans ⟨_, _, _, rfl⟩ (State.onlyTime_count _ _ _), hfab, ?_⟩
  unfold opTimeAnswer
  rw [ht1]
  dsimp only
  rw [if_neg (by simp [hroot, hparent, hactive, hkind, hseq]), if_pos (by rw [hfab]; exact hrun)]

/-- Settles O54. -/
theorem fabricTime : Obligations.FabricTime := by
  refine ⟨fun s l => ⟨?_, ?_, ?_⟩, fun s hinv => ⟨?_, ?_, ?_⟩⟩
  · intro hroot hstage hsafe hlate hparent hactive hclear
    let asked : State := s.setFab (fun f => { f with lastExch := s.fine, t1 := some s.fab.t, xseq := s.fab.xseq + 1 })
    have hask : opTimeExchange s = asked.sendCtl (.stile l) (.time (timeBody 0 (s.fab.xseq + 1) s.myStratum 0 0)) := by
      unfold opTimeExchange
      rw [if_neg (by simp [hroot, hsafe]; omega)]
      dsimp only
      rw [hparent]
      dsimp only
      rw [if_pos hactive]
      rfl
    obtain ⟨y, m, hsend, -, -⟩ := State.sendCtl_of_clear (clear_congr hclear (t := asked) rfl rfl) (.time (timeBody 0 (s.fab.xseq + 1) s.myStratum 0 0))
    exact Does.of_exec (congrArg Host.Outcome.next (hask.trans hsend)) ⟨rfl, rfl, rfl, rfl, rfl⟩
  · intro body res hrun hkind
    refine ⟨fun hdown => Does.of_exec (congrArg Host.Outcome.next (if_neg (by simp [hdown]))) rfl, fun hclear => ?_⟩
    have hactive := State.linkActive_of_clear hclear
    exact Does.of_exec (congrArg Host.Outcome.next (if_pos (by simp [hactive, hrun, hkind]))) (State.sendCtl_stile_of_clear hclear _)
  · intro body t1 ht1 hroot hparent hactive hkind hseq hrun theta
    obtain ⟨u, honly, hfab, heq⟩ := opTimeAnswer_eq ht1 hroot hparent hactive hkind hseq hrun
    have hdisc := u.disciplined_discipline theta 1000000 (some (bodyStratum body))
    refine Does.of_exec (congrArg Host.Outcome.next heq) ⟨hdisc.offset, ?_, hdisc.holdover, fun h => ?_, fun h => ?_, ?_⟩
    · rw [hdisc.t1, hfab]
    · rw [hdisc.step h, hfab]
    · have htrim := hdisc.trim h
      rwa [hfab] at htrim
    · exact (honly.trans hdisc.only).eq
  · intro hused
    let seen : State := (s.setFab (fun f => { f with ppsAt := s.fine })).count (ctrSel 7 0 0x6A)
    have hfab : seen.fab = { s.fab with ppsAt := s.fine } := State.count_fab _ _ _
    have honly : s.OnlyTime seen := State.OnlyTime.trans ⟨_, _, _, rfl⟩ (State.onlyTime_count _ _ _)
    have hdisc := seen.disciplined_discipline (ppsOffset s.fab.t) 1000000000 none
    refine Does.of_exec (congrArg Host.Outcome.next (if_pos hused)) ⟨hdisc.offset, ?_, (honly.trans hdisc.only).eq⟩
    rw [hdisc.ppsAt, hfab]
  · intro hused hhold hlate
    obtain ⟨-, hreg, -⟩ := hinv
    let lost : State := ((s.setFab (fun f => { f with holdover := true })).wb F.TIM_STAT.PPS_LOST true).raiseBare 235 unitTime
    have hreg' : Inv.registers lost := State.wb_regs_wf (s := s.setFab (fun f => { f with holdover := true })) hreg _ _
    have hraised : Raised lost 235 := State.raiseBare_pend _ 235 _ (by decide)
    have hlostBit : lost.rb F.TIM_STAT.PPS_LOST = true :=
      State.rb_wb_same (s := s.setFab (fun f => { f with holdover := true })) hreg F.TIM_STAT.PPS_LOST true (by decide) rfl
    obtain ⟨honly, hfab⟩ := lost.dropSync_spec
    refine Does.of_exec (congrArg Host.Outcome.next (if_pos (by simp [hused, hhold, hlate]))) ⟨?_, ?_, ?_, ?_⟩
    · exact (lost.dropSync_rb hreg' F.TIM_STAT.PPS_LOST (.inr (by decide))).trans hlostBit
    · exact congrArg Fabric.holdover hfab
    · exact lost.dropSync_raised hraised
    · exact (State.OnlyTime.trans ⟨_, _, _, rfl⟩ honly).eq
  · intro hrun hout hfirst
    exact Does.of_exec (congrArg Host.Outcome.next (if_pos (by simp [hrun, hout, hfirst]))) ⟨rfl, rfl, rfl⟩

end Sys2Proof.Machine
end

section
/-! PROOFS. Ports and links: the PARAM slot (R347, R348), retry and buffer credits (R337 to R339, R346), and the Headland (R357 to
R361). -/

namespace Sys2Proof.Machine

/-! ### The status register of a unit -/

/-- STATE of a port or link. -/
def stateFieldOf : LinkUnit → RField
  | .port p => F.AGP_LINK_STAT.STATE p
  | .stile l => F.STL_LINK_STAT.STATE l

/-- CAUSE of a port or link. -/
def causeFieldOf : LinkUnit → RField
  | .port p => F.AGP_LINK_STAT.CAUSE p
  | .stile l => F.STL_LINK_STAT.CAUSE l

theorem State.linkState_eq (s : State) (u : LinkUnit) : s.linkState u = s.rf (stateFieldOf u) := by cases u <;> rfl
theorem State.linkCause_eq (s : State) (u : LinkUnit) :
    s.linkField u F.AGP_LINK_STAT.CAUSE F.STL_LINK_STAT.CAUSE = s.rf (causeFieldOf u) := by cases u <;> rfl
theorem State.setLinkState_eq (s : State) (u : LinkUnit) (v : Nat) : s.setLinkState u v = s.wf (stateFieldOf u) v := by cases u <;> rfl
theorem State.setLinkCause_eq (s : State) (u : LinkUnit) (v : Nat) : s.setLinkCause u v = s.wf (causeFieldOf u) v := by cases u <;> rfl

theorem stateFieldOf_before_causeFieldOf (u : LinkUnit) : (stateFieldOf u).lo + (stateFieldOf u).width ≤ (causeFieldOf u).lo := by
  cases u with
  | port p => exact (show 0 + 4 ≤ 13 by decide)
  | stile l => exact (show 0 + 4 ≤ 9 by decide)

/-- R348: a failed training is in FAIL with its cause. -/
theorem State.trainFail_spec {s : State} (h : Inv.registers s) (u : LinkUnit) {c : Nat} (hc : c < 8) :
    (s.trainFail u c).linkState u = stFail ∧
      (s.trainFail u c).linkField u F.AGP_LINK_STAT.CAUSE F.STL_LINK_STAT.CAUSE = c := by
  have hreg : Inv.registers (s.wf (causeFieldOf u) c) := State.wf_regs_wf h _ _
  have hregs : (s.trainFail u c).regs = ((s.wf (causeFieldOf u) c).wf (stateFieldOf u) stFail).regs := by
    unfold State.trainFail State.trainTo
    dsimp only
    rw [if_neg (by decide : ¬stFail = stParam), State.setLinkCause_eq, State.setLinkState_eq]
    exact State.setLink_regs _ u _
  rw [State.linkState_eq, State.linkCause_eq, State.rf_congr hregs, State.rf_congr hregs]
  constructor
  · rw [State.rf_wf_same hreg _ _ (by cases u <;> (show 0 + 4 ≤ 32) <;> decide)]
    cases u <;> rfl
  · rw [State.rf_wf_field hreg _ _ _ (.inr (stateFieldOf_before_causeFieldOf u))]
    cases u with
    | port p => exact (State.rf_wf_same h (F.AGP_LINK_STAT.CAUSE p) c (show 13 + 3 ≤ 32 by decide)).trans (Nat.mod_eq_of_lt hc)
    | stile l => exact (State.rf_wf_same h (F.STL_LINK_STAT.CAUSE l) c (show 9 + 3 ≤ 32 by decide)).trans (Nat.mod_eq_of_lt hc)

/-! ### The PARAM slot -/

theorem opParam_disagrees {s : State} {u : LinkUnit} {b : BitVec 128} (hst : s.linkState u = stParam) (hc : s.paramCause u b ≠ 0) :
    opParam u b s = s.trainFail u (s.paramCause u b) := by
  unfold opParam
  dsimp only
  rw [if_pos (.inl hst), if_pos hc, if_neg (by rw [hst]; exact fun h => absurd h.1 (by decide))]

/-- A slot that does not agree fails the training with the cause that it gives. -/
theorem paramSlot_fails {s : State} (h : Inv.registers s) {u : LinkUnit} {b : BitVec 128} (hst : s.linkState u = stParam) {c : Nat}
    (hcause : s.paramCause u b = c) (hpos : c ≠ 0) (hlt : c < 8) :
    Does (.paramSlot u b) s (fun t => t.linkState u = stFail ∧
      t.linkField u F.AGP_LINK_STAT.CAUSE F.STL_LINK_STAT.CAUSE = c) := by
  subst hcause
  exact Does.of_exec (congrArg Host.Outcome.next (opParam_disagrees hst hpos)) (State.trainFail_spec h u hlt)

theorem opParam_port_agrees {s : State} {p : Port} {b : BitVec 128} (hst : s.linkState (.port p) = stParam)
    (hc : s.paramCause (.port p) b = 0) : opParam (.port p) b s =
      (s.setLink (.port p) (fun l => { l with paramOk := true })).setPort p (fun x => { x with
        snpCred := (b.extractLsb' 6 8).toNat, dreqCred := (b.extractLsb' 14 8).toNat, evtCred := (b.extractLsb' 22 8).toNat }) := by
  unfold opParam
  dsimp only
  rw [if_pos (.inl hst), if_neg (not_not.mpr hc), if_neg (by rw [hst]; exact fun h => absurd h.1 (by decide))]

theorem opParam_stile_agrees {s : State} {l : LinkNo} {b : BitVec 128} (hst : s.linkState (.stile l) = stParam)
    (hc : s.paramCause (.stile l) b = 0) : opParam (.stile l) b s =
      (s.setLink (.stile l) (fun l => { l with paramOk := true })).wf (F.STL_LINK_STAT.PEER l) (b.extractLsb' 30 9).toNat := by
  unfold opParam
  dsimp only
  rw [if_pos (.inl hst), if_neg (not_not.mpr hc)]

/-- Settles O40. -/
theorem paramIsChecked : Obligations.ParamIsChecked := by
  intro u b s hinv hst
  obtain ⟨-, hreg, -⟩ := hinv
  refine ⟨fun hver => paramSlot_fails hreg hst (if_pos hver) (by decide) (by decide), ?_, ?_⟩
  · rintro p rfl hver
    have hcause : s.paramCause (.port p) b = if (b.extractLsb' 4 2).toNat ≠ (if s.caching p then 1 else 2) then 4 else 0 :=
      if_neg (not_not.mpr hver)
    have hkind : (b.extractLsb' 4 2).toNat = (if s.caching p then 1 else 2) ↔
        b.extractLsb' 4 2 = (if s.caching p = true then 1#2 else 2#2) := by
      rw [← BitVec.toNat_inj]
      split <;> rfl
    refine ⟨fun hk => paramSlot_fails hreg hst (hcause.trans (if_pos (mt hkind.mp hk))) (by decide) (by decide), fun hk => ?_⟩
    have hagree := hcause.trans (if_neg (not_not.mpr (hkind.mpr hk)))
    refine Does.of_exec (congrArg Host.Outcome.next (opParam_port_agrees hst hagree)) ⟨?_, ?_, ?_, ?_, rfl⟩ <;>
      rw [State.port_setPort]
    exact congrArg LinkSt.paramOk (s.linkSt_setLink (.port p) (fun l => { l with paramOk := true }))
  · rintro l rfl hver
    have hcause : s.paramCause (.stile l) b = if (b.extractLsb' 39 3).toNat ≠ oppositeLink l then 6 else 0 :=
      if_neg (not_not.mpr hver)
    refine ⟨fun hl => paramSlot_fails hreg hst (hcause.trans (if_pos hl)) (by decide) (by decide), fun hl => ?_⟩
    have hagree := hcause.trans (if_neg (not_not.mpr hl))
    refine Does.of_exec (congrArg Host.Outcome.next (opParam_stile_agrees hst hagree)) ⟨?_, ?_, rfl⟩
    · exact congrArg LinkSt.paramOk (s.linkSt_setLink (.stile l) (fun l => { l with paramOk := true }))
    · exact (State.rf_wf_same (s := s.setLink (.stile l) (fun l => { l with paramOk := true })) hreg (F.STL_LINK_STAT.PEER l) _
        (show 16 + 9 ≤ 32 by decide)).trans (Nat.mod_eq_of_lt (b.extractLsb' 30 9).isLt)

/-! ### The front ends where nothing waits -/

/-- No request waits at a front end and no descriptor read is due: its scan does nothing. -/
theorem State.frontScan_of_still {s : State} {p : Port} (hfront : (s.port p).front = []) (hdue : (s.ptu p).anyDue = false) :
    s.frontScan p = s := by
  simp [State.frontScan, State.frontPass, hfront, hdue]

theorem State.frontAll_of_still {s : State} (h : Still s) : s.frontAll = s :=
  foldl_keeps (Q := fun t => t = s) (l := fins 6) rfl fun t p ht => by
    subst ht
    exact State.frontScan_of_still (h p).1 (h p).2

/-- What a unit's transmitter does is no matter of a front end. -/
theorem still_setLink {s : State} (h : Still s) (u : LinkUnit) (f : LinkSt → LinkSt) : Still (s.setLink u f) := by
  intro q
  cases u with
  | stile l => exact h q
  | port p =>
    obtain ⟨hfront, hdue⟩ := h q
    have hport : ∃ y : PortSt, (s.setLink (.port p) f).port q = y ∧ y.front = (s.port q).front ∧ y.ptu = (s.port q).ptu := by
      by_cases hpq : p = q
      · subst hpq
        exact ⟨_, s.port_setPort p _, rfl, rfl⟩
      · exact ⟨_, s.port_setPort_of_ne hpq _, rfl, rfl⟩
    obtain ⟨y, hy, hyfront, hyptu⟩ := hport
    refine ⟨?_, ?_⟩
    · rw [hy, hyfront, hfront]
    · show ((s.setLink (.port p) f).port q).ptu.anyDue = false
      rw [hy, hyptu]
      exact hdue

/-! ### Retry -/

theorem State.setLink_mon_comm (s : State) (u : LinkUnit) (f : LinkSt → LinkSt) (m : Monitor) :
    ({ s.setLink u f with mon := m } : State) = ({ s with mon := m } : State).setLink u f := by cases u <;> rfl

/-- What a link-control slot leaves of its unit's transmitter. -/
theorem State.linkSt_passed_ctl (s : State) (u : LinkUnit) (y : LinkSt) (m : Monitor) (c : CtlSlot) :
    (s.passed u y m (.ctl u c)).linkSt u = y := by
  exact State.linkSt_setLink ({ s with mon := m } : State) u (fun _ => y)

theorem State.sent_passed_ctl (s : State) (u : LinkUnit) (y : LinkSt) (m : Monitor) (c : CtlSlot) :
    (s.passed u y m (.ctl u c)).sent = s.sent ++ [.ctl u c] :=
  congrArg (· ++ [Sent.ctl u c]) (State.setLink_sent ({ s with mon := m } : State) u (fun _ => y))

/-- A clear unit stays clear while only accounts of its receiver change. -/
theorem clear_setLink {s : State} {u : LinkUnit} (h : Clear s u) {f : LinkSt → LinkSt}
    (hf : ∀ x : LinkSt, (f x).txSlots = x.txSlots ∧ (f x).txOpen = x.txOpen ∧ (f x).replay = x.replay) : Clear (s.setLink u f) u := by
  obtain ⟨hslots, hopen, hreplay⟩ := hf (s.linkSt u)
  unfold Clear
  rw [State.linkState_congr (State.setLink_regs s u f), State.linkSt_setLink, hslots, hopen, hreplay]
  exact h

/-- R339: 64 ns after a good flit it is acknowledged. -/
theorem opAckTimer_acknowledges {u : LinkUnit} {s : State} (h : Clear s u) (hun : 0 < (s.linkSt u).unacked)
    (hold : (s.linkSt u).unackedAt + 64 ≤ s.fine) : Does (.ackTimer u) s (fun t =>
      t.sent = s.sent ++ [.ctl u (.ack ((s.linkSt u).rxSeq - 1))] ∧ (t.linkSt u).unacked = 0) := by
  obtain ⟨y, m, hsend, hoff, -⟩ := State.sendCtl_of_clear (clear_setLink h (f := fun l => { l with unacked := 0 })
    fun _ => ⟨rfl, rfl, rfl⟩) (.ack ((s.linkSt u).rxSeq - 1))
  refine Does.of_exec (congrArg Host.Outcome.next ((if_pos ⟨h.1, hun, hold⟩).trans hsend)) ⟨?_, ?_⟩
  · rw [State.sent_passed_ctl, State.setLink_sent]
  · rw [State.linkSt_passed_ctl, hoff, State.linkSt_setLink]

/-- With no slot waiting the transmitter only counts. -/
theorem State.pumpLink_of_empty {s : State} {u : LinkUnit} (hstate : s.linkState u = stActive) (hempty : (s.linkSt u).txSlots = []) :
    s.pumpLink u = ((s.setLink u (fun _ => s.linkSt u)).count (linkCtr u 0) 0) := by
  unfold State.pumpLink
  rw [if_pos hstate]
  dsimp only
  rw [hempty, List.length_nil, LinkSt.pump, Nat.sub_self, List.take_nil]
  rfl

theorem State.setLink_frame (s : State) (u : LinkUnit) (f : LinkSt → LinkSt) :
    s.setLink u f = { s with ports := (s.setLink u f).ports, links := (s.setLink u f).links } := by cases u <;> rfl

theorem State.afterPump_of_nothing_left {s : State} {u : LinkUnit} (h : ∀ p : Port, u = .port p → (s.port p).devLeft = []) :
    ∃ ps, s.afterPump u = { s with ports := ps } ∧ (s.afterPump u).linkSt u = s.linkSt u := by
  cases u with
  | stile l => exact ⟨s.ports, rfl, rfl⟩
  | port p =>
    have heq : s.afterPump (.port p) = s.setPort p (fun x => { x with devLeft := [] }) := by
      unfold State.afterPump State.devGone
      dsimp only
      rw [h p rfl]
      rfl
    exact ⟨(s.setPort p (fun x => { x with devLeft := [] })).ports, heq, by
      rw [heq]
      show ((s.setPort p _).port p).link = _
      rw [State.port_setPort]
      rfl⟩

/-- Flits up to the acknowledged one are free. -/
def LinkSt.acked (q : BitVec 10) (l : LinkSt) : LinkSt :=
  { l with replay := (l.replay.dropWhile (fun f => f.1 != q)).drop 1, nakCount := 0 }

theorem opAck_frees {u : LinkUnit} {s : State} {q : BitVec 10} (hstate : s.linkState u = stActive)
    (hknown : (s.linkSt u).replay.any (fun f => f.1 == q) = true) (hempty : (s.linkSt u).txSlots = [])
    (hdev : ∀ p : Port, u = .port p → (s.port p).devLeft = []) : Does (.ack u q) s (fun t =>
      (t.linkSt u).replay = ((s.linkSt u).replay.dropWhile (fun f => f.1 != q)).drop 1 ∧
      (t.linkSt u).nakCount = 0 ∧ t = { s with ports := t.ports, links := t.links, mon := t.mon }) := by
  have hpump := State.pumpLink_of_empty (s := s.setLink u (LinkSt.acked q)) (u := u)
    ((State.linkState_congr (State.setLink_regs s u _) u).trans hstate) (by rw [State.linkSt_setLink]; exact hempty)
  rw [State.setLink_setLink] at hpump
  obtain ⟨m, hm, -⟩ := State.count_eq (s.setLink u (fun _ => (s.setLink u (LinkSt.acked q)).linkSt u)) (linkCtr u 0) 0
  rw [hm, State.setLink_mon_comm, State.linkSt_setLink] at hpump
  obtain ⟨ps, hps, hlink⟩ := State.afterPump_of_nothing_left
    (s := ({ s with mon := m } : State).setLink u (fun _ => (s.linkSt u).acked q)) (u := u) fun p hp => by
      subst hp
      exact (congrArg PortSt.devLeft (({ s with mon := m } : State).port_setPort p _)).trans (hdev p rfl)
  refine Does.of_exec (congrArg Host.Outcome.next ((if_pos ⟨hstate, hknown⟩).trans (congrArg (State.afterPump · u) hpump)))
    ⟨?_, ?_, ?_⟩
  · rw [hlink, State.linkSt_setLink]; rfl
  · rw [hlink, State.linkSt_setLink]; rfl
  · rw [hps, State.setLink_frame]

/-- A void exchange leaves everything but the account of fabric time. -/
theorem State.voidExchange_eq (s : State) (u : LinkUnit) : ∃ f, s.voidExchange u = { s with fab := f } := by
  cases u with
  | port p => exact ⟨s.fab, rfl⟩
  | stile l =>
    unfold State.voidExchange
    dsimp only
    split
    · exact ⟨_, rfl⟩
    · exact ⟨s.fab, rfl⟩

theorem State.resent_eq (s : State) (u : LinkUnit) (flits : List (BitVec 10 × BitVec 512)) :
    ∃ f, s.resent u flits = { s with fab := f } := by
  unfold State.resent
  split
  · exact s.voidExchange_eq u
  · exact ⟨s.fab, rfl⟩

theorem applyFx_firstCtr_frame (s : State) (c ev unit : Nat) :
    (applyFx s (.firstCtr c ev unit)).sent = s.sent ∧ ∀ u, (applyFx s (.firstCtr c ev unit)).linkSt u = s.linkSt u := by
  unfold applyFx
  dsimp only
  split
  · exact ⟨rfl, fun _ => rfl⟩
  · exact ⟨rfl, fun u => by cases u <;> rfl⟩

/-- R339: a NAK is answered by the flits from the named one. -/
theorem opNak_replays {u : LinkUnit} {s : State} {q : BitVec 10} (hstate : s.linkState u = stActive)
    (hknown : (s.linkSt u).replay.any (fun f => f.1 == q) = true) (hfirst : (s.linkSt u).nakCount = 0) :
    Does (.nak u q) s (fun t => t.sent = s.sent ++ [.replay u q] ∧ (t.linkSt u).nakCount = 1 ∧
      (t.linkSt u).replay = (s.linkSt u).replay) := by
  let named : State := s.setLink u (fun l => { l with nakCount := 1, nakSeq := q })
  have hop : opNak u q s = applyFx (((named.resent u ((s.linkSt u).replay.dropWhile (fun f => f.1 != q))).emit (.replay u q)).count
      (linkCtr u 3)) (.firstCtr (linkCtr u 3) 172 (unitOf u)) := by
    have hone : (if 0 < (s.linkSt u).nakCount ∧ (s.linkSt u).nakSeq = q then (s.linkSt u).nakCount + 1 else 1) = 1 :=
      if_neg (by omega)
    unfold opNak
    dsimp only
    rw [if_pos ⟨hstate, hknown⟩, hone, if_neg (by decide)]
  obtain ⟨f, hf⟩ := named.resent_eq u ((s.linkSt u).replay.dropWhile (fun f => f.1 != q))
  rw [hf] at hop
  obtain ⟨m, hm, -⟩ := State.count_eq (({ named with fab := f } : State).emit (.replay u q)) (linkCtr u 3) 1
  rw [hm] at hop
  obtain ⟨hsent, hlink⟩ := applyFx_firstCtr_frame
    ({ ({ named with fab := f } : State).emit (.replay u q) with mon := m } : State) (linkCtr u 3) 172 (unitOf u)
  have hnamed : ∀ u', ({ ({ named with fab := f } : State).emit (.replay u q) with mon := m } : State).linkSt u' = named.linkSt u' :=
    fun u' => by cases u' <;> rfl
  refine Does.of_exec (congrArg Host.Outcome.next hop) ⟨?_, ?_, ?_⟩
  · exact hsent.trans (congrArg (· ++ [Sent.replay u q]) (State.setLink_sent s u _))
  · rw [hlink, hnamed, State.linkSt_setLink]
  · rw [hlink, hnamed, State.linkSt_setLink]

/-- R339: the first flit that fails its CRC is answered by one NAK and is not counted. -/
theorem opFlit_bad {u : LinkUnit} {s : State} {slots : BitVec 480} {crc : Word} (h : Clear s u)
    (hcrc : crc ≠ flitCrc slots (s.linkSt u).rxSeq) (hfirst : (s.linkSt u).nakSent = false) :
    Does (.flitReceived u slots crc) s (fun t => t.sent = s.sent ++ [.ctl u (.nak (s.linkSt u).rxSeq)] ∧
      (t.linkSt u).rxSeq = (s.linkSt u).rxSeq) := by
  obtain ⟨f, hf⟩ := s.voidExchange_eq u
  obtain ⟨m, hm, -⟩ := State.count_eq (({ s with fab := f } : State).setLink u (fun l => { l with nakSent := true })) (linkCtr u 2) 1
  rw [State.setLink_mon_comm] at hm
  let voided : State := { s with fab := f, mon := m }
  have hclear : Clear voided u := clear_congr h rfl (by cases u <;> rfl)
  obtain ⟨y, m', hsend, hoff, -⟩ := State.sendCtl_of_clear (clear_setLink hclear (f := fun l => { l with nakSent := true })
    fun _ => ⟨rfl, rfl, rfl⟩) (.nak (s.linkSt u).rxSeq)
  have hop : opFlit u slots crc s = (voided.setLink u (fun l => { l with nakSent := true })).sendCtl u (.nak (s.linkSt u).rxSeq) := by
    unfold opFlit State.badFlit
    rw [if_neg (not_not.mpr h.1), if_pos hcrc, if_neg (by simp [hfirst]), hf, hm]
  refine Does.of_exec (congrArg Host.Outcome.next (hop.trans hsend)) ⟨?_, ?_⟩
  · rw [State.sent_passed_ctl, State.setLink_sent]
  · rw [State.linkSt_passed_ctl, hoff, State.linkSt_setLink]
    cases u <;> rfl

/-- A good flit in the account of a unit's receiver. -/
def LinkSt.counted (now : Nat) (l : LinkSt) : LinkSt :=
  { l with rxSeq := l.rxSeq + 1, nakSent := false, unacked := l.unacked + 1, unackedAt := if l.unacked = 0 then now else l.unackedAt }

theorem slotReceived_empty {u : LinkUnit} {s : State} (h : (s.linkSt u).rxLeft = 0) : State.slotReceived u s 0 = s := by
  unfold State.slotReceived
  rw [if_neg (not_not.mpr h), if_pos (by rfl)]

/-- R338: an empty flit is counted and changes nothing else. -/
theorem opFlit_empty {u : LinkUnit} {s : State} (hstate : s.linkState u = stActive) (hstill : Still s)
    (hun : (s.linkSt u).unacked = 0) (hleft : (s.linkSt u).rxLeft = 0) :
    Does (.flitReceived u 0 (flitCrc 0 (s.linkSt u).rxSeq)) s (fun t => (t.linkSt u).rxSeq = (s.linkSt u).rxSeq + 1 ∧
      (t.linkSt u).unacked = 1 ∧ (t.linkSt u).unackedAt = s.fine ∧ t.sent = s.sent) := by
  obtain ⟨m, hm, -⟩ := State.count_eq (s.setLink u (LinkSt.counted s.fine)) (linkCtr u 1) 1
  rw [State.setLink_mon_comm] at hm
  let good : State := ({ s with mon := m } : State).setLink u (LinkSt.counted s.fine)
  have hlink : good.linkSt u = (s.linkSt u).counted s.fine := by
    rw [State.linkSt_setLink]; cases u <;> rfl
  have hgood : s.goodFlit u = good := by
    have hall : s.goodFlit u = if 32 ≤ (good.linkSt u).unacked then good.sendAck u else good := by
      show _ = if 32 ≤ ((State.setLink { s with mon := m } u (LinkSt.counted s.fine)).linkSt u).unacked
        then (State.setLink { s with mon := m } u (LinkSt.counted s.fine)).sendAck u
        else State.setLink { s with mon := m } u (LinkSt.counted s.fine)
      rw [← hm]
      rfl
    rw [hall, hlink, if_neg (by simp [LinkSt.counted, hun])]
  have hslots : slotsOf 3 (0 : BitVec 480).toNat = [0, 0, 0] := by simp [slotsOf, List.range_succ]
  have hslot : State.slotReceived u good 0 = good := slotReceived_empty (by rw [hlink]; exact hleft)
  have hop : opFlit u 0 (flitCrc 0 (s.linkSt u).rxSeq) s = good := by
    unfold opFlit
    rw [if_neg (not_not.mpr hstate), if_neg (not_not.mpr rfl), hgood, hslots]
    simp only [List.foldl_cons, List.foldl_nil, hslot]
    exact State.frontAll_of_still (still_setLink (s := { s with mon := m }) hstill u _)
  refine Does.of_exec (congrArg Host.Outcome.next hop) ⟨?_, ?_, ?_, State.setLink_sent _ u _⟩ <;> rw [hlink]
  · rfl
  · exact congrArg (· + 1) hun
  · exact if_pos hun

/-! ### Buffer credits -/

/-- A VCC body of one entry: its class and its count. -/
def oneVcc (n : BitVec 8) (cls : BitVec 4) : BitVec 128 := (n ++ cls : BitVec 12).setWidth 128

theorem bodyEntries_oneVcc (n : BitVec 8) (cls : BitVec 4) :
    bodyEntries (oneVcc n cls) = (n ++ cls : BitVec 12).setWidth 16 :: List.replicate 7 0 := by
  have hrest : ∀ i, 0 < i → (oneVcc n cls).extractLsb' (16 * i) 16 = 0 := fun i hi => by
    ext j hj
    rw [BitVec.getElem_extractLsb', oneVcc, BitVec.getLsbD_setWidth, BitVec.getLsbD_of_ge _ _ (by omega)]
    simp
  have hfirst : (oneVcc n cls).extractLsb' (16 * 0) 16 = (n ++ cls : BitVec 12).setWidth 16 := by
    ext j hj
    rw [BitVec.getElem_extractLsb', oneVcc, BitVec.getLsbD_setWidth, BitVec.getElem_setWidth]
    simp
    omega
  show [0, 1, 2, 3, 4, 5, 6, 7].map (fun i => (oneVcc n cls).extractLsb' (16 * i) 16) = _
  simp only [List.map_cons, List.map_nil]
  rw [hfirst, hrest 1 (by decide), hrest 2 (by decide), hrest 3 (by decide), hrest 4 (by decide), hrest 5 (by decide),
    hrest 6 (by decide), hrest 7 (by decide)]
  rfl

theorem vccEntry_zero (u : LinkUnit) (s : State) : State.vccEntry u s 0 = s := by
  unfold State.vccEntry
  exact if_pos rfl

theorem foldl_vccEntry_oneVcc (u : LinkUnit) (s : State) (n : BitVec 8) (cls : BitVec 4) :
    (bodyEntries (oneVcc n cls)).foldl (State.vccEntry u) s = State.vccEntry u s ((n ++ cls : BitVec 12).setWidth 16) := by
  rw [bodyEntries_oneVcc, List.foldl_cons]
  simp only [List.replicate, List.foldl_cons, List.foldl_nil, vccEntry_zero]

theorem vccClass (n : BitVec 8) (cls : BitVec 4) :
    (((n ++ cls : BitVec 12).setWidth 16).extractLsb' 0 3).toNat = cls.toNat % 8 ∧
      (((n ++ cls : BitVec 12).setWidth 16).extractLsb' 4 8).toNat = n.toNat := by
  have hn := n.isLt
  have hc := cls.isLt
  simp only [BitVec.extractLsb'_toNat, BitVec.toNat_setWidth, BitVec.toNat_append]
  rw [← Nat.shiftLeft_add_eq_or_of_lt hc, Nat.shiftLeft_eq, Nat.shiftRight_eq_div_pow, Nat.shiftRight_eq_div_pow]
  omega

/-- A count of 0 returns nothing. -/
theorem vccEntry_none (u : LinkUnit) (s : State) {n : BitVec 8} (hn : n.toNat = 0) (cls : BitVec 4) :
    State.vccEntry u s ((n ++ cls : BitVec 12).setWidth 16) = s := by
  unfold State.vccEntry
  dsimp only
  rw [(vccClass n cls).2, if_pos hn]

theorem vccEntry_port (s : State) (p : Port) {n : BitVec 8} (hn : n.toNat ≠ 0) (cls : BitVec 4) :
    State.vccEntry (.port p) s ((n ++ cls : BitVec 12).setWidth 16) =
      if cls.toNat % 8 = 0 then s.setPort p (fun x => { x with dreqCred := x.dreqCred + n.toNat })
      else if cls.toNat % 8 = 1 then
        State.pumpSnoops p (s.port p).snpWait.length (s.setPort p (fun x => { x with snpCred := x.snpCred + n.toNat }))
      else if cls.toNat % 8 = 4 then s.setPort p (fun x => { x with evtCred := x.evtCred + n.toNat })
      else s.count (linkCtr (.port p) 5) := by
  obtain ⟨hcls, hcount⟩ := vccClass n cls
  unfold State.vccEntry
  dsimp only
  rw [hcls, hcount, if_neg hn]

theorem vccEntry_stile (s : State) (l : LinkNo) {n : BitVec 8} (hn : n.toNat ≠ 0) :
    State.vccEntry (.stile l) s ((n ++ (7 : BitVec 4) : BitVec 12).setWidth 16) =
      s.setStile l (fun x => { x with bcred := x.bcred + n.toNat }) := by
  obtain ⟨hcls, hcount⟩ := vccClass n 7
  unfold State.vccEntry
  dsimp only
  rw [hcls, hcount, if_neg hn, if_pos (by rfl)]

/-- R346: one entry of a VCC slot on an ACTIVE port. -/
theorem vcc_port {s : State} {p : Port} (hstate : s.linkState (.port p) = stActive) {n : BitVec 8} {cls : BitVec 4} {P : State → Prop}
    (hnone : n.toNat = 0 → P s) (hsome : n.toNat ≠ 0 → P (State.vccEntry (.port p) s ((n ++ cls : BitVec 12).setWidth 16))) :
    Does (.vcc (.port p) (oneVcc n cls)) s P := by
  refine Does.of_exec (congrArg Host.Outcome.next ((if_pos hstate).trans (foldl_vccEntry_oneVcc _ s n cls))) ?_
  by_cases hn : n.toNat = 0
  · rw [vccEntry_none _ s hn]
    exact hnone hn
  · exact hsome hn

/-- R354: buffers of class 7 returned on an ACTIVE link. -/
theorem vcc_stile {s : State} {l : LinkNo} (hstate : s.linkState (.stile l) = stActive) (hwait : (s.stile l).wait = []) (n : BitVec 8) :
    Does (.vcc (.stile l) (oneVcc n 7)) s (fun t =>
      (t.stile l).bcred = (s.stile l).bcred + n.toNat ∧ t = { s with links := t.links }) := by
  have hop : opVcc (.stile l) (oneVcc n 7) s = (fun t : State => State.pumpStile l (t.stile l).wait.length t)
      (State.vccEntry (.stile l) s ((n ++ (7 : BitVec 4) : BitVec 12).setWidth 16)) := by
    rw [← foldl_vccEntry_oneVcc]
    exact if_pos hstate
  refine Does.of_exec (congrArg Host.Outcome.next hop) ?_
  by_cases hn : n.toNat = 0
  · rw [vccEntry_none _ s hn, hn]
    dsimp only
    rw [hwait]
    exact ⟨rfl, rfl⟩
  · rw [vccEntry_stile s l hn]
    dsimp only
    rw [State.stile_setStile, hwait]
    exact ⟨congrArg StileSt.bcred (s.stile_setStile l (fun x => { x with bcred := x.bcred + n.toNat })), rfl⟩

/-- Settles O41. -/
theorem retryKeepsOrder : Obligations.RetryKeepsOrder := by
  refine ⟨fun u s hstate => ⟨opAckTimer_acknowledges, fun q => opAck_frees hstate, fun q => opNak_replays hstate,
    fun slots crc => opFlit_bad, opFlit_empty hstate⟩, fun s n => ⟨fun p hstate => ⟨?_, ?_, fun hwait => ?_⟩, fun l hstate hwait =>
      vcc_stile hstate hwait n⟩⟩
  · refine vcc_port hstate (fun hn => ⟨hn ▸ rfl, rfl⟩) fun hn => ?_
    rw [vccEntry_port s p hn, if_pos (by rfl), State.port_setPort]
    exact ⟨rfl, rfl⟩
  · refine vcc_port hstate (fun hn => ⟨hn ▸ rfl, rfl⟩) fun hn => ?_
    rw [vccEntry_port s p hn, if_neg (by decide), if_neg (by decide), if_pos (by rfl), State.port_setPort]
    exact ⟨rfl, rfl⟩
  · refine vcc_port hstate (fun hn => ⟨hn ▸ rfl, rfl⟩) fun hn => ?_
    rw [vccEntry_port s p hn, if_neg (by decide), if_pos (by rfl), hwait, List.length_nil, State.pumpSnoops, State.port_setPort]
    exact ⟨rfl, rfl⟩

end Sys2Proof.Machine
end

section
/-! PROOFS. The Headland (R357 to R361): what crosses it, what arrives by it, and a stalled sub-link. -/

namespace Sys2Proof.Machine

theorem vget_vset {α : Type} {n : Nat} (v : Vector α n) (i j : Fin n) (a : α) :
    (vset v i a).get j = if i = j then a else v.get j := by
  show (v.set i a).get j = _
  rw [Vector.get_eq_getElem, Vector.getElem_set, Vector.get_eq_getElem]
  simp only [Fin.ext_iff]

/-- A packet put in an empty place and taken from it leaves the place as it was. -/
theorem vset_vmod_self {α : Type} {n : Nat} (v : Vector α n) (i : Fin n) (f : α → α) : vset (vmod v i f) i (v.get i) = v := by
  ext j hj
  show (vset (vmod v i f) i (v.get i)).get ⟨j, hj⟩ = v.get ⟨j, hj⟩
  rw [vget_vset, vget_vmod]
  split
  · next h => rw [h]
  · rfl

/-- Where nothing waits, no sub-link is stalled and the hub has room, a packet crosses at once. -/
theorem State.pumpHdl_one {s : State} {toE : Bool} {x : HdlPacket} (hstall : s.hdl.stalled = 0)
    (htx : s.hdl.tx.get (hdlDir toE) = [x]) (hroom : x.beats.length ≤ (s.hdl.cred.get (hdlDir toE)).get x.vcl) :
    State.pumpHdl toE 1 s = { s with
      hdl := { s.hdl with
        tx := vset s.hdl.tx (hdlDir toE) []
        cred := vmod s.hdl.cred (hdlDir toE) (fun v => vmod v x.vcl (fun k => k - x.beats.length)) }
      sent := s.sent ++ x.beats.map (fun b => .headland toE b) } := by
  have hpick : pickHdl (s.hdl.cred.get (hdlDir toE)) [x] [] = some (x, []) := by
    rw [pickHdl, if_pos (by simp [hroom])]
  unfold State.pumpHdl
  dsimp only
  rw [if_neg (by rw [hstall]; exact not_not.mpr (by simp)), htx, hpick]
  rfl

theorem crosses_of_die_eq {a b : HdlUnit} (h : a.die = b.die) : crosses a b = false := by simp [crosses, h]
theorem crosses_of_die_ne {a b : HdlUnit} (h : a.die ≠ b.die) : crosses a b = true := by simp [crosses, h]

/-- The packet of a message between two units. -/
def hdlPacket (a b : HdlUnit) (stile : Bool) (vcl : Fin 5) (cls : BitVec 2) (h : BitVec 160) (l : Option CodeLine)
    (m : Option ByteMask) : HdlPacket :=
  { vcl := vcl, cls := cls, beats := hdlBeats h (hdlRoute stile vcl cls a b) l m }

/-- R359: a message to the other die is sent at once where nothing holds it back. -/
theorem State.cross_of_room {s : State} {a b : HdlUnit} {stile : Bool} {vcl : Fin 5} {cls : BitVec 2} {h : BitVec 160}
    {l : Option CodeLine} {m : Option ByteMask} (hdie : a.die ≠ b.die) (htx : ∀ d : Fin 2, s.hdl.tx.get d = []) (hstall : s.hdl.stalled = 0)
    (hroom : (hdlPacket a b stile vcl cls h l m).beats.length ≤ (s.hdl.cred.get (hdlDir (b.die == 1))).get vcl) :
    s.cross a b stile vcl cls h l m = { s with
      hdl := { s.hdl with
        cred := vmod s.hdl.cred (hdlDir (b.die == 1)) (fun v => vmod v vcl (fun k => k - (hdlPacket a b stile vcl cls h l m).beats.length)) }
      sent := s.sent ++ (hdlPacket a b stile vcl cls h l m).beats.map (fun x => .headland (b.die == 1) x) } := by
  let d := hdlDir (b.die == 1)
  let x := hdlPacket a b stile vcl cls h l m
  let joined := s.setHdl (fun h => { h with tx := vmod h.tx d (insertHdl x) })
  have hjoined : joined.hdl.tx.get d = [x] := by
    show (vmod s.hdl.tx d (insertHdl x)).get d = [x]
    rw [vget_vmod, if_pos rfl, htx]
    rfl
  have hpump := State.pumpHdl_one (s := joined) (toE := b.die == 1) hstall hjoined hroom
  have htxs : vset joined.hdl.tx d [] = s.hdl.tx := by
    rw [← htx d]
    exact vset_vmod_self s.hdl.tx d _
  have hcross : s.cross a b stile vcl cls h l m = State.pumpHdl (b.die == 1) (joined.hdl.tx.get d).length joined := by
    unfold State.cross
    exact if_pos (crosses_of_die_ne hdie)
  rw [hcross, hjoined]
  refine hpump.trans ?_
  rw [htxs]
  rfl

/-- With nothing waiting the Headland sends nothing. -/
theorem foldl_pumpHdl_of_empty {s : State} (htx : ∀ d : Fin 2, s.hdl.tx.get d = []) :
    [true, false].foldl (fun s e => State.pumpHdl e (s.hdl.tx.get (hdlDir e)).length s) s = s := by
  simp only [List.foldl_cons, List.foldl_nil, htx, List.length_nil, State.pumpHdl]

/-- R358, R359: a packet of one beat is delivered and its buffer returned. -/
theorem headlandBeat_delivers {s : State} {toE : Bool} {b : BitVec 512} (htx : ∀ d : Fin 2, s.hdl.tx.get d = [])
    (hrx : s.hdl.rx.get (hdlDir toE) = []) (hbeats : packetBeats b = 1) (hcls : routeClass (beatRoute b) < 5) :
    Does (.headlandBeat toE b) s (fun t => t.hdl.delivered = s.hdl.delivered ++ [(toE, [b])] ∧
      t.sent = s.sent ++ [.headland (!toE) (creditBeat (routeClass (beatRoute b)) 1)] ∧
      t = { s with hdl := t.hdl, sent := t.sent, mon := t.mon }) := by
  obtain ⟨m, hm, -⟩ := State.count_eq (s.setHdl (fun h => { h with stalled := h.stalled &&& (if toE then 0xFF00 else 0x00FF) }))
    (ctrSel 6 (hdlDir toE) 0) 1
  have hop : opBeat toE b s = (({ s with
      mon := m
      hdl := { s.hdl with
        stalled := s.hdl.stalled &&& (if toE then 0xFF00 else 0x00FF)
        rx := vset s.hdl.rx (hdlDir toE) []
        delivered := s.hdl.delivered ++ [(toE, [b])] } } : State).emit
      (.headland (!toE) (creditBeat (routeClass (beatRoute b)) 1))) := by
    unfold opBeat
    dsimp only
    rw [hm, State.setHdl_hdl, hrx, if_neg (by simp only [List.headD_nil]; omega),
      if_neg (by simp only [List.headD_nil, List.nil_append, List.length_singleton]; omega)]
    exact foldl_pumpHdl_of_empty htx
  exact Does.of_exec (congrArg Host.Outcome.next hop) ⟨rfl, rfl, rfl⟩

theorem State.rb_wf_field {s : State} (h : Inv.registers s) (f g : RField) (v : Nat)
    (hg : g.lo + g.width ≤ f.lo ∨ f.lo + f.width ≤ g.lo) : (s.wf f v).rb g = s.rb g :=
  congrArg (· != 0) (State.rf_wf_field h f g v hg)

theorem sublinkStall_shows {s : State} (h : Inv.registers s) (i : Fin 16) : Does (.sublinkStall i) s (fun t =>
    t.hdl.stalled.getLsbD i = true ∧ t.rb F.HDL_STAT.STALL = true ∧ t.rf F.HDL_STAT.SUBLINK = i ∧ Raised t 173 ∧
    t = { s with regs := t.regs, hdl := t.hdl, mon := t.mon }) := by
  let shown : State := ((s.setHdl (fun h => { h with stalled := h.stalled ||| BitVec.ofNat 16 (2 ^ i.val) })).wb
    F.HDL_STAT.STALL true).wf F.HDL_STAT.SUBLINK i.val
  obtain ⟨m, hm, -⟩ := State.count_eq shown (ctrSel 6 (i.val / 8) 1) 1
  have hop : opStall i s = ({ shown with mon := m } : State).raise 173 46 := congrArg (fun t : State => t.raise 173 46) hm
  refine Does.of_exec (congrArg Host.Outcome.next hop) ⟨?_, ?_, ?_, State.raise_pend _ 173 46 (by decide), rfl⟩
  · show (s.hdl.stalled ||| BitVec.ofNat 16 (2 ^ i.val)).getLsbD i = true
    rw [BitVec.getLsbD_or, BitVec.getLsbD_ofNat]
    simp [Nat.testBit_two_pow_self]
  · exact (State.rb_congr (t := _) (s := shown) rfl F.HDL_STAT.STALL).trans <|
      (State.rb_wf_field (State.wb_regs_wf h _ _) _ _ _ (.inl (by decide))).trans (State.rb_wb_same h _ _ (by decide) (by decide))
  · exact (State.rf_congr (t := _) (s := shown) rfl F.HDL_STAT.SUBLINK).trans <|
      (State.rf_wf_same (State.wb_regs_wf h _ _) _ _ (by decide)).trans (Nat.mod_eq_of_lt i.isLt)

/-- Settles O42. -/
theorem headlandBeats : Obligations.HeadlandBeats := by
  intro s hinv
  refine ⟨fun a b stile vcl cls h l m => ⟨fun hdie => ?_, fun hdie htx hstall hroom => ?_⟩,
    fun toE b => headlandBeat_delivers, sublinkStall_shows hinv.2.1⟩
  · unfold State.cross
    rw [crosses_of_die_eq hdie]
    rfl
  · dsimp only
    rw [State.cross_of_room hdie htx hstall hroom]
    refine ⟨rfl, ?_, rfl⟩
    rw [vget_vmod, if_pos rfl, vget_vmod, if_pos rfl]
    exact Nat.sub_add_cancel hroom

end Sys2Proof.Machine
end

section
/-! PROOFS. The boot (R370, R402 to R405, R410 to R412): slots of the image, training of the memories, RUN, safe configuration. -/

namespace Sys2Proof.Machine

theorem State.rg_congr {s t : State} (h : t.regs = s.regs) (o : Nat) : t.rg o = s.rg o :=
  congrArg (fun r => Sparse.get regReset r o) h

theorem Reg.IMG_STAT_ne_MEM_STAT (m : MemNo) : Reg.IMG_STAT ≠ Reg.MEM_STAT m := by
  unfold Reg.IMG_STAT Reg.MEM_STAT
  omega

theorem State.closeSession_regs (s : State) (tr : Transport) : (s.closeSession tr).regs = s.regs := by
  unfold State.closeSession
  split <;> rfl

theorem State.closeSession_pend_mono (s : State) (tr : Transport) {ev : Nat} (h : Raised s ev) : Raised (s.closeSession tr) ev := by
  unfold State.closeSession
  split
  · exact State.report_pend_mono _ _ ev h
  · exact h

theorem State.coreReset_registers {s : State} (h : Inv.registers s) : Inv.registers s.coreReset :=
  State.wr_regs_wf (s := { s with regs := s.regs.filter (fun x => alwaysOn x.1) }) (Sparse.filter_wf _ h) Reg.PWR_STAT _

/-- The sessions that safe configuration ends are closed. -/
def State.closedForSafe (s : State) : State := (if s.ses.i3c.level = 3 then s else s.closeSession .i3c).closeSession .inband

/-- What safe configuration keeps of a device whose core is reset. -/
def State.safeBase (s : State) : State :=
  { s.coreReset with
    mon := { s.coreReset.mon with ev := { s.coreReset.mon.ev with pend := s.mon.ev.pend }, ctr := s.mon.ctr, seen := s.mon.seen }
    ses := { s.coreReset.ses with i3c := s.ses.i3c, i3cAddr := s.ses.i3cAddr, ibiEnabled := s.ses.ibiEnabled }
    flash := s.flash
    prm := { s.coreReset.prm with vmon := s.prm.vmon }
    pwr := { s.coreReset.pwr with command := s.pwr.command } }

/-- The registers that safe configuration shows: failures of training, the stage, the causes of the slots. -/
def State.showSafe (r : State) (t0 t1 : Word) (a b : Nat) : State :=
  let r2 := ((r.wr (Reg.MEM_STAT 0) t0).wr (Reg.MEM_STAT 1) t1).wf F.IMG_STAT.STAGE 9
  ((r2.wb F.IMG_STAT.SAFE true).wf F.IMG_STAT.CAUSE_A a).wf F.IMG_STAT.CAUSE_B b

theorem State.enterSafe_eq (s : State) : ∃ a b d, s.enterSafe =
    ((s.closedForSafe.safeBase.showSafe (s.closedForSafe.rg (Reg.MEM_STAT 0) &&& 2#32) (s.closedForSafe.rg (Reg.MEM_STAT 1) &&& 2#32) a b).count
      (startCtr 2)).raiseLog 225 unitBoot d := ⟨_, _, _, rfl⟩

theorem State.closedForSafe_regs (s : State) : s.closedForSafe.regs = s.regs := by
  unfold State.closedForSafe
  rw [State.closeSession_regs]
  split
  · rfl
  · exact s.closeSession_regs .i3c

theorem State.closedForSafe_pend_mono (s : State) {ev : Nat} (h : Raised s ev) : Raised s.closedForSafe ev := by
  unfold State.closedForSafe
  refine State.closeSession_pend_mono _ .inband ?_
  split
  · exact h
  · exact s.closeSession_pend_mono .i3c h

theorem State.showSafe_spec {r : State} (h : Inv.registers r) (t0 t1 : Word) (a b : Nat) :
    (r.showSafe t0 t1 a b).rf F.IMG_STAT.STAGE = 9 ∧ (r.showSafe t0 t1 a b).rb F.IMG_STAT.SAFE = true ∧
      (r.showSafe t0 t1 a b).rg (Reg.MEM_STAT 0) = t0 ∧ (r.showSafe t0 t1 a b).rg (Reg.MEM_STAT 1) = t1 := by
  unfold State.showSafe
  extract_lets r2
  have hmem0 := State.wr_regs_wf h (Reg.MEM_STAT 0) t0
  have hmem := State.wr_regs_wf hmem0 (Reg.MEM_STAT 1) t1
  have hr2 : Inv.registers r2 := State.wf_regs_wf hmem _ _
  have hsafe := State.wb_regs_wf hr2 F.IMG_STAT.SAFE true
  have hcause := State.wf_regs_wf hsafe F.IMG_STAT.CAUSE_A a
  have hmemStat : ∀ m : MemNo, (((r2.wb F.IMG_STAT.SAFE true).wf F.IMG_STAT.CAUSE_A a).wf F.IMG_STAT.CAUSE_B b).rg (Reg.MEM_STAT m) =
      ((r.wr (Reg.MEM_STAT 0) t0).wr (Reg.MEM_STAT 1) t1).rg (Reg.MEM_STAT m) := fun m => by
    rw [State.rg_wf_other hcause _ _ _ (Reg.IMG_STAT_ne_MEM_STAT m), State.rg_wf_other hsafe _ _ _ (Reg.IMG_STAT_ne_MEM_STAT m),
      State.rg_wb_other hr2 _ _ _ (Reg.IMG_STAT_ne_MEM_STAT m), State.rg_wf_other hmem _ _ _ (Reg.IMG_STAT_ne_MEM_STAT m)]
  refine ⟨?_, ?_, (hmemStat 0).trans ?_, (hmemStat 1).trans ?_⟩
  · rw [State.rf_wf_field hcause _ _ _ (by decide), State.rf_wf_field hsafe _ _ _ (by decide)]
    exact (State.rf_wf_field hr2 F.IMG_STAT.SAFE _ _ (by decide)).trans (State.rf_wf_same hmem F.IMG_STAT.STAGE 9 (by decide))
  · rw [State.rb_wf_field hcause _ _ _ (by decide), State.rb_wf_field hsafe _ _ _ (by decide)]
    exact State.rb_wb_same hr2 F.IMG_STAT.SAFE true (by decide) (by decide)
  · exact (State.rg_wr_other hmem0 t1 (by decide)).trans (State.rg_wr_same h _ _)
  · exact State.rg_wr_same hmem0 _ _

/-- R412: safe configuration is shown and reported, with the failures of memory training. -/
theorem State.enterSafe_spec {s : State} (h : Inv.registers s) :
    s.enterSafe.rf F.IMG_STAT.STAGE = 9 ∧ s.enterSafe.rb F.IMG_STAT.SAFE = true ∧ Raised s.enterSafe 225 ∧
      (∀ ev, Raised s ev → Raised s.enterSafe ev) ∧
      ∀ m : MemNo, s.enterSafe.rg (Reg.MEM_STAT m) = s.rg (Reg.MEM_STAT m) &&& 2#32 := by
  obtain ⟨a, b, d, hsafe⟩ := s.enterSafe_eq
  have hregs := s.closedForSafe_regs
  have hbase : Inv.registers s.closedForSafe.safeBase := State.coreReset_registers (by rw [Inv.registers, hregs]; exact h)
  have hkept : ∀ ev, Raised s ev → Raised s.closedForSafe.safeBase ev := fun ev hev => s.closedForSafe_pend_mono hev
  rw [State.rg_congr hregs, State.rg_congr hregs] at hsafe
  obtain ⟨hstage, hshown, hm0, hm1⟩ := State.showSafe_spec hbase (s.rg (Reg.MEM_STAT 0) &&& 2#32) (s.rg (Reg.MEM_STAT 1) &&& 2#32) a b
  have hpend : ∀ ev, Raised s ev → Raised (s.closedForSafe.safeBase.showSafe (s.rg (Reg.MEM_STAT 0) &&& 2#32)
    (s.rg (Reg.MEM_STAT 1) &&& 2#32) a b) ev := hkept
  rw [hsafe]
  generalize s.closedForSafe.safeBase.showSafe (s.rg (Reg.MEM_STAT 0) &&& 2#32) (s.rg (Reg.MEM_STAT 1) &&& 2#32) a b = r at *
  have hfinal : ((r.count (startCtr 2)).raiseLog 225 unitBoot d).regs = r.regs := State.count_regs _ _ _
  refine ⟨(State.rf_congr hfinal _).trans hstage, (State.rb_congr hfinal _).trans hshown, State.raiseLog_pend _ 225 _ _ (by decide),
    fun ev hev => State.report_pend_mono _ _ ev (State.count_pend_mono r _ _ ev (hpend ev hev)), fun m => (State.rg_congr hfinal _).trans ?_⟩
  match m with
  | 0 => exact hm0
  | 1 => exact hm1

/-! ### Training of the memories, and RUN -/

theorem opDdrTrained_good {s : State} {m : MemNo} (hon : s.coreOn = true) (hstage : s.rf F.IMG_STAT.STAGE = 6) (hrun : s.pwr.st = .run)
    (hnot : s.rb (F.MEM_STAT.TRAINED m) = false) : opDdrTrained m true s =
      if (s.wb (F.MEM_STAT.TRAINED m) true).memTrained && s.boot.meminit then (s.wb (F.MEM_STAT.TRAINED m) true).wf F.IMG_STAT.STAGE 7
      else s.wb (F.MEM_STAT.TRAINED m) true := by
  unfold opDdrTrained State.stage
  rw [if_neg (by simp [hon, hstage, hrun, hnot]), if_pos rfl]

/-- A training that failed, in the registers, the boot and the status. -/
def State.trainingFailed (s : State) (m : MemNo) : State :=
  ((s.wb (F.MEM_STAT.TFAIL m) true).setBoot (fun b => { b with tries := vset b.tries m (s.boot.tries.get m + 1) })).raise 176 (unitMem m)

theorem opDdrTrained_failed {s : State} {m : MemNo} (hon : s.coreOn = true) (hstage : s.rf F.IMG_STAT.STAGE = 6)
    (hrun : s.pwr.st = .run) (hnot : s.rb (F.MEM_STAT.TRAINED m) = false) : opDdrTrained m false s =
      if 2 ≤ s.boot.tries.get m + 1 then (s.trainingFailed m).enterSafe else s.trainingFailed m := by
  unfold opDdrTrained State.stage
  rw [if_neg (by simp [hon, hstage, hrun, hnot]), if_neg Bool.false_ne_true]
  rfl

/-- A field of one bit is that bit of its register. -/
theorem State.rb_eq_getLsbD (s : State) (f : RField) (h : f.width = 1) : s.rb f = (s.rg f.off).getLsbD f.lo := by
  show (((s.rg f.off).toNat >>> f.lo) % 2 ^ f.width != 0) = (s.rg f.off).toNat.testBit f.lo
  rw [h, Nat.testBit, Nat.one_and_eq_mod_two]
  rfl

theorem State.trainingFailed_spec {s : State} (h : Inv.registers s) (m : MemNo) :
    (s.trainingFailed m).rb (F.MEM_STAT.TFAIL m) = true ∧ Raised (s.trainingFailed m) 176 ∧ Inv.registers (s.trainingFailed m) :=
  ⟨State.rb_wb_same h (F.MEM_STAT.TFAIL m) true (show 1 + 1 ≤ 32 by decide) rfl, State.raise_pend _ 176 _ (by decide),
    State.wb_regs_wf h (F.MEM_STAT.TFAIL m) true⟩

theorem ddr5TrainingDone_fails {s : State} (h : Inv.registers s) {m : MemNo} (hon : s.coreOn = true)
    (hstage : s.rf F.IMG_STAT.STAGE = 6) (hrun : s.pwr.st = .run) (hnot : s.rb (F.MEM_STAT.TRAINED m) = false) :
    Does (.ddr5TrainingDone m false) s (fun t => t.rb (F.MEM_STAT.TFAIL m) = true ∧ Raised t 176 ∧
      (s.boot.tries.get m = 0 → t.boot.tries.get m = 1) ∧ (1 ≤ s.boot.tries.get m → t.rb F.IMG_STAT.SAFE = true)) := by
  refine Does.of_exec (congrArg Host.Outcome.next (opDdrTrained_failed hon hstage hrun hnot)) ?_
  obtain ⟨hfail, hraised, hreg⟩ := State.trainingFailed_spec h m
  split
  · next hsecond =>
    obtain ⟨-, hsafe, -, hmono, hmem⟩ := State.enterSafe_spec hreg
    refine ⟨?_, hmono 176 hraised, fun h0 => by omega, fun _ => hsafe⟩
    rw [State.rb_eq_getLsbD _ _ rfl] at hfail ⊢
    show ((s.trainingFailed m).enterSafe.rg (Reg.MEM_STAT m)).getLsbD 1 = true
    rw [hmem, BitVec.getLsbD_and]
    exact (Bool.and_eq_true _ _).mpr ⟨hfail, rfl⟩
  · next hfirst =>
    refine ⟨hfail, hraised, fun h0 => ?_, fun h1 => by omega⟩
    show (vset s.boot.tries m (s.boot.tries.get m + 1)).get m = 1
    rw [vget_vset, if_pos rfl, h0]

theorem ddr5TrainingDone_trains {s : State} (h : Inv.registers s) {m : MemNo} (hon : s.coreOn = true)
    (hstage : s.rf F.IMG_STAT.STAGE = 6) (hrun : s.pwr.st = .run) (hnot : s.rb (F.MEM_STAT.TRAINED m) = false) :
    Does (.ddr5TrainingDone m true) s (fun t => t.rb (F.MEM_STAT.TRAINED m) = true ∧ t = { s with regs := t.regs }) := by
  have hreg : Inv.registers (s.wb (F.MEM_STAT.TRAINED m) true) := State.wb_regs_wf h _ _
  have htrained : (s.wb (F.MEM_STAT.TRAINED m) true).rb (F.MEM_STAT.TRAINED m) = true :=
    State.rb_wb_same h _ _ (show 0 + 1 ≤ 32 by decide) rfl
  refine Does.of_exec (congrArg Host.Outcome.next (opDdrTrained_good hon hstage hrun hnot)) ?_
  split
  · refine ⟨?_, rfl⟩
    rw [State.rb_eq_getLsbD _ _ rfl] at htrained ⊢
    rwa [State.rg_wf_other hreg _ _ _ (Reg.IMG_STAT_ne_MEM_STAT m)]
  · exact ⟨htrained, rfl⟩

theorem runEntered_runs {s : State} (h : Inv.registers s) (hon : s.coreOn = true) (hrun : s.pwr.st = .run)
    (h0 : s.rb (F.MEM_STAT.TRAINED 0) = true) (h1 : s.rb (F.MEM_STAT.TRAINED 1) = true) (hmem : s.boot.meminit = false)
    (hstage : s.rf F.IMG_STAT.STAGE = 6 ∨ s.rf F.IMG_STAT.STAGE = 7) :
    Does .runEntered s (fun t => t.rf F.IMG_STAT.STAGE = 8 ∧ t.boot.running = true ∧ t.mon.ev.delivering = true) := by
  have hop : opRunEntered s = s.startRunning := by
    unfold opRunEntered
    exact if_pos (by simp [State.memTrained, State.stage, hon, hrun, h0, h1, hmem, hstage])
  exact Does.of_exec (congrArg Host.Outcome.next hop) ⟨State.rf_wf_same h F.IMG_STAT.STAGE 8 (by decide), rfl, rfl⟩

/-- Settles O53. -/
theorem memoryTrainingEnds : Obligations.MemoryTrainingEnds := by
  refine ⟨fun s m hinv hon hstage hrun hnot => ⟨ddr5TrainingDone_trains hinv.2.1 hon hstage hrun hnot,
    ddr5TrainingDone_fails hinv.2.1 hon hstage hrun hnot⟩, fun s hinv => ⟨fun hstage hmem => ?_, runEntered_runs hinv.2.1⟩⟩
  exact Does.of_exec (congrArg Host.Outcome.next (if_pos ⟨hstage, hmem⟩))
    ⟨rfl, rfl, State.rb_wb_same hinv.2.1 F.IMG_STAT.MEMINIT true (by decide) rfl, rfl⟩

/-! ### Slots of the image -/

theorem State.slotFailed_eq (s : State) (cause : Nat) : ∃ m, s.slotFailed cause = { s with mon := m } := by
  unfold State.slotFailed
  split_ifs
  · exact ⟨_, rfl⟩
  · exact ⟨_, rfl⟩
  · exact ⟨s.mon, rfl⟩

theorem opSlotValidated_a {s : State} {kinds : Vector PortKind 6} (hon : s.coreOn = true) (hstage : s.rf F.IMG_STAT.STAGE = 3) :
    opSlotValidated kinds s =
      match (s.validate .a kinds).2 with
      | some im => ((s.slotFailed (s.validate .a kinds).1).wf F.IMG_STAT.CAUSE_A (s.validate .a kinds).1).applyImage .a im kinds
      | none => ((s.slotFailed (s.validate .a kinds).1).wf F.IMG_STAT.CAUSE_A (s.validate .a kinds).1).wf F.IMG_STAT.STAGE 4 := by
  unfold opSlotValidated State.stage
  dsimp only
  rw [hstage, if_neg (by simp [hon])]
  rfl

theorem opSlotValidated_b_failed {s : State} {kinds : Vector PortKind 6} (hon : s.coreOn = true) (hstage : s.rf F.IMG_STAT.STAGE = 4)
    (hnone : (s.validate .b kinds).2 = none) : opSlotValidated kinds s =
      ((s.slotFailed (s.validate .b kinds).1).wf F.IMG_STAT.CAUSE_B (s.validate .b kinds).1).enterSafe := by
  unfold opSlotValidated State.stage
  dsimp only
  rw [hstage, if_neg (by simp [hon]), if_neg (by decide), hnone]
  rfl

/-- The modes, fabric time and training leave the boot and the power unit as they were. -/
theorem State.imageMode_frame (s : State) (mode : Nat) : (s.imageMode mode).boot = s.boot ∧ (s.imageMode mode).pwr = s.pwr := by
  unfold State.imageMode
  split <;> exact ⟨rfl, rfl⟩

theorem State.startRoot_frame (s : State) : s.startRoot.boot = s.boot ∧ s.startRoot.pwr = s.pwr := by
  unfold State.startRoot
  split <;> exact ⟨rfl, rfl⟩

theorem State.startTraining_frame (s : State) (u : LinkUnit) :
    (s.startTraining u).boot = s.boot ∧ (s.startTraining u).pwr = s.pwr := by
  unfold State.startTraining
  split
  · cases u <;> exact ⟨rfl, rfl⟩
  · exact ⟨rfl, rfl⟩

theorem foldl_startTraining_frame (us : List LinkUnit) (s : State) :
    (us.foldl State.startTraining s).boot = s.boot ∧ (us.foldl State.startTraining s).pwr = s.pwr :=
  foldl_keeps (Q := fun t : State => t.boot = s.boot ∧ t.pwr = s.pwr) ⟨rfl, rfl⟩ fun t u ht =>
    ⟨(t.startTraining_frame u).1.trans ht.1, (t.startTraining_frame u).2.trans ht.2⟩

/-- R410, R411: the records of a slot that passed give the boot its MEMINIT and the power unit its digest. -/
theorem State.applyImage_boot (s : State) (x : Slot) (im : Image) (kinds : Vector PortKind 6) :
    (s.applyImage x im kinds).boot.meminit = im.meminit ∧ (s.applyImage x im kinds).pwr.digest = keyOf im.digest := by
  unfold State.applyImage
  extract_lets s1 s2 s3
  obtain ⟨hboot, hpwr⟩ := foldl_startTraining_frame allUnits (s3.imageMode (s3.rf F.GLB_PRM_MODE.REQ_MODE)).startRoot
  obtain ⟨hboot', hpwr'⟩ := (s3.imageMode (s3.rf F.GLB_PRM_MODE.REQ_MODE)).startRoot_frame
  obtain ⟨hboot'', hpwr''⟩ := s3.imageMode_frame (s3.rf F.GLB_PRM_MODE.REQ_MODE)
  rw [hboot, hboot', hboot'', hpwr, hpwr', hpwr'']
  exact ⟨rfl, rfl⟩

/-- Settles O52. -/
theorem slotsAreTried : Obligations.SlotsAreTried := by
  intro s kinds hinv hon
  have hreg : Inv.registers s := hinv.2.1
  refine ⟨fun hstage hnone => ?_, fun hstage hnone => ?_, fun im hstage hsome => ?_⟩
  · obtain ⟨m, hm⟩ := s.slotFailed_eq (s.validate .a kinds).1
    have hcause : Inv.registers (({ s with mon := m } : State).wf F.IMG_STAT.CAUSE_A (s.validate .a kinds).1) :=
      State.wf_regs_wf hreg _ _
    refine Does.of_exec (congrArg Host.Outcome.next ((opSlotValidated_a hon hstage).trans (by rw [hnone, hm])))
      ⟨State.rf_wf_same hcause F.IMG_STAT.STAGE 4 (by decide), ?_, rfl⟩
    exact (State.rf_wf_field hcause F.IMG_STAT.STAGE F.IMG_STAT.CAUSE_A 4 (by decide)).trans
      (State.rf_wf_same (s := { s with mon := m }) hreg F.IMG_STAT.CAUSE_A _ (by decide))
  · obtain ⟨m, hm⟩ := s.slotFailed_eq (s.validate .b kinds).1
    obtain ⟨h9, hsafe, h225, -⟩ := State.enterSafe_spec (s := ({ s with mon := m } : State).wf F.IMG_STAT.CAUSE_B (s.validate .b kinds).1)
      (State.wf_regs_wf hreg _ _)
    exact Does.of_exec (congrArg Host.Outcome.next ((opSlotValidated_b_failed hon hstage hnone).trans (by rw [hm]))) ⟨h9, hsafe, h225⟩
  · exact Does.of_exec (congrArg Host.Outcome.next ((opSlotValidated_a hon hstage).trans (by rw [hsome])))
      (State.applyImage_boot _ .a im kinds)

end Sys2Proof.Machine
end

section
/-! PROOFS. What the effects of the coherence engine leave alone: the engine itself, the boot, the power unit, the calendar, fabric time,
the image, the flash and the sessions, the walkers of the Darner; and no pending source is cleared. -/

namespace Sys2Proof.Machine

/-- A maintenance operation with lines in flight. -/
def Maint.awaiting (m : Maint) (l : List LineAddr) : Maint := { m with inFlight := l }

/-- The power unit with resowing reads outstanding. -/
def Power.resowing (p : Power) (n : Nat) : Power := { p with resowOut := n }

/-- The Darner with what reads of memories and channels have found. -/
def DarnerSt.found (d : DarnerSt) (r : Vector (List RetEntry) 2) (w : BitVec 10) : DarnerSt := { d with retired := r, winThr := w }

/-- The units that no effect of the engine reaches are in `t` as in `s`. -/
structure Around (s t : State) : Prop where
  fine : t.fine = s.fine := by rfl
  boot : t.boot = s.boot := by rfl
  cal : t.cal = s.cal := by rfl
  fab : t.fab = s.fab := by rfl
  img : t.img = s.img := by rfl
  flash : t.flash = s.flash := by rfl
  ses : t.ses = s.ses := by rfl
  drains : t.drains = s.drains := by rfl
  deadNodes : t.deadNodes = s.deadNodes := by rfl
  deadWalks : t.deadWalks = s.deadWalks := by rfl
  mnt : t.mnt = s.mnt.awaiting t.mnt.inFlight := by rfl
  pwr : t.pwr = s.pwr.resowing t.pwr.resowOut := by rfl
  dar : t.dar = s.dar.found t.dar.retired t.dar.winThr := by rfl
  raised : ∀ ev, Raised s ev → Raised t ev := by exact fun _ h => h

theorem Around.refl (s : State) : Around s s := {}

theorem Around.trans {s t u : State} (h : Around s t) (h' : Around t u) : Around s u where
  fine := h'.fine.trans h.fine
  boot := h'.boot.trans h.boot
  cal := h'.cal.trans h.cal
  fab := h'.fab.trans h.fab
  img := h'.img.trans h.img
  flash := h'.flash.trans h.flash
  ses := h'.ses.trans h.ses
  drains := h'.drains.trans h.drains
  deadNodes := h'.deadNodes.trans h.deadNodes
  deadWalks := h'.deadWalks.trans h.deadWalks
  mnt := by rw [h'.mnt, h.mnt]; rfl
  pwr := by rw [h'.pwr, h.pwr]; rfl
  dar := by rw [h'.dar, h.dar]; rfl
  raised := fun ev hev => h'.raised ev (h.raised ev hev)

/-- Resowing's place in the seed list is the step's own matter. -/
theorem Around.resowNext {s t : State} (h : Around s t) : t.pwr.resowNext = s.pwr.resowNext := by rw [h.pwr]; rfl

/-- As `Around`, and the engine is as it was. -/
structure Beside (s t : State) : Prop extends Around s t where
  coh : t.coh = s.coh := by rfl

theorem Beside.refl (s : State) : Beside s s := {}

theorem Beside.trans {s t u : State} (h : Beside s t) (h' : Beside t u) : Beside s u :=
  { h.toAround.trans h'.toAround with coh := h'.coh.trans h.coh }

theorem Beside.foldl {α : Type} {f : State → α → State} (hf : ∀ s a, Beside s (f s a)) (l : List α) (s : State) :
    Beside s (l.foldl f s) :=
  foldl_keeps (Q := Beside s) (.refl s) fun t a ht => ht.trans (hf t a)

/-! ### Reports and the setters -/

theorem beside_report (s : State) (o : List Occ) : Beside s (s.report o) := { raised := fun ev => s.report_pend_mono o ev }
theorem beside_raise (s : State) (ev u : Nat) : Beside s (s.raise ev u) := beside_report s _
theorem beside_raiseLog (s : State) (ev u : Nat) (d : BitVec 128) : Beside s (s.raiseLog ev u d) := beside_report s _
theorem beside_note (s : State) (ev u : Nat) (d : BitVec 128) : Beside s (s.note ev u d) := beside_report s _

theorem beside_count (s : State) (c n : Nat) : Beside s (s.count c n) := by
  obtain ⟨m, hm, hmono⟩ := s.count_eq c n
  rw [hm]
  exact { raised := hmono }

theorem beside_setPort (s : State) (p : Port) (f : PortSt → PortSt) : Beside s (s.setPort p f) := {}
theorem beside_setStile (s : State) (l : LinkNo) (f : StileSt → StileSt) : Beside s (s.setStile l f) := {}
theorem beside_wr (s : State) (o : Nat) (v : Word) : Beside s (s.wr o v) := {}
theorem beside_wf (s : State) (f : RField) (v : Nat) : Beside s (s.wf f v) := {}
theorem beside_emit (s : State) (x : Sent) : Beside s (s.emit x) := {}

theorem beside_setLink (s : State) (u : LinkUnit) (f : LinkSt → LinkSt) : Beside s (s.setLink u f) := by
  cases u with
  | port p => exact beside_setPort s p _
  | stile l => exact beside_setStile s l _

/-! ### The Headland and the transmitters -/

theorem beside_cross (s : State) (a b : HdlUnit) (stile : Bool) (vcl : Fin 5) (cls : BitVec 2) (x : BitVec 160) (line : Option CodeLine)
    (mask : Option ByteMask) : Beside s (s.cross a b stile vcl cls x line mask) := by
  obtain ⟨h, l, heq, -⟩ := s.cross_eq a b stile vcl cls x line mask
  rw [heq]
  exact {}

theorem beside_crossItem (s : State) (a b : HdlUnit) (vcl : Fin 5) (cls : BitVec 2) (line : Option CodeLine) :
    Beside s (s.crossItem a b vcl cls line) := by
  unfold State.crossItem
  split
  · exact Beside.trans {} (beside_cross _ _ _ _ _ _ _ _ _)
  · exact .refl s

theorem beside_freeTag (s : State) (p : Port) (tag : Tag) : Beside s (s.freeTag p tag) := by
  unfold State.freeTag
  split
  · exact .refl s
  · exact {}

theorem beside_left (s : State) (x : Sent) : Beside s (s.left x) := by
  unfold State.left
  split
  · split_ifs
    · exact (beside_emit s _).trans (beside_freeTag _ _ _)
    · exact {}
    · exact beside_emit s _
  · exact beside_emit s _

theorem beside_pumpLink (s : State) (u : LinkUnit) : Beside s (s.pumpLink u) := by
  unfold State.pumpLink
  split
  · exact ((beside_setLink s u _).trans (beside_count _ _ _)).trans (.foldl beside_left _ _)
  · exact .refl s

theorem beside_transmitSlots (s : State) (u : LinkUnit) (slots : List TxSlot) : Beside s (s.transmitSlots u slots) :=
  (beside_setLink s u _).trans (beside_pumpLink _ u)

theorem beside_transmit (s : State) (u : LinkUnit) (slots : List (BitVec 160)) (x : Sent) : Beside s (s.transmit u slots x) :=
  beside_transmitSlots s u _

theorem beside_transmitPart (s : State) (u : LinkUnit) (slots : List TxSlot) (last : Bool) :
    Beside s (s.transmitPart u slots last) := (beside_setLink s u _).trans (beside_pumpLink _ u)

theorem beside_returnBuf (s : State) (b : Option (LinkNo × BitVec 3 × Bool × Nat)) : Beside s (s.returnBuf b) := by
  unfold State.returnBuf
  split
  · exact beside_transmit s _ _ _
  · exact .refl s

theorem beside_toAgent (s : State) (p : Port) (m : AgentMsg) : Beside s (s.toAgent p m) := by
  unfold State.toAgent
  split
  · obtain ⟨n, hn, hmono⟩ := s.markedDelivery_eq p m
    rw [hn]
    have hmarked : Beside s { s with mon := n } := { raised := hmono }
    exact hmarked.trans (beside_transmit _ _ _ _)
  · exact .refl s

theorem beside_respond (s : State) (p : Port) (m : AgentMsg) : Beside s (s.respond p m) := by
  unfold State.respond
  dsimp only
  split
  · exact (beside_setPort s p _).trans (beside_freeTag _ _ _)
  · exact (beside_setPort s p _).trans (beside_toAgent _ _ _)

theorem beside_answer (s : State) (p : Port) (m : AgentMsg) : Beside s (s.answer p m) := by
  unfold State.answer
  split
  · dsimp only
    split
    · exact (beside_cross s _ _ _ _ _ _ _ _).trans (beside_respond _ _ _)
    · exact beside_respond s _ _
  · exact beside_respond s _ _

theorem beside_sendSnoop (s : State) (p : Port) (m : AgentMsg) : Beside s (s.sendSnoop p m) := by
  unfold State.sendSnoop
  split
  · exact (beside_setPort s p _).trans (beside_toAgent _ _ _)
  · exact beside_setPort s p _

theorem beside_pumpStile (l : LinkNo) (n : Nat) (s : State) : Beside s (State.pumpStile l n s) := by
  induction n generalizing s with
  | zero => exact .refl s
  | succ n ih =>
    unfold State.pumpStile
    split
    · exact .refl s
    · next w rest _ =>
      extract_lets part s1 s2
      have h1 : Beside s s1 := beside_setStile s l _
      have h2 : Beside s s2 := by
        unfold s2
        split
        · exact h1.trans (beside_count _ _ _)
        · exact h1
      split
      · exact h2.trans (beside_transmitPart _ _ _ _)
      · exact ((h2.trans (beside_transmitSlots _ _ _)).trans (beside_returnBuf _ _)).trans (ih _)

theorem beside_queueStile (s : State) (l : LinkNo) (p : StilePkt) (buf : Option (LinkNo × BitVec 3 × Bool × Nat))
    (arriving : Option (LinkNo × Nat)) : Beside s (s.queueStile l p buf arriving) :=
  (beside_setStile s l _).trans (beside_pumpStile l _ _)

theorem beside_routeStile (s : State) (inDim : Option Nat) (buf : Option (LinkNo × BitVec 3 × Bool × Nat))
    (arriving : Option (LinkNo × Nat)) (p : StilePkt) : Beside s (s.routeStile inDim buf arriving p).2 := by
  unfold State.routeStile
  split
  · exact beside_returnBuf s buf
  · split
    · exact ((beside_count s _ _).trans (beside_raise _ _ _)).trans (beside_returnBuf _ buf)
    · next l h detour _ =>
      extract_lets s1 s2
      have h1 : Beside s s1 := by
        unfold s1
        split
        · exact beside_count s _ _
        · exact .refl s
      have h2 : Beside s1 s2 := by
        unfold s2
        split
        · exact beside_raise s1 _ _
        · exact .refl s1
      exact (h1.trans h2).trans (beside_queueStile _ _ _ _ _)

theorem beside_sendFabric (s : State) (u : HdlUnit) (p : StilePkt) : Beside s (s.sendFabric u p) := by
  unfold State.sendFabric
  dsimp only
  split
  · exact (beside_routeStile s none none none p).trans (beside_cross _ _ _ _ _ _ _ _ _)
  · exact beside_routeStile s none none none p

/-! ### Promises, prefetches, the spilled queue, retirement -/

theorem beside_setDeadline (s : State) (id : PromiseId) (row c : Nat) : Beside s (s.setDeadline id row c) := {}
theorem beside_dropPromises (s : State) (f : PromiseId → Bool) : Beside s (s.dropPromises f) := {}
theorem beside_pointReached (s : State) (p : Port) (id : Nat) : Beside s (s.pointReached p id) := beside_setPort s p _
theorem beside_passDone (s : State) (p : Port) (id : Nat) (fabric : Bool) : Beside s (s.passDone p id fabric) := beside_setPort s p _

theorem beside_setRow (s : State) (id : PromiseId) (row home : Nat) (c : Option Nat) : Beside s (s.setRow id row home c) := by
  unfold State.setRow
  split
  · exact .refl s
  · split
    · exact beside_setDeadline s _ _ _
    · split
      · exact beside_setDeadline s _ _ _
      · exact Beside.trans {} (beside_setDeadline _ _ _ _)

theorem beside_setChain (s : State) (id : PromiseId) (c : Nat) : Beside s (s.setChain id c) := by
  unfold State.setChain
  split
  · exact beside_setDeadline s _ _ _
  · exact .refl s

theorem beside_raiseFirst (s : State) (f : RField) (ev u : Nat) (log : Option (BitVec 128)) : Beside s (s.raiseFirst f ev u log) := by
  unfold State.raiseFirst
  dsimp only
  split
  · exact beside_wf s f 1
  · split
    · exact (beside_wf s f 1).trans (beside_raiseLog _ _ _ _)
    · exact (beside_wf s f 1).trans (beside_raise _ _ _)

theorem beside_noteDemoted (s : State) (p : Port) : Beside s (s.noteDemoted p) :=
  (beside_count s _ _).trans (beside_raiseFirst _ _ _ _ _)

theorem beside_unpromise (s : State) (p : Port) (tag : Tag) : Beside s (s.unpromise p tag) := by
  unfold State.unpromise
  split
  · exact .refl s
  · exact (beside_setPort s p _).trans (beside_dropPromises _ _)

theorem beside_consumed (s : State) (row u req : Nat) (sa : SysAddr) (mask : Nat) : Beside s (s.consumed row u req sa mask) :=
  (beside_count s _ _).trans (beside_raiseLog _ _ _ _)

theorem beside_takeBack (p : Port) (cap n : Nat) (s : State) : Beside s (State.takeBack p cap n s) := by
  induction n generalizing s with
  | zero => exact .refl s
  | succ n ih =>
    unfold State.takeBack
    split
    · extract_lets x bad s1
      refine Beside.trans ?_ (ih _)
      split
      · exact ((beside_setPort s p _ : Beside s s1).trans (beside_consumed _ _ _ _ _ _)).trans (beside_pointReached _ _ _)
      · exact beside_setPort s p _
    · exact .refl s

theorem beside_spillData (s : State) (p : Port) (cap id : Nat) (header : Bool) (cl : CodeLine) :
    Beside s (s.spillData p cap id header cl) :=
  ((beside_crossItem s _ _ _ _ _).trans (beside_setPort _ p _)).trans (beside_takeBack _ _ _ _)

theorem beside_prefetchEnded (s : State) (p : Port) (line : LineAddr) (filled declined error : Bool) :
    Beside s (s.prefetchEnded p line filled declined error) := by
  unfold State.prefetchEnded
  split
  · exact .refl s
  · extract_lets s1 s2
    have h2 : Beside s1 s2 := by
      unfold s2
      split
      · exact .refl s1
      · exact beside_dropPromises s1 _
    exact ((beside_setPort s p _ : Beside s s1).trans h2).trans (beside_count _ _ _)

theorem beside_recordLine (s : State) (m : MemNo) (key : Nat) (cause : BitVec 2) : Beside s (s.recordLine m key cause) := by
  unfold State.recordLine
  dsimp only
  split
  · exact {}
  · split
    · exact Beside.trans {} (beside_raise _ _ _)
    · exact ((beside_wf s F.DAR_RET_STAT.LIST_FULL _).trans (beside_count _ _ _)).trans (beside_raise _ _ _)

theorem beside_addCorrected (s : State) (u n : Nat) : Beside s (s.addCorrected u n) := by
  unfold State.addCorrected
  dsimp only
  split
  · exact Beside.trans {} (beside_raise _ _ _)
  · exact beside_wf s _ _

/-! ### Every effect -/

theorem beside_applyFx (s : State) (x : Fx) : Beside s (applyFx s x) := by
  cases x with
  | raise ev u => exact beside_raise s _ _
  | log ev u raised d => exact beside_report s _
  | count sel n => exact beside_count s _ _
  | first off b ev u log always =>
    refine (beside_wr s off (setFld (s.rg off) b 1 1)).trans ?_
    unfold applyFx
    dsimp only
    split
    · split
      · exact beside_note _ _ _ _
      · exact .refl _
    · split
      · exact beside_raiseLog _ _ _ _
      · exact beside_raise _ _ _
  | firstCtr sel ev u =>
    unfold applyFx
    dsimp only
    split
    · exact .refl s
    · exact Beside.trans {} (beside_raise _ _ _)
  | regBit off b => exact beside_wr s _ _
  | regFld off lo w v => exact beside_wr s _ _
  | respond p m => exact beside_answer s p m
  | snoop p m => exact ((beside_cross s _ _ _ _ _ _ _ _).trans (beside_setPort _ p _)).trans (beside_sendSnoop _ p m)
  | node pkt => exact beside_sendFabric s _ pkt
  | point p id => exact beside_pointReached s p id
  | passed p id fabric => exact beside_passDone s p id fabric
  | row id r home c => exact beside_setRow s id r home c
  | chain id c => exact beside_setChain s id c
  | demoted p tag => exact (beside_unpromise s p tag).trans (beside_noteDemoted _ p)
  | postedEnd p point demoted =>
    unfold applyFx
    dsimp only
    split
    · exact (beside_dropPromises s _).trans (beside_noteDemoted _ p)
    · exact beside_dropPromises s _
  | follow p tag q holder => exact {}
  | unpromise p tag => exact beside_unpromise s p tag
  | walkData p w n stat d k => exact beside_setPort s p _
  | spillData p id header cl => exact beside_spillData s p _ id header cl
  | prefetchEnd p line filled declined error => exact beside_prefetchEnded s p line filled declined error
  | resowEnd line filled =>
    unfold applyFx
    dsimp only
    split
    · exact Beside.trans {} (beside_count _ _ _)
    · exact Beside.trans {} (beside_dropPromises _ _)
  | mntLine line => exact {}
  | retire m key who cause => exact beside_recordLine s m key cause
  | prefetchUse useful =>
    unfold applyFx
    dsimp only
    split <;> exact {}
  | corrected u n => exact beside_addCorrected s u n
  | poisonedBy p =>
    unfold applyFx
    dsimp only
    split
    · exact .refl s
    · exact (beside_setPort s p _).trans (beside_raise _ _ _)

theorem around_setCoh (s : State) (c : Coh) : Around s { s with coh := c } := {}

/-- A run of the engine changes, beside the engine, only what its effects reach. -/
theorem around_runCoh (s : State) (f : Coh → Coh) : Around s (s.runCoh f) := by
  have h := Beside.foldl beside_applyFx ((((Coh.settle s settleRounds (f s.coh)).retirePass s).stamp s.fine).fx)
    { s with coh := { ((Coh.settle s settleRounds (f s.coh)).retirePass s).stamp s.fine with fx := [] } }
  exact (around_setCoh s _).trans h.toAround

theorem around_arriveReq (s : State) (r : Req) : Around s (s.arriveReq r) := around_runCoh s _

end Sys2Proof.Machine
end

section
/-! PROOFS. Visits of the Darner (R324 to R328) and resowing (R445, R446). -/

namespace Sys2Proof.Machine

/-! ### A write of the RW bits of a register -/

/-- A register after its RW bits are written (R380). -/
theorem State.wrRw_eq (s : State) {o : Nat} {row : RegRow} (h : regRow o = some row) (v : Word) :
    s.wrRw o v = s.wr o ((s.rg o &&& ~~~row.rw) ||| (v &&& row.rw)) := by
  unfold State.wrRw
  rw [h]

theorem State.wrRw_frame (s : State) (o : Nat) (v : Word) : s.wrRw o v = { s with regs := (s.wrRw o v).regs } := by
  unfold State.wrRw
  split <;> rfl

theorem State.wrRw_regs_wf {s : State} (h : Inv.registers s) (o : Nat) (v : Word) : Inv.registers (s.wrRw o v) := by
  unfold State.wrRw
  split
  · exact State.wr_regs_wf h _ _
  · exact h

theorem State.rg_wrRw_of_ne {s : State} (h : Inv.registers s) {o o' : Nat} (hne : o ≠ o') (v : Word) :
    (s.wrRw o v).rg o' = s.rg o' := by
  unfold State.wrRw
  split
  · exact State.rg_wr_other h _ hne
  · rfl

theorem State.getLsbD_rg_wrRw {s : State} (h : Inv.registers s) {o : Nat} {row : RegRow} (hrow : regRow o = some row) (v : Word)
    {i : Nat} (hi : row.rw.getLsbD i = true) : ((s.wrRw o v).rg o).getLsbD i = v.getLsbD i := by
  have hlt : i < 32 := Nat.lt_of_not_le fun hge => by
    rw [BitVec.getLsbD_of_ge _ _ hge] at hi
    exact absurd hi (by decide)
  rw [State.wrRw_eq s hrow, State.rg_wr_same h, BitVec.getLsbD_or, BitVec.getLsbD_and, BitVec.getLsbD_and, BitVec.getLsbD_not, hi]
  simp [hlt]

/-- A field of RW bits reads as written. -/
theorem State.rf_wrRw {s : State} (h : Inv.registers s) (f : RField) {row : RegRow} (hrow : regRow f.off = some row) (v : Word)
    (hrw : ∀ i < f.width, row.rw.getLsbD (f.lo + i) = true) : (s.wrRw f.off v).rf f = fld v f.lo f.width := by
  refine Nat.eq_of_testBit_eq fun i => ?_
  show (fld ((s.wrRw f.off v).rg f.off) f.lo f.width).testBit i = _
  rw [testBit_fld, testBit_fld]
  by_cases hi : i < f.width
  · rw [State.getLsbD_rg_wrRw h hrow v (hrw i hi)]
  · simp [hi]

theorem State.rb_wrRw {s : State} (h : Inv.registers s) (f : RField) {row : RegRow} (hrow : regRow f.off = some row) (v : Word)
    (hw : f.width = 1) (hrw : row.rw.getLsbD f.lo = true) : (s.wrRw f.off v).rb f = v.getLsbD f.lo := by
  rw [State.rb_eq_getLsbD _ _ hw, State.getLsbD_rg_wrRw h hrow v hrw]

/-! ### Visits -/

theorem opDueTick_due {s : State} {w : Walker} (hon : s.darnerOn (decide (32 ≤ (walkerIdx w).val)) = true)
    (hdue : s.dar.dueAt.get (walkerIdx w) ≤ s.fine) : opDueTick w s =
      let s1 := s.setDar (fun d => { d with
        dueAt := vset d.dueAt (walkerIdx w) (s.fine + s.dueTime (decide (32 ≤ (walkerIdx w).val)))
        due := vmod d.due (walkerIdx w) (fun n => min 16 (n + 1)) })
      if s.dar.due.get (walkerIdx w) < 16 then s1
      else ((s1.count (ctrSel 7 0 2)).wb F.DAR_STAT.LAG true).raise 151 (unitHub 0) := by
  unfold opDueTick
  exact if_neg (by simp [hon]; omega)

/-- R324: where a walker of a kind ends its pass is no matter of its place or its due count. -/
theorem State.passEnd_dar (s : State) (i : Fin 34) : (s.passEnd i).dar = { s.dar with passed := (s.passEnd i).dar.passed } := by
  unfold State.passEnd
  dsimp only
  split_ifs <;> rfl

/-- What a visit leaves of the walkers, whether or not its walker ends its pass. -/
theorem visit_dar {s t : State} (h : Around s t) (last : Bool) (i : Fin 34) :
    ∃ p r w, (if last = true then t.passEnd i else t).dar = { s.dar with passed := p, retired := r, winThr := w } := by
  cases last with
  | false => exact ⟨s.dar.passed, _, _, h.dar⟩
  | true =>
    refine ⟨(t.passEnd i).dar.passed, t.dar.retired, t.dar.winThr, ?_⟩
    show (t.passEnd i).dar = _
    rw [State.passEnd_dar, h.dar]
    rfl

/-- R326: the visit that is due takes one from the walker's due count. -/
theorem vmod_pred (v : Vector Nat 34) (i : Fin 34) : (vmod v i (· - 1)).get i = v.get i - 1 := by
  rw [vget_vmod, if_pos rfl]

/-- R324: the slot after slot `n` of a walk of `size` slots. -/
def walkNext (size n : Nat) : Nat := if size ≤ n + 1 then 0 else n + 1

theorem darnerCacheVisit_moves {s : State} {sl : SliceNo} (hon : s.darnerOn false = true)
    (hdue : s.dar.due.get (walkerIdx (.cache sl)) ≠ 0) (hok : s.visitOk 0 (s.chan sl) = true) :
    Does (.darnerCacheVisit sl) s (fun t => t.dar.pos.get sl = walkNext (s.sets * 16) (s.dar.pos.get sl) ∧
      t.dar.due.get (walkerIdx (.cache sl)) = s.dar.due.get (walkerIdx (.cache sl)) - 1) := by
  let last := decide (s.sets * 16 ≤ s.dar.pos.get sl + 1)
  let moved : State := s.setDar (fun d => { d with
    due := vmod d.due (walkerIdx (.cache sl)) (· - 1), pos := vset d.pos sl (if last then 0 else s.dar.pos.get sl + 1) })
  let t : State := moved.runCoh
    (fun c => (c.visitSlot moved (slotKey sl (s.dar.pos.get sl / 16) (s.dar.pos.get sl % 16))).woken)
  have hop : opCacheVisit sl s = if last = true then t.passEnd (walkerIdx (.cache sl)) else t := by
    unfold opCacheVisit
    exact if_neg (by simp [hon, hdue, hok])
  obtain ⟨p, r, w, hdar⟩ := visit_dar (around_runCoh moved _) last (walkerIdx (.cache sl))
  refine Does.of_exec (congrArg Host.Outcome.next hop) ?_
  rw [hdar]
  refine ⟨?_, vmod_pred _ _⟩
  show (vset s.dar.pos sl (if last then 0 else s.dar.pos.get sl + 1)).get sl = _
  rw [vget_vset, if_pos rfl]
  simp only [last, decide_eq_true_eq, walkNext]

theorem darnerMemVisit_moves {s : State} {m : MemNo} (hon : s.darnerOn true = true)
    (hdue : s.dar.due.get (walkerIdx (.mem m)) ≠ 0)
    (hok : s.visitOk 1 (s.chanOfLine (lineOfMem s.node m (s.dar.memPos.get m))) = true) :
    Does (.darnerMemVisit m) s (fun t => t.dar.memPos.get m = walkNext (s.portCap / 128) (s.dar.memPos.get m) ∧
      t.dar.due.get (walkerIdx (.mem m)) = s.dar.due.get (walkerIdx (.mem m)) - 1) := by
  let last := decide (s.portCap / 128 ≤ s.dar.memPos.get m + 1)
  let l := lineOfMem s.node m (s.dar.memPos.get m)
  let moved : State := s.setDar (fun d => { d with
    due := vmod d.due (walkerIdx (.mem m)) (· - 1), memPos := vset d.memPos m (if last then 0 else s.dar.memPos.get m + 1) })
  let t : State := (moved.count (ctrSel 7 0 0)).runCoh (fun c => ((c.readRow s l).queueMem l .scrub 1).woken)
  have hop : opMemVisit m s = if last = true then t.passEnd (walkerIdx (.mem m)) else t := by
    unfold opMemVisit
    exact if_neg (by simp [hon, hdue, hok])
  obtain ⟨p, r, w, hdar⟩ := visit_dar (around_runCoh (moved.count (ctrSel 7 0 0)) _) last (walkerIdx (.mem m))
  refine Does.of_exec (congrArg Host.Outcome.next hop) ?_
  rw [hdar, State.count_dar]
  refine ⟨?_, vmod_pred _ _⟩
  show (vset s.dar.memPos m (if last then 0 else s.dar.memPos.get m + 1)).get m = _
  rw [vget_vset, if_pos rfl]
  simp only [last, decide_eq_true_eq, walkNext]

/-- Settles O36. -/
theorem scrubVisits : Obligations.ScrubVisits := by
  intro s hinv
  have hreg : Inv.registers s := hinv.2.1
  refine ⟨fun w => ?_, fun sl => darnerCacheVisit_moves, fun m => darnerMemVisit_moves⟩
  intro i mem hon hat
  refine ⟨fun hlt => ?_, fun hfull => ?_⟩
  · refine Does.of_exec (congrArg Host.Outcome.next ((opDueTick_due hon hat).trans (if_pos hlt))) ⟨?_, ?_, fun j hj => ?_, rfl⟩
    · show (vmod s.dar.due i (fun n => min 16 (n + 1))).get i = _
      rw [vget_vmod, if_pos rfl]
      exact Nat.min_eq_right hlt
    · show (vset s.dar.dueAt i _).get i = _
      rw [vget_vset, if_pos rfl]
      rfl
    · show (vmod s.dar.due i (fun n => min 16 (n + 1))).get j = _
      rw [vget_vmod, if_neg hj.symm]
  · let ticked : State := s.setDar (fun d => { d with
      dueAt := vset d.dueAt i (s.fine + s.dueTime mem), due := vmod d.due i (fun n => min 16 (n + 1)) })
    obtain ⟨m, hm, -⟩ := ticked.count_eq (ctrSel 7 0 2) 1
    have hop : opDueTick w s = (({ ticked with mon := m } : State).wb F.DAR_STAT.LAG true).raise 151 (unitHub 0) :=
      (opDueTick_due hon hat).trans ((if_neg (by rw [show s.dar.due.get (walkerIdx w) = 16 from hfull]; decide)).trans
        (congrArg (fun t : State => (t.wb F.DAR_STAT.LAG true).raise 151 (unitHub 0)) hm))
    refine Does.of_exec (congrArg Host.Outcome.next hop) ⟨?_, ?_, State.raise_pend _ 151 _ (by decide), rfl⟩
    · show vmod s.dar.due i (fun n => min 16 (n + 1)) = s.dar.due
      ext j hj
      show (vmod s.dar.due i (fun n => min 16 (n + 1))).get ⟨j, hj⟩ = s.dar.due.get ⟨j, hj⟩
      rw [vget_vmod]
      split
      · next h => rw [← h, hfull]; rfl
      · rfl
    · exact State.rb_wb_same (s := { ticked with mon := m }) hreg F.DAR_STAT.LAG true (by decide) rfl

/-! ### Resowing -/

theorem around_seedFetch (s : State) (n : Nat) : Around s (s.seedFetch n).2 := by
  unfold State.seedFetch
  dsimp only
  split
  · dsimp only
    exact Around.trans (around_setCoh s _) (around_runCoh _ _)
  · exact .refl s

/-- R446: a resowing read takes its record. -/
theorem State.resow_next (s : State) (l : LineAddr) (c : Credit) (rest : List Credit) :
    (s.resow l c rest).pwr.resowNext = s.pwr.resowNext + 1 := by
  unfold State.resow
  extract_lets q s1 prm s2
  have hitem := beside_crossItem s2 (.regs 0) (.slice (sliceOf l)) 0 1 none
  rw [(around_arriveReq _ _).resowNext, hitem.resowNext]
  rfl

/-- The state in which a record is passed over. -/
def State.skipSeed (s : State) (n : Nat) : State := (s.setPwr (fun x => { x with resowNext := n + 1 })).count (powerCtr 7)

theorem State.skipSeed_next (s : State) (n : Nat) : (s.skipSeed n).pwr.resowNext = n + 1 :=
  congrArg Power.resowNext (State.count_pwr _ _ _)

theorem takeFirst_isSome {α : Type} {p : α → Bool} {l : List α} (h : ∃ x ∈ l, p x = true) : ∃ r, takeFirst p l = some r := by
  induction l with
  | nil => simp at h
  | cons a l ih =>
    unfold takeFirst
    split
    · exact ⟨_, rfl⟩
    · next hp =>
      obtain ⟨x, hx, hpx⟩ := h
      obtain rfl | hx := List.mem_cons.mp hx
      · exact absurd hpx hp
      · obtain ⟨r, hr⟩ := ih ⟨x, hx, hpx⟩
        rw [hr]
        exact ⟨_, rfl⟩

theorem resowReadIssue_next {s : State} (hon : s.rb F.PWR_SEED_STAT.RESOWING = true) (hrun : s.pwr.st = .run)
    (hlt : s.pwr.resowNext < s.rf F.PWR_SEED_STAT.SEED_COUNT)
    (hready : wordMark (lineWord (s.seedFetch s.pwr.resowNext).1 (s.pwr.resowNext % 16)) = true ∨
      s.seedOk (wordData (lineWord (s.seedFetch s.pwr.resowNext).1 (s.pwr.resowNext % 16))) = false ∨
      ∃ c ∈ s.prm.resow, c.ch.toNat = (s.chanOfLine (BitVec.ofNat 45
        ((wordData (lineWord (s.seedFetch s.pwr.resowNext).1 (s.pwr.resowNext % 16))).toNat % 2 ^ 36))).val) :
    (opResow s).pwr.resowNext = s.pwr.resowNext + 1 := by
  unfold opResow
  dsimp only
  rw [if_neg (by simp [hon, hrun]; omega)]
  split
  · exact State.skipSeed_next _ _
  · next hmark =>
    split
    · exact State.skipSeed_next _ _
    · next hok =>
      have hcredit := (hready.resolve_left hmark).resolve_left (by simpa using hok)
      obtain ⟨⟨c, rest⟩, htake⟩ := takeFirst_isSome (p := fun (c : Credit) => c.ch.toNat == _) (hcredit.imp fun c h => ⟨h.1, beq_iff_eq.mpr h.2⟩)
      rw [htake]
      dsimp only
      rw [State.resow_next, (around_seedFetch s _).resowNext]

/-- R446: what resowing has not spent is dropped. -/
theorem State.endResow_spec {s : State} (h : Inv.registers s) : s.endResow.rb F.PWR_SEED_STAT.RESOWING = false ∧
    s.endResow.rb F.PWR_SEED_STAT.SEED_VALID = false ∧ Inv.registers s.endResow := by
  have hreg : Inv.registers (({ s with prm := { s.prm with resow := [] } } : State).wb F.PWR_SEED_STAT.RESOWING false) :=
    State.wb_regs_wf h _ _
  refine ⟨?_, State.rb_wb_same hreg F.PWR_SEED_STAT.SEED_VALID false (by decide) rfl, State.wb_regs_wf hreg _ _⟩
  exact (State.rb_wb_field hreg F.PWR_SEED_STAT.SEED_VALID F.PWR_SEED_STAT.RESOWING false (by decide)).trans
    (State.rb_wb_same (s := { s with prm := { s.prm with resow := [] } }) h F.PWR_SEED_STAT.RESOWING false (by decide) rfl)

theorem resowingDone_ends {s : State} (h : Inv.registers s) (hon : s.rb F.PWR_SEED_STAT.RESOWING = true)
    (hall : s.rf F.PWR_SEED_STAT.SEED_COUNT ≤ s.pwr.resowNext) (hout : s.pwr.resowOut = 0) :
    Does .resowingDone s (fun t => t.rb F.PWR_SEED_STAT.RESOWING = false ∧ t.rb F.PWR_SEED_STAT.SEED_VALID = false ∧
      t.rb F.PWR_SEED_STAT.DONE = true ∧ Raised t 197 ∧ t.prm.resow = [] ∧
      t = { s with regs := t.regs, mon := t.mon, prm := t.prm }) := by
  obtain ⟨hresow, hvalid, hreg⟩ := State.endResow_spec h
  refine Does.of_exec (congrArg Host.Outcome.next (if_pos (by simp [hon, hall, hout])))
    ⟨?_, ?_, State.rb_wb_same hreg F.PWR_SEED_STAT.DONE true (by decide) rfl, State.raiseBare_pend _ 197 _ (by decide), rfl, rfl⟩
  · exact (State.rb_wb_field hreg F.PWR_SEED_STAT.DONE F.PWR_SEED_STAT.RESOWING true (by decide)).trans hresow
  · exact (State.rb_wb_field hreg F.PWR_SEED_STAT.DONE F.PWR_SEED_STAT.SEED_VALID true (by decide)).trans hvalid

theorem pwrSeedCfg_ends {s : State} (h : Inv.registers s) (hserve : Serving s) {v : Word}
    (hon : s.rb F.PWR_SEED_STAT.RESOWING = true) (hoff : v.getLsbD 12 = false) :
    Does (.pwrSeedCfgWrite v) s (fun t => t.rb F.PWR_SEED_STAT.RESOWING = false ∧ t.rb F.PWR_SEED_STAT.SEED_VALID = false ∧
      t.prm.resow = [] ∧ t.pwr.resowOut = s.pwr.resowOut) := by
  let s1 := s.wrRw Reg.PWR_SEED_CFG v
  have hen : s1.rb F.PWR_SEED_CFG.RESOW_EN = false := (State.rb_wrRw h F.PWR_SEED_CFG.RESOW_EN rfl v rfl (by decide)).trans hoff
  have hresow : s1.rb F.PWR_SEED_STAT.RESOWING = true := by
    rw [State.rb_eq_getLsbD _ _ rfl] at hon ⊢
    rwa [State.rg_wrRw_of_ne h (by decide)]
  have hop : opSeedCfg v s = s1.endResow := if_pos (by simp [s1, hen, hresow])
  obtain ⟨hend, hvalid, -⟩ := State.endResow_spec (State.wrRw_regs_wf h Reg.PWR_SEED_CFG v)
  refine Does.of_exec (congrArg Host.Outcome.next ((State.onReg_of_serving hserve _).trans hop)) ⟨hend, hvalid, rfl, ?_⟩
  show s1.pwr.resowOut = s.pwr.resowOut
  unfold s1
  rw [State.wrRw_frame]

/-- Settles O57. -/
theorem resowing : Obligations.Resowing := by
  intro s hinv
  exact ⟨fun hon hrun hlt hready => Does.of_exec rfl (resowReadIssue_next hon hrun hlt hready), resowingDone_ends hinv.2.1,
    fun v hserve => pwrSeedCfg_ends hinv.2.1 hserve⟩

end Sys2Proof.Machine
end

section
/-! PROOFS. Management sessions (R414 to R422): one command at a time, opening, and the commands that read. -/

namespace Sys2Proof.Machine

/-! ### Numbers as bytes -/

theorem leBytes_succ (n x : Nat) : leBytes (n + 1) x = BitVec.ofNat 8 x :: leBytes n (x / 256) := by
  simp only [leBytes, List.range_succ_eq_map, List.map_cons, List.map_map, Nat.mul_zero, Nat.shiftRight_zero]
  refine congrArg _ (List.map_congr_left fun i _ => ?_)
  show BitVec.ofNat 8 (x >>> (8 * (i + 1))) = BitVec.ofNat 8 ((x / 256) >>> (8 * i))
  rw [Nat.shiftRight_eq_div_pow, Nat.shiftRight_eq_div_pow, Nat.div_div_eq_div_mul, Nat.mul_add, Nat.add_comm, Nat.pow_add]

theorem length_leBytes (n x : Nat) : (leBytes n x).length = n := by simp [leBytes]

/-- The number of `n` bytes of a number is the number, cut to them. -/
theorem leNat_leBytes (n x : Nat) : leNat (leBytes n x) = x % 256 ^ n := by
  induction n generalizing x with
  | zero => simp [leBytes, leNat, Nat.mod_one]
  | succ n ih =>
    rw [leBytes_succ]
    show (BitVec.ofNat 8 x).toNat + 256 * leNat (leBytes n (x / 256)) = _
    rw [ih, BitVec.toNat_ofNat, Nat.pow_succ 256, Nat.mul_comm (256 ^ n), Nat.mod_mul]

/-- A field at the end of what comes before it. -/
theorem leAt_leBytes (a b : List Byte) (n x : Nat) : leAt (a ++ leBytes n x ++ b) a.length n = x % 256 ^ n := by
  rw [leAt, bytesFrom, List.append_assoc, List.drop_left, List.take_left' (length_leBytes n x), leNat_leBytes]

theorem leAt_byte (a c : List Byte) (b : Byte) : leAt (a ++ [b] ++ c) a.length 1 = b.toNat := by
  rw [leAt, bytesFrom, List.append_assoc, List.drop_left]
  show b.toNat + 256 * 0 = b.toNat
  omega

/-! ### The sessions of a state -/

theorem State.get_setSession (s : State) (tr : Transport) (f : Session → Session) :
    (s.setSession tr f).ses.get tr = f (s.ses.get tr) := by cases tr <;> rfl

/-- A reply leaves both sessions and the frames that wait as they were. -/
theorem State.deliver_ses (s : State) (tr : Transport) (l : List Byte) :
    (∀ tr', (s.deliver tr l).ses.get tr' = s.ses.get tr') ∧ (s.deliver tr l).ses.waiting = s.ses.waiting := by
  cases tr with
  | i3c =>
    unfold State.deliver
    dsimp only
    split <;> exact ⟨fun tr' => by cases tr' <;> rfl, rfl⟩
  | inband =>
    have hses : ∀ (js : List Nat) (t : State), (js.foldl (fun s1 j => s1.wr (sesBuf j) (s.bufWord l j)) t).ses = t.ses := fun js t =>
      foldl_keeps (Q := fun u : State => u.ses = t.ses) rfl fun u j hu => hu
    unfold State.deliver State.setSes
    dsimp only
    rw [hses]
    exact ⟨fun tr' => by cases tr' <;> rfl, rfl⟩

/-- A reply reaches the registers, what is sent and the sessions, and nothing else. -/
theorem State.deliver_frame (s : State) (tr : Transport) (l : List Byte) :
    s.deliver tr l = { s with regs := (s.deliver tr l).regs, ses := (s.deliver tr l).ses, sent := (s.deliver tr l).sent } := by
  cases tr with
  | i3c =>
    unfold State.deliver
    dsimp only
    split <;> rfl
  | inband =>
    have hregs : ∀ (js : List Nat) (t : State), ∃ r, js.foldl (fun s1 j => s1.wr (sesBuf j) (s.bufWord l j)) t = { t with regs := r } :=
      fun js t => foldl_keeps (Q := fun u : State => ∃ r, u = { t with regs := r }) ⟨t.regs, rfl⟩ fun u j ⟨r, hu⟩ => ⟨(u.wr (sesBuf j) (s.bufWord l j)).regs, hu ▸ rfl⟩
    obtain ⟨r, hr⟩ := hregs (List.range (cdiv l.length 4)) s
    unfold State.deliver
    dsimp only
    rw [hr]
    rfl

/-- R421: with no command under way and none waiting, a frame is served at once. -/
theorem opSession_eq {s : State} {f : SesFrame} (hon : s.coreOn = true) (hfree : s.sesWorking = false) (hwait : s.ses.waiting = [])
    (hnext : (s.sesFrame f).ses.waiting = []) : opSession f s = s.sesFrame f := by
  have hrest : ∀ (n : Nat) (t : State), t.ses.waiting = [] → State.pumpSes n t = t := fun n t ht => by
    cases n with
    | zero => rfl
    | succ n =>
      unfold State.pumpSes
      rw [ht]
      split <;> rfl
  have hself : (s.setSes (fun x => { x with waiting := x.waiting ++ [f] })).setSes (fun x => { x with waiting := [] }) = s := by
    show ({ s with ses := { s.ses with waiting := [] } } : State) = s
    rw [← hwait]
  have hwaits : (s.setSes (fun x => { x with waiting := x.waiting ++ [f] })).ses.waiting = [f] := by
    show s.ses.waiting ++ [f] = [f]
    rw [hwait, List.nil_append]
  unfold opSession
  rw [if_pos hon]
  unfold State.runSes
  rw [hwaits]
  show State.pumpSes (3 + 1) _ = _
  unfold State.pumpSes
  rw [if_neg (by rw [show State.sesWorking (s.setSes _) = s.sesWorking from rfl, hfree]; decide), hwaits]
  dsimp only
  rw [hself]
  exact hrest 3 _ hnext

/-! ### Opening -/

/-- The frame of OPEN. -/
def openFrame (tr : Transport) (level : Byte) (nh : BitVec 128) : SesFrame :=
  { tr := tr, opc := 1, stat := 0, len := 17, seq := 0, payload := level :: leBytes 16 nh.toNat, mac := 0 }

/-- The frame of AUTH. -/
def authFrame (tr : Transport) (mac : BitVec 256) : SesFrame :=
  { tr := tr, opc := 2, stat := 0, len := 32, seq := 0, payload := leBytes 32 mac.toNat, mac := 0 }

theorem sesOpen_challenges {s : State} {tr : Transport} {level : Byte} {nh : BitVec 128} (hlock : (s.ses.get tr).lockEnd = none)
    (hclosed : (s.ses.get tr).isOpen = false) (hlevel : level.toNat ≤ 3) (hkey : s.levelOpen tr level.toNat = true) :
    s.sesOpen (openFrame tr level nh) =
      (s.drawn.setSession tr (fun x => { x with chal := some (level.setWidth 2, nh, Config.nonce s.freeCtr) })).deliver tr
        (replyHead 0x01 0 0 (leBytes 16 (Config.nonce s.freeCtr).toNat)) := by
  have hnh : BitVec.ofNat 128 (leNat (leBytes 16 nh.toNat)) = nh := by
    rw [leNat_leBytes, show 256 ^ 16 = 2 ^ 128 by decide, Nat.mod_eq_of_lt nh.isLt, BitVec.ofNat_toNat, BitVec.setWidth_eq]
  have hlev : BitVec.ofNat 2 level.toNat = level.setWidth 2 := by simp
  unfold State.sesOpen openFrame
  dsimp only [List.headD_cons]
  rw [hlock]
  dsimp only
  rw [if_neg (by simp [length_leBytes]; omega), hclosed, if_neg Bool.false_ne_true, hkey, if_neg (by decide), List.drop_succ_cons, List.drop_zero, hnh, hlev]

/-- The session of a transport that AUTH with the right code opens (R418). -/
def Session.opened (x : Session) (k : BitVec 256) (level : BitVec 2) (nh nd : BitVec 128) (now : Nat) : Session :=
  { x with isOpen := true, level := level, chal := none, ks := sessionKey k nd nh, lastSeq := 0, lastReply := [], lastAt := now,
           fails := 0, lockPeriod := 64 }

theorem sesAuth_eq {s : State} {tr : Transport} {mac : BitVec 256} {level : BitVec 2} {nh nd : BitVec 128}
    (hchal : (s.ses.get tr).chal = some (level, nh, nd)) : s.sesAuth (authFrame tr mac) =
      if hmac (keyBytes ((s.levelKey level.toNat).getD 0)) (authBytes 0x31 nd nh level tr s.node) = leBytes 32 mac.toNat then
        (((s.setSession tr (fun x => x.opened ((s.levelKey level.toNat).getD 0) level nh nd s.fine)).count (startCtr 3)).raiseBare
          228 unitBoot).deliver tr (replyHead 0x02 0 0
            (hmac (keyBytes ((s.levelKey level.toNat).getD 0)) (authBytes 0x44 nd nh level tr s.node)))
      else (s.failedAuth tr).deliver tr (replyHead 0x02 2 0 []) := by
  unfold State.sesAuth authFrame
  dsimp only
  rw [hchal]
  dsimp only
  rw [if_neg (by simp [length_leBytes])]
  simp only [beq_iff_eq]
  rfl

/-- R419: a failed authentication is counted, and the fourth in a row locks the transport out. -/
theorem State.failedAuth_spec (s : State) (tr : Transport) :
    ((s.failedAuth tr).ses.get tr).isOpen = (s.ses.get tr).isOpen ∧ ((s.failedAuth tr).ses.get tr).chal = none ∧
      Raised (s.failedAuth tr) 230 ∧ (s.failedAuth tr).ses.waiting = s.ses.waiting ∧
      ((s.ses.get tr).fails < 3 → ((s.failedAuth tr).ses.get tr).fails = (s.ses.get tr).fails + 1) ∧
      (3 ≤ (s.ses.get tr).fails → ((s.failedAuth tr).ses.get tr).lockEnd = some (s.fine + (s.ses.get tr).lockPeriod * nsPerS) ∧
        Raised (s.failedAuth tr) 231) := by
  let failed : State := s.setSession tr (fun x => { x with chal := none, fails := x.fails + 1 })
  have hget : failed.ses.get tr = { s.ses.get tr with chal := none, fails := (s.ses.get tr).fails + 1 } := s.get_setSession tr _
  have hwaiting : ∀ (t : State) (f : Session → Session), (t.setSession tr f).ses.waiting = t.ses.waiting := fun t f => by
    cases tr <;> rfl
  have hwait : failed.ses.waiting = s.ses.waiting := hwaiting s _
  obtain ⟨m, hm, -⟩ := failed.count_eq (startCtr 4) 1
  let told : State := ({ failed with mon := m } : State).raiseBare 230 unitBoot
  have htold : Raised told 230 := State.raiseBare_pend _ 230 _ (by decide)
  by_cases hlast : (s.ses.get tr).fails + 1 < 4
  · have heq : s.failedAuth tr = told := by
      unfold State.failedAuth
      exact (if_pos hlast).trans (congrArg (fun t : State => t.raiseBare 230 unitBoot) hm)
    have hses : told.ses.get tr = failed.ses.get tr := rfl
    rw [heq, hses, hget]
    exact ⟨rfl, rfl, htold, hwait, fun _ => rfl, fun h => by omega⟩
  · let locked : State := told.setSession tr (fun x => { x with
      fails := 0, lockEnd := some (s.fine + x.lockPeriod * nsPerS), lockPeriod := min 4096 (2 * x.lockPeriod) })
    obtain ⟨m', hm', hmono⟩ := locked.count_eq (startCtr 5) 1
    have heq : s.failedAuth tr = ({ locked with mon := m' } : State).raiseBare 231 unitBoot := by
      unfold State.failedAuth
      refine (if_neg hlast).trans ?_
      rw [show (State.count (State.setSession s tr _) (startCtr 4)) = { failed with mon := m } from hm]
      exact congrArg (fun t : State => t.raiseBare 231 unitBoot) hm'
    have hlocked : Raised locked 230 := by
      have : locked.mon = told.mon := by cases tr <;> rfl
      unfold Raised
      rw [this]
      exact htold
    have hses : (({ locked with mon := m' } : State).raiseBare 231 unitBoot).ses.get tr = locked.ses.get tr := rfl
    have hlget := told.get_setSession tr (fun x => { x with
      fails := 0, lockEnd := some (s.fine + x.lockPeriod * nsPerS), lockPeriod := min 4096 (2 * x.lockPeriod) })
    have hlwait : locked.ses.waiting = told.ses.waiting := hwaiting told _
    rw [heq, hses, hlget, show told.ses.get tr = failed.ses.get tr from rfl, hget]
    exact ⟨rfl, rfl, State.report_pend_mono _ _ 230 (hmono 230 hlocked), hlwait.trans hwait, fun h => by omega,
      fun _ => ⟨rfl, State.raiseBare_pend _ 231 _ (by decide)⟩⟩

theorem State.setSession_waiting (s : State) (tr : Transport) (f : Session → Session) :
    (s.setSession tr f).ses.waiting = s.ses.waiting := by cases tr <;> rfl

theorem open_challenges {s : State} {tr : Transport} (hon : s.coreOn = true) (hfree : s.sesWorking = false) (hwait : s.ses.waiting = [])
    {level : Byte} {nh : BitVec 128} (hlock : (s.ses.get tr).lockEnd = none) (hclosed : (s.ses.get tr).isOpen = false)
    (hlevel : level.toNat ≤ 3) (hkey : s.levelOpen tr level.toNat = true) :
    Does (.sesOpen tr level nh) s (fun t => (t.ses.get tr).chal = some (level.setWidth 2, nh, Config.nonce s.freeCtr) ∧
      (t.ses.get tr).isOpen = false ∧ t.freeCtr = s.freeCtr + 1) := by
  have hframe : s.sesFrame (openFrame tr level nh) = s.sesOpen (openFrame tr level nh) := if_pos rfl
  have heq := hframe.trans (sesOpen_challenges hlock hclosed hlevel hkey)
  obtain ⟨hget, hrest⟩ := State.deliver_ses (s.drawn.setSession tr (fun x => { x with
    chal := some (level.setWidth 2, nh, Config.nonce s.freeCtr) })) tr (replyHead 0x01 0 0 (leBytes 16 (Config.nonce s.freeCtr).toNat))
  refine Does.of_exec (congrArg Host.Outcome.next ((opSession_eq (f := openFrame tr level nh) hon hfree hwait ?_).trans heq)) ⟨?_, ?_, ?_⟩
  · rw [heq, hrest, State.setSession_waiting]
    exact hwait
  · rw [hget, State.get_setSession]
  · rw [hget, State.get_setSession]
    exact hclosed
  · rw [State.deliver_frame]
    cases tr <;> rfl

theorem auth_opens {s : State} {tr : Transport} (hon : s.coreOn = true) (hfree : s.sesWorking = false) (hwait : s.ses.waiting = [])
    {mac : BitVec 256} {level : BitVec 2} {nh nd : BitVec 128} (hchal : (s.ses.get tr).chal = some (level, nh, nd))
    (hcode : hmac (keyBytes ((s.levelKey level.toNat).getD 0)) (authBytes 0x31 nd nh level tr s.node) = leBytes 32 mac.toNat) :
    Does (.sesAuth tr mac) s (fun t => (t.ses.get tr).isOpen = true ∧ (t.ses.get tr).level = level ∧
      (t.ses.get tr).ks = sessionKey ((s.levelKey level.toNat).getD 0) nd nh ∧ (t.ses.get tr).lastSeq = 0 ∧
      (t.ses.get tr).fails = 0 ∧ Raised t 228) := by
  let opened : State := s.setSession tr (fun x => x.opened ((s.levelKey level.toNat).getD 0) level nh nd s.fine)
  have hopened : opened.ses.get tr = (s.ses.get tr).opened ((s.levelKey level.toNat).getD 0) level nh nd s.fine := s.get_setSession tr _
  have hwaiting : opened.ses.waiting = s.ses.waiting := s.setSession_waiting tr _
  have hframe : s.sesFrame (authFrame tr mac) = s.sesAuth (authFrame tr mac) := rfl
  obtain ⟨m, hm, -⟩ := opened.count_eq (startCtr 3) 1
  let told : State := ({ opened with mon := m } : State).raiseBare 228 unitBoot
  have hall := (hframe.trans (sesAuth_eq hchal)).trans (if_pos hcode)
  rw [show State.count (State.setSession s tr _) (startCtr 3) = { opened with mon := m } from hm] at hall
  obtain ⟨hget, hrest⟩ := told.deliver_ses tr (replyHead 0x02 0 0
    (hmac (keyBytes ((s.levelKey level.toNat).getD 0)) (authBytes 0x44 nd nh level tr s.node)))
  refine Does.of_exec (congrArg Host.Outcome.next ((opSession_eq (f := authFrame tr mac) hon hfree hwait ?_).trans hall)) ?_
  · rw [hall, hrest]
    exact hwaiting.trans hwait
  · rw [hget, show told.ses.get tr = opened.ses.get tr from rfl, hopened]
    refine ⟨rfl, rfl, rfl, rfl, rfl, ?_⟩
    rw [State.deliver_frame]
    exact State.raiseBare_pend _ 228 _ (by decide)

theorem auth_fails {s : State} {tr : Transport} (hon : s.coreOn = true) (hfree : s.sesWorking = false) (hwait : s.ses.waiting = [])
    {mac : BitVec 256} {level : BitVec 2} {nh nd : BitVec 128} (hchal : (s.ses.get tr).chal = some (level, nh, nd))
    (hcode : hmac (keyBytes ((s.levelKey level.toNat).getD 0)) (authBytes 0x31 nd nh level tr s.node) ≠ leBytes 32 mac.toNat) :
    Does (.sesAuth tr mac) s (fun t => (t.ses.get tr).isOpen = (s.ses.get tr).isOpen ∧ (t.ses.get tr).chal = none ∧ Raised t 230 ∧
      ((s.ses.get tr).fails < 3 → (t.ses.get tr).fails = (s.ses.get tr).fails + 1) ∧
      (3 ≤ (s.ses.get tr).fails → (t.ses.get tr).lockEnd = some (s.fine + (s.ses.get tr).lockPeriod * nsPerS) ∧ Raised t 231)) := by
  have hframe : s.sesFrame (authFrame tr mac) = s.sesAuth (authFrame tr mac) := rfl
  have hall := (hframe.trans (sesAuth_eq hchal)).trans (if_neg hcode)
  obtain ⟨hopen, hnone, h230, hwaiting, hfew, hmany⟩ := s.failedAuth_spec tr
  obtain ⟨hget, hrest⟩ := (s.failedAuth tr).deliver_ses tr (replyHead 0x02 2 0 [])
  have hraised : ∀ ev, Raised (s.failedAuth tr) ev → Raised ((s.failedAuth tr).deliver tr (replyHead 0x02 2 0 [])) ev := fun ev hev => by
    rw [State.deliver_frame]
    exact hev
  refine Does.of_exec (congrArg Host.Outcome.next ((opSession_eq (f := authFrame tr mac) hon hfree hwait ?_).trans hall)) ?_
  · rw [hall, hrest, hwaiting, hwait]
  · rw [hget]
    exact ⟨hopen, hnone, hraised 230 h230, hfew, fun h => ⟨(hmany h).1, hraised 231 (hmany h).2⟩⟩

theorem lockout_ends {s : State} {tr : Transport} {e : Nat} (hlock : (s.ses.get tr).lockEnd = some e) (hlate : e ≤ s.fine) :
    Does (.lockoutExpiry tr) s (fun t => (t.ses.get tr).lockEnd = none ∧ t = { s with ses := t.ses }) := by
  have hop : opLockoutExpiry tr s = s.setSession tr (fun x => { x with lockEnd := none }) := by
    unfold opLockoutExpiry
    rw [hlock]
    exact if_pos hlate
  refine Does.of_exec (congrArg Host.Outcome.next hop) ⟨?_, rfl⟩
  rw [State.get_setSession]

theorem State.trWorking_of_free {s : State} (hfree : s.sesWorking = false) (tr : Transport) : s.trWorking tr = false := by
  unfold State.sesWorking at hfree
  obtain ⟨⟨hflash, hppr⟩, hmail⟩ := (by simpa using hfree : (s.flash.op = none ∧ s.ses.ppr = none) ∧ (s.mail 3).waiter = none)
  unfold State.trWorking
  rw [hflash, hppr, hmail]
  rfl

theorem idle_closes {s : State} {tr : Transport} (hfree : s.sesWorking = false) (hopen : (s.ses.get tr).isOpen = true)
    (hidle : (s.ses.get tr).lastAt + 60000000000 ≤ s.fine) : Does (.sessionIdleTimeout tr) s (fun t =>
      (t.ses.get tr).isOpen = false ∧ Raised t 229 ∧ t = { s with ses := t.ses, flash := t.flash, mon := t.mon }) := by
  have hop : opIdle tr s = s.closeSession tr := if_pos (by
    rw [hopen, State.trWorking_of_free hfree, decide_eq_true (show (s.ses.get tr).lastAt + 60 * nsPerS ≤ s.fine from hidle)]
    rfl)
  refine Does.of_exec (congrArg Host.Outcome.next hop) ?_
  unfold State.closeSession
  rw [if_pos hopen]
  refine ⟨?_, State.raiseBare_pend _ 229 _ (by decide), rfl⟩
  show ((s.setSession tr Session.closed).ses.get tr).isOpen = false
  rw [State.get_setSession]
  rfl

/-- Settles O47. -/
theorem sessionsOpen : Obligations.SessionsOpen := by
  intro s tr hon hfree hwait
  exact ⟨fun level nh => open_challenges hon hfree hwait, fun mac level nh nd hchal => ⟨auth_opens hon hfree hwait hchal,
    auth_fails hon hfree hwait hchal⟩, fun e => lockout_ends, idle_closes hfree⟩

/-! ### Commands that read -/

/-- R416, R420: an accepted command that fits is performed. -/
theorem sesFrame_of_accepted {s : State} {f : Frame} {opc : Byte} {payload : List Byte} (h : Accepted s f opc payload)
    (h1 : opc ≠ 1) (h2 : opc ≠ 2) (hlen : payload.length ≤ 256) (hmin : (minLevel (cmdFrame f opc payload)).isSome = true)
    (hfits : s.fits (cmdFrame f opc payload) = true) : s.sesFrame (cmdFrame f opc payload) = s.perform (cmdFrame f opc payload) := by
  obtain ⟨-, -, -, hopen, hmac, hseq, hlevel⟩ := h
  obtain ⟨l, hl⟩ := Option.isSome_iff_exists.mp hmin
  have hcommand : s.sesFrame (cmdFrame f opc payload) = s.sesCommand (cmdFrame f opc payload) := by
    unfold State.sesFrame
    exact (if_neg h1).trans (if_neg h2)
  have hne : f.seq ≠ (s.ses.get f.tr).lastSeq := by
    rw [hseq]
    exact fun he => absurd (congrArg (· - (s.ses.get f.tr).lastSeq) he) (by simp)
  rw [hcommand]
  unfold State.sesCommand
  dsimp only
  show (if (!(s.ses.get f.tr).isOpen) = true then _ else _) = _
  rw [if_neg (by rw [hopen]; decide), if_neg (by show ¬256 < payload.length; omega), if_neg (by
    show ¬((leBytes 16 f.mac.toNat != macOf (s.ses.get f.tr).ks _) = true)
    rw [hmac]; simp), if_neg (fun he => hne he.1),
    if_neg (show ¬(cmdFrame f opc payload).seq ≠ (s.ses.get (cmdFrame f opc payload).tr).lastSeq + 1 from not_not.mpr hseq), hl]
  dsimp only
  rw [if_neg (show ¬(s.ses.get (cmdFrame f opc payload).tr).level.toNat < l from Nat.not_lt.mpr (hlevel l (by rw [hl]; rfl))), hfits]
  rfl

theorem State.setSession_mon_count (s : State) (tr : Transport) (g : Session → Session) (c : Nat) :
    ((s.setSession tr g).count c).mon = (s.count c).mon := by
  unfold State.count
  cases tr <;> rfl

/-- A count that its counter has room for writes no entry. -/
theorem State.count_log_of_room {s : State} {c : Nat} (h : ctrVal (ctrGet s.mon c) < ctrMax) : (s.count c).mon.log = s.mon.log := by
  have hcount : s.mon.count c 1 = (s.mon.setCtr c (mkCtr (ctrVal (ctrGet s.mon c) + 1) (ctrOvf (ctrGet s.mon c))), []) := if_pos h
  show (Monitor.run s.monEnv 128 [.count c 1] s.mon).log = s.mon.log
  rw [Monitor.run, Monitor.occ, hcount]
  rfl

/-- R421: a performed command's reply stands in its session, and is sent. -/
theorem State.done_replied {s t : State} {f : Frame} (hses : t.ses = s.ses) (hfine : t.fine = s.fine)
    (hopen : (s.ses.get f.tr).isOpen = true) (opc : Byte) (payload reply : List Byte) :
    Replied s (t.done (cmdFrame f opc payload) reply) f opc reply ∧
      (t.done (cmdFrame f opc payload) reply).ses.waiting = s.ses.waiting ∧
      (t.done (cmdFrame f opc payload) reply).mon = (t.count (startCtr 6)).mon ∧
      (t.done (cmdFrame f opc payload) reply).cal = t.cal ∧ (t.done (cmdFrame f opc payload) reply).flash = t.flash := by
  let mac := replyMac (t.ses.get f.tr).ks opc 0 f.seq reply
  let stored : State := t.setSession f.tr (fun x => { x with lastSeq := f.seq, lastReply := mac, lastAt := t.fine })
  have hdone : t.done (cmdFrame f opc payload) reply = (stored.count (startCtr 6)).deliver f.tr mac := if_pos (hses ▸ hopen)
  have hmon : (stored.count (startCtr 6)).mon = (t.count (startCtr 6)).mon := t.setSession_mon_count f.tr _ _
  have hwaiting : stored.ses.waiting = t.ses.waiting := t.setSession_waiting f.tr _
  have hget : stored.ses.get f.tr = { t.ses.get f.tr with lastSeq := f.seq, lastReply := mac, lastAt := t.fine } :=
    t.get_setSession f.tr _
  obtain ⟨m, hm, -⟩ := stored.count_eq (startCtr 6) 1
  obtain ⟨hsame, hrest⟩ := (stored.count (startCtr 6)).deliver_ses f.tr mac
  rw [hdone]
  refine ⟨?_, ?_, ?_, ?_, ?_⟩
  · unfold Replied
    rw [hsame, State.count_ses, hget, ← hses]
    exact ⟨rfl, rfl, hfine⟩
  · rw [hrest, State.count_ses, hwaiting, hses]
  · rw [State.deliver_frame]
    exact hmon
  · rw [State.deliver_frame]
    exact (State.count_cal stored _ _).trans (by unfold stored; cases f.tr <;> rfl)
  · rw [State.deliver_frame]
    exact (State.count_flash stored _ _).trans (by unfold stored; cases f.tr <;> rfl)

/-- R416, R421: an accepted command whose performing is a reply. -/
theorem opSession_replies {s t : State} {f : Frame} {opc : Byte} {payload reply : List Byte} (h : Accepted s f opc payload)
    (h1 : opc ≠ 1) (h2 : opc ≠ 2) (hlen : payload.length ≤ 256) (hmin : (minLevel (cmdFrame f opc payload)).isSome = true)
    (hfits : s.fits (cmdFrame f opc payload) = true) (hses : t.ses = s.ses) (hfine : t.fine = s.fine)
    (hperform : s.perform (cmdFrame f opc payload) = t.done (cmdFrame f opc payload) reply) :
    opSession (cmdFrame f opc payload) s = t.done (cmdFrame f opc payload) reply ∧
      Replied s (opSession (cmdFrame f opc payload) s) f opc reply ∧
      (opSession (cmdFrame f opc payload) s).mon = (t.count (startCtr 6)).mon ∧
      (opSession (cmdFrame f opc payload) s).cal = t.cal ∧ (opSession (cmdFrame f opc payload) s).flash = t.flash := by
  obtain ⟨hon, hfree, hwait, hopen, -⟩ := id h
  obtain ⟨hreplied, hwaiting, hmon, hcal, hflash⟩ := State.done_replied hses hfine hopen opc payload reply
  have hframe := (sesFrame_of_accepted h h1 h2 hlen hmin hfits).trans hperform
  have hop := (opSession_eq hon hfree hwait (by rw [hframe, hwaiting, hwait])).trans hframe
  rw [hop]
  exact ⟨rfl, hreplied, hmon, hcal, hflash⟩

/-! ### CSR_RD, LOG_RD, CAL_GET, IMG_READ -/

/-- Reads of registers that stand change nothing and are not refused. -/
theorem csrReads_good (s : State) (o : Nat) (u : CsrUser) : ∀ (is : List Nat) (l : List Byte),
    (∀ i ∈ is, (o + 4 * i) % 4 = 0 ∧ csrBlock (o + 4 * i) ≠ none) →
    is.foldl (fun (a : Bool × List Byte × State) i =>
      let r := a.2.2.csrReadAccess u (csrAddr s.node (o + 4 * i)) (o + 4 * i) 2
      (a.1 && r.1 == 0, a.2.1 ++ leBytes 4 (r.2.2.csrRead (o + 4 * i)).toNat, r.2.2)) (true, l, s) =
      (true, l ++ is.flatMap (fun i => leBytes 4 (s.csrRead (o + 4 * i)).toNat), s)
  | [], l, _ => by simp
  | i :: is, l, h => by
    obtain ⟨halign, hblock⟩ := h i List.mem_cons_self
    have hread : s.csrReadAccess u (csrAddr s.node (o + 4 * i)) (o + 4 * i) 2 = (0, s.csrLine (o + 4 * i) (2 ^ 2), s) := by
      unfold State.csrReadAccess
      rw [if_neg (by simp [aligned, halign]), if_neg (by simpa using hblock)]
    rw [List.foldl_cons]
    dsimp only
    rw [hread]
    dsimp only
    rw [show (true && (0 : Nat) == 0) = true from rfl, csrReads_good s o u is _ fun j hj => h j (List.mem_cons_of_mem _ hj),
      List.flatMap_cons, List.append_assoc]

/-! What fits each of the commands (R422). -/

theorem State.fits_csrRd (s : State) (f : Frame) (l : List Byte) : s.fits (cmdFrame f 0x10 l) = (l.length == l.length &&
    (l.length == 5 && decide (1 ≤ leField (cmdFrame f 0x10 l) 4 1) && decide (leField (cmdFrame f 0x10 l) 4 1 ≤ 16))) := rfl

theorem State.fits_logRd (s : State) (f : Frame) (l : List Byte) : s.fits (cmdFrame f 0x13 l) = (l.length == l.length &&
    (l.length == 1 && decide (1 ≤ leField (cmdFrame f 0x13 l) 0 1) && decide (leField (cmdFrame f 0x13 l) 0 1 ≤ 8))) := rfl

theorem State.fits_imgRead (s : State) (f : Frame) (l : List Byte) : s.fits (cmdFrame f 0x32 l) = (l.length == l.length &&
    (l.length == 6 && decide (leField (cmdFrame f 0x32 l) 0 1 < 2) && decide (1 ≤ leField (cmdFrame f 0x32 l) 5 1) &&
      decide (leField (cmdFrame f 0x32 l) 5 1 ≤ 240) &&
      decide (leField (cmdFrame f 0x32 l) 1 4 + leField (cmdFrame f 0x32 l) 5 1 ≤ slotSize))) := rfl

theorem csrRd_replies {s : State} {f : Frame} {o : Word} {n : Byte} (h1 : 1 ≤ n.toNat) (h16 : n.toNat ≤ 16)
    (hoffs : ∀ i < n.toNat, (o.toNat + 4 * i) % 4 = 0 ∧ csrBlock (o.toNat + 4 * i) ≠ none)
    (h : Accepted s f 0x10 (leBytes 4 o.toNat ++ [n])) : Does (.csrRd f o n) s (fun t => Replied s t f 0x10
      ((List.range n.toNat).flatMap (fun i => leBytes 4 (s.csrRead (o.toNat + 4 * i)).toNat))) := by
  have hoff : leField (cmdFrame f 0x10 (leBytes 4 o.toNat ++ [n])) 0 4 = o.toNat := by
    have := leAt_leBytes [] [n] 4 o.toNat
    exact this.trans (Nat.mod_eq_of_lt o.isLt)
  have hcount : leField (cmdFrame f 0x10 (leBytes 4 o.toNat ++ [n])) 4 1 = n.toNat := leAt_byte (leBytes 4 o.toNat) [] n
  have hfits : s.fits (cmdFrame f 0x10 (leBytes 4 o.toNat ++ [n])) = true := by
    rw [State.fits_csrRd, hcount]
    simp [length_leBytes, h1, h16]
  have hperform : s.perform (cmdFrame f 0x10 (leBytes 4 o.toNat ++ [n])) = s.done (cmdFrame f 0x10 (leBytes 4 o.toNat ++ [n]))
      ((List.range n.toNat).flatMap (fun i => leBytes 4 (s.csrRead (o.toNat + 4 * i)).toNat)) := by
    show s.cmdCsrRd _ = _
    have hreads := csrReads_good s o.toNat (sesUser s) (List.range n.toNat) [] fun i hi => hoffs i (List.mem_range.mp hi)
    unfold State.cmdCsrRd
    rw [hoff, hcount]
    dsimp only at hreads ⊢
    rw [hreads, if_pos rfl, List.nil_append]
  exact Does.of_exec rfl (opSession_replies h (by decide) (by decide) (by simp [length_leBytes]) rfl hfits rfl rfl hperform).2.1

/-- Reading the log moves its cursor. -/
theorem readLogs_frame (n : Nat) (l : List Byte) (s : State) : (State.readLogs n l s).2.ses = s.ses ∧
    (State.readLogs n l s).2.fine = s.fine ∧ (State.readLogs n l s).2.mon.ctr = s.mon.ctr := by
  induction n generalizing l s with
  | zero => exact ⟨rfl, rfl, rfl⟩
  | succ n ih =>
    have hone : s.readLog.2.ses = s.ses ∧ s.readLog.2.fine = s.fine ∧ s.readLog.2.mon.ctr = s.mon.ctr := by
      unfold State.readLog
      dsimp only
      split <;> exact ⟨rfl, rfl, rfl⟩
    unfold State.readLogs
    split
    · next e s1 he =>
      rw [he] at hone
      obtain ⟨hses, hfine, hctr⟩ := ih (l ++ e.words.flatMap (fun w => leBytes 4 w.toNat)) s1
      exact ⟨hses.trans hone.1, hfine.trans hone.2.1, hctr.trans hone.2.2⟩
    · next s1 he =>
      rw [he] at hone
      exact hone

theorem logRd_replies {s : State} {f : Frame} {n : Byte} (h1 : 1 ≤ n.toNat) (h8 : n.toNat ≤ 8)
    (hroom : ctrVal (ctrGet s.mon (startCtr 6)) < ctrMax) (h : Accepted s f 0x13 [n]) : Does (.logRd f n) s (fun t =>
      Replied s t f 0x13 (State.readLogs n.toNat [] s).1 ∧ t.mon.log.rseq = (State.readLogs n.toNat [] s).2.mon.log.rseq) := by
  obtain ⟨hses, hfine, hctr⟩ := readLogs_frame n.toNat [] s
  have hcount : leField (cmdFrame f 0x13 [n]) 0 1 = n.toNat := leAt_byte [] [] n
  have hfits : s.fits (cmdFrame f 0x13 [n]) = true := by
    rw [State.fits_logRd, hcount]
    simp [h1, h8]
  have hperform : s.perform (cmdFrame f 0x13 [n]) =
      (State.readLogs n.toNat [] s).2.done (cmdFrame f 0x13 [n]) (State.readLogs n.toNat [] s).1 := by
    show s.cmdLogRd _ = _
    unfold State.cmdLogRd
    rw [hcount]
  obtain ⟨-, hreplied, hmon, -⟩ := opSession_replies h (by decide) (by decide) (by simp) rfl hfits hses hfine hperform
  refine Does.of_exec rfl ⟨hreplied, ?_⟩
  have hlog := State.count_log_of_room (s := (State.readLogs n.toNat [] s).2) (c := startCtr 6) (by
    unfold ctrGet at hroom ⊢
    rwa [hctr])
  exact congrArg TroubleLog.rseq ((congrArg Monitor.log hmon).trans hlog)

theorem calGet_replies {s : State} {f : Frame} (h : Accepted s f 0x14 []) : Does (.calGet f) s (fun t =>
    Replied s t f 0x14 (leBytes 8 (timeWord s.cal.sec s.cal.ns).toNat) ∧ t.cal = s.cal) := by
  obtain ⟨-, hreplied, -, hcal, -⟩ := opSession_replies (t := s) h (by decide) (by decide) (by simp) rfl rfl rfl rfl rfl
  exact Does.of_exec rfl ⟨hreplied, hcal⟩

theorem imgRead_replies {s : State} {f : Frame} {slot : Byte} {o : Word} {n : Byte} (hslot : slot.toNat < 2) (h1 : 1 ≤ n.toNat)
    (h240 : n.toNat ≤ 240) (hend : o.toNat + n.toNat ≤ slotSize) (h : Accepted s f 0x32 (slot :: leBytes 4 o.toNat ++ [n])) :
    Does (.imgRead f slot o n) s (fun t => Replied s t f 0x32
      ((List.range n.toNat).map (fun i => s.flash.byte (slotBase (slotOf slot.toNat) + o.toNat + i))) ∧ t.flash = s.flash) := by
  have hx0 : leField (cmdFrame f 0x32 (slot :: leBytes 4 o.toNat ++ [n])) 0 1 = slot.toNat := leAt_byte [] (leBytes 4 o.toNat ++ [n]) slot
  have hx1 : leField (cmdFrame f 0x32 (slot :: leBytes 4 o.toNat ++ [n])) 1 4 = o.toNat := (leAt_leBytes [slot] [n] 4 o.toNat).trans (Nat.mod_eq_of_lt o.isLt)
  have hx5 : leField (cmdFrame f 0x32 (slot :: leBytes 4 o.toNat ++ [n])) 5 1 = n.toNat := leAt_byte (slot :: leBytes 4 o.toNat) [] n
  have hfits : s.fits (cmdFrame f 0x32 (slot :: leBytes 4 o.toNat ++ [n])) = true := by
    rw [State.fits_imgRead, hx0, hx1, hx5]
    simp [length_leBytes, hslot, h1, h240, hend]
  have hperform : s.perform (cmdFrame f 0x32 (slot :: leBytes 4 o.toNat ++ [n])) = s.done (cmdFrame f 0x32 (slot :: leBytes 4 o.toNat ++ [n]))
      ((List.range n.toNat).map (fun i => s.flash.byte (slotBase (slotOf slot.toNat) + o.toNat + i))) := by
    show s.cmdImgRead _ = _
    unfold State.cmdImgRead
    rw [hx0, hx1, hx5]
  obtain ⟨-, hreplied, -, -, hflash⟩ := opSession_replies h (by decide) (by decide) (by simp [length_leBytes]) rfl hfits rfl rfl hperform
  exact Does.of_exec rfl ⟨hreplied, hflash⟩

/-- Settles O48. -/
theorem sessionReads : Obligations.SessionReads := fun _ _ =>
  ⟨fun _ _ => csrRd_replies, fun _ => logRd_replies, calGet_replies, fun _ _ _ => imgRead_replies⟩

end Sys2Proof.Machine
end

section
/-! PROOFS. Writes of registers with no command of their own (R374, R376, R377). -/

namespace Sys2Proof.Machine

theorem State.runSes_of_none {s : State} (h : s.ses.waiting = []) : s.runSes = s := by
  unfold State.runSes
  rw [h]
  show State.pumpSes (1 + 1) s = s
  unfold State.pumpSes
  rw [h]
  split <;> rfl

/-- Only registers of the global block take less than every value of their fields. -/
theorem clampReg_of_block {off : Nat} (h : ∀ r, csrBlock off ≠ some (.global, 0, r)) (v : Word) : clampReg off v = v := by
  have hne : ∀ o, csrBlock o = some (.global, 0, o) → off ≠ o := fun o ho he => h o (by rw [he, ho])
  unfold clampReg
  rw [if_neg (hne Reg.GLB_PRM_CFG rfl), if_neg (hne Reg.GLB_SWATH_CFG rfl), if_neg (hne Reg.GLB_PRM_FLOOR rfl)]

/-- R374: RW bits take the value, and W1C bits written 1 are cleared. -/
theorem State.plain_eq {s : State} (h : Inv.registers s) {off : Nat} {row : RegRow} (hrow : regRow off = some row) {v : Word}
    (hclamp : clampReg off v = v) : s.plain off v =
      (s.wr off ((s.rg off &&& ~~~row.rw) ||| (v &&& row.rw))).wr off
        (((s.rg off &&& ~~~row.rw) ||| (v &&& row.rw)) &&& ~~~(v &&& row.w1c)) := by
  unfold State.plain State.w1c
  rw [hclamp, hrow]
  dsimp only
  rw [State.wrRw_eq s hrow, State.rg_wr_same h]

/-- A register of a slice, way enables apart, or of a memory port. -/
abbrev PlainOffset (off : Nat) : Prop :=
  ∃ i r, csrBlock off = some (.slice, i, r) ∧ r ≠ 0x48 ∨ csrBlock off = some (.memory, i, r)

theorem PlainOffset.not_global {off : Nat} (h : PlainOffset off) : ∀ r, csrBlock off ≠ some (.global, 0, r) := by
  obtain ⟨i, r, ⟨hb, -⟩ | hb⟩ := h <;> intro r' he <;> simp [hb] at he

theorem PlainOffset.isSome {off : Nat} (h : PlainOffset off) : (csrBlock off).isNone = false := by
  obtain ⟨i, r, ⟨hb, -⟩ | hb⟩ := h <;> rw [hb] <;> rfl

theorem State.csrWriteRun_plain (s : State) {off : Nat} (h : PlainOffset off) (v : Word) : s.csrWriteRun off v = s.plain off v := by
  obtain ⟨i, r, ⟨hb, hr⟩ | hb⟩ := h
  · unfold State.csrWriteRun
    rw [hb]
    split <;> simp_all
  · unfold State.csrWriteRun
    rw [hb]

/-- R374: a write of a register with no command of its own changes that register and no other. -/
theorem csrWrite_plain {s : State} {o : BitVec 26} {v : Word} {row : RegRow} (h : Inv.registers s) (hserve : Serving s)
    (hwait : s.ses.waiting = []) (halign : o.toNat % 4 = 0) (hplain : PlainOffset o.toNat) (hrow : regRow o.toNat = some row) :
    Does (.csrWrite o v) s (fun t =>
      t.rg o.toNat = ((s.rg o.toNat &&& ~~~row.rw) ||| (v &&& row.rw)) &&& ~~~(v &&& row.w1c) ∧
      t = { s with regs := t.regs } ∧ ∀ p, p ≠ o.toNat → t.rg p = s.rg p) := by
  obtain ⟨hcore, hsafe⟩ := hserve
  have hwrite : s.csrWrite o.toNat v = s.plain o.toNat v := (if_neg (by rw [hsafe]; decide)).trans (s.csrWriteRun_plain hplain v)
  have heq := State.plain_eq h hrow (clampReg_of_block hplain.not_global v)
  have hop : opCsrWrite o v s = s.plain o.toNat v := by
    unfold opCsrWrite
    dsimp only
    rw [if_neg (by rw [hcore]; decide), if_neg (not_not.mpr halign), if_neg (by rw [hplain.isSome]; decide), hwrite]
    exact State.runSes_of_none (by rw [heq]; exact hwait)
  refine Does.of_exec (congrArg Host.Outcome.next (hop.trans heq)) ⟨State.rg_wr_same (State.wr_regs_wf h _ _) _ _, rfl, fun p hp => ?_⟩
  rw [State.rg_wr_other (State.wr_regs_wf h _ _) _ hp.symm, State.rg_wr_other h _ hp.symm]

/-- Settles O43. -/
theorem csrWriteByFieldType : Obligations.CsrWriteByFieldType := by
  refine ⟨fun s o v row hinv => csrWrite_plain hinv.2.1, fun s o v hcore => ⟨fun halign => ?_, fun halign hblock => ?_⟩⟩
  · have hop : opCsrWrite o v s = s.raiseLog 1 unitRegs (CsrUser.detail { who := reqNone, node := s.node } (csrAddr s.node o.toNat)) := by
      unfold opCsrWrite
      dsimp only
      rw [if_neg (by rw [hcore]; decide), if_pos halign]
    exact Does.of_exec (congrArg Host.Outcome.next hop) ⟨State.raiseLog_pend _ 1 _ _ (by decide), rfl⟩
  · have hop : opCsrWrite o v s = s.csrOutside { who := reqNone, node := s.node } (csrAddr s.node o.toNat) := by
      unfold opCsrWrite
      dsimp only
      rw [if_neg (by rw [hcore]; decide), if_neg (not_not.mpr halign), if_pos (by rw [hblock]; rfl)]
    exact Does.of_exec (congrArg Host.Outcome.next hop) ⟨State.raiseLog_pend _ 2 _ _ (by decide), rfl⟩

end Sys2Proof.Machine
end

section
/-! PROOFS. The promise unit: readings and credits (R56, R67), breaches (R78 to R80), the end of a fallback (R81), ceilings (R60) and the
switch of modes (R82 to R88). -/

namespace Sys2Proof.Machine

/-! ### Readings -/

theorem State.checkHold_prm (s : State) (was : Bool) :
    ∃ n, s.checkHold was = { s with prm := { s.prm with breachFree := n } } := by
  unfold State.checkHold
  split
  · exact ⟨s.fine, rfl⟩
  · exact ⟨s.prm.breachFree, rfl⟩

theorem paceReading_enters {s : State} (r : PaceSample) (hon : s.coreOn = true) (hst : s.pwr.st ≠ .rest) :
    Does (.paceReading r) s (fun t =>
      (∀ i : Fin 36, (t.prm.mons.get i).now = paceNow r i.val ∧
        (t.prm.mons.get i).hist = (paceNow r i.val :: (s.prm.mons.get i).hist).take 16) ∧
      t.prm.chanLoad = r.chanLoad ∧ t.prm.memLoad = r.memLoad ∧ t.prm.inFlight = s.prm.inFlight ∧ t = { s with prm := t.prm }) := by
  refine Does.of_exec (t := opPace r s) rfl ?_
  unfold opPace
  rw [if_neg (by simp [hon, hst])]
  extract_lets margin judge found fresh
  obtain ⟨n, hn⟩ := State.checkHold_prm ({ s with prm := { s.prm with
        mons := Vector.ofFn (fun (i : Fin 36) => (s.prm.mons.get i).read (paceNow r i))
        margins := (s.marginNow :: s.prm.margins).take 32
        chanLoad := r.chanLoad
        memLoad := r.memLoad
        marginIn := found.map (fun x => x.1)
        judged := s.prm.judged ++ fresh } } : State) s.troubled
  rw [hn]
  refine ⟨fun i => ?_, rfl, rfl, rfl, rfl⟩
  dsimp only
  rw [Vector.get_ofFn]
  exact ⟨rfl, rfl⟩

/-! ### The release of credits -/

/-- R56: a credit given to an agent, in a CRD slot. -/
def State.grantAgent (s : State) (p : Port) (cls : BitVec 2) (ch : ChanNo) : State :=
  ((s.addCredit p (s.newCredit .agent cls ch)).count (prmCtr p 0)).sendCtl (.port p) (.crd cls (BitVec.ofNat 3 ch.val))

theorem State.grantAgent_spec {s : State} {p : Port} (h : Clear s (.port p)) (cls : BitVec 2) (ch : ChanNo) :
    ((s.grantAgent p cls ch).port p).credits = (s.port p).credits ++ [s.newCredit .agent cls ch] ∧
      (s.grantAgent p cls ch).sent = s.sent ++ [.ctl (.port p) (.crd cls (BitVec.ofNat 3 ch.val))] ∧
      s.grantAgent p cls ch = { s with
        ports := (s.grantAgent p cls ch).ports
        mon := (s.grantAgent p cls ch).mon
        sent := (s.grantAgent p cls ch).sent } := by
  let c := s.newCredit .agent cls ch
  obtain ⟨m, hm, -⟩ := (s.addCredit p c).count_eq (prmCtr p 0) 1
  have hport : (s.addCredit p c).port p = { s.port p with credits := (s.port p).credits ++ [c] } := s.port_setPort p _
  have hclear : Clear ({ s.addCredit p c with mon := m } : State) (.port p) := clear_congr h rfl (by
    show ((s.addCredit p c).port p).link = (s.port p).link
    rw [hport])
  obtain ⟨y, m', hsend, -⟩ := State.sendCtl_of_clear hclear (.crd cls (BitVec.ofNat 3 ch.val))
  have hgrant : s.grantAgent p cls ch = ({ s.addCredit p c with mon := m } : State).passed (.port p) y m'
      (.ctl (.port p) (.crd cls (BitVec.ofNat 3 ch.val))) := by
    unfold State.grantAgent
    rw [hm, hsend]
  rw [hgrant]
  refine ⟨?_, rfl, rfl⟩
  have := ({ s.addCredit p c with mon := m' } : State).port_setPort p (fun x => { x with link := y })
  refine (congrArg PortSt.credits this).trans (congrArg PortSt.credits hport)

theorem releaseAgent_P2 {s : State} {p : Port} {ch : ChanNo} (hrel : s.releasing = true) (hacc : s.accepts p = true)
    (hactive : s.portActive p = true) (htag : s.tagFree p = true) (hcaching : s.caching p = true)
    (hroom : ((s.port p).credits.filter (fun c => c.kind == .agent && c.cls == (2 : BitVec 2))).length < s.rf (F.AGP_CRD_CFG.P2_MAX p)) :
    s.releaseAgent p 2 ch = s.grantAgent p 2 ch := by
  unfold State.releaseAgent
  rw [if_neg (by simp [hrel, hacc, hactive, htag])]
  dsimp only
  rw [if_pos (by rfl), hcaching, if_pos (by simpa using hroom)]
  rfl

theorem releaseAgent_bounded {s : State} {p : Port} {cls : BitVec 2} {ch : ChanNo} (hrel : s.releasing = true)
    (hacc : s.accepts p = true) (hactive : s.portActive p = true) (htag : s.tagFree p = true) (hcaching : s.caching p = true)
    (hcls : cls.toNat < 2) (hch : s.channels.contains ch = true)
    (hroom : (((s.port p).credits.filter (fun c => c.kind == .agent && c.cls == cls)).filter (fun c => c.ch.toNat == ch.val)).length <
      (if cls = 0 then s.rf (F.AGP_CRD_CFG.P0_PER_CH p) else s.rf (F.AGP_CRD_CFG.P1_PER_CH p)))
    (hok : s.creditOk (dieOfPort p) cls.toNat [ch] = true) : s.releaseAgent p cls ch = s.grantAgent p cls ch := by
  unfold State.releaseAgent
  rw [if_neg (by simp [hrel, hacc, hactive, htag])]
  dsimp only
  rw [if_neg (by omega), if_neg (by omega), hcaching, if_neg (by simp only [hch]; simpa using hroom)]
  rw [if_pos (by simpa [State.coverage] using hok)]
  rfl

/-- Settles O30. -/
theorem paceAndCredits : Obligations.PaceAndCredits := by
  refine ⟨fun s r => paceReading_enters r, fun s p cls ch hrel hacc hclear hactive htag hcaching hcls => ?_⟩
  intro mine here granted
  refine ⟨?_, ?_, ?_⟩
  · rintro rfl hroom
    exact Does.of_exec (congrArg Host.Outcome.next (releaseAgent_P2 hrel hacc hactive htag hcaching hroom)) (State.grantAgent_spec hclear 2 ch)
  · rintro rfl hch hroom hok
    exact Does.of_exec (congrArg Host.Outcome.next (releaseAgent_bounded hrel hacc hactive htag hcaching (by decide) hch hroom hok))
      (State.grantAgent_spec hclear 0 ch)
  · rintro rfl hch hroom hok
    exact Does.of_exec (congrArg Host.Outcome.next (releaseAgent_bounded hrel hacc hactive htag hcaching (by decide) hch hroom hok))
      (State.grantAgent_spec hclear 1 ch)

/-! ### Breaches -/

theorem State.setVmon_prm (s : State) (d : Fin 2) (mv : Nat) :
    s.setVmon d mv = { s with prm := (s.setVmon d mv).prm } ∧ (s.setVmon d mv).prm.vmon.get d = mv := by
  unfold State.setVmon
  obtain ⟨n, hn⟩ := State.checkHold_prm (({ s with prm := { s.prm with vmon := vset s.prm.vmon d mv } } : State).floorsReached) s.troubled
  rw [hn]
  refine ⟨rfl, ?_⟩
  show (vset s.prm.vmon d mv).get d = mv
  rw [vget_vset, if_pos rfl]

/-- R80: in fallback no released credit promises anything. -/
def Fallen (s t : State) : Prop :=
  t.fallback = true ∧ (∀ q : Port, ∀ c ∈ (t.port q).credits, c.promise = false) ∧
    t = { s with regs := t.regs, ports := t.ports, prm := t.prm, mon := t.mon }

/-- A port whose released credits promise nothing. -/
def PortSt.unpromised (x : PortSt) : PortSt := { x with credits := x.credits.map (fun c => { c with promise := false }) }

theorem State.enterFallback_spec {s : State} (h : Inv.registers s) : Fallen s s.enterFallback ∧ Inv.registers s.enterFallback := by
  have hport : ∀ (t : State) (q : Port), ∀ c ∈ ((t.ports.map PortSt.unpromised).get q).credits, c.promise = false := fun t q c hc => by
    simp only [PortSt.unpromised, Vector.get_eq_getElem, Vector.getElem_map, List.mem_map] at hc
    obtain ⟨c', -, rfl⟩ := hc
    rfl
  unfold State.enterFallback
  dsimp only
  split
  · next hon => exact ⟨⟨hon, hport s, rfl⟩, h⟩
  · exact ⟨⟨State.rb_wb_same h F.GLB_PRM_MODE.FALLBACK true (by decide) rfl, hport s, rfl⟩, State.wb_regs_wf h _ _⟩

/-- Table 2.8: a breach enters fallback, is shown and is reported. -/
theorem State.breach_spec {s : State} (h : Inv.registers s) {kind ev unit dom reading limit : Nat} (hbit : breachBit kind dom < 32)
    (hev : evReserved ev = false) : Fallen s (s.breach kind ev unit dom reading limit) ∧
      fld ((s.breach kind ev unit dom reading limit).rg Reg.GLB_PRM_STAT) (breachBit kind dom) 1 = 1 ∧
      Raised (s.breach kind ev unit dom reading limit) ev ∧
      (s.breach kind ev unit dom reading limit).prm.vmon = s.prm.vmon := by
  obtain ⟨⟨hfall, hcredits, hframe⟩, hreg⟩ := State.enterFallback_spec h
  have hvmon : s.enterFallback.prm.vmon = s.prm.vmon := by
    unfold State.enterFallback
    dsimp only
    split <;> rfl
  refine ⟨⟨?_, hcredits, ?_⟩, ?_, State.raiseLog_pend _ ev _ _ hev, hvmon⟩
  · have hmode : (s.breach kind ev unit dom reading limit).rg Reg.GLB_PRM_MODE = s.enterFallback.rg Reg.GLB_PRM_MODE :=
      State.rg_wr_other hreg _ (by decide)
    unfold State.fallback at hfall ⊢
    rw [State.rb_eq_getLsbD _ _ rfl] at hfall ⊢
    exact (congrArg (BitVec.getLsbD · 5) hmode).trans hfall
  · obtain ⟨r, ps, pr, m, he⟩ : ∃ r ps pr m, s.enterFallback = { s with regs := r, ports := ps, prm := pr, mon := m } :=
      ⟨_, _, _, _, hframe⟩
    unfold State.breach
    rw [he]
    rfl
  · have hstat : (s.breach kind ev unit dom reading limit).rg Reg.GLB_PRM_STAT =
        setFld (s.enterFallback.rg Reg.GLB_PRM_STAT) (breachBit kind dom) 1 1 := State.rg_wr_same hreg _ _
    rw [hstat, fld_setFld _ _ _ _ (by omega)]
    rfl

theorem floorBreach_falls {s : State} (h : Inv.registers s) {d : Fin 2} {mv : Nat} (hlow : mv < 5 * (s.setVmon d mv).floorInFlight) :
    Does (.breachDetected (.floor d mv)) s (fun t => Fallen s t ∧ t.prm.vmon.get d = mv ∧
      fld (t.rg Reg.GLB_PRM_STAT) d.val 1 = 1 ∧ Raised t (32 + d.val)) := by
  obtain ⟨hframe, hvmon⟩ := s.setVmon_prm d mv
  have hreg : Inv.registers (s.setVmon d mv) := by
    rw [hframe]
    exact h
  have hbit : breachBit 0 (32 + d.val) = d.val := Nat.add_sub_cancel_left 32 d.val
  obtain ⟨⟨hfall, hcredits, hrest⟩, hstat, hraised, hkept⟩ := State.breach_spec hreg (kind := 0) (ev := 32 + d.val) (unit := unitHub d)
    (dom := 32 + d.val) (reading := mv) (limit := 5 * (s.setVmon d mv).floorInFlight) (by omega) (by match d with | 0 => rfl | 1 => rfl)
  rw [hbit] at hstat
  refine Does.of_exec (congrArg Host.Outcome.next (if_pos hlow)) ⟨⟨hfall, hcredits, ?_⟩, by rw [hkept]; exact hvmon, hstat, hraised⟩
  rw [hrest, hframe]

theorem overrun_falls {s : State} (h : Inv.registers s) {p : Port} {tag : Tag} {q : Promise}
    (hdue : s.prm.inFlight.find? (fun q => q.id == .agent p tag && q.due s.fine) = some q) :
    Does (.promiseDeadline (.agent p tag)) s (fun t => Fallen s t ∧
      fld (t.rg Reg.GLB_PRM_STAT) (if q.remote then 4 else 3) 1 = 1 ∧
      Raised t (if q.remote then 37 else if q.p1 then 36 else 35)) := by
  let late := modFirst (fun (x : Promise) => x.id == .agent p tag) (fun (x : Promise) => { x with overrun := true }) s.prm.inFlight
  let marked : State := { s with prm := { s.prm with inFlight := late } }
  obtain ⟨m, hm, -⟩ := marked.count_eq (prmCtr p 4) 1
  have hop : opDeadline (.agent p tag) s = ({ marked with mon := m } : State).breach (if q.remote then 3 else 2)
      (if q.remote then 37 else if q.p1 then 36 else 35) (unitPort p) (44 + p.val) (s.fine % 65536) (q.deadline.getD 0).toNat := by
    unfold opDeadline
    rw [hdue]
    exact congrArg (fun t : State => t.breach _ _ _ _ _ _) hm
  obtain ⟨⟨hfall, hcredits, hrest⟩, hstat, hraised, -⟩ := State.breach_spec (s := { marked with mon := m }) h
    (kind := if q.remote then 3 else 2) (ev := if q.remote then 37 else if q.p1 then 36 else 35) (unit := unitPort p)
    (dom := 44 + p.val) (reading := s.fine % 65536) (limit := (q.deadline.getD 0).toNat)
    (by cases q.remote <;> (show _ + 1 < 32) <;> decide) (by cases q.remote <;> cases q.p1 <;> decide)
  have hbit : breachBit (if q.remote then 3 else 2) (44 + p.val) = if q.remote then 4 else 3 := by cases q.remote <;> rfl
  rw [hbit] at hstat
  exact Does.of_exec (congrArg Host.Outcome.next hop) ⟨⟨hfall, hcredits, hrest⟩, hstat, hraised⟩

/-- Settles O31. -/
theorem breachesFallBack : Obligations.BreachesFallBack := fun _ hinv =>
  ⟨fun _ _ => floorBreach_falls hinv.2.1, fun _ _ _ => overrun_falls hinv.2.1⟩

/-! ### The end of a fallback, and the switch of modes -/

theorem State.curMode_congr {s t : State} (h : t.regs = s.regs) : t.curMode = s.curMode := State.rf_congr h _

theorem fallbackAutoReturn_ends {s : State} (h : Inv.registers s) (hfall : s.fallback = true)
    (hauto : s.rb F.GLB_PRM_MODE.AUTO_RETURN = true) (hcalm : s.troubled = false)
    (hhold : s.prm.breachFree + max 1 (s.rf F.GLB_PRM_CFG.HOLD) * 64000 ≤ s.fine) :
    Does .fallbackAutoReturn s (fun t => t.fallback = false ∧ Raised t 39 ∧ t.curMode = s.curMode ∧
      t = { s with regs := t.regs, prm := t.prm, mon := t.mon }) := by
  have hop : opAutoReturn s = s.leaveFallback := if_pos (by simpa [hfall, hauto, hcalm] using hhold)
  exact Does.of_exec (congrArg Host.Outcome.next hop) ⟨State.rb_wb_same h F.GLB_PRM_MODE.FALLBACK false (by decide) rfl,
    State.raise_pend _ 39 _ (by decide), State.rf_wf_field h F.GLB_PRM_MODE.FALLBACK F.GLB_PRM_MODE.CUR_MODE _ (by decide), rfl⟩

/-- Table 2.10, steps 1 and 2. -/
theorem State.startSwitch_spec {s : State} (h : Inv.registers s) {mode : Nat} (hmode : mode < 4) :
    (s.startSwitch mode).rf F.GLB_PRM_MODE.REQ_MODE = mode ∧ (s.startSwitch mode).switching = true ∧
      (s.startSwitch mode).curMode = s.curMode ∧
      (s.startSwitch mode).prm.swAwait = (s.prm.inFlight.filter (fun q => !q.remote)).map Promise.id ∧
      s.startSwitch mode = { s with regs := (s.startSwitch mode).regs, prm := (s.startSwitch mode).prm } := by
  have hreq : Inv.registers (s.wf F.GLB_PRM_MODE.REQ_MODE mode) := State.wf_regs_wf h _ _
  refine ⟨?_, State.rb_wb_same hreq F.GLB_PRM_MODE.SWITCHING true (by decide) rfl, ?_, rfl, rfl⟩
  · exact (State.rf_wf_field hreq F.GLB_PRM_MODE.SWITCHING F.GLB_PRM_MODE.REQ_MODE _ (by decide)).trans
      ((State.rf_wf_same h F.GLB_PRM_MODE.REQ_MODE mode (by decide)).trans (Nat.mod_eq_of_lt hmode))
  · exact (State.rf_wf_field hreq F.GLB_PRM_MODE.SWITCHING F.GLB_PRM_MODE.CUR_MODE _ (by decide)).trans
      (State.rf_wf_field h F.GLB_PRM_MODE.REQ_MODE F.GLB_PRM_MODE.CUR_MODE mode (by decide))

theorem prmModeWrite_switches {s : State} (h : Inv.registers s) {v : Word} (hserve : Serving s) (hsw : s.switching = false)
    (hfall : s.fallback = false) (h3 : fld v 2 2 ≠ 3) (hnew : fld v 2 2 ≠ s.curMode) :
    Does (.prmModeWrite v) s (fun t => t.rf F.GLB_PRM_MODE.REQ_MODE = fld v 2 2 ∧ t.switching = true ∧ t.curMode = s.curMode ∧
      t.prm.swAwait = (s.prm.inFlight.filter (fun q => !q.remote)).map Promise.id ∧ t = { s with regs := t.regs, prm := t.prm }) := by
  let s1 : State := s.wb F.GLB_PRM_MODE.AUTO_RETURN (bit v 6)
  have hsw1 : s1.switching = false := (State.rb_wb_field h _ F.GLB_PRM_MODE.SWITCHING _ (by decide)).trans hsw
  have hfall1 : s1.fallback = false := (State.rb_wb_field h _ F.GLB_PRM_MODE.FALLBACK _ (by decide)).trans hfall
  have hcur1 : s1.curMode = s.curMode := State.rf_wf_field h _ F.GLB_PRM_MODE.CUR_MODE _ (by decide)
  have hop : opPrmMode v s = s1.startSwitch (fld v 2 2) := by
    have hret : (if bit v 5 && s1.fallback then s1.leaveFallback else s1) = s1 := if_neg (by simp [hfall1])
    show (if bit v 5 && s1.fallback then s1.leaveFallback else s1).requestMode (fld v 2 2) = _
    rw [hret, State.requestMode, if_neg h3, if_neg (by simp [hsw1]), if_neg (by rw [hcur1]; exact hnew)]
  obtain ⟨hreq, hstart, hcur, hawait, hframe⟩ := State.startSwitch_spec (s := s1) (State.wb_regs_wf h _ _)
    (mode := fld v 2 2) (Nat.mod_lt _ (by decide))
  refine Does.of_exec (congrArg Host.Outcome.next ((State.onReg_of_serving hserve _).trans hop))
    ⟨hreq, hstart, hcur.trans hcur1, hawait, hframe⟩

theorem modeSwitch_completes {s : State} (h : Inv.registers s) (hsw : s.switching = true) (hnone : s.prm.swAwait = []) :
    Does .modeSwitchComplete s (fun t => t.curMode = s.rf F.GLB_PRM_MODE.REQ_MODE ∧ t.switching = false ∧ Raised t 40 ∧
      t = { s with regs := t.regs, prm := t.prm, mon := t.mon }) := by
  have hop : opModeSwitch s = s.takeMode.raise 40 (unitHub 0) := if_pos (by simp [hsw, hnone])
  have hcur : Inv.registers (s.wf F.GLB_PRM_MODE.CUR_MODE (s.rf F.GLB_PRM_MODE.REQ_MODE)) := State.wf_regs_wf h _ _
  refine Does.of_exec (congrArg Host.Outcome.next hop) ⟨?_, ?_, State.raise_pend _ 40 _ (by decide), rfl⟩
  · exact (State.rf_wf_field hcur F.GLB_PRM_MODE.SWITCHING F.GLB_PRM_MODE.CUR_MODE _ (by decide)).trans
      ((State.rf_wf_same h F.GLB_PRM_MODE.CUR_MODE _ (by decide)).trans (Nat.mod_mod_of_dvd _ (dvd_refl _)))
  · exact State.rb_wb_same hcur F.GLB_PRM_MODE.SWITCHING false (by decide) rfl

/-! ### Ceilings -/

/-- The first entry that `p` finds is in the list that `modFirst` makes, changed. -/
theorem mem_modFirst {α : Type} {p : α → Bool} {f : α → α} {x : α} : ∀ {l : List α}, l.find? p = some x → f x ∈ modFirst p f l
  | a :: l, h => by
    unfold modFirst
    by_cases hp : p a = true
    · rw [List.find?_cons_of_pos hp] at h
      rw [if_pos hp, ← Option.some.inj h]
      exact List.mem_cons_self
    · rw [List.find?_cons_of_neg hp] at h
      rw [if_neg hp]
      exact List.mem_cons_of_mem _ (mem_modFirst h)

/-- No entry that `q` takes comes of a `modFirst` whose change `q` does not see. -/
theorem takeFirst_modFirst_none {α : Type} {p q : α → Bool} {f : α → α} (hf : ∀ x, q (f x) = q x) :
    ∀ {l : List α}, (∀ x ∈ l, q x = false) → takeFirst q (modFirst p f l) = none
  | [], _ => rfl
  | a :: l, h => by
    have ha := h a List.mem_cons_self
    have hl : ∀ x ∈ l, q x = false := fun x hx => h x (List.mem_cons_of_mem _ hx)
    have hnone : ∀ {l : List α}, (∀ x ∈ l, q x = false) → takeFirst q l = none := fun {l} hl => by
      induction l with
      | nil => rfl
      | cons b l ih =>
        unfold takeFirst
        rw [hl b List.mem_cons_self, if_neg Bool.false_ne_true, ih fun x hx => hl x (List.mem_cons_of_mem _ hx)]
        rfl
    unfold modFirst
    split <;> unfold takeFirst
    · rw [hf, ha, if_neg Bool.false_ne_true, hnone hl]
      rfl
    · rw [ha, if_neg Bool.false_ne_true, takeFirst_modFirst_none hf hl]
      rfl

/-- The tags of a port after the request of one has ended under its ceiling. -/
def PortSt.ended (x : PortSt) (tag : Tag) : PortSt :=
  { x with tags := modFirst (fun (t : TagUse) => t.tag == tag && !t.ended) (fun (t : TagUse) => { t with ended := true }) x.tags }

/-- A response that no answered tag waits for leaves, and its tag stays in use. -/
theorem State.left_response_of_none {s : State} {p : Port} {m : AgentMsg} (hresp : m.isResponse = true)
    (hnone : takeFirst (fun (t : TagUse) => t.tag == m.tag && t.answered) (s.port p).tags = none) :
    s.left (.agent p m) = s.emit (.agent p m) := by
  unfold State.left
  dsimp only
  rw [if_pos hresp, State.freeTag, show ((s.emit (.agent p m)).port p).tags = (s.port p).tags from rfl, hnone]

/-- The state in which a port's request has ended under its ceiling, before its answer. -/
def State.tagExpired (s : State) (p : Port) (u : TagUse) : State := (s.setPort p (fun x => x.ended u.tag)).pointReached p u.point

theorem State.tagExpired_port (s : State) (p : Port) (u : TagUse) : ((s.tagExpired p u).port p).link = (s.port p).link ∧
    ((s.tagExpired p u).port p).tags = ((s.port p).ended u.tag).tags := by
  unfold State.tagExpired State.pointReached
  rw [State.port_setPort, State.port_setPort]
  exact ⟨rfl, rfl⟩

theorem State.tags_setLink (s : State) (p : Port) (f : LinkSt → LinkSt) : ((s.setLink (.port p) f).port p).tags = (s.port p).tags := by
  show ((s.setPort p _).port p).tags = _
  rw [State.port_setPort]

/-- R60: the answer that ends a request under its ceiling. -/
def ceilingAnswer (u : TagUse) : AgentMsg := { opc := opCmp, tag := u.tag, stat := 2, nb := u.nb }

/-- The state in which that answer has left. -/
def State.ceilingSent (s : State) (p : Port) (u : TagUse) (y : LinkSt) (n : Monitor) : State :=
  (({ s.tagExpired p u with mon := n } : State).setLink (.port p) (fun _ => y)).emit (.agent p (ceilingAnswer u))

theorem State.ceilingSent_frame (s : State) (p : Port) (u : TagUse) (y : LinkSt) (n : Monitor) :
    s.ceilingSent p u y n = { s with
      ports := (s.ceilingSent p u y n).ports
      mon := n
      sent := s.sent ++ [.agent p (ceilingAnswer u)] } := rfl

theorem State.toAgent_ceiling {s : State} {p : Port} {u : TagUse} (hacc : s.accepts p = true) (hclear : Clear s (.port p))
    (hopen : ∀ x ∈ (s.port p).tags, x.tag = u.tag → x.answered = false) :
    ∃ y n, (s.tagExpired p u).toAgent p (ceilingAnswer u) = s.ceilingSent p u y n := by
  obtain ⟨hlink, htags⟩ := s.tagExpired_port p u
  have hclear' : Clear (s.tagExpired p u) (.port p) := clear_congr hclear rfl hlink
  obtain ⟨y, n, hsend, -⟩ := State.toAgent_of_clear (s := s.tagExpired p u) hacc hclear' (ceilingAnswer u)
  refine ⟨y, n, hsend.trans (State.left_response_of_none rfl ?_)⟩
  rw [State.tags_setLink, show (State.port { s.tagExpired p u with mon := n } p).tags = ((s.tagExpired p u).port p).tags from rfl, htags]
  refine takeFirst_modFirst_none (f := fun t : TagUse => { t with ended := true }) (fun _ => rfl) fun x hx => ?_
  by_cases htag : x.tag = u.tag
  · simp [hopen x hx htag]
  · simp [ceilingAnswer, htag]

theorem ceilingExpiry_ends {s : State} (h : Inv.registers s) {p : Port} {u : TagUse}
    (hfind : (s.port p).tags.find? (fun x => x.tag == u.tag && !x.ended) = some u) (hceil : u.ceiling = true)
    (hlate : u.at_ + 10000 ≤ s.fine) (hacc : s.accepts p = true) (hclear : Clear s (.port p))
    (hopen : ∀ x ∈ (s.port p).tags, x.tag = u.tag → x.answered = false) (hfirst : s.rb F.GLB_PRM_STAT.CEILING = false) :
    Does (.ceilingExpiry (.agent p u.tag)) s (fun t => t.sent = s.sent ++ [.agent p (ceilingAnswer u)] ∧
      t.rb F.GLB_PRM_STAT.CEILING = true ∧ Raised t 42 ∧ (∃ x ∈ (t.port p).tags, x = { u with ended := true }) ∧
      t = { s with regs := t.regs, ports := t.ports, mon := t.mon, sent := t.sent }) := by
  obtain ⟨y, n, hsend⟩ := State.toAgent_ceiling (u := u) hacc hclear hopen
  obtain ⟨m, hm, -⟩ := (s.ceilingSent p u y n).count_eq (prmCtr p 3) 1
  have hcalm : State.rb { s.ceilingSent p u y n with mon := m } F.GLB_PRM_STAT.CEILING = false := hfirst
  have hop : s.ceilingAgent p u.tag =
      (({ s.ceilingSent p u y n with mon := m } : State).wf F.GLB_PRM_STAT.CEILING 1).raise 42 (unitPort p) := by
    unfold State.ceilingAgent
    rw [hfind]
    dsimp only
    rw [if_neg (by simp [hceil]; omega)]
    show (((s.tagExpired p u).toAgent p (ceilingAnswer u)).count (prmCtr p 3)).raiseFirst F.GLB_PRM_STAT.CEILING 42 (unitPort p) none = _
    rw [hsend, hm]
    exact if_neg (by rw [hcalm]; decide)
  have htags : ((s.ceilingSent p u y n).port p).tags = ((s.port p).ended u.tag).tags :=
    (State.tags_setLink ({ s.tagExpired p u with mon := n } : State) p (fun _ => y)).trans (s.tagExpired_port p u).2
  have hregs : (s.ceilingSent p u y n).regs = s.regs := rfl
  have hreg : Inv.registers ({ s.ceilingSent p u y n with mon := m } : State) := by
    show Sparse.wf regReset (s.ceilingSent p u y n).regs = true
    rw [hregs]
    exact h
  have hbit := State.rb_wb_same hreg F.GLB_PRM_STAT.CEILING true (by decide) rfl
  refine Does.of_exec (congrArg Host.Outcome.next hop) ⟨rfl, hbit, State.raise_pend _ 42 _ (by decide), ⟨_, ?_, rfl⟩, ?_⟩
  · show _ ∈ ((s.ceilingSent p u y n).port p).tags
    rw [htags]
    exact mem_modFirst hfind
  · rw [State.ceilingSent_frame]
    rfl

/-- Settles O32. -/
theorem fallbackEndsModesSwitch : Obligations.FallbackEndsModesSwitch :=
  ⟨fun _ hinv => ⟨fallbackAutoReturn_ends hinv.2.1, fun _ _ => ceilingExpiry_ends hinv.2.1⟩, fun _ hinv =>
    ⟨fun _ => prmModeWrite_switches hinv.2.1, modeSwitch_completes hinv.2.1⟩⟩

end Sys2Proof.Machine
end

section
/-! PROOFS. Fences (R264 to R267). -/

namespace Sys2Proof.Machine

/-- A change that leaves the entry as it is leaves the vector as it is. -/
theorem vmod_self {α : Type} {n : Nat} (v : Vector α n) (i : Fin n) {f : α → α} (h : f (v.get i) = v.get i) : vmod v i f = v := by
  ext j hj
  show (vmod v i f).get ⟨j, hj⟩ = v.get ⟨j, hj⟩
  rw [vget_vmod]
  split
  · next hij => rw [← hij]; exact h
  · rfl

/-- A run of an idle engine whose work is to drain entries that are not there leaves it asleep. -/
theorem State.runCoh_drainDev {s : State} (hidle : Idle s) {p : Port} (hdev : ∀ x ∈ s.coh.press, x.policy ≠ pDEV) :
    s.runCoh (fun c => c.drainDev p) = { s with coh := Asleep s.coh } := by
  obtain ⟨hquiet, hretire, hfx, hdead⟩ := hidle
  have hdrain : s.coh.drainDev p = { s.coh with wake := true } := by
    have hmap : ∀ f : PressEntry → PressEntry, (∀ x ∈ s.coh.press, f x = x) → s.coh.press.map f = s.coh.press :=
      fun f hf => (List.map_congr_left hf).trans (List.map_id _)
    unfold Coh.drainDev
    rw [hmap]
    exact fun x hx => if_neg (by simp [hdev x hx])
  rw [State.runCoh_quiet s _ (by rw [hdrain]; exact hquiet) (by rw [hdrain]; exact hretire) (by rw [hdrain]; exact hfx) hdead, hdrain]
  rfl

/-- A credit is taken from the pool of its port, and nothing else is. -/
theorem State.takeCredit_spec (s : State) (p : Port) (cls : BitVec 2) (ch : BitVec 3) :
    ∃ cr, (s.takeCredit p cls ch).2 = s.setPort p (fun x => { x with credits := cr }) := by
  unfold State.takeCredit
  dsimp only
  split
  · next c rest _ => exact ⟨rest, rfl⟩
  · refine ⟨(s.port p).credits, ?_⟩
    rw [State.setPort, vmod_self]
    rfl

/-- Table 8.2: what a fence of a kind waits for. -/
def fenceWaits (k : FenceKind) (points : List OpenPoint) : List Nat :=
  (points.filter (fun o => match k with
    | .w => o.isWrite
    | .l => !(o.passed && o.fabric)
    | .g => true)).map OpenPoint.id

/-- The fence that is recorded at a port. -/
def fenceAt (k : FenceKind) (tag : Tag) (x : PortSt) : FenceSt :=
  { id := x.nextPoint, kind := k, tag := tag, nb := false, waits := fenceWaits k x.points }

/-- A flush of the posted-write queue leaves the fences of its port as they are. -/
theorem opPwqFlush_spec (p : Port) (s : State) : ∃ ps, opPwqFlush p s = { s with ports := ps } ∧
    (ps.get p).fences = (s.port p).fences ∧ (ps.get p).nextPoint = (s.port p).nextPoint := by
  unfold opPwqFlush State.setPwq
  split
  · refine ⟨_, rfl, ?_⟩
    rw [vget_vmod, if_pos rfl]
    exact ⟨rfl, rfl⟩
  · exact ⟨s.ports, rfl, rfl, rfl⟩

/-- R264: a fence is recorded with what it waits for. -/
theorem opFence_records {s : State} {p : Port} {cls : BitVec 2} {tag : Tag} (htakes : s.takes p = true) (hidle : Idle s)
    (hfree : s.tagHeld p tag = false) (hdev : ∀ x ∈ s.coh.press, x.policy ≠ pDEV) (k : FenceKind) :
    ((opFence k p cls tag s).port p).fences = (s.port p).fences ++ [fenceAt k tag (s.port p)] ∧
      ((opFence k p cls tag s).port p).nextPoint = (s.port p).nextPoint + 1 ∧
      opFence k p cls tag s = { s with
        ports := (opFence k p cls tag s).ports
        coh := Asleep s.coh
        mon := (opFence k p cls tag s).mon } := by
  obtain ⟨cr, hcredit⟩ := s.takeCredit_spec p (if cls = 3 then 2 else cls) 0
  let recorded : State := s.setPort p (fun x => { x with
    credits := cr
    fences := x.fences ++ [fenceAt k tag x]
    nextPoint := x.nextPoint + 1 })
  obtain ⟨m, hm, -⟩ := recorded.count_eq (ordCtr p k.code) 1
  let slept : State := { recorded with mon := m, coh := Asleep s.coh }
  have hrun : ({ recorded with mon := m } : State).runCoh (fun c => c.drainDev p) = slept :=
    State.runCoh_drainDev (s := { recorded with mon := m }) hidle hdev
  have hop : opFence k p cls tag s = if k = .l then slept else opPwqFlush p slept := by
    unfold opFence
    rw [if_neg (by simp [htakes]), if_neg (by simp [hfree]), hcredit]
    dsimp only
    rw [State.port_setPort, State.setPort_setPort]
    exact congrArg (fun t : State => if k = .l then t.runCoh (fun c => c.drainDev p) else opPwqFlush p (t.runCoh (fun c => c.drainDev p)))
      hm |>.trans (by rw [hrun])
  have hslept : slept.port p = { s.port p with
      credits := cr
      fences := (s.port p).fences ++ [fenceAt k tag (s.port p)]
      nextPoint := (s.port p).nextPoint + 1 } := s.port_setPort p _
  rw [hop]
  split
  · rw [hslept]
    exact ⟨rfl, rfl, rfl⟩
  · obtain ⟨ps, hflush, hfences, hnext⟩ := opPwqFlush_spec p slept
    rw [hslept] at hfences hnext
    rw [hflush]
    exact ⟨hfences, hnext, rfl⟩

/-- Freeing a tag changes its port and the promise unit. -/
theorem State.freeTag_spec (s : State) (p : Port) (tag : Tag) : ∃ ts pr, s.freeTag p tag =
    { s.setPort p (fun x => { x with tags := ts }) with prm := pr } := by
  unfold State.freeTag
  split
  · refine ⟨(s.port p).tags, s.prm, ?_⟩
    rw [State.setPort, vmod_self]
    rfl
  · next t rest _ => exact ⟨rest, _, rfl⟩

/-- R265, R345: a clear port's agent gets a response at once, and its tag may be free after it. -/
theorem State.toAgent_response {s : State} {p : Port} (hacc : s.accepts p = true) (h : Clear s (.port p)) {m : AgentMsg}
    (hresp : m.isResponse = true) : ∃ y ts n pr, s.toAgent p m = { s.setPort p (fun x => { x with link := y, tags := ts }) with
      mon := n
      prm := pr
      sent := s.sent ++ [.agent p m] } := by
  obtain ⟨y, n, hsend, -⟩ := State.toAgent_of_clear hacc h m
  let gone : State := (({ s with mon := n } : State).setLink (.port p) (fun _ => y)).emit (.agent p m)
  obtain ⟨ts, pr, hfree⟩ := gone.freeTag_spec p m.tag
  have hleft : s.toAgent p m = gone.freeTag p m.tag := hsend.trans (if_pos hresp)
  refine ⟨y, ts, n, pr, ?_⟩
  have hports := ({ s with mon := n } : State).setPort_setPort p (fun x => { x with link := y }) (fun x => { x with tags := ts })
  rw [hleft, hfree]
  exact congrArg (fun t : State => ({ t with prm := pr, sent := s.sent ++ [.agent p m] } : State)) hports

/-- A port whose oldest fence is over: the bounds of what it held run from now. -/
def PortSt.fenceOver (x : PortSt) (now : Nat) (f : FenceSt) (rest : List FenceSt) : PortSt :=
  { x with fences := rest, front := x.front.map (fun r => if f.holds r.id (r.req.op.writes) then { r with at_ := now } else r) }

/-- A port with the tag of a fence that is answered. -/
def PortSt.answering (x : PortSt) (now : Nat) (tag : Tag) : PortSt :=
  { x with tags := x.tags ++ [{ tag := tag, at_ := now, ceiling := true, ended := false, answered := true, point := 0 }] }

theorem opFenceDone_eq {s : State} {p : Port} {tag : Tag} {f : FenceSt} {rest : List FenceSt} (hacc : s.accepts p = true)
    (hfences : (s.port p).fences = f :: rest) (htag : f.tag = tag) (hwaits : f.waits = []) : opFenceDone p tag s =
      (s.setPort p (fun x => (x.fenceOver s.fine f rest).answering s.fine tag)).toAgent p { opc := opCmp, tag := tag } := by
  have hanswer : (s.setPort p (fun x => x.fenceOver s.fine f rest)).answerFence p { opc := opCmp, tag := tag } =
      ((s.setPort p (fun x => x.fenceOver s.fine f rest)).setPort p (fun x => x.answering s.fine tag)).toAgent p
        { opc := opCmp, tag := tag } := if_pos hacc
  unfold opFenceDone
  rw [hfences]
  dsimp only
  rw [if_pos ⟨htag, hwaits⟩]
  exact hanswer.trans (congrArg (fun t : State => t.toAgent p { opc := opCmp, tag := tag }) (s.setPort_setPort p _ _))

theorem fenceComplete_answers {s : State} {p : Port} {tag : Tag} {f : FenceSt} {rest : List FenceSt} (hacc : s.accepts p = true)
    (hfences : (s.port p).fences = f :: rest) (htag : f.tag = tag) (hwaits : f.waits = []) (hfront : (s.port p).front = [])
    (hdue : (s.ptu p).anyDue = false) (hclear : Clear s (.port p)) : Does (.fenceComplete p tag) s (fun t =>
      (t.port p).fences = rest ∧ t.sent = s.sent ++ [.agent p { opc := opCmp, tag := tag }] ∧
      t = { s with ports := t.ports, prm := t.prm, mon := t.mon, sent := t.sent }) := by
  let ended : State := s.setPort p (fun x => (x.fenceOver s.fine f rest).answering s.fine tag)
  have hended : ended.port p = ((s.port p).fenceOver s.fine f rest).answering s.fine tag := s.port_setPort p _
  have hlink : ended.linkSt (.port p) = s.linkSt (.port p) := by
    show (ended.port p).link = (s.port p).link
    rw [hended]
    rfl
  obtain ⟨y, ts, n, pr, hsend⟩ := State.toAgent_response (s := ended) hacc (clear_congr hclear rfl hlink)
    (m := { opc := opCmp, tag := tag }) rfl
  have hdone := (opFenceDone_eq hacc hfences htag hwaits).trans hsend
  have hport : (opFenceDone p tag s).port p = { ended.port p with link := y, tags := ts } := by
    rw [hdone]
    exact ended.port_setPort p _
  have hscan : (opFenceDone p tag s).frontScan p = opFenceDone p tag s := by
    refine State.frontScan_of_still ?_ ?_
    · rw [hport, hended]
      show (s.port p).front.map _ = []
      rw [hfront, List.map_nil]
    · show ((opFenceDone p tag s).port p).ptu.anyDue = false
      rw [hport, hended]
      exact hdue
  refine Does.of_exec (congrArg Host.Outcome.next hscan) ⟨?_, ?_, ?_⟩
  · rw [hport, hended]
    rfl
  · rw [hdone]
    rfl
  · rw [hdone]
    rfl

/-- Settles O15. -/
theorem fencesWait : Obligations.FencesWait := by
  intro s p cls tag htakes
  have hacc : s.accepts p = true := by
    unfold State.takes at htakes
    simp only [Bool.and_eq_true] at htakes
    exact htakes.1.2
  refine ⟨fun hidle hfree hdev x hx => ?_, fun f rest hfences htag hwaits hfront hdue hclear =>
    fenceComplete_answers hacc hfences htag hwaits hfront hdue hclear⟩
  have hrecords := opFence_records (cls := cls) htakes hidle hfree hdev
  simp only [List.mem_cons, List.not_mem_nil, or_false] at hx
  obtain rfl | rfl | rfl := hx
  · exact Does.of_exec rfl (hrecords .w)
  · exact Does.of_exec rfl (hrecords .l)
  · exact Does.of_exec rfl (hrecords .g)

end Sys2Proof.Machine
end

section
/-! PROOFS. The Drill (R166 to R188, R221): issue, passes to slices, trackers, the accuracy cap and its registers. -/

namespace Sys2Proof.Machine

theorem State.drill_setDrill (s : State) (p : Port) (f : DrillSt → DrillSt) : (s.setDrill p f).drill p = f (s.drill p) :=
  congrArg PortSt.drill (s.port_setPort p _)

/-! ### Issue -/

/-- The first tracker in the order that can issue does. -/
theorem opDrillIssue_first {s t : State} {p : Port} {i : Fin 64} {is : List (Fin 64)} (hdrill : s.drilling p = true)
    (hrun : s.boot.running = true) (hst : s.pwr.st = .run) (horder : s.issueOrder p = i :: is) (htry : s.tryIssue p i = some t) :
    opDrillIssue p s = t := by
  unfold opDrillIssue
  rw [if_neg (by simp [hdrill, hrun, hst]), horder, List.findSome?_cons, htry]
  rfl

/-- On a caching port the oldest pending line is issued by its own address. -/
theorem State.tryIssue_caching {s : State} {p : Port} {i : Fin 64} {x : StreamTracker} {q : PendLine} {qs : List PendLine}
    (hcaching : s.caching p = true) (htracker : (s.drill p).trackers.get i = some x) (hpend : x.pend = q :: qs) (hwalk : q.walk = none)
    (hsa : q.sa = none) : s.tryIssue p i = s.issueLine p i (saOf (BitVec.ofNat 45 q.addr.toNat)) := by
  unfold State.tryIssue
  rw [htracker]
  dsimp only [Option.bind_some]
  rw [hpend]
  dsimp only [List.head?_cons]
  rw [hwalk, hsa, if_neg (by decide), hcaching]
  rfl

/-- A port whose Drill has issued the oldest pending line of a tracker with a credit. -/
def PortSt.issuing (x : PortSt) (i : Fin 64) (l : LineAddr) (now : Nat) (c : Credit) (cs : List Credit) : PortSt :=
  { x with
    credits := cs
    drill := { x.drill with
      trackers := vmod x.drill.trackers i (fun t => t.map (fun t => { t with pend := t.pend.drop 1 }))
      issued := x.drill.issued ++ [l]
      out := x.drill.out ++ [{ line := l, since := now, remote := false, ceiling := !c.promise }] } }

/-- R170, R172: a local line is issued with a prefetch credit of its channel. -/
theorem State.issueLine_local {s : State} {p : Port} {i : Fin 64} {l : LineAddr} {c : Credit} {cs : List Credit}
    (hcaching : s.caching p = true) (hnode : nodeOf (saOf l) = s.node) (hcrd : s.rf (F.DRL_CFG2.CRD p) ≠ 0)
    (htake : takeFirst (fun (c : Credit) => c.kind == .drill && c.ch.toNat == (s.chanOfLine l).val) (s.port p).credits = some (c, cs)) :
    ∃ m pr, s.issueLine p i (saOf l) = some { s.setPort p (fun x => x.issuing i l s.fine c cs) with mon := m, prm := pr } := by
  have hmay : s.mayIssueLine p i (saOf l) = true := by
    unfold State.mayIssueLine
    rw [hcaching]
    rfl
  unfold State.issueLine
  rw [hmay, lineOf_saOf]
  dsimp only
  rw [if_neg (by decide), if_neg (not_not.mpr hnode), if_neg hcrd, htake]
  dsimp only
  unfold State.popPend State.setTracker State.setDrill
  rw [State.setPort_setPort, State.setPort_setPort]
  obtain ⟨m, hm, -⟩ := (s.setPort p (fun x => x.issuing i l s.fine c cs)).count_eq (drlCtr p 0x13) 1
  generalize hx : State.count _ (drlCtr p 0x13) = x
  obtain rfl := hx.symm.trans hm
  split
  · exact ⟨m, _, rfl⟩
  · exact ⟨m, s.prm, rfl⟩

theorem drillIssue_issues {s : State} {p : Port} {i : Fin 64} {is : List (Fin 64)} {x : StreamTracker} {q : PendLine} {qs : List PendLine}
    {c : Credit} {cs : List Credit} (hdrill : s.drilling p = true) (hrun : s.boot.running = true) (hst : s.pwr.st = .run)
    (hcaching : s.caching p = true) (hfront : (s.port p).front = []) (hdue : (s.ptu p).anyDue = false)
    (horder : s.issueOrder p = i :: is) (htracker : (s.drill p).trackers.get i = some x) (hpend : x.pend = q :: qs)
    (hwalk : q.walk = none) (hsa : q.sa = none) (hnode : nodeOf (saOf (BitVec.ofNat 45 q.addr.toNat)) = s.node)
    (hcrd : s.rf (F.DRL_CFG2.CRD p) ≠ 0)
    (htake : takeFirst (fun (c : Credit) => c.kind == .drill && c.ch.toNat == (s.chanOfLine (BitVec.ofNat 45 q.addr.toNat)).val)
      (s.port p).credits = some (c, cs)) : Does (.drillIssue p) s (fun t =>
        (t.drill p).issued = (s.drill p).issued ++ [BitVec.ofNat 45 q.addr.toNat] ∧ (t.port p).credits = cs ∧
        (t.drill p).trackers.get i = some { x with pend := qs } ∧ t = { s with ports := t.ports, prm := t.prm, mon := t.mon }) := by
  obtain ⟨m, pr, hissue⟩ := State.issueLine_local (i := i) hcaching hnode hcrd htake
  have hop := opDrillIssue_first hdrill hrun hst horder
    ((State.tryIssue_caching hcaching htracker hpend hwalk hsa).trans hissue)
  have hport := s.port_setPort p (fun x => x.issuing i (BitVec.ofNat 45 q.addr.toNat) s.fine c cs)
  have hscan : (opDrillIssue p s).frontScan p = opDrillIssue p s := by
    rw [hop]
    refine State.frontScan_of_still ?_ ?_
    · show ((s.setPort p _).port p).front = []
      rw [hport]
      exact hfront
    · show ((s.setPort p _).port p).ptu.anyDue = false
      rw [hport]
      exact hdue
  refine Does.of_exec (congrArg Host.Outcome.next (hscan.trans hop)) ⟨?_, ?_, ?_, rfl⟩
  · show ((s.setPort p _).port p).drill.issued = _
    rw [hport]
    rfl
  · show ((s.setPort p _).port p).credits = _
    rw [hport]
    rfl
  · show ((s.setPort p _).port p).drill.trackers.get i = _
    rw [hport]
    show (vmod (s.drill p).trackers i _).get i = _
    rw [vget_vmod, if_pos rfl, htracker, Option.map_some, hpend]
    rfl

/-- R182: the oldest issued prefetch reaches its slice. -/
theorem prefetchPass_arrives {s : State} {p : Port} {l : LineAddr} {rest : List LineAddr} (hissued : (s.drill p).issued = l :: rest) :
    ∃ (u : State) (r : Req), exec (.prefetchPass p) s = .next (u.arriveReq r) ∧
      u = { s with ports := u.ports, hdl := u.hdl, sent := u.sent, freeCtr := u.freeCtr } ∧ Sends s u [] ∧
      (u.drill p).issued = rest ∧ r.src = .drill p ∧ r.op = .prefetch ∧ r.line = l ∧ r.cls = if lineHome l = s.node then 1 else 2 := by
  have hitem : ∀ cls, ∃ n h bs, s.crossItem (.port p) (.slice (sliceOf l)) 0 cls none = ({ s with freeCtr := n } : State).onHdl h bs ∧
      ∀ b ∈ bs, isBeat b = true := fun cls => by
    unfold State.crossItem
    split
    · obtain ⟨h, bs, heq, hbeats⟩ := State.cross_eq { s with freeCtr := s.freeCtr + 1 } (.port p) (.slice (sliceOf l)) false 0 cls
        (Config.itemHeader s.freeCtr) none none
      exact ⟨s.freeCtr + 1, h, bs, heq, hbeats⟩
    · exact ⟨s.freeCtr, s.hdl, [], s.onHdl_self.symm, by simp⟩
  obtain ⟨n, h, bs, hcross, hbeats⟩ := hitem (if lineHome l == s.node then 1 else 2)
  have hop : opPrefetchPass p s = ((({ s with freeCtr := n } : State).onHdl h bs).setDrill p (fun x => { x with issued := rest })).arriveReq
      { src := .drill p, op := .prefetch, line := l, cls := if lineHome l == s.node then 1 else 2, resv := lineHome l == s.node,
        bounded := lineHome l == s.node } := by
    unfold opPrefetchPass
    rw [hissued]
    dsimp only
    rw [hcross]
  refine ⟨_, _, congrArg Host.Outcome.next hop, rfl, ?_, ?_, rfl, rfl, rfl, ?_⟩
  · have hnone : bs.filter (fun y => !isBeat y) = [] := List.filter_eq_nil_iff.mpr fun y hy => by simp [hbeats y hy]
    show (s.sent ++ bs).filter (fun x => !isBeat x) = _
    rw [List.filter_append, hnone]
  · rw [State.drill_setDrill]
  · show (if (lineHome l == s.node) = true then _ else _) = _
    simp only [beq_iff_eq]

theorem drillTrackerIdle_frees {s : State} {p : Port} {i : Fin 64} {x : StreamTracker} (htracker : (s.drill p).trackers.get i = some x)
    (hidle : x.matched + max 1 (s.rf (F.DRL_CFG2.IDLE p)) * 256 < s.fine) : Does (.drillTrackerIdle p i) s (fun t =>
      (t.drill p).trackers.get i = none ∧ (∀ j, j ≠ i → (t.drill p).trackers.get j = (s.drill p).trackers.get j) ∧
      t = { s with ports := t.ports }) := by
  have hop : opTrackerIdle p i s = s.setDrill p (fun x => { x with trackers := vset x.trackers i none }) := by
    unfold opTrackerIdle
    rw [htracker]
    exact if_pos hidle
  refine Does.of_exec (congrArg Host.Outcome.next hop) ⟨?_, fun j hj => ?_, rfl⟩
  · rw [State.drill_setDrill]
    exact (vget_vset _ _ _ _).trans (if_pos rfl)
  · rw [State.drill_setDrill]
    exact (vget_vset _ _ _ _).trans (if_neg hj.symm)

/-! ### The accuracy cap -/

theorem nextCap_lt {accEn : Bool} {cap u v mn : Nat} (h : cap < 32) : nextCap accEn cap u v mn < 32 := by
  unfold nextCap
  split_ifs <;> omega

/-- R177: CAP takes its value, and its change is reported. -/
theorem State.setCap_spec {s : State} (h : Inv.registers s) {cap : Nat} (hcap : cap < 32) :
    (s.setCap cap).rf F.DRL_ACC.CAP = cap ∧ (cap < s.rf F.DRL_ACC.CAP → Raised (s.setCap cap) 71) ∧
      (s.rf F.DRL_ACC.CAP < cap → Raised (s.setCap cap) 72) ∧ ∃ m, s.setCap cap = { s.wf F.DRL_ACC.CAP cap with mon := m } := by
  have hsame : (s.wf F.DRL_ACC.CAP cap).rf F.DRL_ACC.CAP = cap := (State.rf_wf_same h _ _ (by decide)).trans (Nat.mod_eq_of_lt hcap)
  unfold State.setCap
  dsimp only
  split
  · exact ⟨hsame, fun _ => State.raise_pend _ 71 _ (by decide), fun _ => by omega, _, rfl⟩
  · split
    · exact ⟨hsame, fun _ => by omega, fun _ => State.raise_pend _ 72 _ (by decide), _, rfl⟩
    · exact ⟨hsame, fun _ => by omega, fun _ => by omega, s.mon, rfl⟩

theorem State.rf_CAP_lt (s : State) : s.rf F.DRL_ACC.CAP < 32 := Nat.mod_lt _ (by decide)

theorem accuracyInterval_moves {s : State} (h : Inv.registers s) (hdue : s.accAt + max 1 (s.rf F.DRL_ACC.INTERVAL) * 1000 ≤ s.fine) :
    let cap := nextCap (s.rb F.DRL_ACC.ACC_EN) (s.rf F.DRL_ACC.CAP) s.accU s.accV (s.rf F.DRL_ACC.MIN)
    Does .drillAccuracyInterval s (fun t => t.rf F.DRL_ACC.CAP = cap ∧ t.accU = 0 ∧ t.accV = 0 ∧ t.accAt = s.fine ∧
      (cap < s.rf F.DRL_ACC.CAP → Raised t 71) ∧ (s.rf F.DRL_ACC.CAP < cap → Raised t 72) ∧
      t = { s with accU := 0, accV := 0, accAt := s.fine, regs := t.regs, mon := t.mon }) := by
  intro cap
  obtain ⟨hsame, hfall, hrise, m, hm⟩ := State.setCap_spec (s := { s with accU := 0, accV := 0, accAt := s.fine }) h
    (nextCap_lt s.rf_CAP_lt : cap < 32)
  refine Does.of_exec (congrArg Host.Outcome.next (if_neg (by omega))) ⟨hsame, ?_, ?_, ?_, hfall, hrise, ?_⟩ <;> rw [hm] <;> rfl

/-! ### Registers -/

theorem regRow_DRL_CFG (p : Port) : ∃ row, regRow (Reg.DRL_CFG p) = some row ∧ row.rw.getLsbD 0 = true := by
  have hall : ∀ q : Port, (regRow (Reg.DRL_CFG q)).any (fun row => row.rw.getLsbD 0) = true := by decide +kernel
  have hp := hall p
  cases hrow : regRow (Reg.DRL_CFG p) with
  | none =>
    rw [hrow] at hp
    exact Bool.noConfusion hp
  | some row =>
    rw [hrow] at hp
    exact ⟨row, rfl, hp⟩

theorem drlCfgWrite_takes {s : State} (h : Inv.registers s) (p : Port) (v : Word) (hserve : Serving s) :
    Does (.drlCfgWrite p v) s (fun t => t.rb (F.DRL_CFG.EN p) = bit v 0 ∧ (bit v 0 = true → t = { s with regs := t.regs }) ∧
      (bit v 0 = false → (∀ i, (t.drill p).trackers.get i = none) ∧ (∀ c ∈ (t.port p).credits, c.kind ≠ .drill) ∧
        t = { s with regs := t.regs, ports := t.ports })) := by
  obtain ⟨row, hrow, hrw⟩ := regRow_DRL_CFG p
  have hen : (s.wrRw (Reg.DRL_CFG p) v).rb (F.DRL_CFG.EN p) = bit v 0 := State.rb_wrRw h (F.DRL_CFG.EN p) hrow v rfl hrw
  have hframe := s.wrRw_frame (Reg.DRL_CFG p) v
  cases hbit : bit v 0 with
  | true =>
    have hop : opDrlCfg p v s = s.wrRw (Reg.DRL_CFG p) v := if_pos hbit
    exact Does.of_exec (congrArg Host.Outcome.next ((State.onReg_of_serving hserve _).trans hop))
      ⟨hen.trans hbit, fun _ => hframe, fun hf => Bool.noConfusion hf⟩
  | false =>
    have hop : opDrlCfg p v s = (s.wrRw (Reg.DRL_CFG p) v).stopDrill p := if_neg (by rw [hbit]; decide)
    have hport := (s.wrRw (Reg.DRL_CFG p) v).port_setPort p (fun x => { x with
      credits := x.credits.filter (fun c => c.kind != .drill)
      drill := { x.drill with trackers := Vector.replicate 64 none } })
    refine Does.of_exec (congrArg Host.Outcome.next ((State.onReg_of_serving hserve _).trans hop))
      ⟨hen.trans hbit, fun hf => Bool.noConfusion hf, fun _ => ⟨fun i => ?_, fun c hc => ?_, ?_⟩⟩
    · show (((s.wrRw (Reg.DRL_CFG p) v).stopDrill p).port p).drill.trackers.get i = none
      rw [State.stopDrill, hport]
      simp [Vector.get_eq_getElem]
    · rw [State.stopDrill, hport] at hc
      simpa using (List.mem_filter.mp hc).2
    · rw [State.stopDrill, hframe]
      rfl

theorem drlAccWrite_takes {s : State} (h : Inv.registers s) (v : Word) (hserve : Serving s) : Does (.drlAccWrite v) s (fun t =>
    t.rf F.DRL_ACC.INTERVAL = fld v 0 8 ∧ t.rf F.DRL_ACC.MIN = fld v 8 8 ∧ t.rb F.DRL_ACC.ACC_EN = bit v 21 ∧
    t.rf F.DRL_ACC.CAP = (if bit v 21 then s.rf F.DRL_ACC.CAP else 16) ∧ t = { s with regs := t.regs, mon := t.mon }) := by
  let s1 : State := s.wf F.DRL_ACC.INTERVAL (fld v 0 8)
  let s2 : State := s1.wf F.DRL_ACC.MIN (fld v 8 8)
  let s3 : State := s2.wb F.DRL_ACC.ACC_EN (bit v 21)
  have h1 : Inv.registers s1 := State.wf_regs_wf h _ _
  have h2 : Inv.registers s2 := State.wf_regs_wf h1 _ _
  have h3 : Inv.registers s3 := State.wb_regs_wf h2 _ _
  have hfld : ∀ lo, fld v lo 8 % 2 ^ 8 = fld v lo 8 := fun lo => Nat.mod_eq_of_lt (Nat.mod_lt _ (by decide))
  have hinterval : s3.rf F.DRL_ACC.INTERVAL = fld v 0 8 := (State.rf_wf_field h2 F.DRL_ACC.ACC_EN _ _ (by decide)).trans
    ((State.rf_wf_field h1 F.DRL_ACC.MIN _ _ (by decide)).trans ((State.rf_wf_same h F.DRL_ACC.INTERVAL _ (by decide)).trans (hfld 0)))
  have hmin : s3.rf F.DRL_ACC.MIN = fld v 8 8 := (State.rf_wf_field h2 F.DRL_ACC.ACC_EN _ _ (by decide)).trans
    ((State.rf_wf_same h1 F.DRL_ACC.MIN _ (by decide)).trans (hfld 8))
  have hen : s3.rb F.DRL_ACC.ACC_EN = bit v 21 := State.rb_wb_same h2 F.DRL_ACC.ACC_EN _ (by decide) rfl
  have hcap : s3.rf F.DRL_ACC.CAP = s.rf F.DRL_ACC.CAP := (State.rf_wf_field h2 F.DRL_ACC.ACC_EN _ _ (by decide)).trans
    ((State.rf_wf_field h1 F.DRL_ACC.MIN _ _ (by decide)).trans (State.rf_wf_field h F.DRL_ACC.INTERVAL _ _ (by decide)))
  cases hbit : bit v 21 with
  | true =>
    have hop : opDrlAcc v s = s3 := if_pos hbit
    exact Does.of_exec (congrArg Host.Outcome.next ((State.onReg_of_serving hserve _).trans hop))
      ⟨hinterval, hmin, hen.trans hbit, hcap, rfl⟩
  | false =>
    have hop : opDrlAcc v s = s3.setCap 16 := if_neg (by rw [hbit]; decide)
    obtain ⟨hsame, -, -, m, hm⟩ := State.setCap_spec h3 (cap := 16) (by decide)
    refine Does.of_exec (congrArg Host.Outcome.next ((State.onReg_of_serving hserve _).trans hop)) ?_
    have hregs : (s3.setCap 16).regs = (s3.wf F.DRL_ACC.CAP 16).regs := by rw [hm]
    refine ⟨?_, ?_, ?_, hsame, ?_⟩
    · exact (State.rf_congr hregs _).trans ((State.rf_wf_field h3 F.DRL_ACC.CAP _ _ (by decide)).trans hinterval)
    · exact (State.rf_congr hregs _).trans ((State.rf_wf_field h3 F.DRL_ACC.CAP _ _ (by decide)).trans hmin)
    · exact (State.rb_congr hregs _).trans ((State.rb_wf_field h3 F.DRL_ACC.CAP _ _ (by decide)).trans (hen.trans hbit))
    · rw [hm]
      rfl

/-- Settles O33. -/
theorem prefetchesRun : Obligations.PrefetchesRun := by
  refine ⟨fun s p => ⟨fun i is x q qs c cs => ?_, fun l rest => prefetchPass_arrives, fun i x => drillTrackerIdle_frees⟩,
    fun s hinv => ⟨accuracyInterval_moves hinv.2.1, drlCfgWrite_takes hinv.2.1, drlAccWrite_takes hinv.2.1, fun hon hdue => ?_⟩⟩
  · exact drillIssue_issues
  · exact Does.of_exec (congrArg Host.Outcome.next (if_neg (by omega))) ⟨rfl, rfl⟩

end Sys2Proof.Machine
end

section
/-! PROOFS. Translation registers and invalidations (R301 to R306), and the end of a walk (R292). -/

namespace Sys2Proof.Machine
open Sys2Proof

theorem State.hasPtu_of_nonCaching {s : State} {p : Port} (h : s.kind p = .nonCaching) : s.hasPtu p = true := by
  rw [State.hasPtu, h]; rfl

theorem State.ptu_setPtu (s : State) (p : Port) (f : PtuSt → PtuSt) : (s.setPtu p f).ptu p = f (s.ptu p) :=
  congrArg PortSt.ptu (State.port_setPort s p _)

theorem State.rf_lt (s : State) (f : RField) : s.rf f < 2 ^ f.width := Nat.mod_lt _ (Nat.two_pow_pos _)

theorem fld_lt (v : Word) (lo width : Nat) : fld v lo width < 2 ^ width := Nat.mod_lt _ (Nat.two_pow_pos _)

theorem ptuRootLo_writes {s : State} (h : Inv.registers s) (hserve : Serving s) {p : Port} (hkind : s.kind p = .nonCaching) (v : Word) :
    Does (.ptuRootLoWrite p v) s (fun t => t.rf (F.PTU_ROOT_LO.ROOT_LO p) = fld v 12 20 ∧ t = { s with regs := t.regs }) := by
  have hop : opPtuRootLo p v s = s.wf (F.PTU_ROOT_LO.ROOT_LO p) (fld v 12 20) := if_pos (State.hasPtu_of_nonCaching hkind)
  exact Does.of_exec (congrArg Host.Outcome.next ((State.onReg_of_serving hserve _).trans hop))
    ⟨(State.rf_wf_same h _ _ (Nat.le_of_ble_eq_true rfl)).trans (Nat.mod_eq_of_lt (fld_lt v 12 20)), rfl⟩

/-- The root that PTU_ROOT_HI installs: its own 20 bits over the 20 bits of PTU_ROOT_LO. -/
theorem toNat_root {hi lo : Nat} (hhi : hi < 2 ^ 20) (hlo : lo < 2 ^ 20) :
    (BitVec.ofNat 52 (hi * 2 ^ 32 + lo * 4096)).toNat = hi * 2 ^ 32 + lo * 2 ^ 12 := by
  rw [BitVec.toNat_ofNat]
  omega

theorem ptuRootHi_writes {s : State} (h : Inv.registers s) (hserve : Serving s) {p : Port} (hkind : s.kind p = .nonCaching) (v : Word) :
    Does (.ptuRootHiWrite p v) s (fun t =>
      (t.ptu p).root.toNat = fld v 0 20 * 2 ^ 32 + s.rf (F.PTU_ROOT_LO.ROOT_LO p) * 2 ^ 12 ∧ (t.ptu p).ctx.toNat = fld v 20 12 ∧
      (t.ptu p).tlb = (s.ptu p).tlb ∧ (t.ptu p).demand = (s.ptu p).demand ∧ t = { s with regs := t.regs, ports := t.ports }) := by
  let s1 := s.wr (Reg.PTU_ROOT_HI p) v
  let f : PtuSt → PtuSt := fun x => { x with
    root := BitVec.ofNat 52 (fld v 0 20 * 2 ^ 32 + s1.rf (F.PTU_ROOT_LO.ROOT_LO p) * 4096)
    ctx := BitVec.ofNat 12 (fld v 20 12) }
  have hop : opPtuRootHi p v s = s1.setPtu p f := if_pos (State.hasPtu_of_nonCaching hkind)
  have hptu : (s1.setPtu p f).ptu p = f (s.ptu p) := State.ptu_setPtu s1 p f
  have hlo : s1.rf (F.PTU_ROOT_LO.ROOT_LO p) = s.rf (F.PTU_ROOT_LO.ROOT_LO p) :=
    congrArg (fun w => fld w _ _) (State.rg_wr_other h (o' := Reg.PTU_ROOT_LO p) v (by simp [Reg.PTU_ROOT_HI, Reg.PTU_ROOT_LO]))
  refine Does.of_exec (congrArg Host.Outcome.next ((State.onReg_of_serving hserve _).trans hop)) ⟨?_, ?_, ?_, ?_, rfl⟩ <;> rw [hptu]
  · show (BitVec.ofNat 52 (fld v 0 20 * 2 ^ 32 + s1.rf (F.PTU_ROOT_LO.ROOT_LO p) * 4096)).toNat = _
    rw [hlo]
    exact toNat_root (fld_lt v 0 20) (State.rf_lt s _)
  · exact (BitVec.toNat_ofNat _ _).trans (Nat.mod_eq_of_lt (fld_lt v 20 12))

theorem ptuSeed_writes {s : State} (h : Inv.registers s) (hserve : Serving s) {p : Port} (hkind : s.kind p = .nonCaching) (seed : BitVec 16) :
    Does (.ptuSeedWrite p seed) s (fun t => (t.ptu p).lfsr = (if seed = 0 then 1 else seed) ∧ (t.ptu p).tlb = (s.ptu p).tlb ∧
      t.rf (F.PTU_CTL.SEED p) = seed.toNat ∧ t = { s with regs := t.regs, ports := t.ports }) := by
  let s1 := s.wf (F.PTU_CTL.SEED p) seed.toNat
  let f : PtuSt → PtuSt := fun x => { x with lfsr := if seed = 0 then 1 else seed }
  have hop : opPtuSeed p seed s = s1.setPtu p f := if_pos (State.hasPtu_of_nonCaching hkind)
  have hptu : (s1.setPtu p f).ptu p = f (s.ptu p) := State.ptu_setPtu s1 p f
  refine Does.of_exec (congrArg Host.Outcome.next ((State.onReg_of_serving hserve _).trans hop)) ⟨?_, ?_, ?_, rfl⟩
  · rw [hptu]
  · rw [hptu]
  · exact (State.rf_wf_same h (F.PTU_CTL.SEED p) _ (Nat.le_of_ble_eq_true rfl)).trans (Nat.mod_eq_of_lt seed.isLt)

theorem State.startInv_accepted {s : State} {p : Port} {o : InvOp} (hkind : s.kind p = .nonCaching) (h : s.invRefused p = false) :
    ∃ x : PortSt, x.ptu.tlb = (s.ptu p).tlb.map (fun e => if e.v && o.entry e.ctx e.vpn e.sz then e.cleared else e) ∧
      s.startInv p o = (s.wb (F.PTU_INV_STAT.BUSY p) true).setPort p (fun _ => x) := by
  unfold State.startInv
  rw [State.hasPtu_of_nonCaching hkind, h]
  exact ⟨_, rfl, rfl⟩

theorem State.startInv_refused {s : State} {p : Port} {o : InvOp} (hkind : s.kind p = .nonCaching) (h : s.invRefused p = true) :
    s.startInv p o = s.wb (F.PTU_INV_STAT.REFUSED p) true := by
  rw [State.startInv, State.hasPtu_of_nonCaching hkind, h]
  rfl

/-- An invalidation that is not refused clears the entries it names; a refused one clears none (R305, R306). -/
theorem startInv_does {s : State} (h : Inv.registers s) {p : Port} (hkind : s.kind p = .nonCaching) {c : Instr} {o : InvOp}
    (hc : exec c s = .next (s.startInv p o)) :
    (s.invRefused p = false → Does c s (fun t => t.rb (F.PTU_INV_STAT.BUSY p) = true ∧
      (∀ i : Fin 128, let e := (s.ptu p).tlb.get i;
        (t.ptu p).tlb.get i = if e.v && o.entry e.ctx e.vpn e.sz then e.cleared else e) ∧
      t = { s with regs := t.regs, ports := t.ports })) ∧
    (s.invRefused p = true → Does c s (fun t => t.rb (F.PTU_INV_STAT.REFUSED p) = true ∧ t = { s with regs := t.regs })) := by
  refine ⟨fun hfree => ?_, fun hbusy => ?_⟩
  · obtain ⟨x, htlb, hop⟩ := State.startInv_accepted (o := o) hkind hfree
    refine Does.of_exec (hc.trans (congrArg Host.Outcome.next hop)) ⟨State.rb_wb_same h _ _ (Nat.le_of_ble_eq_true rfl) rfl, fun i => ?_, rfl⟩
    have hptu : ((s.wb (F.PTU_INV_STAT.BUSY p) true).setPort p (fun _ => x)).ptu p = x.ptu :=
      congrArg PortSt.ptu (State.port_setPort _ p _)
    rw [hptu, htlb]
    simp [Vector.get_eq_getElem]
  · exact Does.of_exec (hc.trans (congrArg Host.Outcome.next (State.startInv_refused hkind hbusy)))
      ⟨State.rb_wb_same h _ _ (Nat.le_of_ble_eq_true rfl) rfl, rfl⟩

theorem tlbInv_completes {s : State} (h : Inv.registers s) {p : Port} (hbusy : s.rb (F.PTU_INV_STAT.BUSY p) = true)
    (hwaits : (s.ptu p).invWaits = []) (hmarked : ∀ w ∈ (s.ptu p).walks, w.marked = false) :
    Does (.tlbInvComplete p) s (fun t => t.rb (F.PTU_INV_STAT.BUSY p) = false ∧ t.rb (F.PTU_INV_STAT.DONE p) = true ∧
      Raised t 118 ∧ t = { s with regs := t.regs, mon := t.mon }) := by
  let s1 := s.wb (F.PTU_INV_STAT.BUSY p) false
  let s2 := s1.wb (F.PTU_INV_STAT.DONE p) true
  have h1 : Inv.registers s1 := State.wb_regs_wf h _ _
  have hno : (s.ptu p).walks.any Walk.marked = false := by simpa using hmarked
  have hop : opTlbInvComplete p s = (s2.count (ptuCtr p 0xD)).raise 118 (unitPort p) := by
    refine if_pos ?_
    rw [hbusy, hwaits, hno]
    rfl
  obtain ⟨m, hm, -⟩ := State.count_eq s2 (ptuCtr p 0xD) 1
  rw [hm] at hop
  refine Does.of_exec (congrArg Host.Outcome.next hop) ⟨?_, ?_, State.raise_pend _ 118 _ (by decide), rfl⟩
  · exact (State.rb_wb_field h1 (F.PTU_INV_STAT.DONE p) (F.PTU_INV_STAT.BUSY p) true (by simp [F.PTU_INV_STAT.DONE, F.PTU_INV_STAT.BUSY])).trans
      (State.rb_wb_same h _ _ (Nat.le_of_ble_eq_true rfl) rfl)
  · exact State.rb_wb_same h1 (F.PTU_INV_STAT.DONE p) true (Nat.le_of_ble_eq_true rfl) rfl

/-- Settles O34. -/
theorem translationRegisters : Obligations.TranslationRegisters := by
  refine ⟨fun s p v seed hinv hserve hkind => ⟨ptuRootLo_writes hinv.2.1 hserve hkind v, ptuRootHi_writes hinv.2.1 hserve hkind v,
    ptuSeed_writes hinv.2.1 hserve hkind seed⟩, fun s p hinv hserve hkind => ⟨fun x hx => ?_, tlbInv_completes hinv.2.1⟩⟩
  have hon : ∀ f, Host.Outcome.next (s.onReg f) = (.next (f s) : Host.Outcome State Fault Refusal) := fun f =>
    congrArg Host.Outcome.next (State.onReg_of_serving hserve f)
  simp only [List.mem_cons, List.not_mem_nil, or_false] at hx
  obtain rfl | rfl | rfl := hx
  · exact startInv_does hinv.2.1 hkind (hon (opTlbInvAddr p))
  · exact startInv_does hinv.2.1 hkind (hon (opTlbInvCtx p))
  · exact startInv_does hinv.2.1 hkind (hon (opTlbInvAll p))

end Sys2Proof.Machine
end

section
/-! PROOFS. The end of a walk of a port whose front end holds no request (R291, R292, R298). -/

namespace Sys2Proof.Machine
open Sys2Proof

/-! ### The walks of a port -/

theorem PtuSt.walk_setWalk (x : PtuSt) (id k : WalkId) (v : Option Walk) :
    (x.setWalk id v).walk k = if k = id then v else x.walk k := by
  cases id <;> cases k <;> simp [PtuSt.setWalk, PtuSt.walk, vget_vset, eq_comm]

theorem PtuSt.mem_walks {x : PtuSt} {w : Walk} : w ∈ x.walks ↔ ∃ id, x.walk id = some w := by
  simp only [PtuSt.walks, List.mem_append, List.mem_filterMap, Option.mem_toList]
  constructor
  · rintro ((⟨i, -, hi⟩ | h) | h)
    · exact ⟨.demand i, hi⟩
    · exact ⟨.prefetch, h⟩
    · exact ⟨.speculative, h⟩
  · rintro ⟨i | _ | _, h⟩
    · exact .inl (.inl ⟨i, List.mem_finRange i, h⟩)
    · exact .inl (.inr h)
    · exact .inr h

/-- With one walk fewer, no descriptor read is due that was not due before. -/
theorem PtuSt.anyDue_setWalk_none {x : PtuSt} (h : x.anyDue = false) (id : WalkId) : (x.setWalk id none).anyDue = false := by
  rw [PtuSt.anyDue, List.any_eq_false] at h ⊢
  intro w hw
  obtain ⟨k, hk⟩ := PtuSt.mem_walks.mp hw
  rw [PtuSt.walk_setWalk] at hk
  split at hk
  · cases hk
  · exact h w (PtuSt.mem_walks.mpr ⟨k, hk⟩)

theorem PtuSt.walk_fill (x : PtuSt) (e : TlbEntry) (id : WalkId) : (x.fill e).walk id = x.walk id := by cases id <;> rfl
theorem PtuSt.anyDue_fill (x : PtuSt) (e : TlbEntry) : (x.fill e).anyDue = x.anyDue := rfl
theorem PtuSt.tlb_setWalk (x : PtuSt) (id : WalkId) (v : Option Walk) : (x.setWalk id v).tlb = x.tlb := by cases id <;> rfl
theorem PtuSt.tlb_fill_setWalk (x : PtuSt) (id : WalkId) (v : Option Walk) (e : TlbEntry) :
    ((x.setWalk id v).fill e).tlb = (x.fill e).tlb := by cases id <;> rfl

/-! ### The end of a walk -/

/-- The translation unit after a walk has ended with a leaf or a fault. -/
def PtuSt.afterEnd (x : PtuSt) (id : WalkId) (w : Walk) : WalkEnd → PtuSt
  | .leaf e => if w.marked then x.setWalk id none else (x.setWalk id none).fill e
  | .fault _ _ => x.setWalk id none

theorem PtuSt.walk_afterEnd (x : PtuSt) (id : WalkId) (w : Walk) (r : WalkEnd) : (x.afterEnd id w r).walk id = none := by
  have h : (x.setWalk id none).walk id = none := by rw [PtuSt.walk_setWalk, if_pos rfl]
  cases r with
  | fault c l => exact h
  | leaf e =>
    cases hm : w.marked with
    | true => exact (congrArg (fun y => PtuSt.walk y id) (if_pos hm)).trans h
    | false => exact (congrArg (fun y => PtuSt.walk y id) (if_neg (by simp [hm]))).trans ((PtuSt.walk_fill _ e id).trans h)

theorem PtuSt.anyDue_afterEnd {x : PtuSt} (hdue : x.anyDue = false) (id : WalkId) (w : Walk) (r : WalkEnd) :
    (x.afterEnd id w r).anyDue = false := by
  have h := PtuSt.anyDue_setWalk_none hdue id
  cases r with
  | fault c l => exact h
  | leaf e =>
    cases hm : w.marked with
    | true => exact (congrArg PtuSt.anyDue (if_pos hm)).trans h
    | false => exact (congrArg PtuSt.anyDue (if_neg (by simp [hm]))).trans ((PtuSt.anyDue_fill _ e).trans h)

theorem State.endWalk_eq (s : State) (p : Port) (id : WalkId) (w : Walk) (r : WalkEnd) (t : State)
    (ht : t = ((s.setPtu p (fun x => x.afterEnd id w r)).afterWalk p w r).prefetchWalkEnd p w r) :
    s.endWalk p id w r = t ∨ s.endWalk p id w r = t.count (ptuCtr p 5) := by
  subst ht
  cases r with
  | fault c l => cases id <;> simp [State.endWalk, PtuSt.afterEnd]
  | leaf e =>
    refine .inl ?_
    cases hm : w.marked with
    | true => cases id <;> simp [State.endWalk, PtuSt.afterEnd, hm]
    | false => cases id <;> simp [State.endWalk, PtuSt.afterEnd, hm, State.setPtu, State.setPort_setPort]

/-- A port without requests has none that awaits a walk. -/
theorem State.afterWalk_of_no_front {s : State} {p : Port} (hfront : (s.port p).front = []) (w : Walk) (r : WalkEnd) :
    s.afterWalk p w r = s := by
  refine congrArg (fun ps => { s with ports := ps }) (vmod_self s.ports p ?_)
  have hids : ∀ q : FrontReq → Bool, (if w.marked then ((s.port p).front.filter q).map FrontReq.id else []) = [] := by simp [hfront]
  simp only [hids]
  change (s.ports.get p).front = [] at hfront
  rw [hfront, List.map_nil, List.append_nil, ← hfront]

/-- Where no request waits, the end of a walk changes the port's translation unit and Drill, and counts. -/
theorem State.endWalk_spec {s : State} {p : Port} (hfront : (s.port p).front = []) (id : WalkId) (w : Walk) (r : WalkEnd) :
    ∃ (x : PortSt) (m : Monitor), s.endWalk p id w r = { s.setPort p (fun _ => x) with mon := m } ∧ x.front = [] ∧
      x.ptu = (s.ptu p).afterEnd id w r := by
  let s1 := s.setPtu p (fun x => x.afterEnd id w r)
  have h1 : s1.port p = { s.port p with ptu := (s.ptu p).afterEnd id w r } := State.port_setPort s p _
  have hwalk : s1.afterWalk p w r = s1 := State.afterWalk_of_no_front (by rw [h1]; exact hfront) w r
  obtain ⟨n, f, hf, hd⟩ : ∃ n f, (∀ x : PortSt, (f x).front = x.front ∧ (f x).ptu = x.ptu) ∧
      s1.prefetchWalkEnd p w r = (s1.setPort p f).count (ctrSel 2 p 0x17) n := ⟨_, _, fun _ => ⟨rfl, rfl⟩, rfl⟩
  obtain ⟨m, hm, -⟩ := State.count_eq (s1.setPort p f) (ctrSel 2 p 0x17) n
  have hport : s1.setPort p f = s.setPort p (fun _ => f (s1.port p)) := by
    rw [h1]
    exact State.setPort_setPort s p _ f
  rw [hport] at hm
  have heq := State.endWalk_eq s p id w r { s.setPort p (fun _ => f (s1.port p)) with mon := m }
    (by rw [hwalk, hd, hport, hm])
  have hx : (f (s1.port p)).front = [] ∧ (f (s1.port p)).ptu = (s.ptu p).afterEnd id w r := by
    rw [(hf _).1, (hf _).2, h1]
    exact ⟨hfront, rfl⟩
  rcases heq with heq | heq
  · exact ⟨_, _, heq, hx⟩
  · obtain ⟨k, hk, -⟩ := State.count_eq { s.setPort p (fun _ => f (s1.port p)) with mon := m } (ptuCtr p 5) 1
    exact ⟨_, k, heq.trans hk, hx⟩

/-! ### The read of a descriptor -/

theorem Does.mono {c : Instr} {s : State} {P Q : State → Prop} (h : Does c s P) (hpq : ∀ t, P t → Q t) : Does c s Q := by
  obtain ⟨t, ht, hsteady, hp⟩ := h
  exact ⟨t, ht, hsteady, hpq t hp⟩

theorem walkDescriptorRead_ends {s : State} {p : Port} {id : WalkId} {w : Walk} {d : BitVec 64} {r : WalkEnd}
    (hfront : (s.port p).front = []) (hdue : (s.ptu p).anyDue = false) (hwalk : (s.ptu p).walk id = some w) (hgot : w.got = some (0, d, false))
    (hend : s.walkGot p id w 0 d false = s.endWalk p id w r) : Does (.walkDescriptorRead p id) s (fun t =>
      t.ptu p = (s.ptu p).afterEnd id w r ∧ t = { s with ports := t.ports, mon := t.mon }) := by
  obtain ⟨x, m, hop, hxf, hxp⟩ := State.endWalk_spec hfront id w r
  have hport : (s.endWalk p id w r).port p = x := by
    rw [hop]
    exact State.port_setPort s p _
  have hptu : (s.endWalk p id w r).ptu p = (s.ptu p).afterEnd id w r := (congrArg PortSt.ptu hport).trans hxp
  have hrun : opWalkRead p id s = s.endWalk p id w r := by
    unfold opWalkRead
    rw [hwalk]
    dsimp only
    rw [hgot]
    dsimp only
    rw [hend]
    exact State.frontScan_of_still (by rw [hport]; exact hxf) (by rw [hptu]; exact PtuSt.anyDue_afterEnd hdue id w r)
  refine Does.of_exec (congrArg Host.Outcome.next hrun) ⟨hptu, ?_⟩
  rw [hop]
  rfl

theorem walkDescriptorRead_goes_on {s : State} {p : Port} {id : WalkId} {w : Walk} {d : BitVec 64} {a : SysAddr}
    (hfront : (s.port p).front = []) (hwalk : (s.ptu p).walk id = some w) (hgot : w.got = some (0, d, false))
    (hread : readDesc d w.level w.pa w.ctx (walkSrc id) = .pointer a) : exec (.walkDescriptorRead p id) s =
      .next (afterScan p 7 (s.setPtu p (fun x =>
        x.setWalk id (some { w with level := w.level + 1, table := a, due := true, got := none })))) := by
  refine congrArg Host.Outcome.next ?_
  have hstep : s.walkGot p id w 0 d false = s.setPtu p (fun x =>
      x.setWalk id (some { w with level := w.level + 1, table := a, due := true, got := none })) := by
    simp [State.walkGot, hread]
  have hnone : ((s.setPtu p (fun x =>
      x.setWalk id (some { w with level := w.level + 1, table := a, due := true, got := none }))).port p).front = [] := by
    rw [State.setPtu, State.port_setPort]
    exact hfront
  unfold opWalkRead
  rw [hwalk]
  dsimp only
  rw [hgot]
  dsimp only
  rw [hstep, State.frontScan, hnone]
  unfold State.frontPass
  rw [hnone]
  rfl

/-- Settles O35. -/
theorem walksEnd : Obligations.WalksEnd := by
  intro s p id w d hfront hdue hwalk hgot
  refine ⟨fun e hread => ?_, fun c hread => ?_, fun a hread => walkDescriptorRead_goes_on hfront hwalk hgot hread⟩
  · have hend : s.walkGot p id w 0 d false = s.endWalk p id w (.leaf e) := by simp [State.walkGot, hread]
    refine Does.mono (walkDescriptorRead_ends hfront hdue hwalk hgot hend) fun t ⟨hptu, hframe⟩ => ?_
    rw [hptu]
    refine ⟨PtuSt.walk_afterEnd _ id w _, fun hm => ?_, fun hm => ?_, hframe⟩
    · exact (congrArg PtuSt.tlb (if_pos hm)).trans (PtuSt.tlb_setWalk _ id none)
    · exact (congrArg PtuSt.tlb (if_neg (by simp [hm]))).trans (PtuSt.tlb_fill_setWalk _ id none e)
  · have hend : s.walkGot p id w 0 d false = s.endWalk p id w (.fault c w.level) := by simp [State.walkGot, hread]
    refine Does.mono (walkDescriptorRead_ends hfront hdue hwalk hgot hend) fun t ⟨hptu, hframe⟩ => ?_
    rw [hptu]
    exact ⟨PtuSt.walk_afterEnd _ id w _, PtuSt.tlb_setWalk _ id none, hframe⟩

end Sys2Proof.Machine
end

section
/-! PROOFS. Maintenance of a range of lines (R150, R152). -/

namespace Sys2Proof.Machine
open Sys2Proof

/-- The state after a write of GLB_MNT_CTL has stored its operation. -/
def State.mntOpSet (s : State) (op : BitVec 2) (sw : Bool) : State := (s.wf F.GLB_MNT_CTL.OP op.toNat).wb F.GLB_MNT_CTL.SW sw

section
variable {s : State} (h : Inv.registers s) (op : BitVec 2) (sw : Bool)
include h

theorem State.mntOpSet_registers : Inv.registers (s.mntOpSet op sw) := State.wb_regs_wf (State.wf_regs_wf h _ _) _ _

theorem State.rg_mntOpSet {o : Nat} (ho : Reg.GLB_MNT_CTL ≠ o) : (s.mntOpSet op sw).rg o = s.rg o :=
  (State.rg_wb_other (State.wf_regs_wf h _ _) F.GLB_MNT_CTL.SW _ _ ho).trans (State.rg_wf_other h F.GLB_MNT_CTL.OP _ _ ho)

theorem State.rf_mntOpSet (f : RField) (ho : Reg.GLB_MNT_CTL ≠ f.off) : (s.mntOpSet op sw).rf f = s.rf f :=
  congrArg (fun w => fld w f.lo f.width) (State.rg_mntOpSet h op sw ho)

theorem State.rb_mntOpSet (f : RField) (ho : Reg.GLB_MNT_CTL ≠ f.off) : (s.mntOpSet op sw).rb f = s.rb f :=
  congrArg (fun n => n != 0) (State.rf_mntOpSet h op sw f ho)

/-- What a range is tested against are the fabric and the memory map. -/
theorem State.rangeOk_mntOpSet (first n : Nat) : (s.mntOpSet op sw).rangeOk first n = s.rangeOk first n := by
  have hnode : (s.mntOpSet op sw).node = s.node := State.rf_mntOpSet h op sw F.GLB_NODE.NODE (by decide)
  have hsize : ∀ d, (s.mntOpSet op sw).sizeOf d = s.sizeOf d := fun d =>
    congrArg (fun w => 1 + fld w (9 + 3 * d) 3) (State.rg_mntOpSet h op sw (by decide))
  have hcap : (s.mntOpSet op sw).portCap = s.portCap :=
    congrArg (· * 2 ^ 32) (State.rf_mntOpSet h op sw F.GLB_MEMMAP.PORT_CAP (by decide))
  simp only [State.rangeOk, State.inFabric, State.abovePopulated, State.aboveTop, hnode, hsize, hcap]

end

theorem State.mntErr_spec {s : State} (h : Inv.registers s) {code : Nat} (hcode : code < 16) :
    (s.mntErr code).rf F.GLB_MNT_STAT.ERR_CODE = code ∧ (s.mntErr code).rb F.GLB_MNT_STAT.ERR = true ∧ Raised (s.mntErr code) 67 ∧
      s.mntErr code = { s with regs := (s.mntErr code).regs, mon := (s.mntErr code).mon } := by
  have h1 : Inv.registers (s.wf F.GLB_MNT_STAT.ERR_CODE code) := State.wf_regs_wf h _ _
  refine ⟨?_, State.rb_wb_same h1 F.GLB_MNT_STAT.ERR _ (by decide) rfl, State.raise_pend _ 67 _ (by decide), rfl⟩
  exact (State.rf_wf_field h1 F.GLB_MNT_STAT.ERR F.GLB_MNT_STAT.ERR_CODE _ (by decide)).trans
    ((State.rf_wf_same h F.GLB_MNT_STAT.ERR_CODE _ (by decide)).trans (Nat.mod_eq_of_lt hcode))

theorem State.mntDone_spec {s : State} (h : Inv.registers s) :
    s.mntDone.rb F.GLB_MNT_STAT.BUSY = false ∧ s.mntDone.rb F.GLB_MNT_STAT.DONE = true ∧ Raised s.mntDone 66 ∧
      s.mntDone = { s with regs := s.mntDone.regs, mon := s.mntDone.mon } := by
  have h1 : Inv.registers (s.wb F.GLB_MNT_STAT.BUSY false) := State.wb_regs_wf h _ _
  refine ⟨?_, State.rb_wb_same h1 F.GLB_MNT_STAT.DONE _ (by decide) rfl, State.raise_pend _ 66 _ (by decide), rfl⟩
  exact (State.rb_wb_field h1 F.GLB_MNT_STAT.DONE F.GLB_MNT_STAT.BUSY _ (by decide)).trans
    (State.rb_wb_same h F.GLB_MNT_STAT.BUSY _ (by decide) rfl)

/-! ### START -/

/-- A range is latched, and the operation is busy. -/
def State.mntLatch (s : State) (op : BitVec 2) (first n : Nat) : State :=
  ({ s with mnt := { op := op, next := first, left := n } } : State).wb F.GLB_MNT_STAT.BUSY true

/-- What a START by address does: it latches its range, ends at once, reports a bad range, or is refused. -/
theorem mntStart_range {s : State} (h : Inv.registers s) {op : BitVec 2} {key : Nat} (hop : op ≠ 3) (hkey : op = 2 → key = 0xA5)
    {c : Instr} (hc : exec c s = .next (s.mntStart op false key)) :
    let n := s.rf F.GLB_MNT_LEN.LINES
    let first := s.rf F.GLB_MNT_ADDR_HI.SA_HI * 2 ^ 25 + s.rf F.GLB_MNT_ADDR_LO.SA_LO
    (s.rb F.GLB_MNT_STAT.BUSY = false → s.refusing = false → 0 < n → s.rangeOk first n = true → Does c s (fun t =>
      t.mnt = { op := op, next := first, left := n } ∧ t.rb F.GLB_MNT_STAT.BUSY = true ∧
      t = { s with regs := t.regs, mnt := t.mnt })) ∧
    (s.rb F.GLB_MNT_STAT.BUSY = false → s.refusing = false → n = 0 → Does c s (fun t =>
      t.rb F.GLB_MNT_STAT.DONE = true ∧ Raised t 66 ∧ t = { s with regs := t.regs, mon := t.mon })) ∧
    (s.rb F.GLB_MNT_STAT.BUSY = false → s.refusing = false → 0 < n → s.rangeOk first n = false → Does c s (fun t =>
      t.rf F.GLB_MNT_STAT.ERR_CODE = 1 ∧ t.rb F.GLB_MNT_STAT.ERR = true ∧ Raised t 67 ∧
      t = { s with regs := t.regs, mon := t.mon })) ∧
    (s.rb F.GLB_MNT_STAT.BUSY = true → Does c s (fun t => t.rb F.GLB_MNT_STAT.REFUSED = true ∧ Raised t 67 ∧
      t = { s with regs := t.regs, mon := t.mon })) := by
  intro n first
  let s1 := s.mntOpSet op false
  have h1 : Inv.registers s1 := State.mntOpSet_registers h op false
  have hlen : s1.rf F.GLB_MNT_LEN.LINES = n := State.rf_mntOpSet h op false _ (by decide)
  have hfirst : s1.rf F.GLB_MNT_ADDR_HI.SA_HI * 2 ^ 25 + s1.rf F.GLB_MNT_ADDR_LO.SA_LO = first := by
    rw [State.rf_mntOpSet h op false _ (by decide), State.rf_mntOpSet h op false _ (by decide)]
  have hbusy : s1.rb F.GLB_MNT_STAT.BUSY = s.rb F.GLB_MNT_STAT.BUSY := State.rb_mntOpSet h op false _ (by decide)
  have hrun : s.rb F.GLB_MNT_STAT.BUSY = false → s.refusing = false → s.mntStart op false key =
      if n = 0 then s1.mntDone else if !s.rangeOk first n then s1.mntErr 1
      else s1.mntLatch op first n := by
    intro hfree hstart
    have hno : (s1.rb F.GLB_MNT_STAT.BUSY || s1.refusing) = false := by
      rw [hbusy, hfree]
      exact hstart
    unfold State.mntStart
    change (if (s1.rb F.GLB_MNT_STAT.BUSY || s1.refusing) = true then _ else _) = _
    rw [hno, if_neg Bool.false_ne_true, if_neg hop, if_neg Bool.false_ne_true, if_neg (fun hk => hk.2 (hkey hk.1))]
    change (if s1.rf F.GLB_MNT_LEN.LINES = 0 then s1.mntDone else if !s1.rangeOk (s1.rf F.GLB_MNT_ADDR_HI.SA_HI * 2 ^ 25 +
      s1.rf F.GLB_MNT_ADDR_LO.SA_LO) (s1.rf F.GLB_MNT_LEN.LINES) then s1.mntErr 1
      else s1.mntLatch op (s1.rf F.GLB_MNT_ADDR_HI.SA_HI * 2 ^ 25 + s1.rf F.GLB_MNT_ADDR_LO.SA_LO) (s1.rf F.GLB_MNT_LEN.LINES)) = _
    rw [hlen, hfirst, State.rangeOk_mntOpSet h op false first n]
  refine ⟨fun hfree hstart hn hok => ?_, fun hfree hstart hn => ?_, fun hfree hstart hn hbad => ?_, fun hrunning => ?_⟩
  · have ht := (hrun hfree hstart).trans ((if_neg (by omega)).trans (if_neg (by rw [hok]; decide)))
    exact Does.of_exec (hc.trans (congrArg Host.Outcome.next ht)) ⟨rfl, State.rb_wb_same h1 F.GLB_MNT_STAT.BUSY _ (by decide) rfl, rfl⟩
  · have ht := (hrun hfree hstart).trans (if_pos hn)
    obtain ⟨-, hdone, hev, hframe⟩ := State.mntDone_spec h1
    exact Does.of_exec (hc.trans (congrArg Host.Outcome.next ht)) ⟨hdone, hev, hframe⟩
  · have ht := (hrun hfree hstart).trans ((if_neg (by omega)).trans (if_pos (by rw [hbad]; decide)))
    obtain ⟨hcode, herr, hev, hframe⟩ := State.mntErr_spec h1 (code := 1) (by decide)
    exact Does.of_exec (hc.trans (congrArg Host.Outcome.next ht)) ⟨hcode, herr, hev, hframe⟩
  · have ht : s.mntStart op false key = (s1.wb F.GLB_MNT_STAT.REFUSED true).raise 67 unitRegs :=
      if_pos (Bool.or_eq_true_iff.mpr (.inl (hbusy.trans hrunning)))
    exact Does.of_exec (hc.trans (congrArg Host.Outcome.next ht))
      ⟨State.rb_wb_same h1 F.GLB_MNT_STAT.REFUSED _ (by decide) rfl, State.raise_pend _ 67 _ (by decide), rfl⟩

/-- Settles O27. -/
theorem maintenanceByAddress : Obligations.MaintenanceByAddress := by
  refine ⟨fun s hinv hserve x hx => ?_, fun s hinv hbusy hsw => ⟨fun hleft hroom => ?_, fun hleft hflight hsets => ?_⟩⟩
  · have hon : ∀ f, Host.Outcome.next (s.onReg f) = (.next (f s) : Host.Outcome State Fault Refusal) := fun f =>
      congrArg Host.Outcome.next (State.onReg_of_serving hserve f)
    simp only [List.mem_cons, List.not_mem_nil, or_false] at hx
    obtain rfl | rfl | rfl := hx
    · exact mntStart_range hinv.2.1 (by decide) (by decide) (hon opMntCleanAddr)
    · exact mntStart_range hinv.2.1 (by decide) (by decide) (hon opMntFlushAddr)
    · exact mntStart_range (op := 2) (key := 0xA5) hinv.2.1 (by decide) (fun _ => rfl) (hon (opMntInvalAddr 0xA5))
  · have hgo : (s.rb F.GLB_MNT_STAT.BUSY && !s.mnt.sw && decide (0 < s.mnt.left) && decide
        ((s.mnt.inFlight.filter (fun x => sliceOf x == sliceOf (BitVec.ofNat 45 s.mnt.next))).length < 4)) = true := by
      rw [hbusy, hsw, decide_eq_true hleft, decide_eq_true hroom]
      rfl
    exact ⟨_, _, congrArg Host.Outcome.next (if_pos hgo), rfl, rfl, rfl, rfl⟩
  · have hop : opMntComplete s = s.mntDone := by
      unfold opMntComplete
      rw [hbusy, hsw]
      change (if s.mnt.left = 0 ∧ s.mnt.inFlight = [] ∧ s.mnt.sets = [] then s.mntDone else s) = _
      exact if_pos ⟨hleft, hflight, hsets⟩
    exact Does.of_exec (congrArg Host.Outcome.next hop) (State.mntDone_spec hinv.2.1)

end Sys2Proof.Machine
end

section
/-! PROOFS. A packet in transit (R351 to R355): it leaves at once where nothing waits, and its receive buffer goes back. -/

namespace Sys2Proof.Machine
open Sys2Proof

/-- A search through a list whose every hit is the same finds it. -/
theorem foldl_orElse_eq_some {α β : Type} {g : α → Option β} {r : β} : ∀ {l : List α}, (∀ i ∈ l, g i = none ∨ g i = some r) →
    (∃ i ∈ l, g i = some r) → l.foldl (fun a i => a.orElse (fun _ => g i)) none = some r
  | [], _, h => by simp at h
  | i :: l, hall, hex => by
    have hstay : ∀ l' : List α, l'.foldl (fun a i => a.orElse (fun _ => g i)) (some r) = some r := by
      intro l'
      induction l' with
      | nil => rfl
      | cons _ _ ih => exact ih
    rw [List.foldl_cons, Option.orElse_none]
    rcases hall i List.mem_cons_self with hi | hi
    · rw [hi]
      refine foldl_orElse_eq_some (fun j hj => hall j (List.mem_cons_of_mem _ hj)) ?_
      obtain ⟨j, hj, hr⟩ := hex
      rcases List.mem_cons.mp hj with rfl | hj
      · rw [hi] at hr
        cases hr
      · exact ⟨j, hj, hr⟩
    · rw [hi]
      exact hstay l

/-- The oldest waiting packet of a kind, when the next receiver has room for it. -/
def StileSt.firstOf (x : StileSt) (q : StilePkt → Bool) : Option (StileWait × List StileWait) :=
  match takeFirst (fun (e : StileWait) => q e.pkt) x.wait with
  | some (e, rest) => if x.room e then some (e, rest) else none
  | none => none

theorem StileSt.pick_eq {x : StileSt} (hcur : x.cur = none) : x.pick = (x.firstOf (fun p => hdrB p.hdr)).orElse (fun _ =>
    (List.range 10).foldl (fun a i =>
      a.orElse (fun _ => x.firstOf (fun p => !hdrB p.hdr && (pktVc p).val == (x.rr + 1 + i) % 10))) none) := by
  have hstep : ∀ a : Option (StileWait × List StileWait), ∀ b, (match a with | some r => some r | none => b) = a.orElse (fun _ => b) := by
    rintro (_ | _) b <;> rfl
  unfold StileSt.pick
  rw [hcur, if_neg (by simp)]
  simp only [← hstep]
  rfl

/-- The arbiter picks the one packet that waits, when the next receiver has room for it. -/
theorem StileSt.pick_single {x : StileSt} {w : StileWait} (hcur : x.cur = none) (hwait : x.wait = [w]) (hroom : x.room w = true) :
    x.pick = some (w, []) := by
  have hfirst : ∀ q : StilePkt → Bool, x.firstOf q = if q w.pkt then some (w, []) else none := by
    intro q
    unfold StileSt.firstOf
    rw [hwait]
    cases hq : q w.pkt <;> simp [takeFirst, hq, hroom]
  rw [StileSt.pick_eq hcur]
  cases hb : hdrB w.pkt.hdr with
  | true => rw [hfirst, if_pos hb, Option.orElse_some]
  | false =>
    rw [hfirst, if_neg (by simp [hb]), Option.orElse_none]
    refine foldl_orElse_eq_some (fun i _ => ?_) ⟨((pktVc w.pkt).val + 19 - x.rr % 10) % 10, ?_, ?_⟩
    · rw [hfirst]
      exact (ite_eq_or_eq _ _ _).symm
    · exact List.mem_range.mpr (Nat.mod_lt _ (by decide))
    · have hvc := (pktVc w.pkt).isLt
      rw [hfirst]
      refine if_pos ?_
      simp only [hb, Bool.not_false, Bool.true_and, beq_iff_eq]
      omega

theorem StileSt.spend_link (x : StileSt) (w : StileWait) : (x.spend w).link = x.link := by
  unfold StileSt.spend
  split <;> rfl

/-- The link's state when its one waiting packet has been picked. -/
def StileSt.picked (x : StileSt) (w : StileWait) : StileSt := { (x.spend w) with wait := [], cur := none }

/-- A packet that meets an empty queue is picked and handed to the transmitter, and its buffer goes back. -/
theorem State.queueStile_of_room {s : State} {o : LinkNo} {k : StilePkt} {b : LinkNo × BitVec 3 × Bool × Nat} (hwait : (s.stile o).wait = [])
    (hcur : (s.stile o).cur = none) (hroom : (s.stile o).room { pkt := k, since := s.fine, size := pktSlots k } = true) :
    ∃ w m, s.queueStile o k (some b) none = ((({ s with mon := m } : State).setStile o (fun x => x.picked w)).transmit (.stile o) (stileSlots k)
      (.stile o k)).sendCtl (.stile b.1) (.vcc b.2.1 b.2.2.1 b.2.2.2) := by
  let w : StileWait := { pkt := k, since := s.fine, buf := some b, size := pktSlots k }
  let s1 := s.setStile o (fun x => { x with wait := x.wait ++ [w] })
  have hstile : s1.stile o = { s.stile o with wait := [w] } := by
    rw [State.stile_setStile, hwait]
    rfl
  have hpick : (s1.stile o).pick = some (w, []) := by
    rw [hstile]
    exact StileSt.pick_single hcur rfl hroom
  let s2 := s.setStile o (fun x => x.picked w)
  have hs2 : s1.setStile o (fun x => x.picked w) = s2 := by
    have hpicked : ∀ (x : StileSt) (l : List StileWait), StileSt.picked { x with wait := l } w = x.picked w := by
      intro x l
      unfold StileSt.picked StileSt.spend
      split <;> rfl
    rw [State.setStile_setStile]
    simp only [hpicked]
    rfl
  obtain ⟨m, hm⟩ : ∃ m, (if hdrB k.hdr then s2.count (ctrSel 5 o 6) else s2) = { s2 with mon := m } := by
    split
    · obtain ⟨m, hm, -⟩ := State.count_eq s2 (ctrSel 5 o 6) 1
      exact ⟨m, hm⟩
    · exact ⟨s2.mon, rfl⟩
  refine ⟨w, m, ?_⟩
  have hrun : s.queueStile o k (some b) none = State.pumpStile o 1 s1 := by
    show State.pumpStile o (s1.stile o).wait.length s1 = _
    rw [hstile]
    rfl
  rw [hrun]
  unfold State.pumpStile
  rw [hpick]
  show (((if hdrB k.hdr then (s1.setStile o (fun x => x.picked w)).count (ctrSel 5 o 6) else s1.setStile o (fun x => x.picked w)).transmitSlots
    (.stile o) (txOf (.stile o k) (stileSlots k))).returnBuf (some b)) = _
  rw [hs2, hm]
  rfl

/-- Settles O23. -/
theorem packetsMoveOn : Obligations.PacketsMoveOn := by
  intro s l k dim minus hnext hdst o dl k' b hclear hclearO hwait hcur hroom
  have hactive : s.linkActive l = true := State.linkActive_of_clear hclear
  have hexit : s.exit (some (l.val / 2)) k.hdr dim minus = some (o, k'.hdr, false) := if_pos (State.linkActive_of_clear hclearO)
  have hop : opStileForward l k s = s.queueStile o k' (some b) none := by
    unfold opStileForward
    rw [if_neg (by simp [hdst, hactive]), State.routeStile, hnext]
    dsimp only
    rw [hexit]
    rfl
  obtain ⟨w, m, hqueue⟩ := State.queueStile_of_room (b := b) hwait hcur hroom
  let u : State := ({ s with mon := m } : State).setStile o (fun x => x.picked w)
  have hlinkU : ∀ j, (u.stile j).link = (s.stile j).link := by
    intro j
    by_cases hj : o = j
    · subst hj
      exact (congrArg StileSt.link (State.stile_setStile { s with mon := m } o _)).trans (StileSt.spend_link _ w)
    · exact congrArg StileSt.link (State.stile_setStile_of_ne { s with mon := m } hj _)
  obtain ⟨hactO, hemptyO, hopenO, hreplayO⟩ := hclearO
  obtain ⟨hact, hempty, hopen, hreplay⟩ := hclear
  have hslots : flitsFor (stileSlots k').length ≤ 4 := by
    have := payloadSlots_length_le k'.payload
    simp only [stileSlots, List.length_cons, flitsFor]
    omega
  have hlinkO : u.linkSt (.stile o) = s.linkSt (.stile o) := hlinkU o
  obtain ⟨y, n, hsend, hoff, -, hlen⟩ := State.transmit_of_room (s := u) (u := .stile o) (slots := stileSlots k')
    ((State.linkState_congr (s := s) rfl _).trans hactO) (by rw [hlinkO]; exact hemptyO) (by rw [hlinkO]; exact hopenO)
    (List.cons_ne_nil _ _) (by rw [hlinkO]; omega) (.stile o k')
  let v : State := u.passed (.stile o) y n (.stile o k')
  have hbuf : b.1 = l := by
    show (hdrBuf l k.hdr (pktSlots k)).1 = l
    unfold hdrBuf
    split <;> rfl
  have hstile : ∀ j, v.stile j = if LinkUnit.stile o = .stile j then { u.stile j with link := y } else u.stile j := fun j =>
    State.stile_setLink { u with mon := n } (.stile o) (fun _ => y) j
  have hv : (v.linkSt (.stile l)).txSlots = [] ∧ (v.linkSt (.stile l)).txOpen = false ∧ (v.linkSt (.stile l)).replay.length ≤ 252 := by
    show (v.stile l).link.txSlots = [] ∧ (v.stile l).link.txOpen = false ∧ (v.stile l).link.replay.length ≤ 252
    rw [hstile l]
    split
    · rw [hlinkO] at hoff hlen
      rw [LinkSt.sentOff] at hoff
      refine ⟨?_, ?_, show y.replay.length ≤ 252 by omega⟩
      · rw [hoff]
        exact hemptyO
      · rw [hoff]
        exact hopenO
    · rw [hlinkU]
      exact ⟨hempty, hopen, Nat.le_trans hreplay (by decide)⟩
  obtain ⟨hv1, hv2, hv3⟩ := hv
  obtain ⟨z, q, hback, -, -, -⟩ := State.transmit_of_room (s := v) (u := .stile l) (slots := [ctlSlot (.vcc b.2.1 b.2.2.1 b.2.2.2)])
    ((State.linkState_congr (s := s) rfl _).trans hact) hv1 hv2 (List.cons_ne_nil _ _)
    (Nat.add_le_add hv3 (show flitsFor 1 ≤ 4 by decide)) (.ctl (.stile l) (.vcc b.2.1 b.2.2.1 b.2.2.2))
  have hrun : opStileForward l k s = v.passed (.stile l) z q (.ctl (.stile l) (.vcc b.2.1 b.2.2.1 b.2.2.2)) := by
    rw [hop, hqueue, hbuf, hsend]
    exact hback
  refine Does.of_exec (congrArg Host.Outcome.next hrun) ⟨?_, ?_, rfl⟩
  · show (s.sent ++ [Sent.stile o k']) ++ [Sent.ctl (.stile l) (.vcc b.2.1 b.2.2.1 b.2.2.2)] = _
    rw [List.append_assoc]
    rfl
  · have hlast := State.stile_setLink { v with mon := q } (.stile l) (fun _ => z) o
    have hvwait : (v.stile o).wait = [] := by
      rw [hstile o, if_pos rfl]
      exact congrArg StileSt.wait (State.stile_setStile { s with mon := m } o _)
    refine (congrArg StileSt.wait hlast).trans ?_
    split
    · exact hvwait
    · exact hvwait

end Sys2Proof.Machine
end

section
/-! PROOFS. Temperature limits (R454, R455) and the adaptive core voltage (R452, R453). -/

namespace Sys2Proof.Machine
open Sys2Proof

/-! ### Readings of the temperature -/

/-- The fields of PWR_THERM_STAT stand apart. -/
def Apart (f g : RField) : Prop := g.lo + g.width ≤ f.lo ∨ f.lo + f.width ≤ g.lo

/-- `t` differs from `s` in status and in PWR_THERM_STAT. -/
structure Warmed (s t : State) : Prop where
  registers : Inv.registers t
  other : ∀ o, Reg.PWR_THERM_STAT ≠ o → t.rg o = s.rg o
  frame : t = { s with regs := t.regs, mon := t.mon }

theorem Warmed.trans {s t u : State} (h : Warmed s t) (h' : Warmed t u) : Warmed s u where
  registers := h'.registers
  other := fun o ho => (h'.other o ho).trans (h.other o ho)
  frame := by rw [h'.frame, h.frame]

theorem Warmed.limitOf {s t : State} (h : Warmed s t) (f : RField) (hf : Reg.PWR_THERM_STAT ≠ f.off) : t.limitOf f = s.limitOf f := by
  unfold State.limitOf State.rf
  rw [h.other f.off hf]

theorem State.warmed_wf {s : State} (h : Inv.registers s) (f : RField) (hf : f.off = Reg.PWR_THERM_STAT) (v : Nat) : Warmed s (s.wf f v) where
  registers := State.wf_regs_wf h f v
  other := fun o ho => State.rg_wf_other h f v o (by rwa [hf])
  frame := rfl

theorem State.warmed_raiseBare {s : State} (h : Inv.registers s) (ev u : Nat) : Warmed s (s.raiseBare ev u) := ⟨h, fun _ _ => rfl, rfl⟩

/-- A warning writes the temperature and, where it rises over the limit, the warning bit. -/
theorem State.warn_spec {s : State} (h : Inv.registers s) {temp wn : RField} (htemp : temp.off = Reg.PWR_THERM_STAT) (hwn : wn.off = Reg.PWR_THERM_STAT)
    (hfit : temp.lo + temp.width ≤ 32) (hwidth : temp.width = 11) (hapart : Apart wn temp) (ev : Nat) (t : Int) :
    Warmed s (s.warn temp wn ev t) ∧ (s.warn temp wn ev t).rf temp = (tempWord t).toNat ∧
      ∀ g, Apart temp g → Apart wn g → (s.warn temp wn ev t).rf g = s.rf g := by
  have h1 := State.warmed_wf h temp htemp (tempWord t).toNat
  have hval : (s.wf temp (tempWord t).toNat).rf temp = (tempWord t).toNat := by
    rw [State.rf_wf_same h temp _ hfit, hwidth]
    exact Nat.mod_eq_of_lt (tempWord t).isLt
  unfold State.warn
  dsimp only
  split
  · have h2 := State.warmed_wf h1.registers wn hwn (true : Bool).toNat
    refine ⟨(h1.trans h2).trans (State.warmed_raiseBare h2.registers _ _), ?_, fun g hg hw => ?_⟩
    · exact (State.rf_wf_field h1.registers wn temp _ hapart).trans hval
    · exact (State.rf_wf_field h1.registers wn g _ hw).trans (State.rf_wf_field h temp g _ hg)
  · exact ⟨h1, hval, fun g hg _ => State.rf_wf_field h temp g _ hg⟩

/-- A condition of the hotter die is shown from its limit on. -/
theorem State.hotter_spec {s : State} (h : Inv.registers s) {f lim : RField} (hf : f.off = Reg.PWR_THERM_STAT) (hfit : f.lo + f.width ≤ 32)
    (hwidth : f.width = 1) (ev : Nat) (t : Int) :
    Warmed s (s.hotter f lim ev t) ∧ (s.limitOf lim ≤ t → (s.hotter f lim ev t).rb f = true) ∧
      ∀ g, Apart f g → (s.hotter f lim ev t).rf g = s.rf g := by
  unfold State.hotter
  split
  · next hc =>
    have h1 := State.warmed_wf h f hf (true : Bool).toNat
    exact ⟨h1.trans (State.warmed_raiseBare h1.registers _ _), fun _ => State.rb_wb_same h f true hfit hwidth,
      fun g hg => State.rf_wf_field h f g _ hg⟩
  · next hc =>
    refine ⟨⟨h, fun _ _ => rfl, rfl⟩, fun hlim => ?_, fun _ _ => rfl⟩
    by_contra hno
    exact hc ⟨hlim, by simpa using hno⟩

/-- How long the release temperature has held is the power unit's. -/
theorem State.cooling_eq (s : State) (t : Int) : s.cooling t = { s with pwr := (s.cooling t).pwr } := by
  unfold State.cooling
  split <;> rfl

theorem thermalReading_shows {s : State} (h : Inv.registers s) {tW tE : Int} (hon : s.coreOn = true) (hcool : max tW tE < 540) :
    Does (.thermalReading tW tE) s (fun t =>
      t.rf F.PWR_THERM_STAT.TEMP_W = (tempWord tW).toNat ∧ t.rf F.PWR_THERM_STAT.TEMP_E = (tempWord tE).toNat ∧
      (s.limitOf F.PWR_THERM_CFG.THROT ≤ max tW tE → t.rb F.PWR_THERM_STAT.THROTTLING = true) ∧
      (s.limitOf F.PWR_THERM_CFG.CRIT ≤ max tW tE → t.rb F.PWR_THERM_STAT.CRITICAL = true) ∧
      t = { s with regs := t.regs, mon := t.mon, pwr := t.pwr }) := by
  let s1 := s.warn F.PWR_THERM_STAT.TEMP_W F.PWR_THERM_STAT.WARN_W 201 tW
  let s2 := s1.warn F.PWR_THERM_STAT.TEMP_E F.PWR_THERM_STAT.WARN_E 202 tE
  let s3 := s2.hotter F.PWR_THERM_STAT.THROTTLING F.PWR_THERM_CFG.THROT 203 (max tW tE)
  let s4 := s3.hotter F.PWR_THERM_STAT.CRITICAL F.PWR_THERM_CFG.CRIT 204 (max tW tE)
  obtain ⟨w1, htW, -⟩ := State.warn_spec h (temp := F.PWR_THERM_STAT.TEMP_W) (wn := F.PWR_THERM_STAT.WARN_W) rfl rfl (by decide) rfl
    (by unfold Apart; decide) 201 tW
  obtain ⟨w2, htE, hk2⟩ := State.warn_spec w1.registers (temp := F.PWR_THERM_STAT.TEMP_E) (wn := F.PWR_THERM_STAT.WARN_E) rfl rfl (by decide) rfl
    (by unfold Apart; decide) 202 tE
  obtain ⟨w3, hthr, hk3⟩ := State.hotter_spec w2.registers (f := F.PWR_THERM_STAT.THROTTLING) (lim := F.PWR_THERM_CFG.THROT) rfl (by decide) rfl
    203 (max tW tE)
  obtain ⟨w4, hcrit, hk4⟩ := State.hotter_spec w3.registers (f := F.PWR_THERM_STAT.CRITICAL) (lim := F.PWR_THERM_CFG.CRIT) rfl (by decide) rfl
    204 (max tW tE)
  have hop : opThermal tW tE s = s4.cooling (max tW tE) := by
    unfold opThermal
    rw [hon]
    exact (if_neg (by decide)).trans (if_neg (by omega))
  have hregs : (s4.cooling (max tW tE)).regs = s4.regs := by rw [State.cooling_eq]
  have hframe : s4 = { s with regs := s4.regs, mon := s4.mon } := (((w1.trans w2).trans w3).trans w4).frame
  refine Does.of_exec (congrArg Host.Outcome.next hop) ⟨?_, ?_, fun hlim => ?_, fun hlim => ?_, ?_⟩
  · rw [State.rf_congr hregs, hk4 _ (by unfold Apart; decide), hk3 _ (by unfold Apart; decide), hk2 _ (by unfold Apart; decide)
      (by unfold Apart; decide)]
    exact htW
  · rw [State.rf_congr hregs, hk4 _ (by unfold Apart; decide), hk3 _ (by unfold Apart; decide)]
    exact htE
  · rw [State.rb_congr hregs, State.rb, hk4 _ (by unfold Apart; decide)]
    exact hthr (by rwa [(w1.trans w2).limitOf _ (by decide)])
  · rw [State.rb_congr hregs]
    exact hcrit (by rwa [((w1.trans w2).trans w3).limitOf _ (by decide)])
  · rw [State.cooling_eq s4, hframe]

/-! ### Readings of the supply -/

theorem State.setVmon_eq (s : State) (d : Fin 2) (mv : Nat) : ∃ a, s.setVmon d mv = { s with prm := a } ∧ a.vmon = vset s.prm.vmon d mv := by
  unfold State.setVmon
  obtain ⟨n, hn⟩ := State.checkHold_prm (({ s with prm := { s.prm with vmon := vset s.prm.vmon d mv } } : State).floorsReached) s.troubled
  rw [hn]
  exact ⟨_, rfl, rfl⟩

theorem vector_ext {α : Type} {n : Nat} {v w : Vector α n} (h : ∀ i : Fin n, v.get i = w.get i) : v = w :=
  Vector.ext fun i hi => h ⟨i, hi⟩

theorem vset_get_self {α : Type} {n : Nat} (v : Vector α n) (i : Fin n) : vset v i (v.get i) = v :=
  vector_ext fun j => by
    rw [vget_vset]
    split
    · next h => rw [h]
    · rfl

theorem vset_both (v : Vector Nat 2) (a b : Nat) : vset (vset v 0 a) 1 b = #v[a, b] := by
  refine vector_ext fun i => ?_
  rw [vget_vset, vget_vset]
  fin_cases i <;> rfl

/-- The readings of both supplies. -/
def State.metered (s : State) (vw ve : Nat) : State := (s.setVmon 0 vw).setVmon 1 ve

theorem State.metered_eq (s : State) (vw ve : Nat) : ∃ a, s.metered vw ve = { s with prm := a } ∧ a.vmon = #v[vw, ve] := by
  obtain ⟨a, ha, hav⟩ := State.setVmon_eq s 0 vw
  obtain ⟨b, hb, hbv⟩ := State.setVmon_eq { s with prm := a } 1 ve
  refine ⟨b, ?_, ?_⟩
  · rw [State.metered, ha, hb]
  · rw [hbv]
    exact (congrArg (fun v => vset v 1 ve) hav).trans (vset_both _ vw ve)

/-! ### Trips -/

theorem State.closeSession_cal (s : State) (tr : Transport) : (s.closeSession tr).cal = s.cal := by
  unfold State.closeSession
  split <;> rfl

theorem State.trip_spec (s : State) : s.trip.pwr.st = .trip ∧ s.trip.coh.ddr = Vector.replicate 2 [] ∧
    s.trip.coh.sram = Vector.replicate 8 [] ∧ s.trip.cal = s.cal := by
  let s1 := s.note noEvent unitPower (s.bareDetail noEvent)
  have hclose : ((s1.closeSession .i3c).closeSession .inband).cal = s.cal :=
    (State.closeSession_cal _ .inband).trans (State.closeSession_cal s1 .i3c)
  obtain ⟨m, hm, -⟩ := State.count_eq (s1.coreLost .trip false false) (powerCtr 10) 1
  have htrip : s.trip = { s1.coreLost .trip false false with mon := m } := hm
  rw [htrip]
  exact ⟨rfl, rfl, rfl, hclose⟩

theorem State.mainEn_of_trip {s : State} (h : s.pwr.st = .trip) : s.mainEn = false := by
  unfold State.mainEn
  rw [h]

theorem State.memEn_of_trip {s : State} (h : s.pwr.st = .trip) : s.memEn = false := by
  rw [State.memEn, State.mainEn_of_trip h, h]
  rfl

/-- Both regulators set to 0.80 V. -/
def Power.started (x : Power) : Power := { x with command := Vector.replicate 2 800 }

/-- Both commands to the regulators have gone out, each with its free word. -/
def State.vddcSent (s : State) : State :=
  let s1 := (s.emit (.pmbus false 0x21 (Config.startVout s.freeCtr))).drawn
  (s1.emit (.pmbus true 0x21 (Config.startVout s1.freeCtr))).drawn

theorem State.vddcSent_frame (s : State) : s.vddcSent = { s with sent := s.vddcSent.sent, freeCtr := s.vddcSent.freeCtr } := rfl

theorem State.startVddc_metered (s : State) : s.startVddc = (s.vddcSent.setPwr Power.started).metered 800 800 := rfl

/-- Both regulators are commanded: the power unit, the readings of the supply, the draws and what was sent change. -/
theorem State.startVddc_eq (s : State) : ∃ a b c, s.startVddc = { s with prm := a, pwr := s.pwr.started, sent := b, freeCtr := c } := by
  obtain ⟨a, ha, -⟩ := State.metered_eq (s.vddcSent.setPwr Power.started) 800 800
  refine ⟨a, s.vddcSent.sent, s.vddcSent.freeCtr, ?_⟩
  rw [State.startVddc_metered, ha, State.vddcSent_frame]
  rfl

/-- R401: a boot from step 2 goes to the reading of slot A in RUN. -/
theorem State.bootFrom2_spec {s : State} (h : Inv.registers s) : s.bootFrom2.rf F.IMG_STAT.STAGE = 3 ∧ s.bootFrom2.pwr.st = .run ∧
    Inv.registers s.bootFrom2 := by
  let s1 := ((s.closeSession .i3c).closeSession .inband).coreReset
  have hs1 : Inv.registers s1 := State.coreReset_registers (by
    rw [Inv.registers, State.closeSession_regs, State.closeSession_regs]
    exact h)
  obtain ⟨m, hm, -⟩ := State.count_eq s1 (startCtr 0) 1
  have hboot : s.bootFrom2 = (({ s1 with mon := m } : State).startVddc).wf F.IMG_STAT.STAGE 3 := by
    rw [← hm]
    rfl
  obtain ⟨a, b, c, hvddc⟩ := State.startVddc_eq { s1 with mon := m }
  have hreg : Inv.registers ({ s1 with mon := m } : State).startVddc := by
    rw [hvddc]
    exact hs1
  rw [hboot]
  refine ⟨State.rf_wf_same hreg _ _ (by decide), ?_, State.wf_regs_wf hreg _ _⟩
  show ({ s1 with mon := m } : State).startVddc.pwr.st = .run
  rw [hvddc]
  rfl

theorem tripRecovery_boots {s : State} (h : Inv.registers s) {f : Option FlashInfo} (htrip : s.pwr.st = .trip) :
    Does (.tripRecovery f) s (fun t => t.rf F.IMG_STAT.STAGE = 3 ∧ t.rb F.PWR_STAT.TRIP = true ∧ t.pwr.st = .run ∧ t.mainEn = true) := by
  obtain ⟨hstage, hrun, hreg⟩ := State.bootFrom2_spec (s := s.discovered f) h
  have hop : opTripRecovery f s = (s.discovered f).bootFrom2.wb F.PWR_STAT.TRIP true := if_pos (by rw [htrip]; rfl)
  refine Does.of_exec (congrArg Host.Outcome.next hop) ⟨?_, State.rb_wb_same hreg _ _ (by decide) rfl, hrun, ?_⟩
  · refine Eq.trans ?_ hstage
    exact congrArg (fun w => fld w _ _) (State.rg_wb_other hreg F.PWR_STAT.TRIP _ Reg.IMG_STAT (by decide))
  · show State.mainEn _ = true
    unfold State.mainEn
    rw [show ((s.discovered f).bootFrom2.wb F.PWR_STAT.TRIP true).pwr.st = .run from hrun]

theorem throttleRelease_releases {s : State} (h : Inv.registers s) {since : Nat} (hsince : s.pwr.throttleSince = some since)
    (hlong : since + 1000000 ≤ s.fine) : Does .throttleRelease s (fun t =>
      t.rb F.PWR_THERM_STAT.THROTTLING = false ∧ t.rb F.PWR_THERM_STAT.CRITICAL = false ∧ t = { s with regs := t.regs }) := by
  have h1 : Inv.registers (s.wb F.PWR_THERM_STAT.THROTTLING false) := State.wb_regs_wf h _ _
  have hop : opRelease s = (s.wb F.PWR_THERM_STAT.THROTTLING false).wb F.PWR_THERM_STAT.CRITICAL false := by
    unfold opRelease
    rw [hsince]
    exact if_pos hlong
  refine Does.of_exec (congrArg Host.Outcome.next hop) ⟨?_, State.rb_wb_same h1 _ _ (by decide) rfl, rfl⟩
  exact (State.rb_wb_field h1 F.PWR_THERM_STAT.CRITICAL F.PWR_THERM_STAT.THROTTLING _ (by decide)).trans
    (State.rb_wb_same h _ _ (by decide) rfl)

/-! ### The adaptive core voltage -/

/-- The power unit with new uplifts and commands. -/
def Power.supplied (x : Power) (u c : Vector Nat 2) : Power := { x with uplift := u, command := c }

theorem State.commandVddc_eq (s : State) (d : Fin 2) (mv : Nat) : ∃ l,
    s.commandVddc d mv = { s with pwr := s.pwr.supplied s.pwr.uplift (vset s.pwr.command d mv), sent := l } := by
  unfold State.commandVddc
  split
  · next hsame =>
    rw [← hsame, vset_get_self]
    exact ⟨s.sent, rfl⟩
  · exact ⟨_, rfl⟩

/-- The uplift of a die after an update. -/
def State.upliftOf (s : State) (d : Fin 2) (fail tests : Nat) : Nat :=
  if s.curMode = 1 then 0
  else nextUplift (s.rf F.PWR_VDDC_CFG.UP_PCT) (s.rf F.PWR_VDDC_CFG.DN_PCT) (s.pwr.uplift.get d) fail tests

/-- What the controller does to a die is seen in the power unit and in what is sent. -/
theorem State.adaptDie_eq (s : State) (d : Fin 2) (fail tests : Nat) : ∃ c l, s.adaptDie d fail tests =
    { s with pwr := s.pwr.supplied (vset s.pwr.uplift d (s.upliftOf d fail tests)) c, sent := l } := by
  obtain ⟨l, hl⟩ := State.commandVddc_eq { s with pwr := s.pwr.supplied (vset s.pwr.uplift d (s.upliftOf d fail tests)) s.pwr.command } d
    (s.vddcFor (s.upliftOf d fail tests))
  exact ⟨_, _, hl⟩

/-! ### The update of the core voltage -/

/-- The supply is read; a throttled millisecond is counted. -/
def State.supplyRead (s : State) (vw ve : Nat) : State :=
  let s1 := s.metered vw ve
  if s1.throttling then s1.count (powerCtr 9) else s1

theorem State.supplyRead_eq (s : State) (vw ve : Nat) : ∃ a m, s.supplyRead vw ve = { s with prm := a, mon := m } ∧ a.vmon = #v[vw, ve] := by
  obtain ⟨a, ha, hvmon⟩ := State.metered_eq s vw ve
  unfold State.supplyRead
  dsimp only
  rw [ha]
  split
  · obtain ⟨m, hm, -⟩ := State.count_eq { s with prm := a } (powerCtr 9) 1
    exact ⟨a, m, hm, hvmon⟩
  · exact ⟨a, s.mon, rfl, hvmon⟩

/-- The state with new readings of the supply, status, uplifts, commands and record of what was sent. -/
def State.adapted (s : State) (a : PromiseUnit) (m : Monitor) (u c : Vector Nat 2) (l : List Sent) : State :=
  { s with prm := a, mon := m, pwr := s.pwr.supplied u c, sent := l }

/-- An update moves the uplift of both dies, then the poll is judged. -/
theorem opAdaptive_eq {s : State} (hon : s.coreOn = true) (hadapt : s.adapting = true) (fw tw fe te vw ve : Nat) (poll : PmbPoll) :
    ∃ a m c l, a.vmon = #v[vw, ve] ∧
      let t := s.adapted a m (vset (vset s.pwr.uplift 0 (s.upliftOf 0 fw tw)) 1 (s.upliftOf 1 fe te)) c l
      opAdaptive fw tw fe te vw ve poll s =
        if poll.failed then ((t.wb F.PWR_PMB_STAT.FAIL true).count (powerCtr 8)).raiseBare 205 unitPower
        else (t.pollStatus false poll.statusW).pollStatus true poll.statusE := by
  obtain ⟨a, m, hread, hvmon⟩ := State.supplyRead_eq s vw ve
  let s2 : State := { s with prm := a, mon := m }
  obtain ⟨c, l, hw⟩ := State.adaptDie_eq s2 0 fw tw
  let s3 : State := s.adapted a m (vset s.pwr.uplift 0 (s.upliftOf 0 fw tw)) c l
  obtain ⟨c', l', he⟩ := State.adaptDie_eq s3 1 fe te
  have hother : s3.upliftOf 1 fe te = s.upliftOf 1 fe te := by
    have hget : (vset s.pwr.uplift 0 (s.upliftOf 0 fw tw)).get 1 = s.pwr.uplift.get 1 := by rw [vget_vset, if_neg (by decide)]
    unfold State.upliftOf
    exact congrArg (fun u => if s.curMode = 1 then 0
      else nextUplift (s.rf F.PWR_VDDC_CFG.UP_PCT) (s.rf F.PWR_VDDC_CFG.DN_PCT) u fe te) hget
  have hdies : (s2.adaptDie 0 fw tw).adaptDie 1 fe te =
      s.adapted a m (vset (vset s.pwr.uplift 0 (s.upliftOf 0 fw tw)) 1 (s.upliftOf 1 fe te)) c' l' := by
    rw [hw]
    refine he.trans ?_
    rw [hother]
    rfl
  refine ⟨a, m, c', l', hvmon, ?_⟩
  unfold opAdaptive
  rw [hon]
  change (if !(s.supplyRead vw ve).adapting then s.supplyRead vw ve
    else if poll.failed then (((((s.supplyRead vw ve).adaptDie 0 fw tw).adaptDie 1 fe te).wb F.PWR_PMB_STAT.FAIL true).count
      (powerCtr 8)).raiseBare 205 unitPower
    else ((((s.supplyRead vw ve).adaptDie 0 fw tw).adaptDie 1 fe te).pollStatus false poll.statusW).pollStatus true poll.statusE) = _
  rw [hread, hdies]
  exact if_neg (by rw [show ({ s with prm := a, mon := m } : State).adapting = s.adapting from rfl, hadapt]; decide)

/-- Settles O59. -/
theorem temperatureAndVoltage : Obligations.TemperatureAndVoltage := by
  refine ⟨fun s hinv => ⟨fun tW tE hon hhot => ?_, fun tW tE => thermalReading_shows hinv.2.1, fun since => throttleRelease_releases hinv.2.1,
    fun hon => ?_, fun f => tripRecovery_boots hinv.2.1⟩, fun s fw tw fe te vw ve hinv hon => ⟨fun hadapt hcool hmode => ?_, fun hadapt => ?_, fun v => ?_⟩⟩
  · have hop : opThermal tW tE s = s.trip := by
      unfold opThermal
      rw [hon]
      exact (if_neg (by decide)).trans (if_pos hhot)
    obtain ⟨hst, -, -, -⟩ := s.trip_spec
    exact Does.of_exec (congrArg Host.Outcome.next hop) ⟨hst, State.mainEn_of_trip hst, State.memEn_of_trip hst⟩
  · obtain ⟨hst, hddr, hsram, hcal⟩ := s.trip_spec
    exact Does.of_exec (congrArg Host.Outcome.next (if_pos hon)) ⟨hst, State.mainEn_of_trip hst, State.memEn_of_trip hst, hddr, hsram, hcal⟩
  · obtain ⟨a, m, c, l, hvmon, hop⟩ := opAdaptive_eq hon hadapt fw tw fe te vw ve { failed := false, statusW := 0, statusE := 0 }
    have huplift : ∀ d f t, s.upliftOf d f t = nextUplift (s.rf F.PWR_VDDC_CFG.UP_PCT) (s.rf F.PWR_VDDC_CFG.DN_PCT) (s.pwr.uplift.get d) f t :=
      fun d f t => if_neg hmode
    refine Does.of_exec (congrArg Host.Outcome.next hop) ⟨?_, ?_, hvmon, rfl⟩
    · show (vset (vset s.pwr.uplift 0 (s.upliftOf 0 fw tw)) 1 (s.upliftOf 1 fe te)).get 0 = _
      rw [vget_vset, if_neg (by decide), vget_vset, if_pos rfl, huplift]
    · show (vset (vset s.pwr.uplift 0 (s.upliftOf 0 fw tw)) 1 (s.upliftOf 1 fe te)).get 1 = _
      rw [vget_vset, if_pos rfl, huplift]
  · obtain ⟨a, m, c, l, -, hop⟩ := opAdaptive_eq hon hadapt fw tw fe te vw ve { failed := true, statusW := 0, statusE := 0 }
    let t := s.adapted a m (vset (vset s.pwr.uplift 0 (s.upliftOf 0 fw tw)) 1 (s.upliftOf 1 fe te)) c l
    have hfail : (t.wb F.PWR_PMB_STAT.FAIL true).rb F.PWR_PMB_STAT.FAIL = true := State.rb_wb_same hinv.2.1 _ _ (by decide) rfl
    refine Does.of_exec (congrArg Host.Outcome.next hop) ⟨?_, State.raiseBare_pend _ 205 _ (by decide)⟩
    exact (State.rb_congr (State.count_regs _ _ _) _).trans hfail
  · refine Does.of_exec (congrArg Host.Outcome.next (State.onCore_of_coreOn hon _)) ⟨State.rg_wr_same hinv.2.1 _ _, rfl, fun o ho => ?_⟩
    exact State.rg_wr_other hinv.2.1 _ (fun h => ho (h ▸ List.mem_singleton_self _))

end Sys2Proof.Machine
end

section
/-! PROOFS. The engine where it has nothing of its own to do: what a run of it leaves, and what the arrays' operations leave alone. -/

namespace Sys2Proof.Machine
open Sys2Proof

/-! ### Runs -/

/-- No request, flow or answer is in hand: a round of passes finds nothing to do. -/
def Coh.Rests (c : Coh) : Prop :=
  c.wait = [] ∧ c.txns = [] ∧ c.homeTx = [] ∧ c.setRecalls = [] ∧ c.flows = [] ∧ c.snoops = [] ∧ c.hamperWait = [] ∧ c.snpWait = []

theorem Coh.rests_of_quiet {c : Coh} (h : c.quiet = true) : c.Rests ∧ c.nodeTx = [] := by
  obtain ⟨h1, h2, h3, h4, h5, h6, h7, -, -, h10, h11⟩ := Coh.quiet_lists h
  exact ⟨⟨h1, h2, h4, h5, h6, h7, h10, h11⟩, h3⟩

theorem Coh.round_rests {c : Coh} (h : c.Rests) {e : State} (hd : e.deadNodes = []) : c.round e = { c with wake := false } := by
  obtain ⟨h1, h2, h4, h5, h6, h7, h10, h11⟩ := h
  rw [Coh.round_waits c e h2 h4 h5 h6 h7 h10 h11 hd, h1]
  cases c
  cases h1
  rfl

theorem Coh.settle_rests {c : Coh} (h : c.Rests) {e : State} (hd : e.deadNodes = []) (n : Nat) :
    Coh.settle e (n + 1) c = { c with wake := false } := by
  rw [Coh.settle]
  split
  · rw [Coh.round_rests h hd, Coh.settle_asleep _ _ _ rfl]
  · next hw =>
    cases c
    simp only [Bool.not_eq_true] at hw
    subst hw
    rfl

theorem Coh.retirePass_nil {c : Coh} (h : c.retiring = []) (e : State) : c.retirePass e = c := by
  rw [Coh.retirePass, h]
  rfl

theorem Coh.stamp_nil {c : Coh} (h : c.homeTx = []) (hn : c.nodeTx = []) (hs : c.setRecalls = []) (now : Nat) : c.stamp now = c := by
  cases c
  cases h
  cases hn
  cases hs
  rfl

/-- A run is its settled engine with the effects given out. -/
theorem State.runCoh_eq_foldl {s : State} {f : Coh → Coh} {c : Coh} (hs : Coh.settle s settleRounds (f s.coh) = c) (hr : c.retiring = []) :
    s.runCoh f = c.fx.foldl applyFx { s with coh := { c.stamp s.fine with fx := [] } } := by
  unfold State.runCoh State.flushFx
  rw [hs, Coh.retirePass_nil hr]
  rfl

theorem State.coh_runCoh_of_settle {s : State} {f : Coh → Coh} {c : Coh} (hs : Coh.settle s settleRounds (f s.coh) = c) (hr : c.retiring = []) :
    (s.runCoh f).coh = { c.stamp s.fine with fx := [] } := by
  rw [State.runCoh_eq_foldl hs hr]
  exact (Beside.foldl beside_applyFx _ _).coh

/-- A run that leaves the engine at rest leaves it as the change made it, asleep, with its effects given out. -/
theorem State.runCoh_rests {s : State} {f : Coh → Coh} (h : (f s.coh).Rests) (hn : (f s.coh).nodeTx = []) (hr : (f s.coh).retiring = [])
    (hd : s.deadNodes = []) : s.runCoh f = (f s.coh).fx.foldl applyFx { s with coh := { f s.coh with wake := false, fx := [] } } := by
  have hsettle : Coh.settle s settleRounds (f s.coh) = { f s.coh with wake := false } := Coh.settle_rests h hd _
  obtain ⟨-, -, hhome, hset, -⟩ := h
  rw [State.runCoh_eq_foldl hsettle hr, Coh.stamp_nil (c := { f s.coh with wake := false }) hhome hn hset]

theorem State.coh_runCoh_rests {s : State} {f : Coh → Coh} (h : (f s.coh).Rests) (hn : (f s.coh).nodeTx = []) (hr : (f s.coh).retiring = [])
    (hd : s.deadNodes = []) : (s.runCoh f).coh = { f s.coh with wake := false, fx := [] } := by
  rw [State.runCoh_rests h hn hr hd]
  exact (Beside.foldl beside_applyFx _ _).coh

/-- An effect that raises a source leaves it pending at the end of the run. -/
theorem raised_foldl_applyFx {x : Fx} {ev : Nat} (hx : ∀ s, Raised (applyFx s x) ev) : ∀ {l : List Fx}, x ∈ l → ∀ s, Raised (l.foldl applyFx s) ev
  | [], h, _ => by simp at h
  | y :: l, h, s => by
    rw [List.foldl_cons]
    rcases List.mem_cons.mp h with rfl | h
    · exact (Beside.foldl beside_applyFx l _).raised ev (hx s)
    · exact raised_foldl_applyFx hx h _

/-! ### The arrays -/

/-- Counting changes the effects to be given out, and nothing else. -/
theorem Coh.sctr_eq (c : Coh) (s i n : Nat) : ∃ fx, c.sctr s i n = { c with fx := c.fx ++ fx } := by
  unfold Coh.sctr Coh.ctr
  split
  · exact ⟨[], by rw [List.append_nil]⟩
  · exact ⟨_, rfl⟩

theorem Coh.tags_putTag (c : Coh) (k : Nat) (t : TagEntry) : (c.putTag k t).tags = Sparse.set (fun _ => tagFree) c.tags k t := rfl

theorem Coh.tag_putTag {c : Coh} (h : Sparse.wf (fun _ => tagFree) c.tags = true) (k j : Nat) (t : TagEntry) :
    (c.putTag k t).tag j = if k = j then t else c.tag j := by
  unfold Coh.tag
  rw [Coh.tags_putTag, Sparse.get_set k j t h]

theorem Coh.tag_congr {c d : Coh} (h : d.tags = c.tags) (k : Nat) : d.tag k = c.tag k := congrArg (fun m => Sparse.get _ m k) h

theorem Coh.tag_freeTag {c : Coh} (h : Sparse.wf (fun _ => tagFree) c.tags = true) (k : Nat) : (c.freeTag k).tag k = tagFree := by
  rw [Coh.freeTag, Coh.tag_putTag h, if_pos rfl]

theorem isValid_of_clean {st : BitVec 3} (h : st = tE ∨ st = tS) : isValid st = true := by rcases h with rfl | rfl <;> rfl
theorem isMod_of_clean {st : BitVec 3} (h : st = tE ∨ st = tS) : isMod st = false := by rcases h with rfl | rfl <;> rfl

/-- The account of a prefetched line that leaves unused. -/
def Coh.unused (c : Coh) (k : Nat) : Coh := if (c.tag k).pf then (c.sctr (slotSlice k) 7).emit (.prefetchUse false) else c

theorem Coh.unused_eq (c : Coh) (k : Nat) : ∃ fx, c.unused k = { c with fx := c.fx ++ fx } := by
  unfold Coh.unused
  split
  · obtain ⟨fx, hfx⟩ := c.sctr_eq (slotSlice k) 7 1
    exact ⟨fx ++ [.prefetchUse false], by rw [hfx]; simp [Coh.emit]⟩
  · exact ⟨[], by rw [List.append_nil]⟩

theorem Coh.evictSlot_of_clean {c : Coh} {e : State} {k : Nat} (hst : (c.tag k).st = tE ∨ (c.tag k).st = tS)
    (hhome : e.isHome (c.slotLineAddr e k) = true) (walk : Bool) : c.evictSlot e k walk = ((c.unused k).sctr (slotSlice k) 5).freeTag k := by
  simp only [Coh.evictSlot, isValid_of_clean hst, isMod_of_clean hst, hhome, Bool.not_true, Bool.false_eq_true, if_false, if_true, Coh.unused]

theorem Coh.rests_putTag {c : Coh} (h : c.Rests) (k : Nat) (t : TagEntry) : (c.putTag k t).Rests := by
  unfold Coh.Rests at h ⊢
  exact h

theorem Coh.rests_woken {c : Coh} (h : c.Rests) : c.woken.Rests := by
  unfold Coh.Rests at h ⊢
  exact h

theorem Coh.rests_fx {c : Coh} (h : c.Rests) (fx : List Fx) : ({ c with fx := fx } : Coh).Rests := by
  unfold Coh.Rests at h ⊢
  exact h

/-- A clean line of this home is dropped. -/
theorem Coh.evictSlot_clean {c : Coh} {e : State} {k : Nat} (hst : (c.tag k).st = tE ∨ (c.tag k).st = tS)
    (hhome : e.isHome (c.slotLineAddr e k) = true) (walk : Bool) : ∃ fx, c.evictSlot e k walk = ({ c with fx := c.fx ++ fx } : Coh).freeTag k := by
  obtain ⟨fx0, h0⟩ := c.unused_eq k
  obtain ⟨fx1, h1⟩ := ({ c with fx := c.fx ++ fx0 } : Coh).sctr_eq (slotSlice k) 5 1
  refine ⟨fx0 ++ fx1, ?_⟩
  rw [Coh.evictSlot_of_clean hst hhome, h0, h1]
  simp only [List.append_assoc]

end Sys2Proof.Machine
end

section
/-! PROOFS. Ways and channels are enabled and disabled (R157 to R161, R367). -/

namespace Sys2Proof.Machine
open Sys2Proof

/-! ### A write of SLC_WAY_EN -/

theorem State.wayWrite_frame (s : State) (sl : SliceNo) (way : Fin 16) (on : Bool) :
    s.wayWrite sl way on = { s with regs := (s.wayWrite sl way on).regs, drains := (s.wayWrite sl way on).drains } := by
  obtain hself | ⟨en, dr, walks, hput, -⟩ := s.wayWrite_cases sl way on
  · rw [hself]
  · rw [hput]
    rfl

theorem foldl_wayWrite_frame (sl : SliceNo) (v : Word) (ways : List (Fin 16)) (s : State) :
    ∃ r d, ways.foldl (fun s i => s.wayWrite sl i (bit v i)) s = { s with regs := r, drains := d } :=
  foldl_keeps (Q := fun t => ∃ r d, t = { s with regs := r, drains := d }) ⟨s.regs, s.drains, rfl⟩ fun t i ht => by
    obtain ⟨r, d, rfl⟩ := ht
    exact ⟨_, _, State.wayWrite_frame _ sl i _⟩

/-- The acts on the ways before one leave it as it was, and those after it leave it as its own act does. -/
theorem opWayEn_at_way (sl : SliceNo) (v : Word) (w : Fin 16) {s : State} (h : Inv.registers s) :
    ∃ before, SameWay sl w s before ∧ before.refusing = s.refusing ∧ SameWay sl w (before.wayWrite sl w (bit v w)) (opWayEn sl v s) := by
  obtain ⟨pre, post, hsplit⟩ := List.append_of_mem (List.mem_finRange w)
  have hnodup : (pre ++ w :: post).Nodup := hsplit ▸ List.nodup_finRange 16
  obtain ⟨hpost, -⟩ := List.nodup_cons.mp hnodup.of_append_right
  have hpre : w ∉ pre := fun hmem => List.disjoint_of_nodup_append hnodup hmem List.mem_cons_self
  have hbefore := foldl_wayWrite_sameWay sl v hpre h
  obtain ⟨r, d, hframe⟩ := foldl_wayWrite_frame sl v pre s
  refine ⟨_, hbefore, by rw [hframe]; rfl, ?_⟩
  unfold opWayEn fins
  rw [hsplit, List.foldl_append, List.foldl_cons]
  exact foldl_wayWrite_sameWay sl v hpost (State.wayWrite_registers hbefore.registers sl w _)

/-- R158: a set bit that is cleared disables the way and starts its walk. -/
theorem opWayEn_clear {s : State} (h : Inv.registers s) (hopen : s.refusing = false) {sl : SliceNo} {v : Word} {w : Fin 16}
    (hen : bit (s.rg (Reg.SLC_WAY_EN sl)) w = true) (hv : bit v w = false) :
    let t := opWayEn sl v s
    bit (t.rg (Reg.SLC_WAY_EN sl)) w = false ∧ bit (t.rg (Reg.SLC_WAY_STAT sl)) w = true ∧
      { slice := sl, way := w, next := 0, lines := [], chan := false } ∈ t.drains := by
  obtain ⟨before, hbefore, hrefusing, hafter⟩ := opWayEn_at_way sl v w h
  rw [hv, State.wayWrite_clear (hbefore.enabled.trans hen), if_neg (by rw [hrefusing, hopen]; decide)] at hafter
  refine ⟨hafter.enabled.trans ?_, hafter.draining.trans ?_, ?_⟩
  · rw [State.putWay_enabled hbefore.registers, if_pos rfl]
  · rw [State.putWay_draining hbefore.registers, if_pos rfl]
  · have hmem : ({ slice := sl, way := w, next := 0, lines := [], chan := false } : WayDrain) ∈ (opWayEn sl v s).drains.filter (isDrain sl w) := by
      rw [hafter.walks]
      exact mem_walks.mpr ⟨List.mem_append_right _ (List.mem_singleton_self _), rfl, rfl⟩
    exact (mem_walks.mp hmem).1

theorem opWayEn_enables {s : State} (h : Inv.registers s) (hopen : s.refusing = false) (sl : SliceNo) (v : Word) (w : Fin 16) :
    bit ((opWayEn sl v s).rg (Reg.SLC_WAY_EN sl)) w = bit v w := by
  cases hen : bit (s.rg (Reg.SLC_WAY_EN sl)) w <;> cases hv : bit v w
  case false.false => exact (opWayEn_sameWay_of_bit_eq h (hen.trans hv.symm)).enabled.trans hen
  case true.true => exact (opWayEn_sameWay_of_bit_eq h (hen.trans hv.symm)).enabled.trans hen
  case false.true => exact (opWayEn_set h hen hv).2.1
  case true.false => exact (opWayEn_clear h hopen hen hv).1

theorem slcWayEnWrite_switches {s : State} (h : Inv.registers s) (hserve : Serving s) (hopen : s.refusing = false) (sl : SliceNo) (v : Word) :
    Does (.slcWayEnWrite sl v) s (fun t =>
      (∀ w < 16, bit (t.rg (Reg.SLC_WAY_EN sl)) w = bit v w) ∧
      (∀ w : Fin 16, bit (s.rg (Reg.SLC_WAY_EN sl)) w.val = true → bit v w.val = false →
        bit (t.rg (Reg.SLC_WAY_STAT sl)) w.val = true ∧ { slice := sl, way := w, next := 0, lines := [], chan := false } ∈ t.drains) ∧
      t = { s with regs := t.regs, drains := t.drains }) := by
  refine slcWayEnWrite_does hserve ⟨fun w hw => opWayEn_enables h hopen sl v ⟨w, hw⟩, fun w hen hv => (opWayEn_clear h hopen hen hv).2, ?_⟩
  obtain ⟨r, d, hframe⟩ := foldl_wayWrite_frame sl v (fins 16) s
  have hop : opWayEn sl v s = { s with regs := r, drains := d } := hframe
  rw [hop]

/-! ### The walk of a way -/

section visit
variable {s : State} {sl : SliceNo} {way : Fin 16} {d : WayDrain}
  (hfind : s.drains.find? (fun d => isDrain sl way d && decide (d.next < s.sets)) = some d)
include hfind

/-- A visit that is not held up moves the walk on, and its change of the engine runs. -/
theorem opWayVisit_eq {r : Coh × WayDrain} (hvisit : s.coh.drainVisit s d = some r) :
    opWayVisit sl way s = { s.runCoh (fun _ => r.1) with drains := modFirst (fun x => x == d) (fun _ => r.2) s.drains } := by
  obtain ⟨f, hop, hf⟩ : ∃ f, opWayVisit sl way s = { s.runCoh f with drains := modFirst (fun x => x == d) (fun _ => r.2) (s.runCoh f).drains } ∧
      f s.coh = r.1 := by
    simp only [opWayVisit, hfind, hvisit]
    refine ⟨_, rfl, ?_⟩
    rw [hvisit]
  have hrun : s.runCoh f = s.runCoh (fun _ => r.1) := congrArg (fun c => s.runCoh (fun _ => c)) hf
  have hdrains := (around_runCoh s (fun _ => r.1)).drains
  rw [hop, hrun, hdrains]

theorem drain_of_find : d.slice = sl ∧ d.way = way ∧ d.next < s.sets := by
  have hp := List.find?_some hfind
  simp only [isDrain, Bool.and_eq_true, beq_iff_eq, decide_eq_true_eq] at hp
  exact ⟨hp.1.1, hp.1.2, hp.2⟩

/-- A free slot is passed over. -/
theorem wayDrainVisit_free (hidle : Idle s) (hrow : s.coh.checkRow sl.val d.next = s.coh) (hfree : (s.coh.tag (slotKey sl.val d.next way.val)).st = tI) :
    Does (.wayDrainVisit sl way) s (fun t =>
      t.drains = modFirst (fun x => x == d) (fun _ => { d with next := d.next + 1 }) s.drains ∧
      t = { s with drains := t.drains, coh := Asleep s.coh }) := by
  obtain ⟨hsl, hway, hnext⟩ := drain_of_find hfind
  obtain ⟨hquiet, hret, hfx, hdead⟩ := hidle
  have hvisit : s.coh.drainVisit s d = some (s.coh, { d with next := d.next + 1 }) := by
    unfold Coh.drainVisit
    rw [hsl, hway, hrow]
    dsimp only
    rw [if_neg (by omega), if_pos (by simp [hfree, tI])]
  have hrun : s.runCoh (fun _ => s.coh) = { s with coh := Asleep s.coh } := State.runCoh_quiet s _ hquiet hret hfx hdead
  refine Does.of_exec (congrArg Host.Outcome.next (opWayVisit_eq hfind hvisit)) ⟨rfl, ?_⟩
  rw [hrun]

/-- A clean line of this home is dropped, and its slot is free. -/
theorem wayDrainVisit_clean (hinv : Inv s) (hidle : Idle s) (hrow : s.coh.checkRow sl.val d.next = s.coh)
    (hclean : (s.coh.tag (slotKey sl.val d.next way.val)).st = tE) (hspill : s.isSpill (slotKey sl.val d.next way.val) = false)
    (hhome : s.isHome (s.coh.slotLineAddr s (slotKey sl.val d.next way.val)) = true)
    (hlock : s.coh.lockedLine (s.coh.slotLineAddr s (slotKey sl.val d.next way.val)) = false)
    (hinto : s.coh.drainingInto (s.coh.slotLineAddr s (slotKey sl.val d.next way.val)) = false) : Does (.wayDrainVisit sl way) s (fun t =>
      t.drains = modFirst (fun x => x == d) (fun _ => { d with next := d.next + 1 }) s.drains ∧
      t.coh.tag (slotKey sl.val d.next way.val) = tagFree) := by
  obtain ⟨hsl, hway, hnext⟩ := drain_of_find hfind
  obtain ⟨hquiet, hret, hfx, hdead⟩ := hidle
  obtain ⟨hrests, hnode⟩ := Coh.rests_of_quiet hquiet
  obtain ⟨fx, hevict⟩ := Coh.evictSlot_clean (.inl hclean) hhome true
  generalize hk : slotKey sl.val d.next way.val = k at *
  have hvisit : s.coh.drainVisit s d = some ((({ s.coh with fx := s.coh.fx ++ fx } : Coh).freeTag k).woken, { d with next := d.next + 1 }) := by
    unfold Coh.drainVisit
    rw [hsl, hway, hrow, hk]
    dsimp only
    rw [if_neg (by omega), if_neg (by simp [hclean, hspill, tI, tT, tE]), if_neg (by simp [hclean, hlock, hinto, tF, tE, isMod, tO, tM]), hevict,
      if_neg (by simp [hclean, isMod, tE, tO, tM])]
  have hcoh := State.coh_runCoh_rests (s := s) (f := fun _ => (({ s.coh with fx := s.coh.fx ++ fx } : Coh).freeTag k).woken)
    (Coh.rests_woken (Coh.rests_putTag (Coh.rests_fx hrests _) _ _)) hnode hret hdead
  have hop := opWayVisit_eq hfind hvisit
  generalize s.runCoh (fun _ => (({ s.coh with fx := s.coh.fx ++ fx } : Coh).freeTag k).woken) = u at hop hcoh
  refine Does.of_exec (congrArg Host.Outcome.next hop) ⟨rfl, ?_⟩
  show u.coh.tag k = tagFree
  rw [hcoh]
  exact (Coh.tag_congr rfl k).trans (Coh.tag_freeTag (c := { s.coh with fx := s.coh.fx ++ fx }) hinv.2.2.1.1 k)

end visit

/-- A walk that has visited every set ends (Table 4.6). -/
theorem wayDrainDone_ends {s : State} (h : Inv.registers s) {sl : SliceNo} {way : Fin 16} {d : WayDrain}
    (hfind : s.drains.find? (fun d => isDrain sl way d && !d.chan) = some d) (hend : s.drainEnded d = true) : Does (.wayDrainDone sl way) s (fun t =>
      t.drains = s.drains.erase d ∧ bit (t.rg (Reg.SLC_WAY_STAT sl)) way.val = false ∧ t.rb (F.SLC_WAY_STAT.DONE sl) = true ∧ Raised t 68 ∧
      t = { s with regs := t.regs, drains := t.drains, mon := t.mon }) := by
  let s1 := ({ s with drains := s.drains.erase d } : State).setDraining sl way false
  have h0 : Inv.registers ({ s with drains := s.drains.erase d } : State) := h
  have h1 : Inv.registers s1 := State.wr_regs_wf h0 _ _
  have hop : opWayDone sl way s = (s1.wb (F.SLC_WAY_STAT.DONE sl) true).raise 68 sl := by
    unfold opWayDone
    rw [hfind]
    exact if_pos hend
  refine Does.of_exec (congrArg Host.Outcome.next hop) ⟨rfl, ?_, State.rb_wb_same h1 _ _ (Nat.le_of_ble_eq_true rfl) rfl,
    State.raise_pend _ 68 _ (by decide), rfl⟩
  have hset : bit (s1.rg (Reg.SLC_WAY_STAT sl)) way = false := by
    rw [show s1.rg (Reg.SLC_WAY_STAT sl) = _ from State.rg_wr_same h0 _ _]
    exact (bit_setFld_bit _ way way false).trans (if_pos rfl)
  show bit ((s1.wb (F.SLC_WAY_STAT.DONE sl) true).rg (Reg.SLC_WAY_STAT sl)) way = false
  rw [show (s1.wb (F.SLC_WAY_STAT.DONE sl) true).rg (Reg.SLC_WAY_STAT sl) = _ from State.rg_wr_same h1 _ _, bit, getLsbD_setFld,
    if_neg (by simp only [F.SLC_WAY_STAT.DONE]; omega)]
  exact hset

/-! ### A write of CMI_CTL -/

/-- The state once the write has acknowledged a refusal. -/
def State.cmiAck (s : State) (ch : ChanNo) (v : Word) : State := if bit v 2 then s.wb (F.CMI_CTL.REFUSED ch) false else s

section cmi
variable {s : State} (h : Inv.registers s) (ch : ChanNo) (v : Word)
include h

theorem State.cmiAck_registers : Inv.registers (s.cmiAck ch v) := by
  unfold State.cmiAck
  split
  · exact State.wb_regs_wf h _ _
  · exact h

omit h in
theorem State.cmiAck_frame : ∃ r, s.cmiAck ch v = { s with regs := r } := by
  unfold State.cmiAck
  split
  · exact ⟨_, rfl⟩
  · exact ⟨s.regs, rfl⟩

/-- REFUSED is all that it changes. -/
theorem State.rf_cmiAck {f : RField} (hf : f.lo + f.width ≤ 2 ∨ 3 ≤ f.lo) : (s.cmiAck ch v).rf f = s.rf f := by
  unfold State.cmiAck
  split
  · exact State.rf_wf_field h (F.CMI_CTL.REFUSED ch) f _ hf
  · rfl

theorem State.rb_cmiAck {f : RField} (hf : f.lo + f.width ≤ 2 ∨ 3 ≤ f.lo) : (s.cmiAck ch v).rb f = s.rb f :=
  congrArg (fun n => n != 0) (State.rf_cmiAck h ch v hf)

theorem State.rg_cmiAck {o : Nat} (ho : Reg.CMI_CTL ch ≠ o) : (s.cmiAck ch v).rg o = s.rg o := by
  unfold State.cmiAck
  split
  · exact State.rg_wb_other h _ _ _ ho
  · rfl

theorem State.slicesOf_cmiAck : (s.cmiAck ch v).slicesOf ch = s.slicesOf ch := by
  have hch4 : (s.cmiAck ch v).ch4 = s.ch4 := congrArg (fun w => fld w _ _ != 0) (State.rg_cmiAck h ch v (by show 0x01200040 + 0x10000 * ch.val ≠ 0x00000008; omega))
  unfold State.slicesOf State.chan
  rw [hch4]

end cmi

theorem State.rb_wb_other {s : State} (h : Inv.registers s) (f g : RField) (b : Bool) (hne : f.off ≠ g.off) : (s.wb f b).rb g = s.rb g :=
  congrArg (fun w => fld w g.lo g.width != 0) (State.rg_wb_other h f b g.off hne)

theorem State.rb_raise (s : State) (ev u : Nat) (f : RField) : (s.raise ev u).rb f = s.rb f := rfl

theorem Reg.CMI_CTL_ne_CMI_STAT (ch : ChanNo) : Reg.CMI_CTL ch ≠ Reg.CMI_STAT ch := by
  unfold Reg.CMI_CTL Reg.CMI_STAT
  omega

/-- The walks of every way of a channel's slices. -/
def State.chanWalks (s : State) (ch : ChanNo) : List WayDrain :=
  (s.slicesOf ch).flatMap (fun sl => (fins 16).map (fun w => { slice := sl, way := w, next := 0, lines := [], chan := true }))

theorem State.mem_chanWalks {s : State} {ch : ChanNo} {sl : SliceNo} (h : sl ∈ s.slicesOf ch) (w : Fin 16) :
    { slice := sl, way := w, next := 0, lines := [], chan := true } ∈ s.chanWalks ch :=
  List.mem_flatMap.mpr ⟨sl, h, List.mem_map.mpr ⟨w, List.mem_finRange w, rfl⟩⟩

/-- The channel is disabled, and its ways drain. -/
def State.cmiDisabled (s : State) (ch : ChanNo) : State :=
  ((({ s with drains := s.drains ++ s.chanWalks ch } : State).wb (F.CMI_CTL.EN ch) false).wb (F.CMI_STAT.TRAINED ch) false).wb
    (F.CMI_CTL.DRAINING ch) true

theorem State.cmiDisabled_frame (s : State) (ch : ChanNo) : ∃ r, s.cmiDisabled ch = { s with regs := r, drains := s.drains ++ s.chanWalks ch } :=
  ⟨_, rfl⟩

theorem State.cmiDisabled_spec {s : State} (h : Inv.registers s) (ch : ChanNo) : (s.cmiDisabled ch).rb (F.CMI_CTL.EN ch) = false ∧
    (s.cmiDisabled ch).rb (F.CMI_STAT.TRAINED ch) = false ∧ (s.cmiDisabled ch).rb (F.CMI_CTL.DRAINING ch) = true := by
  let s0 : State := { s with drains := s.drains ++ s.chanWalks ch }
  have h0 : Inv.registers s0 := h
  have h1 : Inv.registers (s0.wb (F.CMI_CTL.EN ch) false) := State.wb_regs_wf h0 _ _
  have h2 : Inv.registers ((s0.wb (F.CMI_CTL.EN ch) false).wb (F.CMI_STAT.TRAINED ch) false) := State.wb_regs_wf h1 _ _
  refine ⟨?_, ?_, State.rb_wb_same h2 _ _ (Nat.le_of_ble_eq_true rfl) rfl⟩
  · refine (State.rb_wb_field h2 (F.CMI_CTL.DRAINING ch) (F.CMI_CTL.EN ch) _ (.inl (Nat.le_refl 1))).trans ?_
    refine (State.rb_wb_other h1 (F.CMI_STAT.TRAINED ch) (F.CMI_CTL.EN ch) _ (Reg.CMI_CTL_ne_CMI_STAT ch).symm).trans ?_
    exact State.rb_wb_same h0 _ _ (Nat.le_of_ble_eq_true rfl) rfl
  · refine (State.rb_wb_other h2 (F.CMI_CTL.DRAINING ch) (F.CMI_STAT.TRAINED ch) _ (Reg.CMI_CTL_ne_CMI_STAT ch)).trans ?_
    exact State.rb_wb_same h1 _ _ (Nat.le_of_ble_eq_true rfl) rfl

theorem State.rf_SIZE_MIB_cmiAck {s : State} (h : Inv.registers s) (ch : ChanNo) (v : Word) :
    (s.cmiAck ch v).rf F.GLB_SPILL_CFG.SIZE_MIB = s.rf F.GLB_SPILL_CFG.SIZE_MIB :=
  congrArg (fun w => fld w _ _) (State.rg_cmiAck h ch v (by show 0x01200040 + 0x10000 * ch.val ≠ 0x00000168; omega))

theorem State.refusing_cmiAck (s : State) (ch : ChanNo) (v : Word) : (s.cmiAck ch v).refusing = s.refusing := by
  obtain ⟨r, hr⟩ := State.cmiAck_frame (s := s) ch v
  rw [hr]
  rfl

/-- What a write that clears EN of an enabled channel does. -/
theorem opCmiCtl_clear {s : State} (h : Inv.registers s) {ch : ChanNo} {v : Word} (hen : s.rb (F.CMI_CTL.EN ch) = true) (hv : bit v 0 = false) :
    opCmiCtl ch v s =
      if s.rf F.GLB_SPILL_CFG.SIZE_MIB ≠ 0 || s.refusing then ((s.cmiAck ch v).wb (F.CMI_CTL.REFUSED ch) true).raise 70 (unitChan ch)
      else if s.rb (F.CMI_CTL.DRAINING ch) then (s.cmiAck ch v).wb (F.CMI_CTL.EN ch) false
      else (s.cmiAck ch v).cmiDisabled ch := by
  have hen' : (s.cmiAck ch v).rb (F.CMI_CTL.EN ch) = true := (State.rb_cmiAck h ch v (.inl (Nat.le_of_ble_eq_true rfl))).trans hen
  have hdrain : (s.cmiAck ch v).rb (F.CMI_CTL.DRAINING ch) = s.rb (F.CMI_CTL.DRAINING ch) :=
    State.rb_cmiAck h ch v (.inl (Nat.le_of_ble_eq_true rfl))
  rw [← State.rf_SIZE_MIB_cmiAck h ch v, ← s.refusing_cmiAck ch v, ← hdrain]
  generalize hu : s.cmiAck ch v = u at *
  unfold opCmiCtl
  rw [show (if bit v 2 then s.wb (F.CMI_CTL.REFUSED ch) false else s) = u from hu]
  dsimp only
  rw [if_pos (by rw [hen', hv]; rfl)]
  rfl

theorem cmiCtlWrite_disables {s : State} (h : Inv.registers s) {ch : ChanNo} {v : Word} (hserve : Serving s)
    (hen : s.rb (F.CMI_CTL.EN ch) = true) (hv : bit v 0 = false) (hsize : s.rf F.GLB_SPILL_CFG.SIZE_MIB = 0) (hopen : s.refusing = false)
    (hdrain : s.rb (F.CMI_CTL.DRAINING ch) = false) : Does (.cmiCtlWrite ch v) s (fun t =>
      t.rb (F.CMI_CTL.EN ch) = false ∧ t.rb (F.CMI_STAT.TRAINED ch) = false ∧ t.rb (F.CMI_CTL.DRAINING ch) = true ∧
      (∀ sl ∈ s.slicesOf ch, ∀ w : Fin 16, { slice := sl, way := w, next := 0, lines := [], chan := true } ∈ t.drains) ∧
      t = { s with regs := t.regs, drains := t.drains }) := by
  have hop : opCmiCtl ch v s = (s.cmiAck ch v).cmiDisabled ch := by
    rw [opCmiCtl_clear h hen hv, hsize, hopen, hdrain]
    rfl
  obtain ⟨hen', htrained, hdraining⟩ := State.cmiDisabled_spec (State.cmiAck_registers h ch v) ch
  obtain ⟨r, hr⟩ := State.cmiAck_frame (s := s) ch v
  obtain ⟨q, hframe⟩ := State.cmiDisabled_frame (s.cmiAck ch v) ch
  refine Does.of_exec (congrArg Host.Outcome.next ((State.onReg_of_serving hserve _).trans hop)) ⟨hen', htrained, hdraining, fun sl hsl w => ?_, ?_⟩
  · rw [hframe]
    exact List.mem_append_right _ (State.mem_chanWalks (by rwa [State.slicesOf_cmiAck h ch v]) w)
  · rw [hframe, hr]

theorem cmiCtlWrite_refused {s : State} (h : Inv.registers s) {ch : ChanNo} {v : Word} (hserve : Serving s)
    (hen : s.rb (F.CMI_CTL.EN ch) = true) (hv : bit v 0 = false) (hsize : s.rf F.GLB_SPILL_CFG.SIZE_MIB ≠ 0) :
    Does (.cmiCtlWrite ch v) s (fun t => t.rb (F.CMI_CTL.EN ch) = true ∧ t.rb (F.CMI_CTL.REFUSED ch) = true ∧ Raised t 70 ∧
      t = { s with regs := t.regs, mon := t.mon }) := by
  have hack := State.cmiAck_registers h ch v
  have hop : opCmiCtl ch v s = ((s.cmiAck ch v).wb (F.CMI_CTL.REFUSED ch) true).raise 70 (unitChan ch) := by
    rw [opCmiCtl_clear h hen hv]
    exact if_pos (by simp [hsize])
  refine Does.of_exec (congrArg Host.Outcome.next ((State.onReg_of_serving hserve _).trans hop))
    ⟨?_, State.rb_wb_same hack _ _ (Nat.le_of_ble_eq_true rfl) rfl, State.raise_pend _ 70 _ (by decide), ?_⟩
  · refine (State.rb_wb_field hack (F.CMI_CTL.REFUSED ch) (F.CMI_CTL.EN ch) _ (.inl (Nat.le_of_ble_eq_true rfl))).trans ?_
    exact (State.rb_cmiAck h ch v (.inl (Nat.le_of_ble_eq_true rfl))).trans hen
  · obtain ⟨r, hr⟩ := State.cmiAck_frame (s := s) ch v
    rw [hr]
    rfl

/-! ### The end of a disable and of a training -/

theorem channelDisableDone_ends {s : State} (h : Inv.registers s) {ch : ChanNo} (hdrain : s.rb (F.CMI_CTL.DRAINING ch) = true) (hidle : Idle s)
    (hended : ∀ d ∈ s.drains, d.chan = true → s.chan d.slice.val = ch → s.drainEnded d = true) : Does (.channelDisableDone ch) s (fun t =>
      t.rb (F.CMI_CTL.DRAINING ch) = false ∧ Raised t 69 ∧ (∀ d ∈ t.drains, d.chan = true → s.chan d.slice.val ≠ ch) ∧
      t = { s with regs := t.regs, drains := t.drains, mon := t.mon }) := by
  obtain ⟨hquiet, -⟩ := hidle
  let mine : WayDrain → Bool := fun d => d.chan && s.chan d.slice.val == ch
  have hall : (s.drains.filter mine).all s.drainEnded = true := by
    rw [List.all_eq_true]
    intro d hd
    obtain ⟨hmem, hmine⟩ := List.mem_filter.mp hd
    simp only [mine, Bool.and_eq_true, beq_iff_eq] at hmine
    exact hended d hmem hmine.1 hmine.2
  have hqueues : (s.coh.cmiQ.get ch).isEmpty = true ∧ (s.coh.cmiVerify.get ch).isEmpty = true := by
    simp only [Coh.quiet, Bool.and_eq_true, List.all_eq_true] at hquiet
    obtain ⟨⟨⟨⟨⟨⟨⟨-, hq⟩, -⟩, hv⟩, -⟩, -⟩, -⟩, -⟩ := hquiet
    exact ⟨hq _ (Vector.mem_toList_iff.mpr (Vector.getElem_mem ch.isLt)), hv _ (Vector.mem_toList_iff.mpr (Vector.getElem_mem ch.isLt))⟩
  have hop : opChannelDone ch s = (({ s with drains := s.drains.filter (fun d => !mine d) } : State).wb (F.CMI_CTL.DRAINING ch) false).raise 69
      (unitChan ch) := by
    refine if_pos ?_
    rw [hdrain, hqueues.1, hqueues.2]
    simpa [mine] using hall
  refine Does.of_exec (congrArg Host.Outcome.next hop)
    ⟨State.rb_wb_same (s := { s with drains := s.drains.filter (fun d => !mine d) }) h _ _ (Nat.le_of_ble_eq_true rfl) rfl,
      State.raise_pend _ 69 _ (by decide), fun d hd hchan heq => ?_, rfl⟩
  have hnot := (List.mem_filter.mp hd).2
  simp [mine, hchan, heq] at hnot

theorem cmiTrainingDone_ok {s : State} (h : Inv.registers s) {ch : ChanNo} (hgo : (s.rb (F.CMI_CTL.EN ch) && !s.rb (F.CMI_STAT.TRAINED ch) &&
    !s.rb (F.CMI_CTL.DRAINING ch) && s.channels.contains ch) = true) (hidle : Idle s) : Does (.cmiTrainingDone ch true) s (fun t =>
      t.rb (F.CMI_STAT.TRAINED ch) = true ∧ t = { s with regs := t.regs, coh := Asleep s.coh }) := by
  obtain ⟨hquiet, hret, hfx, hdead⟩ := hidle
  have hrun : (s.wb (F.CMI_STAT.TRAINED ch) true).runCoh Coh.woken = { s.wb (F.CMI_STAT.TRAINED ch) true with coh := Asleep s.coh } :=
    State.runCoh_quiet _ Coh.woken hquiet hret hfx hdead
  have hop : opCmiTrained ch true s = { s.wb (F.CMI_STAT.TRAINED ch) true with coh := Asleep s.coh } := by
    unfold opCmiTrained
    rw [if_pos hgo, if_pos rfl, hrun]
  refine Does.of_exec (congrArg Host.Outcome.next hop) ⟨?_, rfl⟩
  exact (State.rb_congr (s := s.wb (F.CMI_STAT.TRAINED ch) true) rfl _).trans (State.rb_wb_same h (F.CMI_STAT.TRAINED ch) true (Nat.le_of_ble_eq_true rfl) rfl)

theorem State.wb_frame (s : State) (f : RField) (b : Bool) : ∃ r, s.wb f b = { s with regs := r } := ⟨_, rfl⟩

theorem cmiTrainingDone_fails {s : State} (h : Inv.registers s) {ch : ChanNo} (hgo : (s.rb (F.CMI_CTL.EN ch) && !s.rb (F.CMI_STAT.TRAINED ch) &&
    !s.rb (F.CMI_CTL.DRAINING ch) && s.channels.contains ch) = true) : Does (.cmiTrainingDone ch false) s (fun t =>
      t.rb (F.CMI_STAT.TFAIL ch) = true ∧ t.rb (F.CMI_CTL.EN ch) = false ∧ Raised t 175 ∧ t = { s with regs := t.regs, mon := t.mon }) := by
  have h1 : Inv.registers (s.wb (F.CMI_STAT.TFAIL ch) true) := State.wb_regs_wf h _ _
  have hop : opCmiTrained ch false s = ((s.wb (F.CMI_STAT.TFAIL ch) true).wb (F.CMI_CTL.EN ch) false).raise 175 (unitChan ch) := by
    unfold opCmiTrained
    rw [if_pos hgo, if_neg Bool.false_ne_true]
  have hfail : ((s.wb (F.CMI_STAT.TFAIL ch) true).wb (F.CMI_CTL.EN ch) false).rb (F.CMI_STAT.TFAIL ch) = true :=
    (State.rb_wb_other h1 (F.CMI_CTL.EN ch) (F.CMI_STAT.TFAIL ch) false (Reg.CMI_CTL_ne_CMI_STAT ch)).trans
      (State.rb_wb_same h (F.CMI_STAT.TFAIL ch) true (Nat.le_of_ble_eq_true rfl) rfl)
  have hen : ((s.wb (F.CMI_STAT.TFAIL ch) true).wb (F.CMI_CTL.EN ch) false).rb (F.CMI_CTL.EN ch) = false :=
    State.rb_wb_same h1 _ _ (Nat.le_of_ble_eq_true rfl) rfl
  have hframe : ∃ r, (s.wb (F.CMI_STAT.TFAIL ch) true).wb (F.CMI_CTL.EN ch) false = { s with regs := r } := by
    obtain ⟨r, hr⟩ := s.wb_frame (F.CMI_STAT.TFAIL ch) true
    obtain ⟨r', hr'⟩ := (s.wb (F.CMI_STAT.TFAIL ch) true).wb_frame (F.CMI_CTL.EN ch) false
    exact ⟨r', by rw [hr', hr]⟩
  generalize (s.wb (F.CMI_STAT.TFAIL ch) true).wb (F.CMI_CTL.EN ch) false = u at hop hfail hen hframe
  obtain ⟨r, rfl⟩ := hframe
  exact Does.of_exec (congrArg Host.Outcome.next hop) ⟨hfail, hen, State.raise_pend _ 175 _ (by decide), rfl⟩

/-- Settles O29. -/
theorem waysAndChannelsSwitch : Obligations.WaysAndChannelsSwitch := by
  refine ⟨fun s sl hinv => ⟨fun v hserve hopen => slcWayEnWrite_switches hinv.2.1 hserve hopen sl v, fun way d hfind hidle hrow => ⟨?_, ?_⟩,
    fun way d => wayDrainDone_ends hinv.2.1⟩, fun s ch hinv => ⟨fun v hserve hen hv => ⟨?_, ?_⟩, channelDisableDone_ends hinv.2.1,
    fun hen htrained hdrain hchan => ?_⟩⟩
  · exact fun hfree _ => wayDrainVisit_free hfind hidle hrow hfree
  · exact wayDrainVisit_clean hfind hinv hidle hrow
  · exact cmiCtlWrite_disables hinv.2.1 hserve hen hv
  · exact cmiCtlWrite_refused hinv.2.1 hserve hen hv
  · have hgo : (s.rb (F.CMI_CTL.EN ch) && !s.rb (F.CMI_STAT.TRAINED ch) && !s.rb (F.CMI_CTL.DRAINING ch) && s.channels.contains ch) = true := by
      rw [hen, htrained, hdrain, hchan]
      rfl
    exact ⟨cmiTrainingDone_ok hinv.2.1 hgo, cmiTrainingDone_fails hinv.2.1 hgo⟩

end Sys2Proof.Machine
end

section
/-! PROOFS. Reads of lines within a pass, and maintenance of one slot (R151, Table 4.5). -/

namespace Sys2Proof.Machine
open Sys2Proof

/-! ### Reads of slots and lines (R316) -/

/-- The maintenance operation and its status are in `t` as in `s`. -/
structure SameMnt (s t : State) : Prop where
  regs : Inv.registers s → Inv.registers t := by exact id
  mnt : t.mnt = s.mnt := by rfl
  stat : Inv.registers s → t.rg Reg.GLB_MNT_STAT = s.rg Reg.GLB_MNT_STAT := by exact fun _ => rfl

theorem SameMnt.trans {s t u : State} (h : SameMnt s t) (h' : SameMnt t u) : SameMnt s u :=
  ⟨fun hs => h'.regs (h.regs hs), h'.mnt.trans h.mnt, fun hs => (h'.stat (h.regs hs)).trans (h.stat hs)⟩

theorem sameMnt_wr (s : State) {o : Nat} (ho : o ≠ Reg.GLB_MNT_STAT) (v : Word) : SameMnt s (s.wr o v) :=
  { regs := fun h => State.wr_regs_wf h o v, stat := fun h => State.rg_wr_other h v ho }

theorem sameMnt_wf (s : State) (f : RField) (ho : f.off ≠ Reg.GLB_MNT_STAT) (v : Nat) : SameMnt s (s.wf f v) :=
  { regs := fun h => State.wf_regs_wf h f v, stat := fun h => State.rg_wf_other h f v _ ho }

theorem sameMnt_wb (s : State) (f : RField) (ho : f.off ≠ Reg.GLB_MNT_STAT) (b : Bool) : SameMnt s (s.wb f b) :=
  { regs := fun h => State.wb_regs_wf h f b, stat := fun h => State.rg_wb_other h f b _ ho }

/-- An effect that leaves the maintenance operation and its status alone. -/
def Fx.Calm (x : Fx) : Prop := ∀ s, SameMnt s (applyFx s x)

theorem sameMnt_foldl : ∀ {l : List Fx}, (∀ x ∈ l, x.Calm) → ∀ s, SameMnt s (l.foldl applyFx s)
  | [], _, _ => {}
  | x :: l, h, s => (h x List.mem_cons_self s).trans (sameMnt_foldl (fun y hy => h y (List.mem_cons_of_mem x hy)) _)

theorem calm_count (sel n : Nat) : (Fx.count sel n).Calm := fun s => by
  obtain ⟨m, hm, -⟩ := s.count_eq sel n
  show SameMnt s (s.count sel n)
  rw [hm]
  exact {}

theorem calm_prefetchUse (b : Bool) : (Fx.prefetchUse b).Calm := fun s => by cases b <;> exact {}

theorem ifErr_ne_mnt {u : Nat} (hu : u < 8) : ifErr u ≠ Reg.GLB_MNT_STAT := by
  simp only [ifErr, hu, if_true, Reg.CMI_ERR, Reg.GLB_MNT_STAT]
  omega

theorem calm_regBit {o : Nat} (ho : o ≠ Reg.GLB_MNT_STAT) (b : Nat) : (Fx.regBit o b).Calm := fun s => sameMnt_wr s ho _

theorem calm_first {o : Nat} (ho : o ≠ Reg.GLB_MNT_STAT) (b ev unit : Nat) (log : Option (BitVec 128)) (always : Bool) :
    (Fx.first o b ev unit log always).Calm := fun s => by
  have hw := sameMnt_wr s ho (setFld (s.rg o) b 1 1)
  simp only [applyFx]
  split
  · split
    · exact hw.trans {}
    · exact hw
  · split <;> exact hw.trans {}

theorem calm_corrected {u : Nat} (hu : u < 8) (n : Nat) : (Fx.corrected u n).Calm := fun s => by
  have hwin : (ifCeWin u).off ≠ Reg.GLB_MNT_STAT := by
    rw [ifCeWin, if_pos hu]
    exact ifErr_ne_mnt hu ∘ (if_pos hu).trans
  have hthr : (ifThr u).off ≠ Reg.GLB_MNT_STAT := by
    rw [ifThr, if_pos hu]
    exact ifErr_ne_mnt hu ∘ (if_pos hu).trans
  have h1 := sameMnt_wf s (ifCeWin u) hwin (min 0xFFFF (s.rf (ifCeWin u) + n))
  show SameMnt s (s.addCorrected u n)
  unfold State.addCorrected
  extract_lets v s1 thr
  split
  · let s2 : State := { s1 with dar := { s1.dar with winThr := s1.dar.winThr ||| BitVec.ofNat 10 (2 ^ u) } }
    have h2 : SameMnt s1 s2 := {}
    exact ((h1.trans h2).trans (sameMnt_wb s2 (ifThr u) hthr true)).trans {}
  · exact h1

/-- The engine but for what a read at an interface may change: stored lines, owed verify reads, the rank of the latest burst, and
the effects it gathers. -/
def Coh.unread (c : Coh) : Coh :=
  { c with
    fx := []
    sram := .replicate 8 []
    ddr := .replicate 2 []
    cmiVerify := .replicate 8 []
    memVerify := .replicate 2 []
    cmiRank := .replicate 8 0 }

/-- From `c` to `d` there have been reads only, whose effects satisfy `P`. -/
structure Coh.Reads (P : Fx → Prop) (c d : Coh) : Prop where
  same : d.unread = c.unread := by rfl
  fx : ∃ l, d.fx = c.fx ++ l ∧ ∀ x ∈ l, P x := by exact ⟨[], (List.append_nil _).symm, by simp⟩

section
variable {P : Fx → Prop} {c d e : Coh}

theorem Coh.Reads.trans (h : c.Reads P d) (h' : d.Reads P e) : c.Reads P e := by
  obtain ⟨l, hl, hP⟩ := h.fx
  obtain ⟨l', hl', hP'⟩ := h'.fx
  refine ⟨h'.same.trans h.same, l ++ l', by rw [hl', hl, List.append_assoc], fun x hx => ?_⟩
  rcases List.mem_append.mp hx with hx | hx
  · exact hP x hx
  · exact hP' x hx

theorem Coh.reads_emits (c : Coh) {l : List Fx} (h : ∀ x ∈ l, P x) : c.Reads P (c.emits l) := ⟨rfl, l, rfl, h⟩

theorem Coh.reads_ctr (c : Coh) {sel n : Nat} (h : P (.count sel n)) : c.Reads P (c.ctr sel n) := by
  unfold Coh.ctr
  split
  · exact {}
  · exact c.reads_emits (List.forall_mem_singleton.mpr h)

theorem Coh.reads_sram (c : Coh) (x : Vector (List (Nat × Codeword)) 8) : c.Reads P { c with sram := x } := {}
theorem Coh.reads_ddr (c : Coh) (x : Vector (List (Nat × Codeword)) 2) : c.Reads P { c with ddr := x } := {}
theorem Coh.reads_cmiVerify (c : Coh) (x : Vector (List Verify) 8) : c.Reads P { c with cmiVerify := x } := {}
theorem Coh.reads_memVerify (c : Coh) (x : Vector (List Verify) 2) : c.Reads P { c with memVerify := x } := {}
theorem Coh.reads_cmiRank (c : Coh) (x : Vector Nat 8) : c.Reads P { c with cmiRank := x } := {}

theorem Coh.Reads.tags (h : c.Reads P d) : d.tags = c.tags := (congrArg Coh.tags h.same :)
theorem Coh.Reads.hamper (h : c.Reads P d) : d.hamper = c.hamper := (congrArg Coh.hamper h.same :)

/-- A read at an interface decodes what it finds; it leaves all but the storage and its accounts alone. -/
theorem Coh.reads_decodeAt (c : Coh) (e : State) (u key : Nat) (line : LineAddr) (raw : CodeLine) (fresh scrub : Bool)
    (hcount : ∀ sel n, P (.count sel n)) (hbit : ∀ b, P (.regBit (ifErr u) b)) (hcor : ∀ n, P (.corrected u n))
    (hfirst : ∀ ev unit log, P (.first (ifErr u) 1 ev unit log true))
    (hmem : 8 ≤ u → (∀ unit d, P (.log 139 unit false d)) ∧ ∀ m, P (.retire m key line 1)) :
    (c.decodeAt e u key line raw fresh scrub).1 = (decodeLine raw).line ∧ c.Reads P (c.decodeAt e u key line raw fresh scrub).2 := by
  unfold Coh.decodeAt
  extract_lets d nm mk c1 c2 c2' c3 c4 c5 v
  have h1 : c.Reads P c1 := c.reads_ctr (hcount _ _)
  have h2 : c1.Reads P c2 := by
    simp only [c2]
    split
    · exact {}
    · exact (c1.reads_ctr (hcount _ _)).trans (Coh.reads_emits _ (by simp [hbit, hcor]))
  have h2' : c2.Reads P c2' := by
    simp only [c2']
    split
    · next hscrub =>
      obtain ⟨-, hu⟩ := Bool.and_eq_true_iff.mp hscrub
      have hlog := (hmem (of_decide_eq_true hu)).1
      exact (c2.reads_ctr (hcount _ _)).trans (Coh.reads_emits _ (by simp [hbit, hlog]))
    · exact (c2.reads_ctr (hcount _ _)).trans (Coh.reads_emits _ (by simp [hfirst]))
  have h3 : c2.Reads P c3 := by
    simp only [c3]
    split
    · exact {}
    · split
      · exact h2'
      · next hu => exact h2'.trans (Coh.reads_emits _ (List.forall_mem_singleton.mpr ((hmem (Nat.le_of_not_lt hu)).2 _)))
  have h4 : c3.Reads P c4 := c3.reads_ctr (hcount _ _)
  have h5 : c4.Reads P c5 := by
    simp only [c5]
    split
    · exact {}
    · split
      · exact c4.reads_sram _
      · exact c4.reads_ddr _
  clear_value c1 c2 c3 c4 c5
  split
  · exact ⟨rfl, h1⟩
  · refine ⟨rfl, ((((h1.trans h2).trans h3).trans h4).trans h5).trans ?_⟩
    dsimp only
    split
    · exact c5.reads_cmiVerify _
    · exact c5.reads_memVerify _

end

theorem Coh.reads_readSlot {P : Fx → Prop} (c : Coh) (e : State) (k : Nat) (hcount : ∀ sel n, P (.count sel n))
    (hbit : ∀ u < 8, ∀ b, P (.regBit (ifErr u) b)) (hcor : ∀ u < 8, ∀ n, P (.corrected u n))
    (hfirst : ∀ u < 8, ∀ ev unit log, P (.first (ifErr u) 1 ev unit log true)) : c.Reads P (c.readSlot e k).2 := by
  have hu := (e.chan (slotSlice k)).isLt
  have hburst : c.Reads P (c.readBurst e k) := by
    unfold Coh.readBurst
    extract_lets ch r c1
    refine Coh.Reads.trans ?_ (c1.reads_ctr (hcount _ _))
    simp only [c1]
    split
    · exact {}
    · exact (c.reads_cmiRank _).trans (Coh.reads_ctr _ (hcount _ _))
  exact hburst.trans (Coh.reads_decodeAt _ e _ k _ _ true false hcount (hbit _ hu) (hcor _ hu) (hfirst _ hu) (fun h => absurd h (by omega))).2

/-! ### An engine at rest whose effects leave maintenance alone -/

structure Coh.Light (c : Coh) : Prop where
  rests : c.Rests
  nodeTx : c.nodeTx = []
  retiring : c.retiring = []
  calm : ∀ x ∈ c.fx, x.Calm

section
variable {c d : Coh}

theorem Coh.Light.reads (h : c.Light) (hr : c.Reads Fx.Calm d) : d.Light := by
  obtain ⟨hrests, hnode, hret, hcalm⟩ := h
  obtain ⟨l, hl, hP⟩ := hr.fx
  refine ⟨?_, (congrArg Coh.nodeTx hr.same :).trans hnode, (congrArg Coh.retiring hr.same :).trans hret, fun x hx => ?_⟩
  · have hsame := congrArg Coh.Rests hr.same
    exact (hsame.mpr hrests : d.unread.Rests)
  · rw [hl] at hx
    rcases List.mem_append.mp hx with hx | hx
    · exact hcalm x hx
    · exact hP x hx

theorem Coh.Light.putTag (h : c.Light) (k : Nat) (t : TagEntry) : (c.putTag k t).Light :=
  ⟨Coh.rests_putTag h.rests k t, h.nodeTx, h.retiring, h.calm⟩

theorem Coh.Light.woken (h : c.Light) : c.woken.Light := ⟨Coh.rests_woken h.rests, h.nodeTx, h.retiring, h.calm⟩

theorem Coh.Light.withHamper (h : c.Light) (l : List HamperEntry) : ({ c with hamper := l } : Coh).Light :=
  ⟨h.rests, h.nodeTx, h.retiring, h.calm⟩

theorem Coh.reads_sctr_calm (c : Coh) (s i n : Nat) : c.Reads Fx.Calm (c.sctr s i n) := c.reads_ctr (calm_count _ _)

theorem Coh.reads_unused (c : Coh) (k : Nat) : c.Reads Fx.Calm (c.unused k) := by
  unfold Coh.unused
  split
  · exact (c.reads_sctr_calm _ 7 1).trans (Coh.reads_emits _ (List.forall_mem_singleton.mpr (calm_prefetchUse false)))
  · exact {}

theorem Coh.reads_readSlot_calm (c : Coh) (e : State) (k : Nat) : c.Reads Fx.Calm (c.readSlot e k).2 :=
  c.reads_readSlot e k calm_count (fun _ hu => calm_regBit (ifErr_ne_mnt hu)) (fun _ hu => calm_corrected hu)
    (fun _ hu ev unit log => calm_first (ifErr_ne_mnt hu) 1 ev unit log true)

end

theorem State.runCoh_light {s : State} {f : Coh → Coh} (h : (f s.coh).Light) (hd : s.deadNodes = []) :
    (s.runCoh f).coh = { f s.coh with wake := false, fx := [] } ∧ SameMnt s (s.runCoh f) := by
  refine ⟨State.coh_runCoh_rests h.rests h.nodeTx h.retiring hd, ?_⟩
  rw [State.runCoh_rests h.rests h.nodeTx h.retiring hd]
  exact SameMnt.trans {} (sameMnt_foldl h.calm { s with coh := { f s.coh with wake := false, fx := [] } })

/-! ### One slot -/

/-- The slot loses its line, with the account of an unused prefetch. -/
def Coh.mntDrop (c : Coh) (k : Nat) : Coh := ((c.unused k).freeTag k).woken

/-- The modified line of a slot goes to the Hamper, as a copy where the slot keeps it. -/
def Coh.mntPut (c : Coh) (op : BitVec 2) (k : Nat) (h : HamperEntry) : Coh :=
  let c1 := if op = 0 then c.setTag k (fun t => { t with st := if t.st = tM then tE else tS }) else c.mntDrop k
  ({ c1 with hamper := c1.hamper ++ [h] } : Coh).sctr (slotSlice k) 0x15

section
variable {c : Coh} {e : State} {k : Nat} (hrow : c.checkRow (slotSlice k) (slotSet k) = c) (hspill : e.isSpill k = false)
  (hlock : c.lockedLine (c.slotLineAddr e k) = false) (hdrain : c.drainingInto (c.slotLineAddr e k) = false) (op : BitVec 2)
include hrow hspill hlock hdrain

theorem Coh.mntSlot_clean (hst : (c.tag k).st = tE ∨ (c.tag k).st = tS) :
    c.mntSlot e op k = some (if op = 0 then c.sctr (slotSlice k) 0x18 else (c.sctr (slotSlice k) 0x18).mntDrop k) := by
  have hother : (((c.tag k).st == tI) = false ∧ ((c.tag k).st == tT) = false) ∧ ((c.tag k).st == tF) = false := by
    rcases hst with h | h <;> rw [h] <;> decide
  unfold Coh.mntSlot
  rw [hrow]
  simp only [hspill, hother, hlock, hdrain, isMod_of_clean hst, Bool.or_self, Bool.false_eq_true, if_false]
  split <;> rfl

theorem Coh.mntSlot_modified (hst : (c.tag k).st = tM) (hfull : c.hamperFull (slotSlice k) = false) :
    ∃ h : HamperEntry, h.line = c.slotLineAddr e k ∧ h.copy = (op == 0) ∧ c.mntSlot e op k = some (
      if op = 2 then (c.sctr (slotSlice k) 0x18).mntDrop k
      else ((c.sctr (slotSlice k) 0x18).readSlot e k).2.mntPut op k h) := by
  let h : HamperEntry := { line := c.slotLineAddr e k, cl := ((c.sctr (slotSlice k) 0x18).readSlot e k).1, st := (c.tag k).st, copy := op == 0,
                           keepSt := if e.isHome (c.slotLineAddr e k) then 0 else keptState (c.tag k).st }
  refine ⟨h, rfl, rfl, ?_⟩
  have hother : ((((c.tag k).st == tI) = false ∧ ((c.tag k).st == tT) = false) ∧ ((c.tag k).st == tF) = false) ∧
      isMod (c.tag k).st = true := by
    rw [hst]
    decide
  have hroom : (c.sctr (slotSlice k) 0x18).hamperFull (slotSlice k) = false := hfull
  have htag : (((c.sctr (slotSlice k) 0x18).readSlot e k).2.tag k).pf = (c.tag k).pf :=
    congrArg TagEntry.pf (Coh.tag_congr (Coh.Reads.tags (Coh.reads_readSlot_calm (c.sctr (slotSlice k) 0x18) e k)) k)
  unfold Coh.mntSlot
  rw [hrow]
  simp only [hspill, hother, hlock, hdrain, hroom, Bool.or_self, Bool.false_eq_true, if_false, if_true, Coh.mntPut, Coh.mntDrop, Coh.unused,
    htag]
  split <;> rfl

end

theorem Coh.mntDrop_light {c : Coh} (h : c.Light) (k : Nat) : (c.mntDrop k).Light := ((h.reads (c.reads_unused k)).putTag k tagFree).woken

theorem Coh.mntDrop_hamper (c : Coh) (k : Nat) : (c.mntDrop k).hamper = c.hamper := (c.reads_unused k).hamper

theorem Coh.tag_mntDrop {c : Coh} (h : Sparse.wf (fun _ => tagFree) c.tags = true) (k : Nat) : (c.mntDrop k).tag k = tagFree :=
  Coh.tag_freeTag (c := c.unused k) (by rw [(c.reads_unused k).tags]; exact h) k

theorem Coh.mntPut_light {c : Coh} (hc : c.Light) (op : BitVec 2) (k : Nat) (h : HamperEntry) : (c.mntPut op k h).Light := by
  unfold Coh.mntPut
  extract_lets c1
  have h1 : c1.Light := by
    simp only [c1]
    split
    · exact hc.putTag k _
    · exact Coh.mntDrop_light hc k
  exact (h1.withHamper _).reads (Coh.reads_sctr_calm _ _ _ _)

theorem Coh.mntPut_hamper (c : Coh) (op : BitVec 2) (k : Nat) (h : HamperEntry) : (c.mntPut op k h).hamper = c.hamper ++ [h] := by
  unfold Coh.mntPut
  extract_lets c1
  have h1 : c1.hamper = c.hamper := by
    simp only [c1]
    split
    · rfl
    · exact c.mntDrop_hamper k
  rw [(Coh.reads_sctr_calm _ _ _ _).hamper, h1]

theorem Coh.tag_mntPut {c : Coh} (hwf : Sparse.wf (fun _ => tagFree) c.tags = true) (op : BitVec 2) {k : Nat} (h : HamperEntry)
    (hst : (c.tag k).st = tM) : (op = 0 → ((c.mntPut op k h).tag k).st = tE) ∧ (op ≠ 0 → (c.mntPut op k h).tag k = tagFree) := by
  unfold Coh.mntPut
  extract_lets c1
  have htag : (({ c1 with hamper := c1.hamper ++ [h] } : Coh).sctr (slotSlice k) 0x15).tag k = c1.tag k :=
    Coh.tag_congr (Coh.reads_sctr_calm { c1 with hamper := c1.hamper ++ [h] } (slotSlice k) 0x15 1).tags k
  rw [htag]
  refine ⟨fun hop => ?_, fun hop => ?_⟩
  · rw [show c1 = _ from if_pos hop, Coh.setTag, Coh.tag_putTag hwf, if_pos rfl]
    exact if_pos hst
  · rw [show c1 = _ from if_neg hop]
    exact Coh.tag_mntDrop hwf k

/-! ### START -/

theorem slotSlice_slotKey {a set way : Nat} (hset : set < 8192) (hway : way < 16) : slotSlice (slotKey a set way) = a := by
  unfold slotSlice slotKey
  omega

theorem slotSet_slotKey {a set way : Nat} (hset : set < 8192) (hway : way < 16) : slotSet (slotKey a set way) = set := by
  unfold slotSet slotKey
  omega

theorem State.sets_le (s : State) : s.sets ≤ 8192 := by
  unfold State.sets setsOf
  split
  · decide
  · split <;> decide

/-- An operation on slots is latched, and busy. -/
def State.mntBegin (s : State) (m : Maint) : State := ({ s with mnt := m } : State).wb F.GLB_MNT_STAT.BUSY true

theorem State.rf_mntBegin {s : State} (h : Inv.registers s) (m : Maint) (f : RField) (hf : Reg.GLB_MNT_STAT ≠ f.off) :
    (s.mntBegin m).rf f = s.rf f :=
  congrArg (fun w => fld w f.lo f.width) (State.rg_wb_other (s := { s with mnt := m }) h F.GLB_MNT_STAT.BUSY _ _ hf)

/-- The one set of an operation is visited: the operation is left with none. -/
theorem State.mntSets_single {s : State} {d : Coh} {set : Nat} (hsets : s.mnt.sets = [set])
    (hslot : s.coh.mntSlot s s.mnt.op (slotKey s.mnt.slice set s.mnt.way) = some d) (hd : d.Light) (hdead : s.deadNodes = []) :
    s.mntSets.coh = { d with wake := false, fx := [] } ∧ s.mntSets.mnt = { s.mnt with sets := [] } ∧
      (Inv.registers s → s.mntSets.rg Reg.GLB_MNT_STAT = s.rg Reg.GLB_MNT_STAT) := by
  have hsweep : mntSweep s s.mnt.slice s.mnt.way s.mnt.op s.mnt.sets s.coh = ([], d) := by
    rw [hsets]
    simp only [mntSweep, hslot]
  obtain ⟨f, hf⟩ : ∃ f, f = fun c => (mntSweep s s.mnt.slice s.mnt.way s.mnt.op s.mnt.sets c).2 := ⟨_, rfl⟩
  have hrun : f s.coh = d := by
    rw [hf]
    exact congrArg Prod.snd hsweep
  obtain ⟨hcoh, hsame⟩ := State.runCoh_light (s := s) (f := f) (hrun.symm ▸ hd) hdead
  rw [hrun] at hcoh
  have hop : s.mntSets = { s.runCoh f with mnt := { (s.runCoh f).mnt with sets := [] } } := by
    simp only [State.mntSets, hsweep, hf]
  rw [hop]
  generalize s.runCoh f = u at hcoh hsame
  refine ⟨hcoh, ?_, hsame.stat⟩
  rw [hsame.mnt]

section
variable {s : State} (h : Inv.registers s)
include h

/-- What a START by set and way does where its slot is visited at once. -/
theorem mntStart_slot {op : BitVec 2} (hop : op ≠ 3) (hbusy : s.rb F.GLB_MNT_STAT.BUSY = false) (hstart : s.refusing = false)
    (hall : bit (s.rg Reg.GLB_MNT_SW) 31 = false) (hset : s.rf F.GLB_MNT_SW.SET < s.sets) (hdead : s.deadNodes = []) {P : Coh → Prop}
    (hslot : ∀ e : State, e.sets = s.sets → (∀ k, e.isSpill k = s.isSpill k) → ∃ d,
      s.coh.mntSlot e op (slotKey (s.rf F.GLB_MNT_SW.SLICE) (s.rf F.GLB_MNT_SW.SET) (s.rf F.GLB_MNT_SW.WAY)) = some d ∧ d.Light ∧ P d)
    {c : Instr} (hc : exec c s = .next (s.mntStart op true 0)) : Does c s (fun t =>
      t.mnt = { op := op, sw := true, slice := s.rf F.GLB_MNT_SW.SLICE, way := s.rf F.GLB_MNT_SW.WAY } ∧
      t.rb F.GLB_MNT_STAT.BUSY = true ∧ ∃ d, P d ∧ t.coh = { d with wake := false, fx := [] }) := by
  let s1 := s.mntOpSet op true
  have h1 : Inv.registers s1 := State.mntOpSet_registers h op true
  have hsw : s1.rg Reg.GLB_MNT_SW = s.rg Reg.GLB_MNT_SW := State.rg_mntOpSet h op true (by decide)
  have hsets : s1.sets = s.sets := congrArg setsOf (State.rf_mntOpSet h op true F.GLB_CACHE_CFG.CAP (by decide))
  let m : Maint := { op := op, sw := true, slice := s.rf F.GLB_MNT_SW.SLICE, way := s.rf F.GLB_MNT_SW.WAY, sets := [s.rf F.GLB_MNT_SW.SET] }
  let s2 := s1.mntBegin m
  have h2 : Inv.registers s2 := State.wb_regs_wf (s := { s1 with mnt := m }) h1 _ _
  have hrun : s.mntStart op true 0 = s2.mntSets := by
    have hno : (s1.rb F.GLB_MNT_STAT.BUSY || s1.refusing) = false := by
      rw [State.rb_mntOpSet h op true F.GLB_MNT_STAT.BUSY (by decide), hbusy]
      exact hstart
    have hslot1 : ∀ f : RField, f.off = Reg.GLB_MNT_SW → s1.rf f = s.rf f := fun f hf =>
      State.rf_mntOpSet h op true f (by rw [hf]; decide)
    have hin : ¬ s1.sets ≤ s1.rf F.GLB_MNT_SW.SET := by
      rw [hsets, hslot1 _ rfl]
      omega
    unfold State.mntStart
    change (if (s1.rb F.GLB_MNT_STAT.BUSY || s1.refusing) = true then _ else _) = _
    rw [hno, if_neg Bool.false_ne_true, if_neg hop, if_pos rfl]
    let m1 : Maint := { op := op, sw := true, slice := s1.rf F.GLB_MNT_SW.SLICE, way := s1.rf F.GLB_MNT_SW.WAY,
                        sets := if bit (s1.rg Reg.GLB_MNT_SW) 31 = true then List.range s1.sets else [s1.rf F.GLB_MNT_SW.SET] }
    have hm1 : m1 = m := by
      simp only [m1, m, hsw, hall, Bool.false_eq_true, if_false, hslot1 F.GLB_MNT_SW.SET rfl, hslot1 F.GLB_MNT_SW.SLICE rfl,
        hslot1 F.GLB_MNT_SW.WAY rfl]
    change (if s1.sets ≤ s1.rf F.GLB_MNT_SW.SET then _ else (s1.mntBegin m1).mntSets) = _
    rw [if_neg hin, hm1]
  have hsets2 : s2.sets = s.sets := (congrArg setsOf (State.rf_mntBegin h1 m F.GLB_CACHE_CFG.CAP (by decide))).trans hsets
  have hspill2 : ∀ k, s2.isSpill k = s.isSpill k := fun k => by
    have hsize : s2.rf F.GLB_SPILL_CFG.SIZE_MIB = s.rf F.GLB_SPILL_CFG.SIZE_MIB :=
      (State.rf_mntBegin h1 m _ (by decide)).trans (State.rf_mntOpSet h op true _ (by decide))
    rw [State.isSpill, hsize, State.isSpill]
  obtain ⟨d, hvisit, hd, hP⟩ := hslot s2 hsets2 hspill2
  obtain ⟨hcoh, hmnt, hstat⟩ := State.mntSets_single (s := s2) (set := s.rf F.GLB_MNT_SW.SET) rfl hvisit hd hdead
  refine Does.of_exec (hc.trans (congrArg Host.Outcome.next hrun)) ⟨hmnt, ?_, d, hP, hcoh⟩
  have hbusy2 : s2.rb F.GLB_MNT_STAT.BUSY = true := State.rb_wb_same (s := { s1 with mnt := m }) h1 F.GLB_MNT_STAT.BUSY _ (by decide) rfl
  exact (congrArg (fun w => fld w F.GLB_MNT_STAT.BUSY.lo F.GLB_MNT_STAT.BUSY.width != 0) (hstat h2)).trans hbusy2

end

theorem Coh.light_of_idle {s : State} (h : Idle s) : s.coh.Light := by
  obtain ⟨hquiet, hret, hfx, -⟩ := h
  obtain ⟨hrests, hnode⟩ := Coh.rests_of_quiet hquiet
  exact ⟨hrests, hnode, hret, by simp [hfx]⟩

/-- Settles O28. -/
theorem maintenanceBySetWay : Obligations.MaintenanceBySetWay := by
  intro s hinv hserve hidle hbusy hstart hall hset k l hrow hspill hlock hdrain m x hx
  have h := hinv.2.1
  have hwf : Sparse.wf (fun _ => tagFree) s.coh.tags = true := hinv.2.2.1.1
  have hway : s.rf F.GLB_MNT_SW.WAY < 16 := s.rf_lt F.GLB_MNT_SW.WAY
  have hk : slotSlice k = s.rf F.GLB_MNT_SW.SLICE ∧ slotSet k = s.rf F.GLB_MNT_SW.SET :=
    ⟨slotSlice_slotKey (hset.trans_le s.sets_le) hway, slotSet_slotKey (hset.trans_le s.sets_le) hway⟩
  have hrow' : s.coh.checkRow (slotSlice k) (slotSet k) = s.coh := by rw [hk.1, hk.2, hrow]
  have hline : ∀ e : State, e.sets = s.sets → s.coh.slotLineAddr e k = l := fun e he =>
    congrArg (fun n => lineOfTag n (slotSlice k) (slotSet k) (s.coh.tag k).tag) he
  have hon : ∀ f, Host.Outcome.next (s.onReg f) = (.next (f s) : Host.Outcome State Fault Refusal) := fun f =>
    congrArg Host.Outcome.next (State.onReg_of_serving hserve f)
  have hc : x.2 ≠ 3 ∧ exec x.1 s = .next (s.mntStart x.2 true 0) := by
    simp only [List.mem_cons, List.not_mem_nil, or_false] at hx
    obtain rfl | rfl | rfl := hx
    · exact ⟨by decide, hon opMntCleanSw⟩
    · exact ⟨by decide, hon opMntFlushSw⟩
    · exact ⟨by decide, hon opMntInvalSw⟩
  have hlight := Coh.light_of_idle hidle
  have hcount := Coh.reads_sctr_calm s.coh (slotSlice k) 0x18 1
  have hwf' : Sparse.wf (fun _ => tagFree) (s.coh.sctr (slotSlice k) 0x18).tags = true := by rw [hcount.tags]; exact hwf
  have hdrop : ((s.coh.sctr (slotSlice k) 0x18).mntDrop k).Light ∧ ((s.coh.sctr (slotSlice k) 0x18).mntDrop k).tag k = tagFree ∧
      ((s.coh.sctr (slotSlice k) 0x18).mntDrop k).hamper = s.coh.hamper :=
    ⟨Coh.mntDrop_light (hlight.reads hcount) k, Coh.tag_mntDrop hwf' k, (Coh.mntDrop_hamper _ k).trans hcount.hamper⟩
  refine ⟨fun hst => ?_, fun hst hfull => ?_⟩
  · refine Does.mono (mntStart_slot (P := fun d => d.tag k = (if x.2 = 0 then s.coh.tag k else tagFree) ∧ d.hamper = s.coh.hamper)
      h hc.1 hbusy hstart hall hset hidle.2.2.2 (fun e hsets hsp => ?_) hc.2) ?_
    · refine ⟨_, Coh.mntSlot_clean hrow' ((hsp k).trans hspill) (by rw [hline e hsets, hlock]) (by rw [hline e hsets, hdrain]) x.2 hst, ?_⟩
      split
      · exact ⟨hlight.reads hcount, Coh.tag_congr hcount.tags k, hcount.hamper⟩
      · exact hdrop
    · rintro t ⟨hmnt, hb, d, ⟨htag, hham⟩, hcoh⟩
      rw [hcoh]
      exact ⟨hmnt, hb, htag, hham⟩
  · refine Does.mono (mntStart_slot (P := fun d => (x.2 = 0 → (d.tag k).st = tE) ∧ (x.2 ≠ 0 → d.tag k = tagFree) ∧
        (x.2 = 2 → d.hamper = s.coh.hamper) ∧ (x.2 ≠ 2 → ∃ h, d.hamper = s.coh.hamper ++ [h] ∧ h.line = l ∧ h.copy = (x.2 == 0)))
      h hc.1 hbusy hstart hall hset hidle.2.2.2 (fun e hsets hsp => ?_) hc.2) ?_
    · obtain ⟨g, hgline, hgcopy, hvisit⟩ := Coh.mntSlot_modified hrow' ((hsp k).trans hspill) (by rw [hline e hsets, hlock])
        (by rw [hline e hsets, hdrain]) x.2 hst hfull
      refine ⟨_, hvisit, ?_⟩
      split
      · next hop =>
        exact ⟨hdrop.1, fun h0 => absurd (h0.symm.trans hop) (by decide), fun _ => hdrop.2.1, fun _ => hdrop.2.2, fun hne => absurd hop hne⟩
      · next hop =>
        have hread := hcount.trans (Coh.reads_readSlot_calm (s.coh.sctr (slotSlice k) 0x18) e k)
        have htags := Coh.tag_mntPut (hread.tags ▸ hwf) x.2 g ((congrArg TagEntry.st (Coh.tag_congr hread.tags k)).trans hst)
        refine ⟨Coh.mntPut_light (hlight.reads hread) x.2 k g, htags.1, htags.2, fun h2 => absurd h2 hop,
          fun _ => ⟨g, ?_, hgline.trans (hline e hsets), hgcopy⟩⟩
        rw [Coh.mntPut_hamper, hread.hamper]
    · rintro t ⟨hmnt, hb, d, hP, hcoh⟩
      rw [hcoh]
      exact ⟨hmnt, hb, hP⟩

end Sys2Proof.Machine
end

section
/-! PROOFS. Report passes of the Darner (R325, R330). -/

namespace Sys2Proof.Machine
open Sys2Proof

/-- A command that runs the engine and leaves it at rest: what it makes of the engine, and what it raises. -/
theorem Does.of_run {i : Instr} {s : State} {f : Coh → Coh} {d : Coh} {P : State → Prop} (hi : exec i s = .next (s.runCoh f)) (hf : f s.coh = d)
    (h : d.Rests) (hn : d.nodeTx = []) (hr : d.retiring = []) (hd : s.deadNodes = [])
    (hP : ∀ t : State, t.coh = { d with wake := false, fx := [] } →
      (∀ x ∈ d.fx, ∀ ev, (∀ s, Raised (applyFx s x) ev) → Raised t ev) → P t) : Does i s P := by
  subst hf
  refine Does.of_exec hi (hP _ (State.coh_runCoh_rests h hn hr hd) fun x hx ev hev => ?_)
  rw [State.runCoh_rests h hn hr hd]
  exact raised_foldl_applyFx hev hx _

theorem raised_log {ev : Nat} (hev : evReserved ev = false) (u : Nat) (d : BitVec 128) (s : State) :
    Raised (applyFx s (.log ev u true d)) ev := State.raiseLog_pend s ev u d hev

theorem Coh.rests_setTag {c : Coh} (h : c.Rests) (k : Nat) (f : TagEntry → TagEntry) : (c.setTag k f).Rests := by
  unfold Coh.setTag
  exact Coh.rests_putTag h k _

/-! ### A slot -/

section
variable {c0 c : Coh} {e : State} {sl : SliceNo} {k : Nat} {l : LineAddr}

theorem Coh.slotReport_valid (hc : c = { c0 with slotReports := [] }) (hone : c0.slotReports = [(k, l)]) (hsl : slotSlice k = sl.val)
    (hlock : c.lockedLine l = false) (hrow : c.readRow e l = c) (hspill : e.isSpill k = false) (hline : c.slotLineAddr e k = l)
    (hvalid : isValid (c.tag k).st = true) : ∃ d, c0.slotReport e sl =
      if isMod (c.tag k).st then c.setTag k (fun t => { t with poison := true })
      else ((c.evictSlot e k).sctr sl 0x41).emit (.log 142 sl true d) := by
  have hlock0 : c0.lockedLine l = false := by rw [← hlock, hc]; rfl
  have htake : takeFirst (fun (x : Nat × LineAddr) => slotSlice x.1 == sl.val && !c0.lockedLine x.2) c0.slotReports = some ((k, l), []) := by
    rw [hone]
    exact if_pos (by simp [hsl, hlock0])
  refine ⟨formASlot (some (saOf l)) reqDevice (linePoison (c.rawSlot e k)).toNat e.node sl (slotSet k) (slotWay k), ?_⟩
  unfold Coh.slotReport
  rw [htake]
  dsimp only
  rw [← hc, hrow]
  simp only [hspill, hvalid, hline, Bool.not_true, bne_self_eq_false, Bool.or_self, Bool.false_eq_true, if_false]

end

section
variable {s : State} {sl : SliceNo} {k : Nat} {l : LineAddr} {c : Coh} (hc : c = { s.coh with slotReports := [] })
  (hwf : Sparse.wf (fun _ => tagFree) c.tags = true) (hdead : s.deadNodes = []) (hret : c.retiring = [])
  (hquiet : c.quiet = true) (hone : s.coh.slotReports = [(k, l)]) (hsl : slotSlice k = sl.val) (hlock : c.lockedLine l = false)
  (hrow : c.readRow s l = c) (hspill : s.isSpill k = false) (hline : c.slotLineAddr s k = l)
include hc hwf hdead hret hquiet hone hsl hlock hrow hspill hline

/-- A clean line leaves, with EV142. -/
theorem scrubUeReport_clean (hhome : s.isHome l = true) (hst : (c.tag k).st = tE) :
    Does (.scrubUeReport sl) s (fun t => t.coh.slotReports = [] ∧ t.coh.tag k = tagFree ∧ Raised t 142) := by
  obtain ⟨hrests, hnode⟩ := Coh.rests_of_quiet hquiet
  obtain ⟨d, hrep⟩ := Coh.slotReport_valid hc hone hsl hlock hrow hspill hline (isValid_of_clean (.inl hst))
  obtain ⟨fx, hev⟩ := Coh.evictSlot_clean (c := c) (e := s) (.inl hst) (by rw [hline, hhome]) false
  obtain ⟨fx', hctr⟩ := Coh.sctr_eq (({ c with fx := c.fx ++ fx } : Coh).freeTag k) sl 0x41 1
  rw [isMod_of_clean (.inl hst), if_neg Bool.false_ne_true, hev, hctr] at hrep
  let u : Coh := ({ c with fx := c.fx ++ fx } : Coh).freeTag k
  have hu : u.Rests := Coh.rests_putTag (Coh.rests_fx hrests _) k tagFree
  have htag : u.tag k = tagFree := Coh.tag_freeTag hwf k
  refine Does.of_run (d := { u with wake := true, fx := u.fx ++ fx' ++ [.log 142 sl true d] }) rfl (congrArg Coh.woken hrep) hu hnode hret hdead
    fun t hcoh hev => ⟨?_, ?_, hev _ (List.mem_append_right _ (List.mem_singleton_self _)) 142 (raised_log (by decide) sl d)⟩
  · rw [hcoh]
    exact congrArg Coh.slotReports hc
  · rw [hcoh]
    exact htag

/-- A modified line is marked poisoned, and stays. -/
theorem scrubUeReport_modified (hst : (c.tag k).st = tM) : Does (.scrubUeReport sl) s (fun t => t.coh.slotReports = [] ∧
    (t.coh.tag k).poison = true ∧ (t.coh.tag k).st = tM) := by
  obtain ⟨hrests, hnode⟩ := Coh.rests_of_quiet hquiet
  obtain ⟨d, hrep⟩ := Coh.slotReport_valid hc hone hsl hlock hrow hspill hline (by rw [hst]; decide)
  rw [show isMod (c.tag k).st = true by rw [hst]; decide, if_pos rfl] at hrep
  have htag : (c.setTag k (fun t => { t with poison := true })).tag k = mkTag (c.tag k).tag tM (c.tag k).age true (c.tag k).pf := by
    rw [Coh.setTag, Coh.tag_putTag hwf, if_pos rfl, hst]
  refine Does.of_run (d := (c.setTag k (fun t => { t with poison := true })).woken) rfl (congrArg Coh.woken hrep)
    (Coh.rests_setTag hrests k (fun t => { t with poison := true })) hnode hret hdead fun t hcoh _ => ?_
  have htag' : t.coh.tag k = mkTag (c.tag k).tag tM (c.tag k).age true (c.tag k).pf := by
    rw [hcoh]
    exact htag
  refine ⟨?_, by rw [htag']; rfl, by rw [htag']; rfl⟩
  rw [hcoh]
  exact congrArg Coh.slotReports hc

end

/-! ### A line of memory -/

theorem Coh.asleep_of_fx {c : Coh} (h : c.fx = []) : ({ c with wake := false, fx := [] } : Coh) = Asleep c := by
  cases c
  cases h
  rfl

/-- A line accepted by a memory port: the reads in flight there, its store and the counts change. -/
theorem Coh.writeMem_eq (c : Coh) (l : LineAddr) (cl : CodeLine) : ∃ q d fx, c.writeMem l cl = { c with memQ := q, ddr := d, fx := c.fx ++ fx } := by
  unfold Coh.writeMem Coh.ctr
  exact ⟨_, _, _, rfl⟩

/-- A repair of a memory line (R325): the line is written, with an owed verify read, its counts and EV141. -/
def Coh.memRepair (c : Coh) (m : MemNo) (l : LineAddr) (cl : CodeLine) (d : BitVec 128) : Coh :=
  let c2 := (c.writeMem l cl).ctr (ctrSel 4 m 3)
  let v : Verify := { key := memIndex l, line := l, cl := cl, scrub := true }
  let c3 := { c2 with memVerify := vmod c2.memVerify m (· ++ [v]) }
  (c3.ctr (ctrSel 7 0 1)).emit (.log 141 (unitMem m) true d)

theorem Coh.memRepair_eq (c : Coh) (m : MemNo) (l : LineAddr) (cl : CodeLine) (det : BitVec 128) : ∃ q v fx, c.memRepair m l cl det =
    { c with memQ := q, ddr := (c.writeMem l cl).ddr, memVerify := v, fx := fx ++ [.log 141 (unitMem m) true det] } := by
  obtain ⟨q, d, fx, hw⟩ := c.writeMem_eq l cl
  unfold Coh.memRepair
  rw [hw, Coh.ctr_eq, Coh.ctr_eq]
  exact ⟨_, _, _, rfl⟩

section
variable {s : State} {m : MemNo} {l : LineAddr} {first : Bool} {c : Coh} (hc : c = { s.coh with memReports := [] })
  (hdead : s.deadNodes = []) (hret : c.retiring = []) (hquiet : c.quiet = true)
  (hone : s.coh.memReports = [(memIndex l, l, first)]) (hm : memOf l = m) (hlock : c.lockedLine l = false) (hrow : c.readRow s l = c)
include hc hone hm hlock

theorem takeFirst_memReports : takeFirst (fun (x : Nat × LineAddr × Bool) => memOf x.2.1 == m && !s.coh.lockedLine x.2.1) s.coh.memReports =
    some ((memIndex l, l, first), []) := by
  have hlock0 : s.coh.lockedLine l = false := by rw [← hlock, hc]; rfl
  rw [hone]
  exact if_pos (by simp [hm, hlock0])

include hrow

/-- A line without a copy in the cache is left marked. -/
theorem Coh.memReport_left (hhit : c.hitSlot s l = none) :
    s.coh.memReport s m = if first then c.emit (.raise 139 (unitMem m)) else c := by
  unfold Coh.memReport
  rw [takeFirst_memReports hc hone hm hlock]
  dsimp only
  rw [← hc, hrow, hhit]

include hdead hret hquiet

theorem memUeReport_left (hfx : c.fx = []) (hhit : c.hitSlot s l = none) :
    (first = false → Does (.memUeReport m) s (fun t => t = { s with coh := Asleep c })) ∧
    (first = true → Does (.memUeReport m) s (fun t => Raised t 139 ∧ t = { s with coh := Asleep c, mon := t.mon })) := by
  obtain ⟨hrests, hnode⟩ := Coh.rests_of_quiet hquiet
  have hrep := Coh.memReport_left hc hone hm hlock hrow hhit
  obtain ⟨f, hfd⟩ : ∃ f, f = fun c : Coh => (c.memReport s m).woken := ⟨_, rfl⟩
  have hop : exec (.memUeReport m) s = .next (s.runCoh f) := by rw [hfd]; rfl
  have hfc : f s.coh = (s.coh.memReport s m).woken := by rw [hfd]
  refine ⟨fun hfirst => ?_, fun hfirst => ?_⟩ <;> rw [hrep, hfirst] at hfc
  · refine Does.of_exec (hop.trans (congrArg Host.Outcome.next ?_)) rfl
    rw [State.runCoh_quiet s f (by rw [hfc]; exact hquiet) (by rw [hfc]; exact hret) (by rw [hfc]; exact hfx) hdead, hfc]
    rfl
  · have hrun : s.runCoh f = ({ s with coh := Asleep c } : State).raise 139 (unitMem m) := by
      rw [State.runCoh_rests (by rw [hfc]; exact hrests) (by rw [hfc]; exact hnode) (by rw [hfc]; exact hret) hdead, hfc]
      have hrest : ({ c with wake := false, fx := [] } : Coh) = Asleep c := Coh.asleep_of_fx hfx
      simp only [if_true, Coh.emit, Coh.woken, hfx, List.nil_append, List.foldl_cons, List.foldl_nil, applyFx, hrest]
    exact Does.of_exec (hop.trans (congrArg Host.Outcome.next hrun)) ⟨State.raise_pend _ 139 _ (by decide), rfl⟩

/-- With a clean copy the line is repaired, with EV141. -/
theorem memUeReport_repaired {k : Nat} (hwf : CohWf c) (hhit : c.hitSlot s l = some k) (hrepair : s.rb F.DAR_CTL.REPAIR_EN = true)
    (hst : (c.tag k).st = tE) (hpoison : (c.tag k).poison = false) : Does (.memUeReport m) s (fun t => t.coh.memReports = [] ∧
      t.coh.rawMem m (memIndex l) = (c.readSlot s k).1 ∧ Raised t 141) := by
  obtain ⟨hrests, hnode⟩ := Coh.rests_of_quiet hquiet
  have hread : c.Reads (fun _ => True) (c.readSlot s k).2 :=
    c.reads_readSlot s k (fun _ _ => trivial) (fun _ _ _ => trivial) (fun _ _ _ => trivial) (fun _ _ _ _ _ => trivial)
  have hwf2 : CohWf (c.readSlot s k).2 := (Coh.readSlot_ok (p := True) ⟨fun _ => hwf⟩ s k).wf trivial
  have hrep : ∃ det, s.coh.memReport s m = (c.readSlot s k).2.memRepair m l (c.readSlot s k).1 det := by
    have hmod : isMod (c.tag k).st = false := by rw [hst]; decide
    unfold Coh.memReport
    rw [takeFirst_memReports hc hone hm hlock]
    dsimp only
    rw [← hc, hrow, hhit]
    simp only [hrepair, hmod, hpoison, Bool.not_true, Bool.or_self, Bool.false_eq_true, if_false]
    exact ⟨_, rfl⟩
  generalize c.readSlot s k = r at hread hwf2 hrep
  obtain ⟨det, hrep⟩ := hrep
  obtain ⟨q, v, fx, hrepair⟩ := r.2.memRepair_eq m l r.1 det
  have hrests2 : r.2.unread.Rests := (congrArg Coh.Rests hread.same).mpr hrests
  refine Does.of_run (d := { r.2 with wake := true, memQ := q, ddr := (r.2.writeMem l r.1).ddr, memVerify := v,
                                        fx := fx ++ [.log 141 (unitMem m) true det] }) rfl
    (congrArg Coh.woken (hrep.trans hrepair)) hrests2 ((congrArg Coh.nodeTx hread.same :).trans hnode) ((congrArg Coh.retiring hread.same :).trans hret) hdead
    fun t hcoh hev => ⟨?_, ?_, hev _ (List.mem_append_right _ (List.mem_singleton_self _)) 141 (raised_log (by decide) _ det)⟩
  · rw [hcoh]
    exact (congrArg Coh.memReports hread.same :).trans (congrArg Coh.memReports hc)
  · have hraw : t.coh.rawMem m (memIndex l) = (r.2.writeMem l r.1).rawMem m (memIndex l) := by
      rw [hcoh, Coh.rawMem, Coh.rawMem]
    rw [hraw, Coh.rawMem_writeMem hwf2.ddr, if_pos ⟨hm, rfl⟩]

end

/-- Settles O37. -/
theorem scrubReports : Obligations.ScrubReports := by
  rintro s ⟨⟨hddr, hsram⟩, -, ⟨htags, hpp, hsnf, hdir⟩, -⟩ hdead hret hfx
  refine ⟨fun sl k l => ?_, fun m k l first => ?_⟩
  · intro c hone hsl hquiet hlock hrow hspill hline hhome
    exact ⟨scrubUeReport_clean rfl htags hdead hret hquiet hone hsl hlock hrow hspill hline hhome,
      scrubUeReport_modified rfl htags hdead hret hquiet hone hsl hlock hrow hspill hline⟩
  · intro c hone hm hquiet hlock hrow
    have hleft := memUeReport_left (c := c) rfl hdead hret hquiet hone hm hlock hrow hfx
    exact ⟨fun hhit => (hleft hhit).1, fun hhit => (hleft hhit).2,
      memUeReport_repaired rfl hdead hret hquiet hone hm hlock hrow ⟨htags, hpp, hsnf, hdir, hddr, hsram⟩⟩

end Sys2Proof.Machine
end

section
/-! PROOFS. Reads that return (R316, R330). -/

namespace Sys2Proof.Machine
open Sys2Proof

/-! ### A round with one request in service -/

/-- The agent that sent a request is dead. -/
def Req.deadSource (r : Req) (e : State) : Bool := match r.src with | .agent p => e.dead p | _ => false

/-- The acknowledgement of a dead agent is not awaited. -/
def Txn.acked (t : Txn) (e : State) : Txn := if t.req.deadSource e then { t with ackPending := false } else t

/-- As `Rests`, but for the requests in service. -/
def Coh.Serves (c : Coh) : Prop :=
  c.wait = [] ∧ c.homeTx = [] ∧ c.setRecalls = [] ∧ c.flows = [] ∧ c.snoops = [] ∧ c.hamperWait = [] ∧ c.snpWait = []

section
variable {c : Coh} {e : State} {x : Txn}

theorem Coh.deadAcks_one (htx : c.txns = [x]) (hsn : c.snoops = []) (hx : x.phase ≠ .useOnce) :
    c.deadAcks e = { c with txns := [x.acked e] } := by
  have hphase : (x.phase == Phase.useOnce) = false := beq_eq_false_iff_ne.mpr hx
  unfold Coh.deadAcks
  simp only [htx, hsn, hphase, Bool.and_false, Bool.false_and, List.filter_cons, List.filter_nil, Bool.false_eq_true, if_false,
    List.foldl_nil, List.map_cons, List.map_nil]
  rfl

/-- A round with one request in service advances it, and then passes what waits. -/
theorem Coh.round_one (htx : c.txns = [x]) (h : c.Serves) (hx : x.phase ≠ .useOnce) (hd : e.deadNodes = []) :
    c.round e = (fun d : Coh => Coh.passAll e d.wait.length d.wait { d with wait := [] })
      (Coh.advance e x.req.line 8 { c with wake := false, txns := [x.acked e] }) := by
  obtain ⟨-, h4, h5, h6, h7, h10, h11⟩ := h
  have hline : (x.acked e).req.line = x.req.line := by
    unfold Txn.acked
    split <;> rfl
  have a : (({ c with wake := false } : Coh).deadNodes e) = { c with wake := false } := by
    unfold Coh.deadNodes
    rw [hd]
    rfl
  have b : ({ c with wake := false } : Coh).deadAcks e = { c with wake := false, txns := [x.acked e] } :=
    Coh.deadAcks_one (c := { c with wake := false }) htx h7 hx
  obtain ⟨y, hy⟩ : ∃ y : Coh, y = { c with wake := false, txns := [x.acked e] } := ⟨_, rfl⟩
  have l2 : y.txns = [x.acked e] := by rw [hy]
  have l4 : y.homeTx = [] := by rw [hy]; exact h4
  have l5 : y.setRecalls = [] := by rw [hy]; exact h5
  have l6 : y.flows = [] := by rw [hy]; exact h6
  have l7 : y.snoops = [] := by rw [hy]; exact h7
  have l10 : y.hamperWait = [] := by rw [hy]; exact h10
  have l11 : y.snpWait = [] := by rw [hy]; exact h11
  have d : y.deadSnoops e = y := by
    unfold Coh.deadSnoops
    simp [l7]
  have g : y.hamperNext e = y := by
    unfold Coh.hamperNext
    simp [l10]
  have k : y.snpNext e = y := by
    unfold Coh.snpNext
    cases y
    cases l11
    rfl
  unfold Coh.round
  rw [← hy] at b ⊢
  simp only [a, b, d, l6, List.foldl_nil, g, k, l4, l5, l2, List.foldl_cons, hline]

end

/-- A request whose line is not in hand stays as it is, but for an acknowledgement no longer awaited. -/
theorem Coh.settle_arrived {c : Coh} {e : State} {x : Txn} (htx : c.txns = [x]) (h : c.Serves) (hx : x.phase = .arrived) (hd : e.deadNodes = [])
    (n : Nat) : ∃ y, (y = x ∨ y = x.acked e) ∧ Coh.settle e (n + 1) c = { c with wake := false, txns := [y] } := by
  have hacked : (x.acked e).phase = .arrived := by
    unfold Txn.acked
    split <;> exact hx
  have hstay : ∀ d : Coh, d.txns = [x.acked e] → Coh.advance e x.req.line 8 d = d := fun d hd => by
    unfold Coh.advance Coh.txnOf
    rw [hd, List.find?_cons]
    split
    · rfl
    · next t ht =>
      split at ht
      · cases ht
        rw [hacked]
      · cases ht
  rw [Coh.settle]
  split
  · refine ⟨_, .inr rfl, ?_⟩
    rw [Coh.round_one htx h (by rw [hx]; decide) hd, hstay _ rfl]
    dsimp only
    rw [h.1]
    exact Coh.settle_asleep _ _ _ rfl
  · next hw =>
    refine ⟨_, .inl rfl, ?_⟩
    cases c
    simp only [Bool.not_eq_true] at hw
    cases htx
    cases hw
    rfl

/-! ### The read in service -/

theorem Coh.nextRead_single {c : Coh} (e : State) {u : Nat} (r : PendRead) (h : c.owed u = []) : c.nextRead e u [r] = [r] := by
  simp [Coh.nextRead, Coh.owes, h, leastSome, takeFirst]

theorem Coh.reads_setOwed {P : Fx → Prop} (c : Coh) (u : Nat) (q : List Verify) : c.Reads P (c.setOwed u q) := by
  unfold Coh.setOwed
  split
  · exact c.reads_cmiVerify _
  · exact c.reads_memVerify _

/-- The only read of an interface that owes no verify read returns. -/
theorem Coh.readDone_one {c : Coh} {e : State} {u : Nat} {errs stored : CodeLine} {r : PendRead} (hq : c.readQ u = [r]) (howed : c.owed u = [])
    (hcap : r.captured = none) (hstored : (if u < 8 then c.rawSlot e r.key else c.rawMem (Fin.ofNat 2 (u - 8)) r.key) = stored) :
    ∃ d, (c.setReadQ u []).Reads (fun _ => True) d ∧
      c.readDone e u errs = d.delivered e r (decodeLine (stored ^^^ errs)).line (decodeLine (stored ^^^ errs)).newMarks (decide (u < 8)) := by
  obtain ⟨hline, hreads⟩ := Coh.reads_decodeAt (P := fun _ => True) (c.setReadQ u []) e u r.key r.line (stored ^^^ errs) true (r.cont == .scrub)
    (fun _ _ => trivial) (fun _ => trivial) (fun _ => trivial) (fun _ _ _ => trivial) (fun _ => ⟨fun _ _ => trivial, fun _ => trivial⟩)
  have howes : c.owes u r.key = false := by simp [Coh.owes, howed]
  unfold Coh.readDone
  rw [hq, Coh.nextRead_single e r howed]
  simp only [howes, Bool.false_eq_true, if_false, hcap, hstored, Option.getD_none, Option.isNone_none]
  generalize (c.setReadQ u []).decodeAt e u r.key r.line (stored ^^^ errs) true (r.cont == .scrub) = d at hline hreads ⊢
  rw [hline]
  refine ⟨_, hreads.trans ?_, rfl⟩
  split
  · exact Coh.reads_setOwed _ _ _
  · exact {}

theorem vget_of_all_empty {α : Type} {n : Nat} {v : Vector (List α) n} (h : v.toList.all List.isEmpty = true) (i : Fin n) : v.get i = [] := by
  have hi := List.all_eq_true.mp h v[i] (by simp)
  exact List.isEmpty_iff.mp hi

/-- The queues and reports that `Coh.quiet` looks at. -/
theorem Coh.quiet_queues {c : Coh} (h : c.quiet = true) : (∀ m, c.memQ.get m = []) ∧ (∀ ch, c.cmiQ.get ch = []) ∧
    (∀ m, c.memVerify.get m = []) ∧ (∀ ch, c.cmiVerify.get ch = []) ∧ c.slotReports = [] ∧ c.memReports = [] := by
  simp only [Coh.quiet, Bool.and_eq_true, List.isEmpty_iff] at h
  obtain ⟨⟨⟨⟨⟨⟨⟨⟨-, hmq⟩, hcq⟩, hmv⟩, hcv⟩, hsl⟩, hmem⟩, -⟩, -⟩ := h
  exact ⟨vget_of_all_empty hmq, vget_of_all_empty hcq, vget_of_all_empty hmv, vget_of_all_empty hcv, hsl, hmem⟩

theorem memNo_ofNat (m : MemNo) : Fin.ofNat 2 (8 + m.val - 8) = m := by
  rw [Nat.add_sub_cancel_left]
  exact Fin.ofNat_val_eq_self m

/-- A line of memory reaches the request it was read for. -/
theorem memoryReadDone_serves {s : State} {m : MemNo} {r : PendRead} {x : Txn} {errs : CodeLine} (hdead : s.deadNodes = [])
    (hret : s.coh.retiring = []) (hbusy : s.rb (F.MEM_STAT.PPR_BUSY m) = false)
    (hquiet : ({ s.coh with memQ := vset s.coh.memQ m [], txns := [] } : Coh).quiet = true) (hq : s.coh.memQ.get m = [r])
    (htx : s.coh.txns = [x]) (hline : x.req.line = r.line) (hcont : r.cont = .serve) (hcap : r.captured = none) (hphase : x.phase = .mem)
    (htrk : x.tracker = true) : Does (.memoryReadDone m errs) s (fun t => t.coh.memQ.get m = [] ∧ ∃ y, t.coh.txns = [y] ∧
      y.phase = .arrived ∧ y.data = some (decodeLine (s.coh.rawMem m r.key ^^^ errs)).line) := by
  obtain ⟨hwait, -, hnode, hhome, hset, hflow, hsnp, -, -, hham, hsw⟩ := Coh.quiet_lists hquiet
  have howed : s.coh.owed (8 + m.val) = [] := by
    rw [Coh.owed, if_neg (by omega), memNo_ofNat]
    exact (Coh.quiet_queues hquiet).2.2.1 m
  obtain ⟨d, hreads, hdone⟩ := Coh.readDone_one (c := s.coh) (e := s) (u := 8 + m.val) (errs := errs) (r := r)
    (by rw [Coh.readQ, if_neg (by omega), memNo_ofNat, hq]) howed hcap ((if_neg (by omega)).trans (by rw [memNo_ofNat]))
  have hsame : d.unread = ({ s.coh with memQ := vset s.coh.memQ m [] } : Coh).unread := by
    refine hreads.same.trans ?_
    rw [Coh.setReadQ, if_neg (by omega), memNo_ofNat]
  have htxd : d.txns = [x] := (congrArg Coh.txns hsame :).trans htx
  let y : Txn := { x with data := some (decodeLine (s.coh.rawMem m r.key ^^^ errs)).line, phase := .arrived }
  have hserved : s.coh.readDone s (8 + m.val) errs = { d with txns := [y], wake := true } := by
    rw [hdone, Coh.delivered, hcont]
    dsimp only
    simp [Coh.served, Coh.txnOf, Coh.setTxn, htxd, hline, hphase, htrk, modFirst, Coh.woken, y]
  have hserves : d.Serves := by
    have h := congrArg Coh.Serves hsame
    exact (h.mpr ⟨hwait, hhome, hset, hflow, hsnp, hham, hsw⟩ : d.unread.Serves)
  obtain ⟨z, hz, hsettle⟩ := Coh.settle_arrived (c := { d with txns := [y], wake := true }) (e := s) rfl hserves rfl hdead 7
  have hz' : z.phase = .arrived ∧ z.data = y.data := by
    rcases hz with rfl | rfl
    · exact ⟨rfl, rfl⟩
    · unfold Txn.acked
      split <;> exact ⟨rfl, rfl⟩
  obtain ⟨f, hf⟩ : ∃ f, f = fun c : Coh => c.readDone s (8 + m.val) errs := ⟨_, rfl⟩
  have hfs : f s.coh = { d with txns := [y], wake := true } := by
    rw [hf]
    exact hserved
  have hcoh := State.coh_runCoh_of_settle (s := s) (f := f) (c := { d with txns := [z], wake := false })
    ((congrArg (Coh.settle s settleRounds) hfs).trans hsettle) ((congrArg Coh.retiring hsame :).trans hret)
  have hop : opMemoryReadDone m errs s = s.runCoh f := by
    rw [opMemoryReadDone, hbusy, hf]
    rfl
  generalize s.runCoh f = t at hop hcoh
  refine Does.of_exec (congrArg Host.Outcome.next hop) ⟨?_, z, ?_, hz'⟩
  · rw [hcoh]
    exact (congrArg (fun c => c.memQ.get m) hsame :).trans ((vget_vset _ _ _ _).trans (if_pos rfl))
  · rw [hcoh]
    rfl

theorem Coh.rests_of_unread {c d : Coh} (h : d.unread = c.unread) (hc : c.Rests) : d.Rests :=
  ((congrArg Coh.Rests h).mpr hc : d.unread.Rests)

/-- A visit of a slot reports its line where the read found new marks. -/
theorem cmiReadDone_reports {s : State} {ch : ChanNo} {r : PendRead} {errs : CodeLine} (hdead : s.deadNodes = []) (hret : s.coh.retiring = [])
    (hquiet : ({ s.coh with cmiQ := vset s.coh.cmiQ ch [] } : Coh).quiet = true) (hq : s.coh.cmiQ.get ch = [r]) (hcont : r.cont = .scrub)
    (hcap : r.captured = none) : Does (.cmiReadDone ch errs) s (fun t => t.coh.cmiQ.get ch = [] ∧
      t.coh.slotReports = (if (decodeLine (s.coh.rawSlot s r.key ^^^ errs)).newMarks = 0 then [] else [(r.key, r.line)])) := by
  obtain ⟨hrests, hnode⟩ := Coh.rests_of_quiet hquiet
  obtain ⟨-, -, -, howed, hslots, -⟩ := Coh.quiet_queues hquiet
  have hch : Fin.ofNat 8 ch.val = ch := Fin.ofNat_val_eq_self ch
  obtain ⟨d, hreads, hdone⟩ := Coh.readDone_one (c := s.coh) (e := s) (u := ch.val) (errs := errs) (r := r)
    (by rw [Coh.readQ, if_pos ch.isLt, hch, hq]) (by rw [Coh.owed, if_pos ch.isLt, hch]; exact howed ch) hcap (if_pos ch.isLt)
  have hsame : d.unread = ({ s.coh with cmiQ := vset s.coh.cmiQ ch [] } : Coh).unread := by
    refine hreads.same.trans ?_
    rw [Coh.setReadQ, if_pos ch.isLt, hch]
  have hslotsd : d.slotReports = [] := (congrArg Coh.slotReports hsame :).trans hslots
  have hdel : s.coh.readDone s ch.val errs = { d with
      slotReports := if (decodeLine (s.coh.rawSlot s r.key ^^^ errs)).newMarks = 0 then [] else [(r.key, r.line)] } := by
    rw [hdone, Coh.delivered, hcont]
    dsimp only
    rw [decide_eq_true ch.isLt]
    split
    · rw [← hslotsd]
    · rw [hslotsd]
      rfl
  refine Does.of_run (f := fun c => c.readDone s ch.val errs) rfl hdel (Coh.rests_of_unread (d := d) hsame hrests)
    ((congrArg Coh.nodeTx hsame :).trans hnode) ((congrArg Coh.retiring hsame :).trans hret) hdead fun t hcoh _ => ⟨?_, ?_⟩
  · rw [hcoh]
    exact (congrArg (fun c => c.cmiQ.get ch) hsame :).trans ((vget_vset _ _ _ _).trans (if_pos rfl))
  · rw [hcoh]

/-! ### The verify read -/

/-- The counts and reports of a verify read that found what it should not. -/
theorem Coh.verifyCounts_eq (c : Coh) (p : Prop) [Decidable p] (a b n m : Nat) (l l' : List Fx) :
    ∃ fx, (((if p then c else (c.ctr a n).emits l).ctr b m).emits l') = { c with fx := fx } := by
  split
  · exact ⟨_, by rw [Coh.ctr_eq]; rfl⟩
  · exact ⟨_, by rw [Coh.ctr_eq, Coh.ctr_eq c a n]; rfl⟩

/-- A slot is not retired where retirement is off: EV146. -/
theorem Coh.retire_refused {c d : Coh} {e : State} (hd : ∃ fx, d = { c with fx := fx }) (hret : c.retiring = [])
    (hoff : e.rb F.DAR_CTL.RETIRE_EN = false) (k mask : Nat) :
    ∃ fx det, d.retire e k mask = { c with fx := fx ++ [.log 146 (slotSlice k) true det] } := by
  obtain ⟨fx, rfl⟩ := hd
  obtain ⟨fx', hctr⟩ := ({ c with fx := fx } : Coh).sctr_eq (slotSlice k) 0x43 1
  refine ⟨fx ++ fx' ++ [.regFld Reg.DAR_RET_STAT 1 1 1], slotDetail e { c with fx := fx } k mask, ?_⟩
  have hnone : ({ c with fx := fx } : Coh).retiring.any (fun x => x.1 == k) = false := by
    rw [show ({ c with fx := fx } : Coh).retiring = [] from hret]
    rfl
  unfold Coh.retire
  rw [hnone, if_neg Bool.false_ne_true, hoff, Bool.false_and, Bool.false_and, if_neg Bool.false_ne_true, hctr]
  simp only [Coh.emits, List.append_assoc, List.cons_append, List.nil_append]

section
variable {s : State} {ch : ChanNo} {v : Verify} {errs : CodeLine} (hdead : s.deadNodes = []) (hret : s.coh.retiring = [])
  (hquiet : ({ s.coh with cmiVerify := vset s.coh.cmiVerify ch [] } : Coh).quiet = true) (hq : s.coh.cmiVerify.get ch = [v])
include hdead hret hquiet hq

theorem verifyReadDone_good (hfx : s.coh.fx = []) (hc : (decodeLine (v.cl ^^^ errs)).corrected = 0) (hm : (decodeLine (v.cl ^^^ errs)).newMarks = 0) :
    Does (.verifyReadDone (.chan ch) errs) s (fun t => t.coh.cmiVerify.get ch = [] ∧ t.mon = s.mon) := by
  have hch : Fin.ofNat 8 ch.val = ch := Fin.ofNat_val_eq_self ch
  have hdone : s.coh.verifyDone s ch.val errs = { s.coh with cmiVerify := vset s.coh.cmiVerify ch [] } := by
    unfold Coh.verifyDone
    rw [Coh.owed, if_pos ch.isLt, hch, hq]
    dsimp only
    rw [if_pos ⟨hc, hm⟩, Coh.setOwed, if_pos ch.isLt, hch]
  obtain ⟨f, hf⟩ : ∃ f, f = fun c : Coh => c.verifyDone s ch.val errs := ⟨_, rfl⟩
  have hfs : f s.coh = { s.coh with cmiVerify := vset s.coh.cmiVerify ch [] } := by
    rw [hf]
    exact hdone
  have hop : opVerifyReadDone (.chan ch) errs s = { s with coh := Asleep { s.coh with cmiVerify := vset s.coh.cmiVerify ch [] } } := by
    refine Eq.trans (b := s.runCoh f) (by rw [hf]; rfl) ?_
    rw [State.runCoh_quiet s f (by rw [hfs]; exact hquiet) (by rw [hfs]; exact hret) (by rw [hfs]; exact hfx) hdead, hfs]
    rfl
  exact Does.of_exec (congrArg Host.Outcome.next hop) ⟨(vget_vset _ _ _ _).trans (if_pos rfl), rfl⟩

theorem verifyReadDone_bad (hoff : s.rb F.DAR_CTL.RETIRE_EN = false)
    (hbad : (decodeLine (v.cl ^^^ errs)).corrected ≠ 0 ∨ (decodeLine (v.cl ^^^ errs)).newMarks ≠ 0) :
    Does (.verifyReadDone (.chan ch) errs) s (fun t => t.coh.cmiVerify.get ch = [] ∧ Raised t 146) := by
  have hch : Fin.ofNat 8 ch.val = ch := Fin.ofNat_val_eq_self ch
  obtain ⟨hrests, hnode⟩ := Coh.rests_of_quiet hquiet
  have hdone : ∃ fx det, s.coh.verifyDone s ch.val errs = { s.coh with
      cmiVerify := vset s.coh.cmiVerify ch []
      fx := fx ++ [.log 146 (slotSlice v.key) true det] } := by
    unfold Coh.verifyDone
    rw [Coh.owed, if_pos ch.isLt, hch, hq]
    dsimp only
    rw [if_neg (fun h => hbad.elim (absurd h.1) (absurd h.2)), Coh.setOwed, if_pos ch.isLt, hch, if_pos ch.isLt]
    exact Coh.retire_refused (c := { s.coh with cmiVerify := vset s.coh.cmiVerify ch [] }) (Coh.verifyCounts_eq _ _ _ _ _ _ _ _) hret hoff _ _
  obtain ⟨fx, det, hdone⟩ := hdone
  refine Does.of_run (f := fun c => c.verifyDone s ch.val errs) rfl hdone hrests hnode hret hdead fun t hcoh hev =>
    ⟨?_, hev _ (List.mem_append_right _ (List.mem_singleton_self _)) 146 (raised_log (by decide) _ det)⟩
  rw [hcoh]
  exact (vget_vset _ _ _ _).trans (if_pos rfl)

end

/-- Settles O24. -/
theorem readsReturn : Obligations.ReadsReturn := by
  intro s _ hdead hret hfx
  refine ⟨fun m r x errs hbusy hquiet hq htx hline hcont hcap hphase htrk => ?_, fun ch r errs hquiet hq hcont hcap _ => ?_,
    fun ch v errs hquiet hq hoff => ?_⟩
  · exact memoryReadDone_serves hdead hret hbusy hquiet hq htx hline hcont hcap hphase htrk
  · exact cmiReadDone_reports hdead hret hquiet hq hcont hcap
  · by_cases hgood : (decodeLine (v.cl ^^^ errs)).corrected = 0 ∧ (decodeLine (v.cl ^^^ errs)).newMarks = 0
    · refine Does.mono (verifyReadDone_good hdead hret hquiet hq hfx hgood.1 hgood.2) ?_
      rintro t ⟨hempty, hmon⟩
      exact ⟨hempty, fun _ _ => hmon, fun hbad => absurd hgood (not_and_or.mpr hbad)⟩
    · refine Does.mono (verifyReadDone_bad hdead hret hquiet hq hoff (not_and_or.mp hgood)) ?_
      rintro t ⟨hempty, hev⟩
      exact ⟨hempty, fun hc hm => absurd ⟨hc, hm⟩ hgood, fun _ => hev⟩

end Sys2Proof.Machine
end

section
/-! PROOFS. A response among the effects of a run (R345). -/

namespace Sys2Proof.Machine
open Sys2Proof

/-- From `s` to `t` the device sends nothing but beats, and what decides whether the port `p` sends at once is as it was. -/
structure Hush (p : Port) (s t : State) : Prop where
  sent : t.sent.filter (fun x => !isBeat x) = s.sent.filter (fun x => !isBeat x) := by rfl
  regs : t.regs = s.regs := by rfl
  img : t.img = s.img := by rfl
  link : (t.port p).link = (s.port p).link := by rfl
  ended : ∀ tag, t.tagEnded p tag = s.tagEnded p tag := by exact fun _ => rfl

section
variable {p : Port} {s t u : State}

theorem Hush.trans (h : Hush p s t) (h' : Hush p t u) : Hush p s u :=
  ⟨h'.sent.trans h.sent, h'.regs.trans h.regs, h'.img.trans h.img, h'.link.trans h.link, fun tag => (h'.ended tag).trans (h.ended tag)⟩

theorem Hush.clear (h : Hush p s t) (hc : Clear s (.port p)) : Clear t (.port p) := clear_congr hc h.regs h.link

theorem Hush.accepts (h : Hush p s t) : t.accepts p = s.accepts p := by
  unfold State.accepts State.kind State.dead
  rw [h.img, State.rb_congr h.regs]

/-- A change of a port that leaves its transmitter and its tags alone. -/
theorem hush_setPort (s : State) (q : Port) {f : PortSt → PortSt} (hlink : (f (s.port q)).link = (s.port q).link)
    (htags : (f (s.port q)).tags = (s.port q).tags) : Hush p s (s.setPort q f) := by
  have hport : ((s.setPort q f).port p).link = (s.port p).link ∧ ((s.setPort q f).port p).tags = (s.port p).tags := by
    by_cases hq : q = p
    · subst hq
      rw [State.port_setPort]
      exact ⟨hlink, htags⟩
    · rw [State.port_setPort_of_ne s hq]
      exact ⟨rfl, rfl⟩
  refine { link := hport.1, ended := fun tag => ?_ }
  unfold State.tagEnded State.tagUse
  rw [hport.2]

end

/-- An effect that sends nothing. -/
def Fx.Hushed (p : Port) (x : Fx) : Prop := ∀ s, Hush p s (applyFx s x)

section
variable {p : Port}

theorem hushed_count (sel n : Nat) : (Fx.count sel n).Hushed p := fun s => by
  obtain ⟨m, hm, -⟩ := s.count_eq sel n
  show Hush p s (s.count sel n)
  rw [hm]
  exact {}

theorem hushed_point (q : Port) (id : Nat) : (Fx.point q id).Hushed p := fun s => hush_setPort s q rfl rfl
theorem hushed_passed (q : Port) (id : Nat) (b : Bool) : (Fx.passed q id b).Hushed p := fun s => hush_setPort s q rfl rfl
theorem hushed_prefetchUse (b : Bool) : (Fx.prefetchUse b).Hushed p := fun s => by cases b <;> exact {}

theorem hushed_row (i : PromiseId) (r home : Nat) (c : Option Nat) : (Fx.row i r home c).Hushed p := fun s => by
  show Hush p s (s.setRow i r home c)
  unfold State.setRow
  split
  · exact {}
  · split
    · exact {}
    · split <;> exact {}

theorem hush_foldl : ∀ {l : List Fx}, (∀ x ∈ l, x.Hushed p) → ∀ s, Hush p s (l.foldl applyFx s)
  | [], _, _ => {}
  | x :: l, h, s => (h x List.mem_cons_self s).trans (hush_foldl (fun y hy => h y (List.mem_cons_of_mem x hy)) _)

end

/-! ### The response -/

theorem State.crossAgent_hush (s : State) (a b : HdlUnit) (vcl : Fin 5) (cls : BitVec 2) (m : AgentMsg) (p : Port) :
    Hush p s (s.crossAgent a b vcl cls m) := by
  obtain ⟨h, l, heq, hbeats⟩ := s.cross_eq a b false vcl cls (agentHdr m) (if m.opc = 0x28 ∨ m.opc = 0x33 ∨ m.opc = 0x39 ∨ m.opc = 0x3A then
    some (encodeLine m.bytes m.poison) else none) (if m.opc = 0x39 ∨ m.opc = 0x3A then some m.mask else none)
  rw [State.crossAgent, heq]
  refine { sent := ?_ }
  show (s.sent ++ l).filter _ = _
  have hnone : l.filter (fun x => !isBeat x) = [] := List.filter_eq_nil_iff.mpr fun y hy => by simp [hbeats y hy]
  rw [List.filter_append, hnone, List.append_nil]

theorem tagEnded_modFirst_answered (l : List TagUse) (q : TagUse → Bool) (tag : Tag) :
    ((modFirst q (fun t => { t with answered := true }) l).find? (fun t => t.tag == tag)).any TagUse.ended =
      (l.find? (fun t => t.tag == tag)).any TagUse.ended := by
  induction l with
  | nil => rfl
  | cons x l ih =>
    rw [modFirst]
    split
    · cases htag : x.tag == tag <;> simp [htag]
    · cases htag : x.tag == tag <;> simp [htag, ih]

/-- A response to a request that has not ended goes out at once. -/
theorem State.respond_sends {s : State} {p : Port} {m : AgentMsg} (hacc : s.accepts p = true) (hclear : Clear s (.port p))
    (hend : s.tagEnded p m.tag = false) (hresp : m.isResponse = true) : Sends s (s.respond p m) [.agent p m] := by
  let mark := modFirst (fun (t : TagUse) => t.tag == m.tag && !t.answered) (fun (t : TagUse) => { t with answered := true })
  let s1 := s.setPort p (fun x => { x with tags := mark x.tags })
  have hlink : s1.linkSt (.port p) = s.linkSt (.port p) := by
    show (s1.port p).link = (s.port p).link
    rw [State.port_setPort]
  obtain ⟨y, ts, n, pr, hsend⟩ := State.toAgent_response (s := s1) hacc (clear_congr hclear rfl hlink) hresp
  have hrun : s.respond p m = s1.toAgent p m := if_neg (by rw [hend, hacc]; decide)
  rw [hrun, hsend, Sends]
  show (s.sent ++ _).filter _ = _
  rw [List.filter_append]
  rfl

theorem State.answer_sends {s : State} {p : Port} {m : AgentMsg} (hacc : s.accepts p = true) (hclear : Clear s (.port p))
    (hend : s.tagEnded p m.tag = false) (hresp : m.isResponse = true) : ∃ nb, Sends s (s.answer p m) [.agent p { m with nb := nb }] := by
  unfold State.answer
  split
  · next t ht =>
    refine ⟨t.nb, ?_⟩
    dsimp only
    split
    · next u _ =>
      have h := s.crossAgent_hush u (.port p) (if m.opc = opData ∨ m.opc = opDataV then 3 else 2) ((t.credit.map Credit.cls).getD 2)
        { m with nb := t.nb } p
      have hsend := State.respond_sends (m := { m with nb := t.nb }) (h.accepts.trans hacc) (h.clear hclear) ((h.ended _).trans hend) hresp
      rw [Sends, hsend, h.sent]
    · exact State.respond_sends (m := { m with nb := t.nb }) hacc hclear hend hresp
  · exact ⟨false, State.respond_sends (m := { m with nb := false }) hacc hclear hend hresp⟩

/-- Where a response is the only effect that sends, it goes out. -/
theorem sends_of_effects {s : State} {p : Port} {m : AgentMsg} {l l' : List Fx} (hl : ∀ x ∈ l, x.Hushed p) (hl' : ∀ x ∈ l', x.Hushed p)
    (hacc : s.accepts p = true) (hclear : Clear s (.port p)) (hend : s.tagEnded p m.tag = false) (hresp : m.isResponse = true) :
    ∃ nb, Sends s ((l ++ .respond p m :: l').foldl applyFx s) [.agent p { m with nb := nb }] := by
  rw [List.foldl_append, List.foldl_cons]
  have h := hush_foldl hl s
  obtain ⟨nb, hsend⟩ := State.answer_sends (s := l.foldl applyFx s) (m := m) (h.accepts.trans hacc) (h.clear hclear) ((h.ended _).trans hend) hresp
  refine ⟨nb, ?_⟩
  have h' := hush_foldl hl' (applyFx (l.foldl applyFx s) (.respond p m))
  rw [Sends, h'.sent]
  exact hsend.trans (by rw [h.sent])

end Sys2Proof.Machine
end

section
/-! PROOFS. The end of fills (Table 3.7). -/

namespace Sys2Proof.Machine
open Sys2Proof

section
variable {c : Coh} {e : State} {l : LineAddr} {t : Txn}

theorem Coh.freedNst_home (hhome : e.isHome l = true) (c : Coh) (nst : BitVec 3) : c.freedNst e l nst = c := by
  rw [Coh.freedNst, hhome, Bool.or_true, Bool.true_or, Bool.true_or, if_pos rfl]

/-- At the home a line's snoop filter entry that names no agent is freed, and nothing else happens. -/
theorem Coh.tidySnf_home (hhome : e.isHome l = true) : ∃ snf w, c.tidySnf e l = { c with snf := snf, wake := w } := by
  have hfreed : ∀ (k : Nat) (p : Prop) [Decidable p], ∃ snf w, (if p then c else (c.clearSnf k).woken) = { c with snf := snf, wake := w } :=
    fun k p _ => by
      split
      · exact ⟨c.snf, c.wake, rfl⟩
      · exact ⟨(c.clearSnf k).snf, true, rfl⟩
  unfold Coh.tidySnf
  split
  · exact ⟨c.snf, c.wake, rfl⟩
  · next k _ =>
    simp only [Coh.freedNst_home hhome]
    exact hfreed k _

theorem Coh.txnOf_one (htx : c.txns = [t]) (hl : t.req.line = l) : c.txnOf l = some t := by
  simp [Coh.txnOf, htx, hl]

theorem Coh.setTxn_one (htx : c.txns = [t]) (hl : t.req.line = l) (f : Txn → Txn) : c.setTxn l f = { c with txns := [f t] } := by
  simp [Coh.setTxn, htx, hl, modFirst]

/-- At the home a request that nothing joined leaves service. -/
theorem Coh.endTxn_home (htx : c.txns = [t]) (hl : t.req.line = l) (hjoin : t.joined = []) (hhome : e.isHome l = true) :
    ∃ snf w, c.endTxn e t = { c with txns := [], snf := snf, wake := w } := by
  have hdrop : c.dropTxn l = { c with txns := [], wake := true } := by
    rw [Coh.dropTxn, htx]
    simp [hl]
  obtain ⟨snf, w, htidy⟩ := Coh.tidySnf_home (c := { c with txns := [], wake := true }) hhome
  refine ⟨snf, w, ?_⟩
  simp only [Coh.endTxn, hl, hdrop, Coh.endJoined, hjoin, List.foldl_nil, htidy, hhome, Bool.not_true, Bool.false_and, Bool.false_eq_true,
    if_false]

theorem Coh.advance_ready (htx : c.txns = [t]) (hl : t.req.line = l) (hphase : t.phase = .ready) (n : Nat) :
    Coh.advance e l (n + 1) c = Coh.advance e l n (c.stage e t) := by
  rw [Coh.advance, Coh.txnOf_one htx hl]
  dsimp only
  rw [hphase]

theorem Coh.advance_done (htx : c.txns = [t]) (hl : t.req.line = l) (hphase : t.phase = .done) (hw : t.writePending = false)
    (ha : t.ackPending = false) (n : Nat) : Coh.advance e l (n + 1) c = c.endTxn e t := by
  rw [Coh.advance, Coh.txnOf_one htx hl]
  dsimp only
  rw [hphase, hw, ha]
  rfl

end

/-- A round in which the one request in service leaves it: afterwards the engine rests. -/
theorem Coh.settle_served {c d : Coh} {e : State} {x : Txn} (htx : c.txns = [x]) (h : c.Serves) (hx : x.phase ≠ .useOnce)
    (hd : e.deadNodes = []) (hwake : c.wake = true) (n : Nat)
    (hadv : Coh.advance e x.req.line 8 { c with wake := false, txns := [x.acked e] } = d) (hrests : d.Rests) :
    Coh.settle e (n + 2) c = { d with wake := false } := by
  have hwait : d.wait = [] := hrests.1
  have hpass : Coh.passAll e d.wait.length d.wait { d with wait := [] } = d := by
    rw [hwait]
    cases d
    cases hwait
    rfl
  rw [Coh.settle, if_pos hwake, Coh.round_one htx h hx hd, hadv]
  dsimp only
  rw [hpass]
  exact Coh.settle_rests hrests hd n

/-- A run in which the one request in service leaves it. -/
theorem State.runCoh_served {s : State} {f : Coh → Coh} {c d : Coh} {x : Txn} (hf : f s.coh = c) (htx : c.txns = [x]) (h : c.Serves)
    (hx : x.phase ≠ .useOnce) (hd : s.deadNodes = []) (hwake : c.wake = true)
    (hadv : Coh.advance s x.req.line 8 { c with wake := false, txns := [x.acked s] } = d) (hrests : d.Rests) (hnode : d.nodeTx = [])
    (hret : d.retiring = []) : s.runCoh f = d.fx.foldl applyFx { s with coh := { d with wake := false, fx := [] } } := by
  have hsettle : Coh.settle s settleRounds (f s.coh) = { d with wake := false } := by
    rw [hf]
    exact Coh.settle_served htx h hx hd hwake 6 hadv hrests
  obtain ⟨-, -, hhome, hset, -⟩ := hrests
  rw [State.runCoh_eq_foldl hsettle hret, Coh.stamp_nil (c := { d with wake := false }) hhome hnode hset]

/-! ### The line of a fill -/

/-- The channel accepts a line for a slot, whose entry becomes final. -/
theorem Coh.finishSlot_eq (c : Coh) (e : State) (k : Nat) (l : LineAddr) (st : BitVec 3) (age : Nat) (pf : Bool) (cl : CodeLine) :
    ∃ q fx pp, c.finishSlot e k l st age pf cl = { c with
      cmiQ := q
      sram := vmod c.sram (e.chan (slotSlice k)) (fun m => putLine m (slotIndex e.ch4 e.sets k) cl)
      fx := fx
      tags := Sparse.set (fun _ => tagFree) c.tags k (mkTag (tagOf e.sets l) st (BitVec.ofNat 2 age) (anyMark cl) pf)
      pp := pp } := by
  unfold Coh.finishSlot Coh.writeSlot
  rw [Coh.ctr_eq]
  exact ⟨_, _, _, rfl⟩

theorem Coh.clearNst_eq (c : Coh) (l : LineAddr) : ∃ snf press, c.clearNst l = { c with snf := snf, press := press } := by
  unfold Coh.clearNst Coh.setSnfOf
  split <;> exact ⟨_, _, rfl⟩

/-- What the acceptance of a fill's line makes of the engine. -/
theorem Coh.fillWritten_eq {c : Coh} {e : State} {x : Txn} {l : LineAddr} {k : Nat} {cl : CodeLine} (hrow : c.readRow e l = c)
    (htx : c.txns = [x]) (hl : x.req.line = l) (hdata : x.data = some cl) (hhome : e.isHome l = true) (hjoin : x.joined = [])
    (hphase : x.phase = .done) (hpend : x.writePending = true) (hslot : x.slot = some k) (hst : (c.tag k).st = tF)
    (htag : (c.tag k).tag = tagOf e.sets l) : ∃ q fx pp snf press age pf, c.fillWritten e l = { c with
      cmiQ := q
      sram := vmod c.sram (e.chan (slotSlice k)) (fun m => putLine m (slotIndex e.ch4 e.sets k) cl)
      fx := fx
      tags := Sparse.set (fun _ => tagFree) c.tags k (mkTag (tagOf e.sets l) x.install age (anyMark cl) pf)
      pp := pp
      snf := snf
      press := press
      txns := [{ x with writePending := false, install := 0, slot := none, tracker := false, joined := [] }]
      wake := true } := by
  have hmine : ((c.tag k).st == tI || ((c.tag k).st == tF && (c.tag k).tag == tagOf e.sets l)) = true := by
    rw [hst, htag]
    simp
  obtain ⟨q, fx, pp, hfinish⟩ := c.finishSlot_eq e k l x.install (x.req.insAge e).1 (x.req.insAge e).2 cl
  obtain ⟨snf, press, hclear⟩ := (c.finishSlot e k l x.install (x.req.insAge e).1 (x.req.insAge e).2 cl).clearNst_eq l
  rw [hfinish] at hclear
  let d : Coh := { c with
    cmiQ := q
    sram := vmod c.sram (e.chan (slotSlice k)) (fun m => putLine m (slotIndex e.ch4 e.sets k) cl)
    fx := fx
    tags := Sparse.set (fun _ => tagFree) c.tags k (mkTag (tagOf e.sets l) x.install (BitVec.ofNat 2 (x.req.insAge e).1) (anyMark cl)
      (x.req.insAge e).2)
    pp := pp
    snf := snf
    press := press
    txns := [{ x with writePending := false, install := 0, slot := none, tracker := false, joined := [] }] }
  have hd : c.fillWritten e l = (d.tidySnf e l).woken := by
    unfold Coh.fillWritten
    rw [hrow]
    dsimp only
    rw [Coh.txnOf_one htx hl]
    dsimp only
    rw [hphase, hpend, hslot]
    simp only [hmine, if_true, hdata, Option.getD_some, hfinish, hclear, Coh.endJoined, hjoin, List.foldl_nil]
    rw [Coh.setTxn_one (t := x) (by exact htx) hl]
  obtain ⟨snf', w, htidy⟩ := Coh.tidySnf_home (c := d) hhome
  exact ⟨q, fx, pp, snf', press, BitVec.ofNat 2 (x.req.insAge e).1, (x.req.insAge e).2, hd.trans (congrArg Coh.woken htidy)⟩

/-! ### The data of a read without a copy -/

/-- What remains of a request in service that has been answered and installs nothing. -/
def Txn.over (t : Txn) : Txn :=
  { t with phase := .done, writePending := false, tracker := false, slot := none, install := 0, ackPending := false, joined := [] }

theorem Coh.sctr_hushed (c : Coh) (s i n : Nat) {p : Port} : ∃ fx, (∀ x ∈ fx, x.Hushed p) ∧ c.sctr s i n = { c with fx := c.fx ++ fx } := by
  unfold Coh.sctr Coh.ctr
  split
  · exact ⟨[], by simp, by rw [List.append_nil]⟩
  · exact ⟨_, List.forall_mem_singleton.mpr (hushed_count _ _), rfl⟩

section
variable {c : Coh} {e : State} {l : LineAddr} {t : Txn} {cl : CodeLine} {p : Port}

theorem Coh.answered_over (htx : c.txns = [t]) (hl : t.req.line = l) (hslot : t.slot = none) :
    c.answered e l false = { c with txns := [t.over], wake := true } := by
  have hkeep : t.installs = false := by rw [Txn.installs, hslot]; rfl
  unfold Coh.answered
  rw [Coh.txnOf_one htx hl]
  dsimp only
  rw [hslot, hkeep, Coh.setTxn_one htx hl]
  simp [Coh.woken, Txn.over]

theorem Coh.stage_rdC (hop : t.req.op = .rdC) (hperm : t.permitted = true) (hsnp : t.snooped = true) (hdata : t.data = some cl) :
    c.stage e t = c.answerRead e t := by
  simp only [Coh.stage, Req.farAtomic, hop, hperm, hsnp, hdata, Bool.not_true, Bool.and_false, Bool.false_and, Bool.false_eq_true, if_false,
    Option.isNone_some, Coh.finish]
  rfl

/-- A RdC is answered with its bytes of the line in hand. -/
theorem Coh.answerRead_rdC (htx : c.txns = [t]) (hl : t.req.line = l) (hop : t.req.op = .rdC) (hsrc : t.req.src = .agent p)
    (hdata : t.data = some cl) (hdirty : t.dirty = false) (hslot : t.slot = none) (hjoin : t.joined = []) :
    ∃ fx, (∀ x ∈ fx, x.Hushed p) ∧ c.answerRead e t = { c with
      txns := [t.over]
      wake := true
      fx := c.fx ++ fx ++ [.respond p (partMsg t.req (overSnap t.snap cl))] } := by
  have hcount : ∃ fx, (∀ x ∈ fx, x.Hushed p) ∧ (if (t.sentSnoops && t.data.isSome) = true then c.sctr (sliceOf l) 0x22 else c) =
      { c with fx := c.fx ++ fx } := by
    split
    · exact c.sctr_hushed _ _ _
    · exact ⟨[], by simp, by rw [List.append_nil]⟩
  obtain ⟨fx, hfx, hcount⟩ := hcount
  refine ⟨fx ++ [.point p t.req.point], fun x hx => ?_, ?_⟩
  · rcases List.mem_append.mp hx with hx | hx
    · exact hfx x hx
    · rw [List.mem_singleton.mp hx]
      exact hushed_point p _
  have hcl : (if (t.dirty && t.sentSnoops) = true then t.data.getD 0 else overSnap t.snap (t.data.getD 0)) = overSnap t.snap cl := by
    rw [hdirty, hdata]
    rfl
  unfold Coh.answerRead
  simp only [hl, hcount, hcl, hsrc, hop, Coh.pointOf, Coh.serveJoined, hjoin, List.foldl_nil, if_true]
  rw [Coh.answered_over (t := t) (by exact htx) hl hslot]
  simp [Coh.emit]

end

theorem Coh.serves_of_quiet {c : Coh} (h : ({ c with txns := [] } : Coh).quiet = true) : c.Serves ∧ c.nodeTx = [] := by
  obtain ⟨hwait, -, hnode, hhome, hset, hflow, hsnp, -, -, hham, hsw⟩ := Coh.quiet_lists h
  exact ⟨⟨hwait, hhome, hset, hflow, hsnp, hham, hsw⟩, hnode⟩

theorem Coh.rests_of_serves {c : Coh} (h : c.Serves) (htx : c.txns = []) : c.Rests := ⟨h.1, htx, h.2⟩

theorem Coh.readRow_of_sound {s : State} {l : LineAddr} (h : Sound s l) : s.coh.readRow s l = s.coh := by
  rw [Coh.readRow, h.1, h.2]

/-- The acknowledgement of an agent that is not dead stays awaited. -/
theorem Txn.acked_of_accepts {t : Txn} {e : State} {p : Port} (hsrc : t.req.src = .agent p) (hacc : e.accepts p = true) : t.acked e = t := by
  have hdead : e.dead p = false := by
    simp only [State.accepts, Bool.and_eq_true, Bool.not_eq_true'] at hacc
    exact hacc.2
  rw [Txn.acked, Req.deadSource, hsrc]
  dsimp only
  exact if_neg (by rw [hdead]; exact Bool.false_ne_true)

theorem Txn.acked_of_answered {t : Txn} {e : State} (h : t.ackPending = false) : t.acked e = t := by
  unfold Txn.acked
  split
  · cases t
    cases h
    rfl
  · rfl

/-- A run that leaves the one request in service with nothing to wait for ends it. -/
theorem State.coh_runCoh_ended {s : State} {f : Coh → Coh} {c : Coh} {y : Txn} {l : LineAddr} (hf : f s.coh = c) (htx : c.txns = [y])
    (hl : y.req.line = l) (hphase : y.phase = .done) (hpend : y.writePending = false) (hack : y.ackPending = false) (hjoin : y.joined = [])
    (hhome : s.isHome l = true) (hserves : c.Serves) (hnode : c.nodeTx = []) (hret : c.retiring = []) (hdead : s.deadNodes = [])
    (hwake : c.wake = true) : ∃ snf, (s.runCoh f).coh = { c with txns := [], snf := snf, wake := false, fx := [] } := by
  have hy : y.acked s = y := Txn.acked_of_answered hack
  obtain ⟨snf, w, hend⟩ := Coh.endTxn_home (e := s) (c := { c with wake := false, txns := [y] }) (t := y) rfl hl hjoin hhome
  have hadv : Coh.advance s y.req.line 8 { c with wake := false, txns := [y.acked s] } = { c with txns := [], snf := snf, wake := w } := by
    rw [hy]
    exact (Coh.advance_done (c := { c with wake := false, txns := [y] }) (t := y) rfl rfl hphase hpend hack 7).trans hend
  refine ⟨snf, ?_⟩
  rw [State.runCoh_served hf htx hserves (by rw [hphase]; decide) hdead hwake hadv (Coh.rests_of_serves hserves rfl) hnode hret]
  exact (Beside.foldl beside_applyFx _ _).coh

section
variable {s : State} {x : Txn} {l : LineAddr} {cl : CodeLine} (hdead : s.deadNodes = []) (hret : s.coh.retiring = [])
  (hquiet : ({ s.coh with txns := [] } : Coh).quiet = true) (htx : s.coh.txns = [x]) (hl : x.req.line = l) (hdata : x.data = some cl)
  (hhome : s.isHome l = true) (hsound : Sound s l) (hjoin : x.joined = [])
include hdead hret hquiet htx hl hdata hhome hsound hjoin

/-- The data of a RdC answers it. -/
theorem fillDataArrival_answers (hfx : s.coh.fx = []) {p : Port} (hsrc : x.req.src = .agent p) (hop : x.req.op = .rdC)
    (hphase : x.phase = .arrived) (hperm : x.permitted = true) (hsnp : x.snooped = true) (hdirty : x.dirty = false) (hslot : x.slot = none)
    (hacc : s.accepts p = true) (hend : s.tagEnded p x.req.tag = false) (hclear : Clear s (.port p)) :
    Does (.fillDataArrival l) s (fun t => ∃ nb, Sends s t [.agent p { partMsg x.req (overSnap x.snap cl) with nb := nb }]) := by
  obtain ⟨hserves, hnode⟩ := Coh.serves_of_quiet hquiet
  let y : Txn := { x with phase := .ready }
  have hf : ((s.coh.readRow s l).setTxn l (fun t => if t.phase = .arrived then { t with phase := .ready } else t)).woken =
      { s.coh with txns := [y], wake := true } := by
    rw [Coh.readRow_of_sound hsound, Coh.setTxn_one htx hl, if_pos hphase]
    rfl
  have hy : y.acked s = y := Txn.acked_of_accepts (t := y) hsrc hacc
  let c : Coh := { s.coh with wake := false, txns := [y] }
  obtain ⟨fx, hfx', hans⟩ := Coh.answerRead_rdC (c := c) (e := s) (t := y) (l := l) rfl hl hop hsrc hdata hdirty hslot hjoin
  obtain ⟨snf, w, hend'⟩ := Coh.endTxn_home (e := s) (t := y.over) (l := l)
    (c := { c with txns := [y.over], wake := true, fx := c.fx ++ fx ++ [.respond p (partMsg y.req (overSnap y.snap cl))] }) rfl hl rfl hhome
  have hadv : Coh.advance s y.req.line 8 { s.coh with wake := false, txns := [y.acked s] } = { s.coh with
      txns := []
      snf := snf
      wake := w
      fx := c.fx ++ fx ++ [.respond p (partMsg y.req (overSnap y.snap cl))] } := by
    rw [hy]
    refine (Coh.advance_ready (c := c) (t := y) rfl rfl rfl 7).trans ?_
    rw [Coh.stage_rdC (t := y) hop hperm hsnp hdata, hans]
    exact (Coh.advance_done (t := y.over) rfl rfl rfl rfl rfl 6).trans hend'
  have hrun := State.runCoh_served (s := s) (f := fun c => ((c.readRow s l).setTxn l (fun t =>
    if t.phase = .arrived then { t with phase := .ready } else t)).woken) hf rfl hserves (show Phase.ready ≠ .useOnce by decide) hdead rfl hadv
    (Coh.rests_of_serves hserves rfl) hnode hret
  obtain ⟨nb, hsends⟩ := sends_of_effects (s := { s with coh := { s.coh with txns := [], snf := snf, wake := false, fx := [] } }) (p := p)
    (m := partMsg x.req (overSnap x.snap cl)) (l' := []) hfx' (by simp) hacc hclear hend rfl
  refine Does.of_exec (congrArg Host.Outcome.next hrun) ⟨nb, ?_⟩
  have hlist : c.fx ++ fx ++ [.respond p (partMsg y.req (overSnap y.snap cl))] = fx ++ [.respond p (partMsg x.req (overSnap x.snap cl))] := by
    rw [show c.fx = [] from hfx, List.nil_append]
  dsimp only
  rw [hlist]
  exact hsends

/-- Once the channel has accepted the line, the slot holds it. -/
theorem fillWriteAccepted_installs (hwf : CohWf s.coh) {k : Nat} (hphase : x.phase = .done) (hpend : x.writePending = true)
    (hslot : x.slot = some k) (hack : x.ackPending = false) (hst : (s.coh.tag k).st = tF) (htag : (s.coh.tag k).tag = tagOf s.sets l) :
    Does (.fillWriteAccepted l) s (fun t => t.coh.txns = [] ∧ (t.coh.tag k).st = x.install ∧ (t.coh.tag k).tag = tagOf s.sets l ∧
      (t.coh.tag k).poison = anyMark cl ∧ t.coh.rawSlot s k = cl) := by
  obtain ⟨⟨hwait, hhtx, hset, hflow, hsnp, hham, hsw⟩, hnode⟩ := Coh.serves_of_quiet hquiet
  obtain ⟨q, fx, pp, snf, press, age, pf, hf⟩ := Coh.fillWritten_eq (e := s) (Coh.readRow_of_sound hsound) htx hl hdata hhome hjoin hphase
    hpend hslot hst htag
  let y : Txn := { x with writePending := false, install := 0, slot := none, tracker := false, joined := [] }
  obtain ⟨f, hfd⟩ : ∃ f, f = fun c : Coh => c.fillWritten s l := ⟨_, rfl⟩
  have hfs := (congrFun hfd s.coh).trans hf
  obtain ⟨snf', hcoh⟩ := State.coh_runCoh_ended (y := y) (l := l) hfs rfl hl hphase rfl hack rfl hhome
    ⟨hwait, hhtx, hset, hflow, hsnp, hham, hsw⟩ hnode hret hdead rfl
  have hop : ∃ q, opFillWriteAccepted l s = (s.runCoh f).dropPromises q := by
    unfold opFillWriteAccepted
    rw [Coh.txnOf_one htx hl]
    dsimp only
    rw [hphase, hpend, hslot, hfd]
    exact ⟨_, rfl⟩
  obtain ⟨q, hop⟩ := hop
  generalize s.runCoh f = t at hop hcoh
  have htags : (t.dropPromises q).coh.tag k = mkTag (tagOf s.sets l) x.install age (anyMark cl) pf := by
    show t.coh.tag k = _
    rw [hcoh]
    exact (Sparse.get_set k k _ hwf.tags).trans (if_pos rfl)
  have hraw : (t.dropPromises q).coh.rawSlot s k = cl := by
    show t.coh.rawSlot s k = _
    rw [hcoh]
    show getLine ((vmod s.coh.sram _ _).get (s.chan (slotSlice k))) _ = cl
    rw [vget_vmod, if_pos rfl, getLine_putLine (hwf.sram _), if_pos rfl]
  have htxns : (t.dropPromises q).coh.txns = [] := by
    show t.coh.txns = []
    rw [hcoh]
  exact Does.of_exec (congrArg Host.Outcome.next hop) ⟨htxns, by rw [htags]; rfl, by rw [htags]; rfl, by rw [htags]; rfl, hraw⟩

end

/-- Settles O25. -/
theorem fillsEnd : Obligations.FillsEnd := by
  rintro s x l cl ⟨⟨hddr, hsram⟩, -, ⟨htags, hpp, hsnf, hdir⟩, -⟩ hdead hret hfx hquiet htx hl hdata hhome hsound hjoin
  exact ⟨fun p hsrc hop hphase hperm hsnp hdirty hslot hacc hend hclear =>
    fillDataArrival_answers hdead hret hquiet htx hl hdata hhome hsound hjoin hfx hsrc hop hphase hperm hsnp hdirty hslot hacc hend hclear,
    fun k hphase hpend hslot hack hst htag => fillWriteAccepted_installs hdead hret hquiet htx hl hdata hhome hsound hjoin
      ⟨htags, hpp, hsnf, hdir, hddr, hsram⟩ hphase hpend hslot hack hst htag⟩

end Sys2Proof.Machine
end

section
/-! PROOFS. Acknowledgements, snoop answers and write-backs of agents (R198, R249 to R251). -/

namespace Sys2Proof.Machine
open Sys2Proof

/-! ### What a line that leaves the node touches -/

/-- The engine but for what the departure of a line from the snoop filter may touch (R206, R210): the filter, the Hamper and the
records toward homes, the Press, the write-backs of agents, and what the passes report. -/
def Coh.core (c : Coh) : Coh :=
  { c with
    fx := []
    wake := false
    snf := []
    hamper := []
    hamperWait := []
    nodeTx := []
    press := []
    agentWbs := [] }

/-- From `c` to `d` lines have left the node, and nothing else: entries of the Press keep their lines and bytes. -/
structure Coh.Aside (c d : Coh) : Prop where
  same : d.core = c.core := by rfl
  press : ∀ p ∈ c.press, ∃ q ∈ d.press, q.line = p.line ∧ q.cl = p.cl ∧ q.mask = p.mask := by exact fun p hp => ⟨p, hp, rfl, rfl, rfl⟩
  wbs : c.agentWbs = [] → d.agentWbs = [] := by exact id

section
variable {c d u : Coh}

theorem Coh.Aside.trans (h : c.Aside d) (h' : d.Aside u) : c.Aside u := by
  refine ⟨h'.same.trans h.same, fun p hp => ?_, fun hw => h'.wbs (h.wbs hw)⟩
  obtain ⟨q, hq, h1, h2, h3⟩ := h.press p hp
  obtain ⟨r, hr, h4, h5, h6⟩ := h'.press q hq
  exact ⟨r, hr, h4.trans h1, h5.trans h2, h6.trans h3⟩

theorem Coh.aside_foldl {α : Type} {f : Coh → α → Coh} (hf : ∀ c a, Coh.Aside c (f c a)) (l : List α) (c : Coh) : c.Aside (l.foldl f c) := by
  induction l generalizing c with
  | nil => exact {}
  | cons a l ih => exact (hf c a).trans (ih _)

theorem Coh.aside_fx (c : Coh) (fx : List Fx) : c.Aside { c with fx := fx } := {}
theorem Coh.aside_woken (c : Coh) : c.Aside c.woken := {}

theorem Coh.aside_sctr (c : Coh) (s i n : Nat) : c.Aside (c.sctr s i n) := by
  obtain ⟨fx, hfx⟩ := c.sctr_eq s i n
  rw [hfx]
  exact c.aside_fx _

theorem Coh.aside_addNodeTx (c : Coh) (t : NodeTx) : c.Aside (c.addNodeTx t) := {}
theorem Coh.aside_toHome (c : Coh) (e : State) (opc : Nat) (l : LineAddr) (f : StileHdr → StileHdr) (p : FabPayload) :
    c.Aside (c.toHome e opc l f p) := {}

theorem Coh.aside_sendFEv (c : Coh) (e : State) (l : LineAddr) (m : Bool) : c.Aside (c.sendFEv e l m) :=
  (c.aside_toHome e fEv l id .none).trans (Coh.aside_addNodeTx _ _)

theorem Coh.aside_sendFWb (c : Coh) (e : State) (l : LineAddr) (cl : CodeLine) (k : BitVec 3) (m : Bool) : c.Aside (c.sendFWb e l cl k m) :=
  (c.aside_toHome e fWb l (fun h => { h with keep := k != 0 }) (.line cl)).trans (Coh.aside_addNodeTx _ _)

theorem Coh.aside_enterHamper (c : Coh) (e : State) (h : HamperEntry) : c.Aside (c.enterHamper e h) := by
  have h1 : c.Aside (({ c with hamper := c.hamper ++ [h] } : Coh).sctr (sliceOf h.line) 0x15) :=
    Coh.Aside.trans (d := { c with hamper := c.hamper ++ [h] }) {} (Coh.aside_sctr _ _ _ _)
  unfold Coh.enterHamper
  dsimp only
  split
  · exact h1.trans (Coh.aside_sendFWb _ _ _ _ _ _)
  · exact h1

theorem Coh.aside_putHamper (c : Coh) (e : State) (h : HamperEntry) : c.Aside (c.putHamper e h) := by
  unfold Coh.putHamper
  split
  · exact c.aside_enterHamper e h
  · exact {}

theorem Coh.aside_lostData (c : Coh) (e : State) (l : LineAddr) : c.Aside (c.lostData e l) := (c.aside_sctr _ _ _).trans (Coh.aside_fx _ _)

theorem mem_modFirst_of_keeps {α : Type} {P : α → α → Prop} (hrefl : ∀ a, P a a) {q : α → Bool} {f : α → α} (hf : ∀ a, P a (f a)) :
    ∀ {l : List α} {a : α}, a ∈ l → ∃ b ∈ modFirst q f l, P a b
  | [], a, h => by simp at h
  | x :: l, a, h => by
    rw [modFirst]
    split
    · rcases List.mem_cons.mp h with rfl | h
      · exact ⟨f a, List.mem_cons_self, hf a⟩
      · exact ⟨a, List.mem_cons_of_mem _ h, hrefl a⟩
    · rcases List.mem_cons.mp h with rfl | h
      · exact ⟨a, List.mem_cons_self, hrefl a⟩
      · obtain ⟨b, hb, hP⟩ := mem_modFirst_of_keeps hrefl hf (q := q) h
        exact ⟨b, List.mem_cons_of_mem _ hb, hP⟩

theorem Coh.aside_setPress_nst (c : Coh) (l : LineAddr) (n : BitVec 3) : c.Aside (c.setPress l (fun p => { p with nst := n })) :=
  { press := fun p hp => mem_modFirst_of_keeps (P := fun a b : PressEntry => b.line = a.line ∧ b.cl = a.cl ∧ b.mask = a.mask)
      (f := fun p => { p with nst := n }) (fun _ => ⟨rfl, rfl, rfl⟩) (fun _ => ⟨rfl, rfl, rfl⟩) hp }

theorem Coh.aside_freedNst (c : Coh) (e : State) (l : LineAddr) (n : BitVec 3) : c.Aside (c.freedNst e l n) := by
  unfold Coh.freedNst
  split
  · exact {}
  · split
    · exact c.aside_setPress_nst l n
    · split
      · exact { wbs := fun h => by rw [h]; rfl }
      · split
        · exact {}
        · split
          · exact (c.aside_lostData e l).trans (Coh.aside_putHamper _ _ _)
          · exact c.aside_sendFEv e l false

theorem Coh.aside_clearSnf (c : Coh) (k : Nat) : c.Aside (c.clearSnf k) := {}

theorem Coh.aside_tidySnf (c : Coh) (e : State) (l : LineAddr) : c.Aside (c.tidySnf e l) := by
  have hfree : ∀ (k : Nat) (n : BitVec 3) (p : Prop) [Decidable p], c.Aside (if p then c else (c.clearSnf k).woken.freedNst e l n) :=
    fun k n p _ => by
      split
      · exact {}
      · exact ((c.aside_clearSnf k).trans (Coh.aside_woken _)).trans (Coh.aside_freedNst _ _ _ _)
  unfold Coh.tidySnf
  split
  · exact {}
  · exact hfree _ _ _

theorem Coh.aside_prefetchNone (c : Coh) (r : Req) : c.Aside (c.prefetchNone r) := by
  unfold Coh.prefetchNone
  split <;> exact {}

theorem Coh.aside_endJoined (c : Coh) (t : Txn) : c.Aside (c.endJoined t) := Coh.aside_foldl Coh.aside_prefetchNone t.joined c

theorem Coh.aside_hamperNext (c : Coh) (e : State) : c.Aside (c.hamperNext e) :=
  Coh.aside_foldl (f := fun (c : Coh) (h : HamperEntry) =>
    if c.hamperRoom h then (({ c with hamperWait := c.hamperWait.erase h, wake := true } : Coh)).enterHamper e h else c)
    (fun c h => by
      split
      · exact Coh.Aside.trans (d := { c with hamperWait := c.hamperWait.erase h, wake := true }) {} (Coh.aside_enterHamper _ _ _)
      · exact {}) c.hamperWait c

end

/-! ### Runs in which lines only leave -/

/-- As `Rests`, but that lines may wait for the Hamper. -/
def Coh.Drains (c : Coh) : Prop :=
  c.wait = [] ∧ c.txns = [] ∧ c.homeTx = [] ∧ c.setRecalls = [] ∧ c.flows = [] ∧ c.snoops = [] ∧ c.snpWait = []

theorem Coh.Aside.drains {c d : Coh} (h : c.Aside d) (hc : c.Drains) : d.Drains :=
  ((congrArg Coh.Drains h.same).mpr hc : d.core.Drains)

theorem Coh.aside_round {c : Coh} {e : State} (h : c.Drains) (hd : e.deadNodes = []) : c.Aside (c.round e) := by
  obtain ⟨h1, h2, h4, h5, h6, h7, h11⟩ := h
  have a : ({ c with wake := false } : Coh).deadNodes e = { c with wake := false } := by
    unfold Coh.deadNodes
    rw [hd]
    rfl
  obtain ⟨y, hy⟩ : ∃ y : Coh, y = { c with wake := false } := ⟨_, rfl⟩
  have hcy : c.Aside y := by
    rw [hy]
    exact {}
  have hydrains : y.Drains := hcy.drains ⟨h1, h2, h4, h5, h6, h7, h11⟩
  have hz := y.aside_hamperNext e
  obtain ⟨g1, g2, g4, g5, g6, g7, g11⟩ := hydrains
  obtain ⟨k1, k2, k4, k5, k6, k7, k11⟩ := hz.drains ⟨g1, g2, g4, g5, g6, g7, g11⟩
  have b : y.deadAcks e = y := by
    unfold Coh.deadAcks
    simp only [g2, g7, List.filter_nil, List.foldl_nil, List.map_nil]
    cases y
    cases g2
    cases g7
    rfl
  have d : y.deadSnoops e = y := by
    unfold Coh.deadSnoops
    simp [g7]
  have hsnp : (y.hamperNext e).snpNext e = y.hamperNext e := by
    generalize y.hamperNext e = z at k11
    unfold Coh.snpNext
    cases z
    cases k11
    rfl
  have hround : c.round e = y.hamperNext e := by
    unfold Coh.round
    rw [← hy] at a ⊢
    simp only [a, b, d, g6, List.foldl_nil, hsnp, k4, k5, k2, k1, List.length_nil, Coh.passAll, List.append_nil]
    generalize y.hamperNext e = z at k1 k2 k4 k5
    cases z
    cases k1
    cases k2
    cases k4
    cases k5
    rfl
  rw [hround]
  exact hcy.trans hz

theorem Coh.aside_settle {e : State} (hd : e.deadNodes = []) : ∀ (n : Nat) {c : Coh}, c.Drains → c.Aside (Coh.settle e n c)
  | 0, _, _ => {}
  | n + 1, c, h => by
    rw [Coh.settle]
    split
    · have hr := Coh.aside_round h hd
      exact hr.trans (Coh.aside_settle hd n (hr.drains h))
    · exact {}

/-- A run on an engine without work but lines that leave: all else is as the change made it. -/
theorem State.aside_runCoh {s : State} {c d : Coh} {f : Coh → Coh} (hs : Coh.settle s settleRounds (f s.coh) = d) (ha : c.Aside d)
    (h : c.Drains) (hret : c.retiring = []) : c.Aside (s.runCoh f).coh := by
  have hretd : d.retiring = [] := (congrArg Coh.retiring ha.same :).trans hret
  obtain ⟨-, -, h4, h5, -⟩ := ha.drains h
  rw [State.coh_runCoh_of_settle hs hretd]
  refine ha.trans ?_
  have hstamp : d.stamp s.fine = { d with nodeTx := (d.stamp s.fine).nodeTx } := by
    unfold Coh.stamp
    cases d
    cases h4
    cases h5
    rfl
  rw [hstamp]
  exact {}

/-! ### AckC -/

/-- A request in service that awaits nothing leaves it. -/
theorem Coh.aside_endTxn {c : Coh} {t : Txn} (htx : c.txns = [t]) (e : State) : ({ c with txns := [], wake := true } : Coh).Aside (c.endTxn e t) := by
  have hdrop : c.dropTxn t.req.line = { c with txns := [], wake := true } := by
    rw [Coh.dropTxn, htx]
    simp
  have htidy := (Coh.aside_endJoined { c with txns := [], wake := true } t).trans (Coh.aside_tidySnf _ e t.req.line)
  unfold Coh.endTxn
  dsimp only
  rw [hdrop]
  split
  · exact htidy.trans (Coh.aside_sendFEv _ _ _ _)
  · exact htidy

theorem Coh.drains_of_serves {c : Coh} (h : c.Serves) : ({ c with txns := [] } : Coh).Drains := by
  obtain ⟨h1, h4, h5, h6, h7, -, h11⟩ := h
  exact ⟨h1, rfl, h4, h5, h6, h7, h11⟩

/-- An AckC ends the service of the request that awaits it. -/
theorem ackc_ends {s : State} {p : Port} {tag : Tag} {x : Txn} (hdead : s.deadNodes = []) (hret : s.coh.retiring = [])
    (hquiet : ({ s.coh with txns := [] } : Coh).quiet = true) (htx : s.coh.txns = [x]) (hphase : x.phase = .done)
    (hpend : x.writePending = false) (hack : x.ackPending = true) (hsrc : x.req.src = .agent p) (htag : x.req.tag = tag) :
    Does (.ackc p tag) s (fun t => t.coh.txns = []) := by
  obtain ⟨hserves, -⟩ := Coh.serves_of_quiet hquiet
  let y : Txn := { x with ackPending := false }
  let s1 := s.count (ctrSel 2 p 0x22)
  have hs1 : s1.coh = s.coh ∧ s1.deadNodes = [] := by
    obtain ⟨m, hm, -⟩ := s.count_eq (ctrSel 2 p 0x22) 1
    rw [show s1 = _ from hm]
    exact ⟨rfl, hdead⟩
  have hfind : s.coh.ackTxn p tag = some x := by simp [Coh.ackTxn, htx, hack, hsrc, htag]
  obtain ⟨f, hf⟩ : ∃ f, f = fun c : Coh =>
      ((c.setTxn x.req.line (fun t => { t with ackPending := false })).releaseSnoops s p x.req.line).woken :=
    ⟨_, rfl⟩
  have hfs : f s1.coh = { s.coh with txns := [y], wake := true } := by
    obtain ⟨-, -, -, -, hsn, -⟩ := hserves
    rw [hf, hs1.1]
    dsimp only
    rw [Coh.setTxn_one htx rfl, Coh.releaseSnoops]
    dsimp only
    rw [hsn]
    rfl
  let c : Coh := { s.coh with txns := [], wake := true }
  have hc : c.Drains := Coh.drains_of_serves hserves
  have hsettle : c.Aside (Coh.settle s1 settleRounds (f s1.coh)) := by
    have hend : c.Aside (({ s.coh with wake := false, txns := [y] } : Coh).endTxn s1 y) :=
      Coh.aside_endTxn (c := { s.coh with wake := false, txns := [y] }) rfl s1
    have hround : (f s1.coh).round s1 = ({ s.coh with wake := false, txns := [y] } : Coh).endTxn s1 y := by
      have hadv : Coh.advance s1 y.req.line 8 { s.coh with wake := false, txns := [y] } =
          ({ s.coh with wake := false, txns := [y] } : Coh).endTxn s1 y := Coh.advance_done (t := y) rfl rfl hphase hpend rfl 7
      rw [hfs, Coh.round_one (c := { s.coh with txns := [y], wake := true }) (x := y) rfl hserves (by rw [show y.phase = .done from hphase]; decide)
        hs1.2, Txn.acked_of_answered (t := y) rfl]
      dsimp only
      rw [hadv]
      have hwait := (hend.drains hc).1
      generalize Coh.endTxn _ s1 y = d at hwait
      rw [hwait]
      cases d
      cases hwait
      rfl
    rw [settleRounds, Coh.settle, if_pos (by rw [hfs]), hround]
    exact hend.trans (Coh.aside_settle hs1.2 7 (hend.drains hc))
  have haside := State.aside_runCoh (s := s1) rfl hsettle hc hret
  have hop : opAckc p tag s = s1.runCoh f := by
    rw [hf]
    unfold opAckc
    rw [hfind]
  generalize s1.runCoh f = t at hop haside
  exact Does.of_exec (congrArg Host.Outcome.next hop) (congrArg Coh.txns haside.same :)

/-! ### The write-back of a snoop answer -/

/-- The Press entry of a write-back (R251). -/
def AgentWb.entry (w : AgentWb) (s : State) (n : BitVec 3) : PressEntry :=
  { line := w.line, cl := w.cl, mask := fullMask, policy := s.policy w.line, port := .agent w.port, cls := 2, born := s.fine, st := .owned,
    wb := true, nst := n }

theorem Coh.passAgentWb_enters {c : Coh} {w : AgentWb} (hw : c.agentWbs = [w]) (hpress : c.pressOf w.line = none)
    (hroom : (c.pressIn (sliceOf w.line).val).length < 32) (e : State) : ∃ n fx, c.passAgentWb e w.line =
      ({ c with press := c.press ++ [w.entry e n], agentWbs := [], wake := true, fx := fx } : Coh).tidySnf e w.line := by
  unfold Coh.passAgentWb
  simp only [hw, takeFirst, beq_self_eq_true, if_true, Coh.mergeWb, hpress, if_neg (Nat.not_le.mpr hroom), Coh.sctr]
  exact ⟨_, _, rfl⟩

/-- A line that an answer carried goes to a Press entry of its own. -/
theorem snoopDataWriteback_enters {s : State} {w : AgentWb} (hdead : s.deadNodes = []) (hret : s.coh.retiring = [])
    (hquiet : ({ s.coh with agentWbs := [] } : Coh).quiet = true) (hw : s.coh.agentWbs = [w]) (hpress : s.coh.pressOf w.line = none)
    (hroom : (s.coh.pressIn (sliceOf w.line).val).length < 32) : Does (.snoopDataWriteback w.line) s (fun t => t.coh.agentWbs = [] ∧
      ∃ e ∈ t.coh.press, e.line = w.line ∧ e.cl = w.cl ∧ e.mask = fullMask) := by
  obtain ⟨h1, h2, -, h4, h5, h6, h7, -, -, -, h11⟩ := Coh.quiet_lists hquiet
  obtain ⟨n, fx, hpass⟩ := Coh.passAgentWb_enters hw hpress hroom s
  let c : Coh := { s.coh with press := s.coh.press ++ [w.entry s n], agentWbs := [], wake := true, fx := fx }
  have hc : c.Drains := ⟨h1, h2, h4, h5, h6, h7, h11⟩
  have htidy : c.Aside (s.coh.passAgentWb s w.line).woken := by
    rw [hpass]
    exact (c.aside_tidySnf s w.line).trans (Coh.aside_woken _)
  obtain ⟨f, hf⟩ : ∃ f, f = fun c : Coh => (c.passAgentWb s w.line).woken := ⟨_, rfl⟩
  have hfs : c.Aside (f s.coh) := by
    rw [hf]
    exact htidy
  have haside := State.aside_runCoh (s := s) (f := f) rfl (hfs.trans (Coh.aside_settle hdead settleRounds (hfs.drains hc))) hc hret
  have hop : opSnoopWriteback w.line s = s.runCoh f := by
    rw [hf]
    rfl
  generalize s.runCoh f = t at hop haside
  exact Does.of_exec (congrArg Host.Outcome.next hop) 
    ⟨haside.wbs rfl, haside.press (w.entry s n) (List.mem_append_right _ (List.mem_singleton_self _))⟩

/-! ### An answer without data -/

theorem Coh.snfKeyOf_congr {c d : Coh} (h : c.snf = d.snf) (l : LineAddr) : c.snfKeyOf l = d.snfKeyOf l := by
  unfold Coh.snfKeyOf Coh.snfAt
  rw [h]

theorem Coh.snfOf_congr {c d : Coh} (h : c.snf = d.snf) (l : LineAddr) : c.snfOf l = d.snfOf l := by
  have hat : c.snfAt = d.snfAt := by
    funext k
    unfold Coh.snfAt
    rw [h]
  unfold Coh.snfOf
  rw [Coh.snfKeyOf_congr h, hat]

/-- An answer changes neither the line that an entry names nor whether the entry is in use. -/
theorem SnfEntry.answered_i_tag (x : SnfEntry) (p : Port) : (x.answered p .i).tag = x.tag := by
  unfold SnfEntry.answered
  dsimp only
  split <;> rfl

theorem SnfEntry.answered_i_used {x : SnfEntry} (h : (x.ast != aFree) = true) (p : Port) : ((x.answered p .i).ast != aFree) = true := by
  unfold SnfEntry.answered
  dsimp only
  split
  · rfl
  · exact h

/-- An answer I takes the port's bit away. -/
theorem SnfEntry.answered_i_named (x : SnfEntry) (p : Port) : (x.answered p .i).named p = false := by
  have hbit : ∀ (v : BitVec 6) (p : Port), (v &&& ~~~ portBit p).getLsbD p = false := by decide
  unfold SnfEntry.answered SnfEntry.named
  dsimp only
  split <;> exact hbit x.pres p

theorem snfGood_mkSnf (x : SnfEntry) : snfGood (mkSnf x) = true := beq_self_eq_true (snfParity x.data)

theorem Coh.snfAt_putSnf {c : Coh} (hwf : Sparse.wf (fun _ => snfFree) c.snf = true) (k j : Nat) (x : SnfEntry) :
    (c.putSnf k x).snfAt j = if k = j then mkSnf x else c.snfAt j := Sparse.get_set k j (mkSnf x) hwf

/-- A predicate that held at the first key where it holds still has that key first when only the key's value has changed. -/
theorem List.find?_of_agree {α : Type} {p q : α → Bool} {l : List α} {a : α} (h : l.find? p = some a) (hq : q a = true)
    (hsame : ∀ b, b ≠ a → q b = p b) : l.find? q = some a := by
  have hp := List.find?_some h
  have hpq : q = p := by
    funext b
    by_cases hb : b = a
    · rw [hb, hq, hp]
    · exact hsame b hb
  rw [hpq, h]

/-- The entry of a line after an answer I: where there is one, it does not name the port. -/
theorem Coh.snfOf_setSnfOf_answered {c : Coh} (hwf : Sparse.wf (fun _ => snfFree) c.snf = true) (l : LineAddr) (p : Port) {x : SnfEntry}
    (hx : (c.setSnfOf l (fun z => z.answered p .i)).snfOf l = some x) : x.named p = false := by
  unfold Coh.setSnfOf at hx
  match hk : c.snfKeyOf l with
  | none =>
    rw [hk] at hx
    simp [Coh.snfOf, hk] at hx
  | some k =>
    rw [hk] at hx
    dsimp only at hx
    obtain ⟨z, hz⟩ : ∃ z, z = (c.snfAt k).answered p .i := ⟨_, rfl⟩
    rw [← hz] at hx
    have hfound := List.find?_some hk
    simp only [Bool.and_eq_true] at hfound
    obtain ⟨⟨hused, -⟩, htag⟩ := hfound
    have hat := Coh.snfAt_putSnf hwf k k z
    rw [if_pos rfl] at hat
    have hkey : (c.putSnf k z).snfKeyOf l = some k := by
      refine List.find?_of_agree hk ?_ (fun j hj => ?_)
      · rw [hat, snfGood_mkSnf]
        have h1 : (mkSnf z).ast = z.ast := rfl
        have h2 : (mkSnf z).tag = z.tag := rfl
        rw [h1, h2, hz, SnfEntry.answered_i_used hused, SnfEntry.answered_i_tag, htag]
        rfl
      · rw [Coh.snfAt_putSnf hwf, if_neg (Ne.symm hj)]
    unfold Coh.snfOf at hx
    rw [hkey, Option.map_some, hat] at hx
    rw [← Option.some.inj hx, show (mkSnf z).named p = z.named p from rfl, hz]
    exact (c.snfAt k).answered_i_named p

/-- A change of a line's entry reads and writes the filter only. -/
theorem Coh.setSnfOf_of_snf {c d : Coh} (h : d.snf = c.snf) (l : LineAddr) (f : SnfEntry → SnfEntry) :
    d.setSnfOf l f = { d with snf := (c.setSnfOf l f).snf } := by
  have hput : ∀ k, d.putSnf k (f (d.snfAt k)) = { d with snf := (c.putSnf k (f (c.snfAt k))).snf } := fun k => by
    unfold Coh.putSnf Coh.snfAt
    rw [h]
  unfold Coh.setSnfOf
  rw [Coh.snfKeyOf_congr h]
  cases c.snfKeyOf l with
  | none => rw [← h]
  | some k => exact hput k

/-- The first of two answers that a flow awaits is counted. -/
theorem Coh.snoopAnswered_first {c : Coh} {x y : Snoop} {f : Flow} (hsn : c.snoops = [x, y]) (hfl : c.flows = [f]) (hflow : x.flow = f.id)
    (hawait : f.await = 2) (hdef : x.deferred = false) (hkind : ∀ a b c, f.kind ≠ .hint a b c) (hport : y.port ≠ x.port) :
    c.snoopAnswered x .i false none = { c with
      snoops := [y]
      wake := true
      snf := (c.setSnfOf x.line (fun z => z.answered x.port .i)).snf
      flows := [{ f with await := 1 }] } := by
  have hfilter : c.snoops.filter (fun z => !(z.port == x.port && z.tag == x.tag && !z.deferred)) = [y] := by
    rw [hsn]
    simp [hdef, hport]
  have hfind : c.flows.find? (fun g => g.id == x.flow) = some f := by
    rw [hfl]
    simp [hflow]
  obtain ⟨w, hw⟩ : ∃ w, w = (c.setSnfOf x.line (fun z => z.answered x.port .i)).snf := ⟨_, rfl⟩
  have hsnf : (({ c with snoops := [y], wake := true } : Coh).setSnfOf x.line (fun z => z.answered x.port .i)) =
      { c with snoops := [y], wake := true, snf := w } := by
    rw [hw]
    exact Coh.setSnfOf_of_snf (c := c) (d := { c with snoops := [y], wake := true }) rfl _ _
  have hhint : (match f.kind with | .hint _ _ _ => true | _ => false) = false := by
    split
    · next a b c h => exact absurd h (hkind a b c)
    · rfl
  rw [← hw]
  unfold Coh.snoopAnswered
  rw [hfilter]
  obtain ⟨d, hd⟩ : ∃ d : Coh, d = { c with snoops := [y], wake := true } := ⟨_, rfl⟩
  rw [← hd] at hsnf ⊢
  rw [← congrArg Coh.flows hd] at hfind
  extract_lets l d2 own
  rw [hfind]
  dsimp -zeta only
  extract_lets toP d3 hint d4
  have h2 : d2 = d := rfl
  have h3 : d3 = d2 := if_neg (by simp [toP])
  have h4 : d4 = { c with snoops := [y], wake := true, snf := w } := by
    rw [show d4 = _ from if_neg (by rw [show hint = false from hhint]; exact Bool.false_ne_true), h3, h2]
    exact hsnf
  rw [h4]
  simp only [hfl, List.map_cons, List.map_nil, if_true, Option.isSome_none, Bool.false_and, Bool.and_false, Bool.or_false, ite_self,
    Bool.false_eq_true, if_false, hawait]

/-- An engine that only awaits an answer of a live agent, in a flow that still misses one: its rounds only go back to sleep. -/
theorem Coh.round_awaits {c : Coh} {f : Flow} {y : Snoop} {e : State} (h1 : c.wait = []) (h2 : c.txns = []) (h4 : c.homeTx = [])
    (h5 : c.setRecalls = []) (h10 : c.hamperWait = []) (h11 : c.snpWait = []) (hfl : c.flows = [f]) (hsn : c.snoops = [y])
    (hawait : f.await ≠ 0) (hlive : e.dead y.port = false) (hd : e.deadNodes = []) : c.round e = { c with wake := false } := by
  obtain ⟨d, hdc⟩ : ∃ d : Coh, d = { c with wake := false } := ⟨_, rfl⟩
  rw [← congrArg Coh.wait hdc] at h1
  rw [← congrArg Coh.txns hdc] at h2
  rw [← congrArg Coh.homeTx hdc] at h4
  rw [← congrArg Coh.setRecalls hdc] at h5
  rw [← congrArg Coh.hamperWait hdc] at h10
  rw [← congrArg Coh.snpWait hdc] at h11
  rw [← congrArg Coh.flows hdc] at hfl
  rw [← congrArg Coh.snoops hdc] at hsn
  have a : d.deadNodes e = d := by
    unfold Coh.deadNodes
    rw [hd]
    rfl
  have b : d.deadAcks e = d := by
    unfold Coh.deadAcks
    simp only [h2, hsn, hlive, List.filter_nil, List.foldl_nil, List.map_nil, List.filter_cons, Bool.false_and, Bool.false_eq_true, if_false]
    cases d
    cases h2
    cases hsn
    rfl
  have k : d.deadSnoops e = d := by
    unfold Coh.deadSnoops
    simp [hsn, hlive]
  have g : d.hamperNext e = d := by
    unfold Coh.hamperNext
    rw [h10]
    rfl
  have m : d.snpNext e = d := by
    unfold Coh.snpNext
    cases d
    cases h11
    rfl
  unfold Coh.round
  dsimp only
  rw [← hdc, a, b, k, hfl, List.foldl_cons, List.foldl_nil, if_neg hawait, g, m, h4, List.foldl_nil, h5, List.foldl_nil, h2, List.foldl_nil, h1]
  cases d
  cases h1
  rfl

theorem snoopAnswer_first {s : State} {x y : Snoop} {f : Flow} {acc : Bool} {l : LineAddr} (hinv : Inv s) (hdead : s.deadNodes = [])
    (hret : s.coh.retiring = []) (hquiet : ({ s.coh with flows := [], snoops := [] } : Coh).quiet = true) (hsn : s.coh.snoops = [x, y])
    (hfl : s.coh.flows = [f]) (hflow : x.flow = f.id) (hawait : f.await = 2) (hdef : x.deferred = false) (hopcP : x.opc ≠ opSnpP)
    (hopcH : x.opc ≠ opSnpH) (hkind : ∀ a b c, f.kind ≠ .hint a b c) (hport : y.port ≠ x.port) (hlive : s.dead y.port = false) :
    Does (.snoopAnswer x.port x.tag .i acc false none l) s (fun t => t.coh.snoops = [y] ∧ t.coh.flows = [{ f with await := 1 }] ∧
      ∀ e, t.coh.snfOf x.line = some e → e.named x.port = false) := by
  obtain ⟨h1, h2, h3, h4, h5, -, -, -, -, h10, h11⟩ := Coh.quiet_lists hquiet
  obtain ⟨-, -, ⟨-, -, hsnf, -⟩, -⟩ := hinv
  obtain ⟨g, hg⟩ : ∃ g, g = fun c : Coh => c.snoopAnswered x .i false none := ⟨_, rfl⟩
  have hrun : ∃ s1 : State, opSnoopAnswer x.port x.tag .i acc false none l s = s1.runCoh g ∧ s1.coh = s.coh ∧ s1.deadNodes = s.deadNodes ∧
      s1.dead y.port = s.dead y.port := by
    have hby : s.coh.snoopBy x.port x.tag = some x := by
      unfold Coh.snoopBy
      rw [hsn]
      simp [hdef]
    unfold opSnoopAnswer
    rw [hby]
    dsimp -zeta only
    extract_lets hdr dst s0 s1 cl
    obtain ⟨hdl, beats, hcross, -⟩ := State.cross_eq s (.port x.port) (.slice dst) false 2 2 hdr none none
    obtain ⟨m, hcount, -⟩ := State.count_eq s0 (ctrSel 2 x.port 0x21) (if x.since + 40 < s.fine then 1 else 0)
    have hs1 : s1 = { s.onHdl hdl beats with mon := m } := hcount.trans (congrArg (fun u : State => { u with mon := m }) hcross)
    refine ⟨s1, ?_, ?_, ?_, ?_⟩
    · rw [hg]
      simp only [if_neg hopcP, if_neg hopcH, ite_self]
      rfl
    all_goals
      rw [hs1]
      rfl
  obtain ⟨s1, hop, hcoh1, hdead1, hlive1⟩ := hrun
  obtain ⟨c, hc⟩ : ∃ c, c = g s1.coh := ⟨_, rfl⟩
  have hg1 : c = s.coh.snoopAnswered x .i false none := by rw [hc, hg, hcoh1]
  have hrest := hg1.trans (Coh.snoopAnswered_first hsn hfl hflow hawait hdef hkind hport)
  have hround : c.round s1 = { c with wake := false } := by
    refine Coh.round_awaits (f := { f with await := 1 }) (y := y) ?_ ?_ ?_ ?_ ?_ ?_ (congrArg Coh.flows hrest) (congrArg Coh.snoops hrest)
      Nat.one_ne_zero (hlive1.trans hlive) (hdead1.trans hdead)
    · exact (congrArg Coh.wait hrest).trans h1
    · exact (congrArg Coh.txns hrest).trans h2
    · exact (congrArg Coh.homeTx hrest).trans h4
    · exact (congrArg Coh.setRecalls hrest).trans h5
    · exact (congrArg Coh.hamperWait hrest).trans h10
    · exact (congrArg Coh.snpWait hrest).trans h11
  have hsettle : Coh.settle s1 settleRounds (g s1.coh) = { c with wake := false } := by
    rw [← hc]
    refine (if_pos (congrArg Coh.wake hrest)).trans ?_
    rw [hround]
    exact Coh.settle_asleep _ _ _ rfl
  have hcoh := State.coh_runCoh_of_settle hsettle ((congrArg Coh.retiring hrest).trans hret)
  rw [Coh.stamp_nil (c := { c with wake := false }) ((congrArg Coh.homeTx hrest).trans h4) ((congrArg Coh.nodeTx hrest).trans h3)
    ((congrArg Coh.setRecalls hrest).trans h5)] at hcoh
  generalize s1.runCoh g = t at hop hcoh
  refine Does.of_exec (congrArg Host.Outcome.next hop) ⟨?_, ?_, fun z hz => ?_⟩
  · exact (congrArg Coh.snoops hcoh).trans (congrArg Coh.snoops hrest)
  · exact (congrArg Coh.flows hcoh).trans (congrArg Coh.flows hrest)
  · have hfilter : t.coh.snf = (s.coh.setSnfOf x.line (fun z => z.answered x.port .i)).snf :=
      (congrArg Coh.snf hcoh).trans (congrArg Coh.snf hrest : c.snf = _)
    rw [Coh.snfOf_congr hfilter] at hz
    exact Coh.snfOf_setSnfOf_answered hsnf x.line x.port hz

/-! ### Answers that nothing awaits -/

/-- A packet that breaks the protocol raises EV104 and changes the status alone. -/
theorem State.portError_spec (s : State) (p : Port) (opc : Nat) (sa : SysAddr) :
    Raised (s.portError p opc sa) 104 ∧ s.portError p opc sa = { s with mon := (s.portError p opc sa).mon } := by
  obtain ⟨m, hm, -⟩ := s.count_eq (ctrSel 2 p 0x23) 1
  unfold State.portError
  rw [hm]
  exact ⟨State.raiseLog_pend _ 104 _ _ (by decide), rfl⟩

/-- Settles O18. -/
theorem agentsAnswer : Obligations.AgentsAnswer := by
  unfold Obligations.AgentsAnswer
  intro s hinv hdead hret hfx
  refine ⟨fun p tag x hq hx hph hwp hap hsrc htag => ?_, ?_, fun w hq hw hpress hroom => ?_, fun p tag hnone => ?_,
    fun p tag newst acc dirty d l hnone => ?_⟩
  · exact ackc_ends hdead hret hq hx hph hwp hap hsrc htag
  · rintro x y f newst acc l hq hsn hfl hflow hawait hdef hopcP hopcH hkind hport hlive rfl
    exact snoopAnswer_first hinv hdead hret hq hsn hfl hflow hawait hdef hopcP hopcH hkind hport hlive
  · exact snoopDataWriteback_enters hdead hret hq hw hpress hroom
  · refine Does.of_exec (congrArg Host.Outcome.next (?_ : opAckc p tag s = s.portError p 0x20 0)) (s.portError_spec p 0x20 0)
    unfold opAckc
    rw [hnone]
  · refine Does.of_exec (congrArg Host.Outcome.next (?_ : opSnoopAnswer p tag newst acc dirty d l s = _))
      (s.portError_spec p (if d.isSome then 0x28 else 0x21) (saOf l))
    unfold opSnoopAnswer
    rw [hnone]

end Sys2Proof.Machine
end

section
/-! PROOFS. Answers of the fabric, at the home and at the requester (Tables 7.4 to 7.6). -/

namespace Sys2Proof.Machine
open Sys2Proof

/-! ### The passes over a single home flow -/

/-- Where a home flow is the only one, a round looks at it. -/
theorem Coh.round_home {c d : Coh} {x : HomeTx} {e : State} (h2 : c.txns = []) (h6 : c.flows = []) (h7 : c.snoops = [])
    (h10 : c.hamperWait = []) (h11 : c.snpWait = []) (hd : e.deadNodes = []) (hx : c.homeTx = [x])
    (hprog : ({ c with wake := false } : Coh).homeProgress e x = d) (hset : d.setRecalls = []) (htxns : d.txns = []) (hwait : d.wait = []) :
    c.round e = d := by
  obtain ⟨b, hb⟩ : ∃ b : Coh, b = { c with wake := false } := ⟨_, rfl⟩
  rw [← congrArg Coh.txns hb] at h2
  rw [← congrArg Coh.homeTx hb] at hx
  rw [← congrArg Coh.hamperWait hb] at h10
  rw [← congrArg Coh.snpWait hb] at h11
  rw [← congrArg Coh.flows hb] at h6
  rw [← congrArg Coh.snoops hb] at h7
  rw [← hb] at hprog
  have hnodes : b.deadNodes e = b := by
    unfold Coh.deadNodes
    rw [hd]
    rfl
  have hacks : b.deadAcks e = b := by
    unfold Coh.deadAcks
    simp only [h2, h7, List.filter_nil, List.foldl_nil, List.map_nil]
    cases b
    cases h2
    cases h7
    rfl
  have hsnoops : b.deadSnoops e = b := by
    unfold Coh.deadSnoops
    rw [h7]
    rfl
  have hhamper : b.hamperNext e = b := by
    unfold Coh.hamperNext
    rw [h10]
    rfl
  have hsnp : b.snpNext e = b := by
    unfold Coh.snpNext
    cases b
    cases h11
    rfl
  have hof : b.homeTxOf x.line = some x := by simp [Coh.homeTxOf, hx]
  unfold Coh.round
  dsimp only
  rw [← hb, hnodes, hacks, hsnoops, h6, List.foldl_nil, hhamper, hsnp, hx, List.foldl_cons, List.foldl_nil, hof]
  dsimp only
  rw [hprog, hset, List.foldl_nil, htxns, List.foldl_nil, hwait]
  cases d
  cases hwait
  rfl

/-- While answers of this node's own agents are out, a home flow stays as it is. -/
theorem Coh.homeProgress_snooping {x : HomeTx} (h : x.snooping = true) (c : Coh) (e : State) : c.homeProgress e x = c := by
  have hopen : x.settled = false := by simp [HomeTx.settled, h]
  simp [Coh.homeProgress, hopen]

/-- The flow after a run that started or changed it: its wait is timed (R230). -/
def HomeTx.stamped (x : HomeTx) (now : Nat) : HomeTx := { x with since := some (x.since.getD now) }

/-- A run that changes the only home flow, one whose own agents have still to answer, leaves that flow as it changed it. -/
theorem Does.of_homeRun {i : Instr} {s : State} {f : Coh → Coh} {y : HomeTx} {fx : List Fx} {w : Bool} {P : State → Prop}
    (hi : exec i s = .next (s.runCoh f)) (hf : f s.coh = { s.coh with homeTx := [y], wake := w, fx := fx })
    (hquiet : ({ s.coh with homeTx := [] } : Coh).quiet = true) (hret : s.coh.retiring = []) (hdead : s.deadNodes = [])
    (hsnoop : y.snooping = true) (hP : ∀ t : State, t.coh.homeTx = [y.stamped s.fine] → P t) : Does i s P := by
  obtain ⟨h1, h2, h3, -, h5, h6, h7, -, -, h10, h11⟩ := Coh.quiet_lists hquiet
  obtain ⟨c, hc⟩ : ∃ c, c = f s.coh := ⟨_, rfl⟩
  rw [← hc] at hf
  have hround : c.round s = { c with wake := false } :=
    Coh.round_home ((congrArg Coh.txns hf).trans h2) ((congrArg Coh.flows hf).trans h6) ((congrArg Coh.snoops hf).trans h7)
      ((congrArg Coh.hamperWait hf).trans h10) ((congrArg Coh.snpWait hf).trans h11) hdead (congrArg Coh.homeTx hf)
      (Coh.homeProgress_snooping hsnoop _ s) ((congrArg Coh.setRecalls hf).trans h5) ((congrArg Coh.txns hf).trans h2)
      ((congrArg Coh.wait hf).trans h1)
  have hsettle : Coh.settle s settleRounds (f s.coh) = { c with wake := false } := by
    rw [← hc, settleRounds, Coh.settle]
    split
    · rw [hround]
      exact Coh.settle_asleep _ _ _ rfl
    · next hw =>
      cases c
      simp only [Bool.not_eq_true] at hw
      cases hw
      rfl
  have hcoh := State.coh_runCoh_of_settle hsettle ((congrArg Coh.retiring hf).trans hret)
  have hhome : c.homeTx = [y] := congrArg Coh.homeTx hf
  generalize s.runCoh f = t at hi hcoh
  refine Does.of_exec hi (hP t ((congrArg Coh.homeTx hcoh).trans ?_))
  exact (congrArg (List.map fun h : HomeTx => h.stamped s.fine) hhome)

/-! ### Answers that a home flow enters -/

theorem Coh.homeTxOf_one {c : Coh} {x : HomeTx} {l : LineAddr} (hx : c.homeTx = [x]) (hl : x.line = l) : c.homeTxOf l = some x := by
  simp [Coh.homeTxOf, hx, hl]

theorem Coh.setHome_one {c : Coh} {x : HomeTx} {l : LineAddr} (hx : c.homeTx = [x]) (hl : x.line = l) (f : HomeTx → HomeTx) :
    c.setHome l f = { c with homeTx := [f x] } := by
  simp [Coh.setHome, hx, hl, modFirst]

section
variable {c : Coh} {x : HomeTx} {h : FabHdr} (hx : c.homeTx = [x]) (hl : x.line = h.line)
include hx hl

theorem Coh.recvInvAck_one (hsrc : h.src ∈ x.invs) (e : State) :
    c.recvInvAck e h = { c with homeTx := [{ x with invs := x.invs.filter (fun n => n != h.src) }], wake := true } := by
  unfold Coh.recvInvAck
  rw [Coh.homeTxOf_one hx hl]
  simp only [List.contains_iff_mem, hsrc, if_true, Coh.setHome_one hx hl]
  rfl

theorem Coh.recvRecallAck_one (hsrc : h.src ∈ x.recalls) (e : State) (n : Nat) : c.recvRecallAck e h n = { c with
    homeTx := [{ x with
      recalls := x.recalls.filter (fun n => n != h.src)
      due := if n = 0 ∨ h.src ∈ x.early then x.due else x.due ++ [h.src]
      early := x.early.filter (fun n => n != h.src) }]
    wake := true } := by
  unfold Coh.recvRecallAck
  rw [Coh.homeTxOf_one hx hl]
  simp only [List.contains_iff_mem, hsrc, if_true, Coh.setHome_one hx hl, Bool.or_eq_true, decide_eq_true_eq]
  rfl

/-- The data of a recalled node comes before its acknowledgement: it is checked, taken once, and the acknowledgement is still due. -/
theorem Coh.recvRecallData_early (hts : x.ts = .ha) (hsrc : h.src ∈ x.recalls) (hdue : h.src ∉ x.due) (hearly : h.src ∉ x.early)
    (htaken : h.src ∉ x.taken) (e : State) (cl : CodeLine) : ∃ fx, c.recvRecallData e h cl = { c with
      homeTx := [{ x with taken := x.taken ++ [h.src], data := some (c.arrive h.line cl).1, dirty := true, early := x.early ++ [h.src] }]
      wake := true
      fx := fx } := by
  obtain ⟨fx, hfx⟩ : ∃ fx, (c.arrive h.line cl).2 = { c with fx := fx } := by
    unfold Coh.arrive
    dsimp only
    split
    · exact ⟨c.fx, rfl⟩
    · rw [Coh.ctr_eq]
      exact ⟨_, rfl⟩
  have hawaits : x.awaits h.src = true := by simp [HomeTx.awaits, hsrc]
  have htake : ({ c with fx := fx } : Coh).takeDirty x h.src (c.arrive h.line cl).1 = { c with
      homeTx := [{ x with taken := x.taken ++ [h.src], data := some (c.arrive h.line cl).1, dirty := true }], fx := fx } := by
    unfold Coh.takeDirty
    rw [if_neg (by simp [htaken]), Coh.setHome_one (c := { c with fx := fx }) hx rfl]
    simp [hts]
  refine ⟨fx, ?_⟩
  unfold Coh.recvRecallData
  rw [Coh.homeTxOf_one hx hl]
  dsimp only
  rw [if_pos (by simp [hts, hawaits, hearly]), hfx, htake,
    Coh.setHome_one (x := { x with taken := x.taken ++ [h.src], data := some (c.arrive h.line cl).1, dirty := true }) rfl hl]
  simp only [List.contains_iff_mem, hdue, if_false]
  rfl

theorem Coh.recvFwdMiss_one (hts : x.ts = .hf) (hfwd : x.fwdTo = some h.src) (hmiss : x.missed = false) (e : State) :
    ∃ fx, c.recvFwdMiss e h = { c with homeTx := [{ x with missed := true }], wake := true, fx := fx } := by
  unfold Coh.recvFwdMiss
  rw [Coh.homeTxOf_one hx hl]
  simp only [hts, hfwd, hmiss, Bool.not_false, and_self, if_true, Coh.setHome_one hx hl]
  exact ⟨_, rfl⟩

theorem Coh.recvCmpAck_one (hts : x.ts = .hc) {e : State} (hnode : reqNodeId e x.req = h.src) (hrem : x.req.remote = true) :
    c.recvCmpAck e h = { c with homeTx := [], wake := true } := by
  unfold Coh.recvCmpAck
  rw [Coh.homeTxOf_one hx hl]
  simp [hts, hnode, hrem, Coh.dropHome, hx, hl]

end

/-! ### Front ends that nothing stirs -/

theorem still_congr {s t : State} (h : Still s) (hports : t.ports = s.ports) : Still t := fun p => by
  have hp : t.port p = s.port p := congrArg (fun v : Vector PortSt 6 => v.get p) hports
  have hptu : t.ptu p = s.ptu p := congrArg PortSt.ptu hp
  rw [hp, hptu]
  exact h p

theorem still_setPort {s : State} (h : Still s) (p : Port) {f : PortSt → PortSt} (hfront : (f (s.port p)).front = (s.port p).front)
    (hdue : (f (s.port p)).ptu.anyDue = (s.port p).ptu.anyDue) : Still (s.setPort p f) := fun q => by
  unfold State.ptu
  by_cases hq : q = p
  · subst hq
    rw [State.port_setPort, hfront, hdue]
    exact h q
  · rw [State.port_setPort_of_ne _ (Ne.symm hq)]
    exact h q

theorem still_pointReached {s : State} (h : Still s) (p : Port) (id : Nat) : Still (s.pointReached p id) := by
  unfold State.pointReached
  exact still_setPort h p rfl rfl

/-- A response that goes out at once leaves the front ends as they are. -/
theorem still_respond {s : State} {p : Port} {m : AgentMsg} (hacc : s.accepts p = true) (hclear : Clear s (.port p))
    (hend : s.tagEnded p m.tag = false) (hresp : m.isResponse = true) (h : Still s) : Still (s.respond p m) := by
  obtain ⟨f, hf⟩ : ∃ f : PortSt → PortSt, f = fun x => { x with
    tags := modFirst (fun (t : TagUse) => t.tag == m.tag && !t.answered) (fun (t : TagUse) => { t with answered := true }) x.tags } := ⟨_, rfl⟩
  obtain ⟨s1, hs1⟩ : ∃ s1, s1 = s.setPort p f := ⟨_, rfl⟩
  have hport : s1.port p = f (s.port p) := by rw [hs1, State.port_setPort]
  have hlink : s1.linkSt (.port p) = s.linkSt (.port p) := by
    show (s1.port p).link = (s.port p).link
    rw [hport, hf]
  have hstill : Still s1 := by
    rw [hs1]
    exact still_setPort h p (by rw [hf]) (by rw [hf])
  have hacc1 : s1.accepts p = true := by rw [hs1]; exact hacc
  have hregs : s1.regs = s.regs := by rw [hs1]; rfl
  obtain ⟨y, ts, n, pr, hsend⟩ := State.toAgent_response hacc1 (clear_congr hclear hregs hlink) hresp
  have hrun : s.respond p m = s1.toAgent p m := by
    rw [hs1, hf]
    exact if_neg (by rw [hend, hacc]; decide)
  have hports : (s1.toAgent p m).ports = (s1.setPort p (fun x => { x with link := y, tags := ts })).ports :=
    (congrArg State.ports hsend).trans rfl
  have hstill' : Still (s1.setPort p (fun x => { x with link := y, tags := ts })) := still_setPort hstill p rfl rfl
  rw [hrun]
  exact still_congr hstill' hports

theorem State.crossAgent_ports (s : State) (a b : HdlUnit) (vcl : Fin 5) (cls : BitVec 2) (m : AgentMsg) :
    (s.crossAgent a b vcl cls m).ports = s.ports := by
  obtain ⟨h, l, heq, -⟩ := s.cross_eq a b false vcl cls (agentHdr m) (if m.opc = 0x28 ∨ m.opc = 0x33 ∨ m.opc = 0x39 ∨ m.opc = 0x3A then
    some (encodeLine m.bytes m.poison) else none) (if m.opc = 0x39 ∨ m.opc = 0x3A then some m.mask else none)
  rw [State.crossAgent, heq]
  rfl

theorem still_answer {s : State} {p : Port} {m : AgentMsg} (hacc : s.accepts p = true) (hclear : Clear s (.port p))
    (hend : s.tagEnded p m.tag = false) (hresp : m.isResponse = true) (h : Still s) : Still (s.answer p m) := by
  unfold State.answer
  split
  · next t ht =>
    dsimp only
    split
    · next u _ =>
      have hush := s.crossAgent_hush u (.port p) (if m.opc = opData ∨ m.opc = opDataV then 3 else 2) ((t.credit.map Credit.cls).getD 2)
        { m with nb := t.nb } p
      exact still_respond (m := { m with nb := t.nb }) (hush.accepts.trans hacc) (hush.clear hclear) ((hush.ended _).trans hend) hresp
        (still_congr h (s.crossAgent_ports _ _ _ _ _))
    · exact still_respond (m := { m with nb := t.nb }) hacc hclear hend hresp h
  · exact still_respond (m := { m with nb := false }) hacc hclear hend hresp h

/-! ### Answers at the requester -/

theorem Coh.setTxn_nil {c : Coh} (h : c.txns = []) (l : LineAddr) (f : Txn → Txn) : c.setTxn l f = c := by
  unfold Coh.setTxn
  cases c
  cases h
  rfl

/-- The end of a write-back whose line no longer stands in the Press, and of which nothing is kept: its Hamper entry is free. -/
theorem Coh.endWb_one {c : Coh} {x : NodeTx} (hx : c.nodeTx = [x]) (htxns : c.txns = []) (hkeep : x.keepSt = 0) (hmnt : x.mnt = false)
    (hpress : c.pressOf x.line = none) (e : State) : c.endWb e x =
      { c with nodeTx := [], hamper := c.hamper.filter (fun e => !(e.line == x.line && e.writing)), wake := true } := by
  have hof : c.nodeTxOf x.line = some x := by simp [Coh.nodeTxOf, hx]
  obtain ⟨d, hd⟩ : ∃ d : Coh, d = { c with nodeTx := [], wake := true } := ⟨_, rfl⟩
  have hend : c.endNode x.line = d := by
    unfold Coh.endNode
    rw [hof, hd]
    simp [hmnt, Coh.dropNode, hx]
  have hpress' : d.pressOf x.line = none := by
    rw [hd]
    exact hpress
  unfold Coh.endWb
  dsimp only
  rw [hend, Coh.setTxn_nil ((congrArg Coh.txns hd).trans htxns), hpress', if_pos hkeep, hd]
  rfl

section
variable {s : State} {h : FabHdr} (hdead : s.deadNodes = []) (hret : s.coh.retiring = [])
include hdead hret

theorem fwback_ends (hsound : Sound s h.line) {x : NodeTx} (hquiet : ({ s.coh with nodeTx := [] } : Coh).quiet = true)
    (hx : s.coh.nodeTx = [x]) (hl : x.line = h.line) (hts : x.ts = .wb) (hkeep : x.keepSt = 0) (hmnt : x.mnt = false)
    (hpress : s.coh.pressOf h.line = none) : Does (.fwback h false) s (fun t => t.coh.nodeTx = [] ∧
      t.coh.hamper = s.coh.hamper.filter (fun e => !(e.line == h.line && e.writing))) := by
  obtain ⟨h1, h2, -, h4, h5, h6, h7, -, -, h10, h11⟩ := Coh.quiet_lists hquiet
  have hof : s.coh.nodeTxOf h.line = some x := by simp [Coh.nodeTxOf, hx, hl]
  have hrun : ((s.coh.readRow s h.line).recvWbAck s h false).woken = { s.coh with
      nodeTx := []
      hamper := s.coh.hamper.filter (fun e => !(e.line == h.line && e.writing))
      wake := true } := by
    rw [Coh.readRow_of_sound hsound]
    unfold Coh.recvWbAck
    rw [hof]
    simp only [hts, Bool.false_eq_true, false_and, if_false]
    rw [Coh.endWb_one hx h2 hkeep hmnt (hl ▸ hpress), hl]
    rfl
  refine Does.of_run (f := fun c => ((c.readRow s h.line).recvWbAck s h false).woken) rfl hrun ⟨h1, h2, h4, h5, h6, h7, h10, h11⟩ rfl hret hdead
    (fun t ht _ => ⟨congrArg Coh.nodeTx ht, congrArg Coh.hamper ht⟩)

theorem fdecl_ends (hsound : Sound s h.line) {x : NodeTx} {y : Txn} {k : OutTrk} {p : Port}
    (hquiet : ({ s.coh with nodeTx := [], txns := [], outTrks := [] } : Coh).quiet = true) (hx : s.coh.nodeTx = [x]) (hy : s.coh.txns = [y])
    (hk : s.coh.outTrks = [k]) (hl : x.line = h.line) (hts : x.ts = .ip) (htrk : k.rtrk = h.rtrk) (hyl : y.req.line = h.line)
    (hsrc : y.req.src = .drill p) (hslot : y.slot = none) (hjoin : y.joined = []) :
    Does (.fdecl h) s (fun t => t.coh.nodeTx = [] ∧ t.coh.txns = [] ∧ t.coh.outTrks = [] ∧ t.coh.wait = []) := by
  obtain ⟨h1, -, -, h4, h5, h6, h7, -, -, h10, h11⟩ := Coh.quiet_lists hquiet
  have hof : s.coh.nodeTxOf h.line = some x := by simp [Coh.nodeTxOf, hx, hl]
  have hrun : ((s.coh.readRow s h.line).recvDecl s h).woken = { s.coh with
      nodeTx := []
      txns := []
      outTrks := []
      wait := []
      wake := true
      fx := s.coh.fx ++ [.prefetchEnd p h.line false true false] } := by
    obtain ⟨d, hd⟩ : ∃ d : Coh, d = { s.coh with nodeTx := [], outTrks := [], wake := true } := ⟨_, rfl⟩
    have hdrop : (s.coh.dropTrk h.rtrk).dropNode h.line = d := by
      rw [hd]
      simp [Coh.dropTrk, Coh.dropNode, hk, hx, hl, htrk]
    rw [Coh.readRow_of_sound hsound]
    unfold Coh.recvDecl
    rw [hof]
    simp only [hts, if_true, hdrop]
    rw [Coh.txnOf_one ((congrArg Coh.txns hd).trans hy) hyl]
    simp only [hslot, hsrc, hjoin, List.append_nil]
    rw [hd]
    simp [Coh.emit, Coh.dropTxn, Coh.woken, hy, hyl, h1]
  exact Does.of_run (f := fun c => ((c.readRow s h.line).recvDecl s h).woken) rfl hrun ⟨rfl, rfl, h4, h5, h6, h7, h10, h11⟩ rfl hret hdead
    (fun t ht _ => ⟨congrArg Coh.nodeTx ht, congrArg Coh.txns ht, congrArg Coh.outTrks ht, congrArg Coh.wait ht⟩)

end

section
variable {s : State} {k : OutTrk} {p : Port} (hdead : s.deadNodes = []) (hret : s.coh.retiring = []) (hfx : s.coh.fx = [])
  (hquiet : ({ s.coh with outTrks := [] } : Coh).quiet = true) (hk : s.coh.outTrks = [k]) (hsrc : k.req.src = .agent p)
  (hacc : s.accepts p = true) (hend : s.tagEnded p k.req.tag = false) (hstill : Still s) (hclear : Clear s (.port p))
include hdead hret hfx hquiet hk hsrc hacc hend hstill hclear

omit hk hsrc in
/-- The answer to an agent's access to another node goes to the agent, and the tracker is free. -/
theorem Does.of_devAnswer {i : Instr} {f : Coh → Coh} {m : AgentMsg} (hi : exec i s = .next (s.runCoh f).frontAll)
    (hf : f s.coh = { s.coh with outTrks := [], wake := true, fx := s.coh.fx ++ [.point p k.req.point] ++ [.respond p m] })
    (hresp : m.isResponse = true) (htag : m.tag = k.req.tag) :
    Does i s (fun t => t.coh.outTrks = [] ∧ ∃ nb, Sends s t [.agent p { m with nb := nb }]) := by
  obtain ⟨h1, h2, h3, h4, h5, h6, h7, -, -, h10, h11⟩ := Coh.quiet_lists hquiet
  obtain ⟨c, hc⟩ : ∃ c, c = f s.coh := ⟨_, rfl⟩
  rw [← hc] at hf
  have hrests : c.Rests :=
    ⟨(congrArg Coh.wait hf).trans h1, (congrArg Coh.txns hf).trans h2, (congrArg Coh.homeTx hf).trans h4, (congrArg Coh.setRecalls hf).trans h5,
      (congrArg Coh.flows hf).trans h6, (congrArg Coh.snoops hf).trans h7, (congrArg Coh.hamperWait hf).trans h10,
      (congrArg Coh.snpWait hf).trans h11⟩
  have hrun := State.runCoh_rests (hc ▸ hrests) (hc ▸ (congrArg Coh.nodeTx hf).trans h3) (hc ▸ (congrArg Coh.retiring hf).trans hret) hdead
  rw [← hc] at hrun
  have hlist : c.fx = [.point p k.req.point] ++ [.respond p m] := by
    rw [hf, hfx]
    rfl
  have htrks : c.outTrks = [] := congrArg Coh.outTrks hf
  obtain ⟨u, hu⟩ : ∃ u : State, u = { s with coh := { c with wake := false, fx := [] } } := ⟨_, rfl⟩
  have hports : u.ports = s.ports := by rw [hu]
  have hacc' : u.accepts p = true := by rw [hu]; exact hacc
  have hclear' : Clear u (.port p) := by rw [hu]; exact hclear
  have hend' : u.tagEnded p m.tag = false := by rw [hu, htag]; exact hend
  have hsent : u.sent = s.sent := by rw [hu]
  have hcoh : u.coh.outTrks = [] := by rw [hu]; exact htrks
  rw [hlist, ← hu] at hrun
  obtain ⟨nb, hsends⟩ := sends_of_effects (l := [.point p k.req.point]) (l' := []) (by simp [hushed_point]) (by simp) hacc' hclear' hend' hresp
  have hbeside := Beside.foldl beside_applyFx ([.point p k.req.point] ++ [Fx.respond p m]) u
  have hpoint : Hush p u (u.pointReached p k.req.point) := hushed_point p k.req.point u
  have hstill' : Still (([Fx.point p k.req.point] ++ [Fx.respond p m]).foldl applyFx u) :=
    still_answer (hpoint.accepts.trans hacc') (hpoint.clear hclear') ((hpoint.ended _).trans hend') hresp
      (still_pointReached (still_congr hstill hports) p _)
  have hop : (s.runCoh f).frontAll = ([Fx.point p k.req.point] ++ [Fx.respond p m]).foldl applyFx u := by
    rw [hrun, State.frontAll_of_still hstill']
  rw [hop] at hi
  refine Does.of_exec hi ⟨(congrArg Coh.outTrks hbeside.coh).trans hcoh, nb, ?_⟩
  exact hsends.trans (congrArg (fun l => l.filter (fun x => !isBeat x) ++ _) hsent)

theorem fcmp_answers {h : FabHdr} (htrk : k.rtrk = h.rtrk) (huse : k.use = .dev) (hposted : k.req.posted = false) (g : BitVec 2)
    (stat : BitVec 4) (v : BitVec 128) (m : BitVec 2) : Does (.fcmp h g stat v m) s (fun t => t.coh.outTrks = [] ∧
      ∃ nb, Sends s t [.agent p { opc := opCmp, tag := k.req.tag, stat := stat, nb := nb }]) := by
  have hof : s.coh.trkOf h.rtrk = some k := by simp [Coh.trkOf, hk, htrk]
  have hop : opFcmp h g stat v m s = s.runCoh (fun c => (c.devAnswer k none stat.toNat).woken) := by
    unfold opFcmp
    rw [hof]
    dsimp only
    rw [huse]
  have hmsg : cmpMsg k.req.tag 0 stat.toNat = { opc := opCmp, tag := k.req.tag, stat := stat } := by
    unfold cmpMsg
    rw [BitVec.ofNat_toNat, BitVec.setWidth_eq]
    rfl
  refine Does.of_devAnswer hdead hret hfx hquiet hacc hend hstill hclear
    (m := { opc := opCmp, tag := k.req.tag, stat := stat }) (congrArg (fun t : State => Host.Outcome.next t.frontAll) hop) ?_ rfl rfl
  simp [Coh.devAnswer, Coh.dropTrk, Coh.pointOf, hsrc, hposted, hk, hmsg, Coh.emit, Coh.woken]

theorem fdata_answers {h : FabHdr} (htrk : k.rtrk = h.rtrk) (huse : k.use = .dev) (hposted : k.req.posted = false) (cl : CodeLine)
    (g : BitVec 2) (uo a i : Bool) : Does (.fdata h cl g uo a i 0) s (fun t => t.coh.outTrks = [] ∧
      ∃ nb, Sends s t [.agent p { partMsg k.req cl with nb := nb }]) := by
  have hof : s.coh.trkOf h.rtrk = some k := by simp [Coh.trkOf, hk, htrk]
  have hop : opFdata h cl g uo a i 0 s = s.runCoh (fun c => (c.devAnswer k (some cl) 0).woken) := by
    unfold opFdata
    rw [hof]
    dsimp only
    rw [if_pos huse]
    rfl
  refine Does.of_devAnswer hdead hret hfx hquiet hacc hend hstill hclear
    (m := partMsg k.req cl) (congrArg (fun t : State => Host.Outcome.next t.frontAll) hop) ?_ rfl rfl
  simp [Coh.devAnswer, Coh.dropTrk, Coh.pointOf, hsrc, hposted, hk, htrk, Coh.emit, Coh.woken]

end

/-! ### The obligation -/

section
variable {s : State} {h : FabHdr} {x : HomeTx} (hdead : s.deadNodes = []) (hret : s.coh.retiring = [])
  (hquiet : ({ s.coh with homeTx := [] } : Coh).quiet = true) (hx : s.coh.homeTx = [x]) (hl : x.line = h.line) (hsound : Sound s h.line)
include hdead hret hquiet hx hl hsound

theorem finvack_enters (hsnoop : x.snooping = true) (hsrc : h.src ∈ x.invs) : Does (.finvack h) s (fun t => ∃ y, t.coh.homeTx = [y] ∧
    y.invs = x.invs.filter (fun n => n != h.src) ∧ y.recalls = x.recalls) := by
  refine Does.of_homeRun (f := fun c => ((c.readRow s h.line).recvInvAck s h).woken)
    (y := { x with invs := x.invs.filter (fun n => n != h.src) }) (w := true) (fx := s.coh.fx) rfl ?_ hquiet hret hdead hsnoop
    (fun t ht => ⟨_, ht, rfl, rfl⟩)
  rw [Coh.readRow_of_sound hsound, Coh.recvInvAck_one hx hl hsrc]
  rfl

theorem frecallack_enters (hsnoop : x.snooping = true) (n : BitVec 12) (hsrc : h.src ∈ x.recalls) : Does (.frecallack h n) s (fun t =>
    ∃ y, t.coh.homeTx = [y] ∧ y.recalls = x.recalls.filter (fun n => n != h.src) ∧ y.early = x.early.filter (fun n => n != h.src) ∧
      y.due = (if n = 0 ∨ h.src ∈ x.early then x.due else x.due ++ [h.src])) := by
  obtain ⟨-, -, -, -, h5, -⟩ := Coh.quiet_lists hquiet
  have hset : s.coh.isSetRecall h = false := by
    unfold Coh.isSetRecall
    rw [show s.coh.setRecalls = [] from h5]
    rfl
  have hzero : n.toNat = 0 ↔ n = 0 := by simp [← BitVec.toNat_inj]
  refine Does.of_homeRun (f := fun c =>
      ((if (c.readRow s h.line).isSetRecall h then (c.readRow s h.line).setRecallAck h.htrk h.src n.toNat
        else (c.readRow s h.line).recvRecallAck s h n.toNat)).woken)
    (y := { x with
      recalls := x.recalls.filter (fun n => n != h.src)
      due := if n.toNat = 0 ∨ h.src ∈ x.early then x.due else x.due ++ [h.src]
      early := x.early.filter (fun n => n != h.src) }) (w := true) (fx := s.coh.fx) rfl ?_ hquiet hret hdead hsnoop
    (fun t ht => ⟨_, ht, rfl, rfl, ?_⟩)
  · rw [Coh.readRow_of_sound hsound, hset, if_neg Bool.false_ne_true, Coh.recvRecallAck_one hx hl hsrc]
    rfl
  · unfold HomeTx.stamped
    dsimp only
    rw [if_congr (or_congr_left hzero) rfl rfl]

theorem frecalldata_enters (hsnoop : x.snooping = true) (cl : CodeLine) (hts : x.ts = .ha) (hsrc : h.src ∈ x.recalls) (hdue : h.src ∉ x.due)
    (hearly : h.src ∉ x.early) (htaken : h.src ∉ x.taken) : Does (.frecalldata h cl) s (fun t => ∃ y, t.coh.homeTx = [y] ∧
      y.early = x.early ++ [h.src] ∧ y.due = x.due ∧ y.data = some (s.coh.arrive h.line cl).1 ∧ y.dirty = true) := by
  obtain ⟨-, -, -, -, h5, -⟩ := Coh.quiet_lists hquiet
  have hset : s.coh.isSetRecall h = false := by
    unfold Coh.isSetRecall
    rw [show s.coh.setRecalls = [] from h5]
    rfl
  obtain ⟨fx, hrecv⟩ := Coh.recvRecallData_early hx hl hts hsrc hdue hearly htaken s cl
  refine Does.of_homeRun (f := fun c =>
      ((if (c.readRow s h.line).isSetRecall h then (c.readRow s h.line).setRecallData h.htrk h.src h.line cl
        else (c.readRow s h.line).recvRecallData s h cl)).woken)
    (y := { x with taken := x.taken ++ [h.src], data := some (s.coh.arrive h.line cl).1, dirty := true, early := x.early ++ [h.src] })
    (w := true) (fx := fx) rfl ?_ hquiet hret hdead hsnoop (fun t ht => ⟨_, ht, rfl, rfl, rfl, rfl⟩)
  rw [Coh.readRow_of_sound hsound, hset, if_neg Bool.false_ne_true, hrecv]
  rfl

theorem ffwdmiss_enters (hsnoop : x.snooping = true) (hts : x.ts = .hf) (hfwd : x.fwdTo = some h.src) (hmiss : x.missed = false) :
    Does (.ffwdmiss h) s (fun t => ∃ y, t.coh.homeTx = [y] ∧ y.missed = true) := by
  obtain ⟨fx, hrecv⟩ := Coh.recvFwdMiss_one hx hl hts hfwd hmiss s
  refine Does.of_homeRun (f := fun c => ((c.readRow s h.line).recvFwdMiss s h).woken) (y := { x with missed := true }) (w := true) (fx := fx)
    rfl ?_ hquiet hret hdead hsnoop (fun t ht => ⟨_, ht, rfl⟩)
  rw [Coh.readRow_of_sound hsound, hrecv]
  rfl

theorem fcmpack_ends (hts : x.ts = .hc) (hnode : reqNodeId s x.req = h.src) (hrem : x.req.remote = true) :
    Does (.fcmpack h) s (fun t => t.coh.homeTx = []) := by
  obtain ⟨h1, h2, h3, -, h5, h6, h7, -, -, h10, h11⟩ := Coh.quiet_lists hquiet
  have hrun : ((s.coh.readRow s h.line).recvCmpAck s h).woken = { s.coh with homeTx := [], wake := true } := by
    rw [Coh.readRow_of_sound hsound, Coh.recvCmpAck_one hx hl hts hnode hrem]
    rfl
  exact Does.of_run (f := fun c => ((c.readRow s h.line).recvCmpAck s h).woken) rfl hrun ⟨h1, h2, rfl, h5, h6, h7, h10, h11⟩ h3 hret hdead
    (fun t ht _ => congrArg Coh.homeTx ht)

end

/-- Settles O22. -/
theorem fabricAnswersAreTaken : Obligations.FabricAnswersAreTaken := by
  unfold Obligations.FabricAnswersAreTaken
  refine ⟨fun s h x hdead hret hfx hq hx hl hsound => ⟨fun hsnoop hsrc => ?_, fun n hsnoop hsrc => ?_,
    fun cl hsnoop hts hsrc hdue hearly htaken => ?_, fun hsnoop hts hfwd hmiss => ?_, fun hts hnode hrem => ?_⟩,
    fun s h hdead hret hfx hsound => ⟨fun x hq hx hl hts hkeep hmnt hpress => ?_,
      fun x y k p hq hx hy hk hl hts htrk hyl hsrc hslot hjoin => ?_,
      fun k p hq hk htrk huse hsrc hposted hacc hend hstill hclear => ⟨fun g stat v m => ?_, fun cl g uo a i => ?_⟩⟩⟩
  · exact finvack_enters hdead hret hq hx hl hsound hsnoop hsrc
  · exact frecallack_enters hdead hret hq hx hl hsound hsnoop n hsrc
  · exact frecalldata_enters hdead hret hq hx hl hsound hsnoop cl hts hsrc hdue hearly htaken
  · exact ffwdmiss_enters hdead hret hq hx hl hsound hsnoop hts hfwd hmiss
  · exact fcmpack_ends hdead hret hq hx hl hsound hts hnode hrem
  · exact fwback_ends hdead hret hsound hq hx hl hts hkeep hmnt hpress
  · exact fdecl_ends hdead hret hsound hq hx hy hk hl hts htrk hyl hsrc hslot hjoin
  · exact fcmp_answers hdead hret hfx hq hk hsrc hacc hend hstill hclear htrk huse hposted g stat v m
  · exact fdata_answers hdead hret hfx hq hk hsrc hacc hend hstill hclear htrk huse hposted cl g uo a i

end Sys2Proof.Machine
end

section
/-! PROOFS. A request that arrives at an idle slice for a line that nothing holds (R102, R105). -/

namespace Sys2Proof.Machine
open Sys2Proof

/-! ### What a pass checks first does not depend on the order of arrival -/

/-- The engine with another number for the next request. -/
def Coh.numbered (c : Coh) (n : Nat) : Coh := { c with nextOrder := n }

section
variable (c : Coh) (n : Nat)

theorem Coh.lostTag_numbered (k : Nat) (raw : BitVec 40) : (c.numbered n).lostTag k raw = (c.lostTag k raw).numbered n := rfl

theorem Coh.storeCorrected_numbered (k : Nat) (old new : TagEntry) :
    (c.numbered n).storeCorrected k old new = (c.storeCorrected k old new).numbered n := by
  unfold Coh.storeCorrected
  split <;> rfl

theorem Coh.fixPp_numbered (a b : Nat) : (c.numbered n).fixPp a b = (c.fixPp a b).numbered n := by
  have hrow : ∀ k, (c.numbered n).ppRow k = c.ppRow k := fun _ => rfl
  have htag : ∀ k, (c.numbered n).tag k = c.tag k := fun _ => rfl
  unfold Coh.fixPp
  dsimp only
  rw [hrow, htag, htag]
  split <;> rfl

theorem Coh.checkPair_numbered (a b : Nat) : (c.numbered n).checkPair a b = (c.checkPair a b).numbered n := by
  have hrow : (c.numbered n).ppRow a = c.ppRow a := rfl
  have htag : ∀ k, (c.numbered n).tag k = c.tag k := fun _ => rfl
  have hif : ∀ (p : Prop) [Decidable p] (x y : Coh), (if p then x else y).numbered n = if p then x.numbered n else y.numbered n :=
    fun p _ x y => apply_ite (fun c : Coh => c.numbered n) p x y
  unfold Coh.checkPair
  dsimp only
  rw [hrow, htag, htag]
  split
  · split
    · rw [Coh.fixPp_numbered]
      rfl
    · rfl
  · split <;> simp only [← Coh.fixPp_numbered, hif, ← Coh.storeCorrected_numbered, ← Coh.lostTag_numbered]

theorem Coh.foldl_numbered {α : Type} {f : Coh → α → Coh} (hf : ∀ c a, f (Coh.numbered c n) a = (f c a).numbered n) (l : List α) :
    l.foldl f (c.numbered n) = (l.foldl f c).numbered n :=
  (List.foldl_hom (fun c : Coh => c.numbered n) hf)

theorem Coh.checkRow_numbered (s set : Nat) : (c.numbered n).checkRow s set = (c.checkRow s set).numbered n :=
  Coh.foldl_numbered c n (fun c _ => c.checkPair_numbered n _ _) _

theorem Coh.purgeStart_numbered (e : State) (s set : Nat) : (c.numbered n).purgeStart e s set = (c.purgeStart e s set).numbered n := by
  unfold Coh.purgeStart
  exact Coh.foldl_numbered { c with
    lockedSnf := addSet c.lockedSnf (s * 512 + set)
    flows := c.flows ++ [{ id := c.nextFlow, line := BitVec.ofNat 45 (s + 32 * set), kind := .purge (Fin.ofNat 32 s) set,
                           await := ((fins 6).filter (fun p => e.caching p && !e.dead p)).length }]
    nextFlow := c.nextFlow + 1
    wake := true } n (fun _ _ => rfl) _

theorem Coh.recallSetStart_numbered (e : State) (s set : Nat) :
    (c.numbered n).recallSetStart e s set = (c.recallSetStart e s set).numbered n := by
  have hkeep : ∀ (ns : List NodeId) (ht : BitVec 11) (d : Coh),
      ns.foldl (fun c n => c.sendNode e { opc := fRecallSet, dst := n.toNat, line := BitVec.ofNat 45 (s + 32 * set), htrk := ht.toNat } .none)
        (d.numbered n) =
      (ns.foldl (fun c n => c.sendNode e { opc := fRecallSet, dst := n.toNat, line := BitVec.ofNat 45 (s + 32 * set), htrk := ht.toNat } .none)
        d).numbered n := fun ns _ d => d.foldl_numbered n (fun _ _ => rfl) ns
  unfold Coh.recallSetStart
  dsimp only
  generalize ((List.range 512).filter (fun n => e.inFabric n && n != e.node && !e.deadNodes.contains n)).map (BitVec.ofNat 9) = ns
  exact hkeep ns c.freeHtrk { c with
    lockedDir := addSet c.lockedDir (s * 2048 + set)
    setRecalls := c.setRecalls ++ [{ slice := Fin.ofNat 32 s, set := set, await := ns, htrk := c.freeHtrk }]
    wake := true }

theorem Coh.checkSets_numbered (e : State) (l : LineAddr) : (c.numbered n).checkSets e l = (c.checkSets e l).numbered n := by
  have hsnf : (c.numbered n).snfAt = c.snfAt := rfl
  have hdir : ∀ c : Coh, (c.numbered n).dirAt = c.dirAt := fun _ => rfl
  have hlockS : (c.numbered n).lockedSnf = c.lockedSnf := rfl
  have hlockD : ∀ c : Coh, (c.numbered n).lockedDir = c.lockedDir := fun _ => rfl
  unfold Coh.checkSets
  dsimp only
  rw [hsnf, hlockS, Coh.purgeStart_numbered, ← apply_ite (fun c : Coh => c.numbered n), hdir, hlockD, Coh.recallSetStart_numbered,
    ← apply_ite (fun c : Coh => c.numbered n)]

theorem Coh.readRow_numbered (e : State) (l : LineAddr) : (c.numbered n).readRow e l = (c.readRow e l).numbered n := by
  unfold Coh.readRow
  rw [Coh.checkRow_numbered, Coh.checkSets_numbered]

end

/-! ### The pass of an agent's request -/

/-- Nothing at the slice holds back a request for the line: no other request waits or is in service, no holder has the line, and a
pass for it finds nothing to mend. -/
structure Coh.Open (c : Coh) (e : State) (l : LineAddr) : Prop where
  row : c.readRow e l = c
  blocked : c.blocked l = false
  press : c.pressOf l = none
  wait : c.wait = []
  txns : c.txns = []
  trks : c.outTrks = []

/-- What serves an agent's request that nothing holds back. -/
def Coh.passAgent (c : Coh) (e : State) (r : Req) (p : Port) : Coh :=
  match r.op with
  | .store => c.passStore e r
  | .wrB => c.passWrB e r p
  | .evC => c.passEvC e r p
  | _ => c.passLocal e r

theorem Coh.setLocked_of_blocked {c : Coh} {l : LineAddr} (h : c.blocked l = false) : c.setLocked l = false := by
  simp only [Coh.blocked, Bool.or_eq_false_iff] at h
  exact h.2

theorem Coh.txnOf_nil {c : Coh} (h : c.txns = []) (l : LineAddr) : c.txnOf l = none := by
  rw [Coh.txnOf, h]
  rfl

theorem Coh.pass_open {c : Coh} {e : State} {r : Req} {p : Port} (h : c.Open e r.line) (hsrc : r.src = .agent p)
    (hop : r.op = .store ∨ r.op = .wrB ∨ r.op = .evC ∨ r.op = .rdC) : c.pass e r = c.passAgent e r p := by
  obtain ⟨hrow, hblocked, hpress, hwait, htxns, htrks⟩ := h
  have hset := Coh.setLocked_of_blocked hblocked
  have hremote : r.remote = false := by rw [Req.remote, hsrc]
  have hfar : c.farBefore r = false := by
    rw [Coh.farBefore, hsrc, htrks]
    rfl
  unfold Coh.pass Coh.passAgent
  dsimp only
  rw [hrow]
  rcases hop with hop | hop | hop | hop <;>
    simp [hset, hop, hsrc, hfar, hremote, hpress, hwait, hblocked, Coh.txnOf_nil htxns]

/-! ### What a pass notes -/

/-- From `c` to `d` the engine has gathered effects that send nothing at a port, and nothing else has changed. -/
def Coh.Notes (p : Port) (c d : Coh) : Prop := ∃ fx, (∀ x ∈ fx, x.Hushed p) ∧ d = { c with fx := c.fx ++ fx }

section
variable {p : Port}

theorem Coh.Notes.refl (c : Coh) : Coh.Notes p c c := ⟨[], by simp, by rw [List.append_nil]⟩

theorem Coh.Notes.trans {c d u : Coh} (h : Coh.Notes p c d) (h' : Coh.Notes p d u) : Coh.Notes p c u := by
  obtain ⟨fx, hfx, rfl⟩ := h
  obtain ⟨fx', hfx', rfl⟩ := h'
  refine ⟨fx ++ fx', fun x hx => ?_, by simp⟩
  rcases List.mem_append.mp hx with hx | hx
  · exact hfx x hx
  · exact hfx' x hx

theorem Coh.notes_emit (c : Coh) {x : Fx} (hx : x.Hushed p) : Coh.Notes p c (c.emit x) := ⟨[x], List.forall_mem_singleton.mpr hx, rfl⟩
theorem Coh.notes_sctr (c : Coh) (s i n : Nat) : Coh.Notes p c (c.sctr s i n) := c.sctr_hushed s i n

theorem Coh.notes_noteRow (c : Coh) (r : Req) (fabric slow : Bool) (ch : Option Nat) : Coh.Notes p c (c.noteRow r fabric slow ch) := by
  unfold Coh.noteRow
  split
  · split
    · exact (c.notes_emit (hushed_row _ _ _ _)).trans (Coh.notes_emit _ (hushed_passed _ _ _))
    · exact c.notes_emit (hushed_passed _ _ _)
  · exact c.notes_emit (hushed_passed _ _ _)
  · exact .refl c

theorem Coh.notes_noteStore (c : Coh) (r : Req) (away fabric : Bool) : Coh.Notes p c (c.noteStore r away fabric) := by
  unfold Coh.noteStore
  have hrow : Coh.Notes p c (match r.promiseId with | some i => c.emit (.row i (if away then 6 else 2) (lineHome r.line) none) | none => c) := by
    split
    · exact c.notes_emit (hushed_row _ _ _ _)
    · exact .refl c
  dsimp only
  split
  · exact hrow.trans (Coh.notes_emit _ (hushed_passed _ _ _))
  · exact hrow.trans (Coh.notes_emit _ (hushed_passed _ _ _))
  · exact hrow

theorem Coh.notes_pointOf (c : Coh) (r : Req) : Coh.Notes p c (c.pointOf r) := by
  unfold Coh.pointOf
  split
  · exact c.notes_emit (hushed_point _ _)
  · exact c.notes_emit (hushed_point _ _)
  · exact .refl c

end

/-! ### Requests that are answered on their pass -/

/-- What the effects send does not depend on the engine's state. -/
theorem sends_beside_coh {s : State} {p : Port} {m : AgentMsg} {l l' : List Fx} (hl : ∀ x ∈ l, x.Hushed p) (hl' : ∀ x ∈ l', x.Hushed p)
    (hacc : s.accepts p = true) (hclear : Clear s (.port p)) (hend : s.tagEnded p m.tag = false) (hresp : m.isResponse = true) (c : Coh) :
    ∃ nb, Sends s ((l ++ .respond p m :: l').foldl applyFx { s with coh := c }) [.agent p { m with nb := nb }] := by
  obtain ⟨u, hu⟩ : ∃ u : State, u = { s with coh := c } := ⟨_, rfl⟩
  have hacc' : u.accepts p = true := by rw [hu]; exact hacc
  have hclear' : Clear u (.port p) := by rw [hu]; exact hclear
  have hend' : u.tagEnded p m.tag = false := by rw [hu]; exact hend
  have hsent : u.sent = s.sent := by rw [hu]
  obtain ⟨nb, hsends⟩ := sends_of_effects hl hl' hacc' hclear' hend' hresp
  rw [← hu]
  exact ⟨nb, hsends.trans (congrArg (fun l => l.filter (fun x => !isBeat x) ++ _) hsent)⟩

section
variable {s : State} {r : Req} {p : Port} (hidle : Idle s) (hwake : s.coh.wake = false) (hsrc : r.src = .agent p) (hsound : Sound s r.line)
  (hblocked : s.coh.blocked r.line = false) (hpress : s.coh.pressOf r.line = none)
include hidle hwake hsrc hsound hblocked hpress

/-- A request that arrives is passed at once, numbered. -/
theorem settle_arriveReq (hop : r.op = .store ∨ r.op = .wrB ∨ r.op = .evC ∨ r.op = .rdC) :
    Coh.settle s settleRounds (s.coh.arriveReq s r) =
      Coh.settle s 7 ((s.coh.numbered (s.coh.nextOrder + 1)).passAgent s { r with order := s.coh.nextOrder } p) := by
  obtain ⟨hquiet, -, -, hdead⟩ := hidle
  obtain ⟨hwait, htxns, -, -, -, -, -, -, htrks, -, -⟩ := Coh.quiet_lists hquiet
  have harriving : s.coh.arriving s r = s.coh.numbered (s.coh.nextOrder + 1) := by
    have hatm : ¬ (r.op = .atm ∧ s.isHome r.line = true) := by
      rintro ⟨h, -⟩
      rcases hop with h' | h' | h' | h' <;> rw [h] at h' <;> cases h'
    unfold Coh.arriving Coh.numbered
    rw [if_neg hatm]
    generalize s.coh = c at hwake
    cases c
    cases hwake
    rfl
  have hopen : (s.coh.numbered (s.coh.nextOrder + 1)).Open s r.line :=
    { row := by rw [Coh.readRow_numbered, Coh.readRow_of_sound hsound]
      blocked := hblocked
      press := hpress
      wait := hwait
      txns := htxns
      trks := htrks }
  rw [settleRounds, Coh.settle_arrive s 7 s.coh r hquiet hdead, harriving]
  rw [Coh.pass_open (r := { r with order := s.coh.nextOrder }) hopen hsrc hop]

/-- A request whose pass only answers it, notes what it did and may enter the Press: the answer goes out, and the Press holds what
the pass entered. -/
theorem arriveReq_answers (hop : r.op = .store ∨ r.op = .wrB ∨ r.op = .evC ∨ r.op = .rdC) (hclear : Clear s (.port p))
    (hacc : s.accepts p = true) {m : AgentMsg} (hend : s.tagEnded p m.tag = false) (hresp : m.isResponse = true)
    {l l' : List Fx} {press : List PressEntry} (hl : ∀ x ∈ l, x.Hushed p) (hl' : ∀ x ∈ l', x.Hushed p)
    (hpass : (s.coh.numbered (s.coh.nextOrder + 1)).passAgent s { r with order := s.coh.nextOrder } p =
      { s.coh with nextOrder := s.coh.nextOrder + 1, press := press, fx := l ++ .respond p m :: l' }) :
    (∃ nb, Sends s (s.arriveReq r) [.agent p { m with nb := nb }]) ∧ (s.arriveReq r).coh.press = press := by
  have hsettle := settle_arriveReq hidle hwake hsrc hsound hblocked hpress hop
  obtain ⟨d, hd⟩ : ∃ d : Coh, d = { s.coh with nextOrder := s.coh.nextOrder + 1, press := press, fx := l ++ .respond p m :: l' } := ⟨_, rfl⟩
  rw [hpass, ← hd, Coh.settle_asleep s 7 d ((congrArg Coh.wake hd).trans hwake)] at hsettle
  have hret : d.retiring = [] := (congrArg Coh.retiring hd).trans hidle.2.1
  have hrun := State.runCoh_eq_foldl (s := s) (f := fun c => c.arriveReq s r) hsettle hret
  have hcoh := State.coh_runCoh_of_settle (s := s) (f := fun c => c.arriveReq s r) hsettle hret
  have hfx : d.fx = l ++ .respond p m :: l' := congrArg Coh.fx hd
  have hpressd : d.press = press := congrArg Coh.press hd
  rw [hfx] at hrun
  unfold State.arriveReq
  rw [hcoh, hrun]
  exact ⟨sends_beside_coh hl hl' hacc hclear hend hresp _, hpressd⟩

theorem arriveReq_retires (hop : r.op = .wrB ∨ r.op = .evC) (hsnf : s.coh.snfOf r.line = none) (hclear : Clear s (.port p))
    (hacc : s.accepts p = true) (hend : s.tagEnded p r.tag = false) :
    ∃ nb, Sends s (s.arriveReq r) [.agent p { ({ opc := opWbCmp, tag := r.tag } : AgentMsg) with nb := nb }] := by
  obtain ⟨hquiet, -, hfx, -⟩ := id hidle
  obtain ⟨-, htxns, -⟩ := Coh.quiet_lists hquiet
  obtain ⟨c, hc⟩ : ∃ c, c = s.coh.numbered (s.coh.nextOrder + 1) := ⟨_, rfl⟩
  obtain ⟨q, hq⟩ : ∃ q : Req, q = { r with order := s.coh.nextOrder } := ⟨_, rfl⟩
  have hnotes : ∃ d, Coh.Notes p c d ∧ c.passAgent s q p = d.emit (.respond p { opc := opWbCmp, tag := r.tag }) := by
    have hsnf' : c.snfOf q.line = none := by rw [hc, hq]; exact hsnf
    have htxn : c.txnOf q.line = none := Coh.txnOf_nil (by rw [hc]; exact htxns) _
    have hqop : q.op = r.op := by rw [hq]
    have hqtag : q.tag = r.tag := by rw [hq]
    unfold Coh.passAgent
    rcases hop with hop | hop
    · rw [hqop, hop]
      refine ⟨_, ((c.notes_noteRow q false false none).trans (Coh.notes_sctr _ (sliceOf q.line) 0x35 1)).trans (Coh.notes_pointOf _ q), ?_⟩
      simp only [Coh.passWrB, htxn, hsnf', hqtag]
      rfl
    · rw [hqop, hop]
      refine ⟨_, (c.notes_noteRow q false false none).trans (Coh.notes_pointOf _ q), ?_⟩
      simp only [Coh.passEvC, hsnf', hqtag]
  obtain ⟨d, ⟨fx, hhush, hd⟩, hpass⟩ := hnotes
  have hcfx : c.fx = [] := by rw [hc]; exact hfx
  rw [hc, hq] at hpass
  refine (arriveReq_answers hidle hwake hsrc hsound hblocked hpress (by tauto) hclear hacc hend rfl (l := fx) (l' := []) (press := s.coh.press) hhush
    (by simp) ?_).1
  rw [hpass, hd, hcfx, hc]
  rfl

end

/-! ### A store that enters the Press -/

/-- The entry that a store of a line held exclusive makes: its bytes are the line's at once (R127). -/
def Req.pressEntry (r : Req) (e : State) : PressEntry :=
  { line := r.line, cl := mergePress 0 r.cl r.mask, mask := r.mask, policy := e.policy r.line, port := r.src, cls := r.cls, born := e.fine,
    st := .owned, diverted := r.divert, hint := if r.op = ReqOp.wrH then some r.tgt else none }

theorem Coh.newPress_owned {c : Coh} {e : State} {r : Req} {p : Port} {k : Nat} (hsrc : r.src = .agent p) (hposted : r.posted = false)
    (hpolicy : e.policy r.line = pWBA) (hhome : e.isHome r.line = true) (hhit : c.hitSlot e r.line = some k) (hst : (c.tag k).st = tE)
    (hsnf : c.snfOf r.line = none) (hdir : c.dirOf r.line = none) : ∃ l, (∀ x ∈ l, x.Hushed p) ∧ c.newPress e r = { c with
      press := c.press ++ [r.pressEntry e]
      fx := c.fx ++ l ++ [.respond p (cmpMsg r.tag 0 0), .point p r.point] } := by
  have hstate : c.nodeState e r.line = tE := by
    unfold Coh.nodeState
    rw [hhit]
    exact hst
  obtain ⟨d, hd⟩ : ∃ d : Coh, d = { c with press := c.press ++ [r.pressEntry e] } := ⟨_, rfl⟩
  obtain ⟨l, hl, hnotes⟩ := ((d.notes_sctr (p := p) (sliceOf r.line) 0x10 1).trans (Coh.notes_sctr _ (sliceOf r.line) 0x14 r.divert.toNat)).trans
    (Coh.notes_noteStore _ r false false)
  refine ⟨l, hl, ?_⟩
  have hdev : (pWBA == pDEV) = false := rfl
  have hrun : c.newPress e r =
      ((((d.sctr (sliceOf r.line) 0x10).sctr (sliceOf r.line) 0x14 r.divert.toNat).noteStore r false false).storeDone r).pointOf
      r := by
    rw [hd]
    unfold Coh.newPress Req.pressEntry
    simp only [hstate, hhit, hsnf, hdir, PressEntry.homeWrite, PressEntry.homeAcked, hhome, Coh.devEarlier, hpolicy, hdev, Bool.not_false,
      Bool.not_true, Bool.false_and, Bool.and_false, Bool.and_true, Bool.false_or, Bool.true_or, Option.isSome_some,
      Option.isNone_none, beq_self_eq_true, Bool.false_eq_true, if_true, if_false, bne, Bool.or_true]
  rw [hrun, hnotes, Coh.storeDone, hsrc]
  dsimp only
  rw [hposted, Coh.pointOf, hsrc, hd]
  simp only [Bool.false_eq_true, if_false, Coh.emit, List.append_assoc]
  rfl

theorem arriveReq_store {s : State} {r : Req} {p : Port} {k : Nat} (hidle : Idle s) (hwake : s.coh.wake = false) (hsrc : r.src = .agent p)
    (hsound : Sound s r.line) (hblocked : s.coh.blocked r.line = false) (hpress : s.coh.pressOf r.line = none) (hposted : r.posted = false)
    (hclear : Clear s (.port p)) (hacc : s.accepts p = true) (hend : s.tagEnded p r.tag = false) (hop : r.op = .store) (hmask : r.mask ≠ 0)
    (hroom : (s.coh.pressIn (sliceOf r.line).val).length < 32) (hpolicy : s.policy r.line = pWBA) (hhome : s.isHome r.line = true)
    (hhit : s.coh.hitSlot s r.line = some k) (hst : (s.coh.tag k).st = tE) (hsnf : s.coh.snfOf r.line = none) (hdir : s.coh.dirOf r.line = none) :
    (∃ nb, Sends s (s.arriveReq r) [.agent p { ({ opc := opCmp, tag := r.tag } : AgentMsg) with nb := nb }]) ∧
      (s.arriveReq r).coh.press = s.coh.press ++ [r.pressEntry s] := by
  obtain ⟨-, -, hfx, -⟩ := id hidle
  obtain ⟨c, hc⟩ : ∃ c, c = s.coh.numbered (s.coh.nextOrder + 1) := ⟨_, rfl⟩
  obtain ⟨q, hq⟩ : ∃ q : Req, q = { r with order := s.coh.nextOrder } := ⟨_, rfl⟩
  have hline : q.line = r.line := by rw [hq]
  have hcfx : c.fx = [] := by rw [hc]; exact hfx
  have hnew : ∃ l, (∀ x ∈ l, x.Hushed p) ∧ c.newPress s q = { c with
      press := c.press ++ [q.pressEntry s]
      fx := c.fx ++ l ++ [.respond p (cmpMsg q.tag 0 0), .point p q.point] } := by
    refine Coh.newPress_owned (k := k) ?_ ?_ ?_ ?_ ?_ ?_ ?_ ?_ <;> subst hq <;> subst hc
    exacts [hsrc, hposted, hpolicy, hhome, hhit, hst, hsnf, hdir]
  obtain ⟨l, hl, hnew⟩ := hnew
  have hpass : c.passAgent s q p = c.newPress s q := by
    have hqop : q.op = .store := by rw [hq]; exact hop
    have hqmask : q.mask ≠ 0 := by rw [hq]; exact hmask
    have hqpress : c.pressOf q.line = none := by rw [hline, hc]; exact hpress
    have hqroom : ¬ 32 ≤ (c.pressIn (sliceOf q.line).val).length := by
      rw [hline, hc]
      exact Nat.not_le.mpr hroom
    unfold Coh.passAgent
    rw [hqop]
    dsimp only
    unfold Coh.passStore
    rw [if_neg hqmask, hqpress]
    exact if_neg hqroom
  rw [hnew, hcfx, List.nil_append, hc, hq] at hpass
  exact arriveReq_answers hidle hwake hsrc hsound hblocked hpress (.inl hop) hclear hacc (m := { opc := opCmp, tag := r.tag }) hend rfl
    (l := l) (l' := [.point p r.point]) hl (List.forall_mem_singleton.mpr (hushed_point _ _)) hpass

/-! ### A read of a line in the cache -/

section
variable {c : Coh} {e : State} {t : Txn} {k : Nat} (hop : t.req.op = .rdC)
include hop

/-- Its stages: the node holds what the read needs, no agent is to be snooped, and the line is in a slot. -/
theorem Coh.stage_permit (htx : c.txns = [t]) (hhome : e.isHome t.req.line = true) (hhit : c.hitSlot e t.req.line = some k)
    (hdir : c.dirOf t.req.line = none) (hperm : t.permitted = false) :
    c.stage e t = { c with txns := [{ t with permitted := true }], wake := true } := by
  have habsent : c.absent e t.req.line = false := by simp [Coh.absent, hhit]
  have hpermits : c.permits e t.req = true := by simp [Coh.permits, hhome, hdir]
  have hatm : (ReqOp.rdC == ReqOp.atm) = false := rfl
  have hset := Coh.setTxn_one htx rfl (fun t => { t with permitted := true })
  unfold Coh.stage
  simp only [Req.farAtomic, hop, hatm, hperm, habsent, hpermits, hset, Bool.false_and, Bool.and_false, Bool.false_eq_true, if_false,
    Bool.not_false, if_true, reduceCtorEq, decide_false, Bool.and_true]
  rfl

theorem Coh.stage_snoop (htx : c.txns = [t]) (hsnf : c.snfOf t.req.line = none) (hperm : t.permitted = true) (hsnp : t.snooped = false)
    (hsent : t.sentSnoops = false) : c.stage e t = { c with
      txns := [{ t with snooped := true, named := false, wasOwner := false, owOther := false, phase := .ready }]
      wake := true } := by
  have hplan : c.snoopPlan e t.req = [] := by simp [Coh.snoopPlan, hop, hsnf, ownerOnly]
  have hatm : (ReqOp.rdC == ReqOp.atm) = false := rfl
  unfold Coh.stage
  simp only [Req.farAtomic, hop, hatm, hperm, hsnp, hplan, hsnf, Coh.setTxn_one htx rfl, Bool.false_and, Bool.and_false, Bool.false_eq_true,
    if_false, Bool.not_false, Bool.not_true, if_true, List.isEmpty_nil, hsent, Bool.or_self]
  rfl

theorem Coh.stage_fetch (hhome : e.isHome t.req.line = true) (hhit : c.hitSlot e t.req.line = some k) (hperm : t.permitted = true)
    (hsnp : t.snooped = true)
    (hdata : t.data = none) :
    c.stage e t = (c.queueSlot e k t.req.line .serve t.req.queueCls t.req.allot).setTxn t.req.line (fun t => { t with phase := .cmi }) := by
  have hatm : (ReqOp.rdC == ReqOp.atm) = false := rfl
  have hneeds : ∀ full, t.needsLine true full = true := fun full => by simp [Txn.needsLine, hop]
  have hfetch : c.fetchLine e t =
      (c.queueSlot e k t.req.line .serve t.req.queueCls t.req.allot).setTxn t.req.line (fun t => { t with phase := .cmi }) := by
    unfold Coh.fetchLine
    dsimp only
    rw [hhit]
    cases c.anyHamper t.req.line <;> exact if_neg (by rw [hop]; decide)
  unfold Coh.stage
  simp only [Req.farAtomic, hop, hatm, hperm, hsnp, hdata, hhome, hneeds, hfetch, Bool.false_and, Bool.and_false, Bool.false_eq_true,
    if_false, Bool.not_true, if_true, Option.isNone_none, Bool.and_self, reduceCtorEq, decide_false]

end

theorem Coh.queueSlot_eq (c : Coh) (e : State) (k : Nat) (l : LineAddr) (cont : Cont) (cls : BitVec 2) (top : Bool) :
    ∃ rank fx, c.queueSlot e k l cont cls top = { c with
      cmiQ := vmod c.cmiQ (e.chan (slotSlice k)) (· ++ [{ key := k, line := l, cont := cont, cls := cls, top := top }])
      cmiRank := rank
      fx := fx } := by
  unfold Coh.queueSlot Coh.readBurst
  dsimp only
  split
  · rw [Coh.ctr_eq]
    exact ⟨_, _, rfl⟩
  · rw [Coh.ctr_eq, Coh.ctr_eq]
    exact ⟨_, _, rfl⟩

theorem Coh.advance_cmi {c : Coh} {e : State} {l : LineAddr} {t : Txn} (htx : c.txns = [t]) (hl : t.req.line = l) (hphase : t.phase = .cmi)
    (n : Nat) : Coh.advance e l (n + 1) c = c := by
  rw [Coh.advance, Coh.txnOf_one htx hl]
  dsimp only
  rw [hphase]

/-- The read of a line that stands in a slot queues its read of that slot, and waits for it. -/
theorem Coh.advance_read {c : Coh} {e : State} {x : Txn} {k : Nat} (htx : c.txns = [x]) (hop : x.req.op = .rdC)
    (hhome : e.isHome x.req.line = true) (hhit : c.hitSlot e x.req.line = some k) (hdir : c.dirOf x.req.line = none)
    (hsnf : c.snfOf x.req.line = none) (hphase : x.phase = .ready) (hperm : x.permitted = false) (hsnp : x.snooped = false)
    (hsent : x.sentSnoops = false) (hdata : x.data = none) : ∃ y rank fx, y.phase = .cmi ∧ y.req = x.req ∧ y.ackPending = x.ackPending ∧
      Coh.advance e x.req.line 8 c = { c with
        txns := [y]
        cmiQ := vmod c.cmiQ (e.chan (slotSlice k))
          (· ++ [{ key := k, line := x.req.line, cont := .serve, cls := x.req.queueCls, top := x.req.allot }])
        cmiRank := rank
        fx := fx
        wake := true } := by
  obtain ⟨c1, hc1⟩ : ∃ c1 : Coh, c1 = { c with txns := [{ x with permitted := true }], wake := true } := ⟨_, rfl⟩
  obtain ⟨c2, hc2⟩ : ∃ c2 : Coh, c2 = { c with
      txns := [{ x with permitted := true, snooped := true, named := false, wasOwner := false, owOther := false, phase := .ready }]
      wake := true } := ⟨_, rfl⟩
  have h1 : c.stage e x = c1 := by
    rw [hc1]
    exact Coh.stage_permit hop htx hhome hhit hdir hperm
  have h2 : c1.stage e { x with permitted := true } = c2 := by
    rw [hc1, hc2]
    exact Coh.stage_snoop (t := { x with permitted := true }) hop rfl hsnf rfl hsnp hsent
  obtain ⟨y, hy⟩ : ∃ y : Txn, y = { x with
      permitted := true, snooped := true, named := false, wasOwner := false, owOther := false, phase := .ready } := ⟨_, rfl⟩
  have hreq : y.req = x.req := by rw [hy]
  have h3 : c2.stage e y = (c2.queueSlot e k x.req.line .serve x.req.queueCls x.req.allot).setTxn x.req.line (fun t => { t with phase := .cmi }) := by
    rw [← hreq]
    refine Coh.stage_fetch (by rw [hreq]; exact hop) (by rw [hreq]; exact hhome) ?_ (by rw [hy]) (by rw [hy]) (by rw [hy]; exact hdata)
    rw [hreq, hc2]
    exact hhit
  obtain ⟨rank, fx, hqueue⟩ := c2.queueSlot_eq e k x.req.line .serve x.req.queueCls x.req.allot
  have htx2 : c2.txns = [y] := by rw [hc2, hy]
  have hphase2 : y.phase = .ready := by rw [hy]
  obtain ⟨c3, hc3⟩ : ∃ c3 : Coh, c3 = { c2 with
      cmiQ := vmod c2.cmiQ (e.chan (slotSlice k))
        (· ++ [{ key := k, line := x.req.line, cont := .serve, cls := x.req.queueCls, top := x.req.allot }])
      cmiRank := rank
      fx := fx } := ⟨_, rfl⟩
  have htx3 : c3.txns = [y] := by rw [hc3]; exact htx2
  rw [← hc3] at hqueue
  refine ⟨{ y with phase := .cmi }, rank, fx, rfl, hreq, by rw [hy], ?_⟩
  rw [Coh.advance_ready htx rfl hphase, h1, Coh.advance_ready (t := { x with permitted := true }) (by rw [hc1]) rfl hphase, h2,
    Coh.advance_ready htx2 (by rw [hreq]) hphase2, h3, hqueue, Coh.setTxn_one htx3 (by rw [hreq])]
  rw [Coh.advance_cmi (t := { y with phase := .cmi }) rfl (congrArg Req.line hreq) rfl, hc3, hc2]

/-- Its slice then sleeps until the slot's line comes. -/
theorem Coh.settle_read {c : Coh} {e : State} {x : Txn} {k : Nat} (htx : c.txns = [x]) (hserves : c.Serves) (hdead : e.deadNodes = [])
    (hwake : c.wake = true) (hop : x.req.op = .rdC) (hhome : e.isHome x.req.line = true) (hhit : c.hitSlot e x.req.line = some k)
    (hdir : c.dirOf x.req.line = none) (hsnf : c.snfOf x.req.line = none) (hphase : x.phase = .ready) (hperm : x.permitted = false)
    (hsnp : x.snooped = false) (hsent : x.sentSnoops = false) (hdata : x.data = none) (hack : x.ackPending = false) (n : Nat) :
    ∃ d, Coh.settle e (n + 2) c = d ∧ d.retiring = c.retiring ∧ d.cmiQ = vmod c.cmiQ (e.chan (slotSlice k))
      (· ++ [{ key := k, line := x.req.line, cont := .serve, cls := x.req.queueCls, top := x.req.allot }]) := by
  obtain ⟨h1, h4, h5, h6, h7, h10, h11⟩ := id hserves
  obtain ⟨c1, hc1⟩ : ∃ c1 : Coh, c1 = { c with wake := false, txns := [x] } := ⟨_, rfl⟩
  have hadv : ∃ y rank fx, y.phase = .cmi ∧ y.req = x.req ∧ y.ackPending = x.ackPending ∧ Coh.advance e x.req.line 8 c1 = { c1 with
        txns := [y]
        cmiQ := vmod c1.cmiQ (e.chan (slotSlice k))
          (· ++ [{ key := k, line := x.req.line, cont := .serve, cls := x.req.queueCls, top := x.req.allot }])
        cmiRank := rank
        fx := fx
        wake := true } := by
    refine Coh.advance_read (by rw [hc1]) hop hhome ?_ ?_ ?_ hphase hperm hsnp hsent hdata <;> rw [hc1]
    exacts [hhit, hdir, hsnf]
  obtain ⟨y, rank, fx, hycmi, hyreq, hyack, hadv⟩ := hadv
  obtain ⟨d, hd⟩ : ∃ d : Coh, d = { c1 with
        txns := [y]
        cmiQ := vmod c1.cmiQ (e.chan (slotSlice k))
          (· ++ [{ key := k, line := x.req.line, cont := .serve, cls := x.req.queueCls, top := x.req.allot }])
        cmiRank := rank
        fx := fx
        wake := true } := ⟨_, rfl⟩
  rw [← hd] at hadv
  have hwait : d.wait = [] := by rw [hd, hc1]; exact h1
  have hdtx : d.txns = [y] := by rw [hd]
  have hpass : ∀ d : Coh, d.wait = [] → Coh.passAll e d.wait.length d.wait { d with wait := [] } = d := fun d hwait => by
    rw [hwait]
    cases d
    cases hwait
    rfl
  have hround : c.round e = d := by
    rw [Coh.round_one htx hserves (by rw [hphase]; decide) hdead, Txn.acked_of_answered hack, ← hc1, hadv]
    exact hpass d hwait
  have hdserves : d.Serves := by
    rw [hd, hc1]
    exact ⟨h1, h4, h5, h6, h7, h10, h11⟩
  have hround2 : d.round e = { d with wake := false } := by
    have hsame : ({ d with wake := false, txns := [y] } : Coh) = { d with wake := false } := by rw [← hdtx]
    rw [Coh.round_one hdtx hdserves (by rw [hycmi]; decide) hdead, Txn.acked_of_answered (hyack.trans hack), hsame,
      Coh.advance_cmi (c := { d with wake := false }) hdtx rfl hycmi]
    exact hpass { d with wake := false } hwait
  refine ⟨{ d with wake := false }, ?_, ?_, ?_⟩
  · rw [Coh.settle, if_pos hwake, hround, Coh.settle, if_pos (by rw [hd]), hround2]
    exact Coh.settle_asleep _ _ _ rfl
  · rw [hd, hc1]
  · rw [hd, hc1]

/-- Two engines whose tags name the same lines in the same states. -/
def Coh.SameLines (c d : Coh) : Prop := ∀ k, (d.tag k).st = (c.tag k).st ∧ (d.tag k).tag = (c.tag k).tag

theorem Coh.hitSlot_congr {c d : Coh} (h : c.SameLines d) (e : State) (l : LineAddr) : d.hitSlot e l = c.hitSlot e l := by
  unfold Coh.hitSlot
  simp only [(h _).1, (h _).2]

/-- A demand sets AGE and PF of the slot that it hits, and nothing else of it. -/
theorem Coh.demandHit_eq {c : Coh} (hwf : Sparse.wf (fun _ => tagFree) c.tags = true) (e : State) (k : Nat) :
    ∃ fx tags pp, c.demandHit e k = { c with fx := fx, tags := tags, pp := pp } ∧ c.SameLines (c.demandHit e k) := by
  have hset : ∀ d : Coh, d.tags = c.tags → ∀ age, c.SameLines (d.setTag k (fun t => { t with age := age, pf := false })) := fun d hd age j => by
    unfold Coh.setTag
    dsimp only
    rw [Coh.tag_putTag (hd ▸ hwf), Coh.tag_congr hd, Coh.tag_congr hd]
    split
    · next h =>
      rw [← h]
      exact ⟨rfl, rfl⟩
    · exact ⟨rfl, rfl⟩
  unfold Coh.demandHit
  dsimp only
  split
  · obtain ⟨fx, hfx⟩ := c.sctr_eq (slotSlice k) 6 1
    rw [hfx]
    exact ⟨_, _, _, rfl, hset { c with fx := c.fx ++ fx ++ [.prefetchUse true] } rfl _⟩
  · exact ⟨_, _, _, rfl, hset c rfl _⟩

/-- The pass of a RdC whose line is in the cache puts it in service. -/
theorem Coh.passAgent_rdC {c : Coh} {e : State} {r : Req} {p : Port} {k : Nat} (hwf : Sparse.wf (fun _ => tagFree) c.tags = true)
    (hsrc : r.src = .agent p) (hop : r.op = .rdC) (htxns : c.txns = []) (hpress : c.pressOf r.line = none)
    (hhamper : c.hamperOf r.line = none) (hsnf : c.snfOf r.line = none) (hhit : c.hitSlot e r.line = some k) :
    ∃ tags pp fx, c.passAgent e r p = { c with
      tags := tags
      pp := pp
      fx := fx
      txns := [{ req := r, phase := .ready, snap := c.pressSnap r.line }]
      wake := true } ∧ (c.passAgent e r p).hitSlot e r.line = some k := by
  have hdemand : r.demand = true := by rw [Req.demand, hsrc]
  have hmeet : c.passLocal e r = c.enter e r := by
    unfold Coh.passLocal Coh.meetHamper
    dsimp only
    rw [hpress]
    dsimp only
    split
    · rfl
    · next h hany =>
      have hcopy : h.copy = true := by
        have hsome : c.anyHamper r.line = some h := by simpa [Req.farAtomic, hop] using hany
        have hnone := List.find?_eq_none.mp hhamper h (List.mem_of_find?_eq_some hsome)
        have hline := List.find?_some hsome
        simp only [hline, Bool.true_and, Bool.not_eq_true', Bool.not_eq_false] at hnone
        exact hnone
      rw [hop]
      simp [Coh.mayReclaim, hcopy]
  have henter : ∃ fabric slow, c.enter e r = ((c.noteRow r fabric slow (c.chain e r)).hitPass e r false).serve r := by
    have hbarred : c.barred r = false := by simp [Coh.barred, hsnf]
    have hplace : (r.op == ReqOp.atm && e.isHome r.line) = false := by rw [hop]; rfl
    unfold Coh.enter
    dsimp only
    rw [hbarred, hplace]
    exact ⟨_, _, rfl⟩
  obtain ⟨fabric, slow, henter⟩ := henter
  obtain ⟨fx, -, hnotes⟩ := (c.notes_noteRow (p := p) r fabric slow (c.chain e r)).trans (Coh.notes_sctr _ (sliceOf r.line) 0 1)
  obtain ⟨d, hd⟩ : ∃ d : Coh, d = { c with fx := c.fx ++ fx } := ⟨_, rfl⟩
  have hhitPass : (c.noteRow r fabric slow (c.chain e r)).hitPass e r false = d.demandHit e k := by
    have hhit' : (c.noteRow r fabric slow (c.chain e r)).hitSlot e r.line = some k := by
      obtain ⟨fx', -, h⟩ := c.notes_noteRow (p := p) r fabric slow (c.chain e r)
      rw [h]
      exact hhit
    unfold Coh.hitPass
    rw [hhit', hop, hdemand, hd, ← hnotes]
    rfl
  obtain ⟨fx', tags, pp, hdemandHit, hsame⟩ := Coh.demandHit_eq (c := d) (by rw [hd]; exact hwf) e k
  have hrun : c.passAgent e r p = (d.demandHit e k).serve r := by
    unfold Coh.passAgent
    rw [hop]
    exact hmeet.trans (henter.trans (congrArg (fun c : Coh => c.serve r) hhitPass))
  have hlines : c.SameLines (c.passAgent e r p) := fun j => by
    have hj := hsame j
    rw [hd] at hj
    rw [hrun, hd]
    exact hj
  refine ⟨tags, pp, fx', ?_, (Coh.hitSlot_congr hlines e r.line).trans hhit⟩
  rw [hrun, hdemandHit, hd]
  simp only [Coh.serve, htxns, List.nil_append]
  rfl

/-- The read of a line in the cache queues its read of the slot. -/
theorem arriveReq_rdC {s : State} {r : Req} {p : Port} {k : Nat} (hinv : Inv s) (hidle : Idle s) (hwake : s.coh.wake = false)
    (hsrc : r.src = .agent p) (hsound : Sound s r.line) (hblocked : s.coh.blocked r.line = false) (hpress : s.coh.pressOf r.line = none)
    (hhamper : s.coh.hamperOf r.line = none) (hop : r.op = .rdC) (hhome : s.isHome r.line = true) (hhit : s.coh.hitSlot s r.line = some k)
    (hsnf : s.coh.snfOf r.line = none) (hdir : s.coh.dirOf r.line = none) :
    ∃ q, (s.arriveReq r).coh.cmiQ.get (s.chan (slotSlice k)) = [q] ∧ q.key = k ∧ q.line = r.line ∧ q.cont = .serve := by
  obtain ⟨hquiet, hret, -, hdead⟩ := id hidle
  obtain ⟨h1, h2, -, h4, h5, h6, h7, -, -, h10, h11⟩ := Coh.quiet_lists hquiet
  obtain ⟨-, -, ⟨htags, -⟩, -⟩ := hinv
  have hsettle := settle_arriveReq hidle hwake hsrc hsound hblocked hpress (.inr (.inr (.inr hop)))
  obtain ⟨c, hc⟩ : ∃ c, c = s.coh.numbered (s.coh.nextOrder + 1) := ⟨_, rfl⟩
  obtain ⟨q, hq⟩ : ∃ q : Req, q = { r with order := s.coh.nextOrder } := ⟨_, rfl⟩
  rw [← hc, ← hq] at hsettle
  have hqline : q.line = r.line := by rw [hq]
  have hctxns : c.txns = [] := by rw [hc]; exact h2
  have hpassed : ∃ tags pp fx, c.passAgent s q p = { c with
      tags := tags
      pp := pp
      fx := fx
      txns := [{ req := q, phase := .ready, snap := c.pressSnap q.line }]
      wake := true } ∧ (c.passAgent s q p).hitSlot s q.line = some k := by
    refine Coh.passAgent_rdC ?_ ?_ ?_ hctxns ?_ ?_ ?_ ?_ <;> subst hc <;> subst hq
    exacts [htags, hsrc, hop, hpress, hhamper, hsnf, hhit]
  obtain ⟨tags, pp, fx, hpass, hhit'⟩ := hpassed
  obtain ⟨d, hd⟩ : ∃ d, d = c.passAgent s q p := ⟨_, rfl⟩
  rw [← hd] at hpass hhit' hsettle
  obtain ⟨x, hx⟩ : ∃ x : Txn, x = { req := q, phase := .ready, snap := c.pressSnap q.line } := ⟨_, rfl⟩
  rw [← hx] at hpass
  have hreq : x.req = q := by rw [hx]
  have hserves : d.Serves := by
    rw [hpass, hc]
    exact ⟨h1, h4, h5, h6, h7, h10, h11⟩
  have hread : ∃ u, Coh.settle s (5 + 2) d = u ∧ u.retiring = d.retiring ∧ u.cmiQ = vmod d.cmiQ (s.chan (slotSlice k))
      (· ++ [{ key := k, line := x.req.line, cont := .serve, cls := x.req.queueCls, top := x.req.allot }]) := by
    refine Coh.settle_read (x := x) ?_ hserves hdead ?_ ?_ ?_ ?_ ?_ ?_ ?_ ?_ ?_ ?_ ?_ ?_ 5
    · rw [hpass]
    · rw [hpass]
    · rw [hreq, hq]
      exact hop
    · rw [hreq, hqline]
      exact hhome
    · rw [hreq]
      exact hhit'
    · rw [hreq, hqline, hpass, hc]
      exact hdir
    · rw [hreq, hqline, hpass, hc]
      exact hsnf
    all_goals rw [hx]
  obtain ⟨u, hu, huret, hucmi⟩ := hread
  have hdret : d.retiring = [] := by
    rw [hpass, hc]
    exact hret
  have hcoh := State.coh_runCoh_of_settle (s := s) (f := fun c => c.arriveReq s r) (hsettle.trans hu) (huret.trans hdret)
  have hqueue : u.cmiQ.get (s.chan (slotSlice k)) =
      [{ key := k, line := x.req.line, cont := .serve, cls := x.req.queueCls, top := x.req.allot }] := by
    have hempty : d.cmiQ.get (s.chan (slotSlice k)) = [] := by
      rw [hpass, hc]
      exact (Coh.quiet_queues hquiet).2.1 _
    rw [hucmi, vget_vmod, if_pos rfl, hempty]
    rfl
  refine ⟨{ key := k, line := x.req.line, cont := .serve, cls := x.req.queueCls, top := x.req.allot }, ?_, rfl,
    (congrArg Req.line hreq).trans hqline, rfl⟩
  unfold State.arriveReq
  rw [hcoh]
  exact hqueue

/-- Settles O14. -/
theorem sliceServesRequests : Obligations.SliceServesRequests := by
  unfold Obligations.SliceServesRequests
  intro s r p hinv hidle hwake hsrc hhome hposted hsound hclear hblocked hpress hhamper hsnf hdir hacc hend
  refine ⟨fun hop => ?_, fun k hhit hst => ⟨fun hop hmask hpolicy hroom => ?_, fun hop => ?_⟩⟩
  · exact arriveReq_retires hidle hwake hsrc hsound hblocked hpress hop hsnf hclear hacc hend
  · obtain ⟨hsends, hentry⟩ := arriveReq_store hidle hwake hsrc hsound hblocked hpress hposted hclear hacc hend hop hmask hroom hpolicy hhome
      hhit hst hsnf hdir
    exact ⟨hsends, _, hentry, rfl, rfl, rfl, rfl⟩
  · exact arriveReq_rdC hinv hidle hwake hsrc hsound hblocked hpress hhamper hop hhome hhit hsnf hdir

end Sys2Proof.Machine
end

section
/-! PROOFS. Requests on their way through the front end of a port (R44, R258, R265). -/

namespace Sys2Proof.Machine
open Sys2Proof

/-! ### What happens around a front end -/

theorem Sparse.get_set_of_ne {α : Type} [DecidableEq α] {d : Nat → α} {k j : Nat} (hne : k ≠ j) (v : α) (m : List (Nat × α)) :
    Sparse.get d (Sparse.set d m k v) j = Sparse.get d m j := by
  have herase : Sparse.get d (Sparse.erase m k) j = Sparse.get d m j := by
    induction m with
    | nil => rfl
    | cons a t ih =>
      obtain ⟨i, x⟩ := a
      unfold Sparse.erase
      split
      · next h =>
        subst h
        simp [Sparse.get, hne]
      · simp only [Sparse.get, ih]
  unfold Sparse.set
  split
  · exact herase
  · rw [Sparse.get_insert, if_neg hne]

theorem State.rf_of_rg {s t : State} {f : RField} (h : t.rg f.off = s.rg f.off) : t.rf f = s.rf f := congrArg (fun r => fld r f.lo f.width) h

theorem State.rb_of_rg {s t : State} {f : RField} (h : t.rg f.off = s.rg f.off) : t.rb f = s.rb f := congrArg (· != 0) (State.rf_of_rg h)

/-- From `s` to `t` the front end of port `p`, its fences, tags and posted writes are as they were, and so are the engine, the image and
the registers, one status register apart. -/
structure SameFront (p : Port) (s t : State) : Prop where
  coh : t.coh = s.coh := by rfl
  img : t.img = s.img := by rfl
  rg : ∀ o, o ≠ Reg.AGP_PWQ_STAT p → t.rg o = s.rg o := by exact fun _ _ => rfl
  front : (t.port p).front = (s.port p).front := by rfl
  fences : (t.port p).fences = (s.port p).fences := by rfl
  pwq : (t.port p).pwq = (s.port p).pwq := by rfl
  tags : (t.port p).tags = (s.port p).tags := by rfl
  next : (t.port p).nextPoint = (s.port p).nextPoint := by rfl

section
variable {p : Port} {s t u : State}

theorem SameFront.refl (s : State) : SameFront p s s := {}

theorem SameFront.trans (h : SameFront p s t) (h' : SameFront p t u) : SameFront p s u where
  coh := h'.coh.trans h.coh
  img := h'.img.trans h.img
  rg := fun o ho => (h'.rg o ho).trans (h.rg o ho)
  front := h'.front.trans h.front
  fences := h'.fences.trans h.fences
  pwq := h'.pwq.trans h.pwq
  tags := h'.tags.trans h.tags
  next := h'.next.trans h.next

theorem sameFront_count (s : State) (c n : Nat) : SameFront p s (s.count c n) := by
  obtain ⟨m, hm, -⟩ := s.count_eq c n
  rw [hm]
  exact {}

theorem sameFront_cross (s : State) (a b : HdlUnit) (stile : Bool) (vcl : Fin 5) (cls : BitVec 2) (x : BitVec 160) (line : Option CodeLine)
    (mask : Option ByteMask) : SameFront p s (s.cross a b stile vcl cls x line mask) := by
  obtain ⟨h, l, heq, -⟩ := s.cross_eq a b stile vcl cls x line mask
  rw [heq]
  exact {}

theorem sameFront_setPort (s : State) {f : PortSt → PortSt} (hfront : (f (s.port p)).front = (s.port p).front)
    (hfences : (f (s.port p)).fences = (s.port p).fences) (hpwq : (f (s.port p)).pwq = (s.port p).pwq)
    (htags : (f (s.port p)).tags = (s.port p).tags) (hnext : (f (s.port p)).nextPoint = (s.port p).nextPoint) :
    SameFront p s (s.setPort p f) where
  front := by rw [State.port_setPort, hfront]
  fences := by rw [State.port_setPort, hfences]
  pwq := by rw [State.port_setPort, hpwq]
  tags := by rw [State.port_setPort, htags]
  next := by rw [State.port_setPort, hnext]

theorem sameFront_setDrill (s : State) (f : DrillSt → DrillSt) : SameFront p s (s.setDrill p f) := sameFront_setPort s rfl rfl rfl rfl rfl

theorem sameFront_train (s : State) (l : Nat) : SameFront p s (s.train p l) := by
  have hcount := sameFront_count (p := p) s (drlCtr p 0x10) 1
  unfold State.train
  split
  · exact .refl s
  · dsimp only
    split
    · split
      · exact hcount
      · split
        · exact ((hcount.trans (sameFront_setDrill _ _)).trans (sameFront_count _ _ _)).trans (sameFront_count _ _ _)
        · exact (hcount.trans (sameFront_setDrill _ _)).trans (sameFront_count _ _ _)
    · split
      · exact hcount
      · exact hcount.trans (sameFront_setDrill _ _)

theorem sameFront_drainTraining (n : Nat) (s : State) : SameFront p s (State.drainTraining p n s) := by
  induction n generalizing s with
  | zero => exact .refl s
  | succ n ih =>
    unfold State.drainTraining
    split
    · exact .refl s
    · split
      · exact .refl s
      · split
        · exact ((sameFront_setDrill _ _).trans (sameFront_train _ _)).trans (ih _)
        · exact (sameFront_setDrill _ _).trans (ih _)

theorem sameFront_trainKnown (s : State) (id : Nat) (ok : Bool) : SameFront p s (s.trainKnown p id ok) :=
  (sameFront_setDrill _ _).trans (sameFront_drainTraining _ _)

theorem sameFront_trainLater (s : State) (q : AgReq) (id : Nat) : SameFront p s (s.trainLater p q id) := by
  unfold State.trainLater
  split
  · exact sameFront_setDrill _ _
  · exact .refl s

theorem sameFront_swath (s : State) (sa : SysAddr) (full store : Bool) : SameFront p s (s.swath p sa full store).2 := by
  have hput : ∀ v : Vector (Option SwathTracker) 8, SameFront p s (s.setPort p (fun y => { y with swath := v })) :=
    fun v => sameFront_setPort s rfl rfl rfl rfl rfl
  unfold State.swath
  split
  · exact .refl s
  · dsimp only
    split
    · split
      · exact hput _
      · exact hput _
    · exact hput _

theorem sameFront_takeCredit (s : State) (cls : BitVec 2) (ch : BitVec 3) : SameFront p s (s.takeCredit p cls ch).2 := by
  obtain ⟨cr, hcr⟩ := s.takeCredit_spec p cls ch
  rw [hcr]
  exact sameFront_setPort s rfl rfl rfl rfl rfl

/-- The status of the posted-write queue is read by nothing that a request meets. -/
theorem sameFront_wb (s : State) (b : Bool) : SameFront p s (s.wb (F.AGP_PWQ_STAT.ORD_CACHING p) b) :=
  { rg := fun _ ho => Sparse.get_set_of_ne (Ne.symm ho) _ _ }

end

/-! ### A request alone at its front end -/

/-- From `s` on, port `p` holds the one request `f` at its front end, and nothing that it waits for. -/
structure AtFront (p : Port) (s t : State) (f : FrontReq) : Prop where
  coh : t.coh = s.coh
  img : t.img = s.img
  rg : ∀ o, o ≠ Reg.AGP_PWQ_STAT p → t.rg o = s.rg o
  front : (t.port p).front = [f]
  fences : (t.port p).fences = []
  pwq : (t.port p).pwq = {}
  free : ∀ x ∈ (t.port p).tags, x.tag = f.req.tag → x.point = f.id
  held : f.req.posted = false → ∃ x ∈ (t.port p).tags, x.tag = f.req.tag ∧ x.point = f.id

/-- A request for a line of memory that its port sends on as it stands: untranslated, without an address error, on the credit of its
channel, aligned, of the policy WBA. -/
structure Plain (s : State) (p : Port) (q : AgReq) (sa : SysAddr) : Prop where
  known : s.knownAddr p q.addr = some sa
  untranslated : s.translated p = false
  low : s.caching p = false → (q.addr.setWidth 48).toNat / 2 ^ 43 = 0
  space : spaceOf sa = .memory
  good : s.addrBad sa = false
  policy : s.policyOf sa = pWBA
  chan : s.caching p = true → q.ch.toNat = (s.chanOfLine (lineOf sa)).val
  whole : q.misaligned sa = false
  atomic : (q.op == .atm && (!(atomicSizes q.aop.toNat).contains q.sz.toNat || !aligned sa.toNat q.sz.toNat)) = false

section
variable {p : Port} {s t u : State} {f : FrontReq} {q : AgReq} {sa : SysAddr}

theorem AtFront.next (h : AtFront p s t f) (h' : SameFront p t u) : AtFront p s u f where
  coh := h'.coh.trans h.coh
  img := h'.img.trans h.img
  rg := fun o ho => (h'.rg o ho).trans (h.rg o ho)
  front := h'.front.trans h.front
  fences := h'.fences.trans h.fences
  pwq := h'.pwq.trans h.pwq
  free := by rw [h'.tags]; exact h.free
  held := by rw [h'.tags]; exact h.held

theorem AtFront.setPrm (h : AtFront p s t f) (m : PromiseUnit) : AtFront p s { t with prm := m } f :=
  { coh := h.coh, img := h.img, rg := h.rg, front := h.front, fences := h.fences, pwq := h.pwq, free := h.free, held := h.held }

theorem AtFront.setFront (h : AtFront p s t f) {g : FrontReq → FrontReq} (hid : (g f).id = f.id) (hreq : (g f).req = f.req) :
    AtFront p s (t.setFront p f.id g) (g f) where
  coh := h.coh
  img := h.img
  rg := h.rg
  front := by
    unfold State.setFront
    rw [State.port_setPort]
    show modFirst (fun y => y.id == f.id) g (t.port p).front = [g f]
    rw [h.front]
    simp [modFirst]
  fences := by
    unfold State.setFront
    rw [State.port_setPort]
    exact h.fences
  pwq := by
    unfold State.setFront
    rw [State.port_setPort]
    exact h.pwq
  free := by
    unfold State.setFront
    rw [State.port_setPort, hid, hreq]
    exact h.free
  held := by
    unfold State.setFront
    rw [State.port_setPort, hid, hreq]
    exact h.held

theorem AtFront.frontReq (h : AtFront p s t f) : t.frontReq p f.id = some f := by
  unfold State.frontReq
  rw [h.front]
  simp

/-- The registers that a request's way depends on are not the status of the posted-write queue. -/
theorem AtFront.plain (h : AtFront p s t f) (hq : Plain s p q sa) : Plain t p q sa := by
  have hnode : t.rg Reg.GLB_NODE = s.rg Reg.GLB_NODE := h.rg _ (by unfold Reg.GLB_NODE Reg.AGP_PWQ_STAT; omega)
  have hmap : t.rg Reg.GLB_MEMMAP = s.rg Reg.GLB_MEMMAP := h.rg _ (by unfold Reg.GLB_MEMMAP Reg.AGP_PWQ_STAT; omega)
  have hctl : t.rg (Reg.PTU_CTL p) = s.rg (Reg.PTU_CTL p) := h.rg _ (by unfold Reg.PTU_CTL Reg.AGP_PWQ_STAT; omega)
  have hkind : t.kind p = s.kind p := congrArg (fun i : ImageSetup => i.kinds.get p) h.img
  have hcaching : t.caching p = s.caching p := congrArg (· == PortKind.caching) hkind
  have htranslated : t.translated p = false := by
    rw [← hq.untranslated]
    unfold State.translated
    rw [hkind]
    rw [State.rb_of_rg (f := F.PTU_CTL.EN p) hctl]
  have hn : t.node = s.node := State.rf_of_rg (f := F.GLB_NODE.NODE) hnode
  have hknown : t.knownAddr p q.addr = s.knownAddr p q.addr := by
    unfold State.knownAddr
    rw [hcaching, htranslated, hq.untranslated, hn]
    simp only [Bool.false_eq_true, if_false]
  have hpolicy : t.policyOf sa = s.policyOf sa := by
    unfold State.policyOf State.policy
    rw [h.img]
  have hsize (d : Nat) : t.sizeOf d = s.sizeOf d := congrArg (fun r => 1 + fld r (9 + 3 * d) 3) hnode
  have hcap : t.portCap = s.portCap := congrArg (· * 2 ^ 32) (State.rf_of_rg (f := F.GLB_MEMMAP.PORT_CAP) hmap)
  have hbad : t.addrBad sa = s.addrBad sa := by
    have hfabric : t.inFabric (nodeOf sa) = s.inFabric (nodeOf sa) := by simp only [State.inFabric, hsize]
    have htop : t.aboveTop sa = s.aboveTop sa := by
      unfold State.aboveTop
      rw [hcap]
    unfold State.addrBad
    rw [hfabric, htop, hn]
  have hchan : t.chanOfLine (lineOf sa) = s.chanOfLine (lineOf sa) :=
    congrArg (fun b => chanOf b (sliceOf (lineOf sa))) (State.rb_of_rg (f := F.GLB_MEMMAP.CH4) hmap)
  exact {
    known := hknown.trans hq.known
    untranslated := htranslated
    low := fun hc => hq.low (hcaching.symm.trans hc)
    space := hq.space
    good := hbad.trans hq.good
    policy := hpolicy.trans hq.policy
    chan := fun hc => (hq.chan (hcaching.symm.trans hc)).trans (congrArg Fin.val hchan.symm)
    whole := hq.whole
    atomic := hq.atomic }

theorem Plain.known_caching (hq : Plain s p q sa) (hc : s.caching p = true) : q.addr = sa := by
  have h := hq.known
  unfold State.knownAddr at h
  rw [if_pos hc] at h
  exact Option.some.inj h

theorem Plain.known_own (hq : Plain s p q sa) (hc : s.caching p = false) : BitVec.ofNat 9 s.node ++ (q.addr.setWidth 48).setWidth 43 = sa := by
  have h := hq.known
  unfold State.knownAddr at h
  rw [if_neg (by simp [hc])] at h
  dsimp only at h
  rw [if_neg (by simp [hq.untranslated])] at h
  exact Option.some.inj h

theorem translateFront_plain (hq : Plain t p f.req sa) (htodo : f.tr = .todo) :
    t.translateFront p f = t.setFront p f.id (fun g => { g with tr := .ready sa none }) := by
  unfold State.translateFront State.lookupFront
  rw [htodo]
  dsimp only
  split
  · next hc => rw [hq.known_caching hc]
  · next hc =>
    have htrans (k : Nat) : t.translateDemand p (f.req.addr.setWidth 48) k false = (.ready sa none, none, t) := by
      unfold State.translateDemand
      rw [if_pos (by simp [hq.untranslated]), if_neg (not_not.2 (hq.low (by simpa using hc))), hq.known_own (by simpa using hc)]
    rw [htrans]

theorem settleFront_plain (hspace : spaceOf sa = .memory) (hready : f.tr = .ready sa none) :
    t.settleFront p f = t.trainKnown p f.id (t.trainsOn p f.req sa) := by
  unfold State.settleFront
  rw [hready]
  dsimp only
  rw [hspace]
  rfl

theorem AtFront.noteFenced (h : AtFront p s t f) : t.noteFenced p f = t := by
  unfold State.noteFenced State.fenceHolds
  rw [h.fences]
  rfl

theorem AtFront.not_mustWait (h : AtFront p s t f) (hpolicy : t.policyOf sa = pWBA) : t.mustWait p f sa = false := by
  have hpwq : t.pwqLines p = [] := by
    unfold State.pwqLines
    rw [show t.pwq p = {} from h.pwq]
    rfl
  unfold State.mustWait
  dsimp only
  rw [h.front, hpwq, hpolicy]
  simp [pWBA, pDEV]

theorem AtFront.goOn (h : AtFront p s t f) (hq : Plain t p f.req sa) (hready : f.tr = .ready sa none) :
    t.goOn p f = t.toMemory p f sa none := by
  have hfence : t.fenceHolds p f = false := by
    unfold State.fenceHolds
    rw [h.fences]
    rfl
  have htag : t.tagBusy p f = false := by
    unfold State.tagBusy
    rw [Bool.and_eq_false_iff]
    refine .inr (List.any_eq_false.2 fun x hx hbusy => ?_)
    simp only [Bool.and_eq_true, beq_iff_eq, bne_iff_ne] at hbusy
    obtain ⟨⟨-, htag⟩, hpoint⟩ := hbusy
    exact hpoint (h.free x hx htag)
  have hchan : t.wrongChannel p f.req sa = false := by
    unfold State.wrongChannel
    by_cases hc : t.caching p = true
    · simp [hq.chan hc]
    · simp [hc]
  have hroute : t.route p f sa none = some (t.toMemory p f sa none) := by
    unfold State.route
    rw [if_neg (by simp [hq.good, hchan])]
    dsimp only
    rw [hq.space]
  unfold State.goOn
  rw [if_neg (by simp [hfence, htag]), hready]
  dsimp only
  rw [if_neg (by simp [h.not_mustWait hq.policy]), hroute]
  rfl

/-- A request as its slice gets it from an agent (R44, Table 11.4). -/
structure FromAgent (p : Port) (q : AgReq) (sa : SysAddr) (id : Nat) (r : Req) : Prop where
  src : r.src = .agent p := by rfl
  op : r.op = q.op := by rfl
  line : r.line = lineOf sa := by rfl
  tag : r.tag = q.tag := by rfl
  posted : r.posted = q.posted := by rfl
  point : r.point = id := by rfl
  off : r.off = sa.extractLsb' 0 7 := by rfl
  sz : r.sz = q.sz := by rfl
  cl : r.cl = encodeLine q.data.bytes q.data.poison := by rfl
  mask : r.mask = q.data.mask := by rfl
  aop : r.aop = q.aop := by rfl
  operand : r.operand = q.operand := by rfl
  compare : r.compare = q.compare := by rfl
  nr : r.nr = q.nr := by rfl
  tgt : r.tgt = q.tgt := by rfl

/-- The request has left its front end: nothing waits there, and the tag of one that is not posted is in use for it. -/
structure Gone (p : Port) (s : State) (f : FrontReq) (u : State) : Prop where
  coh : u.coh = s.coh
  front : (u.port p).front = []
  held : f.req.posted = false → ∃ x ∈ (u.port p).tags, x.tag = f.req.tag ∧ x.point = f.id

theorem AtFront.leave (h : AtFront p s t f) (page : Option PageId) (dev : Bool) : Gone p s f (t.leave p f page dev) := by
  have hport : ((t.leave p f page dev).port p).front = [] ∧ ((t.leave p f page dev).port p).tags = (t.port p).tags := by
    unfold State.leave State.dropFront
    dsimp only
    refine ⟨?_, ?_⟩
    · show (((t.setPort p _).setPort p _).port p).front = []
      rw [State.port_setPort, State.port_setPort]
      show ((t.port p).front.filter _) = []
      rw [h.front]
      simp
    · show (((t.setPort p _).setPort p _).port p).tags = _
      rw [State.port_setPort, State.port_setPort]
  obtain ⟨hfront, htags⟩ := hport
  exact { coh := h.coh, front := hfront, held := by rw [htags]; exact h.held }

theorem Gone.sendTo (h : Gone p s f u) (q : AgReq) (id : Nat) (sa : SysAddr) (v : HdlUnit) : Gone p s f (u.sendTo p q id sa v) := by
  unfold State.sendTo
  dsimp only
  have hcross := sameFront_cross (p := p) u (.port p) v false 0 q.cls (q.hdr sa)
    (if q.op == .store || q.op == .wrB || q.op == .wrH then some (encodeLine q.data.bytes q.data.poison) else none)
    (if q.op == .store then some q.data.mask else none)
  generalize u.cross (.port p) v false 0 q.cls (q.hdr sa) _ _ = w at hcross
  unfold State.servedBy
  refine { coh := hcross.coh.trans h.coh, front := ?_, held := fun hposted => ?_ }
  · rw [State.port_setPort]
    exact hcross.front.trans h.front
  · obtain ⟨x, hx, htag, hpoint⟩ := h.held hposted
    rw [State.port_setPort]
    refine ⟨_, List.mem_map_of_mem (by rw [hcross.tags]; exact hx), ?_⟩
    rw [apply_ite TagUse.tag, apply_ite TagUse.point]
    exact ⟨by rw [ite_self]; exact htag, by rw [ite_self]; exact hpoint⟩

/-- Memory space: the request leaves for its slice (Table 1.8). -/
theorem AtFront.toMemory (h : AtFront p s t f) (hq : Plain t p f.req sa) (hord : f.req.ord = false) :
    ∃ u r, t.toMemory p f sa none = u.arriveReq r ∧ FromAgent p f.req sa f.id r ∧ Gone p s f u := by
  have hcached : t.devCached f.req.op sa = false := by
    unfold State.devCached
    rw [hq.policy]
    simp [pWBA, pDEV]
  have hwhole : (f.req.op == .rd && (t.policyOf sa == pUC || t.policyOf sa == pDEV)) = false := by
    rw [hq.policy]
    simp [pWBA, pUC, pDEV]
  obtain ⟨d, hd⟩ : ∃ d : Bool × State, d = (if f.req.op == .store then t.swath p sa (f.req.data.mask == fullMask) true
    else if f.req.isRead || f.req.op == .rdS || f.req.op == .rdU then t.swath p sa false false else (false, t)) := ⟨_, rfl⟩
  have hswath : SameFront p t d.2 := by
    rw [hd]
    split
    · exact sameFront_swath _ _ _ _
    · split
      · exact sameFront_swath _ _ _ _
      · exact .refl t
  unfold State.toMemory
  dsimp only
  rw [if_neg (by simp [hcached]), if_neg (by simp only [hq.whole, hq.atomic]; decide), ← hd, if_neg (by simp [hord])]
  refine ⟨_, _, rfl, ?_, ((h.next hswath).leave none _).sendTo _ _ _ _⟩
  rw [hwhole]
  exact {}

/-- One request of a front end that nothing holds goes to its slice. -/
theorem AtFront.frontOne (h : AtFront p s t f) (hq : Plain s p f.req sa) (htodo : f.tr = .todo) (hord : f.req.ord = false) :
    ∃ u r, State.frontOne p t f.id = u.arriveReq r ∧ FromAgent p f.req sa f.id r ∧ Gone p s f u := by
  obtain ⟨g, hg⟩ : ∃ g : FrontReq, g = { f with tr := .ready sa none } := ⟨_, rfl⟩
  have hgid : g.id = f.id := by rw [hg]
  have hgreq : g.req = f.req := by rw [hg]
  have hgtr : g.tr = .ready sa none := by rw [hg]
  have hlooked : AtFront p s (t.translateFront p f) g := by
    rw [translateFront_plain (h.plain hq) htodo, hg]
    exact h.setFront rfl rfl
  have hsettled : AtFront p s ((t.translateFront p f).settleFront p g) g := by
    rw [settleFront_plain hq.space hgtr]
    exact hlooked.next (sameFront_trainKnown _ _ _)
  unfold State.frontOne
  rw [h.frontReq]
  dsimp only
  rw [h.noteFenced, ← hgid, hlooked.frontReq]
  dsimp only
  rw [hsettled.frontReq]
  dsimp only
  rw [← hgreq] at hq
  rw [hsettled.goOn (hsettled.plain hq) hgtr]
  obtain ⟨u, r, hmem, hr, hu⟩ := hsettled.toMemory (hsettled.plain hq) (by rw [hgreq]; exact hord)
  refine ⟨u, r, hmem, hgreq ▸ hr, { coh := hu.coh, front := hu.front, held := ?_ }⟩
  rw [← hgreq, ← hgid]
  exact hu.held

/-! ### Arrival -/

/-- The tag of an arriving request. -/
def TagUse.arriving (s : State) (p : Port) (q : AgReq) (cr : Credit) : TagUse :=
  { tag := q.tag, at_ := s.fine, ceiling := decide (1 < q.cls.toNat) || !cr.promise || q.background, ended := false, credit := some cr,
    point := (s.port p).nextPoint }

/-- An arriving request. -/
def FrontReq.arriving (s : State) (p : Port) (q : AgReq) (cr : Credit) : FrontReq :=
  { req := if q.background then { q with cls := 2 } else q, id := (s.port p).nextPoint, at_ := s.fine, tr := .todo,
    credit := if q.background then none else some cr }

/-- An arriving request in the lists of its port. -/
def State.recorded (s : State) (p : Port) (q : AgReq) (use : TagUse) (f : FrontReq) : State :=
  s.setPort p (fun x => { x with
    nextPoint := (s.port p).nextPoint + 1
    points := x.points ++ [{ id := (s.port p).nextPoint, isWrite := q.op.writes }]
    tags := if q.posted then x.tags else x.tags ++ [use]
    front := x.front ++ [f] })

theorem State.enqueue_eq (s : State) (p : Port) (q : AgReq) (cr : Credit) : ∃ (t : State) (m : PromiseUnit),
    t = (s.recorded p q (.arriving s p q cr) (.arriving s p q cr)).trainLater p q (s.port p).nextPoint ∧
    s.enqueue p q cr = { t with prm := m } := by
  unfold State.enqueue
  extract_lets id free use req f s1 m
  have hs1 : s1 = (s.recorded p q (.arriving s p q cr) (.arriving s p q cr)).trainLater p q (s.port p).nextPoint := rfl
  clear_value s1
  split
  · exact ⟨s1, s1.prm, hs1, rfl⟩
  · exact ⟨s1, _, hs1, rfl⟩

/-- The request as it waits at its front end. -/
theorem enqueue_atFront (cr : Credit) (hcoh : t.coh = s.coh) (himg : t.img = s.img)
    (hrg : ∀ o, o ≠ Reg.AGP_PWQ_STAT p → t.rg o = s.rg o) (hfront : (t.port p).front = []) (hfences : (t.port p).fences = [])
    (hpwq : (t.port p).pwq = {}) (hfree : ∀ x ∈ (t.port p).tags, x.tag ≠ q.tag) :
    ∃ f, AtFront p s (t.enqueue p q cr) f ∧ f.id = (t.port p).nextPoint ∧ f.tr = .todo ∧
      f.req = (if q.background then { q with cls := 2 } else q) := by
  have hreq (P : AgReq → Prop) (h2 : P { q with cls := 2 }) (hq : P q) : P (if q.background then { q with cls := 2 } else q) := by
    split
    · exact h2
    · exact hq
  obtain ⟨use, huse⟩ : ∃ use, use = TagUse.arriving t p q cr := ⟨_, rfl⟩
  obtain ⟨f, hf⟩ : ∃ f, f = FrontReq.arriving t p q cr := ⟨_, rfl⟩
  have hfreq : f.req = (if q.background then { q with cls := 2 } else q) := congrArg FrontReq.req hf
  have hfid : f.id = (t.port p).nextPoint := by rw [hf]; rfl
  have husetag : use.tag = q.tag := by rw [huse]; rfl
  have husepoint : use.point = (t.port p).nextPoint := by rw [huse]; rfl
  obtain ⟨t1, ht1⟩ : ∃ t1, t1 = t.recorded p q use f := ⟨_, rfl⟩
  have h1 : AtFront p s t1 f := by
    have hport : (t1.port p).front = (t.port p).front ++ [f] ∧ (t1.port p).fences = (t.port p).fences ∧
        (t1.port p).pwq = (t.port p).pwq ∧ (t1.port p).tags = if q.posted then (t.port p).tags else (t.port p).tags ++ [use] := by
      rw [ht1]
      unfold State.recorded
      rw [State.port_setPort]
      exact ⟨rfl, rfl, rfl, rfl⟩
    obtain ⟨h1front, h1fences, h1pwq, h1tags⟩ := hport
    refine { coh := ?_, img := ?_, rg := ?_, front := ?_, fences := h1fences.trans hfences, pwq := h1pwq.trans hpwq, free := ?_, held := ?_ }
    · rw [ht1]
      exact hcoh
    · rw [ht1]
      exact himg
    · rw [ht1]
      exact hrg
    · rw [h1front, hfront]
      rfl
    · rw [h1tags, hfreq, hfid, hreq (fun r => r.tag = q.tag) rfl rfl]
      intro x hx htag
      split at hx
      · exact absurd htag (hfree x hx)
      · rcases List.mem_append.1 hx with hx | hx
        · exact absurd htag (hfree x hx)
        · rw [List.mem_singleton.1 hx]
          exact husepoint
    · rw [h1tags, hfreq, hfid, hreq (fun r => r.tag = q.tag) rfl rfl, hreq (fun r => r.posted = q.posted) rfl rfl]
      intro hposted
      rw [if_neg (by simp [hposted])]
      exact ⟨use, by simp, husetag, husepoint⟩
  have h2 : AtFront p s (t1.trainLater p q (t.port p).nextPoint) f := h1.next (sameFront_trainLater _ _ _)
  obtain ⟨w, m, hw, henqueue⟩ := t.enqueue_eq p q cr
  rw [← huse, ← hf, ← ht1] at hw
  rw [henqueue, hw]
  exact ⟨f, h2.setPrm m, hfid, by rw [hf]; rfl, hfreq⟩

/-- The ordered flag has a meaning at a non-caching port only (R271). -/
theorem opArrive_memory (hheld : Unheld s p q.tag) (hq : Plain s p q sa) (hpermits : permitsOp (s.caching p) q.op = true)
    (hord : (q.ord && s.hasPwq p) = false) :
    ∃ (u : State) (r : Req), opArrive p q s = afterScan p 8 (u.arriveReq r) ∧ FromAgent p q sa (s.port p).nextPoint r ∧ u.coh = s.coh ∧
      (u.port p).front = [] ∧ (q.posted = false → ∃ x ∈ (u.port p).tags, x.tag = q.tag ∧ x.point = (s.port p).nextPoint) := by
  obtain ⟨htakes, hfront, hfences, hpwq, htags⟩ := hheld
  have htag : s.tagHeld p q.tag = false := by
    unfold State.tagHeld
    rw [hfences]
    simp only [List.any_nil, Bool.or_false]
    exact List.any_eq_false.2 fun x hx => by simp [htags x hx]
  obtain ⟨s1, hs1⟩ : ∃ s1 : State, s1 = (if q.ord && s.caching p then (s.wb (F.AGP_PWQ_STAT.ORD_CACHING p) true).count (ordCtr p 7) else s) :=
    ⟨_, rfl⟩
  have hfirst : SameFront p s s1 := by
    rw [hs1]
    split
    · exact (sameFront_wb s true).trans (sameFront_count _ _ _)
    · exact .refl s
  obtain ⟨cls, hcls⟩ : ∃ cls : BitVec 2, cls = (if q.cls = 3 then 2 else q.cls) := ⟨_, rfl⟩
  obtain ⟨cr, hcr⟩ : ∃ cr : Credit, cr = (s1.takeCredit p cls q.ch).1.getD
    { kind := .agent, cls := cls, ch := q.ch, mode := 1, floor := 0, promise := false } := ⟨_, rfl⟩
  have hsame := hfirst.trans (sameFront_takeCredit s1 cls q.ch)
  obtain ⟨t, ht⟩ : ∃ t, t = (s1.takeCredit p cls q.ch).2 := ⟨_, rfl⟩
  rw [← ht] at hsame
  obtain ⟨r0, hr0⟩ : ∃ r0 : AgReq, r0 = { q with cls := cls, ord := false } := ⟨_, rfl⟩
  have hr0tag : r0.tag = q.tag := by rw [hr0]
  obtain ⟨f, hat, hid, htodo, hreq⟩ := enqueue_atFront (s := s) (t := t) (p := p) (q := r0) cr hsame.coh hsame.img hsame.rg
    (hsame.front.trans hfront) (hsame.fences.trans hfences) (hsame.pwq.trans hpwq)
    (by rw [hsame.tags, hr0tag]; exact htags)
  obtain ⟨c, hc⟩ : ∃ c : BitVec 2, f.req = { q with cls := c, ord := false } := by
    rw [hreq, hr0]
    split
    · exact ⟨2, rfl⟩
    · exact ⟨cls, rfl⟩
  have hplain : Plain s p f.req sa := by
    rw [hc]
    exact { hq with }
  obtain ⟨u, r, hone, hr, hu⟩ := hat.frontOne hplain htodo (by rw [hc])
  have hscan : (t.enqueue p r0 cr).frontScan p = afterScan p 8 (u.arriveReq r) := by
    unfold State.frontScan
    rw [hat.front]
    show State.frontPass p 9 _ = _
    unfold State.frontPass
    rw [hat.front]
    simp only [List.map_cons, List.map_nil, List.foldl_cons, List.foldl_nil]
    rw [hone]
    rfl
  have hpoint : f.id = (s.port p).nextPoint := hid.trans hsame.next
  have harrive : opArrive p q s = (t.enqueue p r0 cr).frontScan p := by
    unfold opArrive
    rw [if_neg (by simp [htakes]), if_neg (by simp [htag])]
    dsimp only
    rw [hord, if_pos hpermits, ← hs1, ← hcls, ← hcr, ← ht, ← hr0]
  rw [hc, hpoint] at hr
  refine ⟨u, r, harrive.trans hscan, { hr with }, hu.coh, hu.front, ?_⟩
  have hheld := hu.held
  rw [hc, hpoint] at hheld
  exact hheld

/-- A memory line as a caching port names it. -/
theorem plain_caching (hcaching : s.caching p = true) (hspace : spaceOf q.addr = .memory) (hgood : s.addrBad q.addr = false)
    (hpolicy : s.policyOf q.addr = pWBA) (hchan : q.ch.toNat = (s.chanOfLine (lineOf q.addr)).val) (hwhole : q.misaligned q.addr = false)
    (hatomic : (q.op == .atm && (!(atomicSizes q.aop.toNat).contains q.sz.toNat || !aligned q.addr.toNat q.sz.toNat)) = false) :
    Plain s p q q.addr where
  known := by
    unfold State.knownAddr
    rw [if_pos hcaching]
  untranslated := by
    have hkind : s.kind p = .caching := by simpa [State.caching] using hcaching
    simp [State.translated, hkind]
  low := fun hc => by simp [hcaching] at hc
  space := hspace
  good := hgood
  policy := hpolicy
  chan := fun _ => hchan
  whole := hwhole
  atomic := hatomic

/-- An instruction that is the arrival of a request at its port. -/
theorem exec_arrives {i : Instr} {h : ReqHdr} {P : Req → Prop} (hexec : exec i s = .next (opArrive h.port q s)) (htag : q.tag = h.tag)
    (hheld : Unheld s h.port h.tag) (hq : Plain s h.port q sa) (hpermits : permitsOp (s.caching h.port) q.op = true)
    (hord : (q.ord && s.hasPwq h.port) = false) (hP : ∀ r, FromAgent h.port q sa (s.port h.port).nextPoint r → P r) :
    ∃ (u : State) (r : Req), exec i s = .next (afterScan h.port 8 (u.arriveReq r)) ∧ r.src = .agent h.port ∧ r.op = q.op ∧
      r.line = lineOf sa ∧ r.tag = h.tag ∧ r.posted = q.posted ∧ r.point = (s.port h.port).nextPoint ∧ u.coh = s.coh ∧
      (u.port h.port).front = [] ∧
      (q.posted = false → ∃ x ∈ (u.port h.port).tags, x.tag = h.tag ∧ x.point = r.point) ∧ P r := by
  obtain ⟨u, r, hop, hr, hcoh, hfront, htags⟩ := opArrive_memory (htag ▸ hheld) hq hpermits hord
  rw [htag] at htags
  refine ⟨u, r, hexec.trans (congrArg _ hop), hr.src, hr.op, hr.line, hr.tag.trans htag, hr.posted, hr.point, hcoh, hfront, ?_, hP r hr⟩
  rw [hr.point]
  exact htags

end

/-! ### Requests of other nodes -/

theorem State.arriveHome_serves {s : State} {h : FabHdr} (hserves : s.homeServes h.line = true) (r : Req) :
    s.arriveHome h r = s.arriveReq r := if_pos hserves

/-- Settles O13. -/
theorem requestsReachTheirSlice : Obligations.RequestsReachTheirSlice := by
  unfold Obligations.RequestsReachTheirSlice
  refine ⟨fun s h hheld => ?_, fun s h hserves => ?_⟩
  · intro arrives
    refine ⟨fun hcaching hspace hgood hpolicy hchan => ?_, fun sa hsa hkind huntranslated hlow hspace hgood hpolicy => ?_⟩
    · have hpwq : s.hasPwq h.port = false := by
        have hkind : s.kind h.port = .caching := by simpa [State.caching] using hcaching
        simp [State.hasPwq, hkind]
      have hheader {i : Instr} {op : ReqOp} (hexec : exec i s = .next (opArrive h.port (reqOfHdr h op) s)) (hrdc : (op == .rdC) = false)
          (hatm : (op == .atm) = false) (hpermits : permitsOp true op = true) : arrives i h.addr op false (fun _ => True) :=
        exec_arrives hexec rfl hheld
          (plain_caching hcaching hspace hgood hpolicy hchan (by simp [AgReq.misaligned, reqOfHdr, hrdc]) (by simp [reqOfHdr, hatm]))
          (by rw [hcaching]; exact hpermits) rfl (fun _ _ => trivial)
      have hstore {i : Instr} {q : AgReq} {P : Req → Prop} (hexec : exec i s = .next (opArrive h.port q s)) (htag : q.tag = h.tag)
          (haddr : q.addr = h.addr) (hch : q.ch = h.ch) (hrdc : (q.op == .rdC) = false) (hatm : (q.op == .atm) = false)
          (hpermits : permitsOp true q.op = true) (hP : ∀ r, FromAgent h.port q h.addr (s.port h.port).nextPoint r → P r) :
          arrives i h.addr q.op q.posted P :=
        exec_arrives hexec htag hheld
          (haddr ▸ plain_caching hcaching (haddr ▸ hspace) (haddr ▸ hgood) (haddr ▸ hpolicy) (by rw [hch, haddr]; exact hchan)
            (by simp [AgReq.misaligned, hrdc]) (by simp [hatm]))
          (by rw [hcaching]; exact hpermits) (by simp [hpwq]) hP
      refine ⟨?_, fun sz haligned => ?_, fun d ord strm => ⟨?_, ?_⟩, fun d tgt => ⟨?_, ?_⟩,
        fun sz aop operand compare nr haligned hsize => ?_⟩
      · simp only [List.forall_mem_cons]
        exact ⟨hheader (op := .rdS) rfl rfl rfl rfl, hheader (op := .rdU) rfl rfl rfl rfl, hheader (op := .upg) rfl rfl rfl rfl,
          hheader (op := .evC) rfl rfl rfl rfl, hheader (op := .clean) rfl rfl rfl rfl, hheader (op := .flush) rfl rfl rfl rfl,
          fun _ hx => absurd hx List.not_mem_nil⟩
      · exact exec_arrives (q := { reqOfHdr h .rdC with sz := sz }) rfl rfl hheld
          (plain_caching hcaching hspace hgood hpolicy hchan (by simp [AgReq.misaligned, reqOfHdr, haligned]) rfl)
          rfl rfl (fun r hr => ⟨hr.sz, hr.off⟩)
      · exact hstore (q := { reqOfHdr h .store with posted := true, data := d, ord := ord, strm := strm }) rfl rfl rfl rfl rfl rfl rfl
          (fun r hr => ⟨hr.cl, hr.mask⟩)
      · exact hstore (q := { reqOfHdr h .store with data := d }) rfl rfl rfl rfl rfl rfl rfl (fun r hr => ⟨hr.cl, hr.mask⟩)
      · exact hstore (q := { reqOfHdr h .wrB with data := lineStore d }) rfl rfl rfl rfl rfl rfl rfl (fun r hr => hr.cl)
      · exact hstore (q := { reqOfHdr h .wrH with posted := true, data := lineStore d, tgt := tgt }) rfl rfl rfl rfl rfl rfl rfl
          (fun r hr => ⟨hr.cl, hr.tgt⟩)
      · exact exec_arrives (q := { reqOfHdr h .atm with sz := sz, aop := aop, operand := operand, compare := compare, nr := nr })
          rfl rfl hheld
          (plain_caching hcaching hspace hgood hpolicy hchan rfl
            (by
              show (true && (!(atomicSizes aop.toNat).contains sz.toNat || !aligned h.addr.toNat sz.toNat)) = false
              rw [hsize, haligned]
              rfl))
          rfl rfl (fun r hr => ⟨hr.sz, hr.aop, hr.operand, hr.compare, hr.nr, hr.off⟩)
    · have hcaching : s.caching h.port = false := by simp [State.caching, hkind]
      have hplain : Plain s h.port (reqOfHdr h .rd) sa :=
        { known := by
            unfold State.knownAddr
            rw [if_neg (by simp [hcaching])]
            dsimp only
            rw [if_neg (by simp [huntranslated]), hsa]
            rfl
          untranslated := huntranslated
          low := fun _ => Nat.div_eq_of_lt hlow
          space := hspace
          good := hgood
          policy := hpolicy
          chan := fun hc => by simp [hcaching] at hc
          whole := rfl
          atomic := rfl }
      exact exec_arrives (q := reqOfHdr h .rd) rfl rfl hheld hplain (by rw [hcaching]; rfl) rfl (fun _ _ => trivial)
  · intro arrives
    have hhome (r : Req) : Host.Outcome.next (s.arriveHome h r) = (.next (s.arriveReq r) : Host.Outcome State Fault Refusal) :=
      congrArg _ (State.arriveHome_serves hserves r)
    refine ⟨?_, fun off sz aop operand compare nr noAlloc => ?_, fun cl mask => ?_⟩
    · simp only [List.forall_mem_cons]
      exact ⟨⟨_, hhome _, rfl, rfl, rfl, trivial⟩, ⟨_, hhome _, rfl, rfl, rfl, trivial⟩, ⟨_, hhome _, rfl, rfl, rfl, trivial⟩,
        ⟨_, hhome _, rfl, rfl, rfl, trivial⟩, ⟨_, hhome _, rfl, rfl, rfl, trivial⟩, ⟨_, hhome _, rfl, rfl, rfl, trivial⟩,
        ⟨_, hhome _, rfl, rfl, rfl, trivial⟩, fun _ hx => absurd hx List.not_mem_nil⟩
    · exact ⟨{ homeReq h .atm with off := off, sz := sz, aop := aop, operand := operand, compare := compare, nr := nr, noAlloc := noAlloc },
        hhome _, rfl, rfl, rfl, rfl, rfl, rfl, rfl, rfl, rfl⟩
    · have hserves' : ({ s with coh := (s.coh.arrive h.line cl).2 } : State).homeServes h.line = true := hserves
      exact ⟨{ homeReq h .store with cl := (s.coh.arrive h.line cl).1, mask := mask },
        congrArg Host.Outcome.next (State.arriveHome_serves hserves' _), rfl, rfl, rfl, rfl, rfl⟩

end Sys2Proof.Machine
end

section
/-! PROOFS. Accesses to MMIO windows (R32, R47, R229, R350). -/

namespace Sys2Proof.Machine
open Sys2Proof

/-! ### What answers and fabric messages leave at the ports -/

/-- What a port keeps while answers and fabric messages go out: its front end, its walks, its credits, its device requests and the
snoops that wait there. -/
structure PortSt.Kept (x y : PortSt) : Prop where
  front : y.front = x.front := by rfl
  walks : y.ptu.walks = x.ptu.walks := by rfl
  queue : y.dreqQ = x.dreqQ := by rfl
  out : y.dreqOut = x.dreqOut := by rfl
  credits : y.credits = x.credits := by rfl
  snoops : y.snpWait = x.snpWait := by rfl

/-- From `s` to `t` the registers stay, and every port keeps what it keeps while answers and fabric messages go out. -/
structure SameDev (s t : State) : Prop where
  regs : t.regs = s.regs := by rfl
  port : ∀ p : Port, (s.port p).Kept (t.port p) := by exact fun _ => {}

section
variable {s t u : State}

theorem SameDev.refl (s : State) : SameDev s s := {}

theorem SameDev.trans (h : SameDev s t) (h' : SameDev t u) : SameDev s u where
  regs := h'.regs.trans h.regs
  port := fun p => {
    front := (h'.port p).front.trans (h.port p).front
    walks := (h'.port p).walks.trans (h.port p).walks
    queue := (h'.port p).queue.trans (h.port p).queue
    out := (h'.port p).out.trans (h.port p).out
    credits := (h'.port p).credits.trans (h.port p).credits
    snoops := (h'.port p).snoops.trans (h.port p).snoops }

theorem SameDev.still (h : SameDev s t) (hs : Still s) : Still t := fun p => by
  obtain ⟨hempty, hdue⟩ := hs p
  refine ⟨(h.port p).front.trans hempty, ?_⟩
  show (t.port p).ptu.walks.any Walk.due = false
  rw [(h.port p).walks]
  exact hdue

theorem SameDev.foldl {α : Type} {f : State → α → State} (hf : ∀ s a, SameDev s (f s a)) (l : List α) (s : State) :
    SameDev s (l.foldl f s) :=
  foldl_keeps (Q := SameDev s) (.refl s) fun t a ht => ht.trans (hf t a)

theorem sameDev_setPort (s : State) (p : Port) {f : PortSt → PortSt} (h : (s.port p).Kept (f (s.port p))) : SameDev s (s.setPort p f) where
  port := fun q => by
    by_cases hpq : p = q
    · subst hpq
      rw [State.port_setPort]
      exact h
    · rw [State.port_setPort_of_ne _ hpq]
      exact {}

theorem sameDev_count (s : State) (c n : Nat) : SameDev s (s.count c n) := by
  obtain ⟨m, hm, -⟩ := s.count_eq c n
  rw [hm]
  exact {}

theorem sameDev_cross (s : State) (a b : HdlUnit) (stile : Bool) (vcl : Fin 5) (cls : BitVec 2) (x : BitVec 160) (line : Option CodeLine)
    (mask : Option ByteMask) : SameDev s (s.cross a b stile vcl cls x line mask) := by
  obtain ⟨h, l, heq, -⟩ := s.cross_eq a b stile vcl cls x line mask
  rw [heq]
  exact {}

theorem sameDev_pointReached (s : State) (p : Port) (id : Nat) : SameDev s (s.pointReached p id) := sameDev_setPort s p {}

theorem sameDev_freeTag (s : State) (p : Port) (tag : Tag) : SameDev s (s.freeTag p tag) := by
  unfold State.freeTag
  split
  · exact .refl s
  · next x rest _ =>
    exact (sameDev_setPort s p (f := fun y => { y with tags := rest }) {}).trans {}

theorem sameDev_left (s : State) (x : Sent) : SameDev s (s.left x) := by
  have hemit : SameDev s (s.emit x) := {}
  unfold State.left
  split
  · next p m =>
    split_ifs
    · exact hemit.trans (sameDev_freeTag _ _ _)
    · exact hemit.trans (sameDev_setPort _ p (f := fun y => { y with devLeft := y.devLeft ++ [m.tag] }) {})
    · exact hemit
  · exact hemit

theorem sameDev_setLink (s : State) (u : LinkUnit) (f : LinkSt → LinkSt) : SameDev s (s.setLink u f) := by
  cases u with
  | port p => exact sameDev_setPort s p (f := fun x => { x with link := f x.link }) {}
  | stile l => exact {}

theorem sameDev_pumpLink (s : State) (u : LinkUnit) : SameDev s (s.pumpLink u) := by
  unfold State.pumpLink
  split
  · exact ((sameDev_setLink s u _).trans (sameDev_count _ _ _)).trans (.foldl sameDev_left _ _)
  · exact .refl s

theorem sameDev_transmitSlots (s : State) (u : LinkUnit) (slots : List TxSlot) : SameDev s (s.transmitSlots u slots) :=
  (sameDev_setLink s u _).trans (sameDev_pumpLink _ u)

theorem sameDev_transmitPart (s : State) (u : LinkUnit) (slots : List TxSlot) (last : Bool) :
    SameDev s (s.transmitPart u slots last) := (sameDev_setLink s u _).trans (sameDev_pumpLink _ u)

theorem sameDev_returnBuf (s : State) (b : Option (LinkNo × BitVec 3 × Bool × Nat)) : SameDev s (s.returnBuf b) := by
  unfold State.returnBuf
  split
  · exact sameDev_transmitSlots s _ _
  · exact .refl s

theorem sameDev_toAgent (s : State) (p : Port) (m : AgentMsg) : SameDev s (s.toAgent p m) := by
  unfold State.toAgent
  split
  · obtain ⟨n, hn, -⟩ := s.markedDelivery_eq p m
    rw [hn]
    exact SameDev.trans {} (sameDev_transmitSlots _ _ _)
  · exact .refl s

theorem sameDev_respond (s : State) (p : Port) (m : AgentMsg) : SameDev s (s.respond p m) := by
  unfold State.respond
  extract_lets mark s1
  have h1 : SameDev s s1 := sameDev_setPort s p (f := fun x => { x with tags := mark x.tags }) {}
  split
  · exact h1.trans (sameDev_freeTag _ _ _)
  · exact h1.trans (sameDev_toAgent _ _ _)

theorem sameDev_answer (s : State) (p : Port) (m : AgentMsg) : SameDev s (s.answer p m) := by
  unfold State.answer
  split
  · dsimp only
    split
    · exact (sameDev_cross s _ _ _ _ _ _ _ _).trans (sameDev_respond _ _ _)
    · exact sameDev_respond s _ _
  · exact sameDev_respond s _ _

theorem sameDev_pumpStile (l : LinkNo) (n : Nat) (s : State) : SameDev s (State.pumpStile l n s) := by
  induction n generalizing s with
  | zero => exact .refl s
  | succ n ih =>
    unfold State.pumpStile
    split
    · exact .refl s
    · next w rest _ =>
      extract_lets part s1 s2
      have h1 : SameDev s s1 := {}
      have h2 : SameDev s s2 := by
        unfold s2
        split
        · exact h1.trans (sameDev_count _ _ _)
        · exact h1
      split
      · exact h2.trans (sameDev_transmitPart _ _ _ _)
      · exact ((h2.trans (sameDev_transmitSlots _ _ _)).trans (sameDev_returnBuf _ _)).trans (ih _)

theorem sameDev_routeStile (s : State) (inDim : Option Nat) (buf : Option (LinkNo × BitVec 3 × Bool × Nat))
    (arriving : Option (LinkNo × Nat)) (p : StilePkt) : SameDev s (s.routeStile inDim buf arriving p).2 := by
  have hraise (t : State) (ev v : Nat) : SameDev t (t.raise ev v) := {}
  unfold State.routeStile
  split
  · exact sameDev_returnBuf s buf
  · split
    · exact ((sameDev_count s _ _).trans (hraise _ _ _)).trans (sameDev_returnBuf _ buf)
    · next l h detour _ =>
      extract_lets s1 s2
      have h1 : SameDev s s1 := by
        unfold s1
        split
        · exact sameDev_count s _ _
        · exact .refl s
      have h2 : SameDev s1 s2 := by
        unfold s2
        split
        · exact hraise s1 _ _
        · exact .refl s1
      exact (h1.trans h2).trans (SameDev.trans {} (sameDev_pumpStile l _ _))

theorem sameDev_sendFabric (s : State) (u : HdlUnit) (p : StilePkt) : SameDev s (s.sendFabric u p) := by
  unfold State.sendFabric
  dsimp only
  split
  · exact (sameDev_routeStile s none none none p).trans (sameDev_cross _ _ _ _ _ _ _ _ _)
  · exact sameDev_routeStile s none none none p

theorem sameDev_devReply (s : State) (u : HdlUnit) (n : NodeId) (rtrk : BitVec 11) (line : LineAddr) (data : Option CodeLine)
    (stat : Nat) : SameDev s (s.devReply u n rtrk line data stat) := sameDev_sendFabric _ _ _

theorem sameDev_devEnd (s : State) (o : Port) (d : DevReq) (data : Option CodeLine) (stat : Nat) :
    SameDev s (s.devEnd o d data stat) := by
  unfold State.devEnd
  split
  · next p tag point _ =>
    have hpoint := sameDev_pointReached s p point
    dsimp only
    split
    · exact hpoint
    · split
      · split
        · exact hpoint.trans (sameDev_answer _ _ _)
        · exact hpoint.trans (sameDev_answer _ _ _)
      · exact hpoint.trans (sameDev_answer _ _ _)
  · dsimp only
    split
    · exact sameDev_devReply s _ _ _ _ _ _
    · exact sameDev_devReply s _ _ _ _ _ _

end

/-! ### The delivery of a device request -/

/-- The port after a device request has gone to its agent: it has its tag, a write's last slot has left. -/
def PortSt.delivered (x : PortSt) (d : DevReq) (rest : List DevReq) (y : LinkSt) : PortSt := { x with
  link := y
  dreqQ := rest
  dreqCred := x.dreqCred - 1
  devTag := x.devTag + 1
  dreqOut := x.dreqOut ++ [{ d with tag := x.devTag }]
  devLeft := if d.kind = .dRd then x.devLeft else x.devLeft ++ [x.devTag] }

/-- The state after a device request has gone to its agent. -/
def State.devDelivered (s : State) (p : Port) (d : DevReq) (rest : List DevReq) (y : LinkSt) (n : Monitor) : State :=
  ({ s with mon := n, sent := s.sent ++ [.agent p (d.msg (s.port p).devTag)] } : State).setPort p (fun x => x.delivered d rest y)

theorem DevReq.msg_opc (d : DevReq) (tag : Tag) : (d.msg tag).isResponse = false ∧
    (((d.msg tag).opc = opDWrP ∨ (d.msg tag).opc = opDWrN) ↔ d.kind ≠ .dRd) := by
  have h (k : DevKind) : (devOpc k == opCmp || devOpc k == opWbCmp || devOpc k == opData || devOpc k == opDataV) = false ∧
      ((devOpc k = opDWrP ∨ devOpc k = opDWrN) ↔ k ≠ .dRd) := by cases k <;> decide
  exact h d.kind

theorem State.setPort_congr (s : State) {p : Port} {f g : PortSt → PortSt} (h : f (s.port p) = g (s.port p)) :
    s.setPort p f = s.setPort p g := congrArg (fun x : PortSt => { s with ports := s.ports.set p x }) h

theorem takeFirst_append_of_none {α : Type} {q : α → Bool} {l : List α} {x : α} (hl : ∀ y ∈ l, q y = false) (hx : q x = true) :
    takeFirst q (l ++ [x]) = some (x, l) := by
  induction l with
  | nil => simp [takeFirst, hx]
  | cons a l ih =>
    have hrest := ih (fun y hy => hl y (List.mem_cons_of_mem a hy))
    simp [takeFirst, hl a List.mem_cons_self, hrest]

/-- An element that two tests agree on is the first of both, when the second test is the narrower one. -/
theorem takeFirst_of_imp {α : Type} {q r : α → Bool} {l : List α} {x : α} {rest : List α} (himp : ∀ y, r y = true → q y = true)
    (h : takeFirst q l = some (x, rest)) (hx : r x = true) : takeFirst r l = some (x, rest) := by
  induction l generalizing rest with
  | nil => cases h
  | cons a l ih =>
    unfold takeFirst at h ⊢
    by_cases ha : q a = true
    · rw [if_pos ha, Option.some.injEq, Prod.mk.injEq] at h
      obtain ⟨rfl, rfl⟩ := h
      rw [if_pos hx]
    · have hra : ¬r a = true := fun hr => ha (himp a hr)
      rw [if_neg ha] at h
      obtain ⟨⟨b, l'⟩, hb, heq⟩ := Option.map_eq_some_iff.1 h
      rw [Prod.mk.injEq] at heq
      obtain ⟨rfl, rfl⟩ := heq
      rw [if_neg hra, ih hb]
      rfl

section
variable {s : State} {p : Port} {d : DevReq} {rest : List DevReq}

section
variable (hq : (s.port p).dreqQ = d :: rest) (halive : s.dead p = false) (hactive : s.portActive p = true) (hacc : s.accepts p = true)
  (hcred : 0 < (s.port p).dreqCred) (hclear : Clear s (.port p))
include hq halive hactive hacc hcred hclear

/-- The request goes out at once (R346). -/
theorem opMmioDelivery_eq : ∃ y n, opMmioDelivery p s = (s.devDelivered p d rest y n).devGone p := by
  obtain ⟨g, hg⟩ : ∃ g : PortSt → PortSt, g = fun x => { x with
    dreqQ := rest
    dreqCred := x.dreqCred - 1
    devTag := x.devTag + 1
    dreqOut := x.dreqOut ++ [{ d with tag := (s.port p).devTag }] } := ⟨_, rfl⟩
  obtain ⟨m, hm, -⟩ := (s.setPort p g).count_eq (ctrSel 7 0 7) (if d.data.poison = 0 then 0 else 1)
  have hlink : (({ s.setPort p g with mon := m } : State).port p).link = (s.port p).link := by
    show ((s.setPort p g).port p).link = _
    rw [State.port_setPort, hg]
  have hacc' : ({ s.setPort p g with mon := m } : State).accepts p = true := hacc
  obtain ⟨y, n, hsend, -, -⟩ := State.toAgent_of_clear hacc' (clear_congr hclear rfl hlink) (d.msg (s.port p).devTag)
  obtain ⟨hresp, hwrite⟩ := d.msg_opc (s.port p).devTag
  refine ⟨y, n, ?_⟩
  have hstep : opMmioDelivery p s =
      (((s.setPort p g).count (ctrSel 7 0 7) (if d.data.poison = 0 then 0 else 1)).toAgent p (d.msg (s.port p).devTag)).devGone p := by
    unfold opMmioDelivery
    rw [hq]
    dsimp only
    rw [if_neg (by simp [halive]), if_pos (by simp [hactive, hcred]), State.setPort_setPort, hg]
  rw [hstep, hm, hsend]
  refine congrArg (fun t : State => t.devGone p) ?_
  unfold State.passed State.left
  dsimp only
  rw [hresp, if_neg Bool.false_ne_true, if_congr hwrite rfl rfl]
  obtain ⟨r, hr⟩ : ∃ r : State, r = { s with mon := n, sent := s.sent ++ [.agent p (d.msg (s.port p).devTag)] } := ⟨_, rfl⟩
  have hgone : ((({ s.setPort p g with mon := n } : State).setLink (.port p) (fun _ => y)).emit (.agent p (d.msg (s.port p).devTag))) =
      r.setPort p (fun x => { (g x) with link := y }) := by
    refine Eq.trans ?_ (State.setPort_setPort r p g (fun x => { x with link := y }))
    rw [hr]
    rfl
  have hport : r.port p = s.port p := by rw [hr]; rfl
  have hdelivered : s.devDelivered p d rest y n = r.setPort p (fun x => x.delivered d rest y) := by rw [hr]; rfl
  rw [hdelivered]
  by_cases hkind : d.kind = .dRd
  · rw [if_neg (not_not.2 hkind)]
    refine hgone.trans (State.setPort_congr r ?_)
    rw [hport, hg]
    unfold PortSt.delivered
    rw [if_pos hkind]
  · rw [if_pos hkind]
    refine (congrArg (fun t : State => t.setPort p (fun x => { x with devLeft := x.devLeft ++ [(d.msg (s.port p).devTag).tag] })) hgone).trans ?_
    rw [State.setPort_setPort]
    refine State.setPort_congr r ?_
    rw [hport, hg]
    unfold PortSt.delivered
    rw [if_neg hkind]
    rfl

end

/-- A device request is with its agent, and the port's requests that await an answer are `out`. -/
structure DevGone (s t : State) (p : Port) (d : DevReq) (rest out : List DevReq) : Prop where
  sends : Sends s t [.agent p (d.msg (s.port p).devTag)]
  queue : (t.port p).dreqQ = rest
  cred : (t.port p).dreqCred = (s.port p).dreqCred - 1
  out : (t.port p).dreqOut = out
  frame : t = { s with ports := t.ports, mon := t.mon, sent := t.sent }
  still : Still t

theorem port_pointReached (s : State) (q p : Port) (id : Nat) : ((s.pointReached q id).port p).dreqQ = (s.port p).dreqQ ∧
    ((s.pointReached q id).port p).dreqCred = (s.port p).dreqCred ∧ ((s.pointReached q id).port p).dreqOut = (s.port p).dreqOut := by
  unfold State.pointReached
  by_cases hqp : q = p
  · subst hqp
    rw [State.port_setPort]
    exact ⟨rfl, rfl, rfl⟩
  · rw [State.port_setPort_of_ne _ hqp]
    exact ⟨rfl, rfl, rfl⟩

theorem points_pointReached (s : State) (q : Port) (id : Nat) : ∀ o ∈ ((s.pointReached q id).port q).points, o.id ≠ id := by
  unfold State.pointReached
  rw [State.port_setPort]
  intro o ho
  simpa using (List.mem_filter.1 ho).2

theorem DevGone.pointReached {out : List DevReq} {t : State} (h : DevGone s t p d rest out) (q : Port) (id : Nat) :
    DevGone s (t.pointReached q id) p d rest out := by
  obtain ⟨hqueue, hcred, hout⟩ := port_pointReached t q p id
  exact {
    sends := h.sends
    queue := hqueue.trans h.queue
    cred := hcred.trans h.cred
    out := hout.trans h.out
    frame := congrArg (fun u : State => u.pointReached q id) h.frame
    still := still_pointReached h.still q id }

/-- The state before the points of the writes that have left are told. -/
theorem devGone_settled (hstill : Still s) (y : LinkSt) (n : Monitor) (out : List DevReq) :
    DevGone s ((s.devDelivered p d rest y n).setPort p (fun x => { x with devLeft := [], dreqOut := out })) p d rest out := by
  unfold State.devDelivered
  obtain ⟨r, hr⟩ : ∃ r : State, r = { s with mon := n, sent := s.sent ++ [.agent p (d.msg (s.port p).devTag)] } := ⟨_, rfl⟩
  have hport : r.port p = s.port p := by rw [hr]; rfl
  have hstill' : Still r := still_congr hstill (by rw [hr])
  have hsent : r.sent = s.sent ++ [.agent p (d.msg (s.port p).devTag)] := by rw [hr]
  have hframe : r = { s with ports := r.ports, mon := r.mon, sent := r.sent } := by rw [hr]
  rw [← hr, State.setPort_setPort]
  refine { sends := ?_, queue := ?_, cred := ?_, out := ?_, frame := ?_, still := still_setPort hstill' p rfl rfl }
  · show r.sent.filter _ = _
    rw [hsent, List.filter_append]
    rfl
  · rw [State.port_setPort]
    rfl
  · rw [State.port_setPort, hport]
    rfl
  · rw [State.port_setPort]
  · rw [hframe]
    rfl

theorem devGone_read (hkind : d.kind = .dRd) (hleft : (s.port p).devLeft = []) (y : LinkSt) (n : Monitor) :
    (s.devDelivered p d rest y n).devGone p = (s.devDelivered p d rest y n).setPort p (fun x =>
      { x with devLeft := [], dreqOut := (s.port p).dreqOut ++ [{ d with tag := (s.port p).devTag }] }) := by
  have hport : (s.devDelivered p d rest y n).port p = (s.port p).delivered d rest y := State.port_setPort _ _ _
  unfold State.devGone
  rw [hport]
  have hnone : ((s.port p).delivered d rest y).devLeft = [] := by
    unfold PortSt.delivered
    rw [if_pos hkind, hleft]
  rw [hnone]
  refine State.setPort_congr _ ?_
  rw [hport]
  rfl

/-- What the last slot of a write does: a posted one has ended, another one's point is reached. -/
theorem devGone_write (hstill : Still s) (hkind : d.kind ≠ .dRd) (hleft : (s.port p).devLeft = [])
    (hfree : ∀ x ∈ (s.port p).dreqOut, x.tag ≠ (s.port p).devTag) (y : LinkSt) (n : Monitor) :
    (d.kind ≠ .dWrP → DevGone s ((s.devDelivered p d rest y n).devGone p) p d rest
      ((s.port p).dreqOut ++ [{ d with tag := (s.port p).devTag }])) ∧
    (∀ q tag pt, d.kind = .dWrP → d.src = .agent q tag pt → (s.devDelivered p d rest y n).devGone p =
      ((s.devDelivered p d rest y n).setPort p (fun x => { x with devLeft := [], dreqOut := (s.port p).dreqOut })).pointReached q pt) := by
  have hsettled := devGone_settled (p := p) (d := d) (rest := rest) hstill y n
  revert hsettled
  obtain ⟨w, hw⟩ : ∃ w, w = s.devDelivered p d rest y n := ⟨_, rfl⟩
  have hport : w.port p = (s.port p).delivered d rest y := by
    rw [hw]
    exact State.port_setPort _ _ _
  have hone : (w.port p).devLeft = [(s.port p).devTag] := by
    rw [hport]
    unfold PortSt.delivered
    rw [if_neg hkind, hleft]
    rfl
  have hout : ((w.setPort p (fun x => { x with devLeft := [] })).port p).dreqOut =
      (s.port p).dreqOut ++ [{ d with tag := (s.port p).devTag }] := by
    rw [State.port_setPort, hport]
    rfl
  have hkept : w.setPort p (fun x => { x with devLeft := [] }) = w.setPort p (fun x =>
      { x with devLeft := [], dreqOut := (s.port p).dreqOut ++ [{ d with tag := (s.port p).devTag }] }) := by
    refine State.setPort_congr w ?_
    rw [hport]
    rfl
  have htake : takeFirst (fun (x : DevReq) => x.tag == (s.port p).devTag && x.kind != .dRd)
      ((s.port p).dreqOut ++ [{ d with tag := (s.port p).devTag }]) = some ({ d with tag := (s.port p).devTag }, (s.port p).dreqOut) :=
    takeFirst_append_of_none (fun x hx => by simp [hfree x hx]) (by simp [hkind])
  rw [← hw]
  intro hsettled
  refine ⟨fun hposted => ?_, fun q tag pt hposted hsrc => ?_⟩
  · unfold State.devGone
    rw [hone]
    simp only [List.foldl_cons, List.foldl_nil]
    rw [hout, htake]
    dsimp only
    rw [if_neg hposted, hkept]
    split
    · exact (hsettled _).pointReached _ _
    · exact hsettled _
  · unfold State.devGone
    rw [hone]
    simp only [List.foldl_cons, List.foldl_nil]
    rw [hout, htake]
    dsimp only
    rw [if_pos hposted, State.setPort_setPort]
    unfold State.devEnd
    dsimp only
    rw [hsrc]
    dsimp only
    rw [if_pos hposted]

/-! ### The clauses -/

/-- A device request goes to its agent, and nothing waits at a front end for that. -/
theorem Does.of_delivery {out : List DevReq} {P : State → Prop} (hgone : ∃ t, opMmioDelivery p s = t ∧ DevGone s t p d rest out ∧ P t) :
    Does (.mmioDelivery p) s (fun t => (Sends s t [.agent p (d.msg (s.port p).devTag)] ∧ (t.port p).dreqQ = rest ∧
      (t.port p).dreqCred = (s.port p).dreqCred - 1 ∧ t = { s with ports := t.ports, mon := t.mon, sent := t.sent }) ∧
      (t.port p).dreqOut = out ∧ P t) := by
  obtain ⟨t, hop, h, hP⟩ := hgone
  have hexec : exec (.mmioDelivery p) s = .next t :=
    congrArg Host.Outcome.next ((congrArg State.frontAll hop).trans (State.frontAll_of_still h.still))
  exact Does.of_exec hexec ⟨⟨h.sends, h.queue, h.cred, h.frame⟩, h.out, hP⟩

/-- An agent's access to a window ends with an answer to the agent. -/
theorem devEnd_answers {q : Port} {tag : Tag} {pt : Nat} {data : Option CodeLine} {stat : Nat} {m : AgentMsg} (hstill : Still s)
    (hacc : s.accepts q = true) (hend : s.tagEnded q tag = false) (hclear : Clear s (.port q))
    (f : PortSt → PortSt) (hkeep : ∀ x, (f x).front = x.front ∧ (f x).ptu = x.ptu ∧ (f x).link = x.link ∧ (f x).tags = x.tags)
    (hans : ∀ u : State, u.devEnd p d data stat = (u.pointReached q pt).answer q m) (hresp : m.isResponse = true) (htag : m.tag = tag) :
    ((s.setPort p f).devEnd p d data stat).frontAll = (s.setPort p f).devEnd p d data stat ∧
      (((s.setPort p f).devEnd p d data stat).port p).dreqQ = (f (s.port p)).dreqQ ∧
      (((s.setPort p f).devEnd p d data stat).port p).dreqOut = (f (s.port p)).dreqOut ∧
      ∃ nb, Sends s ((s.setPort p f).devEnd p d data stat) [.agent q { m with nb := nb }] := by
  obtain ⟨hfront, hptu, hlink, htags⟩ := hkeep (s.port p)
  have hstill' : Still (s.setPort p f) := still_setPort hstill p hfront (congrArg PtuSt.anyDue hptu)
  have hsame := sameDev_devEnd (s.setPort p f) p d data stat
  have hq := (hsame.port p).queue
  have hout := (hsame.port p).out
  rw [State.port_setPort] at hq hout
  have hhush : Hush q s ((s.setPort p f).pointReached q pt) := (hush_setPort s p hlink htags).trans (hushed_point q pt _)
  obtain ⟨nb, hsends⟩ := State.answer_sends (m := m) (hhush.accepts.trans hacc) (hhush.clear hclear)
    ((hhush.ended _).trans (by rw [htag]; exact hend)) hresp
  refine ⟨State.frontAll_of_still (hsame.still hstill'), hq, hout, nb, ?_⟩
  rw [hans]
  exact hsends.trans (congrArg (· ++ _) hhush.sent)

theorem devEnd_cmp {q : Port} {tag : Tag} {pt : Nat} (hsrc : d.src = .agent q tag pt) (hkind : d.kind ≠ .dWrP) (stat : Nat) (u : State) :
    u.devEnd p d none stat = (u.pointReached q pt).answer q (cmpMsg tag 0 stat) := by
  unfold State.devEnd
  rw [hsrc]
  dsimp only
  rw [if_neg hkind]

theorem devEnd_data {q : Port} {tag : Tag} {pt : Nat} (hsrc : d.src = .agent q tag pt) (hkind : d.kind ≠ .dWrP) (cl : CodeLine) (u : State) :
    u.devEnd p d (some cl) 0 = (u.pointReached q pt).answer q
      (partMsg { src := .agent q, op := .rdC, line := 0, tag := tag, off := d.addr.extractLsb' 0 7, sz := d.sz } cl) := by
  unfold State.devEnd
  rw [hsrc]
  dsimp only
  rw [if_neg hkind, if_pos rfl]

/-- The request that a tag answers. -/
theorem takeFirst_answered {rest : List DevReq} (htake : takeFirst (fun (x : DevReq) => x.tag == d.tag) (s.port p).dreqOut = some (d, rest))
    (hkind : d.kind ≠ .dWrP) :
    takeFirst (fun (x : DevReq) => x.tag == d.tag && x.kind != .dWrP) (s.port p).dreqOut = some (d, rest) :=
  takeFirst_of_imp (fun y hy => (Bool.and_eq_true_iff.1 hy).1) htake (by simp [hkind])

theorem opDevAnswer_eq {rest : List DevReq} (htake : takeFirst (fun (x : DevReq) => x.tag == d.tag) (s.port p).dreqOut = some (d, rest))
    (hkind : d.kind ≠ .dWrP) (data : Option CodeLine) (stat : Nat) :
    opDevAnswer p d.tag data stat s = (s.setPort p (fun x => { x with dreqOut := rest })).devEnd p d data stat := by
  unfold opDevAnswer
  rw [takeFirst_answered htake hkind]

/-- A device request of another node joins the queue of the window's owner. -/
theorem nodeMmio_joins {h : FabHdr} {sa : SysAddr} {w : BitVec 4} (hown : s.ownerOf w.toNat = p.val) (hon : s.kind p ≠ .off)
    (halive : s.dead p = false) (kind : DevKind) (sz : BitVec 3) (x : StoreData) :
    s.nodeMmio h sa w kind sz x = s.setPort p (fun y => { y with dreqQ := y.dreqQ ++
      [{ src := .node h.src h.rtrk, kind := kind, window := w, addr := sa.extractLsb' 0 36, sz := sz, data := x }] }) := by
  have hfin : (Fin.ofNat 6 p.val : Port) = p := Fin.ext (Nat.mod_eq_of_lt p.isLt)
  unfold State.nodeMmio
  dsimp only
  rw [hown, if_neg (Nat.not_le.2 p.isLt), hfin, if_neg (by simp [hon]), if_neg (by simp [halive])]

end

/-- Settles O17. -/
theorem deviceRequestsAreServed : Obligations.DeviceRequestsAreServed := by
  unfold Obligations.DeviceRequestsAreServed
  intro s p hstill
  refine ⟨fun d rest hq halive hactive hacc hcred hclear hleft hfree => ?_, fun d rest q tag pt hq hdead hsrc hkind hacc hend hclear => ?_,
    fun d rest q tag pt htake hsrc hacc hend hclear => ⟨fun hkind stat => ?_, fun hkind x => ?_⟩,
    fun d rest n rtrk stat htake hsrc hkind => ?_, fun h off w => ?_⟩
  · obtain ⟨y, n, hop⟩ := opMmioDelivery_eq hq halive hactive hacc hcred hclear
    have hsettled := devGone_settled (p := p) (d := d) (rest := rest) hstill y n
    refine ⟨fun hkind => ?_, fun q tag pt hkind hsrc => ?_⟩
    · have hgone : DevGone s ((s.devDelivered p d rest y n).devGone p) p d rest
          ((s.port p).dreqOut ++ [{ d with tag := (s.port p).devTag }]) := by
        by_cases hread : d.kind = .dRd
        · rw [devGone_read hread hleft]
          exact hsettled _
        · exact (devGone_write hstill hread hleft hfree y n).1 hkind
      exact Does.mono (Does.of_delivery (P := fun _ => True) ⟨_, hop, hgone, trivial⟩) fun t ⟨hd, hout, _⟩ => ⟨hd, hout⟩
    · have hwrite : d.kind ≠ .dRd := by rw [hkind]; decide
      have heq := (devGone_write (rest := rest) hstill hwrite hleft hfree y n).2 q tag pt hkind hsrc
      exact Does.of_delivery ⟨_, hop.trans heq, (hsettled _).pointReached q pt, points_pointReached _ q pt⟩
  · obtain ⟨hfix, hqueue, -, nb, hsends⟩ := devEnd_answers (p := p) hstill hacc hend hclear (fun x => { x with dreqQ := rest })
      (fun _ => ⟨rfl, rfl, rfl, rfl⟩) (devEnd_cmp hsrc hkind 4) rfl rfl
    have hop : opMmioDelivery p s = (s.setPort p (fun x => { x with dreqQ := rest })).devEnd p d none 4 := by
      unfold opMmioDelivery
      rw [hq]
      dsimp only
      rw [if_pos hdead]
    have hexec : exec (.mmioDelivery p) s = .next ((s.setPort p (fun x => { x with dreqQ := rest })).devEnd p d none 4) :=
      congrArg Host.Outcome.next ((congrArg State.frontAll hop).trans hfix)
    exact Does.of_exec hexec ⟨hqueue, nb, hsends⟩
  · have hposted : d.kind ≠ .dWrP := by rw [hkind]; decide
    obtain ⟨hfix, -, hout, nb, hsends⟩ := devEnd_answers (p := p) hstill hacc hend hclear (fun x => { x with dreqOut := rest })
      (fun _ => ⟨rfl, rfl, rfl, rfl⟩) (devEnd_cmp hsrc hposted stat.toNat) rfl rfl
    have hexec : exec (.dcmp p d.tag stat) s = .next ((s.setPort p (fun x => { x with dreqOut := rest })).devEnd p d none stat.toNat) :=
      congrArg Host.Outcome.next ((congrArg State.frontAll (opDevAnswer_eq htake hposted none stat.toNat)).trans hfix)
    have hmsg : cmpMsg tag 0 stat.toNat = { opc := opCmp, tag := tag, stat := stat } := by
      unfold cmpMsg
      rw [BitVec.ofNat_toNat, BitVec.setWidth_eq]
      rfl
    rw [hmsg] at hsends
    exact Does.of_exec hexec ⟨hout, nb, hsends⟩
  · have hposted : d.kind ≠ .dWrP := by rw [hkind]; decide
    obtain ⟨hfix, -, hout, nb, hsends⟩ := devEnd_answers (p := p) hstill hacc hend hclear (fun x => { x with dreqOut := rest })
      (fun _ => ⟨rfl, rfl, rfl, rfl⟩) (devEnd_data hsrc hposted (encodeLine x.bytes x.poison)) rfl rfl
    have hexec : exec (.ddata p d.tag 0 x) s =
        .next ((s.setPort p (fun x => { x with dreqOut := rest })).devEnd p d (some (encodeLine x.bytes x.poison)) 0) :=
      congrArg Host.Outcome.next
        ((congrArg State.frontAll (opDevAnswer_eq htake hposted (some (encodeLine x.bytes x.poison)) 0)).trans hfix)
    have hoff : (d.addr.extractLsb' 0 7).toNat = d.addr.toNat % 128 := by simp [BitVec.extractLsb'_toNat]
    exact Does.of_exec hexec ⟨hout, _, hsends, rfl, rfl, congrArg (fun o => bytesAt _ o _) hoff⟩
  · have hposted : d.kind ≠ .dWrP := by rw [hkind]; decide
    intro l
    have hend : (s.setPort p (fun x => { x with dreqOut := rest })).devEnd p d none stat.toNat =
        (s.setPort p (fun x => { x with dreqOut := rest })).devReply (.port p) n rtrk l none stat.toNat := by
      unfold State.devEnd
      rw [hsrc]
      dsimp only
      rw [if_neg (by rw [hkind]; decide)]
      rfl
    have hstill' : Still (s.setPort p (fun x => { x with dreqOut := rest })) := still_setPort hstill p rfl rfl
    have hfix := State.frontAll_of_still ((sameDev_devReply (s.setPort p (fun x => { x with dreqOut := rest })) (.port p) n rtrk l none
      stat.toNat).still hstill')
    have hexec : exec (.dcmp p d.tag stat) s =
        .next ((s.setPort p (fun x => { x with dreqOut := rest })).devReply (.port p) n rtrk l none stat.toNat) :=
      congrArg Host.Outcome.next ((congrArg State.frontAll ((opDevAnswer_eq htake hposted none stat.toNat).trans hend)).trans hfix)
    exact Does.of_exec hexec rfl
  · intro sa hnode hspace hown hon halive joins
    have hjoin (kind : DevKind) (sz : BitVec 3) (x : StoreData) {i : Instr} (hexec : exec i s = .next (s.nodeMmio h sa w kind sz x)) :
        Does i s (joins kind sz x) := by
      rw [nodeMmio_joins hown hon halive] at hexec
      refine Does.of_exec hexec ⟨by rw [State.port_setPort], fun q hqp => State.port_setPort_of_ne s (Ne.symm hqp) _, rfl⟩
    have hread (sz : BitVec 3) : opFdevrd h off sz s = s.nodeMmio h sa w .dRd sz { bytes := 0, mask := 0, poison := 0 } := by
      unfold opFdevrd
      dsimp only
      rw [if_neg (not_not.2 hnode), hspace]
    have hwrite (x : StoreData) (pst : Bool) : opFdevwr h off x pst s = s.nodeMmio h sa w (if pst then .dWrP else .dWrN) 7 x := by
      unfold opFdevwr
      dsimp only
      rw [if_neg (not_not.2 hnode), hspace]
    exact ⟨fun sz => hjoin _ _ _ (congrArg Host.Outcome.next (hread sz)),
      fun x pst => hjoin _ _ _ (congrArg Host.Outcome.next (hwrite x pst))⟩

end Sys2Proof.Machine
end

section
/-! PROOFS. Dead agents (R226 to R229). -/

namespace Sys2Proof.Machine
open Sys2Proof

/-! ### A dead agent -/

theorem beside_devEnd (s : State) (o : Port) (d : DevReq) (data : Option CodeLine) (stat : Nat) : Beside s (s.devEnd o d data stat) := by
  unfold State.devEnd
  split
  · next p tag point _ =>
    have hpoint := beside_pointReached s p point
    dsimp only
    split
    · exact hpoint
    · split
      · split
        · exact hpoint.trans (beside_answer _ _ _)
        · exact hpoint.trans (beside_answer _ _ _)
      · exact hpoint.trans (beside_answer _ _ _)
  · dsimp only
    split
    · exact beside_sendFabric s _ _
    · exact beside_sendFabric s _ _

/-- The port after step 3 of Table 6.11. -/
def PortSt.bereft (x : PortSt) : PortSt :=
  { x with credits := [], snpWait := [], dreqQ := [], dreqOut := [], devLeft := [], poisoned := false }

/-- The state of a dead agent's port and registers before its device requests are answered. -/
def State.agentDead (s : State) (p : Port) (cause : Nat) : State :=
  (((s.wf (F.AGP_DEAD_CTL.DEAD p) 1).wf (F.AGP_DEAD_CTL.CAUSE p) cause).raiseBare 98 (unitPort p)).setPort p PortSt.bereft

section
variable {s : State} {p : Port}

/-- The agent is dead, its cause shown, EV098 raised, and its port gives and owes nothing. -/
structure AgentDead (s : State) (p : Port) (cause : Nat) : Prop where
  dead : s.dead p = true
  cause : s.rf (F.AGP_DEAD_CTL.CAUSE p) = cause
  raised : Raised s 98
  credits : (s.port p).credits = []
  queue : (s.port p).dreqQ = []
  out : (s.port p).dreqOut = []
  snoops : (s.port p).snpWait = []

theorem agentDead_spec (hreg : Inv.registers s) {cause : Nat} (hcause : cause < 4) : AgentDead (s.agentDead p cause) p cause := by
  have hport : (s.agentDead p cause).port p = (s.port p).bereft := State.port_setPort _ _ _
  have hwf := State.wf_regs_wf hreg (F.AGP_DEAD_CTL.DEAD p) 1
  have hraised : Raised (s.agentDead p cause) 98 := by
    unfold State.agentDead
    generalize (s.wf (F.AGP_DEAD_CTL.DEAD p) 1).wf (F.AGP_DEAD_CTL.CAUSE p) cause = r
    exact State.raiseBare_pend r 98 (unitPort p) (by decide)
  have hdead : (s.agentDead p cause).rf (F.AGP_DEAD_CTL.DEAD p) = 1 :=
    (State.rf_wf_field hwf (F.AGP_DEAD_CTL.CAUSE p) (F.AGP_DEAD_CTL.DEAD p) cause (.inl (le_refl 1))).trans
      (State.rf_wf_same hreg (F.AGP_DEAD_CTL.DEAD p) 1 (by show 0 + 1 ≤ 32; omega))
  have hshown : (s.agentDead p cause).rf (F.AGP_DEAD_CTL.CAUSE p) = cause % 2 ^ 2 :=
    State.rf_wf_same hwf (F.AGP_DEAD_CTL.CAUSE p) cause (by show 1 + 2 ≤ 32; omega)
  exact {
    dead := congrArg (· != 0) hdead
    cause := hshown.trans (Nat.mod_eq_of_lt hcause)
    raised := hraised
    credits := congrArg PortSt.credits hport
    queue := congrArg PortSt.dreqQ hport
    out := congrArg PortSt.dreqOut hport
    snoops := congrArg PortSt.snpWait hport }

theorem State.agentDead_frame (s : State) (p : Port) (cause : Nat) : s.agentDead p cause =
    { s with regs := (s.agentDead p cause).regs, ports := (s.agentDead p cause).ports, mon := (s.agentDead p cause).mon } := by
  unfold State.agentDead State.raiseBare State.raiseLog
  obtain ⟨r, hr⟩ : ∃ r, r = (s.wf (F.AGP_DEAD_CTL.DEAD p) 1).wf (F.AGP_DEAD_CTL.CAUSE p) cause := ⟨_, rfl⟩
  have hframe : r = { s with regs := r.regs } := by
    rw [hr]
    rfl
  rw [← hr, hframe]
  rfl

theorem AgentDead.keep {t u : State} {cause : Nat} (h : AgentDead t p cause) (hsame : SameDev t u) (hraised : ∀ ev, Raised t ev → Raised u ev) :
    AgentDead u p cause where
  dead := (State.rb_congr hsame.regs _).trans h.dead
  cause := (State.rf_congr hsame.regs _).trans h.cause
  raised := hraised 98 h.raised
  credits := (hsame.port p).credits.trans h.credits
  queue := (hsame.port p).queue.trans h.queue
  out := (hsame.port p).out.trans h.out
  snoops := (hsame.port p).snoops.trans h.snoops

/-- The device requests that a dead agent's window owed are answered, and the engine is woken. -/
theorem State.declareDead_eq (hon : s.kind p ≠ .off) (halive : s.dead p = false) (cause : Nat) : s.declareDead p cause =
    (((s.port p).dreqOut ++ (s.port p).dreqQ).foldl (fun s d => s.devEnd p d none 4) (s.agentDead p cause)).runCoh Coh.woken := by
  unfold State.declareDead
  rw [if_neg (by simp [hon, halive])]
  rfl

theorem State.declareDead_spec (hreg : Inv.registers s) (hon : s.kind p ≠ .off) (halive : s.dead p = false) {cause : Nat} (hcause : cause < 4) :
    ∃ u : State, s.declareDead p cause = u.runCoh Coh.woken ∧ AgentDead u p cause ∧ u.coh = s.coh := by
  have hbeside := Beside.foldl (fun s d => beside_devEnd s p d none 4) ((s.port p).dreqOut ++ (s.port p).dreqQ) (s.agentDead p cause)
  have hsame := SameDev.foldl (fun s d => sameDev_devEnd s p d none 4) ((s.port p).dreqOut ++ (s.port p).dreqQ) (s.agentDead p cause)
  exact ⟨_, State.declareDead_eq hon halive cause, (agentDead_spec hreg hcause).keep hsame hbeside.raised, hbeside.coh⟩

/-- An idle engine that is woken goes back to sleep. -/
theorem State.runCoh_woken (hidle : Idle s) : s.runCoh Coh.woken = { s with coh := Asleep s.coh } := by
  obtain ⟨hquiet, hretire, hfx, hdead⟩ := hidle
  exact State.runCoh_quiet s _ hquiet hretire hfx hdead

theorem State.declareDead_alone (hidle : Idle s) (hon : s.kind p ≠ .off) (halive : s.dead p = false) (hout : (s.port p).dreqOut = [])
    (hqueue : (s.port p).dreqQ = []) (cause : Nat) :
    s.declareDead p cause = { s.agentDead p cause with coh := Asleep s.coh } := by
  rw [State.declareDead_eq hon halive, hout, hqueue]
  exact State.runCoh_woken (s := s.agentDead p cause) hidle

/-- An instruction that declares the agent dead. -/
theorem Does.declares {i : Instr} {cause : Nat} (hexec : exec i s = .next (s.declareDead p cause)) (hreg : Inv.registers s)
    (hon : s.kind p ≠ .off) (halive : s.dead p = false) (hcause : cause < 4) :
    ∃ u : State, exec i s = .next (u.runCoh Coh.woken) ∧ (u.dead p = true ∧ u.rf (F.AGP_DEAD_CTL.CAUSE p) = cause ∧ Raised u 98 ∧
      (u.port p).credits = [] ∧ (u.port p).dreqQ = [] ∧ (u.port p).dreqOut = [] ∧ (u.port p).snpWait = []) ∧ u.coh = s.coh := by
  obtain ⟨u, heq, hu, hcoh⟩ := State.declareDead_spec hreg hon halive hcause
  exact ⟨u, hexec.trans (congrArg _ heq), ⟨hu.dead, hu.cause, hu.raised, hu.credits, hu.queue, hu.out, hu.snoops⟩, hcoh⟩

/-- With an idle engine and no device request nothing else changes. -/
theorem State.declareDead_alone_spec (hreg : Inv.registers s) (hon : s.kind p ≠ .off) (halive : s.dead p = false) {cause : Nat}
    (hcause : cause < 4) (hidle : Idle s) (hout : (s.port p).dreqOut = []) (hqueue : (s.port p).dreqQ = []) :
    ∃ t : State, s.declareDead p cause = t ∧ AgentDead t p cause ∧
      t = { s with regs := t.regs, ports := t.ports, coh := Asleep s.coh, mon := t.mon } := by
  obtain ⟨r, hr⟩ : ∃ r, r = s.agentDead p cause := ⟨_, rfl⟩
  have hdead : AgentDead r p cause := hr ▸ agentDead_spec hreg hcause
  have hframe : r = { s with regs := r.regs, ports := r.ports, mon := r.mon } := hr ▸ s.agentDead_frame p cause
  have heq := State.declareDead_alone hidle hon halive hout hqueue cause
  rw [← hr] at heq
  have hsame : SameDev r { r with coh := Asleep s.coh } := {}
  refine ⟨_, heq, hdead.keep hsame (fun ev hev => hev), ?_⟩
  exact congrArg (fun u : State => { u with coh := Asleep s.coh }) hframe

/-- The walk of a dead agent ends where no entry names it and nothing of it is in service. -/
theorem opDeadAgentWalk_ends (hdead : s.dead p = true) (hleft : s.rb (F.AGP_DEAD_CTL.RECLAIMED p) = false) (hidle : Idle s)
    (hnaming : s.coh.naming p = []) (hfront : (s.port p).front = []) :
    opDeadAgentWalk p s = (({ s with coh := Asleep s.coh } : State).wb (F.AGP_DEAD_CTL.RECLAIMED p) true).raise 99 (unitPort p) := by
  obtain ⟨hwait, htxns, -⟩ := Coh.quiet_lists hidle.1
  have hrun : s.runCoh (fun c => ((c.naming p).foldl (fun c k => c.reclaimEntry s p k) c).woken) = { s with coh := Asleep s.coh } := by
    have hf : ((s.coh.naming p).foldl (fun c k => c.reclaimEntry s p k) s.coh).woken = s.coh.woken := by rw [hnaming]; rfl
    obtain ⟨hquiet, hretire, hfx, hnodes⟩ := hidle
    rw [State.runCoh_quiet s _ (by rw [hf]; exact hquiet) (by rw [hf]; exact hretire) (by rw [hf]; exact hfx) hnodes, hf]
    rfl
  unfold opDeadAgentWalk
  rw [if_neg (by simp [hdead, hleft]), hrun]
  dsimp only
  have hnaming' : (Asleep s.coh).naming p = [] := hnaming
  have htxns' : (Asleep s.coh).txns = [] := htxns
  have hwait' : (Asleep s.coh).wait = [] := hwait
  have hfront' : (({ s with coh := Asleep s.coh } : State).port p).front = [] := hfront
  rw [hnaming', htxns', hwait', hfront']
  rfl

end

/-- Settles O19. -/
theorem agentsDie : Obligations.AgentsDie := by
  unfold Obligations.AgentsDie
  refine ⟨fun s p hinv hon halive => ?_, fun s p hinv hdead hleft hidle hnaming hfront => ?_⟩
  · obtain ⟨-, hreg, -⟩ := hinv
    intro dies declared alone
    have hdeclared {i : Instr} {cause : Nat} (hcause : cause < 4) (hexec : exec i s = .next (s.declareDead p cause)) : declared cause i :=
      Does.declares hexec hreg hon halive hcause
    have halone {i : Instr} {cause : Nat} (hcause : cause < 4) (hexec : exec i s = .next (s.declareDead p cause)) : alone cause i :=
      fun hidle hout hqueue => by
        obtain ⟨t, heq, ht, hframe⟩ := State.declareDead_alone_spec hreg hon halive hcause hidle hout hqueue
        exact Does.of_exec (hexec.trans (congrArg _ heq))
          ⟨⟨ht.dead, ht.cause, ht.raised, ht.credits, ht.queue, ht.out, ht.snoops⟩, hframe⟩
    refine ⟨fun tag x hx hlate => ?_, fun at_ hat hlate => ?_, fun v hserve hbit hkey => ?_⟩
    · refine hdeclared (by decide) (congrArg Host.Outcome.next ?_)
      unfold opSnoopTimeout
      rw [hx]
      exact if_pos hlate
    · have hexec : exec (.linkRetrainTimeout p) s = .next (s.declareDead p 2) := by
        refine congrArg Host.Outcome.next ?_
        unfold opLinkRetrainTimeout
        rw [hat]
        exact if_pos hlate
      exact ⟨hdeclared (by decide) hexec, halone (by decide) hexec⟩
    · have hexec : exec (.agpDeadCtlDeclare p v) s = .next (s.declareDead p 3) :=
        congrArg Host.Outcome.next ((State.onReg_of_serving hserve _).trans (if_pos (by simp [hbit, hkey])))
      exact ⟨hdeclared (by decide) hexec, halone (by decide) hexec⟩
  · obtain ⟨-, hreg, -⟩ := hinv
    have hreg' : Inv.registers ({ s with coh := Asleep s.coh } : State) := hreg
    refine Does.of_exec (congrArg Host.Outcome.next (opDeadAgentWalk_ends hdead hleft hidle hnaming hfront)) ⟨?_, ?_, rfl⟩
    · exact State.rb_wb_same hreg' (F.AGP_DEAD_CTL.RECLAIMED p) true (by show 3 + 1 ≤ 32; omega) rfl
    · exact State.raise_pend _ 99 _ (by decide)

end Sys2Proof.Machine
end

section
/-! PROOFS. Dead nodes (R230 to R232). -/

namespace Sys2Proof.Machine
open Sys2Proof

/-! ### The declaration -/

section
variable {s : State} {n : NodeId}

theorem State.declareNode_spec (hself : n.toNat ≠ s.node) (hnew : s.deadNodes.contains n.toNat = false) :
    (s.declareNode n.toNat).deadNodes = s.deadNodes ++ [n.toNat] ∧ (s.declareNode n.toNat).deadWalks = s.deadWalks ++ [n.toNat] ∧
      Raised (s.declareNode n.toNat) 101 := by
  obtain ⟨u, hu⟩ : ∃ u : State, u = ({ s with
    deadNodes := s.deadNodes ++ [n.toNat]
    deadWalks := s.deadWalks ++ [n.toNat] } : State).raiseLog 101 (unitHub 0) (formA 0 reqNode 0 n.toNat []) := ⟨_, rfl⟩
  have heq : s.declareNode n.toNat = u.runCoh Coh.woken := by
    unfold State.declareNode
    rw [if_neg (by simp [hself]; simpa using hnew), hu]
  have hnodes : u.deadNodes = s.deadNodes ++ [n.toNat] := by
    rw [hu]
    rfl
  have hwalks : u.deadWalks = s.deadWalks ++ [n.toNat] := by
    rw [hu]
    rfl
  have hraised : Raised u 101 := by
    rw [hu]
    exact State.raiseLog_pend _ 101 _ _ (by decide)
  have haround := around_runCoh u Coh.woken
  rw [heq]
  exact ⟨haround.deadNodes.trans hnodes, haround.deadWalks.trans hwalks, haround.raised 101 hraised⟩

theorem opNodeTimeout_declares (hin : s.inFabric n.toNat = true) {noRoute : Bool}
    (hlost : (if noRoute then s.noRoute n.toNat
      else (s.coh.awaiting s n).any (fun x => decide (x + max 1 (s.rf F.GLB_COH_TMO.NODE_T) * 10000 ≤ s.fine))) = true) :
    opNodeTimeout n noRoute s = s.declareNode n.toNat := by
  unfold opNodeTimeout
  exact if_pos (Bool.and_eq_true_iff.2 ⟨hin, hlost⟩)

end

/-! ### The walk -/

/-- With nothing under way and no entry that could name a node the dead nodes give the engine nothing to do. -/
theorem Coh.deadNodes_of_empty {c : Coh} {e : State} (hquiet : c.quiet = true) (hdir : c.dir = []) (hpress : c.press = [])
    (hhamper : c.hamper = []) (hlines : ∀ n ∈ e.deadWalks, c.deadLines e n = []) : c.deadNodes e = c := by
  obtain ⟨hwait, htxns, hnode, hhome, hset, -, -, -, hout, hhw, -⟩ := Coh.quiet_lists hquiet
  have hasHome : c.deadAsHome e = c := by
    unfold Coh.deadAsHome
    dsimp only
    rw [hhome]
    simp only [List.filter_nil, List.foldl_nil]
    rw [hset]
    cases c
    cases hhome
    cases hset
    rfl
  have hasDir : c.deadDir e = c := by
    unfold Coh.deadDir
    rw [hdir]
    rfl
  have hasRequester : c.deadAsRequester e = c := by
    have hhampers : c.hampers = [] := by
      unfold Coh.hampers
      rw [hhamper, hhw]
      rfl
    unfold Coh.deadAsRequester
    dsimp only
    rw [hout]
    simp only [List.filter_nil, List.foldl_nil]
    rw [htxns]
    simp only [List.filter_nil, List.foldl_nil]
    rw [hnode]
    simp only [List.filter_nil, List.foldl_nil]
    rw [hpress]
    simp only [List.filter_nil, List.foldl_nil]
    rw [hhampers]
    simp only [List.filter_nil, List.foldl_nil]
    rw [hwait]
    simp only [List.filter_nil, List.foldl_nil]
    cases c
    cases hwait
    rfl
  have hwalk : c.deadWalk e = c := by
    unfold Coh.deadWalk
    have hall : ∀ l : List Nat, (∀ n ∈ l, c.deadLines e n = []) → l.foldl (fun (c : Coh) (n : Nat) =>
        (c.deadLines e n).foldl (fun (c : Coh) (l : LineAddr) =>
          if c.lockedLine l then c
          else
            let ps := allNamed (c.snfOf l) opSnpU
            if ps.isEmpty then
              let m := isMod (c.nodeState e l)
              (c.dropNodeCopy e l).sctr (sliceOf l) 0x2F m.toNat
            else c.startFlow e l .deadNode ps) c) c = c := by
      intro l
      induction l with
      | nil => exact fun _ => rfl
      | cons n l ih =>
        intro hl
        rw [List.foldl_cons, hl n List.mem_cons_self]
        exact ih (fun m hm => hl m (List.mem_cons_of_mem n hm))
    exact hall e.deadWalks hlines
  unfold Coh.deadNodes
  split
  · rfl
  · rw [hasHome, hasDir, hasRequester, hwalk]

theorem Coh.round_of_dead {c : Coh} {e : State} (hquiet : c.quiet = true)
    (hdead : (({ c with wake := false } : Coh).deadNodes e) = { c with wake := false }) : c.round e = { c with wake := false } := by
  obtain ⟨x, hx⟩ : ∃ x : Coh, x = { c with wake := false } := ⟨_, rfl⟩
  have hquietx : x.quiet = true := by
    rw [hx]
    exact hquiet
  obtain ⟨hwait, htxns, -, hhome, hset, hflows, hsnoops, -, -, hhw, hsw⟩ := Coh.quiet_lists hquietx
  have hacks : x.deadAcks e = x := by
    unfold Coh.deadAcks
    simp only [htxns, List.filter_nil]
    cases x
    cases htxns
    cases hsnoops
    rfl
  have hsnoop : x.deadSnoops e = x := by
    unfold Coh.deadSnoops
    simp [hsnoops]
  have hhamper : x.hamperNext e = x := by
    unfold Coh.hamperNext
    simp [hhw]
  have hsnp : x.snpNext e = x := by
    unfold Coh.snpNext
    rw [hsw]
    cases x
    cases hsw
    rfl
  have hfinal : ({ x with wait := [] } : Coh) = x := by
    cases x
    cases hwait
    rfl
  unfold Coh.round
  rw [← hx] at hdead ⊢
  dsimp only
  rw [hdead, hacks, hsnoop, hflows]
  simp only [List.foldl_nil]
  rw [hhamper, hsnp, hhome]
  simp only [List.foldl_nil]
  rw [hset]
  simp only [List.foldl_nil]
  rw [htxns]
  simp only [List.foldl_nil]
  rw [hwait, hfinal]
  show ({ x with wait := x.wait ++ [] } : Coh) = x
  rw [hwait]
  exact hfinal

theorem State.runCoh_woken_dead {s : State} (hquiet : s.coh.quiet = true) (hretire : s.coh.retiring = []) (hfx : s.coh.fx = [])
    (hdead : (({ s.coh.woken with wake := false } : Coh).deadNodes s) = { s.coh.woken with wake := false }) :
    s.runCoh Coh.woken = { s with coh := Asleep s.coh } := by
  obtain ⟨-, -, hnode, hhome, hset, -⟩ := Coh.quiet_lists hquiet
  have hsettle : Coh.settle s settleRounds (Coh.woken s.coh) = Asleep s.coh := by
    have hround : (Coh.woken s.coh).round s = Asleep s.coh := Coh.round_of_dead (c := s.coh.woken) hquiet hdead
    unfold settleRounds
    rw [Coh.settle, if_pos (show s.coh.woken.wake = true from rfl), hround, Coh.settle_asleep _ _ _ rfl]
  exact State.runCoh_of_settle s Coh.woken _ hsettle hretire hhome hnode hset hfx

/-- Settles O20. -/
theorem nodesDie : Obligations.NodesDie := by
  unfold Obligations.NodesDie
  intro s n hself hin died
  refine ⟨fun hnew => ?_, fun hwalks hlines hquiet hretire hfx hdir hpress hhamper => ?_⟩
  · have hdied {i : Instr} (hexec : exec i s = .next (s.declareNode n.toNat)) : Does i s died :=
      Does.of_exec hexec (State.declareNode_spec hself hnew)
    refine ⟨fun v hserve hbit hkey hnode => ?_, fun hroute => ?_, fun x hx hlate => ?_⟩
    · refine hdied (congrArg Host.Outcome.next ((State.onReg_of_serving hserve _).trans ?_))
      unfold opGlbDeadCtl
      rw [hnode]
      exact if_pos (by simp [hbit, hkey])
    · exact hdied (congrArg Host.Outcome.next (opNodeTimeout_declares hin hroute))
    · exact hdied (congrArg Host.Outcome.next (opNodeTimeout_declares (noRoute := false) hin
        (List.any_eq_true.2 ⟨x, hx, decide_eq_true hlate⟩)))
  · have hdead : (({ s.coh.woken with wake := false } : Coh).deadNodes s) = { s.coh.woken with wake := false } :=
      Coh.deadNodes_of_empty hquiet hdir hpress hhamper (fun m hm => by
        rw [hwalks, List.mem_singleton] at hm
        rw [hm]
        exact hlines)
    have hrun := State.runCoh_woken_dead hquiet hretire hfx hdead
    obtain ⟨-, -, -, -, -, hflows, -⟩ := Coh.quiet_lists hquiet
    obtain ⟨u, hu⟩ : ∃ u : State, u = { s with coh := Asleep s.coh } := ⟨_, rfl⟩
    rw [← hu] at hrun
    have hulines : u.coh.deadLines u n.toNat = [] := by
      rw [hu]
      exact hlines
    have huflows : u.coh.flows = [] := by
      rw [hu]
      exact hflows
    have huwalks : u.deadWalks = [n.toNat] := by
      rw [hu]
      exact hwalks
    have hop : opDeadNodeWalk n s = ({ u with deadWalks := [] } : State).raise 102 (unitHub 0) := by
      unfold opDeadNodeWalk
      rw [if_pos (by simp [hwalks]), hrun]
      dsimp only
      rw [hulines, huflows, huwalks]
      simp
    refine Does.of_exec (congrArg Host.Outcome.next hop) ⟨rfl, State.raise_pend _ 102 _ (by decide), ?_⟩
    rw [hu]
    rfl

end Sys2Proof.Machine
end

section
/-! PROOFS. The posted-write queues (R271 to R283). -/

namespace Sys2Proof.Machine
open Sys2Proof

/-! ### An entry that issues -/

section
variable {s : State} {p : Port}

theorem pwq_setPort (s : State) (p q : Port) {f : PortSt → PortSt} (h : (f (s.port q)).pwq = (s.port q).pwq) :
    (s.setPort q f).pwq p = s.pwq p := by
  unfold State.pwq
  by_cases hqp : q = p
  · subst hqp
    rw [State.port_setPort, h]
  · rw [State.port_setPort_of_ne _ hqp]

/-- The queue without the entry that issues, its stream busy. -/
def Pwq.without (q : Pwq) (x : PwqEntry) : Pwq :=
  { q with head := q.head.filter (fun y => y.id != x.id), busy := q.busy ++ [(x.strm, x.id)] }

/-- The same, with what moves up. -/
def Pwq.issued (q : Pwq) (x : PwqEntry) : Pwq := (q.without x).settle

theorem Pwq.settle_busy (q : Pwq) : q.settle.busy = q.busy := by
  unfold Pwq.settle
  split <;> rfl

theorem Pwq.head_settle (q : Pwq) : q.head <+: q.settle.head := by
  unfold Pwq.settle
  split
  · exact List.prefix_append _ _
  · exact List.prefix_refl _

/-- The entry is on its way: its stream is busy, it has left the head, and only beats of the Headland have been sent. -/
structure Issued (s u : State) (p : Port) (x : PwqEntry) : Prop where
  busy : (u.pwq p).busy = (s.pwq p).busy ++ [(x.strm, x.id)]
  head : (s.pwq p).head.filter (fun y => y.id != x.id) <+: (u.pwq p).head
  sends : Sends s u []
  frame : u = { s with ports := u.ports, hdl := u.hdl, sent := u.sent }

theorem issued_setPwq (s : State) (p : Port) (x : PwqEntry) : Issued s (s.setPwq p (fun q => q.issued x)) p x := by
  have hpwq : (s.setPwq p (fun q => q.issued x)).pwq p = (s.pwq p).issued x := by
    unfold State.setPwq
    exact congrArg PortSt.pwq (s.port_setPort p _)
  refine { busy := ?_, head := ?_, sends := (List.append_nil _).symm, frame := rfl }
  · rw [hpwq]
    exact ((s.pwq p).without x).settle_busy
  · rw [hpwq]
    exact ((s.pwq p).without x).head_settle

theorem Issued.setPort {u : State} {x : PwqEntry} (h : Issued s u p x) (q : Port) {f : PortSt → PortSt}
    (hf : (f (u.port q)).pwq = (u.port q).pwq) : Issued s (u.setPort q f) p x where
  busy := by rw [pwq_setPort u p q hf, h.busy]
  head := by
    rw [pwq_setPort u p q hf]
    exact h.head
  sends := h.sends
  frame := congrArg (fun v : State => v.setPort q f) h.frame

theorem Issued.cross {u : State} {x : PwqEntry} (h : Issued s u p x) (a b : HdlUnit) (stile : Bool) (vcl : Fin 5) (cls : BitVec 2)
    (y : BitVec 160) (line : Option CodeLine) (mask : Option ByteMask) : Issued s (u.cross a b stile vcl cls y line mask) p x := by
  obtain ⟨hd, l, heq, hbeats⟩ := u.cross_eq a b stile vcl cls y line mask
  rw [heq]
  have hnone : l.filter (fun z => !isBeat z) = [] := List.filter_eq_nil_iff.mpr fun z hz => by simp [hbeats z hz]
  refine { busy := h.busy, head := h.head, sends := ?_, frame := congrArg (fun v : State => v.onHdl hd l) h.frame }
  show (u.sent ++ l).filter _ = _
  rw [List.filter_append, hnone, List.append_nil]
  exact h.sends

theorem Issued.sendTo {u : State} {x : PwqEntry} (h : Issued s u p x) (q : AgReq) (id : Nat) (sa : SysAddr) (v : HdlUnit) :
    Issued s (u.sendTo p q id sa v) p x := (h.cross _ _ _ _ _ _ _ _).setPort p rfl

theorem sameDev_sendTo (u : State) (q : AgReq) (id : Nat) (sa : SysAddr) (v : HdlUnit) : SameDev u (u.sendTo p q id sa v) :=
  (sameDev_cross u _ _ _ _ _ _ _ _).trans (sameDev_setPort _ p {})

/-- The oldest entry that may issue does. -/
theorem opPwqIssue_of_find {x : PwqEntry} {u : State} (hfind : (s.pwq p).head.find? (fun x => s.mayIssue p x) = some x)
    (hissue : s.issuePwq p x = some u) : opPwqIssue p s = u := by
  have hfirst : ∀ {l : List PwqEntry}, l.find? (fun x => s.mayIssue p x) = some x →
      l.findSome? (fun x => if s.mayIssue p x then s.issuePwq p x else none) = some u := by
    intro l
    induction l with
    | nil => exact fun h => nomatch h
    | cons y l ih =>
      intro h
      by_cases hy : s.mayIssue p y = true
      · rw [List.find?_cons_of_pos hy, Option.some.injEq] at h
        subst h
        simp [hy, hissue]
      · rw [List.find?_cons_of_neg hy] at h
        simp [hy, ih h]
  unfold opPwqIssue
  rw [hfirst hfind]
  rfl

/-- The entry as a request of its port. -/
def PwqEntry.req (x : PwqEntry) : AgReq :=
  { op := .store, cls := 2, tag := 0, ch := 0, addr := x.addr, posted := true,
    data := { bytes := lineBytes x.cl, mask := x.mask, poison := linePoison x.cl }, ord := true, strm := x.strm }

/-- The entry as its slice gets it. -/
def PwqEntry.sliceReq (x : PwqEntry) (p : Port) : Req :=
  { src := .pwq p x.strm, op := .store, line := lineOf x.addr, off := 0, cls := 2, posted := true, cl := x.cl, mask := x.mask,
    point := x.id, divert := x.divert }

/-- The entry as the owner of a window gets it. -/
def PwqEntry.devReq (x : PwqEntry) (p : Port) (w : BitVec 4) : DevReq :=
  { src := .agent p 0 x.id, kind := .dWrP, window := w, addr := x.addr.extractLsb' 0 36, sz := 7, data := x.req.data }

theorem pwqIssue_memory {x : PwqEntry} (hfind : (s.pwq p).head.find? (fun x => s.mayIssue p x) = some x) (hspace : spaceOf x.addr = .memory) :
    ∃ (u : State) (r : Req), exec (.pwqIssue p) s = .next ((u.arriveReq r).frontScan p) ∧ Issued s u p x ∧
      r.src = .pwq p x.strm ∧ r.op = .store ∧ r.line = lineOf x.addr ∧ r.cl = x.cl ∧ r.mask = x.mask ∧ r.posted = true ∧
      r.point = x.id := by
  obtain ⟨u, hu⟩ : ∃ u, u = (s.setPwq p (fun q => q.issued x)).sendTo p x.req x.id x.addr (.slice (sliceOf (lineOf x.addr))) := ⟨_, rfl⟩
  have hissued : Issued s u p x := hu ▸ (issued_setPwq s p x).sendTo _ _ _ _
  obtain ⟨r, hr⟩ : ∃ r, r = x.sliceReq p := ⟨_, rfl⟩
  have hissue : s.issuePwq p x = some (u.arriveReq r) := by
    unfold State.issuePwq
    dsimp only
    rw [hspace, hu, hr]
    rfl
  refine ⟨u, r, congrArg (fun t : State => Host.Outcome.next (t.frontScan p)) (opPwqIssue_of_find hfind hissue), hissued, ?_⟩
  rw [hr]
  exact ⟨rfl, rfl, rfl, rfl, rfl, rfl, rfl⟩

theorem pwqIssue_window {x : PwqEntry} (hfind : (s.pwq p).head.find? (fun x => s.mayIssue p x) = some x) {w : BitVec 4}
    (hspace : spaceOf x.addr = .mmio w) (hnode : nodeOf x.addr = s.node) (hstat : s.windowStat w = 0) :
    ∃ (u : State) (d : DevReq), exec (.pwqIssue p) s = .next (u.frontScan p) ∧ Issued s u p x ∧
      (u.port (Fin.ofNat 6 (s.ownerOf w.toNat))).dreqQ = (s.port (Fin.ofNat 6 (s.ownerOf w.toNat))).dreqQ ++ [d] ∧
      d.kind = .dWrP ∧ d.window = w ∧ d.addr = x.addr.extractLsb' 0 36 ∧ d.data.mask = x.mask := by
  obtain ⟨o, ho⟩ : ∃ o : Port, o = Fin.ofNat 6 (s.ownerOf w.toNat) := ⟨_, rfl⟩
  obtain ⟨s1, hs1⟩ : ∃ s1, s1 = s.setPwq p (fun q => q.issued x) := ⟨_, rfl⟩
  obtain ⟨s2, hs2⟩ : ∃ s2, s2 = (s1.sendTo p x.req x.id x.addr (.port o)).passDone p x.id false := ⟨_, rfl⟩
  obtain ⟨d, hd⟩ : ∃ d, d = x.devReq p w := ⟨_, rfl⟩
  have hissued : Issued s s2 p x := by
    rw [hs2, hs1]
    exact ((issued_setPwq s p x).sendTo _ _ _ _).setPort p rfl
  have hsame : SameDev s s2 := by
    rw [hs2, hs1]
    exact ((sameDev_setPort s p {}).trans (sameDev_sendTo _ _ _ _ _)).trans (sameDev_setPort _ p {})
  have hissue : s.issuePwq p x = some (s2.setPort o (fun y => { y with dreqQ := y.dreqQ ++ [d] })) := by
    have hstat1 : s1.windowStat w = 0 := by
      rw [hs1]
      exact hstat
    have hnode1 : nodeOf x.addr = s1.node := by
      rw [hs1]
      exact hnode
    have hown : s1.ownMmio p x.req x.id x.addr w = s2.setPort o (fun y => { y with dreqQ := y.dreqQ ++ [d] }) := by
      unfold State.ownMmio
      rw [hstat1]
      dsimp only
      rw [if_neg (by decide), hs2, hd, ho]
      subst hs1
      rfl
    have hdev : s.issuePwq p x = s1.toDev p x.req x.id x.addr := by
      unfold State.issuePwq
      dsimp only
      rw [hspace, hs1]
      rfl
    rw [hdev]
    unfold State.toDev
    rw [if_neg (not_not.2 hnode1), hspace]
    exact congrArg some hown
  refine ⟨_, d, congrArg (fun t : State => Host.Outcome.next (t.frontScan p)) (opPwqIssue_of_find hfind hissue),
    hissued.setPort o rfl, ?_, ?_⟩
  · rw [← ho, State.port_setPort, (hsame.port o).queue]
  · rw [hd]
    exact ⟨rfl, rfl, rfl, rfl⟩

/-! ### Visible stores and flushes -/

/-- A stream is free where its store is visible (R276). -/
theorem orderedWriteVisible_frees (strm : BitVec 4) : Does (.orderedWriteVisible p strm) s (fun t =>
    (∀ b, b ∈ (t.pwq p).busy ↔ b ∈ (s.pwq p).busy ∧ (b.1 = strm → ∃ o ∈ (s.port p).points, o.id = b.2)) ∧
    t = { s with ports := t.ports }) := by
  refine Does.of_exec rfl ⟨fun b => ?_, rfl⟩
  have hpwq : ((opOrderedVisible p strm s).pwq p).busy = (s.pwq p).busy.filter (fun b =>
      b.1 != strm || (s.port p).points.any (fun o => o.id == b.2)) := by
    unfold opOrderedVisible State.setPwq
    exact congrArg (fun x : PortSt => x.pwq.busy) (s.port_setPort p _)
  rw [hpwq, List.mem_filter]
  simp [imp_iff_not_or]

theorem pwqFlush_latches (hserve : Serving s) (hkind : s.kind p = .nonCaching) (hstate : s.pwr.st ≠ .fallowEntry) :
    Does (.agpPwqFlush p) s (fun t =>
      (∃ l, (t.pwq p).flush = some l ∧ ∀ x ∈ (s.pwq p).head ++ (s.pwq p).tail, x.id ∈ l) ∧ t = { s with ports := t.ports }) := by
  have hexec : exec (.agpPwqFlush p) s = .next (opPwqFlush p s) :=
    congrArg Host.Outcome.next ((State.onReg_of_serving hserve _).trans (if_neg hstate))
  have hop : opPwqFlush p s = s.setPwq p (fun q => { q with
      flush := some (((s.pwq p).busy.map (fun b => b.2)).filter (fun i => (s.port p).points.any (fun o => o.id == i)) ++
        q.head.map PwqEntry.id ++ q.midIds ++ q.tail.map PwqEntry.id) }) := if_pos (by simp [State.hasPwq, hkind])
  rw [hop] at hexec
  refine Does.of_exec hexec ⟨⟨_, congrArg (fun x : PortSt => x.pwq.flush) (s.port_setPort p _), fun x hx => ?_⟩, rfl⟩
  rcases List.mem_append.1 hx with hhead | htail
  · exact List.mem_append_left _ (List.mem_append_left _ (List.mem_append_right _ (List.mem_map_of_mem hhead)))
  · exact List.mem_append_right _ (List.mem_map_of_mem htail)

theorem pwqFlushDone_reports (hreg : Inv.registers s) (hflush : (s.pwq p).flush = some []) :
    Does (.pwqFlushDone p) s (fun t => (t.pwq p).flush = none ∧ t.rb (F.AGP_PWQ_STAT.DONE p) = true ∧ Raised t 105 ∧
      t = { s with regs := t.regs, ports := t.ports, mon := t.mon }) := by
  obtain ⟨u, hu⟩ : ∃ u, u = s.setPwq p (fun q => { q with flush := none }) := ⟨_, rfl⟩
  have hpwq : (u.pwq p).flush = none := by
    rw [hu]
    exact congrArg (fun x : PortSt => x.pwq.flush) (s.port_setPort p _)
  have hureg : Inv.registers u := by
    rw [hu]
    exact hreg
  have hframe : u = { s with ports := u.ports } := by rw [hu]; rfl
  have hop : opPwqFlushDone p s = (u.wb (F.AGP_PWQ_STAT.DONE p) true).raise 105 (unitPort p) := by
    unfold opPwqFlushDone
    rw [hflush, hu]
  refine Does.of_exec (congrArg Host.Outcome.next hop) ⟨hpwq, ?_, State.raise_pend _ 105 _ (by decide), ?_⟩
  · exact State.rb_wb_same hureg (F.AGP_PWQ_STAT.DONE p) true (by show 18 + 1 ≤ 32; omega) rfl
  · rw [hframe]
    rfl

end

end Sys2Proof.Machine
end

section
/-! PROOFS. The spilled queues (R153 to R156, R277). -/

namespace Sys2Proof.Machine
open Sys2Proof

/-! ### The event queue while reports come in -/

/-- From `e` to `e'` events may have come in: with a middle they join the tail, and the middle stays. -/
structure Events.Grown (e e' : Events) : Prop where
  midAt : e'.midAt = e.midAt := by rfl
  midCount : e'.midCount = e.midCount := by rfl
  head : e.midCount ≠ 0 → e'.head = e.head := by exact fun _ => rfl
  tail : e.midCount ≠ 0 → e.tail <+: e'.tail := by exact fun _ => List.prefix_refl _

theorem Events.Grown.trans {e e' e'' : Events} (h : e.Grown e') (h' : e'.Grown e'') : e.Grown e'' where
  midAt := h'.midAt.trans h.midAt
  midCount := h'.midCount.trans h.midCount
  head := fun hne => (h'.head (by rw [h.midCount]; exact hne)).trans (h.head hne)
  tail := fun hne => (h.tail hne).trans (h'.tail (by rw [h.midCount]; exact hne))

theorem Events.grown_push (e : Events) (x : EvEntry) : e.Grown (Events.settle { e with tail := e.tail ++ [x] }) := by
  unfold Events.settle
  split
  · next hzero => exact { head := fun hne => absurd hzero hne, tail := fun hne => absurd hzero hne }
  · exact { tail := fun _ => List.prefix_append _ _ }

theorem Monitor.grown_raise (m : Monitor) (e : MonEnv) (ev unit : Nat) (seq : Word) : m.ev.Grown (m.raise e ev unit seq).1.ev := by
  unfold Monitor.raise
  split
  · exact {}
  · extract_lets src ev1 r full entry ev2 o2 want waits ev3 disc first o3
    have h1 : m.ev.Grown ev1 := {}
    have h2 : ev1.Grown ev2 := by
      unfold ev2
      split
      · split
        · exact {}
        · exact Events.grown_push _ _
      · exact {}
    have h3 : ev2.Grown ev3 := by
      unfold ev3
      split
      · exact {}
      · exact {}
    split
    · exact h1
    · exact (h1.trans h2).trans h3

theorem Monitor.grown_occ (m : Monitor) (e : MonEnv) (o : Occ) : m.ev.Grown (m.occ e o).1.ev := by
  cases o with
  | raise ev unit seq => exact m.grown_raise e ev unit seq
  | log ev unit raised detail => exact {}
  | count sel n =>
    show m.ev.Grown (m.count sel n).1.ev
    unfold Monitor.count
    dsimp only
    split
    · exact {}
    · split
      · exact {}
      · exact {}

theorem Monitor.grown_run (e : MonEnv) : ∀ (n : Nat) (l : List Occ) (m : Monitor), m.ev.Grown (Monitor.run e n l m).ev
  | 0, _, _ => by
    unfold Monitor.run
    exact {}
  | _ + 1, [], _ => by
    unfold Monitor.run
    exact {}
  | n + 1, o :: l, m => by
    unfold Monitor.run
    exact (m.grown_occ e o).trans (Monitor.grown_run e n _ _)

theorem State.grown_report (s : State) (l : List Occ) : s.mon.ev.Grown (s.report l).mon.ev := Monitor.grown_run _ _ _ _

theorem State.count_grown (s : State) (c n : Nat) : ∃ m : Monitor, s.count c n = { s with mon := m } ∧ s.mon.ev.Grown m.ev := by
  unfold State.count
  split
  · exact ⟨s.mon, rfl, {}⟩
  · exact ⟨_, rfl, s.grown_report _⟩

/-! ### Lines on their way to and from the memories -/

/-- From `c` to `d` lines have entered the queues of the channels and memory ports, with their counts. -/
structure Coh.Moves (c d : Coh) : Prop where
  same : d = { c with memQ := d.memQ, cmiQ := d.cmiQ, ddr := d.ddr, sram := d.sram, cmiRank := d.cmiRank, fx := d.fx }
  counts : ∃ l : List (Nat × Nat), d.fx = c.fx ++ l.map (fun x => Fx.count x.1 x.2)

section
variable {c d e : Coh}

theorem Coh.Moves.refl (c : Coh) : c.Moves c := ⟨rfl, [], (List.append_nil _).symm⟩

theorem Coh.Moves.trans (h : c.Moves d) (h' : d.Moves e) : c.Moves e := by
  obtain ⟨l, hl⟩ := h.counts
  obtain ⟨l', hl'⟩ := h'.counts
  refine ⟨?_, l ++ l', by rw [hl', hl, List.map_append, List.append_assoc]⟩
  rw [h'.same, h.same]

theorem Coh.moves_ctr (c : Coh) (sel n : Nat) : c.Moves (c.ctr sel n) := by
  unfold Coh.ctr
  split
  · exact .refl c
  · exact ⟨rfl, [(sel, n)], rfl⟩

/-- The engine with other queues and memories. -/
def Coh.moved (c : Coh) (mq : Vector (List PendRead) 2) (cq : Vector (List PendRead) 8) (ddr : Vector (List (Nat × Codeword)) 2)
    (sram : Vector (List (Nat × Codeword)) 8) (rank : Vector Nat 8) : Coh :=
  { c with memQ := mq, cmiQ := cq, ddr := ddr, sram := sram, cmiRank := rank }

theorem Coh.moves_moved (c : Coh) (mq : Vector (List PendRead) 2) (cq : Vector (List PendRead) 8) (ddr : Vector (List (Nat × Codeword)) 2)
    (sram : Vector (List (Nat × Codeword)) 8) (rank : Vector Nat 8) : c.Moves (c.moved mq cq ddr sram rank) :=
  ⟨rfl, [], (List.append_nil _).symm⟩

theorem Coh.moves_writeMem (c : Coh) (l : LineAddr) (cl : CodeLine) : c.Moves (c.writeMem l cl) :=
  (c.moves_moved (vmod c.memQ (memOf l) (fun q => captureReads q (memIndex l) (c.rawMem (memOf l) (memIndex l)))) c.cmiQ
    (vmod c.ddr (memOf l) (fun d => putLine d (memIndex l) cl)) c.sram c.cmiRank).trans (Coh.moves_ctr _ (ctrSel 4 (memOf l) 0x11) 1)

theorem Coh.moves_writeSlot (c : Coh) (s : State) (k : Nat) (cl : CodeLine) : c.Moves (c.writeSlot s k cl) :=
  (c.moves_moved c.memQ (vmod c.cmiQ (s.chan (slotSlice k)) (fun q => captureReads q k (c.rawSlot s k))) c.ddr
    (vmod c.sram (s.chan (slotSlice k)) (fun m => putLine m (slotIndex s.ch4 s.sets k) cl)) c.cmiRank).trans
      (Coh.moves_ctr _ (ctrSel 3 (s.chan (slotSlice k)) 0x11) 1)

theorem Coh.moves_readBurst (c : Coh) (s : State) (k : Nat) : c.Moves (c.readBurst s k) := by
  unfold Coh.readBurst
  extract_lets ch r c1
  have h1 : c.Moves c1 := by
    unfold c1
    split
    · exact .refl c
    · exact (c.moves_moved c.memQ c.cmiQ c.ddr c.sram (vset c.cmiRank ch r)).trans (Coh.moves_ctr _ (ctrSel 3 ch 0x12) 1)
  exact h1.trans (c1.moves_ctr _ _)

theorem Coh.moves_queueSlot (c : Coh) (s : State) (k : Nat) (l : LineAddr) (cont : Cont) (cls : BitVec 2) (top : Bool) :
    c.Moves (c.queueSlot s k l cont cls top) := by
  obtain ⟨d, hd⟩ : ∃ d, d = c.moved c.memQ (vmod c.cmiQ (s.chan (slotSlice k)) (fun q =>
    q ++ [{ key := k, line := l, cont := cont, cls := cls, top := top }])) c.ddr c.sram c.cmiRank := ⟨_, rfl⟩
  have hqueue : c.queueSlot s k l cont cls top = d.readBurst s k := by
    rw [hd]
    rfl
  have hmoved : c.Moves d := hd ▸ c.moves_moved _ _ _ _ _
  rw [hqueue]
  exact hmoved.trans (d.moves_readBurst s k)

theorem Coh.moves_foldl {α : Type} {f : Coh → α → Coh} (hf : ∀ (c : Coh) (a : α), c.Moves (f c a)) (l : List α) (c : Coh) :
    c.Moves (l.foldl f c) :=
  foldl_keeps (Q := fun d => c.Moves d) (.refl c) fun d a hd => hd.trans (hf d a)

end

theorem foldl_counts (l : List (Nat × Nat)) (s : State) : ∃ m : Monitor,
    (l.map (fun x => Fx.count x.1 x.2)).foldl applyFx s = { s with mon := m } ∧ s.mon.ev.Grown m.ev := by
  induction l generalizing s with
  | nil => exact ⟨s.mon, rfl, {}⟩
  | cons x l ih =>
    obtain ⟨m, hm, hgrown⟩ := s.count_grown x.1 x.2
    obtain ⟨m', hm', hgrown'⟩ := ih ({ s with mon := m })
    refine ⟨m', ?_, hgrown.trans hgrown'⟩
    show (l.map (fun x => Fx.count x.1 x.2)).foldl applyFx (s.count x.1 x.2) = _
    rw [hm, hm']

/-- An engine that had nothing to do and only moves lines changes their queues and the status. -/
theorem State.runCoh_moves {s : State} {c : Coh} {f : Coh → Coh} (hquiet : c.quiet = true) (hretire : c.retiring = []) (hfx : c.fx = [])
    (hdead : s.deadNodes = []) (h : c.Moves (f s.coh)) : ∃ m : Monitor,
    s.runCoh f = { s with coh := { f s.coh with wake := false, fx := [] }, mon := m } ∧ s.mon.ev.Grown m.ev := by
  obtain ⟨l, hl⟩ := h.counts
  obtain ⟨hrests, hnode⟩ := Coh.rests_of_quiet hquiet
  have hrests' : (f s.coh).Rests := by
    rw [h.same]
    exact hrests
  have hnode' : (f s.coh).nodeTx = [] := by
    rw [h.same]
    exact hnode
  have hretire' : (f s.coh).retiring = [] := by
    rw [h.same]
    exact hretire
  rw [State.runCoh_rests hrests' hnode' hretire' hdead, hl, hfx, List.nil_append]
  exact foldl_counts l _

/-! ### The event queue -/

section
variable {s : State}

theorem spillEvents_writes (hmem : Inv.memory s) (hidle : Idle s) (htail : 12 ≤ s.mon.ev.tail.length) (hroom : s.mon.ev.midCount + 8 ≤ 65536)
    (hmid : 0 < s.mon.ev.midCount) : Does (.spillBatchWrite .event) s (fun t =>
      t.mon.ev.midCount = s.mon.ev.midCount + 8 ∧ s.mon.ev.tail.drop 8 <+: t.mon.ev.tail ∧
      t.coh.rawMem (memOf (s.evLine (s.mon.ev.midAt + s.mon.ev.midCount))) (memIndex (s.evLine (s.mon.ev.midAt + s.mon.ev.midCount))) =
        evBatch (s.mon.ev.tail.take 8) ∧ t = { s with coh := t.coh, mon := t.mon }) := by
  obtain ⟨hquiet, hretire, hfx, hdead⟩ := hidle
  obtain ⟨line, hline⟩ : ∃ line, line = s.evLine (s.mon.ev.midAt + s.mon.ev.midCount) := ⟨_, rfl⟩
  obtain ⟨m, hrun, hgrown⟩ := State.runCoh_moves (f := fun c => c.writeMem line (evBatch (s.mon.ev.tail.take 8))) hquiet hretire hfx hdead
    (Coh.moves_writeMem _ _ _)
  obtain ⟨c, hc⟩ : ∃ c : Coh, c = { s.coh.writeMem line (evBatch (s.mon.ev.tail.take 8)) with wake := false, fx := [] } := ⟨_, rfl⟩
  have hraw : c.rawMem (memOf line) (memIndex line) = evBatch (s.mon.ev.tail.take 8) := by
    rw [hc]
    exact (Coh.rawMem_writeMem hmem.1 line (evBatch (s.mon.ev.tail.take 8)) _ _).trans (if_pos ⟨rfl, rfl⟩)
  obtain ⟨e, he⟩ : ∃ e : Events, e = { m.ev with tail := m.ev.tail.drop 8, midCount := m.ev.midCount + 8 } := ⟨_, rfl⟩
  obtain ⟨u, hu⟩ : ∃ u : State, u = { s with coh := c, mon := { m with ev := e } } := ⟨_, rfl⟩
  have hop : s.spillEvents = if s.mon.ev.midCount ≤ 49152 ∧ 49152 < s.mon.ev.midCount + 8 then u.raise 9 unitRegs else u := by
    unfold State.spillEvents
    dsimp only
    rw [if_neg (by simp; omega), ← hline, hrun, ← hc, hu, he]
    rfl
  have hcount : e.midCount = s.mon.ev.midCount + 8 := by rw [he, ← hgrown.midCount]
  have htail' : s.mon.ev.tail.drop 8 <+: e.tail := by
    rw [he]
    exact (hgrown.tail (by omega)).drop 8
  have hthen : ∃ m', s.spillEvents = { s with coh := c, mon := m' } ∧ e.Grown m'.ev := by
    have hev : u.mon.ev = e := by rw [hu]
    rw [hop]
    split
    · refine ⟨(u.raise 9 unitRegs).mon, ?_, hev ▸ u.grown_report [.raise 9 unitRegs noSeq]⟩
      rw [hu]
      rfl
    · refine ⟨u.mon, ?_, hev ▸ {}⟩
      rw [hu]
  obtain ⟨m', heq, hgrown'⟩ := hthen
  rw [← hline]
  exact Does.of_exec (congrArg Host.Outcome.next heq)
    ⟨hgrown'.midCount.trans hcount, htail'.trans (hgrown'.tail (by omega)), hraw, rfl⟩

/-- The entries of an unmarked line go to the head in order. -/
theorem foldl_refillEvent {cl : CodeLine} (hclean : linePoison cl = 0) (a : LineAddr) (l : List Nat) (s : State) :
    l.foldl (State.refillEvent cl a) s =
      s.setEv (fun e => { e with head := e.head ++ l.map (fun i => evOfBits ((lineBytes cl).extractLsb' (128 * i) 128)) }) := by
  induction l generalizing s with
  | nil =>
    rw [List.foldl_nil]
    unfold State.setEv State.setMon
    simp
  | cons i l ih =>
    have hone : State.refillEvent cl a s i =
        s.setEv (fun e => { e with head := e.head ++ [evOfBits ((lineBytes cl).extractLsb' (128 * i) 128)] }) := by
      unfold State.refillEvent
      dsimp only
      rw [hclean]
      simp
    rw [List.foldl_cons, hone, ih]
    unfold State.setEv State.setMon
    simp

theorem refillEvents_reads (hidle : Idle s) {cl : CodeLine}
    (hread : s.coh.readMem s (s.evLine s.mon.ev.midAt) = (cl, s.coh.ctr (ctrSel 4 (memOf (s.evLine s.mon.ev.midAt)) 0x10)))
    (hclean : linePoison cl = 0) (hmid : 8 < s.mon.ev.midCount) (hhead : s.mon.ev.head.length ≤ 8) :
    Does (.spillBatchRead .event) s (fun t => t.mon.ev.midCount = s.mon.ev.midCount - 8 ∧
      t.mon.ev.head = s.mon.ev.head ++ (List.range 8).map (fun i => evOfBits ((lineBytes cl).extractLsb' (128 * i) 128)) ∧
      t = { s with coh := Asleep s.coh, mon := t.mon }) := by
  obtain ⟨hquiet, hretire, hfx, hdead⟩ := hidle
  obtain ⟨d, hd⟩ : ∃ d, d = s.coh.ctr (ctrSel 4 (memOf (s.evLine s.mon.ev.midAt)) 0x10) := ⟨_, rfl⟩
  rw [← hd] at hread
  obtain ⟨m, hrun, hgrown⟩ := State.runCoh_moves (s := { s with coh := d }) (f := fun c => c) hquiet hretire hfx hdead
    (show s.coh.Moves d from hd ▸ Coh.moves_ctr _ _ _)
  have hasleep : ({ d with wake := false, fx := [] } : Coh) = Asleep s.coh := by
    rw [hd, Coh.ctr_eq]
    unfold Asleep
    rw [← hfx]
  have hrun' : ({ s with coh := d } : State).runCoh (fun c => c) = { s with coh := Asleep s.coh, mon := m } :=
    hrun.trans (congrArg (fun c : Coh => ({ s with coh := c, mon := m } : State)) hasleep)
  have hmid' : m.ev.midCount = s.mon.ev.midCount := hgrown.midCount
  have hhead' : m.ev.head = s.mon.ev.head := hgrown.head (by show s.mon.ev.midCount ≠ 0; omega)
  have hmin : min 8 s.mon.ev.midCount = 8 := by omega
  obtain ⟨e, he⟩ : ∃ e : Events, e = { m.ev with
    midAt := (m.ev.midAt + 8) % 65536
    midCount := m.ev.midCount - 8
    head := m.ev.head ++ (List.range 8).map (fun i => evOfBits ((lineBytes cl).extractLsb' (128 * i) 128)) } := ⟨_, rfl⟩
  have hecount : e.midCount = s.mon.ev.midCount - 8 := by rw [he, ← hmid']
  have hehead : e.head = s.mon.ev.head ++ (List.range 8).map (fun i => evOfBits ((lineBytes cl).extractLsb' (128 * i) 128)) := by
    rw [he, ← hhead']
  have hsettle : e.settle = e := by
    unfold Events.settle
    exact if_neg (by omega)
  have hop : s.refillEvents = ({ s with coh := Asleep s.coh, mon := { m with ev := e.settle } } : State) := by
    unfold State.refillEvents
    dsimp only
    rw [if_neg (by omega), hread, hmin]
    dsimp only
    rw [hrun', foldl_refillEvent hclean, he]
    rfl
  rw [hsettle] at hop
  exact Does.of_exec (congrArg Host.Outcome.next hop) ⟨hecount, hehead, rfl⟩

/-! ### The posted-write queues -/

/-- Items of a hub that cross the Headland leave everything else. -/
theorem State.crossItem_eq (s : State) (a b : HdlUnit) (vcl : Fin 5) (cls : BitVec 2) (line : Option CodeLine) :
    ∃ h l n, s.crossItem a b vcl cls line = { s with hdl := h, sent := l, freeCtr := n } := by
  unfold State.crossItem
  split
  · obtain ⟨h, l, heq, -⟩ := ({ s with freeCtr := s.freeCtr + 1 } : State).cross_eq a b false vcl cls (Config.itemHeader s.freeCtr) line none
    exact ⟨h, _, _, heq⟩
  · exact ⟨s.hdl, s.sent, s.freeCtr, rfl⟩

/-- From `s` to `t` items have crossed the Headland. -/
def Crossed (s t : State) : Prop := ∃ h l n, t = { s with hdl := h, sent := l, freeCtr := n }

theorem Crossed.crossItem {s t : State} (h : Crossed s t) (a b : HdlUnit) (vcl : Fin 5) (cls : BitVec 2) (line : Option CodeLine) :
    Crossed s (t.crossItem a b vcl cls line) := by
  obtain ⟨hd, l, n, ht⟩ := h
  obtain ⟨hd', l', n', heq⟩ := t.crossItem_eq a b vcl cls line
  exact ⟨hd', l', n', by rw [heq, ht]⟩

theorem crossed_foldl {α : Type} {f : State → α → State} (hf : ∀ s t a, Crossed s t → Crossed s (f t a)) (l : List α) (s : State) :
    Crossed s (l.foldl f s) := foldl_keeps (Q := Crossed s) ⟨s.hdl, s.sent, s.freeCtr, rfl⟩ fun t a ht => hf s t a ht

variable {p : Port}

/-- The batch crosses, and the engine only moves its lines: the port is as it was. -/
theorem State.port_moved {t : State} {f : Coh → Coh} (hidle : Idle s) (hcross : Crossed s t)
    (hmoves : ∀ c : Coh, c.Moves (f c)) (q : Port) : (t.runCoh f).port q = s.port q := by
  obtain ⟨h, m, n, ht⟩ := hcross
  obtain ⟨hquiet, hretire, hfx, hdead⟩ := hidle
  have hcoh : t.coh = s.coh := by rw [ht]
  have hnodes : t.deadNodes = [] := by rw [ht]; exact hdead
  have hports : t.port q = s.port q := by rw [ht]; rfl
  obtain ⟨mon, hrun, -⟩ := State.runCoh_moves (f := f) hquiet hretire hfx hnodes (hcoh ▸ hmoves t.coh)
  rw [hrun]
  exact hports

theorem State.pwqHigh_ports (s : State) (p : Port) (was : Nat) : (s.pwqHigh p was).ports = s.ports := by
  unfold State.pwqHigh
  dsimp only
  split <;> rfl

theorem spillPwq_moves (hidle : Idle s) (htail : 24 ≤ (s.pwq p).tail.length) (hmid : (s.pwq p).midIds ≠ [])
    (hroom : (s.pwq p).midIds.length + 8 ≤ s.pwqShare p) : Does (.spillBatchWrite (.pwq p)) s (fun t =>
      (t.pwq p).tail = (s.pwq p).tail.drop 8 ∧ (t.pwq p).midIds = (s.pwq p).midIds ++ ((s.pwq p).tail.take 8).map PwqEntry.id ∧
      (t.pwq p).head = (s.pwq p).head) := by
  refine Does.of_exec rfl ?_
  show ((s.spillPwq p).pwq p).tail = _ ∧ ((s.spillPwq p).pwq p).midIds = _ ∧ ((s.spillPwq p).pwq p).head = _
  unfold State.spillPwq
  extract_lets q cap put batch sent s1 s2
  rw [if_neg (by
    have hne : q.midIds.isEmpty = false := by simpa using hmid
    have hlen : ¬q.tail.length < 24 := Nat.not_lt.2 htail
    have hcap : ¬cap < q.midIds.length + 8 := Nat.not_lt.2 hroom
    simp [hne, hlen, hcap])]
  have hput : ∀ (c : Coh) (x : PwqEntry × Nat), c.Moves (put c x) := fun c x =>
    (Coh.moves_writeSlot _ _ _ _).trans (Coh.moves_writeSlot _ _ _ _)
  have hport : s1.port p = s.port p :=
    State.port_moved hidle (crossed_foldl (f := sent) (fun _ _ _ h => (h.crossItem _ _ _ _ _).crossItem _ _ _ _ _) _ s)
      (fun c => Coh.moves_foldl hput _ c) p
  have h2 : s2.pwq p = { (s.pwq p) with tail := (s.pwq p).tail.drop 8, midIds := (s.pwq p).midIds ++ batch.map PwqEntry.id } := by
    have h := congrArg PortSt.pwq (s1.port_setPort p (fun x => { x with pwq := { x.pwq with
      tail := x.pwq.tail.drop 8
      midIds := x.pwq.midIds ++ batch.map PwqEntry.id } }))
    rw [hport] at h
    exact h
  obtain ⟨m, hm, -⟩ := s2.count_eq (ordCtr p 5) 8
  have hfinal : ((s2.count (ordCtr p 5) 8).pwqHigh p q.midIds.length).pwq p = s2.pwq p := by
    have hports : ((s2.count (ordCtr p 5) 8).pwqHigh p q.midIds.length).ports = s2.ports := by
      rw [State.pwqHigh_ports, hm]
    exact congrArg (fun v : Vector PortSt 6 => (v.get p).pwq) hports
  rw [hfinal, h2]
  exact ⟨rfl, rfl, rfl⟩

theorem refillPwq_reads (hidle : Idle s) (hmid : (s.pwq p).midIds.drop (s.pwq p).back.length ≠ [])
    (hroom : (s.pwq p).head.length + (s.pwq p).back.length ≤ 24) : Does (.spillBatchRead (.pwq p)) s (fun t =>
      (t.pwq p).back = (s.pwq p).back ++ (((s.pwq p).midIds.drop (s.pwq p).back.length).take 8).map (fun _ => (none, none)) ∧
      (t.pwq p).midIds = (s.pwq p).midIds ∧ (t.pwq p).head = (s.pwq p).head) := by
  refine Does.of_exec rfl ?_
  show ((s.refillPwq p).pwq p).back = _ ∧ ((s.refillPwq p).pwq p).midIds = _ ∧ ((s.refillPwq p).pwq p).head = _
  unfold State.refillPwq
  extract_lets q batch cap s1 at_ sent
  rw [if_neg (by
    have hne : batch.isEmpty = false := by
      have : ¬batch = [] := by simpa [batch] using hmid
      simpa using this
    have hlen : ¬24 < q.head.length + q.back.length := Nat.not_lt.2 hroom
    simp [hne, hlen])]
  obtain ⟨u, hu⟩ : ∃ u, u = s.setPwq p (fun r => { r with back := r.back ++ batch.map (fun _ => (none, none)) }) := ⟨_, rfl⟩
  obtain ⟨m, hm, -⟩ := u.count_eq (ordCtr p 6) batch.length
  have hs1 : s1 = { u with mon := m } := by
    rw [← hm, hu]
  have hidle1 : Idle s1 := by
    rw [hs1, hu]
    exact hidle
  have hread : ∀ (c : Coh) (x : Nat × Nat), c.Moves (c.readSpill s p (at_ x) x.1) := fun c x =>
    (Coh.moves_queueSlot _ _ _ _ _ _ _).trans (Coh.moves_queueSlot _ _ _ _ _ _ _)
  have hport := State.port_moved (f := fun c => batch.zipIdx.foldl (fun c x => c.readSpill s p (at_ x) x.1) c) hidle1
    (crossed_foldl (f := sent) (fun _ _ _ h => (h.crossItem _ _ _ _ _).crossItem _ _ _ _ _) batch.zipIdx s1)
    (fun c => Coh.moves_foldl hread _ c) p
  have h1 : s1.port p = { (s.port p) with pwq := { (s.port p).pwq with
      back := (s.port p).pwq.back ++ batch.map (fun _ => (none, none)) } } := by
    rw [hs1, hu]
    exact s.port_setPort p _
  unfold State.pwq
  rw [hport, h1]
  exact ⟨rfl, rfl, rfl⟩

end

/-- Settles O16. -/
theorem orderedWritesAndSpills : Obligations.OrderedWritesAndSpills := by
  unfold Obligations.OrderedWritesAndSpills
  refine ⟨fun s p hinv => ?_, fun s hinv hidle => ?_⟩
  · obtain ⟨-, hreg, -⟩ := hinv
    refine ⟨fun x hfind => ?_, orderedWriteVisible_frees, pwqFlush_latches, pwqFlushDone_reports hreg⟩
    refine ⟨fun hspace => ?_, fun w hspace hnode hstat => ?_⟩
    · obtain ⟨u, r, hexec, hissued, hr⟩ := pwqIssue_memory hfind hspace
      exact ⟨u, r, hexec, ⟨hissued.busy, hissued.head, hissued.sends, hissued.frame⟩, hr⟩
    · obtain ⟨u, d, hexec, hissued, hd⟩ := pwqIssue_window hfind hspace hnode hstat
      exact ⟨u, d, hexec, ⟨hissued.busy, hissued.head, hissued.sends, hissued.frame⟩, hd⟩
  · obtain ⟨hmem, -⟩ := hinv
    exact ⟨spillEvents_writes hmem hidle, fun cl hread hclean hmid hhead => refillEvents_reads hidle hread hclean hmid hhead,
      fun p => ⟨spillPwq_moves hidle, refillPwq_reads hidle⟩⟩

end Sys2Proof.Machine
end

section
/-! PROOFS. FALLOW entry with a locked snoop filter set (R213, Table 14.5). -/

namespace Sys2Proof.Machine
open Sys2Proof

/-- The snoop filter entry of the counterexample: in slice 3, set 4, way 5. -/
def lockedKey : Nat := snfKey 3 4 5

/-- Step 4 of FALLOW entry with one entry that names port 0, in a set that is locked although no purge of it is under way. -/
def lockedEntry : State :=
  let s := State.reset
  let c := s.coh.putSnf lockedKey { tag := 7, ast := aOW, pres := portBit 0, nst := 2, ownp := 0, ref := false, par := 0 }
  { s with
    img := { s.img with kinds := vset s.img.kinds 0 .caching }
    pwr := { s.pwr with st := .fallowEntry, step := 4 }
    coh := { c with lockedSnf := [lockedKey / 16] } }

theorem lockedEntry_inv : Inv lockedEntry := by decide +kernel

theorem lockedEntry_idle : Idle lockedEntry := by decide

theorem lockedEntry_named : lockedEntry.coh.named = [lockedKey] := by decide

theorem lockedEntry_ports : (lockedEntry.coh.snfAt lockedKey).ports = [0] := by decide

theorem lockedEntry_accepts : lockedEntry.accepts 0 = true := by decide

theorem lockedEntry_sound : Sound lockedEntry (snfLine lockedKey (lockedEntry.coh.snfAt lockedKey)) := by decide +kernel

/-- The walk passes over the entry of a locked set: no flow begins. -/
theorem lockedEntry_walk : (opFallowStep lockedEntry).coh.flows = [] := by decide +kernel

/-- Refutes O56: step 4 of FALLOW entry starts no flow for the entry of a locked snoop filter set, and nothing in the statement excludes
a lock that no purge holds. -/
theorem not_restAndFallow : ¬ Obligations.RestAndFallow := by
  intro h
  obtain ⟨-, hfallow⟩ := h
  obtain ⟨-, -, -, hentry, -⟩ := hfallow lockedEntry lockedEntry_inv
  obtain ⟨-, -, -, hsnoop, -⟩ := hentry rfl
  obtain ⟨t, hexec, -, -, f, hf, -⟩ := hsnoop rfl lockedEntry_idle lockedKey lockedEntry_named 0 lockedEntry_ports lockedEntry_accepts
    lockedEntry_sound
  have ht : t = opFallowStep lockedEntry := (Host.Outcome.next.inj hexec).symm
  rw [ht, lockedEntry_walk] at hf
  exact absurd hf List.not_mem_nil

end Sys2Proof.Machine
end
